-- ==== Sys2Proof/Word.lean ====
section
/-! DEFINITION. The word types of the Falxel model and nothing else: bytes, FP32 bit patterns, descriptors. -/

namespace Sys2Proof

/-- One byte. -/
abbrev Byte := BitVec 8

/-- The 32 bits of an FP32 value (R35, Table 2.2). -/
abbrev F32 := BitVec 32

/-- A 64-byte descriptor, bit [7:0] in byte 0 (R108). -/
abbrev Desc := BitVec 512

end Sys2Proof
end

