-- ==== Sys2Proof/Types.lean ====
section
/-! DEFINITION. The record types that commands carry as operands and that the state holds:
packets, queue entries, mailbox headers and blocks, placement images, group messages. Types only. -/

namespace Sys2Proof

/-! ## Regions, roles and groups (chapter 01) -/

/-- Role of a tenant region (Table 1.2, R12). -/
inductive Role where
  | prompt | generation | cache
deriving DecidableEq, Repr

/-- Member step states (Table 1.4); `idle` is a region whose step has not started. -/
inductive MState where
  | idle | running | drained | readySent | inDoubt | committed | discarded
deriving DecidableEq, Repr

/-- RUN_STATE codes of Table 11.8 and the two further region states of Table 11.17. -/
inductive RState where
  | running | heldUndelivered | stopped | degraded | resetting | empty | loaded
deriving DecidableEq, Repr

/-- What the group messages STEP_READY, STEP_FAIL and STEP_QUERY carry (section "Group agreement"). -/
structure StepMsg where
  group : Nat
  step : Nat
  attempt : Nat
  rank : Nat
deriving DecidableEq, Repr

/-- Answer to a STEP_QUERY (R24). -/
inductive QueryAnswer where
  | committed | discarded
deriving DecidableEq, Repr

/-- One entry of a region's peer table (R217, GROUP_SET of Table 11.15). -/
structure Peer where
  device : Nat
  region : Nat
  member : Bool
  rank : Nat
deriving DecidableEq, Repr

/-! ## Packets (chapter 07) -/

/-- A mesh packet: the header of Table 7.3 and its payload.  `transport` is header bits [255:0].  `port` and `got` are no part of
the packet: the input port at which its destination took it and when, by which R440's ties are settled. -/
structure Packet where
  typ : Nat
  vc : Nat
  epoch : Nat
  region : Nat
  gen : Nat
  dstKind : Nat
  dst : Nat
  srcLt : Nat
  srcDev : Nat
  flow : Nat
  transfer : Nat
  seq : Nat
  chan : Nat
  last : Bool
  len : Nat
  dstAddr : Nat
  injTime : Nat
  hops : Nat
  transport : BitVec 256
  payload : List Byte
  port : Nat := 0
  got : Nat := 0
deriving DecidableEq, Repr

/-- A packet on Tarn with its fabric prefix (Table 9.5), and in a gateway the port it came by (12 for none), the fabric lane
it travelled in, the fabric epoch stamped when it entered (R260), when it came (R245), and the flit of its stream in which it began (R249). -/
structure FabPacket where
  pver : Nat
  destDev : Nat
  destInc : Nat
  srcInc : Nat
  fage : Nat
  fhops : Nat
  port : Nat
  flane : Nat
  epoch : Nat
  pkt : Packet
  since : Nat := 0
  at_ : Nat := 0
deriving DecidableEq, Repr

/-- A Tarn link flit: the header of Table 9.4 and 244 payload bytes. -/
structure Flit where
  ftype : Nat
  vc : Nat
  flane : Nat
  seq : Nat
  ackValid : Bool
  ackSeq : Nat
  firstOff : Nat
  xoff : Nat
  version : Nat
  payload : List Byte
deriving DecidableEq, Repr

/-- The training words of a TRAIN flit (Table 9.8). -/
structure TrainWords where
  dev : Nat
  port : Nat
  rates : Nat
  downshift : Bool
  framing : Nat
  dim : Nat
  dir : Nat
  wrap : Bool
  incarnation : Nat
  serial : Nat
  savedTag : Nat
deriving DecidableEq, Repr

/-- What a LINK_EVENT carries of one port (R259): its state (Table 9.7), the device at its far end, its torus fields (Table 9.12), and
whether it runs version 1 framing. -/
structure PortLink where
  state : Nat
  peerDev : Nat
  dim : Nat
  dir : Nat
  wrap : Bool
  v1 : Bool
deriving DecidableEq, Repr

/-- What the forward error correction of a port did since the last flit (Table 9.14): corrected symbols by lane, and uncorrectable
codewords. -/
structure FecSeen where
  corr : List (Nat × Nat)
  uncorr : Nat
deriving DecidableEq, Repr

/-- One Ripple datum: the sideband of Table 7.12 and the 64 data bytes. -/
structure Ripple where
  kind : Nat
  region : Nat
  position : Nat
  version : Nat
  addr : Nat
  arriveEn : Bool
  arriveObj : Nat
  data : List Byte
deriving DecidableEq, Repr

/-! ## Tile configuration (chapters 03, 04, 06, 10) -/

/-- Queue configuration record (Table 4.1). -/
structure QCfg where
  qtype : Nat
  depthCode : Nat
  ringBase : Nat
  remoteOk : Bool
  fanIn : Nat
  streamBase : Nat
  streamLen : Nat
  res : Nat := 0
deriving DecidableEq, Repr

/-- Handler table entry (Table 4.16). -/
structure Handler where
  valid : Bool
  region : Nat
  descQueue : Nat
  argQueue : Nat
  chainLen : Nat
  chainBase : Nat
  channels : Nat
  res : Nat := 0
deriving DecidableEq, Repr

/-- A list window or protect window record (Table 6.2, R73). -/
structure Window where
  en : Bool
  base : Nat
  limit : Nat
deriving DecidableEq, Repr

/-- Shadow window record (Table 10.3). -/
structure ShadowWindow where
  en : Bool
  base : Nat
  limit : Nat
  off : Nat
deriving DecidableEq, Repr

/-- Expert receive record (Table 6.8). -/
structure ExpertRec where
  en : Bool
  handler : Nat
  bufBase : Nat
  bufsMinus1 : Nat
  batchMinus1 : Nat
  rowPitch : Nat
  fanIn : Nat
  cold : Bool
  prologue : Nat
deriving DecidableEq, Repr

/-- Multicast group record (Table 8.5). -/
structure McastRec where
  valid : Bool
  region : Nat
  members : Nat
  mapAddr : Nat
deriving DecidableEq, Repr

/-- Configuration of one synchronisation object: FIRMWARE or STEP, and its reset value (R124). -/
structure ObjCfg where
  firmware : Bool
  resetVal : Nat
deriving DecidableEq, Repr

/-! ## The placement image (section "The placement image" of chapter 04, R269) -/

/-- One resident-data map item: scratchpad address, length, source offset in WEIGHT_IMAGE (or COLD). -/
structure Resident where
  addr : Nat
  len : Nat
  off : Nat
  cold : Bool
deriving DecidableEq, Repr

/-- A range of the allotment: offset and length. -/
structure Range where
  off : Nat
  len : Nat
deriving DecidableEq, Repr

/-- The Basin directory of an image (Table 10.2). -/
structure Directory where
  weightImage : Range
  cold : Range
  kvShadow : Range
  undoLog : Range
  ctxBundles : Range
  overflow : Range
deriving DecidableEq, Repr

/-- A node record: the part of the graph placed on one tile, with its manifest items (Table 4.19). -/
structure Node where
  x : Nat
  y : Nat
  spadData : Nat
  reservation : Nat
  nQueues : Nat
  nDescQueues : Nat
  nSync : Nat
  nHandlers : Nat
  queues : List (Nat × QCfg)
  objects : List (Nat × ObjCfg)
  handlers : List (Nat × Handler)
  streams : List (Nat × List Desc)
  chains : List (Nat × List Desc)
  resident : List Resident
  shadow : List ShadowWindow
  lists : List Window
  experts : List (Nat × ExpertRec)
  mcast : List (Nat × McastRec)
  compQueue : Nat
deriving DecidableEq, Repr

/-- A page-map entry: logical tile and scratchpad address of a page block (R144). -/
structure PageMapEntry where
  lt : Nat
  addr : Nat
deriving DecidableEq, Repr

/-- An expert-map entry (R176). -/
structure ExpertMapEntry where
  valid : Bool
  dev : Nat
  lt : Nat
  handler : Nat
  fabric : Bool
deriving DecidableEq, Repr

/-- A placement image as the device reads it from the host buffer: header (Table 4.18), manifest,
nodes and DATA items.  `experts` is LEN of the expert map, `expertMaps` its copies (node, address); `tailMap` places the tail area of (context rank, layer, head)
at index (rank · LAYERS + layer) · HEADS + head (R142).  `digestOk` says whether the DIGEST field equals SHA-384 over the bytes read. -/
structure Image where
  format : Nat
  role : Role
  arithRev : Nat
  imageId : Nat
  tilesW : Nat
  tilesH : Nat
  contexts : Nat
  digest : BitVec 384
  digestOk : Bool
  basinBytes : Nat
  siltBytes : Nat
  nodes : List Node
  dir : Directory
  poolPages : Nat
  onePartition : Bool
  layers : Nat
  heads : Nat
  pageMap : List (Nat × PageMapEntry)
  exchNode : Nat
  exchBase : Nat
  experts : Nat
  expertMaps : List (Nat × Nat)
  tailMap : List (Nat × PageMapEntry) := []
deriving DecidableEq, Repr

/-! ## NAND parameter pages (chapter 10) -/

/-- What the controller reads in a target's parameter page (R283): page and spare bytes, per-block pSLC mode, program times of both
zones and erase time in µs, whether it offers an interface newer than NV-DDR2 (Table 10.7), whether it declares read-retry levels, pages
of a block and rated TLC endurance (R297), whether it offers NV-LPDDR4, its planes, and the blocks of a plane. -/
structure ParamPage where
  dataBytes : Nat
  spareBytes : Nat
  pslc : Bool
  tprogTlc : Nat
  tprogPslc : Nat
  tErase : Nat
  newer : Bool
  retry : Bool
  pagesPerBlock : Nat
  tlcRated : Nat
  lpddr4 : Bool := true
  planes : Nat := 1
  blocks : Nat := 65536
deriving DecidableEq, Repr

/-- What the Silt controller finds in the NAND at a start: factory-marked bad blocks of channels initialised for the first time (R298),
journal records a page of which is missing or fails its CRC (R293), and for a superblock the ladder step and margin bin of its sample page
(R299). -/
structure SiltStart where
  factoryBad : List Nat := []
  unread : List Nat := []
  samples : List (Nat × Nat) := []
deriving DecidableEq, Repr

/-! ## Mailbox (chapter 11) -/

/-- The command header as the host wrote it (Table 11.7), with the function and the doorbell's SEQ. -/
structure CmdHdr where
  func : Nat
  seq : Nat
  tag : Nat
  region : Nat
  admin : Bool
  paramLen : Nat
deriving DecidableEq, Repr

/-- REGION_CREATE block (Table 11.14). -/
structure RegionBlock where
  x0 : Nat
  y0 : Nat
  width : Nat
  height : Nat
  role : Nat
  attemptLimit : Nat
  collQueues : Nat
  flags : Nat
  stepTimeoutUs : Nat
  basinGib : Nat
  region : Nat
  jobId : Nat
deriving DecidableEq, Repr

/-- VF_QUOTA block (Table 11.15). -/
structure QuotaBlock where
  vf : Nat
  regions : Nat
  tiles : Nat
  basinGib : Nat
  contexts : Nat
  namespaces : Nat
  siltGib : Nat
deriving DecidableEq, Repr

/-- DOMAINS_SET block (Table 13.5); `table` is what the host buffer holds, `none` a failed access. -/
structure DomainsBlock where
  hostAddr : Nat
  table : Option (List (Nat × BitVec 64))
  classify : Nat
  histEvents : Nat
  histDays : Nat
  digestSteps : Nat
deriving DecidableEq, Repr

/-- ADMIT_SEQUENCE block (Table 11.16) and the prompt data read from HOST_ADDR (`none`: access failed). -/
structure AdmitBlock where
  seqKey : Nat
  seed : Nat
  modelKey : Nat
  maxNew : Nat
  maxPosition : Nat
  stopIds : List Nat
  temperature : F32
  topP : F32
  topK : Nat
  flags : Nat
  handoffMs : Nat
  lastToken : Nat
  promptTokens : Nat
  prefixKeys : Nat
  genGroup : Nat
  cacheGroup : Nat
  prompt : Option (List Nat × List (BitVec 128))
deriving DecidableEq, Repr

/-- SILT_OPEN block (Table 11.15). -/
structure SiltOpenBlock where
  zone : Nat
  owner : Nat
  persist : Bool
  endurance : Nat
  units : Nat
deriving DecidableEq, Repr

/-- What the working region's device reports to JOIN_SHADOW's checks (R369). -/
structure WorkingInfo where
  reachable : Bool
  isMember : Bool
  imageId : Nat
  role : Role
  arithRev : Nat
  nondet : Bool
  shadowed : Bool
deriving DecidableEq, Repr

/-- A control firmware image offered to FIRMWARE_UPDATE or held in a slot (Table 15.2): the header
fields, the SHA-384 of PUBKEY, and whether SIGNATURE and BODY_DIGEST verify. -/
structure FwImage where
  magicOk : Bool
  format : Nat
  keyIndex : Nat
  svn : Nat
  fwId : Nat
  keyHash : BitVec 384
  sigOk : Bool
  bodyOk : Bool
  tileSetDigest : BitVec 384
deriving DecidableEq, Repr

/-- Where a DEBUG_UNLOCK block arrives (R401): the mailbox, or the IEEE 1149.1 data register. -/
inductive UnlockSrc where
  | mailbox (h : CmdHdr)
  | jtag
deriving DecidableEq, Repr

/-- The token of DEBUG_UNLOCK phases 1 and 3 (Table 15.6, R401). -/
structure Token where
  keyIndex : Nat
  serial : Nat
  nonce : BitVec 384
  pubkeyHash : BitVec 384
  sigOk : Bool
deriving DecidableEq, Repr

/-- What TELEMETRY exports (R214, R240, R384, R389). -/
inductive TelemetryWhat where
  | counters
  | palacy (recordNo : Nat)
  | fatalSlots (clear : Bool)
deriving DecidableEq, Repr

/-- The kind of the PF event that stops every function (Table 11.20). -/
inductive PfStop where
  | flr | hotReset | linkDown
deriving DecidableEq, Repr

/-- A PLDM request of the board manager (R429). -/
inductive PldmReq where
  | packagePower
  | hottestSensor
  | dieHottest (die : Nat)
  | vddTile (die : Nat)
  | fltState
  | throttle
  | pollEvent
  | unsupported
deriving DecidableEq, Repr

/-! ## Scratchpad errors (chapter 03) -/

/-- What the check of one stored word found (R93): the corrected bit, or an uncorrectable error. -/
inductive EccFind where
  | ce (bit : Nat)
  | ue
deriving DecidableEq, Repr

/-- What the check of a word of a matrix engine's own stores found (R48, R67): the store (0 activation store, 1 accumulators, 2 codebook
stores), the word, or the entry slot, in it, and what was found. -/
structure StoreFind where
  store : Nat
  index : Nat
  find : EccFind
deriving DecidableEq, Repr

/-- What a CFG packet may write beside the control window (Table 7.4): a route entry of a version, MSH_TEL_CTL, or the mark that the tile
is in use (R97). -/
inductive RouterReg where
  | entry (version index : Nat)
  | telCtl
  | inUse
  | ceCount (bank : Nat)
  | ceThreshold
deriving DecidableEq, Repr

/-- Reset causes of FLT_RESET.CAUSE (Table 11.10). -/
inductive ResetCause where
  | powerOn | perst | fltDevReset | command | controlUe | basinFw | watchdog | emergency
deriving DecidableEq, Repr

/-! ## Hand-off (chapter 05) -/

/-- PREFIX_LOOKUP (Table 5.11). -/
structure PrefixLookup where
  srcDev : Nat
  srcRegion : Nat
  seqKey : Nat
  modelKey : Nat
  firstKey : Nat
  keys : List (BitVec 128)
  promptGroup : Nat
  genGroup : Nat
deriving DecidableEq, Repr

/-- PREFIX_REPLY (Table 5.11). -/
structure PrefixReply where
  seqKey : Nat
  firstKey : Nat
  hit : Nat
  step : Nat
  cacheGroup : Nat
deriving DecidableEq, Repr

/-- PAGE_PUSH: the page header of Table 5.12 and its page blocks; `group` is the group of the member that sends it. -/
structure PagePush where
  prefixKey : BitVec 128
  modelKey : Nat
  seqKey : Nat
  pageIndex : Nat
  tokens : Nat
  headFirst : Nat
  heads : Nat
  layers : Nat
  tail : Bool
  srcDev : Nat
  step : Nat
  crc : BitVec 64
  blocks : List (List Byte)
  group : Nat := 0
deriving DecidableEq, Repr

/-- COMMIT_NOTICE (Table 5.11). -/
structure CommitNotice where
  group : Nat
  step : Nat
  firstPage : Nat
  lastPage : Nat
  seqKey : Nat
deriving DecidableEq, Repr

/-- SEQ_HANDOFF (Table 5.11). -/
structure SeqHandoff where
  seqKey : Nat
  position : Nat
  lastToken : Nat
  tokensOut : Nat
  step : Nat
deriving DecidableEq, Repr

/-- Status of a PAGE_ACK (Table 5.11). -/
inductive PageAckStatus where
  | ok | duplicate | noContext | noRoom | checkFail
deriving DecidableEq, Repr

/-! ## Events (chapter 14) -/

/-- One occurrence offered to the event recorder: the source fields of Table 14.1. -/
structure Occurrence where
  code : Nat
  region : Nat
  lt : Nat
  px : Nat
  py : Nat
  unit : Nat
  sub : Nat
  func : Nat
  step : Nat
  payload : List Byte
deriving DecidableEq, Repr

/-- A boundary action with its parameters, as BOUNDARY_LOG lists it (R17, R370). -/
inductive BoundaryKind where
  | healing
  | castling (pos : Nat)
  | rePlacement (lt : Nat)
  | refill (lt : Nat)
  | routeFlip
  | membership (groupId members rank : Nat) (peers : List Peer)
  | memberRemoved (rank : Nat)
  | memberPromoted (rank dev reg lastStep : Nat)
  | imageLoad (img : Image)
  | admission (b : AdmitBlock) (tokens : List Nat) (keys : List (BitVec 128))
  | release (seqKey : Nat)
  | dvfs (die mhz : Nat)
deriving DecidableEq, Repr

/-- A context record that a working member streams to its shadow (R369): the rank of the context, the record of Table 5.1 and
its page-list entries. -/
structure SyncRecord where
  rank : Nat
  record : List Byte
  pages : List (BitVec 32)
deriving DecidableEq, Repr

/-! ## Wellhead (chapter 15) -/

/-- One 10 µs sample of the Wellhead's sources (Table 15.8): VDD_TILE of each die in mV and its current in mA, the 64 sensor
readings in 0.1 °C, and every other rail in 0.1 % of its set point. -/
structure WhSample where
  vddMv : List Nat
  vddMa : List Nat
  temps : List Nat
  rails : List Nat
deriving DecidableEq, Repr

/-- Scrubber heartbeat word of Table 15.13 as placed by one scrubber, `none` when it placed none. -/
structure Heartbeat where
  crc : Nat
  progress : Nat
  disagree : Bool
  alive : Bool
deriving DecidableEq, Repr

/-- An access through the IEEE 1149.1 port (R400, Table 15.5). -/
inductive JtagAccess where
  | bypass | idcode | samplePreload | extest | clamp
  | readCounters | mcTrace | mcHalt | mcStep
  | readState | writeState (lt obj val : Nat)
  | readMem (lt addr : Nat) | writeMem (lt addr : Nat) (data : List Byte)
  | scan (die : Nat)
deriving DecidableEq, Repr

/-- Result of a BIST run on one position (Table 12.5), with its macro entries (bank, kind, row, lane, bit). -/
structure PosResult where
  pos : Nat
  tileFail : Bool
  routerFail : Bool
  spareRowsLeft : Nat
  misrLow : Nat
  macros : List (Nat × Nat × Nat × Nat × Nat)
deriving DecidableEq, Repr

/-! ## Numbers (chapter 02) -/

/-- The value of an encoding (R35): NaN, an infinity, or (−1)^neg · m · 2^e exactly. -/
inductive FpVal where
  | nan
  | inf (neg : Bool)
  | fin (neg : Bool) (m : Nat) (e : Int)
deriving DecidableEq, Repr

end Sys2Proof
end

