-- ==== Sys2Proof/Syntax.lean ====
section
/-! DEFINITION. The commands of the Falxel block: one constructor for each row of spec/opcode_table.json,
in the table's order.  `lt` is a logical tile, `q` a descriptor queue, `pos` a physical index 26·py + px,
`die` a die, `port` a Tarn port, `func` a PCIe function, `r` a region.  An operand that is an observation
of the world outside the block (a sample, a check's outcome, bytes of host memory) says so. -/

namespace Sys2Proof

inductive Instr where
  -- mailbox commands (chapter 11): the header and the parameter block the host wrote, then the doorbell
  | nop (h : CmdHdr)
  | identify (h : CmdHdr)
  | functionConfig (h : CmdHdr) (beatMs : Nat) (beatStop : Bool) (disableMs : Nat)
  | vfQuota (h : CmdHdr) (b : QuotaBlock)
  | functionDisable (h : CmdHdr) (func : Nat)
  | functionEnable (h : CmdHdr) (func : Nat)
  | deviceReset (h : CmdHdr) (key : Nat)
  | systemSet (h : CmdHdr) (key : Nat) (deviceId : Nat)
  | domainsSet (h : CmdHdr) (b : DomainsBlock)
  | fabricRoutes (h : CmdHdr) (entries : Option (List (Nat × BitVec 32)))
  | linkStateRead (h : CmdHdr) (mask : Nat)
  | linkStateEnable (h : CmdHdr) (mask : Nat)
  | linkStateDisable (h : CmdHdr) (mask : Nat)
  | linkStateRetrain (h : CmdHdr) (mask : Nat)
  | linkStateWriteCtl (h : CmdHdr) (mask : Nat) (ctl : BitVec 32)
  | telemetry (h : CmdHdr) (what : TelemetryWhat) (hostAddr : Nat) (hostOk : Bool)
  | firmwareUpdateWrite (h : CmdHdr) (length : Nat) (img : Option FwImage)
  | firmwareUpdatePrefer (h : CmdHdr)
  | firmwareUpdateAdvanceSvn (h : CmdHdr)
  | debugUnlockChallenge (src : UnlockSrc)
  | debugUnlockRaise (src : UnlockSrc) (target : Nat) (t : Token)
  | debugUnlockLower (src : UnlockSrc) (target : Nat)
  | debugUnlockLifecycle (src : UnlockSrc) (target : Nat) (t : Token)
  | regionCreate (h : CmdHdr) (b : RegionBlock)
  | regionDestroy (h : CmdHdr)
  | imageWrite (h : CmdHdr) (offset length partsMinus1 : Nat) (parts : List (Option (List Byte)))
  | loadImage (h : CmdHdr) (imageId : Nat) (img : Option Image)
  | groupSet (h : CmdHdr) (groupId members rank : Nat) (peers : Option (List Peer))
  | run (h : CmdHdr) (steps : Nat) (deliver : Bool)
  | stop (h : CmdHdr) (unload : Bool)
  | joinShadow (h : CmdHdr) (workDev workRegion compareSteps : Nat) (info : WorkingInfo)
  | resetInstance (h : CmdHdr)
  | capture (h : CmdHdr) (midStep : Bool)
  | captureRead (h : CmdHdr) (slot hostAddr offset length : Nat) (hostOk : Bool)
  | admitSequence (h : CmdHdr) (b : AdmitBlock)
  | releaseSequence (h : CmdHdr) (seqKey : Nat)
  | queryProgressSequences (h : CmdHdr) (keys : List Nat) (hostAddr : Nat) (hostOk : Bool)
  | queryProgressRequest (h : CmdHdr) (reqId : Nat)
  | queryProgressTile (h : CmdHdr) (lt : Nat)
  | siltOpen (h : CmdHdr) (b : SiltOpenBlock)
  | siltDestroy (h : CmdHdr) (handle : Nat)
  | siltStatus (h : CmdHdr) (handle : Nat)
  | eventFetch (h : CmdHdr)
  | requestCompletion (func reqId : Nat)
  -- host register accesses
  | registerWrite (func offset : Nat) (data : List Byte) (read : Nat := 0)
  | mbxEvqCtlEnable (func : Nat) (value : BitVec 32)
  | mbxEvqHeadWrite (func : Nat) (head : Nat)
  | evqModerationTimer (func : Nat)
  | fltDevResetGo (key : Nat)
  | mshTelCtlClear (pos : Nat)
  | trnPortCtlRetrain (port : Nat)
  | trnPortCtlEnSet (port : Nat)
  -- SPDM over DOE, PLDM over SMBus, TRST_N
  | spdmNegotiateAlgorithms (ecdsaP384 sha384 : Bool)
  | spdmGetCertificate (slot offset length : Nat)
  | spdmChallenge (slot : Nat) (nonce : BitVec 256)
  | spdmGetMeasurements (index : Nat) (nonce : BitVec 256)
  | pldmRequest (req : PldmReq)
  -- function resets, pins, clocks, rails
  | vfFlr (func : Nat)
  | pfFlrOrLinkDown (kind : PfStop)
  | functionDrainLimit (func : Nat)
  | perstNDeassert (compatSel laneRev : Bool) (speed : Nat := 0) (width : Nat := 0)
  | pwrOkAssert (mgmtAddr : Nat) (pkgTestN : Bool)
  | powerFailGlitch (widthNs : Nat)
  | powerFailRelease (railsInRange : Bool)
  | trnRefclkLoss (die : Nat)
  | pmbAlert (confirmed : Bool)
  | pmbusPoll (readings : List (Nat × Nat × Nat × Nat))
  | regulatorSilent (reg : Nat)
  | wakeOnSignal (port : Nat)
  -- bring-up
  | firmwareStart (basinOk : List Bool) (badDigests : List Nat) (pages : List (Nat × ParamPage) := []) (nand : SiltStart := {})
  | selfTestDone (pair : Nat) (outcome : Nat) (clockMhz vddMv : Nat) (results : List PosResult)
  | zeroizeTimeout (pos : Nat)
  | deviceResetEffect (cause : ResetCause)
  | dieReset (die : Nat)
  | tileRouterReset (pos : Nat)
  -- the step (chapter 01)
  | stepStart (r : Nat) (ue : Bool := false)
  | stepDrained (r : Nat)
  | localConditionsMet (r : Nat) (ue : Bool := false)
  | stepReadyRx (m : StepMsg)
  | undeliveredResume (r : Nat)
  | stepFailRx (m : StepMsg)
  | stepTimerExpiry (r : Nat)
  | stepQueryRx (m : StepMsg)
  | stepQueryAnswerRx (m : StepMsg) (a : QueryAnswer)
  | queryWaitExpiry (r : Nat)
  | queueStall (lt q : Nat)
  | engineHang (lt q : Nat)
  -- descriptors (chapters 02 to 06)
  | fetchLine (lt q : Nat) (found : List (Nat × EccFind) := [])
  | staleInstanceDiscard (lt q : Nat)
  | matmul (lt q : Nat) (found : List (Nat × EccFind) := []) (stores : List StoreFind := [])
  | elementwise (lt q : Nat) (found : List (Nat × EccFind) := [])
  | reduce (lt q : Nat) (found : List (Nat × EccFind) := [])
  | attnMerge (lt q : Nat) (found : List (Nat × EccFind) := [])
  | norm (lt q : Nat) (found : List (Nat × EccFind) := [])
  | softmax (lt q : Nat) (found : List (Nat × EccFind) := [])
  | rope (lt q : Nat) (found : List (Nat × EccFind) := [])
  | activate (lt q : Nat) (found : List (Nat × EccFind) := [])
  | topk (lt q : Nat) (found : List (Nat × EccFind) := [])
  | merge (lt q : Nat) (found : List (Nat × EccFind) := [])
  | draw (lt q : Nat) (found : List (Nat × EccFind) := [])
  | verify (lt q : Nat) (found : List (Nat × EccFind) := [])
  | convert (lt q : Nat) (found : List (Nat × EccFind) := [])
  | gate (lt q : Nat) (found : List (Nat × EccFind) := [])
  | combine (lt q : Nat) (found : List (Nat × EccFind) := [])
  | copy (lt q : Nat) (found : List (Nat × EccFind) := [])
  | put (lt q : Nat) (found : List (Nat × EccFind) := [])
  | get (lt q : Nat)
  | basinRead (lt q : Nat) (ce ue : List Nat := [])
  | basinWrite (lt q : Nat) (found : List (Nat × EccFind) := [])
  | siltRead (lt q : Nat) (ladder : List Nat)
  | siltWrite (lt q : Nat) (found : List (Nat × EccFind) := [])
  | storeLoad (lt q : Nat) (found : List (Nat × EccFind) := [])
  | sparsify (lt q : Nat) (found : List (Nat × EccFind) := [])
  | scatter (lt q : Nat) (found : List (Nat × EccFind) := [])
  | scatterClose (lt q : Nat)
  | gather (lt q : Nat) (found : List (Nat × EccFind) := [])
  | scanOut (lt q : Nat) (found : List (Nat × EccFind) := [])
  | scanIn (lt q : Nat)
  | arrive (lt q : Nat)
  | wait (lt q : Nat)
  | reset (lt q : Nat)
  | message (lt q : Nat) (found : List (Nat × EccFind) := [])
  | contribute (lt q : Nat) (found : List (Nat × EccFind) := [])
  | controlNop (lt q : Nat)
  | endDesc (lt q : Nat)
  | fence (lt q : Nat)
  | clearValid (lt q : Nat)
  | zeroize (lt q : Nat)
  | descriptorRetire (lt q idx : Nat)
  -- scratchpad and Basin housekeeping
  | scrubRead (lt : Nat) (found : List (Nat × EccFind))
  | scrubForced (lt : Nat) (found : List (Nat × EccFind))
  | ceWriteback (lt : Nat)
  | mergeEvict (lt : Nat) (ue : Bool) (found : List (Nat × EccFind) := [])
  | shadowWrite (lt : Nat) (ok : Bool)
  | patrolScrub (stack : Nat) (words : Nat) (ce ue : List Nat) (ecs : Nat := 0)
  | siltDataProgramsDone (txn : Nat) (ok : Bool) (failedBlocks : List Nat) (times : List Nat := [])
  | siltTxnCommit (txn : Nat) (eraseFail : List Nat := [])
  | siltRetentionRelocate (sb : Nat) (ladder : List Nat)
  | siltWearRelocate (zone : Nat)
  -- mesh (chapter 07) and message layer (chapter 08)
  | packetForward (pos port vc lane : Nat) (found : Option EccFind := none)
  | ageDrop (pos port vc lane : Nat)
  | writePacketRx (lt : Nat) (found : List (Nat × EccFind) := [])
  | readReqRx (lt : Nat) (found : List (Nat × EccFind) := [])
  | readDataRx (lt : Nat) (found : List (Nat × EccFind) := [])
  | msgPacketRx (lt : Nat) (found : List (Nat × EccFind) := [])
  | syncPacketRx (lt : Nat)
  | ackRx (lt : Nat)
  | nackRx (lt : Nat)
  | nackRbRetry (lt flow seq : Nat) (found : List (Nat × EccFind) := [])
  | messageRetry (lt flow : Nat)
  | retransmitTimeout (lt flow seq : Nat) (found : List (Nat × EccFind) := [])
  | reorderAge (lt : Nat)
  | flowXoffRx (lt : Nat)
  | flowXonRx (lt : Nat)
  | cfgPacketRx (pos : Nat) (reg : Option RouterReg := none) (sent : Option (Nat × List Byte) := none)
  | collPacketRx (die : Nat) (lt : Option Nat) (found : List (Nat × EccFind) := [])
  | localSideOpen (die r cq collSeq : Nat)
  | foldBlockDone (die r cq collSeq : Nat) (found : Option EccFind := none)
  | resultRelease (die r cq collSeq : Nat)
  | expertRowRx (lt : Nat) (found : List (Nat × EccFind) := [])
  | expertCloseRx (lt : Nat) (found : List (Nat × EccFind) := [])
  | gatewayIngress (die : Nat)
  | gatewayEgress (die : Nat)
  | linkDead (pos port : Nat)
  | versionDrained (fabric : Bool)
  | plannedFlip (regions : List Nat) (unionOk : Bool)
  | rippleCfgWrite (d : Ripple) (ue : List Nat)
  | rippleOperand (d : Ripple) (ue : List Nat)
  | rippleStepStart (d : Ripple) (ue : List Nat)
  | rippleEpochFlip (d : Ripple) (ue : List Nat)
  | rippleTableWrite (d : Ripple) (ue : List Nat)
  | rippleFirmware (d : Ripple) (ue : List Nat)
  -- Tarn links (chapter 09)
  | flitDataRx (port : Nat) (f : Flit) (raw : List Byte := []) (fec : FecSeen := ⟨[], 0⟩)
  | flitIdleRx (port : Nat) (f : Flit) (raw : List Byte := []) (fec : FecSeen := ⟨[], 0⟩)
  | replayReqRx (port : Nat) (f : Flit) (raw : List Byte := []) (fec : FecSeen := ⟨[], 0⟩)
  | trainRx (port : Nat) (w : TrainWords)
  | portIdleTimeout (port : Nat)
  | portDetectTimeout (port : Nat)
  | equaliseDone (port : Nat) (ok : Bool)
  | alignDone (port : Nat) (ok : Bool) (rttNs : Nat)
  | qualifyDone (port : Nat) (fail : Nat)
  | portLossOfSignal (port : Nat)
  | portErrorLimit (port : Nat) (reason : Nat)
  | portFailedRetry (port : Nat)
  | fabricPortReset (port : Nat)
  | linkEventRx (dev : Nat) (inc : Nat) (ports : List PortLink)
  | peerSilent (dev : Nat)
  | mcCoreWatchdog (missed : List Nat)
  | hostBeatMissed (func : Nat)
  -- hand-off (chapter 05)
  | prefixLookupRx (r : Nat) (m : PrefixLookup)
  | prefixReplyRx (r : Nat) (m : PrefixReply) (ue : Bool := false)
  | pagePushRx (r : Nat) (m : PagePush) (ue : Bool := false)
  | pageAckRx (r : Nat) (seqKey pageIndex : Nat) (st : PageAckStatus) (group : Option Nat := none)
  | commitNoticeRx (r : Nat) (m : CommitNotice) (ue : Bool := false)
  | seqHandoffRx (r : Nat) (m : SeqHandoff) (ue : Bool := false)
  | handoffTimeout (r ctx : Nat) (ue : Bool := false)
  | handoffActivation (r ctx : Nat) (ue : Bool := false)
  -- boundary actions (R17)
  | sequenceAdmission (r : Nat) (ue : Bool := false)
  | sequenceRelease (r : Nat) (ue : Bool := false)
  | graphSwitch (r : Nat) (bad : List Nat := [])
  | stopAtBoundary (r : Nat)
  | dvfsChange (die : Nat) (voutOk : Bool)
  | basinHealing (r : Nat)
  | positionFailed (pos : Nat)
  | castling (pos : Nat)
  | castlingCopyDone (pos : Nat) (crcOk : Bool) (found : List (Nat × EccFind) := [])
  | rePlacement (r lt : Nat)
  | refillInPlace (r lt : Nat)
  -- faults, digests, shadows (chapter 13)
  | digestBlameRx (dev : Nat) (die : Nat) (cq piece : Nat)
  | digestWalkStart (r : Nat)
  | digestWalkEnd (r : Nat)
  | digestReportRx (r : Nat) (imageId rank : Nat) (digest : BitVec 64) (refOk : Bool)
  | stepDigestRx (r : Nat) (step : Nat) (digest : BitVec 64)
  | boundaryLogRx (r : Nat) (actions : List BoundaryKind)
  | shadowGapRx (r : Nat) (step : Nat)
  | shadowPromotion (r : Nat) (anyCommitted : Bool)
  | promoteRx (r : Nat) (rank dev reg lastStep : Nat)
  | promoteApply (r : Nat)
  | instanceResetStart (r : Nat)
  | drainCounterZero (r : Nat)
  | drainEscalation (r : Nat)
  | captureAbandon (r : Nat)
  -- Wellhead and power (chapter 15)
  | wellheadSample (w : WhSample)
  | dvfsCapDecision (die : Nat)
  | dvfsRaiseDecision (die : Nat)
  | scrubHeartbeatCheck (basin : Bool) (idx : Nat) (w : Option Heartbeat)
  | p1Entry (r : Nat)
  | p1Exit (r : Nat)
  -- event recorder (chapter 14)
  | eventPost (o : Occurrence)
  | alarmDroppedReport (func : Nat)
  -- later rows of the table
  | portSignalDetect (port : Nat)
  | portStateBoundExpiry (port : Nat)
  | flitCrcFail (port : Nat) (fec : FecSeen := ⟨[], 0⟩)
  | busMasterEnableChange (func : Nat) (bme : Bool) (vfs : Option Nat := none)
  | d3hotChange (enter : Bool)
  | mcBeatRx (dev : Nat)
  | shadowSyncComplete (r : Nat) (c1 : Nat) (kv : List (Nat × List Byte)) (records : List SyncRecord)
  | siltChannelLost (ch : Nat)
  | boundaryScanAccess (a : JtagAccess)
  -- rows without operands, last so that compiled code can build every command
  | spdmGetVersion
  | spdmGetCapabilities
  | spdmGetDigests
  | trstNAssert
  | vfEnableCleared
  | perstNAssert
  | pwrOkFall
  | powerFailAssert
  | wellheadPowerOn
  | wellheadRailFall
  | pcieRefclkLoss
  | coreRefclkLoss
  | crystalLoss
  | pmeTurnOff
  | declareReady
  | siltCheckpoint
  | detourFlip
  | fabricFlip
  | mcBeatTick
  | fwDead
  | castlingComplete
  | emergencyRelease
  | secondsStore
  | p2Entry
  | p2Exit
  | floodWindowEnd
  | extremeTick
  | logTrickle
  | managementCoreRestartDone
  | crystalStable
deriving DecidableEq, Repr

end Sys2Proof
end

