-- ==== Sys2Proof/Decode.lean ====
section
/-! DEFINITION. The command that a word spells by the table's bits. -/

namespace Sys2Proof

/-- No row of the opcode table has bits (every `fields` of spec/opcode_table.json is empty): the commands of this block are
events with operands, and none is an encoded word. -/
def decodeTableWord (_nbits _w : Nat) : Option Instr := none

end Sys2Proof
end

