-- ==== Sys2Proof/Machine/Basics.lean ====
section
/-! DEFINITION. The plain helpers every chapter uses: bit fields of a number, little-endian bytes, sparse
tables with a default entry, byte memories in canonical form, rotating arbitration (R440). -/

namespace Sys2Proof.Machine

/-! ## Bit fields -/

/-- Bits [lo + w - 1 : lo] of `n`. -/
def fld (n lo w : Nat) : Nat := n / 2 ^ lo % 2 ^ w

/-- Bit `i` of `n`. -/
def bitOf (n i : Nat) : Bool := n / 2 ^ i % 2 == 1

/-- `n` with bits [lo + w - 1 : lo] replaced by `v`. -/
def setFld (n lo w v : Nat) : Nat :=
  n - fld n lo w * 2 ^ lo + v % 2 ^ w * 2 ^ lo

/-- A w-bit two's complement field as an integer. -/
def sext (n w : Nat) : Int :=
  if n % 2 ^ w < 2 ^ (w - 1) then (n % 2 ^ w : Nat) else (n % 2 ^ w : Nat) - (2 ^ w : Nat)

/-- The w-bit two's complement pattern of an integer. -/
def ofInt (i : Int) (w : Nat) : Nat := (i % (2 ^ w : Nat)).toNat

/-- A Bool as 0 or 1. -/
def b2n (b : Bool) : Nat := if b then 1 else 0

/-- Least multiple of `m` that is at least `n`. -/
def alignUp (n m : Nat) : Nat := (n + m - 1) / m * m

/-- Quotient rounded up. -/
def ceilDiv (n m : Nat) : Nat := (n + m - 1) / m

/-- Number of one bits among the low `w` bits. -/
def popcount : Nat → Nat → Nat
  | _, 0 => 0
  | n, w + 1 => n % 2 + popcount (n / 2) w

/-- The least `i < w` with bit `i` set. -/
def lowestBit : Nat → Nat → Option Nat
  | _, 0 => none
  | n, w + 1 => if n % 2 == 1 then some 0 else (lowestBit (n / 2) w).map (· + 1)

/-- A saturating addition to a counter of `w` bits. -/
def satAdd (n d w : Nat) : Nat := Nat.min (n + d) (2 ^ w - 1)

/-! ## Bytes -/

/-- The `k` bytes of `n`, least significant first. -/
def leBytes : Nat → Nat → List Byte
  | _, 0 => []
  | n, k + 1 => BitVec.ofNat 8 n :: leBytes (n / 256) k

/-- The number whose little-endian bytes are the list. -/
def ofLe : List Byte → Nat
  | [] => 0
  | b :: t => b.toNat + 256 * ofLe t

/-- `n` zero bytes. -/
def zeros (n : Nat) : List Byte := List.replicate n 0

/-- The list cut or zero-padded to `n` bytes. -/
def padTo (l : List Byte) (n : Nat) : List Byte := l.take n ++ zeros (n - l.length)

/-- Bytes [off, off + n) of a list, zero beyond its end. -/
def sliceBytes (l : List Byte) (off n : Nat) : List Byte := padTo (l.drop off) n

/-- Splits a list into pieces of `k` elements (the last may be shorter); `fuel` bounds the pieces. -/
def chunks {α : Type} (k : Nat) : Nat → List α → List (List α)
  | 0, _ => []
  | _, [] => []
  | fuel + 1, l => l.take k :: chunks k fuel (l.drop k)

/-! ## Sparse tables -/

/-- The entry of key `k`, or `d` where the table lists none. -/
def sget {α : Type} (d : α) : List (Nat × α) → Nat → α
  | [], _ => d
  | (a, v) :: t, k => if a = k then v else sget d t k

/-- Inserts an entry before the first larger key. -/
def sins {α : Type} (k : Nat) (v : α) : List (Nat × α) → List (Nat × α)
  | [] => [(k, v)]
  | (a, w) :: t => if k < a then (k, v) :: (a, w) :: t else (a, w) :: sins k v t

/-- Removes every entry of key `k`. -/
def sdel {α : Type} (k : Nat) (m : List (Nat × α)) : List (Nat × α) := m.filter fun e => e.1 != k

/-- Writes entry `k`; writing the default removes it, so equal tables are equal lists. -/
def sset {α : Type} [DecidableEq α] (d : α) (m : List (Nat × α)) (k : Nat) (v : α) : List (Nat × α) :=
  if v = d then sdel k m else sins k v (sdel k m)

/-- Keys strictly rising. -/
def sortedKeys {α : Type} : List (Nat × α) → Bool
  | [] => true
  | (_, _) :: [] => true
  | (a, _) :: (b, w) :: t => decide (a < b) && sortedKeys ((b, w) :: t)

/-! ## Byte memories: unlisted bytes read as zero -/

/-- Canonical form: addresses strictly rising and no listed zero. -/
def memWf (m : List Host.Cell) : Bool := sortedKeys m && m.all fun c => c.2 != 0

/-- One byte of a memory. -/
def memRd (m : List Host.Cell) (a : Nat) : Byte := sget 0 m a

/-- Writes one byte. -/
def memWr (m : List Host.Cell) (a : Nat) (b : Byte) : List Host.Cell := sset 0 m a b

/-- `n` bytes from address `a` on. -/
def memRdN (m : List Host.Cell) (a : Nat) : Nat → List Byte
  | 0 => []
  | n + 1 => memRd m a :: memRdN m (a + 1) n

/-- Writes the bytes of the list from address `a` on. -/
def memWrL (m : List Host.Cell) (a : Nat) : List Byte → List Host.Cell
  | [] => m
  | b :: t => memWrL (memWr m a b) (a + 1) t

/-- Makes every byte of [a, a + n) zero. -/
def memZero (m : List Host.Cell) (a n : Nat) : List Host.Cell :=
  m.filter fun c => !(decide (a ≤ c.1) && decide (c.1 < a + n))

/-! ## Sets of numbers as sorted lists -/

/-- Adds a number to a sorted list without repeats. -/
def setIns (k : Nat) : List Nat → List Nat
  | [] => [k]
  | a :: t => if k < a then k :: a :: t else if k = a then a :: t else a :: setIns k t

/-- Removes a number. -/
def setDel (k : Nat) (l : List Nat) : List Nat := l.filter (· != k)

/-- Removes every number of [a, a + n). -/
def setDelRange (l : List Nat) (a n : Nat) : List Nat :=
  l.filter fun k => !(decide (a ≤ k) && decide (k < a + n))

/-! ## Lists as registers -/

/-- Changes element `i` of a list, nothing where there is none. -/
def modAt {α : Type} (f : α → α) : List α → Nat → List α
  | [], _ => []
  | x :: t, 0 => f x :: t
  | x :: t, i + 1 => x :: modAt f t i

/-- The first element that satisfies `p`. -/
def firstIdx {α : Type} (p : α → Bool) : List α → Option Nat
  | [] => none
  | x :: t => if p x then some 0 else (firstIdx p t).map (· + 1)

/-- Replaces every element that satisfies `p`. -/
def mapIf {α : Type} (p : α → Bool) (f : α → α) (l : List α) : List α :=
  l.map fun x => if p x then f x else x

/-! ## Rotating arbitration (R440) -/

/-- Among the requesters below `n`, the first in circular order from place `first`. -/
def rotPick (reqs : List Nat) (n first : Nat) : Option Nat :=
  (List.range n).findSome? fun i => if reqs.contains ((first + i) % n) then some ((first + i) % n) else none

/-- The first place after a grant: it moves by one only when the grant was contested (R440). -/
def rotNext (reqs : List Nat) (n first : Nat) : Nat :=
  if reqs.length < 2 then first else (first + 1) % n

end Sys2Proof.Machine
end

