-- ==== Sys2Proof/Machine/Crc.lean ====
section
/-! DEFINITION. The CRC-64 of R237 (ECMA-182, initial value and final XOR all ones, most significant bit
first) and the pip digest built on it. -/

namespace Sys2Proof.Machine

/-- One bit of the CRC-64 register. -/
def crcBit (c : Nat) : Nat :=
  if 2 ^ 63 ≤ c then (2 * c % 2 ^ 64) ^^^ 0x42F0E1EBA9EA3693 else 2 * c

/-- `k` bit steps. -/
def crcBits : Nat → Nat → Nat
  | 0, c => c
  | k + 1, c => crcBits k (crcBit c)

/-- One byte into the register. -/
def crcByte (c : Nat) (b : Byte) : Nat := crcBits 8 (c ^^^ b.toNat * 2 ^ 56)

/-- The register before the first byte. -/
def crcInit : Nat := 2 ^ 64 - 1

/-- Bytes into the register. -/
def crcFold (c : Nat) (l : List Byte) : Nat := l.foldl crcByte c

/-- The value a register gives: XORed with all ones. -/
def crcFinal (c : Nat) : Nat := c ^^^ (2 ^ 64 - 1)

/-- CRC-64 of a byte list. -/
def crc64 (l : List Byte) : BitVec 64 := BitVec.ofNat 64 (crcFinal (crcFold crcInit l))

/-! ## The CRC-32 of a link flit (R243) -/

/-- One bit of the reflected CRC-32 register. -/
def crc32Bit (c : Nat) : Nat := if c % 2 = 1 then (c / 2) ^^^ 0xEDB88320 else c / 2

def crc32Bits : Nat → Nat → Nat
  | 0, c => c
  | k + 1, c => crc32Bits k (crc32Bit c)

/-- CRC-32 of a byte list: polynomial 0x04C1_1DB7 reflected, initial value and final XOR all ones. -/
def crc32 (l : List Byte) : Nat := (l.foldl (fun c b => crc32Bits 8 (c ^^^ b.toNat)) (2 ^ 32 - 1)) ^^^ (2 ^ 32 - 1)

/-- The 16-byte trailer of a collective contribution (R237). -/
def trailerColl (step attempt rank cq collSeq piece : Nat) : List Byte :=
  leBytes step 8 ++ leBytes attempt 1 ++ leBytes rank 2 ++ leBytes cq 1 ++ leBytes collSeq 2 ++ leBytes piece 1 ++ zeros 1

/-- The 16-byte trailer of a fabric message (R237). -/
def trailerMsg (step attempt rank handler slot : Nat) : List Byte :=
  leBytes step 8 ++ leBytes attempt 1 ++ leBytes rank 2 ++ leBytes 0xFF 1 ++ leBytes handler 1 ++ leBytes slot 1 ++ leBytes 0 2

/-- The pip digest of data and trailer (R237). -/
def pipDigest (data trailer : List Byte) : BitVec 64 := crc64 (data ++ trailer)

end Sys2Proof.Machine
end

