-- ==== Sys2Proof/Config.lean ====
section
/-! DEFINITION. What the spec leaves to the implementation or leaves undefined: free values.  None has a body,
so nothing can be proved of the value itself; notes/assumptions names the log entry of each. -/

namespace Sys2Proof.Config

/-- Element (row, column) that an engine takes from an invalid coordinate list, a deterministic function of
the bytes of its window (R167). -/
opaque clElement : List Byte → Nat → Nat → BitVec 32

/-- The 16 check bits of a scratchpad word, a function of its 512 data bits and its word address (R93): the code is not published. -/
opaque checkBits : BitVec 512 → BitVec 20 → BitVec 16

/-- Word address that an error record gives for a word of a matrix engine's own store (Table 3.8, R48, R67): such a word has no scratchpad
address.  By store (0 activation, 1 accumulators, 2 codebooks) and word or entry slot. -/
opaque storeWord : Nat → Nat → BitVec 20

/-- SYNDROME of a scratchpad error record: implementation-defined (R93), by word and corrected bit. -/
opaque syndrome : Nat → Nat → BitVec 16

/-- Event code of the record of a quiet flip (R204): Table 14.3 gives it none (assumption 140). -/
opaque quietFlipCode : BitVec 16

/-- A nonce of 384 bits from the deterministic random generator, by the free-value counter. -/
opaque nonce : Nat → BitVec 384

/-- A byte the spec leaves undefined, by the free-value counter and an index. -/
opaque freeByte : Nat → Nat → BitVec 8

/-- A 64-bit value the spec leaves undefined, by the free-value counter. -/
opaque free64 : Nat → BitVec 64

/-- RETRY_MAX of a SCATTER's row and CLOSE messages: R178 names it, the DMA body has no field for it.  By descriptor. -/
opaque scatterRetryMax : Nat → BitVec 4

/-- RETRY_GAP of a SCATTER's messages, by descriptor. -/
opaque scatterRetryGap : Nat → BitVec 8

/-- Positions that one prefill chunk covers for a sequence, less one, modulo what is left: the chunk size is the
job's graph's and the spec gives it no field.  By image, sequence key and position, so that a replay covers the same (R28). -/
opaque chunkSize : Nat → Nat → Nat → BitVec 20

/-- A byte of a tail area that a PAGE_PUSH with TAIL carries where the image places no area for it.  By the free-value counter and an
index. -/
opaque tailByte : Nat → Nat → BitVec 8

/-- The bytes of a ledger entry of one context, over which a step digest runs (R368): their layout is not given.  By context,
sequence key, tokens and stop reason. -/
opaque ledgerBytes : Nat → Nat → List Nat → Nat → List Byte

/-- The body of IDENTIFY's response: capabilities, quotas, use and preserved bundles have no layout (Table 11.11).  By the
values of function, quota, use and bundles. -/
opaque identifyBytes : List Nat → List Byte

/-- What TELEMETRY exports of the counters: no layout is given for the host buffer (R214, R240, R390).  By the free-value counter. -/
opaque counterExport : Nat → List Byte

/-- Units that a zone of the fitted NAND holds, TLC or pSLC: it depends on the targets fitted (R283). -/
opaque siltUnits : Bool → BitVec 48

/-- Number of the spare block of a plane that the n-th retirement of a block, named by its key, put in its place (R285). -/
opaque spareBlock : Nat → Nat → BitVec 16

/-- Byte `i` of a codeword's DATA (R287): AES-256-XTS under the key pair that a wrap key number names, with a tweak, of the plain
bytes. -/
opaque xtsByte : Nat → Nat → List (BitVec 8) → Nat → BitVec 8

/-- Byte `i` of a codeword's LDPC PARITY (Table 10.8): the code is not published. -/
opaque ldpcByte : List (BitVec 8) → Nat → BitVec 8

/-- CONFIG_CRC that the control firmware expects of a scrubber, Basin's or a tile's: the register images that it covers are not
given (Table 15.13). -/
opaque scrubCrc : Bool → BitVec 16

/-- What an IEEE 1149.1 read shows of counters, logs, traces, registers and state (Table 15.5): no layout is given.  By the
free-value counter. -/
opaque debugExport : Nat → List Byte

/-- RTT_STAMP of a TRAIN flit (Table 9.8): the spec calls it an echo field and gives no value.  By the cycle in which it is sent. -/
opaque rttStamp : Nat → BitVec 16

/-- Rontondi's manufacturer code in IDCODE (R431). -/
opaque makerCode : BitVec 11

/-- Bytes of the certificate chain of slot 0 for an Alias key pair (R398). -/
opaque chainLength : Nat → BitVec 16

/-- SHA-384 of the boot ROM (Table 15.4). -/
opaque bootRomDigest : BitVec 384

/-- SHA-384 of an image header with the given fields (Table 15.4): FORMAT, KEY_INDEX, SVN, FW_ID. -/
opaque headerDigest : List Nat → BitVec 384

end Sys2Proof.Config
end

