-- ==== Sys2Proof/Machine/Fp.lean ====
section
/-! DEFINITION. Number formats and exact arithmetic (R34 to R37, R49 to R51, R54, R58): every value is an
exact dyadic number until it is rounded, once, to nearest even. -/

namespace Sys2Proof.Machine

/-! ## Decoding (Table 2.2) -/

/-- Sign, biased exponent of `ew` bits and mantissa of `mw` bits as an exact finite value (R35). -/
def fpFinite (ew mw bias n : Nat) : FpVal :=
  let s := bitOf n (ew + mw)
  let e := fld n mw ew
  let m := fld n 0 mw
  if e = 0 then .fin s m (1 - (bias : Int) - mw)
  else .fin s (2 ^ mw + m) ((e : Int) - bias - mw)

/-- An IEEE-like encoding with infinities and NaNs: E5M2, FP16, BF16, FP32. -/
def fpIeee (ew mw bias n : Nat) : FpVal :=
  if fld n mw ew = 2 ^ ew - 1 then
    (if fld n 0 mw = 0 then .inf (bitOf n (ew + mw)) else .nan)
  else fpFinite ew mw bias n

def decE2M1 (n : Nat) : FpVal := fpFinite 2 1 1 n
def decE3M2 (n : Nat) : FpVal := fpFinite 3 2 3 n
def decE4M3 (n : Nat) : FpVal := if fld n 0 7 = 0x7F then .nan else fpFinite 4 3 7 n
def decE5M2 (n : Nat) : FpVal := fpIeee 5 2 15 n
def decFP16 (n : Nat) : FpVal := fpIeee 5 10 15 n
def decBF16 (n : Nat) : FpVal := fpIeee 8 7 127 n
def decFP32 (n : Nat) : FpVal := fpIeee 8 23 127 n

/-- An integer as an exact value; zero is +0. -/
def fpOfInt (i : Int) : FpVal := .fin (decide (i < 0)) i.natAbs 0

/-- An E8M0 scale (R36): 0xFF is NaN. -/
def decE8M0 (s : Nat) : FpVal := if s % 256 = 255 then .nan else .fin false 1 ((s % 256 : Nat) - 127)

/-! ## Exact operations -/

/-- The negated value. -/
def fpNeg : FpVal → FpVal
  | .nan => .nan
  | .inf s => .inf (!s)
  | .fin s m e => .fin (!s) m e

/-- The magnitude. -/
def fpAbs : FpVal → FpVal
  | .nan => .nan
  | .inf _ => .inf false
  | .fin _ m e => .fin false m e

/-- The exact product (R49, R54): infinity times zero is NaN. -/
def fpMulX : FpVal → FpVal → FpVal
  | .nan, _ => .nan
  | _, .nan => .nan
  | .inf s, .inf t => .inf (s != t)
  | .inf s, .fin t m _ => if m = 0 then .nan else .inf (s != t)
  | .fin s m _, .inf t => if m = 0 then .nan else .inf (s != t)
  | .fin s m e, .fin t n f => .fin (s != t) (m * n) (e + f)

/-- The signed mantissa of a finite value at exponent `q`, which is at most its own exponent. -/
def fpMan (s : Bool) (m : Nat) (e q : Int) : Int :=
  let v : Int := (m * 2 ^ (e - q).toNat : Nat)
  if s then -v else v

/-- The exact sum: a zero sum is −0 only when both addends are −0. -/
def fpAddX : FpVal → FpVal → FpVal
  | .nan, _ => .nan
  | _, .nan => .nan
  | .inf s, .inf t => if s = t then .inf s else .nan
  | .inf s, .fin _ _ _ => .inf s
  | .fin _ _ _, .inf t => .inf t
  | .fin s m e, .fin t n f =>
    if m = 0 ∧ n = 0 then .fin (s && t) 0 0
    else if m = 0 then .fin t n f
    else if n = 0 then .fin s m e
    else
      let q := min e f
      let v := fpMan s m e q + fpMan t n f q
      .fin (decide (v < 0)) v.natAbs q

/-- Exact sum of a list, starting from +0. -/
def fpSumX (l : List FpVal) : FpVal := l.foldl fpAddX (.fin false 0 0)

/-- a < b for values that are not NaN (−0 equals +0); false with a NaN. -/
def fpLt : FpVal → FpVal → Bool
  | .nan, _ => false
  | _, .nan => false
  | .inf s, .inf t => s && !t
  | .inf s, .fin _ _ _ => s
  | .fin _ _ _, .inf t => !t
  | .fin s m e, .fin t n f =>
    let q := min e f
    decide (fpMan s m e q < fpMan t n f q)

/-- Equality of values (−0 equals +0); false with a NaN. -/
def fpEq (a b : FpVal) : Bool := a != .nan && b != .nan && !fpLt a b && !fpLt b a

def fpIsNan (v : FpVal) : Bool := v == .nan
def fpIsInf : FpVal → Bool | .inf _ => true | _ => false
def fpIsZero : FpVal → Bool | .fin _ 0 _ => true | _ => false
def fpSign : FpVal → Bool | .inf s => s | .fin s _ _ => s | .nan => false

/-! ## Rounding to nearest even -/

/-- m · 2^k rounded to an integer, ties to even. -/
def roundShift (m : Nat) (k : Int) : Nat :=
  if 0 ≤ k then m * 2 ^ k.toNat
  else
    let d := 2 ^ (-k).toNat
    let q := m / d
    let r := m % d
    if d < 2 * r ∨ (2 * r = d ∧ q % 2 = 1) then q + 1 else q

/-- num / den rounded to an integer, ties to even. -/
def roundDiv (num den : Nat) : Nat :=
  let q := num / den
  let r := num % den
  if den < 2 * r ∨ (2 * r = den ∧ q % 2 = 1) then q + 1 else q

/-- Magnitude code of m · 2^e in a format of `mw` mantissa bits whose smallest normal exponent is
1 − bias: the exponent and mantissa fields as one number, beyond the format's range when too large. -/
def magCode (mw bias m : Nat) (e : Int) : Nat :=
  if m = 0 then 0
  else
    let emin : Int := 1 - bias
    let ee := max ((Nat.log2 m : Int) + e) emin
    let r := roundShift m (e - (ee - mw))
    (ee - emin).toNat * 2 ^ mw + r

/-- FP32 bits of an exact value (R50): NaN is canonical, overflow gives infinity. -/
def encFP32 : FpVal → F32
  | .nan => 0x7FC00000#32
  | .inf s => if s then 0xFF800000#32 else 0x7F800000#32
  | .fin s m e =>
    BitVec.ofNat 32 (Nat.min (magCode 23 127 m e) 0x7F800000 + b2n s * 2 ^ 31)

/-- FP32 bits as an exact value. -/
def f32 (x : F32) : FpVal := decFP32 x.toNat

def f32Zero : F32 := 0#32
def f32One : F32 := 0x3F800000#32
def f32NegInf : F32 := 0xFF800000#32
def f32Inf : F32 := 0x7F800000#32
def f32Nan : F32 := 0x7FC00000#32

/-- IEEE 754 binary32 addition, nearest even, every NaN canonical (R51, R54). -/
def fadd (a b : F32) : F32 := encFP32 (fpAddX (f32 a) (f32 b))
def fneg (a : F32) : F32 := a ^^^ 0x80000000#32
def fsub (a b : F32) : F32 := encFP32 (fpAddX (f32 a) (fpNeg (f32 b)))
def fmul (a b : F32) : F32 := encFP32 (fpMulX (f32 a) (f32 b))
/-- a · b + c with one rounding. -/
def ffma (a b c : F32) : F32 := encFP32 (fpAddX (fpMulX (f32 a) (f32 b)) (f32 c))
def flt (a b : F32) : Bool := fpLt (f32 a) (f32 b)
def fnan (a : F32) : Bool := fpIsNan (f32 a)

/-! ## Conversion from FP32 (R58, Table 2.7) -/

/-- What one conversion of stage E5 found, for the status word of Table 2.8. -/
abbrev CvtFlags := Nat

/-- The result code of a conversion and whether it clamped, is NaN, is infinite, is subnormal, set INT_SAT. -/
def cvtIeee (ew mw bias : Nat) (nanCode : Nat) (infSat sat : Bool) (v : FpVal) : Nat × CvtFlags :=
  let infCode := (2 ^ ew - 1) * 2 ^ mw
  let sgn := fun s : Bool => b2n s * 2 ^ (ew + mw)
  match v with
  | .nan => (nanCode, 2)
  | .inf s => if infSat && sat then (infCode - 1 + sgn s, 1) else (infCode + sgn s, 4)
  | .fin s m e =>
    let c := magCode mw bias m e
    if infCode ≤ c then (if sat then (infCode - 1 + sgn s, 1) else (infCode + sgn s, 4))
    else (c + sgn s, if 0 < c ∧ c < 2 ^ mw then 8 else 0)

/-- The integer nearest to a finite value, ties to even. -/
def fpToInt (s : Bool) (m : Nat) (e : Int) : Int :=
  let r : Int := roundShift m e
  if s then -r else r

/-- Conversion to an element format of Table 2.1 by its code.  The flags: bit 0 clamped, bit 1 NaN,
bit 2 infinite, bit 3 subnormal, bit 4 INT_SAT.  BF16 has no SAT clamp (Table 2.7). -/
def cvtFrom (fmt : Nat) (sat : Bool) (v : FpVal) : Nat × CvtFlags :=
  match fmt with
  | 0x2 =>
    match v with
    | .nan => (0x7F, 2)
    | .inf s => if sat then (0x7E + b2n s * 128, 1) else (0x7F, 2)
    | .fin s m e =>
      let c := magCode 3 7 m e
      if 0x7E < c then (if sat then (0x7E + b2n s * 128, 1) else (0x7F, 2))
      else (c + b2n s * 128, if 0 < c ∧ c < 8 then 8 else 0)
  | 0x3 => cvtIeee 5 2 15 0x7E true sat v
  | 0x4 =>
    match v with
    | .nan => (0, 16)
    | .inf s => (if s then 0x80 else 0x7F, 17)
    | .fin s m e =>
      let i := fpToInt s m e
      if i < -128 then (0x80, 17) else if 127 < i then (0x7F, 17) else (ofInt i 8, 0)
  | 0x5 => cvtIeee 8 7 127 0x7FC0 false false v
  | 0x6 => cvtIeee 5 10 15 0x7E00 false sat v
  | 0x8 => cvtIeee 8 23 127 0x7FC00000 false false v
  | _ =>
    match v with
    | .nan => (0, 0)
    | .inf s => (if s then 0x80000000 else 0x7FFFFFFF, 1)
    | .fin s m e =>
      let i := fpToInt s m e
      if i < -(2 ^ 31) then (0x80000000, 1) else if 2 ^ 31 - 1 < i then (0x7FFFFFFF, 1) else (ofInt i 32, 0)

/-- The value of an element of format `fmt` (Table 2.1); MX elements without their scale. -/
def decFmt (fmt n : Nat) : FpVal :=
  match fmt with
  | 0x0 => decE2M1 n
  | 0x1 => decE3M2 n
  | 0x2 => decE4M3 n
  | 0x3 => decE5M2 n
  | 0x4 => fpOfInt (sext n 8)
  | 0x5 => decBF16 n
  | 0x6 => decFP16 n
  | 0x8 => decFP32 n
  | _ => fpOfInt (sext n 32)

/-- Bits per element of a format code. -/
def fmtBits (fmt : Nat) : Nat :=
  match fmt with
  | 0x0 => 4
  | 0x1 => 6
  | 0x2 => 8
  | 0x3 => 8
  | 0x4 => 8
  | 0x5 => 16
  | 0x6 => 16
  | 0x7 => 12
  | 0x8 => 32
  | 0x9 => 32
  | _ => 8

/-- Whether the format carries E8M0 block scales. -/
def fmtMx (fmt : Nat) : Bool := fmt == 0 || fmt == 1

/-- The largest finite magnitude of a finite value list, as an exact value. -/
def fpMaxAbs (l : List FpVal) : FpVal :=
  l.foldl (fun a v => if fpLt a (fpAbs v) then fpAbs v else a) (.fin false 0 0)

/-- ⌊log₂ v⌋ of a finite nonzero value. -/
def fpLog2 : FpVal → Int
  | .fin _ m e => (Nat.log2 m : Int) + e
  | _ => 0

/-- An MX block of at most 32 values (R59): the scale code, the element codes and each element's flags. -/
def mxBlock (fmt : Nat) (vs : List FpVal) : Nat × List Nat × List CvtFlags :=
  let emax : Int := if fmt = 0 then 2 else 4
  let mw := if fmt = 0 then 1 else 2
  let bias := if fmt = 0 then 1 else 3
  let top := if fmt = 0 then 7 else 31
  let sb := if fmt = 0 then 8 else 32
  if vs.any fun v => fpIsNan v || fpIsInf v then (0xFF, vs.map fun _ => 0, vs.map fun _ => 2)
  else
    let amax := fpMaxAbs vs
    if fpIsZero amax then (0x7F, vs.map fun _ => 0, vs.map fun _ => 0)
    else
      let x := max (-127) (min 127 (fpLog2 amax - emax))
      let one := fun (v : FpVal) =>
        match v with
        | .fin s m e =>
          let c := magCode mw bias m (e - x)
          (Nat.min c top + b2n s * sb,
            (if top < c then 1 else 0) + (if 0 < c ∧ c < 2 ^ mw then 8 else 0))
        | _ => (0, 0)
      let rs := vs.map one
      ((x + 127).toNat, rs.map (·.1), rs.map (·.2))

/-! ## Packing of elements into bytes (Tables 2.3, 2.7) -/

/-- Element `i` of a packed row of format `fmt`. -/
def elemAt (fmt : Nat) (row : List Byte) (i : Nat) : Nat :=
  let w := fmtBits fmt
  fld (ofLe ((row.drop (i * w / 8)).take 5)) (i * w % 8) w

/-- Packs codes of `w` bits as one little-endian bit string. -/
def packBits (w : Nat) : List Nat → Nat
  | [] => 0
  | c :: t => c % 2 ^ w + 2 ^ w * packBits w t

/-- The bytes of a packed row of codes. -/
def packRow (fmt : Nat) (codes : List Nat) : List Byte :=
  leBytes (packBits (fmtBits fmt) codes) (ceilDiv (codes.length * fmtBits fmt) 8)

end Sys2Proof.Machine
end

