-- ==== Sys2Proof/Machine/Parts.lean ====
section
/-! DEFINITION. The record types the state is built from, chapter by chapter: a tile with its scratchpad,
queues and transfers, a router, a collective engine and gateway.  Types only. -/

namespace Sys2Proof.Machine

/-! ## The scratchpad of a tile (chapter 03) -/

/-- One merge-buffer entry (R85): a word address and the bytes of it that were written, by offset. -/
structure MEntry where
  word : Nat
  bytes : List Host.Cell
deriving DecidableEq, Repr

/-- One line of a tile's shadow queue (R271): scratchpad address of the line, allotment offset of its image, and
the written words by number in the line. -/
structure ShadowLine where
  line : Nat
  off : Nat
  words : List (Nat × List Byte)
deriving DecidableEq, Repr

/-- Data cells, valid words and merge buffer (R69, R85, R89), the read and write slots taken so far (R74), and what
the write port copies: the shadow windows and the shadow queue, oldest line first (R270, R271); `wb` lists the words whose
corrected value waits to be written back (R94), `sqWait` the words whose copies wait at the write port while the shadow queue is full (R271).  `mem` is in
canonical form; `valid` holds sorted word indexes, `mb` entries from oldest to newest. -/
structure Spad where
  mem : List Host.Cell
  valid : List Nat
  mb : List MEntry
  rd : Nat
  wr : Nat
  win : List ShadowWindow
  sq : List ShadowLine
  wb : List Nat
  sqWait : List (Nat × List Byte) := []
deriving DecidableEq, Repr

/-! ## Queues, descriptors and objects (chapter 04) -/

/-- A synchronisation object (R124).  The value at the end of the cycle before `chg`, and what cycle `chg`
applied: a local and a remote RESET and the sum of the ARRIVEs (Table 4.17). -/
structure SyncObj where
  prev : Nat
  chg : Nat
  rstL : Option Nat
  rstR : Option Nat
  sum : Nat
deriving DecidableEq, Repr

/-- One occupied place of a ring (R104): its position, whether the entry is written, the fired descriptor
that has reserved it as an input, and for a descriptor queue the descriptor index. -/
structure QSlot where
  pos : Nat
  written : Bool
  resv : Option Nat
  idx : Nat
deriving DecidableEq, Repr

/-- One hardware queue: its occupied places in ring order, the next write position, and for a descriptor
queue the fetcher's index, its loop counters, END retired, the last descriptor retired, the cycles for which its
head has met conditions 1 to 7 of R115, and since when its oldest unretired descriptor is that (R354). -/
structure Queue where
  slots : List QSlot
  tail : Nat
  fetchIdx : Nat
  loops : List Nat
  fetchDone : Bool
  closed : Bool
  lastRetired : Option Nat
  age : Nat
  since : Nat
deriving DecidableEq, Repr

/-- A fired, unretired descriptor: its identity, what it reserved (R115), and what it has produced so far.
`open` counts the transfers of its parts that are not yet answered. -/
structure Fired where
  fid : Nat
  q : Nat
  idx : Nat
  desc : Nat
  status : Nat
  detail : Nat
  outAddr : Nat
  bytes : Nat
  arith : Nat
  parts : Nat
  partFail : List Nat
  openParts : List (Nat × Nat)
  ins : List (Nat × Nat)
  out : Option (Nat × Nat)
  comp : Option Nat
  noArrive : Bool
  closing : Bool
  stage : Nat
  firedAt : Nat
deriving DecidableEq, Repr

/-- One half of a codebook store (R43, R45): its tag (0 EMPTY, 1 SCALES, 2 CB_MXFP4, 3 CB_E4M3, 4 CB_E5M2) and bytes. -/
structure HalfStore where
  tag : Nat
  data : List Host.Cell
deriving DecidableEq, Repr

/-! ## Transfers (chapters 07 and 08) -/

/-- What a transfer carries, and what its end does at the sender. -/
inductive XKind where
  | put | gather (obj lt dev : Nat)
  | get | readData
  | message (multicast : Bool) (members : List Nat)
  | scatterRow | scatterClose
  | contribute
deriving DecidableEq, Repr

/-- A transfer to be sent (R197): the fired descriptor and part it belongs to, its destination, the inline
bytes of packet SEQ 0 (R216), then one piece for each further packet (landing address, source address, bytes;
every transmission reads the source again, R218), its retry parameters and retries used (R224), and the time
before which it may not start, 0 for none. -/
structure Xfer where
  fid : Nat
  part : Nat
  kind : XKind
  typ : Nat
  chan : Nat
  dstKind : Nat
  dst : Nat
  fabric : Bool
  destDev : Nat
  destLt : Nat
  transport : Nat
  inl : List Byte
  pieces : List (Nat × Nat × Nat)
  retryMax : Nat
  retryGap : Nat
  retries : Nat
  after : Nat
deriving DecidableEq, Repr

/-- State of one packet of an open transfer. -/
inductive PktState where
  | unsent
  | sent (at_ : Nat)
  | acked
  | retryAt (t : Nat)
deriving DecidableEq, Repr

/-- An open transfer of a source: its flow and transfer number, each packet's state, FLOW_XOFF seen,
when the whole message is to be retried after a refusal, the members of a multicast that answered, and the last NACK reason. -/
structure TxFlow where
  flow : Nat
  transfer : Nat
  x : Xfer
  pkts : List PktState
  xoff : Bool
  retryAt : Option Nat
  answered : List Nat
  lastNack : Nat
  dead : Bool := false
deriving DecidableEq, Repr

/-- Key of a flow at its destination (chapter 07, "Spray, flows and reordering"). -/
structure XKey where
  dev : Nat
  lt : Nat
  flow : Nat
  transfer : Nat
deriving DecidableEq, Repr

/-- An open flow of a reorder unit (R198): the expected SEQ, the held packets with their arrival times,
whether FLOW_XOFF was sent (R200), the inline and bulk bytes released so far in flow order, and MSG_LEN and DEST_ADDR of a message. -/
structure RxFlow where
  key : XKey
  region : Nat
  expected : Nat
  held : List (Nat × Packet)
  xoff : Bool
  inl : List Byte
  bulk : List Byte
  msgLen : Nat
  addr : Nat
deriving DecidableEq, Repr

/-- Receive state of one expert record (R179, R180): rows in the current buffer, the current buffer number,
buffers posted and not yet freed, CLOSEs counted, whether the prologue has run this step, and a post owed for want of room. -/
structure ExpertState where
  rows : Nat
  cur : Nat
  posted : List Nat
  closes : Nat
  prologue : Bool
  owed : Bool
deriving DecidableEq, Repr

/-- The message-layer counters of a tile (Table 8.12) and its instance counter (R117). -/
structure TileCounters where
  msgSent : Nat
  msgAccepted : Nat
  nackTx : List (Nat × Nat)
  nackRx : List (Nat × Nat)
  retxTimeout : Nat
  strayAck : Nat
  dedupEvict : Nat
  dedupLost : Nat
  compDrop : Nat
  staleInstance : Nat
deriving DecidableEq, Repr

/-- One tile at a physical position. -/
structure Tile where
  spad : Spad
  objs : List (Nat × SyncObj)
  objCfg : List (Nat × ObjCfg)
  qcfg : List (Nat × QCfg)
  queues : List (Nat × Queue)
  fired : List Fired
  nextFid : Nat
  handlers : List (Nat × Handler)
  lists : List Window
  protects : List Window
  experts : List (Nat × ExpertRec)
  expState : List (Nat × ExpertState)
  mcast : List (Nat × McastRec)
  compQueue : Nat
  inUse : Bool
  gen : Nat
  region : Nat
  halves : List (Nat × HalfStore)
  ceBank : List (Nat × Nat)
  ceTile : Nat
  ceThreshold : Nat
  scrubLine : Nat
  scrubSlot : Nat
  flows : List (Nat × TxFlow)
  lastXfer : List (Nat × Nat)
  waiting : List Xfer
  returns : List TxFlow
  rx : List RxFlow
  closedXfers : List (XKey × Nat)
  evicted : Bool
  cnt : TileCounters
  heldReset : Bool
  fenced : Bool
  clockGated : Bool
  rotEngine : List (Nat × Nat)
  lastFire : List (Nat × Nat)
  dedupAt : Option (Nat × Nat) := none
  actStore : List Byte := []
  accBanks : List (Nat × List (BitVec 32)) := []
deriving DecidableEq, Repr

/-! ## Routers (chapter 07) -/

/-- The single-value counters of Table 7.15. -/
inductive RCnt where
  | flitCe | flitUe | ageDrop | hopDrop | noRoute | epochStray | deadDrop | regionDrop | staleGen
  | nobufNack | dupDrop | reorderAge | flowXoffSent | rippleHold
deriving DecidableEq, Repr

/-- One router: region register with the value before its last rewrite, telemetry, the two route tables, the
lane buffers of its input ports (key (port·4 + vc)·2 + lane), the lanes whose XOFF it raises, dead ports,
first places of its arbitration points, the Ripple receive FIFO and HOLD, and the packets its LOCAL output
has delivered and the tile has not yet handled.  `alive` is false for a router that has stopped.  `outbox` holds the packets of
the tile, engine or gateway that wait outside an input lane whose XOFF is raised (R191), each with the key of its lane; `fifoAt`
and `holdAt` are when the Ripple FIFO was last reckoned and when HOLD was raised (R212). -/
structure Router where
  region : Nat
  prevRegion : Nat
  regionAt : Nat
  telCtl : Nat
  histBase : Nat
  histFrom : Nat
  hist : List (Nat × Nat)
  pkts : List (Nat × Nat)
  flits : List (Nat × Nat)
  stall : List (Nat × Nat)
  xoffTime : List (Nat × Nat)
  cnts : List (Nat × Nat)
  table0 : List (Nat × BitVec 32)
  table1 : List (Nat × BitVec 32)
  bufs : List (Nat × List Packet)
  xoff : List Nat
  dead : List Nat
  alive : Bool
  rot : List (Nat × Nat)
  rippleFifo : Nat
  hold : Bool
  inbox : List Packet
  outbox : List (Nat × Packet) := []
  fifoAt : Nat := 0
  holdAt : Nat := 0
deriving DecidableEq, Repr

/-- State of a route-table version (Table 7.9). -/
inductive VState where
  | writable | ready | active | draining
deriving DecidableEq, Repr

/-! ## Collective engines and gateways (chapters 08 and 09) -/

/-- One contribution of the local side: tile, queue, index, parameter block and the bytes received. -/
structure Contribution where
  lt : Nat
  q : Nat
  idx : Nat
  fid : Nat
  destAddr : Nat
  block : List Byte
  data : List Byte
  retryMax : Nat
  retryGap : Nat
deriving DecidableEq, Repr

/-- One piece or result received from a peer in an open transfer or whole; `par` holds the OP, REDOP and ELEMENTS it
carried, and `hold` the LAST packet of one that came whole before the local side opened, answered when it opens (R232). -/
structure PeerPiece where
  rank : Nat
  piece : Nat
  result : Bool
  dev : Nat
  data : List Byte
  whole : Bool
  checked : Bool
  par : Nat
  hold : Option Packet := none
deriving DecidableEq, Repr

/-- One context of a collective queue: a collective by its COLL_SEQ; `order` lists the ranks in the order in which their pieces began to
arrive (Table 1.5, ARRIVAL_FOLD). -/
structure CollCtx where
  collSeq : Nat
  contribs : List Contribution
  localOpen : Bool
  failed : Nat
  peers : List PeerPiece
  folded : Nat
  result : List F32
  sent : List Nat
  started : Bool
  released : Bool
  done : Bool
  order : List Nat := []
deriving DecidableEq, Repr

/-- One physical collective queue of an engine: owning region, the region's number for it, the oldest
incomplete COLL_SEQ and the contexts in use (at most 4). -/
structure CollQueue where
  region : Nat
  num : Nat
  oldest : Nat
  ctxs : List CollCtx
deriving DecidableEq, Repr

/-- The counters of an engine (Table 8.12). -/
structure EngCounters where
  contribRx : Nat
  digestOk : Nat
  digestFail : Nat
  ctxNack : Nat
  collMismatch : Nat
  foldOps : Nat
  foldCe : Nat
  foldUe : Nat
  spineDrop : Nat := 0
deriving DecidableEq, Repr

/-- A collective engine and the fabric gateway of its die (R218, R230): queues, packets from the mesh not
yet handled, packets from Tarn not yet admitted, open transfers toward peers, closed transfers, fold data, and the first places
of its columns' spines (R210, R440). -/
structure Engine where
  queues : List (Nat × CollQueue)
  cnt : EngCounters
  inbox : List Packet
  ingress : List FabPacket
  egress : List FabPacket
  flows : List TxFlow
  rx : List RxFlow
  closedXfers : List (XKey × Nat × Nat)
  lastXfer : Nat
  fenced : Bool
  gwDrop : List (Nat × Nat)
  spineRot : List (Nat × Nat) := []
deriving DecidableEq, Repr

end Sys2Proof.Machine
end

