-- ==== Sys2Proof/Machine/StoreParts.lean ====
section
/-! DEFINITION. The record types of Basin, the capture area and the Silt tier (chapter 10, R133, R268).  Types only. -/

namespace Sys2Proof.Machine

/-! ## Basin -/

/-- One Basin controller: BSN_SCRUB_CTL (Table 10.5), the patrol position in 64-byte words of its stack,
the time at which its pass began, and its counters (Table 10.6). -/
structure BasinCtl where
  en : Bool
  periodH : Nat
  passPct : Nat
  behind : Bool
  scrubWord : Nat
  ce : Nat
  ue : Nat
  poisonRd : Nat
  healed : Nat
  shadowFail : Nat
  undoBytes : Nat
  scrubPasses : Nat
  ecs : Nat
  passStart : Nat := 0
deriving DecidableEq, Repr

/-- An undo entry (R272): allotment offset of the granule, low 16 bits of the step, the 512 old bytes, and the
region. -/
structure UndoEntry where
  off : Nat
  stepLow : Nat
  old : List Byte
  region : Nat := 0
deriving DecidableEq, Repr

/-- A tile section that SCAN_OUT wrote (R133), by its Basin address and length: the tile, the SCOPE copied and what it
holds; `vals` are its object values, `board` its descriptor queues' indices, loop counters and scoreboards, `head` its tile header, and
`flows`, `waiting` and `returns` the transfers its engines have open.  `tag` numbers the free bytes of the parts whose layout is not published.
A bundle's header and commit marker stand here as the bytes in `raw`, with LT 0x3FF. -/
structure ScanSec where
  addr : Nat
  len : Nat
  tag : Nat
  lt : Nat
  scope : Nat
  region : Nat
  queues : List (Nat × Queue)
  rings : List (Nat × List Byte)
  objs : List (Nat × SyncObj)
  fired : List Fired
  halves : List (Nat × HalfStore)
  mb : List MEntry
  rx : List RxFlow
  vals : List Nat := []
  board : List Byte := []
  head : List Byte := []
  flows : List (Nat × TxFlow) := []
  waiting : List Xfer := []
  returns : List TxFlow := []
  raw : Option (List Byte) := none
deriving DecidableEq, Repr

/-- A bundle (Table 4.23) in a capture slot: REASON 0 context switch, 1 fault capture, 2 repair copy; `committed`
says its commit marker is written, `tilesLost` lists tiles a capture left incomplete. -/
structure Bundle where
  slot : Nat
  base : Nat
  region : Nat
  inst : Nat
  step : Nat
  attempt : Nat
  reason : Nat
  seq : Nat
  tiles : List Nat
  tilesLost : List Nat
  committed : Bool
  exported : Bool
  lost : Bool
  at_ : Nat
deriving DecidableEq, Repr

/-! ## Silt -/

/-- Where a unit lies: superblock, stripe in it, channel and target of the stripe's page, plane and page of the block, and how many
spares had taken the block's place; its transaction and its data, as they were before encryption (log 31). -/
structure SUnit where
  sb : Nat
  stripe : Nat
  chan : Nat
  txn : Nat
  data : List Byte
  target : Nat := 0
  plane : Nat := 0
  page : Nat := 0
  gen : Nat := 0
deriving DecidableEq, Repr

/-- A namespace (R286): SLT_NS_STATUS (Table 10.13), capacity in units, whether its key slot holds a key, the rated
endurance, blocks and spare blocks, its map with the data, its counters (Table 10.14), whether it is sealed, the wrap key under which
its key pair is stored (R396), the stages raised as a bit map (R300), and its reads of the last 24 hours: the second, and whether the
read ended at step 3 or above. -/
structure SNs where
  opened : Bool
  readonly : Bool
  stage : Nat
  pslc : Bool
  owner : Nat
  persist : Bool
  capacity : Nat
  keyed : Bool
  endurance : Nat
  blocks : Nat
  spare : Nat
  units : List (Nat × SUnit)
  ladderHist : List Nat
  marginHist : List Nat
  ue : Nat
  retired : Nat
  relocated : Nat
  txnCommit : Nat
  txnAbort : Nat
  isSealed : Bool
  wrap : Nat
  raised : Nat := 0
  recent : List (Nat × Bool) := []
deriving DecidableEq, Repr

/-- A superblock (R285): zone, the channels it was opened with, pages used in stripe order, whether it still takes
pages, the second it was opened, its write sequence and erase count, its margin histogram and the count of reads that ended at each
ladder step (R296), and its reads of the last 24 hours as in a namespace (R299). -/
structure SSuper where
  no : Nat
  pslc : Bool
  chans : List Nat
  used : Nat
  isOpen : Bool
  since : Nat
  seq : Nat
  erases : Nat
  hist : List Nat
  ends : List Nat
  recent : List (Nat × Bool)
deriving DecidableEq, Repr

/-- What is recorded of a block: the ladder step that succeeded last (R295) and the seconds of its reads of the last 24 hours that
needed step 9 or above (R298). -/
structure SBlock where
  ladder : Nat
  step9 : List Nat
deriving DecidableEq, Repr

/-- Stage of a transaction (R290, R291): waiting for an overlapping one, programming its data, journal record issued. -/
inductive TStage where
  | waiting | programming | journal
deriving DecidableEq, Repr

/-- A transaction: its sequence number, namespace, the descriptor it completes (none for a relocation), the step and
attempt that issued it, its stage and its units with their data and the places programmed.  The data of the transactions in flight is
what the staging SRAM holds (R282). -/
structure STxn where
  no : Nat
  ns : Nat
  issuer : Option (Nat × Nat)
  region : Nat
  step : Nat
  attempt : Nat
  stage : TStage
  units : List (Nat × SUnit)
deriving DecidableEq, Repr

/-- A journal record (R290): its transaction and namespace, the bytes of its pages (Table 10.10), and the units that its map entries
name. -/
structure JRec where
  txn : Nat
  ns : Nat
  pages : List (List Byte)
  units : List (Nat × SUnit)
deriving DecidableEq, Repr

/-- One ONFI channel: usable, its operations and failures (Table 10.14); as bit maps of its targets, those refused (SLT_CH_STATUS), those
that declare no read-retry levels (R283) and those that do not offer NV-LPDDR4 (R282). -/
structure SChan where
  usable : Bool
  reads : Nat
  programs : Nat
  erases : Nat
  progFail : Nat
  eraseFail : Nat
  refused : Nat := 0
  noRetry : Nat := 0
  ddr3 : Nat := 0
deriving DecidableEq, Repr

/-- The Silt controller: channels, namespaces, superblocks, transactions in flight, the next transaction number, the journal records
since the last checkpoint, the highest number a checkpoint covers, the blocks retired in order, pages of a
block and rated TLC endurance (parameter page), whether it is halted by a power failure, program times of the two zones (mean and at
first use, in µs); planes of a target and blocks of a plane (parameter page), the blocks' records, the map pages of the last checkpoint, the
channels whose factory-marked blocks have been scanned and those trained, as bit maps, the journal records that this start cannot read,
the last 1,024 program times of each zone, and the pages of journal and map programmed so far. -/
structure Silt where
  chans : List (Nat × SChan)
  nss : List (Nat × SNs)
  supers : List (Nat × SSuper)
  txns : List STxn
  nextTxn : Nat
  journal : List JRec
  checkpoint : Nat
  badBlocks : List Nat
  pagesPerBlock : Nat
  tlcRated : Nat
  halted : Bool
  tprogMean : List Nat
  tprogBase : List Nat
  planes : Nat := 1
  blockCount : Nat := 65536
  blocks : List (Nat × SBlock) := []
  maps : List (Nat × List (Nat × SUnit)) := []
  scanned : Nat := 0
  trained : Nat := 0
  unread : List Nat := []
  progTimes : List (List Nat) := [[], []]
  metaPages : Nat := 0
deriving DecidableEq, Repr

end Sys2Proof.Machine
end

