-- ==== Sys2Proof/Machine/HostParts.lean ====
section
/-! DEFINITION. The record types of the host interface, the event recorder, the tenant regions and their
sequence contexts (chapters 01, 05, 11, 14).  Types only. -/

namespace Sys2Proof.Machine

/-! ## Event recorder (chapter 14) -/

/-- A stored event record (Table 14.1); `at_` is the cycle of its first occurrence, `payload` bytes 32 to 63. -/
structure EvRec where
  seq : Nat
  code : Nat
  cls : Nat
  hist : Bool
  extreme : Bool
  flushed : Bool
  region : Nat
  lt : Nat
  px : Nat
  py : Nat
  unit : Nat
  sub : Nat
  rep : Nat
  func : Nat
  at_ : Nat
  secs : Nat
  spanMs : Nat
  step : Nat
  payload : List Byte
deriving DecidableEq, Repr

/-- Flood accounting of one code (R381): the 1 ms interval and the records stored in it, flood mode, the
eight bins, and the first counted occurrence with its cycle. -/
structure Flood where
  code : Nat
  ms : Nat
  count : Nat
  flooding : Bool
  bins : List Nat
  first : Nat
  occ : Option Occurrence
deriving DecidableEq, Repr

/-- An extreme quantity (Table 14.4): minimum and maximum with their times, changed since the last record. -/
structure Extreme where
  num : Nat
  min : Int
  max : Int
  minAt : Nat
  maxAt : Nat
  changed : Bool
deriving DecidableEq, Repr

/-- A fault-history entry (Table 14.5): the key word and up to 15 times in seconds, oldest first; and for the unit's Palacy
records all charged faults, the TIME of the first, and the 16 bins of Table 14.8. -/
structure HistEntry where
  key : Nat
  times : List Nat
  permanent : Bool
  events : Nat
  first : Nat
  spread : List Nat
deriving DecidableEq, Repr

/-- A Palacy record by its number and its 256 bytes (Table 14.7). -/
structure Palacy where
  no : Nat
  bytes : List Byte
deriving DecidableEq, Repr

/-- The event recorder and its part of the record store (R378 to R390). -/
structure Recorder where
  nextSeq : Nat
  cache : List Nat
  buffer : List EvRec
  log : List EvRec
  fatal0 : Option EvRec
  fatal : List EvRec
  floods : List Flood
  extremes : List Extreme
  extremeAt : Nat
  extremeSecs : Nat
  history : List HistEntry
  palacy : List Palacy
  recordNo : Nat
  board : List EvRec
  recStored : Nat
  recFolded : Nat
  recFlood : Nat
  recOverwrite : List Nat
  boardDrop : List Nat
  histEvict : Nat
deriving DecidableEq, Repr

/-! ## Host functions (chapter 11) -/

/-- A deferred request (R309, Table 11.17): its outcome fields, whether the outcome is reached (`finished`)
and whether it has been written out (`published`).  `part` bytes written so far stay. -/
structure Req where
  id : Nat
  opcode : Nat
  tag : Nat
  status : Nat
  partMap : Nat
  partsMinus1 : Nat
  region : Nat
  result : List Byte
  finished : Bool
  hostDma : Bool
  seqNo : Nat
deriving DecidableEq, Repr

/-- Why a function is disabled and where its outcomes go (Table 11.20). -/
inductive DisableKind where
  | command | vfReset | pfReset
deriving DecidableEq, Repr

/-- Quota of a VF (Table 11.15). -/
structure Quota where
  regions : Nat
  tiles : Nat
  basinGib : Nat
  contexts : Nat
  namespaces : Nat
  siltGib : Nat
deriving DecidableEq, Repr

/-- One PCIe function: mailbox page, interrupt controls, MSI-X table and pending bits, event ring with its
backlog, requests and request log, configuration, quota, alarm queue and disable state; `rungSeq` is the SEQ of the last
doorbell, `rungNow` its time; `d3` says that the function is in D3hot; `w1c` holds by bit when the hardware last set a W1C bit (R11). -/
structure Fn where
  cmd : List Host.Cell
  resp : List Byte
  evqBase : Nat
  evqEn : Bool
  evqVector : Nat
  evqSize : Nat
  evqHead : Nat
  evqTail : Nat
  ring : List (Nat × List Byte)
  backlog : List (List Byte)
  ready : Bool
  busy : Bool
  done : Bool
  disabled : Bool
  overrun : Bool
  lockWr : Bool
  hostLate : Bool
  lastSeq : Nat
  rungSeq : Nat
  locked : Option Instr
  hostBeat : Nat
  beatAt : Nat
  intCause : Nat
  intMask : Nat
  intVec : Nat
  intMod : Nat
  unsig : Nat
  unsigAt : Nat
  msix : List Host.Cell
  pba : List Nat
  requests : List Req
  reqLog : List Req
  nextReq : Nat
  quota : Quota
  beatMs : Nat
  beatStop : Bool
  disableMs : Nat
  drain : Option (Nat × DisableKind)
  bme : Bool
  d3 : Bool
  alarms : List EvRec
  alarmDrop : List Nat
  alarmReported : List Nat
  w1c : List (Nat × Nat) := []
  rungNow : Nat := 0
deriving DecidableEq, Repr

/-- The fault and status block (Table 11.10), held in the Wellhead domain; `w1c` as in `Fn`. -/
structure Flt where
  state : Nat
  startPath : Nat
  bootError : Nat
  fwBeat : Nat
  beatAt : Nat
  cause : Nat
  count : Nat
  fatalValid : Bool
  fatalCode : Nat
  tempMax : Nat
  powerW : Nat
  throttle : Bool
  capActive : Bool
  powerFail : Bool
  emergency : Bool
  badAccess : Nat
  w1c : List (Nat × Nat) := []
deriving DecidableEq, Repr

/-- The identity block (Table 11.9) but for its constants; `listed` says that an IDENTIFY response since READY has listed the
preserved bundles (R353), `factory` is the number of fused repairs, and `factoryRead` is what IDN_SPARES.FACTORY shows from READY on. -/
structure Idn where
  compat : Bool
  factory : Nat
  field : Nat
  assigned : Bool
  deviceId : Nat
  incarnation : Nat
  serial : Nat
  fwVersion : Nat
  fwId : Nat
  lifecycle : Nat
  debugLevel : Nat
  fwSlot : Nat
  speed : Nat
  width : Nat
  vfs : Nat
  listed : Bool
  factoryRead : Nat := 0
deriving DecidableEq, Repr

/-! ## Tenant regions (chapters 01, 04, 05) -/

/-- Tokens of one context in a ledger entry. -/
structure LedgerTokens where
  ctx : Nat
  seqKey : Nat
  tokens : List Nat
  stopReason : Nat
  delivered : Bool
deriving DecidableEq, Repr

/-- One commit-ledger entry (R18, R19): pending until the step commits. -/
structure LedgerEntry where
  step : Nat
  attempt : Nat
  final : Bool
  nondet : Bool
  imageId : Nat
  tokens : List LedgerTokens
  covered : List (Nat × Nat)
  lookups : List (PrefixLookup × Nat)
  stored : List (Nat × Nat)
deriving DecidableEq, Repr

/-- A boundary action that waits (R17), with what it is to do. -/
inductive BAct where
  | heal
  | castle (pos : Nat)
  | rePlace (lt : Nat)
  | refill (lt : Nat)
  | flip
  | member (groupId members rank : Nat) (peers : List Peer)
  | load (img : Image)
  | unload
  | stop (status : Nat)
  | destroy
  | admitSeq (b : AdmitBlock) (tokens : List Nat) (keys : List (BitVec 128))
  | release (seqKey : Nat)
  | dvfs (die mhz : Nat)
  | promote (rank dev reg lastStep : Nat)
  | remove (rank : Nat)
deriving DecidableEq, Repr

/-- A waiting boundary action with the request it completes (function and REQ_ID) and its acceptance order. -/
structure BEntry where
  act : BAct
  req : Option (Nat × Nat)
  order : Nat
deriving DecidableEq, Repr

/-- Owner data of a pool page (R145): reference count, shared, and the key it carries, if `keyed` says that it carries one. -/
structure PoolPage where
  page : Nat
  refs : Nat
  shared : Bool
  prefixKey : BitVec 128
  modelKey : Nat
  keyed : Bool
deriving DecidableEq, Repr

/-- A page a cache region stores (R159, R162): its keys and blocks, the sequence and page it came with, when it was last
served, and whether the step that received it has committed. -/
structure CachePage where
  prefixKey : BitVec 128
  modelKey : Nat
  seqKey : Nat
  pageIndex : Nat
  headFirst : Nat
  heads : Nat
  layers : Nat
  blocks : List (List Byte)
  served : Nat
  committed : Bool
  step : Nat
deriving DecidableEq, Repr

/-- A page that a context has received (R160): its index, producing step, first head and producing group, and how many
heads and layers it carried (Table 5.12). -/
structure PageIn where
  page : Nat
  step : Nat
  head : Nat
  group : Nat
  heads : Nat := 0
  layers : Nat := 0
deriving DecidableEq, Repr

/-- The prefix lookups of a prompt context (R159): none made, one outstanding from a first key, or ended. -/
inductive Lookup where
  | none_
  | waiting (first : Nat)
  | ended
deriving DecidableEq, Repr

/-- A sequence context record (Table 5.1, Table 5.2), with the hand-off bookkeeping of R159 to R161. -/
structure Ctx where
  region : Nat
  state : Nat
  seqKey : Nat
  seed : Nat
  modelKey : Nat
  committedStep : Nat
  position : Nat
  lastToken : Nat
  tokensOut : Nat
  maxNew : Nat
  maxPosition : Nat
  stopIds : List Nat
  temperature : F32
  topP : F32
  topK : Nat
  flags : Nat
  stopReason : Nat
  draftCount : Nat
  pageBase : Nat
  pageCount : Nat
  acceptTotal : Nat
  draftTotal : Nat
  acceptMap : Nat
  acceptLast : Nat
  draftTokens : List Nat
  draftParent : Nat
  deadline : Nat
  handoff : Option SeqHandoff
  pagesIn : List PageIn
  covered : List CommitNotice
  prompt : List Nat
  prefixKeys : List (BitVec 128)
  genGroup : Nat
  cacheGroup : Nat
  hits : Nat
  lookup : Lookup
  undelivered : Nat
deriving DecidableEq, Repr

/-- A node that re-placement moved (R346): its number, the absent tile and the receiving one, the old and new numbers of its
queues, objects and handlers, and whether it takes every reference to the absent tile that no other moved node owns. -/
structure Rename where
  node : Nat
  old : Nat
  new : Nat
  queues : List (Nat × Nat)
  objs : List (Nat × Nat)
  handlers : List (Nat × Nat)
  rest : Bool
deriving DecidableEq, Repr

/-- A tenant region (chapters 01, 04, 05, 11): its identity and rectangle, role and limits, the step it is in,
its group, its image, its contexts and pool, its ledger and its waiting boundary actions.  `readyFrom` holds the
STEP_READY messages received as (rank, step, attempt); `loadedMap` gives the tile of each node; `undo` is the undo log,
oldest entry first, and `filt` the granules in the step filter; `idleAt` is when it came to its boundary, and `pushes` the
pages pushed to a group and not yet acknowledged; `queryStep` is the step of the STEP_QUERY that `queryAt` and `answers` belong to,
`leaving` the ranks that the next route flip removes (R24), `landed` the pages that contexts received during this
step, `cacheIn` the pages that the commit of this step stores (R162); `renames` lists the moves of nodes since the image was loaded. -/
structure Region where
  owner : Nat
  role : Role
  x0 : Nat
  y0 : Nat
  w : Nat
  h : Nat
  jobId : Nat
  attemptLimit : Nat
  collQueues : Nat
  timeoutUs : Nat
  basinBase : Nat
  basinGib : Nat
  repairPause : Bool
  arrivalFold : Bool
  samplerFree : Bool
  faultInject : Bool
  step : Nat
  attempt : Nat
  mstate : MState
  rstate : RState
  failed : Bool
  failCauses : List Nat
  failRecs : List Nat
  stepStart : Nat
  readyFrom : List (Nat × Nat × Nat)
  answers : List (Nat × QueryAnswer)
  queryAt : Option Nat
  lastCommitted : Option Nat
  discards : Nat
  groupId : Nat
  members : Nat
  rank : Nat
  peers : List Peer
  removed : List Nat
  image : Option Image
  switching : Bool
  running : Bool
  runLeft : Nat
  runForever : Bool
  deliver : Bool
  runReq : Option (Nat × Nat)
  held : Bool
  ctxIds : List Nat
  pool : List PoolPage
  cache : List CachePage
  cacheDropped : Nat
  ledger : List LedgerEntry
  boundary : List BEntry
  boundaryLog : List BoundaryKind
  degraded : Bool
  loadedMap : List (Nat × Nat)
  undo : List UndoEntry
  filt : List Nat
  siltCommits : Nat
  idleAt : Nat
  pushes : List (Nat × PagePush)
  renames : List Rename
  queryStep : Nat := 0
  leaving : List Nat := []
  cacheIn : List CachePage := []
  landed : List (Nat × PagePush) := []
deriving DecidableEq, Repr

/-- Bytes that the device wrote to host memory at a host's request: function, host address and data. -/
structure HostWrite where
  func : Nat
  addr : Nat
  data : List Byte
deriving DecidableEq, Repr

/-- Messages of the control firmware to other devices, in the order sent (group agreement, hand-off,
fabric and shadow messages; chapters 01, 05, 09, 13). -/
inductive OutMsg where
  | stepReady (r : Nat) (m : StepMsg)
  | stepFail (r : Nat) (m : StepMsg) (cause : Nat) (ctx : Option (Nat × Nat × Nat) := none)
  | stepQuery (r : Nat) (m : StepMsg)
  | stepAnswer (r : Nat) (m : StepMsg) (a : QueryAnswer)
  | linkEvent (dev inc : Nat) (ports : List PortLink)
  | mcBeat
  | digestBlame (dev die cq piece : Nat)
  | digestReport (r : Nat) (imageId rank : Nat) (digest : BitVec 64) (walk : Nat)
  | stepDigest (r step : Nat) (digest : BitVec 64)
  | boundaryLog (r : Nat) (actions : List BoundaryKind)
  | shadowGap (r step : Nat)
  | promote (r rank dev reg lastStep : Nat)
  | prefixLookup (r : Nat) (m : PrefixLookup)
  | prefixReply (r group : Nat) (m : PrefixReply)
  | pagePush (r group : Nat) (m : PagePush)
  | pageAck (r dev : Nat) (seqKey pageIndex : Nat) (st : PageAckStatus)
  | commitNotice (r group : Nat) (m : CommitNotice)
  | seqHandoff (r group : Nat) (m : SeqHandoff)
deriving DecidableEq, Repr

end Sys2Proof.Machine
end

