-- ==== Sys2Proof/Machine/Scratchpad.lean ====
section
/-! DEFINITION. The scratchpad of one tile (chapter 03): address fields, slot costs, strided and transposed
reads, the merge buffer, valid bits, clears, protect windows and error counts. -/

namespace Sys2Proof.Machine

/-! ## Addresses and slot costs -/

/-- First byte beyond the scratchpad (R69). -/
def spadEnd : Nat := 0x4000000

/-- First byte of the control window (R72). -/
def ctlWindow : Nat := 0x3FC0000

/-- BANK of address A (R70). -/
def bankOf (a : Nat) : Nat := fld a 9 5 ^^^ fld a 14 5 ^^^ fld a 19 5 ^^^ fld a 24 2

/-- LANE of address A (Table 3.1). -/
def laneOf (a : Nat) : Nat := fld a 6 3

/-- ROW of address A (Table 3.1). -/
def rowOf (a : Nat) : Nat := fld a 14 12

/-- LINE accesses that a range of `n` bytes takes: one for each line it touches (Table 3.2). -/
def lineCost (a n : Nat) : Nat := if n = 0 then 0 else (a + n - 1) / 512 - a / 512 + 1

/-- Slots of a STRIDE8 read of the given segment addresses: the most segments that share one (bank, lane)
pair in different rows, at least 1 (Table 3.2, R79). -/
def stride8Cost (segs : List Nat) : Nat :=
  let cost := fun (a : Nat) =>
    ((segs.filter fun b => bankOf b == bankOf a && laneOf b == laneOf a).map rowOf).eraseDups.length
  segs.foldl (fun m a => Nat.max m (cost a)) 1

/-- Segment addresses of a strided read. -/
def segments (base stride n : Nat) : List Nat := (List.range n).map fun i => base + i * stride

/-- Slots of a transposed read: the sum over its four groups of eight (R82). -/
def transCost (base stride : Nat) : Nat :=
  ((List.range 4).map fun q => stride8Cost (segments (base + 8 * q * stride) stride 8)).foldl (· + ·) 0

/-! ## Reads (R83, R89, Table 3.6) -/

def spadEmpty : Spad := { mem := [], valid := [], mb := [], rd := 0, wr := 0, win := [], sq := [], wb := [] }

/-- The byte the array holds: zero in an invalid word (R89). -/
def arrayByte (sp : Spad) (a : Nat) : Byte := if sp.valid.contains (a / 64) then memRd sp.mem a else 0

/-- The newest buffered byte of address `a`, if the merge buffer holds one (Table 3.6). -/
def mbByte (mb : List MEntry) (a : Nat) : Option Byte :=
  mb.foldl (fun acc e =>
    if e.word = a / 64 then
      (match e.bytes.find? fun c => c.1 == a % 64 with
        | some c => some c.2
        | none => acc)
    else acc) none

/-- One byte as a read delivers it. -/
def spadByte (sp : Spad) (a : Nat) : Byte :=
  match mbByte sp.mb a with
  | some b => b
  | none => arrayByte sp a

/-- `n` bytes from address `a`. -/
def spadRead (sp : Spad) (a : Nat) : Nat → List Byte
  | 0 => []
  | n + 1 => spadByte sp a :: spadRead sp (a + 1) n

/-- The little-endian number of `n` bytes at `a`. -/
def spadNum (sp : Spad) (a n : Nat) : Nat := ofLe (spadRead sp a n)

/-- A stored word of 528 bits (Table 3.7): the check bits over its 512 data bits and its word address, then the data.  Every write, a
zeroising one among them, writes the check bits with the data (R92, R93), so they are a view of the cells. -/
def storedWord (sp : Spad) (w : Nat) : BitVec 528 :=
  let data := BitVec.ofNat 512 (ofLe (memRdN sp.mem (64 * w) 64))
  Config.checkBits data (BitVec.ofNat 20 w) ++ data

/-- Lines of a scratchpad. -/
def scrubLines : Nat := 131072

/-- Charges read slots. -/
def chargeRd (sp : Spad) (n : Nat) : Spad := { sp with rd := sp.rd + n }

/-- Charges write slots. -/
def chargeWr (sp : Spad) (n : Nat) : Spad := { sp with wr := sp.wr + n }

/-- A STRIDE8 read (R79): result bytes beyond the last segment are zero. -/
def readStride8 (sp : Spad) (base stride n : Nat) : List Byte :=
  padTo ((segments base stride n).flatMap fun a => spadRead sp a 64) 512

/-- A TRANS16 read (R80): output row c holds element c of the 32 source rows. -/
def readTrans16 (sp : Spad) (base stride : Nat) : List (List Byte) :=
  let rows := (segments base stride 32).map fun a => spadRead sp a 64
  (List.range 32).map fun c => rows.flatMap fun r => sliceBytes r (2 * c) 2

/-- A TRANS4 read (R81): output row c holds the 4-bit element c of the 64 source rows. -/
def readTrans4 (sp : Spad) (base stride : Nat) : List (List Byte) :=
  let rows := (segments base stride 32).flatMap fun a =>
    let w := spadRead sp a 64
    [w.take 32, w.drop 32]
  (List.range 64).map fun c => leBytes (packBits 4 (rows.map fun r => elemAt 0 r c)) 32

/-! ## Writes and the merge buffer (R85 to R89) -/

/-- Lines that a shadow queue holds (R271). -/
def sqLines : Nat := 128

/-- The enabled shadow window that holds a word. -/
def shadowWin (sp : Spad) (w : Nat) : Option ShadowWindow :=
  sp.win.find? fun x => x.en && decide (x.base ≤ 64 * w) && decide (64 * w < x.limit)

/-- Whether the shadow queue has a place for a word: it holds the word's line, or fewer than 128 lines. -/
def sqRoom (sp : Spad) (w : Nat) : Bool := sp.sq.any (·.line == 512 * (w / 8)) || decide (sp.sq.length < sqLines)

/-- A written word enters the shadow queue; words of one line combine into one entry. -/
def sqEnter (sp : Spad) (w : Nat) (data : List Byte) : Spad :=
  match shadowWin sp w with
  | none => sp
  | some x =>
    let line := 512 * (w / 8)
    if sp.sq.any fun e => e.line == line then
      { sp with sq := mapIf (fun e => e.line == line) (fun e => { e with words := sins (w % 8) data (sdel (w % 8) e.words) }) sp.sq }
    else { sp with sq := sp.sq ++ [⟨line, x.off + (line - x.base), [(w % 8, data)]⟩] }

/-- Copies a written word into the shadow queue where an enabled window holds it.  While the queue is full the copies wait at the write port,
in order (R271; the cells show what waits: DESIGN CHOICE, assumption 158). -/
def shadowCopy (sp : Spad) (w : Nat) (data : List Byte) : Spad :=
  if (shadowWin sp w).isNone then sp
  else if sp.sqWait == [] && sqRoom sp w then sqEnter sp w data
  else { sp with sqWait := sp.sqWait ++ [(w, data)] }

/-- What waits at the write port enters the shadow queue as far as it has places. -/
def sqTake (sp : Spad) : Spad :=
  sp.sqWait.foldl (fun s x => shadowCopy s x.1 x.2) { sp with sqWait := [] }

/-- Writes bytes of one word to the array, the rest of an invalid word becoming zero (R89), and copies the word
to the shadow queue. -/
def arrayWord (sp : Spad) (w : Nat) (bytes : List Host.Cell) : Spad :=
  let base := if sp.valid.contains w then sp.mem else memZero sp.mem (64 * w) 64
  let sp1 := { sp with
    mem := bytes.foldl (fun m c => memWr m (64 * w + c.1) c.2) base
    valid := setIns w sp.valid
    wb := setDel w sp.wb }
  shadowCopy sp1 w (memRdN sp1.mem (64 * w) 64)

/-- Evicts every entry of a line (R87). -/
def evictLine (sp : Spad) (line : Nat) : Spad :=
  let es := sp.mb.filter fun e => e.word / 8 == line
  let whole := es.all fun e => e.bytes.length == 64
  let sp1 := es.foldl (fun s e => arrayWord s e.word e.bytes) { sp with mb := sp.mb.filter fun e => e.word / 8 != line }
  { sp1 with rd := sp1.rd + (if whole then 0 else 1), wr := sp1.wr + 1 }

/-- Discards the entries of a line: the read half of its eviction met an uncorrectable error (R98). -/
def discardLine (sp : Spad) (line : Nat) : Spad := { sp with mb := sp.mb.filter fun e => e.word / 8 != line }

/-- Evicts the oldest entry with its line (R86). -/
def evictOldest (sp : Spad) : Spad :=
  match sp.mb with
  | [] => sp
  | e :: _ => evictLine sp (e.word / 8)

/-- Empties the merge buffer (R86); `fuel` is its 16 entries. -/
def drainMb : Nat → Spad → Spad
  | 0, sp => sp
  | n + 1, sp => drainMb n (evictOldest sp)

def spadDrain (sp : Spad) : Spad := drainMb 16 sp

/-- Bytes `new` laid over the bytes of an entry. -/
def overlay (old new : List Host.Cell) : List Host.Cell :=
  new.foldl (fun m c => sins c.1 c.2 (sdel c.1 m)) old

/-- A partial write of one word (R85): it merges into the word's entry, or takes a free entry.  An entry whose mask completes is
evicted with the other entries of its line (R86, R87).  The write drops a write-back that waits for the word (R94). -/
def partialWord (sp : Spad) (w : Nat) (bytes : List Host.Cell) : Spad :=
  let sp := { sp with wb := setDel w sp.wb }
  match sp.mb.find? fun e => e.word == w with
  | some e =>
    let b := overlay e.bytes bytes
    let sp1 := { sp with mb := mapIf (fun e => e.word == w) (fun e => { e with bytes := b }) sp.mb }
    if b.length = 64 then evictLine sp1 (w / 8) else sp1
  | none =>
    let sp := if sp.mb.length < 16 then sp else evictOldest sp
    { sp with mb := sp.mb ++ [⟨w, overlay [] bytes⟩] }

/-- A full write of one word: buffered bytes for it are discarded (Table 3.6). -/
def fullWord (sp : Spad) (w : Nat) (bytes : List Host.Cell) : Spad :=
  arrayWord { sp with mb := sp.mb.filter fun e => e.word != w } w bytes

/-- The bytes of a list as (offset, byte) cells from offset `o` on. -/
def cellsFrom (o : Nat) : List Byte → List Host.Cell
  | [] => []
  | b :: t => (o, b) :: cellsFrom (o + 1) t

/-- Writes the part of a byte list that lies in each word, word by word; `fuel` bounds the words. -/
def writeWords : Nat → Spad → Nat → List Byte → Spad
  | 0, sp, _, _ => sp
  | n + 1, sp, a, l =>
    if l = [] then sp
    else
      let o := a % 64
      let k := 64 - o
      let part := cellsFrom o (l.take k)
      let sp := if part.length = 64 then fullWord sp (a / 64) part else partialWord sp (a / 64) part
      writeWords n sp (a + k) (l.drop k)

/-- Lines of a range that hold at least one whole word of it: their write slots (Table 3.2). -/
def wholeLines (a n : Nat) : Nat :=
  let w0 := (a + 63) / 64
  let w1 := (a + n) / 64
  if w1 ≤ w0 then 0 else (w1 - 1) / 8 - w0 / 8 + 1

/-- A write request of any byte range. -/
def spadWrite (sp : Spad) (a : Nat) (l : List Byte) : Spad :=
  chargeWr (writeWords (l.length / 64 + 2) sp a l) (wholeLines a l.length)

/-- CLEAR_VALID of whole lines (R91): 64 lines per write slot.  A word whose valid bit is cleared inside a shadow
window is copied as zeros (R271). -/
def spadClear (sp : Spad) (a lines : Nat) : Spad :=
  let w0 := a / 64
  let w1 := w0 + 8 * lines
  let sp1 := { sp with
    valid := setDelRange sp.valid w0 (8 * lines)
    mb := sp.mb.filter fun e => !(decide (w0 ≤ e.word) && decide (e.word < w1))
    wb := setDelRange sp.wb w0 (8 * lines)
    wr := sp.wr + ceilDiv lines 64 }
  (sp.valid.filter fun w => decide (w0 ≤ w) && decide (w < w1)).foldl (fun s w => shadowCopy s w (zeros 64)) sp1

/-- Words of [a, a + n) that an enabled shadow window holds. -/
def windowWords (sp : Spad) (a n : Nat) : List Nat :=
  (sp.win.filter (·.en)).flatMap fun x =>
    let lo := Nat.max a x.base / 64
    (List.range (Nat.min (a + n) x.limit / 64 - lo)).map fun i => lo + i

/-- A zeroising write of whole lines (R92): data cells and valid bits, one line per write slot.  Every word
that it writes inside a shadow window is copied (R271). -/
def spadZeroize (sp : Spad) (a lines : Nat) : Spad :=
  let s := spadClear sp a lines
  (windowWords sp a (512 * lines)).foldl (fun s w => shadowCopy s w (zeros 64)) { s with mem := memZero s.mem a (512 * lines), wr := sp.wr + lines }

/-! ## Windows -/

/-- Whether [a, a + n) meets an enabled window. -/
def meetsWindow (ws : List Window) (a n : Nat) : Bool :=
  ws.any fun w => w.en && decide (0 < n) && decide (a < w.limit) && decide (w.base < a + n)

/-- The enabled window that contains an address.  Windows may overlap (R165): of several the one with the highest LIMIT, the first of
equals, contains a list that lies inside any of them, and confines one that does not (DESIGN CHOICE, log entry 127). -/
def windowOf (ws : List Window) (a : Nat) : Option Window :=
  (ws.filter fun w => w.en && decide (w.base ≤ a) && decide (a < w.limit)).foldl (fun b w =>
    match b with
    | none => some w
    | some x => some (if x.limit < w.limit then w else x)) none

/-- Whether [a, a + n) meets the control window (R72). -/
def meetsCtl (a n : Nat) : Bool := decide (0 < n) && decide (ctlWindow < a + n) && decide (a < spadEnd)

/-! ## Correctable-error counts (R95) -/

/-- What counting one correctable error posts: the record types of Table 3.8. -/
def ceRecords (before after threshold : Nat) : List Nat :=
  (if before < after ∧ (after = 1 ∨ after % 64 = 1) then [0x01] else []) ++
    (if before < threshold ∧ threshold ≤ after then [0x04] else [])

/-- The scrub write-back of the oldest corrected word (R94): it takes a write slot and leaves the word as it reads. -/
def writeBack (sp : Spad) : Spad :=
  match sp.wb with
  | [] => sp
  | w :: t =>
    let sp1 := chargeWr { sp with wb := t } 1
    if sp.valid.contains w then arrayWord sp1 w (cellsFrom 0 (memRdN sp.mem (64 * w) 64)) else sp1

/-- The scratchpad error record of Table 3.8. -/
def spadRecord (typ lt region queue : Nat) (ctx : Bool) (idx requester word synd bit stepLow bankCe : Nat) : Nat :=
  typ * 2 ^ 120 + lt * 2 ^ 110 + region * 2 ^ 105 + queue * 2 ^ 99 + b2n ctx * 2 ^ 98 + idx * 2 ^ 82 +
    requester * 2 ^ 79 + word * 2 ^ 59 + bankOf (64 * word) * 2 ^ 54 + synd * 2 ^ 38 + bit * 2 ^ 28 +
    stepLow % 2 ^ 16 * 2 ^ 12 + bankCe

end Sys2Proof.Machine
end

