-- ==== Sys2Proof/Machine/Defaults.lean ====
section
/-! DEFINITION. The reset value of every unit that the state holds in a table: what an unlisted tile, router,
engine or function is.  Each value is the one the spec states; zero and empty where it states none. -/

namespace Sys2Proof.Machine

/-- A synchronisation object that nothing has touched (R124). -/
def objReset : SyncObj := ⟨0, 0, none, none, 0⟩

/-- An unused queue (Table 4.1: TYPE 3). -/
def qcfgReset : QCfg := ⟨3, 0, 0, false, 0, 0, 0, 0⟩

/-- An empty queue. -/
def queueReset : Queue := ⟨[], 0, 0, [0, 0, 0, 0], false, false, none, 0, 0⟩

/-- An invalid handler entry. -/
def handlerReset : Handler := ⟨false, 0, 0, 0, 0, 0, 0, 0⟩

/-- A codebook store half after a tile core reset: EMPTY (R45). -/
def halfReset : HalfStore := ⟨0, []⟩

/-- A disabled expert receive record. -/
def expertReset : ExpertRec := ⟨false, 0, 0, 0, 0, 0, 0, false, 0⟩

/-- Empty expert buffers (R180). -/
def expStateReset : ExpertState := ⟨0, 0, [], 0, false, false⟩

/-- An invalid multicast group record (Table 8.5). -/
def mcastReset : McastRec := ⟨false, 0, 0, 0⟩

/-- An object of a tile configuration that names none: STEP, reset value 0. -/
def objCfgReset : ObjCfg := ⟨false, 0⟩

/-- Cleared message-layer counters (R240). -/
def tileCntReset : TileCounters := ⟨0, 0, [], [], 0, 0, 0, 0, 0, 0⟩

/-- A tile after a tile core reset: no valid word, EMPTY halves, no configuration, instance generation 0, in
no tenant region (31), correctable-error threshold 1,024 (R45, R91, R95, R240). -/
def tileReset : Tile :=
  { spad := spadEmpty, objs := [], objCfg := [], qcfg := [], queues := [], fired := [], nextFid := 0
    handlers := [], lists := [], protects := [], experts := [], expState := [], mcast := []
    compQueue := 0, inUse := false, gen := 0, region := 31, halves := [], ceBank := [], ceTile := 0
    ceThreshold := 1024, scrubLine := 0, scrubSlot := 0, flows := [], lastXfer := []
    waiting := [], returns := [], rx := [], closedXfers := [], evicted := false, cnt := tileCntReset
    heldReset := false, fenced := false, clockGated := false, rotEngine := [], lastFire := [] }

/-- A router after a tile router reset: no VALID route, counters 0, SAMPLE_64 set (Tables 7.7, 7.14, 7.15);
region register 16, the firmware region. -/
def routerReset : Router :=
  { region := 16, prevRegion := 16, regionAt := 0, telCtl := 4, histBase := 0, histFrom := 0, hist := []
    pkts := [], flits := [], stall := [], xoffTime := [], cnts := [], table0 := [], table1 := [], bufs := []
    xoff := [], dead := [], alive := true, rot := [], rippleFifo := 0, hold := false, inbox := [] }

/-- A collective queue that no region owns. -/
def collQueueReset : CollQueue := ⟨31, 0, 0, []⟩

/-- Engine counters after a die reset (R240). -/
def engCntReset : EngCounters := ⟨0, 0, 0, 0, 0, 0, 0, 0, 0⟩

/-- An engine after a die reset. -/
def engineReset : Engine :=
  { queues := [], cnt := engCntReset, inbox := [], ingress := [], egress := [], flows := [], rx := []
    closedXfers := [], lastXfer := 0, fenced := false, gwDrop := [] }

/-- Every quota is zero after a device reset (R304). -/
def quotaReset : Quota := ⟨0, 0, 0, 0, 0, 0⟩

/-- A function after reset (Tables 11.4 to 11.6 and 11.13): the mask is all ones, INT_MOD.COUNT 1, the
disable timeout 100 ms; Bus Master Enable 0. -/
def fnReset : Fn :=
  { cmd := [], resp := [], evqBase := 0, evqEn := false, evqVector := 0, evqSize := 0, evqHead := 0, evqTail := 0
    ring := [], backlog := [], ready := false, busy := false, done := false, disabled := false, overrun := false
    lockWr := false, hostLate := false, lastSeq := 0, rungSeq := 0, locked := none, hostBeat := 0, beatAt := 0, intCause := 0
    intMask := 0x1F, intVec := 0, intMod := 0x10000, unsig := 0, unsigAt := 0, msix := [], pba := []
    requests := [], reqLog := [], nextReq := 1, quota := quotaReset, beatMs := 0, beatStop := false
    disableMs := 100, drain := none, bme := false, d3 := false, alarms := [], alarmDrop := [0, 0, 0, 0]
    alarmReported := [0, 0, 0, 0] }

/-- The fault and status block after power-on (Table 11.10). -/
def fltReset : Flt :=
  { state := 0, startPath := 0, bootError := 0, fwBeat := 0, beatAt := 0, cause := 1, count := 0, fatalValid := false
    fatalCode := 0, tempMax := 0, powerW := 0, throttle := false, capActive := false, powerFail := false
    emergency := false, badAccess := 0 }

/-- The identity block after PERST_N (Table 11.9).  The serial number, the lifecycle state and the factory repairs are fused: the
modelled part has serial 0, is in FIELD, and has no factory repair. -/
def idnReset : Idn :=
  { compat := false, factory := 0, field := 0, assigned := false, deviceId := 0, incarnation := 0, serial := 0, fwVersion := 0
    fwId := 0, lifecycle := 1, debugLevel := 0, fwSlot := 0, speed := 0, width := 0, vfs := 0, listed := false }

/-- A FREE context record (Table 5.2). -/
def ctxReset : Ctx :=
  { region := 0, state := 0, seqKey := 0, seed := 0, modelKey := 0, committedStep := 2 ^ 64 - 1, position := 0
    lastToken := 0, tokensOut := 0, maxNew := 0, maxPosition := 0, stopIds := [], temperature := 0, topP := 0
    topK := 0, flags := 0, stopReason := 0, draftCount := 0, pageBase := 0, pageCount := 0, acceptTotal := 0
    draftTotal := 0, acceptMap := 0, acceptLast := 0, draftTokens := [], draftParent := 0, deadline := 0
    handoff := none, pagesIn := [], covered := [], prompt := [], prefixKeys := [], genGroup := 0, cacheGroup := 0
    hits := 0, lookup := .none_, undelivered := 0 }

/-- The recorder at power-on: counters 0 (R390), an extreme interval of 60 s (R382). -/
def recorderReset : Recorder :=
  { nextSeq := 0, cache := [], buffer := [], log := [], fatal0 := none, fatal := [], floods := [], extremes := []
    extremeAt := 0, extremeSecs := 60, history := [], palacy := [], recordNo := 0, board := [], recStored := 0
    recFolded := 0, recFlood := 0, recOverwrite := [0, 0, 0, 0], boardDrop := [0, 0, 0, 0], histEvict := 0 }

/-- A Basin controller after a die reset (Tables 10.5, 10.6): EN 1, a pass period of 12 hours. -/
def basinCtlReset : BasinCtl := ⟨true, 12, 0, false, 0, 0, 0, 0, 0, 0, 0, 0, 0, 0⟩

/-- A handle that no namespace holds (Table 10.13). -/
def nsReset : SNs :=
  { opened := false, readonly := false, stage := 0, pslc := false, owner := 0, persist := false, capacity := 0
    keyed := false, endurance := 0, blocks := 0, spare := 0, units := [], ladderHist := List.replicate 12 0
    marginHist := List.replicate 8 0, ue := 0, retired := 0, relocated := 0, txnCommit := 0, txnAbort := 0, isSealed := false, wrap := 0 }

/-- A channel that runs. -/
def chanReset : SChan := ⟨true, 0, 0, 0, 0, 0, 0, 0, 0⟩

/-- A block of which nothing is recorded. -/
def blockReset : SBlock := ⟨0, []⟩

/-- The Silt controller of a part whose 16 channels run and which holds nothing; 1,024 pages to a block. -/
def siltReset : Silt :=
  { chans := [], nss := [], supers := [], txns := [], nextTxn := 1, journal := [], checkpoint := 0, badBlocks := []
    pagesPerBlock := 1024, tlcRated := 3000, halted := false, tprogMean := [0, 0], tprogBase := [0, 0] }

end Sys2Proof.Machine
end

