-- ==== Sys2Proof/Machine/FaultParts.lean ====
section
/-! DEFINITION. The record types of repair and of faults: the failed-position list, a castling in progress, self-test runs,
charged faults, digest walks and shadows (chapters 12 and 13).  Types only. -/

namespace Sys2Proof.Machine

/-- A charged fault of the current or (`old`) the previous attempt of a region (R361, Table 13.6): history key, REPEAT
signature, signature class and histogram bin of its Palacy record, and where it was found. -/
structure Charge where
  step : Nat
  attempt : Nat
  key : Nat
  sig : Nat
  sigClass : Nat
  bin : Nat
  lt : Nat
  pos : Nat
  lane : Nat
  row : Nat
  bit : Nat
  ext : Nat
  payload : List Byte
  old : Bool
deriving DecidableEq, Repr

/-- States of a shadow (Table 13.8). -/
inductive SState where
  | sync | comparing | qualified | promoted | detached
deriving DecidableEq, Repr

/-- The shadow side of a region (R369 to R373): its working member, COMPARE_STEPS, commits compared so far, the step c₁ from
which it compares, step digests received from the working member, its own last digest, the boundary actions announced, the
request of JOIN_SHADOW, and the settlement by STEP_QUERY under way. -/
structure Shadow where
  state : SState
  workDev : Nat
  workRegion : Nat
  compareSteps : Nat
  compared : Nat
  c1 : Nat
  digests : List (Nat × BitVec 64)
  actions : List BoundaryKind
  req : Option (Nat × Nat)
  workLost : Bool
  sink : Nat
deriving DecidableEq, Repr

/-- A virtual-instance reset (R322 to R325): the requests it completes, when it was asked for, when its capture started, the
slot captured (0xFF for none), whether the marker is still owed, and when step 5 made the instance old. -/
structure InstReset where
  reqs : List (Nat × Nat)
  asked : Nat
  begun : Option Nat
  slot : Nat
  capturing : Bool
  old : Option Nat
deriving DecidableEq, Repr

/-- What chapter 13 keeps of a region: charges, the queues that have posted a QUEUE_STALL this attempt, digest failures
of this attempt (die, sender, CQ, piece), reference digests by node, the digest walk, own region digest and its check, the shadow this region is, the shadow
attached to it (device, region), the virtual-instance reset under way and when the last one ended, and the shadows that gateways here mirror to (rank, device, region; R370). -/
structure RegFault where
  charges : List Charge
  stalls : List (Nat × Nat)
  senders : List (Nat × Nat × Nat × Nat)
  refDigests : List (BitVec 64)
  sinceWalk : Nat
  walk : Option Nat
  lastMatch : Nat
  ownDigest : Option (BitVec 64)
  ownOk : Bool
  shadow : Option Shadow
  attached : Option (Nat × Nat)
  reset : Option InstReset
  lastReset : Option Nat
  mirrors : List (Nat × Nat × Nat)
deriving DecidableEq, Repr

/-- Device-wide fault settings kept in the record store (Table 13.5), the failure-domain table by device, and
the table that takes its place at the next step boundary (R262); the keys of
the paths and engines whose die has been reset for them (R363); and the completion records not OK of tiles of no tenant region
(R119). -/
structure FaultCtl where
  classify : Nat
  histEvents : Nat
  histDays : Nat
  digestSteps : Nat
  domains : List (Nat × BitVec 64)
  dieReset : List Nat
  domainsNext : Option (List (Nat × BitVec 64)) := none
  fwRecs : List Nat := []
deriving DecidableEq, Repr

/-- A castling in progress (R341 to R344): the failed position, its logical tile, the tiles that move as (LT, from, to), the
regions held, and the destinations whose copy has arrived, failed, or failed twice. -/
structure Castle where
  failed : Nat
  lt : Nat
  moves : List (Nat × Nat × Nat)
  held : List Nat
  done : List Nat
  rebuild : List Nat
  lost : List Nat
  spoiled : List Nat := []
deriving DecidableEq, Repr

/-- A self-test run record (Tables 12.4 to 12.6), with the positions whose zeroisation timed out. -/
structure TestRun where
  kind : Nat
  runNo : Nat
  time : Nat
  clockMhz : Nat
  vddMv : Nat
  outcome : Nat
  diesDone : List Nat
  tilesFailed : Nat
  routersFailed : Nat
  macrosRepaired : Nat
  macrosFailed : Nat
  fwId : Nat
  entries : List PosResult
  timeouts : List Nat
deriving DecidableEq, Repr

/-- What chapter 12 keeps: positions declared failed and fenced, the failed-position list, the castling, regions held for
one, the run in progress and the last four run records, the next run number, macro repairs (position, bank, kind, row, lane,
bit), dies with ZEROIZE_DONE, the clean-start record, whether an uncorrectable scratchpad error or permanent classification
followed the last complete run, configuration-digest mismatches by position, whether the self-test was retried, and Basin stacks
that did not start. -/
structure Repair where
  declared : List Nat
  failed : List Nat
  castle : Option Castle
  held : List Nat
  run : Option TestRun
  runs : List TestRun
  runNo : Nat
  repairs : List (Nat × Nat × Nat × Nat × Nat × Nat)
  zeroized : List Nat
  cleanStart : Bool
  faultSince : Bool
  mismatch : List Nat
  retried : Bool
  basinBad : List Nat
deriving DecidableEq, Repr

/-- Nothing charged, no walk and no shadow. -/
def regFaultReset : RegFault := ⟨[], [], [], [], 0, none, 0, none, true, none, none, none, none, []⟩

/-- The method is BOTH until a DOMAINS_SET changes it (R360); 3 events in 30 days; 10,000 steps (Table 13.5). -/
def faultCtlReset : FaultCtl := ⟨2, 3, 30, 10000, [], [], none, []⟩

/-- A part with no failed position, no run record and no clean-start record. -/
def repairReset : Repair := ⟨[], [], none, [], none, [], 0, [], [], false, false, [], false, []⟩

end Sys2Proof.Machine
end

