-- ==== Sys2Proof/Machine/FabParts.lean ====
section
/-! DEFINITION. The record types of Tarn: a port with its link layer, saved settings, and the fabric's tables (chapter 09).
Types only, with their reset values. -/

namespace Sys2Proof.Machine

/-- The counters of a port (Table 9.14); streams are numbered 2·VC + lane. -/
structure PortCounters where
  flitsTx : List (Nat × Nat)
  flitsRx : List (Nat × Nat)
  fecCorr : List (Nat × Nat)
  fecUncorr : Nat
  crcFail : Nat
  replayTx : Nat
  replayRx : Nat
  replayed : Nat
  dupFlit : Nat
  xoffTime : List (Nat × Nat)
  leaveActive : Nat
  savedFallback : Nat
deriving DecidableEq, Repr

/-- A Tarn port: TRN_PORT_CTL (Table 9.12) and the fields of TRN_PORT_STATUS (Table 9.13) with the cycle its state was
entered, what training learnt of the peer, the times it left ACTIVE, and its link layer: next SEQ, flits held for replay,
EXPECTED, the last REPLAY_REQ sent, the one received with its count, the partner's XOFF bits and its own, unfinished packets
by stream, packets waiting to be sent, and the flits put on the wire.  By stream, `txHead` holds how many bytes of the first waiting
packet have gone out and the FAGE in its prefix (R244, R245), `rxSeen` the flits accepted and `partAt` the flit in which the unfinished
packet began (R249); `lastReason` is the reason of the last departure from ACTIVE that had one (R255), and `signal` whether all four
lanes detect signal (R250). -/
structure Port where
  ctl : Nat
  state : Nat
  since : Nat
  peerInc : Nat
  peerDev : Nat
  peerPort : Nat
  rate : Nat
  v1 : Bool
  savedUsed : Bool
  failReason : Nat
  rtt : Nat
  peerSerial : Nat
  peerRates : Nat
  fullOnce : Bool
  rateCap : Nat
  settled : Bool
  leaves : List Nat
  nextSeq : Nat
  held : List Flit
  expected : Nat
  reqSeq : Nat
  reqAt : Option Nat
  gotSeq : Nat
  gotCount : Nat
  txXoff : Nat
  rxXoff : Nat
  partial_ : List (Nat × List Byte)
  txq : List FabPacket
  wire : List Flit
  cnt : PortCounters
  txHead : List (Nat × (Nat × Nat)) := []
  rxSeen : List (Nat × Nat) := []
  partAt : List (Nat × Nat) := []
  lastReason : Nat := 0
  signal : Bool := false
deriving DecidableEq, Repr

/-- A settings record (R252): port, peer serial, peer port, rate, version 1 framing, and its tag. -/
structure SavedLink where
  port : Nat
  serial : Nat
  peerPort : Nat
  rate : Nat
  v1 : Bool
  tag : Nat
deriving DecidableEq, Repr

/-- Kinds of Ripple datum (Table 7.12). -/
inductive RippleKind where
  | cfgWrite | operand | stepStart | epochFlip | tableWrite | firmware
deriving DecidableEq, Repr

/-- The fabric of a device: ports, both route table versions with their states and the active epoch, entries that the host
supplied and the ports of other devices as their LINK_EVENTs gave them (R259), incarnations of peers (R257), devices lost and devices gone, MC_BEAT times and
silent peers, saved settings with the next tag, the time of the last own MC_BEAT, the first place of each gateway's port
choice by die (R440), the packets that shadows' gateways discarded, TRN_PORT_CTL of each port and DEVICE_ID as the record store keeps them, and the
device's own incarnation (R257); `ended` holds the tiles and the peers, as (device, region), of each destroyed region (R319).  `rippleWait` lists the Ripple data that wait at
the root, oldest first (R212, R213), `linkReports` the dead mesh links, as position and port, reported since the last flip (R205).-/
structure Fabric where
  ports : List (Nat × Port)
  t0 : List (Nat × BitVec 32)
  t1 : List (Nat × BitVec 32)
  f0 : VState
  f1 : VState
  epoch : Bool
  hostRoutes : List (Nat × BitVec 32)
  links : List (Nat × List PortLink)
  incs : List (Nat × Nat)
  lost : List Nat
  gone : List Nat
  beats : List (Nat × Nat)
  silent : List Nat
  saved : List SavedLink
  nextTag : Nat
  beatAt : Nat
  rot : List (Nat × Nat)
  sink : Nat
  savedCtl : List (Nat × Nat)
  savedDev : Option Nat
  inc : Nat
  ended : List (List Nat × List (Nat × Nat)) := []
  rippleWait : List (RippleKind × Ripple × List Nat) := []
  linkReports : List (Nat × Nat) := []
deriving DecidableEq, Repr

def portCntReset : PortCounters := ⟨[], [], [], 0, 0, 0, 0, 0, 0, [], 0, 0⟩

/-- TRN_PORT_CTL after a die reset: MAX_RATE 2, SAVED_EN 1 (Table 9.12). -/
def portCtlReset : Nat := 0x22000000

/-- A port in OFF (Tables 9.12 to 9.14). -/
def portReset : Port :=
  { ctl := portCtlReset, state := 0, since := 0, peerInc := 0, peerDev := 0, peerPort := 0, rate := 0, v1 := false
    savedUsed := false, failReason := 0, rtt := 0, peerSerial := 0, peerRates := 0, fullOnce := false, rateCap := 2
    settled := false, leaves := [], nextSeq := 0, held := [], expected := 0, reqSeq := 0, reqAt := none, gotSeq := 0
    gotCount := 0, txXoff := 0, rxXoff := 0, partial_ := [], txq := [], wire := [], cnt := portCntReset }

/-- No entry VALID; version 0 active, version 1 WRITABLE. -/
def fabricReset : Fabric :=
  { ports := [], t0 := [], t1 := [], f0 := .active, f1 := .writable, epoch := false, hostRoutes := [], links := []
    incs := [], lost := [], gone := [], beats := [], silent := [], saved := [], nextTag := 1, beatAt := 0, rot := [], sink := 0
    savedCtl := [], savedDev := none, inc := 0 }

end Sys2Proof.Machine
end

