-- ==== Sys2Proof/Machine/PowerParts.lean ====
section
/-! DEFINITION. The record types of power, clocks, pins and the Wellhead, and of boot, keys and debug (chapters 15 and 16), with
their reset values.  Types only. -/

namespace Sys2Proof.Machine

/-! ## The Wellhead -/

/-- An exact dyadic number num / 2^exp: what the filters of R407 and the bucket of R408 hold, with no rounding. -/
structure Dy where
  num : Int
  exp : Nat
deriving DecidableEq, Repr

/-- A filtered stream (R407): the last three samples, newest first, and the exponential average. -/
structure Filt where
  last : List Int
  avg : Dy
deriving DecidableEq, Repr

/-- The rule or decision that a Wellhead log entry records (R415). -/
inductive WhDecision where
  | throttle | emergency | powerFail | wake | scrubRestart | glitch | regulator | crystal | start
deriving DecidableEq, Repr

/-- An entry of the Wellhead's log (R415): TIME, decision, source and values. -/
structure WhEntry where
  time : Nat
  what : WhDecision
  source : Nat
  values : List Int
deriving DecidableEq, Repr

/-- A regulator as the PMBus knows it (R430): the last reading in mV, mA and mW, when it answered, and whether it is silent. -/
structure Regulator where
  mv : Nat
  ma : Nat
  mw : Nat
  at_ : Nat
  silent : Bool
deriving DecidableEq, Repr

/-- A die's operating point (R421, R422): tile clock in MHz, set point in mV, the old set point while the rail slews and until
when, the last CAP_FLOOR event, whether its Tarn reference runs, the DVFS step decided on and not yet made, and
when the last one was made. -/
structure DieClock where
  mhz : Nat
  setMv : Nat
  oldMv : Nat
  slewTo : Nat
  capFloor : Option Nat
  trnRef : Bool
  pend : Option Nat
  stepAt : Nat
deriving DecidableEq, Repr

/-- What the Wellhead keeps of one scrubber (R413): the last PROGRESS and ALIVE. -/
structure ScrubWatch where
  progress : Nat
  alive : Bool
deriving DecidableEq, Repr

/-- Power states (Table 15.7), the Wellhead's filters, limits, throttle, log and counters, clocks, rails and pins, and the device
reset that is due with the cycle from which it takes effect. -/
structure Power where
  doze : Bool
  dozeDrop : Nat
  p1 : List Nat
  p3 : Bool
  off : Bool
  busyAt : Nat
  limits : Nat
  bucket : Dy
  level : Nat
  capActive : Bool
  clipAt : Option Nat
  thermal : Bool
  undervolt : Bool
  calm : Nat
  heatAt : Option Nat
  fast : Filt
  slow : Filt
  temps : List Filt
  vdd : List Filt
  rails : List Filt
  hot : List Nat
  railBad : List Nat
  capLog : List Bool
  quietFrom : Option Nat
  dies : List (Nat × DieClock)
  regs : List (Nat × Regulator)
  emerg : Option Nat
  clearFrom : Option Nat
  emergTimes : List Nat
  powerFail : Bool
  pwrOk : Bool
  perstN : Bool
  railsUp : Bool
  mgmtAddr : Nat
  pkgTestN : Bool
  laneRev : Bool
  crystal : Bool
  coreRef : Bool
  wakeN : Bool
  whLog : List WhEntry
  watches : List (Nat × ScrubWatch)
  disagree : Nat
  restarts : Nat
  secsStored : Nat
  storedAt : Nat
  expected : List Nat
  coreRestart : Option Nat
  resetPend : Option (ResetCause × Nat)
deriving DecidableEq, Repr

/-- WHD_LIMITS at power-on: CAP_W 850, CLIP_W 935, THROTTLE_C 100 (Table 15.9). -/
def limitsReset : Nat := 850 * 2 ^ 22 + 935 * 2 ^ 12 + 100 * 2 ^ 5

def filtReset : Filt := ⟨[], ⟨0, 0⟩⟩

/-- 1.70 GHz at 0.850 V, the top step of R410 and its set point under R421 with no fused offset. -/
def dieClockReset : DieClock := ⟨1700, 850, 850, 0, none, true, none, 0⟩

def regReset : Regulator := ⟨0, 0, 0, 0, false⟩
def watchReset : ScrubWatch := ⟨0, false⟩

/-- Power just after the Wellhead's own power-on: T 0, a full bucket of 425 mJ (Tables 15.9, 15.10), PERST_N asserted, no
other rail up yet. -/
def powerReset : Power :=
  { doze := false, dozeDrop := 0, p1 := [], p3 := false, off := false, busyAt := 0, limits := limitsReset
    bucket := ⟨425000000000, 0⟩, level := 0, capActive := false, clipAt := none, thermal := false, undervolt := false, calm := 0
    heatAt := none, fast := filtReset, slow := filtReset, temps := [], vdd := [], rails := [], hot := [], railBad := []
    capLog := [], quietFrom := none, dies := [], regs := [], emerg := none, clearFrom := none, emergTimes := []
    powerFail := false, pwrOk := false, perstN := false, railsUp := false, mgmtAddr := 0, pkgTestN := true, laneRev := false
    crystal := false, coreRef := true, wakeN := true, whLog := [], watches := [], disagree := 0, restarts := 0
    secsStored := 0, storedAt := 0, expected := [], coreRestart := none, resetPend := none }

/-! ## Boot, keys, attestation and debug -/

/-- A selection record (R392); a copy whose CRC fails is no record. -/
structure SelRec where
  seq : Nat
  preferred : Nat
  tries : Nat
  confirmed : Bool
deriving DecidableEq, Repr

/-- What the last SPDM request was answered with (R398). -/
inductive SpdmResp where
  | version
  | capabilities
  | algorithms
  | digests (slots : Nat)
  | certificate (portion remainder : Nat)
  | challenge (nonce : BitVec 256) (alias_ : Nat)
  | measurements (count : Nat) (blocks : List (Nat × List Byte)) (nonce : BitVec 256) (alias_ : Nat)
  | error (code : Nat)
deriving DecidableEq, Repr

/-- What an IEEE 1149.1 access came to (R400). -/
inductive JtagResp where
  | none_
  | bypass
  | idcode (w : Nat)
  | done
  | data (l : List Byte)
  | refused
deriving DecidableEq, Repr

/-- What the board manager's last PLDM request was answered with (R429). -/
inductive PldmResp where
  | value (v : Int)
  | state (v : Nat)
  | event (e : EvRec)
  | noEvent
  | unsupported
deriving DecidableEq, Repr

/-- SPI NOR, fuses, keys and debug: fused firmware and debug key hashes, revoked slots and SVN, slots A and B, both selection
records, the slot whose image passed a WRITE since the last reset, the challenge in force with its time, failed tokens and
the end of their refusal, regions that hold a key, the number of the Alias key pair and whether the key engine holds it, the
SPDM answers, and what the 1149.1 and PLDM ports last answered; `booted` says that the boot ROM has handed over. -/
structure Security where
  fwKeys : List (BitVec 384)
  debugKeys : List (BitVec 384)
  revoked : List Nat
  svn : Nat
  slotA : Option FwImage
  slotB : Option FwImage
  sel0 : Option SelRec
  sel1 : Option SelRec
  booted : Bool
  wrote : Bool
  challenge : Option (BitVec 384 × Nat)
  fails : List Nat
  blockedTo : Nat
  regionKeys : List Nat
  aliasNo : Nat
  aliasHeld : Bool
  kw : Nat
  spdmState : Nat
  spdm : Option SpdmResp
  jtag : JtagResp
  halted : Bool
  pldm : Option PldmResp
deriving DecidableEq, Repr

/-- An image that verifies under all-zero fuses; the manual gives the part two complete images (Table 15.1). -/
def imageReset : FwImage :=
  { magicOk := true, format := 1, keyIndex := 0, svn := 0, fwId := 0, keyHash := 0, sigOk := true, bodyOk := true
    tileSetDigest := 0 }

def securityReset : Security :=
  { fwKeys := [], debugKeys := [], revoked := [], svn := 0, slotA := some imageReset, slotB := some imageReset, sel0 := none
    sel1 := none, booted := false, wrote := false, challenge := none, fails := [], blockedTo := 0, regionKeys := []
    aliasNo := 0, aliasHeld := false, kw := 0, spdmState := 0, spdm := none, jtag := .none_, halted := false, pldm := none }

end Sys2Proof.Machine
end

