-- ==== Sys2Proof/Machine/State.lean ====
section
/-! DEFINITION. The state of the Falxel block, the reasons a command can stop, and the state after reset. -/

namespace Sys2Proof.Machine

/-- Why a command stops with a fault. -/
inductive Fault where
  /-- An operand names a unit the spec says does not exist (a logical tile above 575, a port above 11, a
  function above 16, a region above 16, a die above 3, a physical index above 623).  Raised by the accessors of
  Machine/Ops.lean.  Safe: the hardware has no such unit to act on. -/
  | noSuchUnit
deriving DecidableEq, Repr

/-- Why a command is refused. -/
inductive Refusal where
  /-- The command has no meaning yet.  Raised by Machine/Dispatch.lean only.  Safe: nothing is claimed. -/
  | notModelled (mnemonic : String)
deriving DecidableEq, Repr

/-- The machine. -/
structure State where
  pending : List Instr
  now : Nat
  free : Nat
  tiles : List (Nat × Tile)
  routers : List (Nat × Router)
  engines : List (Nat × Engine)
  ltMap : List (Nat × Nat)
  absent : List Nat
  regions : List (Nat × Region)
  fns : List (Nat × Fn)
  ctxs : List (Nat × Ctx)
  pageList : List (Nat × Nat)
  basin : List Host.Cell
  poison : List Nat
  bsn : List (Nat × BasinCtl)
  scans : List ScanSec
  bundles : List Bundle
  bundleSeq : List (Nat × Nat)
  silt : Silt
  recorder : Recorder
  activeEpoch : Bool
  v0 : VState
  v1 : VState
  quiet : Bool
  flt : Flt
  idn : Idn
  secsBase : Nat
  outbox : List OutMsg
  msis : List (Nat × Nat)
  hostOut : List HostWrite
  orderNo : Nat
  rep : Repair
  flc : FaultCtl
  rf : List (Nat × RegFault)
  fab : Fabric
  pwr : Power
  sec : Security
deriving DecidableEq, Repr

/-- The machine just after the Wellhead's power-on reset is released (Table 16.4 step 2, Table 12.1): FLT_RESET.CAUSE 0x01,
FLT_STATE POWER_ON, nothing else running, no command waiting. -/
def State.reset : State :=
  { pending := [], now := 0, free := 0, tiles := [], routers := [], engines := [], ltMap := [], absent := [], regions := []
    fns := [], ctxs := [], pageList := [], basin := [], poison := [], bsn := [], scans := [], bundles := [], bundleSeq := []
    silt := siltReset, recorder := recorderReset, activeEpoch := false, v0 := .active, v1 := .writable, quiet := false
    flt := fltReset, idn := idnReset, secsBase := 0, outbox := [], msis := [], hostOut := [], orderNo := 0, rep := repairReset
    flc := faultCtlReset, rf := [], fab := fabricReset, pwr := powerReset, sec := securityReset }

end Sys2Proof.Machine
end

