-- ==== Sys2Proof/Machine/Ops.lean ====
section
/-! DEFINITION. Named operations over the state: outcome helpers, access to each unit by its number, time,
the region of a tile, marking a step failed and posting messages. -/

namespace Sys2Proof.Machine

/-- The outcome of a command. -/
abbrev Out := Host.Outcome State Fault Refusal

/-- A command that takes effect only when its rule's condition holds; otherwise nothing happens. -/
def whenB (c : Bool) (s t : State) : Out := .next (if c then t else s)

/-- Raises noSuchUnit where the unit a command names does not exist. -/
def needUnit (ok : Bool) (k : Out) : Out := if ok then k else .fault .noSuchUnit

def ltOk (lt : Nat) : Bool := decide (lt < 576)
def posOk (p : Nat) : Bool := decide (p < 624)
def portOk (p : Nat) : Bool := decide (p < 12)
def funcOk (f : Nat) : Bool := decide (f < 17)
def dieOk (d : Nat) : Bool := decide (d < 4)
/-- Regions 0 to 15 are tenant regions; 16 is the firmware region. -/
def regOk (r : Nat) : Bool := decide (r < 17)

/-! ## Time: one unit is a mesh cycle of 0.5 ns -/

def cyclesPerUs : Nat := 2000
def cyclesPerMs : Nat := 2000000
def cyclesPerSec : Nat := 2000000000

/-- Mesh time in units of 32 ns, modulo 2^16 (Table 7.3). -/
def meshTime (s : State) : Nat := s.now / 64 % 2 ^ 16

/-- The Wellhead seconds counter. -/
def wallSecs (s : State) : Nat := s.secsBase + s.now / cyclesPerSec

/-- Microseconds within the current second. -/
def wallUs (s : State) : Nat := s.now / cyclesPerUs % 1000000

/-! ## Positions (R4, R5, R7) -/

/-- Physical index of a logical tile with no spare consumed: columns 12 to 23 stand one position right. -/
def defaultPos (lt : Nat) : Nat :=
  let x := lt % 24
  26 * (lt / 24) + (if x < 12 then x else x + 1)

/-- Physical index that holds a logical tile. -/
def posOf (s : State) (lt : Nat) : Nat :=
  match s.ltMap.find? fun e => e.1 == lt with
  | some e => e.2
  | none => defaultPos lt

/-- The logical tile at a physical index, 0x3FF for none. -/
def ltAt (s : State) (pos : Nat) : Nat :=
  ((List.range 576).find? fun lt => !s.absent.contains lt && posOf s lt == pos).getD 0x3FF

/-- The die of a physical index (R4). -/
def dieOfPos (pos : Nat) : Nat := (if pos % 26 < 13 then 0 else 1) + (if pos / 26 < 12 then 0 else 2)

def dieOfLt (s : State) (lt : Nat) : Nat := dieOfPos (posOf s lt)

/-- Whether a logical tile is present. -/
def present (s : State) (lt : Nat) : Bool := ltOk lt && !s.absent.contains lt

/-! ## Units -/

def tileAtPos (s : State) (pos : Nat) : Tile := sget tileReset s.tiles pos
def setTilePos (s : State) (pos : Nat) (t : Tile) : State := { s with tiles := sset tileReset s.tiles pos t }

/-- The tile that a logical number names. -/
def tileOf (s : State) (lt : Nat) : Tile := tileAtPos s (posOf s lt)
def setTile (s : State) (lt : Nat) (t : Tile) : State := setTilePos s (posOf s lt) t
def updTile (s : State) (lt : Nat) (f : Tile → Tile) : State := setTile s lt (f (tileOf s lt))

def routerOf (s : State) (pos : Nat) : Router := sget routerReset s.routers pos
def setRouter (s : State) (pos : Nat) (r : Router) : State := { s with routers := sset routerReset s.routers pos r }
def updRouter (s : State) (pos : Nat) (f : Router → Router) : State := setRouter s pos (f (routerOf s pos))

def engineOf (s : State) (die : Nat) : Engine := sget engineReset s.engines die
def setEngine (s : State) (die : Nat) (e : Engine) : State := { s with engines := sset engineReset s.engines die e }
def updEngine (s : State) (die : Nat) (f : Engine → Engine) : State := setEngine s die (f (engineOf s die))

def fnOf (s : State) (f : Nat) : Fn := sget fnReset s.fns f
def setFn (s : State) (f : Nat) (v : Fn) : State := { s with fns := sset fnReset s.fns f v }
def updFn (s : State) (f : Nat) (g : Fn → Fn) : State := setFn s f (g (fnOf s f))

def ctxOf (s : State) (c : Nat) : Ctx := sget ctxReset s.ctxs c
def setCtx (s : State) (c : Nat) (v : Ctx) : State := { s with ctxs := sset ctxReset s.ctxs c v }
def updCtx (s : State) (c : Nat) (g : Ctx → Ctx) : State := setCtx s c (g (ctxOf s c))

/-- A tenant region, if it exists. -/
def regionOf (s : State) (r : Nat) : Option Region := (s.regions.find? fun e => e.1 == r).map (·.2)

/-- Changes a region, nothing where it does not exist. -/
def updRegion (s : State) (r : Nat) (f : Region → Region) : State :=
  { s with regions := s.regions.map fun e => if e.1 = r then (e.1, f e.2) else e }

/-- Adds a region. -/
def addRegion (s : State) (r : Nat) (g : Region) : State := { s with regions := sins r g (sdel r s.regions) }

/-- Removes a region. -/
def delRegion (s : State) (r : Nat) : State := { s with regions := sdel r s.regions }

/-- Runs `k` on the region, or leaves the state alone where it does not exist. -/
def withRegion (s : State) (r : Nat) (k : Region → State) : State :=
  match regionOf s r with
  | some g => k g
  | none => s

/-- Logical tiles of a region's rectangle, ascending. -/
def rectLts (g : Region) : List Nat :=
  (List.range g.h).flatMap fun j => (List.range g.w).map fun i => 24 * (g.y0 + j) + g.x0 + i

/-- Whether a logical tile lies in a region's rectangle. -/
def inRect (g : Region) (lt : Nat) : Bool :=
  decide (g.x0 ≤ lt % 24) && decide (lt % 24 < g.x0 + g.w) && decide (g.y0 ≤ lt / 24) && decide (lt / 24 < g.y0 + g.h)

/-- The tenant region that holds a logical tile; 16 where none does. -/
def regionOfLt (s : State) (lt : Nat) : Nat :=
  match s.regions.find? fun e => inRect e.2 lt with
  | some e => e.1
  | none => 16

/-- Present logical tiles of a region, ascending. -/
def regionTiles (s : State) (g : Region) : List Nat := (rectLts g).filter (present s)

/-- The step number of the region, 0 where it is none. -/
def stepOf (s : State) (r : Nat) : Nat := (regionOf s r).elim 0 (·.step)
def attemptOf (s : State) (r : Nat) : Nat := (regionOf s r).elim 0 (·.attempt)

/-- Appends a message to the outbox. -/
def send (s : State) (m : OutMsg) : State := { s with outbox := s.outbox ++ [m] }

/-- Whether a region is a shadow that has not been promoted: its tokens are withheld and it sends nothing (R371). -/
def isShadow (s : State) (r : Nat) : Bool :=
  match (sget regFaultReset s.rf r).shadow with
  | some x => x.state != .promoted
  | none => false

/-- The group message of a region's current step. -/
def stepMsg (g : Region) : StepMsg := ⟨g.groupId, g.step, g.attempt, g.rank⟩

/-- Marks the region's current step failed with a cause and sends STEP_FAIL once (R22).  A region whose step is
not running or drained has no step to fail.  `ctx` names the logical tile, descriptor queue and descriptor index of the failing
descriptor, where one failed it (R120). -/
def failStep (s : State) (r cause : Nat) (ctx : Option (Nat × Nat × Nat) := none) : State :=
  withRegion s r fun g =>
    if g.mstate = .running ∨ g.mstate = .drained then
      let s1 := updRegion s r fun g => { g with failed := true, failCauses := g.failCauses ++ [cause] }
      if g.failed || isShadow s r then s1 else send s1 (.stepFail r (stepMsg g) cause ctx)
    else s

/-- A fresh number for a free value: the counter before, and the state with it advanced. -/
def takeFree (s : State) : Nat × State := (s.free, { s with free := s.free + 1 })

end Sys2Proof.Machine
end

