-- ==== Sys2Proof/Machine/EventRing.lean ====
section
/-! DEFINITION. Interrupt causes and the event ring of a function (R310, R315, Tables 11.6, 11.8, 11.13). -/

namespace Sys2Proof.Machine

/-- INT_CAUSE bits (Table 11.13). -/
def causeMbx : Nat := 0
def causeEvq : Nat := 1
def causeFatal : Nat := 2
def causeFwDead : Nat := 3
def causeDisable : Nat := 4

/-- MSI-X vectors of a function (R302). -/
def vectorsOf (f : Nat) : Nat := if f = 0 then 256 else 112

/-- The vector of a cause (Table 11.13); in the IGX-2 layout every cause is on MBX_VEC (Table 11.22). -/
def causeVector (compat : Bool) (v : Fn) (c : Nat) : Nat :=
  if compat then fld v.intVec 0 8
  else if c = causeEvq then v.evqVector
  else if c = causeFatal then fld v.intVec 16 8
  else if c = causeFwDead then fld v.intVec 8 8
  else fld v.intVec 0 8

/-- Sends a function's vector: a message, or a pending bit while the vector's table entry is masked or the
function may not master the bus.  A vector beyond the range raises nothing (R315). -/
def raiseVector (s : State) (f vec : Nat) : State :=
  if vec < vectorsOf f then
    let v := fnOf s f
    if v.bme && !v.d3 && (memRd v.msix (16 * vec + 12)).toNat % 2 == 0 then { s with msis := s.msis ++ [(f, vec)] }
    else setFn s f { v with pba := setIns vec v.pba }
  else s

/-- Notes that the hardware sets a W1C bit in this cycle (R11). -/
def noteSet (m : List (Nat × Nat)) (bit now : Nat) : List (Nat × Nat) := sset 0 m bit (now + 1)

/-- A W1C bit after a host write: `clear` says that it was written as 1.  A bit that the hardware set in the same cycle stays set (R11). -/
def w1cBit (m : List (Nat × Nat)) (now bit : Nat) (cur clear : Bool) : Bool := cur && (!clear || sget 0 m bit == now + 1)

/-- Sets a cause bit and raises its vector while its mask bit is 0 (R315). -/
def raiseCause (s : State) (f c : Nat) : State :=
  let v := fnOf s f
  let s1 := setFn s f { v with
    intCause := if bitOf v.intCause c then v.intCause else v.intCause + 2 ^ c, w1c := noteSet v.w1c c s.now }
  if bitOf v.intMask c then s1 else raiseVector s1 f (causeVector s.idn.compat v c)

/-- Entries the ring holds: indexes with their wrap bit (Table 11.6). -/
def ringUsed (v : Fn) : Nat :=
  let size := 2 ^ v.evqSize
  let h := fld v.evqHead 0 16
  let t := fld v.evqTail 0 16
  if bitOf v.evqHead 16 = bitOf v.evqTail 16 then t - h else size - h + t

/-- Whether the ring takes an entry: enabled, not full, and the function may master the bus (R310). -/
def ringRoom (v : Fn) : Bool := v.evqEn && v.bme && !v.d3 && decide (ringUsed v < 2 ^ v.evqSize)

/-- The next index: position 0 and the other wrap bit after the last. -/
def ringNext (v : Fn) (i : Nat) : Nat :=
  if fld i 0 16 + 1 = 2 ^ v.evqSize then (1 - i / 2 ^ 16 % 2) * 2 ^ 16 else i + 1

/-- Writes one entry at TAIL with its PHASE, advances TAIL, and raises EVQ by INT_MOD (R310, Table 11.13). -/
def ringWrite (s : State) (f : Nat) (e : List Byte) : State :=
  let v := fnOf s f
  let phase := e.take 1 ++ [BitVec.ofNat 8 (v.evqTail / 2 ^ 16)] ++ (padTo e 64).drop 2
  let unsig := v.unsig + 1
  let now_ := fld v.intMod 0 16 == 0 || decide (fld v.intMod 16 16 ≤ unsig)
  let s1 := setFn s f { v with
    ring := sins (fld v.evqTail 0 16) phase (sdel (fld v.evqTail 0 16) v.ring)
    evqTail := ringNext v v.evqTail
    unsig := if now_ then 0 else unsig
    unsigAt := if v.unsig = 0 then s.now else v.unsigAt }
  if now_ then raiseCause s1 f causeEvq else s1

/-- Backlog capacity: 1,024 entries, 4,096 in the IGX-2 layout (R310, Table 11.22). -/
def backlogMax (s : State) : Nat := if s.idn.compat then 4096 else 1024

/-- Writes a COMPLETION or FUNCTION_ABORT entry, or puts it in the backlog (R310).  R308 takes no deferred command while the backlog is full;
the outcome of one accepted before waits behind it all the same, for no outcome is lost (R309, log 163). -/
def ringPost (s : State) (f : Nat) (e : List Byte) : State :=
  let v := fnOf s f
  if v.backlog = [] && ringRoom v && !s.idn.compat then ringWrite s f e
  else setFn s f { v with backlog := v.backlog ++ [e] }

/-- The bytes of an event record (Table 14.1). -/
def eventBytes (e : EvRec) : List Byte :=
  leBytes e.seq 2 ++ leBytes e.code 2 ++
    leBytes (e.cls + 4 * b2n e.hist + 8 * b2n e.extreme + 16 * b2n e.flushed) 1 ++ leBytes e.region 1 ++
    leBytes e.lt 2 ++ leBytes e.px 1 ++ leBytes e.py 1 ++ leBytes e.unit 1 ++ leBytes e.sub 1 ++
    leBytes (Nat.min e.rep 0xFFFF) 2 ++ leBytes e.func 1 ++ zeros 1 ++
    leBytes (e.at_ / cyclesPerUs % 1000000 + e.secs * 2 ^ 20) 8 ++ leBytes (Nat.min e.spanMs (2 ^ 32 - 1)) 4 ++
    leBytes e.step 4 ++ padTo e.payload 32

/-- The EVENT entry of a record (Table 11.8). -/
def eventEntry (e : EvRec) : List Byte := [0x04, 0x00] ++ (eventBytes e).drop 2

/-- The RUN_STATE entry of a region (R310). -/
def runStateEntry (r st last : Nat) : List Byte :=
  padTo ([0x03, 0x00, BitVec.ofNat 8 r, BitVec.ofNat 8 st] ++ zeros 4 ++ leBytes last 8) 64

/-- Moves waiting entries to the ring: the backlog first, then alarms; `fuel` bounds the moves. -/
def feedRing : Nat → State → Nat → State
  | 0, s, _ => s
  | n + 1, s, f =>
    let v := fnOf s f
    if ringRoom v && !s.idn.compat then
      match v.backlog with
      | e :: t => feedRing n (ringWrite (setFn s f { v with backlog := t }) f e) f
      | [] =>
        match v.alarms with
        | a :: t => feedRing n (ringWrite (setFn s f { v with alarms := t }) f (eventEntry a)) f
        | [] => s
    else s

end Sys2Proof.Machine
end

