-- ==== Sys2Proof/Machine/Recorder.lean ====
section
/-! DEFINITION. The event recorder: classes, folding, floods, buffer, fatal slots, log and alarm paths
(R378 to R387). -/

namespace Sys2Proof.Machine

/-- Alarm class of a code (Table 14.3); `none` for a reserved code. -/
def codeClass (c : Nat) : Option Nat :=
  if c = 0 then none
  else if c ≤ 0x0005 then some 0
  else if c = 0x0101 ∨ c = 0x0201 ∨ c = 0x0202 ∨ c = 0x0221 ∨ c = 0x0401 ∨ c = 0x0504 ∨ c = 0x0512 ∨ c = 0x0608 ∨
    c = 0x0703 ∨ c = 0x0704 then some 3
  else if c = 0x0303 ∨ c = 0x0403 ∨ c = 0x0502 ∨ c = 0x0513 ∨ c = 0x0515 ∨ c = 0x0602 ∨ c = 0x0603 ∨ c = 0x0604 ∨
    c = 0x0605 ∨ c = 0x0606 ∨ c = 0x0607 ∨ c = 0x0701 then some 1
  else if c = 0x0102 ∨ c = 0x0104 ∨ c = 0x0222 ∨ c = 0x0223 ∨ c = 0x0301 ∨ c = 0x0302 ∨ c = 0x0311 ∨ c = 0x0312 ∨
    c = 0x0313 ∨ c = 0x0402 ∨ c = 0x0501 ∨ c = 0x0503 ∨ c = 0x0505 ∨ c = 0x0510 ∨ c = 0x0511 ∨ c = 0x0514 ∨
    c = 0x0601 ∨ c = 0x0702 ∨ c = 0x0705 then some 2
  else none

/-- Whether an occurrence has the key of a stored record (R380). -/
def sameKey (o : Occurrence) (e : EvRec) : Bool :=
  o.code == e.code && o.region == e.region && o.lt == e.lt && o.px == e.px && o.py == e.py && o.unit == e.unit &&
    o.sub == e.sub

/-- The histogram bin of a source (R381). -/
def floodBin (o : Occurrence) : Nat :=
  if 0x0401 ≤ o.code ∧ o.code ≤ 0x0403 then 4
  else if 0x0501 ≤ o.code ∧ o.code ≤ 0x0505 then 5
  else if 0x0510 ≤ o.code ∧ o.code ≤ 0x0515 then 6
  else if o.px < 26 ∧ o.py < 24 then dieOfPos (26 * o.py + o.px)
  else if o.unit = 7 ∨ o.unit = 8 ∨ o.unit = 9 then o.sub % 4
  else 7

/-- Inserts a class 1 to 3 record into a queue of `cap` places beside the class 0 ones: when they are full it
displaces the newest record of the lowest class present if that class is lower than its own, otherwise it is
dropped.  The second component is the class lost, if any (R386). -/
def alarmInsert (cap : Nat) (q : List EvRec) (e : EvRec) : List EvRec × Option Nat :=
  if (q.filter fun x => x.cls != 0).length < cap then (q ++ [e], none)
  else
    let worst := q.foldl (fun m x => Nat.max m x.cls) 0
    if e.cls < worst then
      match firstIdx (fun x : EvRec => x.cls == worst) q.reverse with
      | some i => ((q.reverse.eraseIdx i).reverse ++ [e], some worst)
      | none => (q, some e.cls)
    else (q, some e.cls)

/-- Inserts a class 0 record: the first is kept, then the 16 newest (R384, R386). -/
def fatalInsert (q : List EvRec) (e : EvRec) : List EvRec :=
  let zs := q.filter fun x => x.cls == 0
  if zs.length < 17 then q ++ [e]
  else
    match firstIdx (fun x : EvRec => x.cls == 0) q with
    | some i =>
      match firstIdx (fun x : EvRec => x.cls == 0) (q.drop (i + 1)) with
      | some j => q.eraseIdx (i + 1 + j) ++ [e]
      | none => q
    | none => q

/-- Adds one to the count of a class in a list of four. -/
def countClass (l : List Nat) (c : Nat) : List Nat := modAt (fun n => satAdd n 1 32) l c

/-- Offers a record to one function's alarm queue and feeds the ring (R386). -/
def offerAlarm (s : State) (f : Nat) (e : EvRec) : State :=
  let v := fnOf s f
  let v1 :=
    if e.cls = 0 then
      let lost := 17 ≤ (v.alarms.filter fun x => x.cls == 0).length
      { v with alarms := fatalInsert v.alarms e, alarmDrop := if lost then countClass v.alarmDrop 0 else v.alarmDrop }
    else
      let r := alarmInsert 239 v.alarms e
      { v with alarms := r.1, alarmDrop := r.2.elim v.alarmDrop (countClass v.alarmDrop) }
  feedRing 1 (setFn s f v1) f

/-- Offers a class 0 or 1 record to the board manager's queue of 32 (R386). -/
def offerBoard (rc : Recorder) (e : EvRec) : Recorder :=
  if e.cls = 0 then
    let lost := 17 ≤ (rc.board.filter fun x => x.cls == 0).length
    { rc with board := fatalInsert rc.board e, boardDrop := if lost then countClass rc.boardDrop 0 else rc.boardDrop }
  else if e.cls = 1 then
    let r := alarmInsert 15 rc.board e
    { rc with board := r.1, boardDrop := r.2.elim rc.boardDrop (countClass rc.boardDrop) }
  else rc

/-- Adds a record to a store of 65,536: a full one loses its oldest record of class 3, then 2, then 1 (R383).
The second component is the class lost. -/
def storeInsert (l : List EvRec) (e : EvRec) : List EvRec × Option Nat :=
  if l.length < 65536 then (l ++ [e], none)
  else
    match ([3, 2, 1].findSome? fun c => firstIdx (fun x : EvRec => x.cls == c) l) with
    | some i => (l.eraseIdx i ++ [e], (l[i]?).map (·.cls))
    | none => (l, some e.cls)

/-- Writes one buffered record to the event log (R383). -/
def logRecord (rc : Recorder) (e : EvRec) : Recorder :=
  let r := storeInsert rc.log e
  { rc with
    log := r.1
    buffer := mapIf (fun x => x.seq == e.seq) (fun x => { x with flushed := true }) rc.buffer
    recOverwrite := r.2.elim rc.recOverwrite (countClass rc.recOverwrite) }

/-- Writes every unwritten record to the event log, class 0 first (R385). -/
def flushLog (rc : Recorder) : Recorder :=
  let un := rc.buffer.filter fun e => !e.flushed
  ((un.filter fun e => e.cls == 0) ++ (un.filter fun e => e.cls != 0)).foldl logRecord rc

/-- Enters a class 0 record into the fatal slots (R384). -/
def fatalSlots (rc : Recorder) (e : EvRec) : Recorder :=
  { rc with fatal0 := rc.fatal0.elim (some e) some, fatal := (e :: rc.fatal).take 16 }

/-- The record of an occurrence, numbered (Table 14.1). -/
def recordOf (s : State) (cls : Nat) (o : Occurrence) : EvRec :=
  { seq := s.recorder.nextSeq, code := o.code, cls := cls, hist := false, extreme := false, flushed := false
    region := o.region, lt := o.lt, px := o.px, py := o.py, unit := o.unit, sub := o.sub, rep := 0, func := o.func
    at_ := s.now, secs := wallSecs s, spanMs := 0, step := o.step % 2 ^ 32, payload := padTo o.payload 32 }

/-- Stores a record: buffer, key cache, fatal slots, board queue and alarm queues. -/
def storeRecord (s : State) (e : EvRec) : State :=
  let rc := s.recorder
  let b := storeInsert rc.buffer e
  let un := (rc.buffer.filter fun x => !x.flushed).length
  let rc0 := if 4096 ≤ un then
      (match rc.buffer.find? fun x => !x.flushed with
        | some x => logRecord rc x
        | none => rc)
    else rc
  let rc1 := { rc0 with
    nextSeq := rc.nextSeq + 1
    buffer := (storeInsert rc0.buffer e).1
    recOverwrite := b.2.elim rc0.recOverwrite (countClass rc0.recOverwrite)
    cache := (e.seq :: rc.cache).take 256
    recStored := satAdd rc.recStored 1 48 }
  let rc2 := offerBoard (if e.cls = 0 then logRecord (fatalSlots rc1 e) e else rc1) e
  let s1 := { s with recorder := rc2 }
  if e.cls = 0 then
    let s2 := (List.range 17).foldl (fun t f => offerAlarm t f e) s1
    raiseCause { s2 with flt := { s2.flt with
      fatalValid := true, fatalCode := e.code, w1c := noteSet s2.flt.w1c 31 s.now } } 0 causeFatal
  else offerAlarm s1 (if e.func < 17 then e.func else 0) e

/-- The stored record that folds an occurrence: same key, at most 1 s old, still in the key cache (R380). -/
def foldTarget (s : State) (o : Occurrence) : Option EvRec :=
  s.recorder.buffer.find? fun e =>
    sameKey o e && !e.hist && !e.extreme && s.recorder.cache.contains e.seq && decide (s.now - e.at_ ≤ cyclesPerSec)

/-- Counts a new record of a code in its 1 ms interval; the second component says it is counted in the flood
histogram and not stored (R381). -/
def floodCount (s : State) (o : Occurrence) : List Flood × Bool :=
  let fs := s.recorder.floods
  let ms := s.now / cyclesPerMs
  let zero8 := List.replicate 8 0
  match fs.find? fun f => f.code == o.code with
  | none => (fs ++ [⟨o.code, ms, 1, false, zero8, 0, none⟩], false)
  | some f =>
    let bin := fun (b : List Nat) => modAt (fun n => satAdd n 1 32) b (floodBin o)
    let f1 :=
      if f.flooding then { f with bins := bin f.bins }
      else
        let c := if f.ms = ms then f.count + 1 else 1
        if 64 ≤ c then { f with ms := ms, count := c, flooding := true, bins := bin zero8, first := s.now, occ := some o }
        else { f with ms := ms, count := c }
    (mapIf (fun x => x.code == o.code) (fun _ => f1) fs, f1.flooding)

/-- Offers one occurrence to the recorder (R378 to R381, R386). -/
def postEvent (s : State) (o : Occurrence) : State :=
  match codeClass o.code with
  | none => s
  | some 0 => storeRecord s (recordOf s 0 o)
  | some c =>
    match foldTarget s o with
    | some e =>
      { s with recorder := { s.recorder with
          buffer := mapIf (fun x => x.seq == e.seq) (fun x => { x with
            rep := Nat.min (x.rep + 1) 0xFFFF, spanMs := (s.now - x.at_) / cyclesPerMs }) s.recorder.buffer
          cache := e.seq :: s.recorder.cache.filter (· != e.seq)
          recFolded := satAdd s.recorder.recFolded 1 48 } }
    | none =>
      let r := floodCount s o
      let s1 := { s with recorder := { s.recorder with floods := r.1 } }
      if r.2 then { s1 with recorder := { s1.recorder with recFlood := satAdd s1.recorder.recFlood 1 48 } }
      else storeRecord s1 (recordOf s1 c o)

/-- The owning function of a region, 0xFF for none. -/
def funcOfRegion (s : State) (r : Nat) : Nat := (regionOf s r).elim 0xFF (·.owner)

/-- An event of a region's logical tile. -/
def tileEvent (s : State) (code r lt unit sub : Nat) (payload : List Byte) : State :=
  let p := posOf s lt
  postEvent s ⟨code, r, lt, p % 26, p / 26, unit, sub, funcOfRegion s r, stepOf s r, payload⟩

/-- An event of a physical position that names no logical tile. -/
def posEvent (s : State) (code pos unit sub : Nat) (payload : List Byte) : State :=
  postEvent s ⟨code, 0xFF, 0x3FF, pos % 26, pos / 26, unit, sub, 0xFF, 0, payload⟩

/-- A device-wide event. -/
def devEvent (s : State) (code unit sub : Nat) (payload : List Byte) : State :=
  postEvent s ⟨code, 0xFF, 0x3FF, 0xFF, 0xFF, unit, sub, 0xFF, 0, payload⟩

/-- An event of a region as a whole. -/
def regionEvent (s : State) (code r : Nat) (payload : List Byte) : State :=
  postEvent s ⟨code, r, 0x3FF, 0xFF, 0xFF, 0, 0xFF, funcOfRegion s r, stepOf s r, payload⟩

end Sys2Proof.Machine
end

