-- ==== Sys2Proof/Machine/Queues.lean ====
section
/-! DEFINITION. Queues, entries, descriptor fields and synchronisation objects of a tile (R100 to R107, R112,
R118, R124 to R126, Tables 4.1 to 4.5, 4.17). -/

namespace Sys2Proof.Machine

/-! ## Descriptor header fields (Tables 4.3 and 4.4) -/

def dClass (d : Nat) : Nat := fld d 60 4
def dOp (d : Nat) : Nat := fld d 56 4
def dInstance (d : Nat) : Nat := fld d 48 8
/-- Input queue i, where IN_MASK enables it. -/
def dIn (d i : Nat) : Option Nat := if bitOf d (45 + i) then some (fld d (39 - 6 * i) 6) else none
def dOutEn (d : Nat) : Bool := bitOf d 26
def dOut (d : Nat) : Nat := fld d 20 6
def dCompEn (d : Nat) : Bool := bitOf d 19
def dAddrFromIn (d : Nat) : Bool := bitOf d 18
def dTag (d : Nat) : Nat := fld d 0 16
def dWaitEn (d : Nat) : Bool := bitOf d 127
def dWaitObj (d : Nat) : Nat := fld d 119 8
def dWaitThresh (d : Nat) : Nat := fld d 87 32
def dArriveEn (d : Nat) : Bool := bitOf d 86
def dArriveRemote (d : Nat) : Bool := bitOf d 85
def dArriveLt (d : Nat) : Nat := fld d 75 10
def dArriveObj (d : Nat) : Nat := fld d 67 8
def dArriveDelta (d : Nat) : Nat := fld d 64 3 + 1
/-- FUNC, PARAM_K and CANON of a VECTOR body (Table 4.7). -/
def dFunc (d : Nat) : Nat := fld d 296 8
def dParamK (d : Nat) : Nat := fld d 304 8
def dCanon (d : Nat) : Bool := dClass d == 1 && bitOf d 376

/-- Class codes (Table 4.5). -/
def clsMatrix : Nat := 0
def clsVector : Nat := 1
def clsDma : Nat := 2
def clsScan : Nat := 3
def clsSync : Nat := 4
def clsSend : Nat := 5
def clsControl : Nat := 6

/-- The instance tag of a tile (Table 4.3). -/
def tagOf (t : Tile) : Nat := t.gen % 8 * 32 + t.region % 32

/-- Whether a fired descriptor carries a tag that is no longer its tile's (R127). -/
def staleTag (t : Tile) (f : Fired) : Bool := dInstance f.desc != tagOf t

/-! ## Queues -/

def qcfgOf (t : Tile) (q : Nat) : QCfg := sget qcfgReset t.qcfg q
def queueOf (t : Tile) (q : Nat) : Queue := sget queueReset t.queues q
def setQueue (t : Tile) (q : Nat) (v : Queue) : Tile := { t with queues := sset queueReset t.queues q v }
def updQueue (t : Tile) (q : Nat) (f : Queue → Queue) : Tile := setQueue t q (f (queueOf t q))

/-- Ring depth in entries (Table 4.1). -/
def depthOf (c : QCfg) : Nat := 16 * 2 ^ c.depthCode
def isDescQueue (c : QCfg) : Bool := c.qtype == 1 || c.qtype == 2
def isDataQueue (c : QCfg) : Bool := c.qtype == 0
def isGather (c : QCfg) : Bool := c.qtype == 0 && decide (2 ≤ c.fanIn)

/-- Scratchpad address of a ring place. -/
def entryAddr (c : QCfg) (pos : Nat) : Nat := c.ringBase + 64 * pos

/-- Free places that no one has reserved. -/
def freeCount (t : Tile) (q : Nat) : Nat := depthOf (qcfgOf t q) - (queueOf t q).slots.length

/-- Visible places: those before the first reserved place that is not yet written (R104). -/
def visible (v : Queue) : List QSlot := v.slots.takeWhile (·.written)

/-- Visible places that no fired descriptor has reserved. -/
def avail (v : Queue) : List QSlot := (visible v).filter fun x => x.resv == none

/-- The next ring position from the tail that no entry occupies. -/
def nextPos (c : QCfg) (v : Queue) : Nat :=
  let d := depthOf c
  ((List.range d).find? fun i => !v.slots.any fun x => x.pos == (v.tail + i) % d).elim 0 fun i => (v.tail + i) % d

/-- Reserves a place at the end of the ring (R104, R115). -/
def reserveOut (t : Tile) (q idx : Nat) : Tile × Nat :=
  let c := qcfgOf t q
  let v := queueOf t q
  let p := nextPos c v
  (setQueue t q { v with slots := v.slots ++ [⟨p, false, none, idx⟩], tail := (p + 1) % depthOf c }, p)

/-- Writes an entry into a reserved place; the place costs one write slot (R103). -/
def writePlace (t : Tile) (q pos entry : Nat) : Tile :=
  let c := qcfgOf t q
  let t1 := updQueue t q fun v => { v with slots := mapIf (fun x => x.pos == pos) (fun x => { x with written := true }) v.slots }
  { t1 with spad := spadWrite t1.spad (entryAddr c pos) (leBytes entry 64) }

/-- Reserves and writes one entry at once. -/
def pushEntry (t : Tile) (q idx entry : Nat) : Tile :=
  let r := reserveOut t q idx
  writePlace r.1 q r.2 entry

/-- The 512 bits of the entry at a ring position. -/
def entryAt (t : Tile) (q pos : Nat) : Nat := spadNum t.spad (entryAddr (qcfgOf t q) pos) 64

/-- Marks places as reserved by a fired descriptor. -/
def reserveIns (t : Tile) (fid : Nat) (ins : List (Nat × Nat)) : Tile :=
  ins.foldl (fun t i => updQueue t i.1 fun v =>
    { v with slots := mapIf (fun x => x.pos == i.2) (fun x => { x with resv := some fid }) v.slots }) t

/-- Removes consumed places (R119 item 1). -/
def dropIns (t : Tile) (ins : List (Nat × Nat)) : Tile :=
  ins.foldl (fun t i => updQueue t i.1 fun v => { v with slots := v.slots.filter fun x => x.pos != i.2 }) t

/-! ## Queue entries (Table 4.2) -/

def eLength (e : Nat) : Nat := fld e 496 16
def eOffset (e : Nat) : Nat := fld e 470 26
def eSlot (e : Nat) : Nat := fld e 462 8
def eSrcLt (e : Nat) : Nat := fld e 452 10
def eSrcDev (e : Nat) : Nat := fld e 440 12
def eInline (e : Nat) : Bool := bitOf e 439

/-- An entry from its fields; `payload` is the 384-bit PAYLOAD. -/
def mkEntry (len off slot srcLt srcDev : Nat) (inl prov : Bool) (stepLow payload : Nat) : Nat :=
  len % 2 ^ 16 * 2 ^ 496 + off % 2 ^ 26 * 2 ^ 470 + slot % 256 * 2 ^ 462 + srcLt % 1024 * 2 ^ 452 +
    srcDev % 4096 * 2 ^ 440 + b2n inl * 2 ^ 439 + b2n prov * 2 ^ 438 + stepLow % 2 ^ 16 * 2 ^ 422 + payload % 2 ^ 384

/-! ## Synchronisation objects (R124 to R126, Table 4.17) -/

def objCfgOf (t : Tile) (o : Nat) : ObjCfg := sget objCfgReset t.objCfg o

/-- An object that nothing has touched since its configuration holds its reset value. -/
def objOf (t : Tile) (o : Nat) : SyncObj :=
  match t.objs.find? fun e => e.1 == o with
  | some e => e.2
  | none => { objReset with prev := (objCfgOf t o).resetVal }

/-- The value an object holds: the RESETs of its last cycle, then the sum of its ARRIVEs, saturating. -/
def objVal (x : SyncObj) : Nat :=
  Nat.min ((x.rstR.elim (x.rstL.elim x.prev id) id) + x.sum) 0xFFFFFFFF

/-- The value as it stood at the end of the cycle before `now` (R115 item 5). -/
def objPrev (x : SyncObj) (now : Nat) : Nat := if x.chg = now then x.prev else objVal x

/-- The object opened for changes in cycle `now`. -/
def objOpen (x : SyncObj) (now : Nat) : SyncObj :=
  if x.chg = now then x else ⟨objVal x, now, none, none, 0⟩

def setObj (t : Tile) (o : Nat) (x : SyncObj) : Tile := { t with objs := sins o x (sdel o t.objs) }

/-- ARRIVE(delta); the Bool says it saturated (R125). -/
def objArrive (t : Tile) (now o delta : Nat) : Tile × Bool :=
  let x := objOpen (objOf t o) now
  let y := { x with sum := x.sum + delta }
  (setObj t o y, decide (0xFFFFFFFF < (x.rstR.elim (x.rstL.elim x.prev id) id) + y.sum))

/-- RESET(v), local or remote (Table 4.17: the remote one applies last). -/
def objSet (t : Tile) (now o v : Nat) (remote : Bool) : Tile :=
  let x := objOpen (objOf t o) now
  setObj t o (if remote then { x with rstR := some v } else { x with rstL := some v })

/-- Every STEP object back at its reset value, as one that nothing has touched (R126): no WAIT of a later step sees an old count. -/
def objStepReset (t : Tile) : Tile := { t with objs := t.objs.filter fun e => (objCfgOf t e.1).firmware }

/-- ARRIVE on an object of a tile of the state; saturation posts SYNC_SAT (R125). -/
def arriveAt (s : State) (lt o delta : Nat) : State :=
  let r := objArrive (tileOf s lt) s.now o delta
  let s1 := setTile s lt r.1
  if r.2 then tileEvent s1 0x0201 (regionOfLt s lt) lt 0 0xFF (leBytes o 1) else s1

end Sys2Proof.Machine
end

