-- ==== Sys2Proof/Machine/VecTables.lean ====
section
/-! DEFINITION. The constants of the vector engine (Table 5.8 and R148): each is the FP32 value nearest to the
exact quantity its definition names, computed from that definition. -/

namespace Sys2Proof.Machine

/-- L of Table 5.8 or R148: log₂ e. -/
def fcL : F32 := 0x3FB8AA3B#32

/-- c1 of Table 5.8 or R148: ln 2. -/
def fcC1 : F32 := 0x3F317218#32

/-- c2 of Table 5.8 or R148: (ln 2)²/2. -/
def fcC2 : F32 := 0x3E75FDF0#32

/-- c3 of Table 5.8 or R148: (ln 2)³/6. -/
def fcC3 : F32 := 0x3D635847#32

/-- d1 of Table 5.8 or R148: −1/3. -/
def fcD1 : F32 := 0xBEAAAAAB#32

/-- d2 of Table 5.8 or R148: 2/15. -/
def fcD2 : F32 := 0x3E088889#32

/-- d3 of Table 5.8 or R148: −17/315. -/
def fcD3 : F32 := 0xBD5D0DD1#32

/-- g1 of Table 5.8 or R148: √(2/π). -/
def fcG1 : F32 := 0x3F4C422A#32

/-- g2 of Table 5.8 or R148: 0.044715. -/
def fcG2 : F32 := 0x3D372713#32

/-- K of Table 5.8 or R148: 2π · 2⁻³². -/
def fcK : F32 := 0x30C90FDB#32

/-- s3 of Table 5.8 or R148: 1/6. -/
def fcS3 : F32 := 0x3E2AAAAB#32

/-- h of Table 5.8 or R148: 1/2. -/
def fcH : F32 := 0x3F000000#32

/-- q4 of Table 5.8 or R148: 1/24. -/
def fcQ4 : F32 := 0x3D2AAAAB#32

def tabT0 : List F32 :=
  [0x3F800000#32, 0x3F8164D2#32, 0x3F82CD87#32, 0x3F843A29#32, 0x3F85AAC3#32, 0x3F871F62#32, 0x3F88980F#32, 0x3F8A14D5#32,
   0x3F8B95C2#32, 0x3F8D1ADF#32, 0x3F8EA43A#32, 0x3F9031DC#32, 0x3F91C3D3#32, 0x3F935A2B#32, 0x3F94F4F0#32, 0x3F96942D#32,
   0x3F9837F0#32, 0x3F99E046#32, 0x3F9B8D3A#32, 0x3F9D3EDA#32, 0x3F9EF532#32, 0x3FA0B051#32, 0x3FA27043#32, 0x3FA43516#32,
   0x3FA5FED7#32, 0x3FA7CD94#32, 0x3FA9A15B#32, 0x3FAB7A3A#32, 0x3FAD583F#32, 0x3FAF3B79#32, 0x3FB123F6#32, 0x3FB311C4#32]

def tabT1 : List F32 :=
  [0x3FB504F3#32, 0x3FB6FD92#32, 0x3FB8FBAF#32, 0x3FBAFF5B#32, 0x3FBD08A4#32, 0x3FBF179A#32, 0x3FC12C4D#32, 0x3FC346CD#32,
   0x3FC5672A#32, 0x3FC78D75#32, 0x3FC9B9BE#32, 0x3FCBEC15#32, 0x3FCE248C#32, 0x3FD06334#32, 0x3FD2A81E#32, 0x3FD4F35B#32,
   0x3FD744FD#32, 0x3FD99D16#32, 0x3FDBFBB8#32, 0x3FDE60F5#32, 0x3FE0CCDF#32, 0x3FE33F89#32, 0x3FE5B907#32, 0x3FE8396A#32,
   0x3FEAC0C7#32, 0x3FED4F30#32, 0x3FEFE4BA#32, 0x3FF28177#32, 0x3FF5257D#32, 0x3FF7D0DF#32, 0x3FFA83B3#32, 0x3FFD3E0C#32]

/-- T[j] = 2^(j/64) (Table 5.8). -/
def tabT : List F32 := tabT0 ++ tabT1

def tabS0 : List F32 :=
  [0x00000000#32, 0x3CC90AB0#32, 0x3D48FB30#32, 0x3D96A905#32, 0x3DC8BD36#32, 0x3DFAB273#32, 0x3E164083#32, 0x3E2F10A2#32,
   0x3E47C5C2#32, 0x3E605C13#32, 0x3E78CFCC#32, 0x3E888E93#32, 0x3E94A031#32, 0x3EA09AE5#32, 0x3EAC7CD4#32, 0x3EB8442A#32,
   0x3EC3EF15#32, 0x3ECF7BCA#32, 0x3EDAE880#32, 0x3EE63375#32, 0x3EF15AEA#32, 0x3EFC5D27#32, 0x3F039C3D#32, 0x3F08F59B#32,
   0x3F0E39DA#32, 0x3F13682A#32, 0x3F187FC0#32, 0x3F1D7FD1#32, 0x3F226799#32, 0x3F273656#32, 0x3F2BEB4A#32, 0x3F3085BB#32]

def tabS1 : List F32 :=
  [0x3F3504F3#32, 0x3F396842#32, 0x3F3DAEF9#32, 0x3F41D870#32, 0x3F45E403#32, 0x3F49D112#32, 0x3F4D9F02#32, 0x3F514D3D#32,
   0x3F54DB31#32, 0x3F584853#32, 0x3F5B941A#32, 0x3F5EBE05#32, 0x3F61C598#32, 0x3F64AA59#32, 0x3F676BD8#32, 0x3F6A09A7#32,
   0x3F6C835E#32, 0x3F6ED89E#32, 0x3F710908#32, 0x3F731447#32, 0x3F74FA0B#32, 0x3F76BA07#32, 0x3F7853F8#32, 0x3F79C79D#32,
   0x3F7B14BE#32, 0x3F7C3B28#32, 0x3F7D3AAC#32, 0x3F7E1324#32, 0x3F7EC46D#32, 0x3F7F4E6D#32, 0x3F7FB10F#32, 0x3F7FEC43#32]

def tabS2 : List F32 :=
  [0x3F800000#32, 0x3F7FEC43#32, 0x3F7FB10F#32, 0x3F7F4E6D#32, 0x3F7EC46D#32, 0x3F7E1324#32, 0x3F7D3AAC#32, 0x3F7C3B28#32,
   0x3F7B14BE#32, 0x3F79C79D#32, 0x3F7853F8#32, 0x3F76BA07#32, 0x3F74FA0B#32, 0x3F731447#32, 0x3F710908#32, 0x3F6ED89E#32,
   0x3F6C835E#32, 0x3F6A09A7#32, 0x3F676BD8#32, 0x3F64AA59#32, 0x3F61C598#32, 0x3F5EBE05#32, 0x3F5B941A#32, 0x3F584853#32,
   0x3F54DB31#32, 0x3F514D3D#32, 0x3F4D9F02#32, 0x3F49D112#32, 0x3F45E403#32, 0x3F41D870#32, 0x3F3DAEF9#32, 0x3F396842#32]

def tabS3 : List F32 :=
  [0x3F3504F3#32, 0x3F3085BB#32, 0x3F2BEB4A#32, 0x3F273656#32, 0x3F226799#32, 0x3F1D7FD1#32, 0x3F187FC0#32, 0x3F13682A#32,
   0x3F0E39DA#32, 0x3F08F59B#32, 0x3F039C3D#32, 0x3EFC5D27#32, 0x3EF15AEA#32, 0x3EE63375#32, 0x3EDAE880#32, 0x3ECF7BCA#32,
   0x3EC3EF15#32, 0x3EB8442A#32, 0x3EAC7CD4#32, 0x3EA09AE5#32, 0x3E94A031#32, 0x3E888E93#32, 0x3E78CFCC#32, 0x3E605C13#32,
   0x3E47C5C2#32, 0x3E2F10A2#32, 0x3E164083#32, 0x3DFAB273#32, 0x3DC8BD36#32, 0x3D96A905#32, 0x3D48FB30#32, 0x3CC90AB0#32]

def tabS4 : List F32 :=
  [0x00000000#32, 0xBCC90AB0#32, 0xBD48FB30#32, 0xBD96A905#32, 0xBDC8BD36#32, 0xBDFAB273#32, 0xBE164083#32, 0xBE2F10A2#32,
   0xBE47C5C2#32, 0xBE605C13#32, 0xBE78CFCC#32, 0xBE888E93#32, 0xBE94A031#32, 0xBEA09AE5#32, 0xBEAC7CD4#32, 0xBEB8442A#32,
   0xBEC3EF15#32, 0xBECF7BCA#32, 0xBEDAE880#32, 0xBEE63375#32, 0xBEF15AEA#32, 0xBEFC5D27#32, 0xBF039C3D#32, 0xBF08F59B#32,
   0xBF0E39DA#32, 0xBF13682A#32, 0xBF187FC0#32, 0xBF1D7FD1#32, 0xBF226799#32, 0xBF273656#32, 0xBF2BEB4A#32, 0xBF3085BB#32]

def tabS5 : List F32 :=
  [0xBF3504F3#32, 0xBF396842#32, 0xBF3DAEF9#32, 0xBF41D870#32, 0xBF45E403#32, 0xBF49D112#32, 0xBF4D9F02#32, 0xBF514D3D#32,
   0xBF54DB31#32, 0xBF584853#32, 0xBF5B941A#32, 0xBF5EBE05#32, 0xBF61C598#32, 0xBF64AA59#32, 0xBF676BD8#32, 0xBF6A09A7#32,
   0xBF6C835E#32, 0xBF6ED89E#32, 0xBF710908#32, 0xBF731447#32, 0xBF74FA0B#32, 0xBF76BA07#32, 0xBF7853F8#32, 0xBF79C79D#32,
   0xBF7B14BE#32, 0xBF7C3B28#32, 0xBF7D3AAC#32, 0xBF7E1324#32, 0xBF7EC46D#32, 0xBF7F4E6D#32, 0xBF7FB10F#32, 0xBF7FEC43#32]

def tabS6 : List F32 :=
  [0xBF800000#32, 0xBF7FEC43#32, 0xBF7FB10F#32, 0xBF7F4E6D#32, 0xBF7EC46D#32, 0xBF7E1324#32, 0xBF7D3AAC#32, 0xBF7C3B28#32,
   0xBF7B14BE#32, 0xBF79C79D#32, 0xBF7853F8#32, 0xBF76BA07#32, 0xBF74FA0B#32, 0xBF731447#32, 0xBF710908#32, 0xBF6ED89E#32,
   0xBF6C835E#32, 0xBF6A09A7#32, 0xBF676BD8#32, 0xBF64AA59#32, 0xBF61C598#32, 0xBF5EBE05#32, 0xBF5B941A#32, 0xBF584853#32,
   0xBF54DB31#32, 0xBF514D3D#32, 0xBF4D9F02#32, 0xBF49D112#32, 0xBF45E403#32, 0xBF41D870#32, 0xBF3DAEF9#32, 0xBF396842#32]

def tabS7 : List F32 :=
  [0xBF3504F3#32, 0xBF3085BB#32, 0xBF2BEB4A#32, 0xBF273656#32, 0xBF226799#32, 0xBF1D7FD1#32, 0xBF187FC0#32, 0xBF13682A#32,
   0xBF0E39DA#32, 0xBF08F59B#32, 0xBF039C3D#32, 0xBEFC5D27#32, 0xBEF15AEA#32, 0xBEE63375#32, 0xBEDAE880#32, 0xBECF7BCA#32,
   0xBEC3EF15#32, 0xBEB8442A#32, 0xBEAC7CD4#32, 0xBEA09AE5#32, 0xBE94A031#32, 0xBE888E93#32, 0xBE78CFCC#32, 0xBE605C13#32,
   0xBE47C5C2#32, 0xBE2F10A2#32, 0xBE164083#32, 0xBDFAB273#32, 0xBDC8BD36#32, 0xBD96A905#32, 0xBD48FB30#32, 0xBCC90AB0#32]

/-- S[j] = sin(2πj/256) (R148). -/
def tabS : List F32 := tabS0 ++ tabS1 ++ tabS2 ++ tabS3 ++ tabS4 ++ tabS5 ++ tabS6 ++ tabS7

def tabC0 : List F32 :=
  [0x3F800000#32, 0x3F7FEC43#32, 0x3F7FB10F#32, 0x3F7F4E6D#32, 0x3F7EC46D#32, 0x3F7E1324#32, 0x3F7D3AAC#32, 0x3F7C3B28#32,
   0x3F7B14BE#32, 0x3F79C79D#32, 0x3F7853F8#32, 0x3F76BA07#32, 0x3F74FA0B#32, 0x3F731447#32, 0x3F710908#32, 0x3F6ED89E#32,
   0x3F6C835E#32, 0x3F6A09A7#32, 0x3F676BD8#32, 0x3F64AA59#32, 0x3F61C598#32, 0x3F5EBE05#32, 0x3F5B941A#32, 0x3F584853#32,
   0x3F54DB31#32, 0x3F514D3D#32, 0x3F4D9F02#32, 0x3F49D112#32, 0x3F45E403#32, 0x3F41D870#32, 0x3F3DAEF9#32, 0x3F396842#32]

def tabC1 : List F32 :=
  [0x3F3504F3#32, 0x3F3085BB#32, 0x3F2BEB4A#32, 0x3F273656#32, 0x3F226799#32, 0x3F1D7FD1#32, 0x3F187FC0#32, 0x3F13682A#32,
   0x3F0E39DA#32, 0x3F08F59B#32, 0x3F039C3D#32, 0x3EFC5D27#32, 0x3EF15AEA#32, 0x3EE63375#32, 0x3EDAE880#32, 0x3ECF7BCA#32,
   0x3EC3EF15#32, 0x3EB8442A#32, 0x3EAC7CD4#32, 0x3EA09AE5#32, 0x3E94A031#32, 0x3E888E93#32, 0x3E78CFCC#32, 0x3E605C13#32,
   0x3E47C5C2#32, 0x3E2F10A2#32, 0x3E164083#32, 0x3DFAB273#32, 0x3DC8BD36#32, 0x3D96A905#32, 0x3D48FB30#32, 0x3CC90AB0#32]

def tabC2 : List F32 :=
  [0x00000000#32, 0xBCC90AB0#32, 0xBD48FB30#32, 0xBD96A905#32, 0xBDC8BD36#32, 0xBDFAB273#32, 0xBE164083#32, 0xBE2F10A2#32,
   0xBE47C5C2#32, 0xBE605C13#32, 0xBE78CFCC#32, 0xBE888E93#32, 0xBE94A031#32, 0xBEA09AE5#32, 0xBEAC7CD4#32, 0xBEB8442A#32,
   0xBEC3EF15#32, 0xBECF7BCA#32, 0xBEDAE880#32, 0xBEE63375#32, 0xBEF15AEA#32, 0xBEFC5D27#32, 0xBF039C3D#32, 0xBF08F59B#32,
   0xBF0E39DA#32, 0xBF13682A#32, 0xBF187FC0#32, 0xBF1D7FD1#32, 0xBF226799#32, 0xBF273656#32, 0xBF2BEB4A#32, 0xBF3085BB#32]

def tabC3 : List F32 :=
  [0xBF3504F3#32, 0xBF396842#32, 0xBF3DAEF9#32, 0xBF41D870#32, 0xBF45E403#32, 0xBF49D112#32, 0xBF4D9F02#32, 0xBF514D3D#32,
   0xBF54DB31#32, 0xBF584853#32, 0xBF5B941A#32, 0xBF5EBE05#32, 0xBF61C598#32, 0xBF64AA59#32, 0xBF676BD8#32, 0xBF6A09A7#32,
   0xBF6C835E#32, 0xBF6ED89E#32, 0xBF710908#32, 0xBF731447#32, 0xBF74FA0B#32, 0xBF76BA07#32, 0xBF7853F8#32, 0xBF79C79D#32,
   0xBF7B14BE#32, 0xBF7C3B28#32, 0xBF7D3AAC#32, 0xBF7E1324#32, 0xBF7EC46D#32, 0xBF7F4E6D#32, 0xBF7FB10F#32, 0xBF7FEC43#32]

def tabC4 : List F32 :=
  [0xBF800000#32, 0xBF7FEC43#32, 0xBF7FB10F#32, 0xBF7F4E6D#32, 0xBF7EC46D#32, 0xBF7E1324#32, 0xBF7D3AAC#32, 0xBF7C3B28#32,
   0xBF7B14BE#32, 0xBF79C79D#32, 0xBF7853F8#32, 0xBF76BA07#32, 0xBF74FA0B#32, 0xBF731447#32, 0xBF710908#32, 0xBF6ED89E#32,
   0xBF6C835E#32, 0xBF6A09A7#32, 0xBF676BD8#32, 0xBF64AA59#32, 0xBF61C598#32, 0xBF5EBE05#32, 0xBF5B941A#32, 0xBF584853#32,
   0xBF54DB31#32, 0xBF514D3D#32, 0xBF4D9F02#32, 0xBF49D112#32, 0xBF45E403#32, 0xBF41D870#32, 0xBF3DAEF9#32, 0xBF396842#32]

def tabC5 : List F32 :=
  [0xBF3504F3#32, 0xBF3085BB#32, 0xBF2BEB4A#32, 0xBF273656#32, 0xBF226799#32, 0xBF1D7FD1#32, 0xBF187FC0#32, 0xBF13682A#32,
   0xBF0E39DA#32, 0xBF08F59B#32, 0xBF039C3D#32, 0xBEFC5D27#32, 0xBEF15AEA#32, 0xBEE63375#32, 0xBEDAE880#32, 0xBECF7BCA#32,
   0xBEC3EF15#32, 0xBEB8442A#32, 0xBEAC7CD4#32, 0xBEA09AE5#32, 0xBE94A031#32, 0xBE888E93#32, 0xBE78CFCC#32, 0xBE605C13#32,
   0xBE47C5C2#32, 0xBE2F10A2#32, 0xBE164083#32, 0xBDFAB273#32, 0xBDC8BD36#32, 0xBD96A905#32, 0xBD48FB30#32, 0xBCC90AB0#32]

def tabC6 : List F32 :=
  [0x00000000#32, 0x3CC90AB0#32, 0x3D48FB30#32, 0x3D96A905#32, 0x3DC8BD36#32, 0x3DFAB273#32, 0x3E164083#32, 0x3E2F10A2#32,
   0x3E47C5C2#32, 0x3E605C13#32, 0x3E78CFCC#32, 0x3E888E93#32, 0x3E94A031#32, 0x3EA09AE5#32, 0x3EAC7CD4#32, 0x3EB8442A#32,
   0x3EC3EF15#32, 0x3ECF7BCA#32, 0x3EDAE880#32, 0x3EE63375#32, 0x3EF15AEA#32, 0x3EFC5D27#32, 0x3F039C3D#32, 0x3F08F59B#32,
   0x3F0E39DA#32, 0x3F13682A#32, 0x3F187FC0#32, 0x3F1D7FD1#32, 0x3F226799#32, 0x3F273656#32, 0x3F2BEB4A#32, 0x3F3085BB#32]

def tabC7 : List F32 :=
  [0x3F3504F3#32, 0x3F396842#32, 0x3F3DAEF9#32, 0x3F41D870#32, 0x3F45E403#32, 0x3F49D112#32, 0x3F4D9F02#32, 0x3F514D3D#32,
   0x3F54DB31#32, 0x3F584853#32, 0x3F5B941A#32, 0x3F5EBE05#32, 0x3F61C598#32, 0x3F64AA59#32, 0x3F676BD8#32, 0x3F6A09A7#32,
   0x3F6C835E#32, 0x3F6ED89E#32, 0x3F710908#32, 0x3F731447#32, 0x3F74FA0B#32, 0x3F76BA07#32, 0x3F7853F8#32, 0x3F79C79D#32,
   0x3F7B14BE#32, 0x3F7C3B28#32, 0x3F7D3AAC#32, 0x3F7E1324#32, 0x3F7EC46D#32, 0x3F7F4E6D#32, 0x3F7FB10F#32, 0x3F7FEC43#32]

/-- C[j] = cos(2πj/256) (R148). -/
def tabC : List F32 := tabC0 ++ tabC1 ++ tabC2 ++ tabC3 ++ tabC4 ++ tabC5 ++ tabC6 ++ tabC7

end Sys2Proof.Machine
end

