-- ==== Sys2Proof/Machine/VecMath.lean ====
section
/-! DEFINITION. The vector engine's functions on FP32 values (R146 to R151, Tables 5.7 and 5.8, R435): each
named operation rounds once, to nearest even. -/

namespace Sys2Proof.Machine

/-! ## Correctly rounded division and square root (R146) -/

/-- Floor of the square root of `n`, which is below 4^bits. -/
def isqrtAux (n : Nat) : Nat → Nat → Nat
  | 0, r => r
  | b + 1, r => isqrtAux n b (if (r + 2 ^ b) * (r + 2 ^ b) ≤ n then r + 2 ^ b else r)

def isqrt (n : Nat) : Nat := isqrtAux n (Nat.log2 n / 2 + 1) 0

/-- A quotient to enough bits that rounding it once is exact: the last bit is sticky. -/
def fpDivX : FpVal → FpVal → FpVal
  | .nan, _ => .nan
  | _, .nan => .nan
  | .inf _, .inf _ => .nan
  | .inf s, .fin t _ _ => .inf (s != t)
  | .fin s _ _, .inf t => .fin (s != t) 0 0
  | .fin s m e, .fin t n f =>
    if n = 0 then (if m = 0 then .nan else .inf (s != t))
    else if m = 0 then .fin (s != t) 0 0
    else
      let k := 70 + Nat.log2 n
      let num := m * 2 ^ k
      .fin (s != t) (2 * (num / n) + (if num % n = 0 then 0 else 1)) (e - f - k - 1)

/-- A square root with a sticky last bit; negative numbers give NaN, ±0 itself. -/
def fpSqrtX : FpVal → FpVal
  | .nan => .nan
  | .inf s => if s then .nan else .inf false
  | .fin s m e =>
    if m = 0 then .fin s 0 0
    else if s then .nan
    else
      let e2 := e - 80
      let par := e2 % 2
      let n := m * 2 ^ (80 + par.toNat)
      let r := isqrt n
      .fin false (2 * r + (if r * r = n then 0 else 1)) ((e2 - par) / 2 - 1)

/-- A reciprocal square root with a sticky last bit; ±0 gives ±infinity. -/
def fpRsqrtX : FpVal → FpVal
  | .nan => .nan
  | .inf s => if s then .nan else .fin false 0 0
  | .fin s m e =>
    if m = 0 then .inf s
    else if s then .nan
    else
      let par := e % 2
      let n := m * 2 ^ par.toNat
      let k := 80 + Nat.log2 n
      let r := isqrt (2 ^ (2 * k) / n)
      .fin false (2 * r + (if r * r * n = 2 ^ (2 * k) then 0 else 1)) (-((e - par) / 2) - k - 1)

def fdiv (a b : F32) : F32 := encFP32 (fpDivX (f32 a) (f32 b))
def fsqrt (a : F32) : F32 := encFP32 (fpSqrtX (f32 a))
def frsqrt (a : F32) : F32 := encFP32 (fpRsqrtX (f32 a))
def frcp (a : F32) : F32 := fdiv f32One a

/-- FP32 nearest to an integer. -/
def f32OfInt (i : Int) : F32 := encFP32 (fpOfInt i)

/-- MAX of R146: canonical NaN with a NaN operand, +0 above −0. -/
def fmax (a b : F32) : F32 :=
  if fnan a || fnan b then f32Nan
  else if fpIsZero (f32 a) && fpIsZero (f32 b) then (if fpSign (f32 a) then b else a)
  else if flt a b then b else a

/-- MIN of R146: canonical NaN with a NaN operand, −0 below +0. -/
def fmin (a b : F32) : F32 :=
  if fnan a || fnan b then f32Nan
  else if fpIsZero (f32 a) && fpIsZero (f32 b) then (if fpSign (f32 a) then a else b)
  else if flt b a then b else a

/-! ## Functions of Table 5.8 -/

/-- The FP32 value of an element of source format (R146): INT32 rounds, every other format is exact. -/
def toF32 (v : FpVal) : F32 := encFP32 v

/-- EXP2 (Table 5.8). -/
def fexp2 (y : F32) : F32 :=
  match f32 y with
  | .nan => f32Nan
  | .inf s => if s then f32Zero else f32Inf
  | .fin s m e =>
    let v : FpVal := .fin s m e
    if !fpLt v (fpOfInt 128) then f32Inf
    else if fpLt v (fpOfInt (-150)) then f32Zero
    else
      let k := fpToInt s m (e + 6)
      let j := (k % 64).toNat
      let r := encFP32 (fpAddX v (.fin (decide (0 < k)) k.natAbs (-6)))
      let p := fadd f32One (fmul r (fadd fcC1 (fmul r (fadd fcC2 (fmul r fcC3)))))
      match f32 (fmul (tabT.getD j f32One) p) with
      | .fin s2 m2 e2 => encFP32 (.fin s2 m2 (e2 + (k - j) / 64))
      | w => encFP32 w

def fexp (x : F32) : F32 := fexp2 (fmul x fcL)
def fsigmoid (x : F32) : F32 := frcp (fadd f32One (fexp (fneg x)))

/-- |x| as an FP32 value. -/
def fabs (x : F32) : F32 := x &&& 0x7FFFFFFF#32

def ftanh (x : F32) : F32 :=
  if fnan x then f32Nan
  else
    let ax := fabs x
    let neg := fpSign (f32 x)
    if flt ax 0x3E000000#32 then
      let x2 := fmul x x
      fmul x (fadd f32One (fmul x2 (fadd fcD1 (fmul x2 (fadd fcD2 (fmul x2 fcD3))))))
    else if !flt ax 0x41200000#32 then (if neg then 0xBF800000#32 else f32One)
    else
      let t := fsub f32One (fmul 0x40000000#32 (frcp (fadd (fexp2 (fmul (fmul 0x40000000#32 ax) fcL)) f32One)))
      if neg then fneg t else t

def fgelu (x : F32) : F32 :=
  let inner := fmul fcG1 (fadd x (fmul (fmul (fmul fcG2 x) x) x))
  fmul (fmul 0x3F000000#32 x) (fadd f32One (ftanh inner))

def fsilu (x : F32) : F32 := fmul x (fsigmoid x)
def frelu (x : F32) : F32 := fmax x f32Zero

/-- Epilogue stage E3 and ACTIVATE functions 0x00 to 0x0A (R57, Table 5.7). -/
def activateFn (f : Nat) (x : F32) : F32 :=
  match f with
  | 0 => x
  | 1 => frelu x
  | 2 => fgelu x
  | 3 => fsilu x
  | 4 => fmul (frelu x) (frelu x)
  | 5 => fexp x
  | 6 => fexp2 x
  | 7 => frcp x
  | 8 => frsqrt x
  | 9 => ftanh x
  | _ => fsigmoid x

/-! ## Reductions (R147) -/

/-- The reductions of R147. -/
inductive RedOp where
  | sum | max | min | sumsq
deriving DecidableEq, Repr

def redIdentity : RedOp → F32
  | .sum => f32Zero
  | .sumsq => f32Zero
  | .max => f32NegInf
  | .min => f32Inf

/-- One fold step of a lane. -/
def redFold (op : RedOp) (acc x : F32) : F32 :=
  match op with
  | .sum => fadd acc x
  | .sumsq => ffma x x acc
  | .max => fmax acc x
  | .min => fmin acc x

/-- How two lane values combine in the tree. -/
def redJoin (op : RedOp) (a b : F32) : F32 :=
  match op with
  | .sum => fadd a b
  | .sumsq => fadd a b
  | .max => fmax a b
  | .min => fmin a b

/-- One level of the pairwise tree. -/
def redLevel (op : RedOp) : List F32 → List F32
  | a :: b :: t => redJoin op a b :: redLevel op t
  | l => l

/-- Folds one 64-element row of values into the 64 lanes. -/
def redRow (op : RedOp) : List F32 → List F32 → List F32
  | a :: as, x :: xs => redFold op a x :: redRow op as xs
  | as, _ => as

/-- The reduction of a row (R147). -/
def reduceRow (op : RedOp) (xs : List F32) : F32 :=
  let lanes := (chunks 64 (xs.length / 64 + 1) xs).foldl (redRow op) (List.replicate 64 (redIdentity op))
  let l := redLevel op (redLevel op (redLevel op (redLevel op (redLevel op (redLevel op lanes)))))
  l.headD (redIdentity op)

/-! ## Row operations -/

/-- ELEMENTWISE functions 0x00 to 0x08 (Table 5.7). -/
def elementwiseFn (f : Nat) (imm0 a b c : F32) : F32 :=
  match f with
  | 0 => fadd a b
  | 1 => fsub a b
  | 2 => fmul a b
  | 3 => fmax a b
  | 4 => fmin a b
  | 5 => ffma a b c
  | 6 => fmul a imm0
  | 7 => fdiv a b
  | _ => a

/-- NORM of one row (R435): function 0 RMS, 1 LAYER. -/
def normRow (f : Nat) (imm0 : F32) (a b c : List F32) : List F32 :=
  let len := f32OfInt a.length
  if f = 0 then
    let r := frsqrt (fadd (fdiv (reduceRow .sumsq a) len) imm0)
    List.zipWith (fun x g => fmul (fmul x r) g) a b
  else
    let mu := fdiv (reduceRow .sum a) len
    let d := a.map fun x => fsub x mu
    let r := frsqrt (fadd (fdiv (reduceRow .sumsq d) len) imm0)
    List.zipWith (fun p cc => ffma (fmul p.1 r) p.2 cc) (List.zip d b) c

/-- m, l and the eᵢ of SOFTMAX (R149).  A row whose elements are all −∞ gives l = 0 and eᵢ = 0. -/
def softmaxRow (s : List F32) : F32 × F32 × List F32 :=
  let m := reduceRow .max s
  if m = f32NegInf then (m, f32Zero, s.map fun _ => f32Zero)
  else
    let e := s.map fun x => fexp (fsub x m)
    (m, reduceRow .sum e, e)

/-- SOFTMAX FULL of one row (R149). -/
def softmaxFull (s : List F32) : List F32 :=
  let r := softmaxRow s
  if fpIsZero (f32 r.2.1) then s.map fun _ => f32Zero
  else
    let i := frcp r.2.1
    r.2.2.map fun e => fmul e i

/-- ROPE sine and cosine for position `pos` and frequency `g` (R148). -/
def ropeSinCos (pos g : Nat) : F32 × F32 :=
  let ph := pos * g % 2 ^ 64
  let j := fld ph 56 8
  let b := fmul (f32OfInt (fld ph 32 24)) fcK
  let sj := tabS.getD j f32Zero
  let cj := tabC.getD j f32Zero
  let sb := fsub b (fmul (fmul (fmul b b) b) fcS3)
  let cb := fadd (fsub f32One (fmul (fmul b b) fcH)) (fmul (fmul (fmul (fmul b b) b) b) fcQ4)
  (fadd (fmul sj cb) (fmul cj sb), fsub (fmul cj cb) (fmul sj sb))

/-- The rotated pair (R148). -/
def ropePair (pos g : Nat) (x y : F32) : F32 × F32 :=
  let sc := ropeSinCos pos g
  (fsub (fmul x sc.2) (fmul y sc.1), fadd (fmul x sc.1) (fmul y sc.2))

/-- ROPE of one row: function 0 pairs (2i, 2i + 1), 1 pairs (i, i + LEN/2).  With an odd LEN the last
element has no pair and stays as it is (DESIGN CHOICE, assumption 145). -/
def ropeRow (f pos : Nat) (gs : List Nat) (row : List F32) : List F32 :=
  let half := row.length / 2
  let at_ := fun i => row.getD i f32Zero
  if f = 0 then
    (List.range row.length).map fun i =>
      let p := ropePair pos (gs.getD (i / 2) 0) (at_ (i / 2 * 2)) (at_ (i / 2 * 2 + 1))
      if i / 2 * 2 + 1 < row.length then (if i % 2 = 0 then p.1 else p.2) else at_ i
  else
    (List.range row.length).map fun i =>
      if i < half then (ropePair pos (gs.getD i 0) (at_ i) (at_ (i + half))).1
      else if i < 2 * half then (ropePair pos (gs.getD (i - half) 0) (at_ (i - half)) (at_ i)).2
      else at_ i

/-- ATTN_MERGE of one row (R150): per slot the value m_k, l_k and the row o_k. -/
def attnMergeRow (parts : List (F32 × F32 × List F32)) (len : Nat) : List F32 :=
  let m := parts.foldl (fun a p => fmax a p.1) f32NegInf
  let w := fun (mk : F32) => if mk = f32NegInf then f32Zero else fexp (fsub mk m)
  let l := parts.foldl (fun a p => ffma p.2.1 (w p.1) a) f32Zero
  let o := parts.foldl (fun a p => List.zipWith (fun x acc => ffma x (w p.1) acc) p.2.2 a)
    (List.replicate len f32Zero)
  if fpIsZero (f32 l) then o.map fun _ => f32Zero else o.map fun x => fdiv x l

/-! ## The random stream (R151) -/

def u64 (n : Nat) : Nat := n % 2 ^ 64

def mix (z0 : Nat) : Nat :=
  let z := u64 (z0 + 0x9E3779B97F4A7C15)
  let z := u64 ((z ^^^ z / 2 ^ 30) * 0xBF58476D1CE4E5B9)
  let z := u64 ((z ^^^ z / 2 ^ 27) * 0x94D049BB133111EB)
  z ^^^ z / 2 ^ 31

/-- The 64-bit draw of (seed, sequence, step, index). -/
def drawBits (seed seqKey step index : Nat) : Nat :=
  mix (mix (mix (seed ^^^ seqKey) ^^^ step) ^^^ index)

/-- The uniform value of a draw, exact in FP32. -/
def drawUniform (x : Nat) : F32 := encFP32 (.fin false (x / 2 ^ 40) (-24))

end Sys2Proof.Machine
end

