-- ==== Sys2Proof/Machine/Operands.lean ====
section
/-! DEFINITION. Operand forms of descriptors: packed rows with block scales, the access modes of SRC_A,
coordinate lists, operand extents (R36, R39, R59, R109, R110, R163 to R168, R436). -/

namespace Sys2Proof.Machine

/-! ## Packed rows -/

/-- Bytes of the elements of a row. -/
def elemBytes (fmt n : Nat) : Nat := ceilDiv (n * fmtBits fmt) 8

/-- Bytes of a source row: elements, then for MX formats one scale byte per 32 elements (R39). -/
def rowBytes (fmt n : Nat) : Nat := elemBytes fmt n + (if fmtMx fmt then ceilDiv n 32 else 0)

/-- The values of a row held as bytes. -/
def rowValues (fmt n : Nat) (row : List Byte) : List FpVal :=
  let eb := elemBytes fmt n
  (List.range n).map fun i =>
    let v := decFmt fmt (elemAt fmt row i)
    if fmtMx fmt then fpMulX v (decE8M0 ((row.drop (eb + i / 32)).headD 0).toNat) else v

/-- The values of a row in scratchpad. -/
def readRow (sp : Spad) (fmt a n : Nat) : List FpVal := rowValues fmt n (spadRead sp a (rowBytes fmt n))

/-- Bytes an output row takes: an MX row is padded to whole blocks and to 64 bytes (R59). -/
def outRowBytes (fmt n : Nat) : Nat :=
  if fmtMx fmt then alignUp (rowBytes fmt (alignUp n 32)) 64 else elemBytes fmt n

/-- An output row (R58, R59): its bytes and the conversion flags of each of its elements. -/
def packOut (fmt : Nat) (sat : Bool) (vs : List FpVal) : List Byte × List CvtFlags :=
  if fmtMx fmt then
    let bs := (chunks 32 (vs.length / 32 + 1) vs).map (mxBlock fmt)
    let codes := bs.flatMap (·.2.1)
    let codes := codes ++ List.replicate (alignUp vs.length 32 - codes.length) 0
    (padTo (packRow fmt codes ++ bs.map fun b => BitVec.ofNat 8 b.1) (outRowBytes fmt vs.length),
      bs.flatMap (·.2.2))
  else
    let cs := vs.map (cvtFrom fmt sat)
    (packRow fmt (cs.map (·.1)), cs.map (·.2))

/-- FP32 values as exact values. -/
def f32s (l : List F32) : List FpVal := l.map f32

/-- Rows of FP32 values in scratchpad. -/
def readF32s (sp : Spad) (a n : Nat) : List F32 :=
  (List.range n).map fun i => BitVec.ofNat 32 (spadNum sp (a + 4 * i) 4)

/-! ## Coordinate lists (R163 to R168) -/

/-- The header of a list (Table 6.1). -/
structure ClHdr where
  version : Nat
  fmt : Nat
  blockLog2 : Nat
  rows : Nat
  cols : Nat
  nnz : Nat
  offTab : Nat
  idxArr : Nat
  valArr : Nat
  total : Nat
  rest : Nat
deriving DecidableEq, Repr

def clHdrOf (b : List Byte) : ClHdr :=
  let at_ := fun o n => ofLe (sliceBytes b o n)
  ⟨at_ 0 2, at_ 2 1, at_ 3 1, at_ 4 4, at_ 8 4, at_ 12 4, at_ 16 4, at_ 20 4, at_ 24 4, at_ 28 4, at_ 32 32⟩

/-- An address confined to its window (R168). -/
def clWrap (w : Window) (a : Int) : Nat :=
  if (w.base : Int) ≤ a ∧ a < w.limit then a.toNat
  else (w.base + ((a - w.base) % ((w.limit - w.base : Nat) : Int)).toNat)

/-- `n` bytes at an offset from the header, each address confined. -/
def clBytes (sp : Spad) (w : Window) (hdr off n : Nat) : List Byte :=
  (List.range n).map fun i => spadByte sp (clWrap w ((hdr + off + i : Nat) : Int))

def clNum (sp : Spad) (w : Window) (hdr off n : Nat) : Nat := ofLe (clBytes sp w hdr off n)

/-- Number of column blocks. -/
def clNblk (h : ClHdr) : Nat := ceilDiv h.cols (2 ^ h.blockLog2)

/-- Entry `i` of the offset table. -/
def clOff (sp : Spad) (w : Window) (hdr : Nat) (h : ClHdr) (i : Nat) : Nat := clNum sp w hdr (h.offTab + 4 * i) 4

/-- The (column, value code) pairs of segment (r, b), at most BLOCK_W of them (R168). -/
def clSegment (sp : Spad) (w : Window) (hdr : Nat) (h : ClHdr) (r b : Nat) : List (Nat × Nat) :=
  let k := r * clNblk h + b
  let o0 := clOff sp w hdr h k
  let n := Nat.min (clOff sp w hdr h (k + 1) - o0) (2 ^ h.blockLog2)
  let eb := fmtBits h.fmt / 8
  (List.range n).map fun i =>
    (b * 2 ^ h.blockLog2 + clNum sp w hdr (h.idxArr + 2 * (o0 + i)) 2,
      clNum sp w hdr (h.valArr + eb * (o0 + i)) eb)

/-- The rules of Table 6.3 for a reader with `rows` rows of `cols` elements of format `fmt`. -/
def clValid (sp : Spad) (w : Window) (hdr fmt rows cols : Nat) (matrix : Bool) : Bool :=
  let h := clHdrOf (clBytes sp w hdr 0 64)
  let nblk := clNblk h
  let nTab := rows * nblk + 1
  let v1 := h.version == 1 && ((decide (2 ≤ h.fmt) && decide (h.fmt ≤ 6)) || h.fmt == 8) && decide (7 ≤ h.blockLog2) &&
    decide (h.blockLog2 ≤ 16) && decide (1 ≤ h.rows) && decide (h.rows ≤ 65536) && decide (1 ≤ h.cols) &&
    decide (h.cols ≤ 1048575) && decide (h.nnz ≤ h.rows * h.cols) && h.offTab == 64 && h.rest == 0
  let v2 := h.fmt == fmt && h.rows == rows && h.cols == cols
  let tab := (List.range nTab).map (clOff sp w hdr h)
  let pairs := List.zip tab (tab.drop 1)
  let v3 := tab.headD 1 == 0 && pairs.all (fun p => decide (p.1 ≤ p.2)) && tab.getLastD 0 == h.nnz
  let v4 := pairs.all fun p => decide (p.2 - p.1 ≤ 2 ^ h.blockLog2)
  let v56 := (List.range rows).all fun r => (List.range nblk).all fun b =>
    let cs := (clSegment sp w hdr h r b).map (·.1)
    (List.zip cs (cs.drop 1)).all (fun p => decide (p.1 < p.2)) &&
      cs.all fun c => decide (c < (b + 1) * 2 ^ h.blockLog2) && decide (c < cols)
  let v7 := decide (h.idxArr + alignUp (2 * h.nnz) 64 ≤ h.valArr) &&
    decide (64 + alignUp (4 * nTab) 64 ≤ h.idxArr) &&
    decide (h.valArr + alignUp (fmtBits h.fmt / 8 * h.nnz) 64 ≤ h.total) && decide (hdr + h.total ≤ w.limit)
  v1 && v2 && v3 && v4 && v56 && v7 && (!matrix || h.blockLog2 == 7)

/-- The dense rows of a coordinate list with +0 at every absent position.  Of an invalid list every element
is a free value that depends on the bytes of the window alone (R167). -/
def clRows (sp : Spad) (w : Window) (hdr fmt rows cols : Nat) (matrix : Bool) : List (List FpVal) :=
  if clValid sp w hdr fmt rows cols matrix then
    let h := clHdrOf (clBytes sp w hdr 0 64)
    (List.range rows).map fun r =>
      let es := (List.range (clNblk h)).flatMap fun b => clSegment sp w hdr h r b
      (List.range cols).map fun c =>
        match es.find? fun e => e.1 == c with
        | some e => decFmt fmt e.2
        | none => .fin false 0 0
  else
    let bytes := spadRead sp w.base (w.limit - w.base)
    (List.range rows).map fun r => (List.range cols).map fun c =>
      f32 (Config.clElement bytes r c)

/-- Read slots of a list: its header, its offset table and its two arrays (R172), never more entries than a valid list of its
ROWS and COLS has (R168). -/
def clCost (sp : Spad) (w : Window) (hdr fmt rows : Nat) : Nat :=
  let h := clHdrOf (clBytes sp w hdr 0 64)
  let n := Nat.min h.nnz (rows * h.cols)
  1 + ceilDiv (4 * (rows * clNblk h + 1)) 512 + ceilDiv (2 * n) 512 + ceilDiv (fmtBits fmt / 8 * n) 512

/-! ## VECTOR sources (R146, R436, Table 4.7) -/

def vSrcA (d : Nat) : Nat := fld d 128 26
def vSrcB (d : Nat) : Nat := fld d 154 26
def vSrcC (d : Nat) : Nat := fld d 180 26
def vDst (d : Nat) : Nat := fld d 206 26
def vSrcFmt (d : Nat) : Nat := fld d 232 4
def vDstFmt (d : Nat) : Nat := fld d 236 4
def vLen (d : Nat) : Nat := fld d 240 16
def vRows (d : Nat) : Nat := fld d 256 8 + 1
def vSrcStride (d : Nat) : Nat := 64 * fld d 264 16
def vDstStride (d : Nat) : Nat := 64 * fld d 280 16
def vImm0 (d : Nat) : F32 := BitVec.ofNat 32 (fld d 312 32)
def vImm1 (d : Nat) : Nat := fld d 344 32
def vSrcMode (d : Nat) : Nat := fld d 377 2

/-- FP32 row r of SRC_A at base `a` under its access mode (R436), without a coordinate list. -/
def vecRowA (sp : Spad) (d a r : Nat) : List F32 :=
  let s := vSrcStride d
  let fmt := vSrcFmt d
  let n := vLen d
  match vSrcMode d with
  | 2 => (rowValues fmt n ((readTrans16 sp (a + 32 * s * (r / 32)) s).getD (r % 32) [])).map toF32
  | 3 =>
    let row := (readTrans4 sp (a + 32 * s * (r / 64)) s).getD (r % 64) []
    (List.range n).map fun i => toF32 (decE2M1 (elemAt 0 row i))
  | _ => (readRow sp fmt (a + s * r) n).map toF32

/-- Read slots of SRC_A: LINE accesses, STRIDE8 groups of eight rows, or transposed reads (Table 3.2). -/
def vecCostA (d a : Nat) : Nat :=
  let s := vSrcStride d
  let rows := vRows d
  match vSrcMode d with
  | 0 => ((List.range rows).map fun r => lineCost (a + s * r) (rowBytes (vSrcFmt d) (vLen d))).foldl (· + ·) 0
  | 1 => ((List.range (ceilDiv rows 8)).map fun q =>
      stride8Cost (segments (a + 8 * s * q) s (Nat.min 8 (rows - 8 * q)))).foldl (· + ·) 0
  | 2 => ((List.range (ceilDiv rows 32)).map fun q => transCost (a + 32 * s * q) s).foldl (· + ·) 0
  | _ => ((List.range (ceilDiv rows 64)).map fun q => transCost (a + 32 * s * q) s).foldl (· + ·) 0

/-- First byte past what SRC_A reads. -/
def vecEndA (d a : Nat) : Nat :=
  let s := vSrcStride d
  let rows := vRows d
  match vSrcMode d with
  | 0 => a + s * (rows - 1) + rowBytes (vSrcFmt d) (vLen d)
  | 1 => a + s * (rows - 1) + 64
  | 2 => a + s * (32 * ceilDiv rows 32 - 1) + 64
  | _ => a + s * (32 * ceilDiv rows 64 - 1) + 64

/-! ## Consumed entries and offset addresses (R109) -/

/-- The OFFSET that the consumed entry of input `i` adds, 0 where it adds none. -/
def inOffset (d : Nat) (ins : List (Nat × Nat)) (i : Nat) : Nat :=
  if dAddrFromIn d then ((ins.find? fun e => e.1 == i).elim 0 fun e => eOffset e.2) else 0

/-- Every address of a strided set of rows. -/
def rowAddrs (a stride rows : Nat) : List Nat := (List.range rows).map fun r => a + stride * r

/-- Whether the ranges [a, a + n) of a list of rows stay inside the scratchpad. -/
def rangesFit (as : List Nat) (n : Nat) : Bool := as.all fun a => decide (a + n ≤ spadEnd)

/-- Whether any of the ranges meets the control window. -/
def rangesCtl (as : List Nat) (n : Nat) : Bool := as.any fun a => meetsCtl a n

/-- Whether any of the written ranges meets a protect window of the tile. -/
def rangesProtect (t : Tile) (as : List Nat) (n : Nat) : Bool := as.any fun a => meetsWindow t.protects a n

end Sys2Proof.Machine
end

