-- ==== Sys2Proof/Machine/Flags.lean ====
section
/-! DEFINITION. Status words and records of descriptors: the arithmetic status word (Table 2.8), descriptor
status codes and their order (Table 4.15, R439), the completion record (Table 4.14). -/

namespace Sys2Proof.Machine

/-- Descriptor status codes (Table 4.15). -/
def stOk : Nat := 0x00
def stFormatTag : Nat := 0x01
def stAddrProtect : Nat := 0x02
def stAddrRange : Nat := 0x03
def stFieldInvalid : Nat := 0x04
def stClassProtect : Nat := 0x05
def stRegionBound : Nat := 0x06
def stPartFail : Nat := 0x07
def stSendFail : Nat := 0x08
def stDataUe : Nat := 0x09
def stSlotConflict : Nat := 0x0A
def stStranded : Nat := 0x0B
def stAborted : Nat := 0x0C

/-- Whether a status fails the step (Table 4.15). -/
def statusFails (st : Nat) : Bool := st != stOk && st != stAborted

/-- The first failing check in the order of R439; `stOk` when none failed. -/
def firstStatus (l : List Nat) : Nat :=
  ([stClassProtect, stFieldInvalid, stAddrRange, stRegionBound, stAddrProtect, stFormatTag, stSlotConflict,
    stSendFail].find? fun c => l.contains c).getD stOk

/-- A status where its check fails. -/
def chk (bad : Bool) (st : Nat) : List Nat := if bad then [st] else []

/-- The arithmetic status word (Table 2.8) from the flags of the written outputs, NAN_IN and an INT32 clamp. -/
def arithWord (fs : List CvtFlags) (nanIn intSat : Bool) : Nat :=
  let any_ := fun k => fs.any fun f => bitOf f k
  Nat.min (fs.filter fun f => f % 2 == 1).length 0xFF * 2 ^ 8 + b2n (any_ 1) * 2 ^ 7 + b2n (any_ 2) * 2 ^ 6 +
    b2n nanIn * 2 ^ 5 + b2n (intSat || any_ 4) * 2 ^ 4 + b2n (any_ 3) * 2 ^ 3

/-- The part map of a descriptor with `parts` parts of which `failed` failed and `openParts` are unfinished. -/
def partMapOf (parts : Nat) (failed opened : List Nat) : Nat :=
  (List.range parts).foldl (fun m i => if failed.contains i || opened.contains i then m else m + 2 ^ i) 0

/-- The completion record (Table 4.14). -/
def compRecord (st cls q idx tag arith partMap partsMinus1 detail stepLow lt : Nat) : Nat :=
  st % 256 * 2 ^ 120 + cls % 16 * 2 ^ 116 + q % 64 * 2 ^ 110 + idx % 2 ^ 16 * 2 ^ 94 + tag % 2 ^ 16 * 2 ^ 78 +
    arith % 2 ^ 16 * 2 ^ 62 + partMap % 2 ^ 16 * 2 ^ 46 + partsMinus1 % 16 * 2 ^ 42 + detail % 256 * 2 ^ 34 +
    stepLow % 2 ^ 16 * 2 ^ 18 + lt % 1024 * 2 ^ 8

/-- The completion record of a fired descriptor. -/
def firedRecord (f : Fired) (stepLow lt : Nat) : Nat :=
  compRecord f.status (dClass f.desc) f.q f.idx (dTag f.desc) (if dClass f.desc = 0 then f.arith else 0)
    (partMapOf f.parts f.partFail (f.openParts.map (·.1))) (f.parts - 1) f.detail stepLow lt

end Sys2Proof.Machine
end

