-- ==== Sys2Proof/Machine/Inject.lean ====
section
/-! DEFINITION. How a tile sends: packets and their headers (R188, R216), flows and transfers (R197), the pump
that injects what may be injected (R191, R200, R204). -/

namespace Sys2Proof.Machine

/-! ## Types and channels (Tables 7.2 and 7.3) -/

def tWrite : Nat := 0
def tReadReq : Nat := 1
def tReadData : Nat := 2
def tMsg : Nat := 3
def tSync : Nat := 4
def tAck : Nat := 5
def tNack : Nat := 6
def tXoff : Nat := 7
def tXon : Nat := 8
def tColl : Nat := 9
def tCfg : Nat := 10

/-- Virtual channel of a packet type; `many` says the transfer has two or more packets (Table 7.2). -/
def vcOf (typ chan : Nat) (many : Bool) : Nat :=
  match typ with
  | 0 => if many then 3 else 1
  | 1 => 1
  | 2 => if many then 3 else 2
  | 3 => if many then 3 else if chan = 0 then 1 else 2
  | 9 => if many then 3 else 1
  | _ => 0

/-- Largest payload of a packet. -/
def maxPayload : Nat := 4032

/-- Flits of a packet (chapter 07, "Packets and flits"). -/
def flitsOf (p : Packet) : Nat := Nat.max 1 (ceilDiv (64 + p.len) 256)

/-- Key of a lane buffer or lane. -/
def laneKey (port vc lane : Nat) : Nat := (port * 4 + vc) * 2 + lane

/-- A header with every field of the sender zero. -/
def blankPacket : Packet :=
  { typ := 0, vc := 0, epoch := 0, region := 0, gen := 0, dstKind := 0, dst := 0, srcLt := 0, srcDev := 0, flow := 0
    transfer := 0, seq := 0, chan := 0, last := false, len := 0, dstAddr := 0, injTime := 0, hops := 0
    transport := 0, payload := [] }

/-- The region number a tile's packets carry: 16 for a tile in no tenant region. -/
def tileRegion (t : Tile) : Nat := if t.region < 16 then t.region else 16

/-- What the source router stamps at injection (R188). -/
def stamp (s : State) (lt : Nat) (p : Packet) : Packet :=
  let t := tileOf s lt
  { p with
    region := tileRegion t, gen := t.gen, epoch := b2n s.activeEpoch, srcLt := lt, srcDev := s.idn.deviceId
    injTime := meshTime s, hops := 0, len := p.payload.length }

/-- Physical column a packet is bound for; its own column where it leaves by a spine or a tree. -/
def destCol (s : State) (src : Nat) (p : Packet) : Nat :=
  match p.dstKind with
  | 0 => posOf s p.dst % 26
  | 2 => p.dst % 26
  | _ => src % 26

/-- Lane at injection: L1 for a VC3 packet bound west of its source (R193). -/
def injectLane (s : State) (src : Nat) (p : Packet) : Nat := if p.vc = 3 ∧ destCol s src p < src % 26 then 1 else 0

/-! ## Links and lanes -/

/-- The router at the other end of a port and the input port there (Table 7.1); none off the package. -/
def linkTo (pos port : Nat) : Option (Nat × Nat) :=
  let x := pos % 26
  let y := pos / 26
  match port with
  | 1 => if 0 < y then some (pos - 26, 3) else none
  | 2 => if x < 25 then some (pos + 1, 4) else none
  | 3 => if y < 23 then some (pos + 26, 1) else none
  | 4 => if 0 < x then some (pos - 1, 2) else none
  | _ => none

/-- Whether the link at a port crosses between dies. -/
def dieCrossing (pos port : Nat) : Bool :=
  match linkTo pos port with
  | some n => dieOfPos pos != dieOfPos n.1
  | none => false

/-- High and low water marks of a lane (Table 7.6). -/
def laneMarks (cross : Bool) (vc : Nat) : Nat × Nat :=
  if cross then (match vc with | 0 => (10, 4) | 3 => (88, 40) | _ => (58, 36))
  else (match vc with | 0 => (10, 4) | 3 => (58, 32) | _ => (26, 12))

/-- Flits held in a lane buffer. -/
def laneFlits (r : Router) (k : Nat) : Nat := ((sget [] r.bufs k).map flitsOf).foldl (· + ·) 0

/-- Raises or lowers the XOFF of a lane by its occupancy (R191).  A packet moves whole, so a lane may stand above its high-water
mark by the flits of the packet that reached it (DESIGN CHOICE, log entry 119). -/
def noteXoff (pos : Nat) (r : Router) (port vc lane : Nat) : Router :=
  let k := laneKey port vc lane
  let m := laneMarks (dieCrossing pos port) vc
  let n := laneFlits r k
  if m.1 ≤ n then { r with xoff := setIns k r.xoff }
  else if n ≤ m.2 then { r with xoff := setDel k r.xoff }
  else r

/-- Appends a packet to an input lane of a router. -/
def enqueue (s : State) (pos port vc lane : Nat) (p : Packet) : State :=
  updRouter s pos fun r =>
    let k := laneKey port vc lane
    { r with bufs := sset [] r.bufs k (sget [] r.bufs k ++ [p]) }

/-- Whether the routers of a router's footprint have other entries in the two versions: a flip changes its region's paths. -/
def pathsChange (s : State) (pos : Nat) : Bool :=
  s.routers.any fun x => x.2.region == (routerOf s pos).region && x.2.table0 != x.2.table1

/-- Whether an input lane takes no packet of the tile, engine or gateway: its XOFF is raised (R191), or a quiet flip holds the
injection of VC1 to VC3 in the affected footprints (R204). -/
def laneHeld (s : State) (pos k : Nat) : Bool :=
  (routerOf s pos).xoff.contains k || (s.quiet && k / 2 % 4 != 0 && pathsChange s pos)

/-- Puts a packet into an input lane and notes its XOFF. -/
def enterLane (s : State) (pos port vc lane : Nat) (p : Packet) : State :=
  updRouter (enqueue s pos port vc lane p) pos fun r => noteXoff pos r port vc lane

/-- Puts a stamped packet into an input of a router: behind the packets that wait for the lane, and waiting itself while the lane
takes none. -/
def injectPort (s : State) (pos port : Nat) (p : Packet) : State :=
  let k := laneKey port p.vc (injectLane s pos p)
  if laneHeld s pos k || (routerOf s pos).outbox.any (fun e => e.1 == k) then
    updRouter s pos fun r => { r with outbox := r.outbox ++ [(k, p)] }
  else enterLane s pos port p.vc (injectLane s pos p) p

/-- Puts a stamped packet into the LOCAL input of the tile's router. -/
def injectAt (s : State) (pos : Nat) (p : Packet) : State := injectPort s pos 0 p

/-- Lets the packets that wait for a lane in while it takes them, each stamped again as it enters (R188), but that those of the SPINE
input keep the INJ_TIME that their gateway or engine gave them (R245); `fuel` is their number. -/
def drainLane : Nat → State → Nat → Nat → State
  | 0, s, _, _ => s
  | n + 1, s, pos, k =>
    let r := routerOf s pos
    match firstIdx (fun e : Nat × Packet => e.1 == k) r.outbox with
    | none => s
    | some i =>
      match r.outbox[i]? with
      | none => s
      | some e =>
        if laneHeld s pos k then s
        else
          drainLane n (enterLane (setRouter s pos { r with outbox := r.outbox.eraseIdx i }) pos (k / 8) (k / 2 % 4) (k % 2)
            { e.2 with epoch := b2n s.activeEpoch, injTime := if k / 8 = 5 then e.2.injTime else meshTime s }) pos k

/-- Stamps and injects a packet of a tile. -/
def injectTile (s : State) (lt : Nat) (p : Packet) : State := injectAt s (posOf s lt) (stamp s lt p)

/-! ## Control packets on VC0 -/

/-- A SYNC packet (Table 7.4): OP 0 ARRIVE, 1 RESET.  To another device it carries DEST_DEV and DEST_LT in
the bits that a message carries them in (Table 8.1). -/
def syncPacket (op obj val : Nat) (dstKind dst destDev destLt : Nat) : Packet :=
  { blankPacket with
    typ := tSync, dstKind := dstKind, dst := dst, last := true
    transport := BitVec.ofNat 256 (op * 2 ^ 254 + obj % 256 * 2 ^ 246 + val % 2 ^ 32 * 2 ^ 214 + destDev % 4096 * 2 ^ 189 +
      destLt % 1024 * 2 ^ 179) }

/-- The transport word of an ACK or NACK (Table 7.4), with the destination device of a fabric answer. -/
def ackTransport (flow transfer seq reason destDev destLt : Nat) : BitVec 256 :=
  BitVec.ofNat 256 (flow % 16 * 2 ^ 252 + transfer % 2 ^ 16 * 2 ^ 236 + seq % 2 ^ 16 * 2 ^ 220 + reason % 256 * 2 ^ 212 +
    destDev % 4096 * 2 ^ 189 + destLt % 1024 * 2 ^ 179)

/-! ## Transfers -/

/-- Packets of one attempt. -/
def xferCount (x : Xfer) : Nat := Nat.max 1 ((if x.inl = [] then 0 else 1) + x.pieces.length)

/-- Rank of the sender in its own group, 0xFFFF where the receiver is outside it (R237). -/
def senderRank (s : State) (r destDev : Nat) : Nat :=
  match regionOf s r with
  | some g => if g.peers.any fun p => p.device == destDev && p.member then g.rank else 0xFFFF
  | none => 0xFFFF

/-- The bytes of a message or contribution in sending order. -/
def xferBytes (sp : Spad) (x : Xfer) : List Byte :=
  x.inl ++ x.pieces.flatMap fun p => spadRead sp p.2.1 p.2.2

/-- The digest a fabric message carries in its LAST packet (R237).  A receiver outside the group knows only the low 16
bits of the sender's step, so that value enters the digest toward it. -/
def msgDigest (s : State) (t : Tile) (x : Xfer) : BitVec 64 :=
  let r := tileRegion t
  let rank := senderRank s r x.destDev
  pipDigest (xferBytes t.spad x)
    (trailerMsg (if rank = 0xFFFF then stepOf s r % 2 ^ 16 else stepOf s r) (attemptOf s r) rank (fld x.transport 248 8)
      (fld x.transport 240 8))

/-- Transport word of packet `k`: STEP_LOW, ATTEMPT, RETX and DIGEST of a message (Table 8.1), the element
offset of a contribution (Table 8.8), source and landing of a READ_REQ (Table 7.4). -/
def xferTransport (s : State) (t : Tile) (x : Xfer) (flow transfer k : Nat) (retx : Bool) : Nat :=
  let r := tileRegion t
  let sl := stepOf s r % 2 ^ 16
  let at_ := attemptOf s r
  if x.typ = tMsg then
    setFld (setFld x.transport 205 16 sl) 201 4 at_ + b2n retx * 2 ^ 237 +
      (if x.fabric && k + 1 == xferCount x then (msgDigest s t x).toNat * 2 ^ 103 else 0)
  else if x.typ = tColl then
    let w := if bitOf x.transport 182 then 2 else 4
    let off := fld x.transport 183 32 + (k - 1) * (maxPayload / w)
    setFld (setFld (setFld x.transport 183 32 off) 165 16 sl) 161 4 at_
  else if x.typ = tReadReq then
    match x.pieces[k]? with
    | some p => p.2.1 * 2 ^ 230 + p.2.2 % 2 ^ 32 * 2 ^ 198 + flow * 2 ^ 194 + transfer * 2 ^ 178
    | none => 0
  else x.transport

/-- Packet `k` of a transfer, not yet stamped. -/
def xferPacket (s : State) (t : Tile) (x : Xfer) (flow transfer k : Nat) (retx : Bool) : Packet :=
  let ni := if x.inl = [] then 0 else 1
  let n := xferCount x
  let body := if k < ni then (0, x.inl)
    else match x.pieces[k - ni]? with
      | some p => (p.1, if x.typ = tReadReq then [] else spadRead t.spad p.2.1 p.2.2)
      | none => (0, [])
  { blankPacket with
    typ := x.typ, vc := vcOf x.typ x.chan (decide (2 ≤ n)), dstKind := x.dstKind, dst := x.dst, flow := flow
    transfer := transfer, seq := k % 2 ^ 16, chan := x.chan, last := k + 1 == n, dstAddr := body.1
    transport := BitVec.ofNat 256 (xferTransport s t x flow transfer k retx), payload := body.2 }

/-- Read slots of a packet's payload (R74). -/
def packetCost (x : Xfer) (k : Nat) : Nat :=
  match x.pieces[k - (if x.inl = [] then 0 else 1)]? with
  | some p => if x.typ = tReadReq then 0 else lineCost p.2.1 p.2.2
  | none => 0

/-- A flow number that is not in use, lowest first (R197: at most 16). -/
def freeFlow (t : Tile) : Option Nat :=
  (List.range 16).find? fun f => !t.flows.any fun e => e.1 == f

/-- Opens a transfer on a flow under the next TRANSFER number. -/
def openOn (t : Tile) (f : Nat) (x : Xfer) : Tile :=
  let n := match t.lastXfer.find? fun e => e.1 == f with
    | some e => (e.2 + 1) % 2 ^ 16
    | none => 0
  { t with
    lastXfer := sins f n (sdel f t.lastXfer)
    flows := sins f { flow := f, transfer := n, x := x, pkts := List.replicate (xferCount x) .unsent, xoff := false
                      retryAt := if x.after = 0 then none else some x.after, answered := [], lastNack := 0 } (sdel f t.flows) }

/-- Opens waiting transfers while a flow number is free; `fuel` is their number. -/
def openWaiting : Nat → Tile → Tile
  | 0, t => t
  | n + 1, t =>
    match t.waiting, freeFlow t with
    | x :: rest, some f => openWaiting n (openOn { t with waiting := rest } f x)
    | _, _ => t

/-- Whether a transfer is the work of a descriptor whose tag is no longer its tile's: nothing more of it is issued (R127).  What is
issued therefore carries the tag of its descriptor. -/
def staleWork (t : Tile) (x : Xfer) : Bool := t.fired.any fun f => f.fid == x.fid && staleTag t f

/-- Packets of a flow sent and not yet answered. -/
def unacked (fl : TxFlow) : Nat :=
  (fl.pkts.filter fun p => match p with | .unsent => false | .acked => false | _ => true).length

/-- Whether the tile's router takes a new packet of a channel: its LOCAL lane takes packets and none waits for it. -/
def mayInject (s : State) (pos : Nat) (p : Packet) : Bool :=
  let k := laneKey 0 p.vc (injectLane s pos p)
  !laneHeld s pos k && !(routerOf s pos).outbox.any fun e => e.1 == k

/-- The next packet a flow may inject: the first unsent one, at most 64 unanswered, no FLOW_XOFF (R197, R200). -/
def nextUnsent (fl : TxFlow) : Option Nat :=
  if fl.xoff || fl.dead || decide (64 ≤ unacked fl) || fl.retryAt.isSome then none
  else firstIdx (fun p => p == PktState.unsent) fl.pkts

/-- Injects one packet of an open flow and notes its time; a packet sent again is read again, the first reads were charged when the descriptor
fired. -/
def injectFlow (s : State) (lt f k : Nat) (retx : Bool) : State :=
  let t := tileOf s lt
  match t.flows.find? fun e => e.1 == f with
  | none => s
  | some e =>
    if staleWork t e.2.x then s else
    let p := xferPacket s t e.2.x f e.2.transfer k retx
    let again := e.2.pkts[k]?.any (· != .unsent)
    let s1 := injectTile s lt p
    updTile s1 lt fun t => { t with
      spad := chargeRd t.spad (if again then packetCost e.2.x k else 0)
      flows := mapIf (fun x => x.1 == f) (fun x => (x.1, { x.2 with pkts := modAt (fun _ => .sent s.now) x.2.pkts k })) t.flows }

/-- Injects what one flow may inject; `fuel` bounds the packets. -/
def pumpFlow : Nat → State → Nat → Nat → State
  | 0, s, _, _ => s
  | n + 1, s, lt, f =>
    let t := tileOf s lt
    match t.flows.find? fun e => e.1 == f with
    | none => s
    | some e =>
      match nextUnsent e.2 with
      | none => s
      | some k =>
        if !staleWork t e.2.x && mayInject s (posOf s lt) (xferPacket s t e.2.x f e.2.transfer k false) then
          pumpFlow n (injectFlow s lt f k false) lt f
        else s

/-- Injects what returning flow `i` may inject; `fuel` bounds the packets.  Returning data uses the FLOW and TRANSFER that its
requester chose, so it takes none of the 16 flow numbers (DEDUCED, log entry 120). -/
def pumpReturn : Nat → State → Nat → Nat → State
  | 0, s, _, _ => s
  | n + 1, s, lt, i =>
    match (tileOf s lt).returns[i]? with
    | none => s
    | some fl =>
      match nextUnsent fl with
      | none => s
      | some k =>
        let p := xferPacket s (tileOf s lt) fl.x fl.flow fl.transfer k false
        if mayInject s (posOf s lt) p then
          pumpReturn n (updTile (injectTile s lt p) lt fun t => { t with
            spad := chargeRd t.spad (packetCost fl.x k)
            returns := modAt (fun y => { y with pkts := modAt (fun _ => .sent s.now) y.pkts k }) t.returns i }) lt i
        else s

/-- Injects what the returning READ_DATA flows of a tile may inject. -/
def pumpReturns (s : State) (lt : Nat) : State :=
  (List.range (tileOf s lt).returns.length).foldl (fun s i => pumpReturn 64 s lt i) s

/-- Opens what can be opened and injects what may be injected at a tile. -/
def pumpTile (s : State) (lt : Nat) : State :=
  let s1 := updTile s lt fun t => openWaiting t.waiting.length t
  let s2 := (List.range 16).foldl (fun s f => pumpFlow 64 s lt f) s1
  pumpReturns s2 lt

/-- Hands transfers to a tile's message port and DMA and pumps. -/
def queueXfers (s : State) (lt : Nat) (xs : List Xfer) : State :=
  pumpTile (updTile s lt fun t => { t with waiting := t.waiting ++ xs }) lt

end Sys2Proof.Machine
end

