-- ==== Sys2Proof/Machine/Fire.lean ====
section
/-! DEFINITION. The firing rule and retirement (R115 to R121, R125, R439, Table 4.13): which descriptor fires,
what it reserves, the checks made at firing, and what its retirement does. -/

namespace Sys2Proof.Machine

/-! ## Conditions 1 to 7 of R115 -/

/-- The scoreboard places of a descriptor queue (R118): the four oldest descriptors that have not fired, each with its ring position, its
descriptor index and its 512 bits.  A descriptor keeps its ring entry until it fires (DESIGN CHOICE, log entry 111), so the places are a
view of the ring; the ring holds what the four places do not. -/
def scoreboard (t : Tile) (q : Nat) : List (Nat × Nat × Nat) :=
  if isDescQueue (qcfgOf t q) then ((visible (queueOf t q)).take 4).map fun x => (x.pos, x.idx, entryAt t q x.pos) else []

/-- The head of a descriptor queue, the only one that may fire: ring position, descriptor index, the 512 bits. -/
def headDesc (t : Tile) (q : Nat) : Option (Nat × Nat × Nat) := (scoreboard t q).head?

/-- Picks the places one input consumes (R112, R115 item 3), not among `used`. -/
def pickIns (t : Tile) (d i q : Nat) (used : List (Nat × Nat × Nat)) : Option (List (Nat × Nat × Nat)) :=
  let av := (avail (queueOf t q)).filter fun x => !used.any fun u => u.2.1 == q && u.2.2 == x.pos
  if dCanon d && i == 0 then
    (List.range (dParamK d)).foldl (fun acc k =>
      match acc with
      | none => none
      | some l =>
        match av.find? fun x => eSlot (entryAt t q x.pos) == k with
        | some x => some (l ++ [(i, q, x.pos)])
        | none => none) (some [])
  else
    match av with
    | x :: _ => some [(i, q, x.pos)]
    | [] => none

/-- The places a descriptor consumes, by input, when condition 3 holds. -/
def planIns (t : Tile) (d : Nat) : Option (List (Nat × Nat × Nat)) :=
  [0, 1, 2].foldl (fun acc i =>
    match acc, dIn d i with
    | none, _ => none
    | some l, none => some l
    | some l, some q => (pickIns t d i q l).map (l ++ ·)) (some [])

/-- Entries that a descriptor reserves in a queue: its output entry and its completion entry. -/
def needIn (t : Tile) (d q : Nat) : Nat := b2n (dOutEn d && dOut d == q) + b2n (dCompEn d && t.compQueue == q)

/-- Condition 4: room in OUT and in the completion queue. -/
def roomOk (t : Tile) (d : Nat) : Bool :=
  (!dOutEn d || decide (needIn t d (dOut d) ≤ freeCount t (dOut d))) &&
    (!dCompEn d || decide (needIn t d t.compQueue ≤ freeCount t t.compQueue))

/-- Condition 5. -/
def waitOk (t : Tile) (now d : Nat) : Bool :=
  !dWaitEn d || decide (dWaitThresh d ≤ objPrev (objOf t (dWaitObj d)) now)

/-- Unretired descriptors of a class. -/
def classCount (t : Tile) (c : Nat) : Nat := (t.fired.filter fun f => dClass f.desc == c).length

/-- Condition 6 (Table 4.13): the engine accepts, and fired no other descriptor in this cycle. -/
def engineOk (t : Tile) (now d : Nat) : Bool :=
  let c := dClass d
  let n := classCount t c
  (match c with
    | 0 => decide (n ≤ 1)
    | 1 => decide (n < 2)
    | 2 => decide (n < 16)
    | 3 => n == 0
    | 5 => decide (n < 16)
    | _ => true) && (sget 0 t.lastFire c != now + 1)

/-- The codebook half a descriptor names: a matrix descriptor with MX or CB12×8 weights, or a STORE_LOAD. -/
def namedHalf (d : Nat) : Option Nat :=
  if dClass d = 0 then
    (if fld d 154 4 = 0 ∨ fld d 154 4 = 1 ∨ fld d 154 4 = 7 then some (2 * fld d 292 1 + fld d 293 1) else none)
  else if dClass d = 2 ∧ dOp d = 7 then some (2 * fld d 254 1 + fld d 255 1)
  else none

/-- Condition 7 (R46). -/
def halfOk (t : Tile) (d : Nat) : Bool :=
  match namedHalf d with
  | none => true
  | some h => !t.fired.any fun f => namedHalf f.desc == some h && dClass f.desc != dClass d

/-- Condition 1: FENCE and END wait until every earlier descriptor of their queue has retired. -/
def fenceOk (t : Tile) (q d : Nat) : Bool :=
  !(dClass d == 6 && (dOp d == 4 || dOp d == 1)) || !t.fired.any fun f => f.q == q

/-- Whether the step of a tile's region runs (R16: nothing runs once it has drained); the firmware region's tiles always do. -/
def stepRuns (s : State) (t : Tile) : Bool :=
  match regionOf s t.region with
  | some g => g.mstate == .running
  | none => true

/-- Whether a tile's scheduler runs: not held in reset, fenced or clock-gated, and its region is not being
reset (Table 11.18 step 2). -/
def schedRuns (s : State) (t : Tile) : Bool :=
  !t.heldReset && !t.fenced && !t.clockGated && s.flt.state != 7 && s.flt.state != 8 &&
    (match regionOf s t.region with
      | some g => g.rstate != .resetting
      | none => true)

/-- What a descriptor that meets conditions 1 to 7 will consume. -/
structure FirePlan where
  pos : Nat
  idx : Nat
  d : Nat
  ins : List (Nat × Nat × Nat)
deriving DecidableEq, Repr

/-- Conditions 1 to 7 of R115 for the head of queue `q`. -/
def fireReady (s : State) (lt q : Nat) : Option FirePlan :=
  let t := tileOf s lt
  match headDesc t q with
  | none => none
  | some (pos, idx, d) =>
    if present s lt && schedRuns s t && stepRuns s t && !(queueOf t q).closed && dInstance d == tagOf t && fenceOk t q d && roomOk t d && waitOk t s.now d &&
        engineOk t s.now d && halfOk t d then
      (planIns t d).map fun ins => ⟨pos, idx, d, ins⟩
    else none

/-! ## The grant (R116, R440) -/

/-- Descriptor queues of a tile, ascending. -/
def descQueues (t : Tile) : List Nat := (List.range 64).filter fun q => isDescQueue (qcfgOf t q)

/-- What a plan takes from queue `x`: one element for each entry, with the slot that a gather input asks for (R112). -/
def demand (t : Tile) (x : Nat) (p : FirePlan) : List (Option Nat) :=
  (p.ins.filter fun i => i.2.1 == x).map fun i => if dCanon p.d && i.1 == 0 then some (eSlot (entryAt t x i.2.2)) else none

/-- Whether `a` and `b` want the last visible entries of queue `x`: the ready descriptors `all` together ask for more than there are, of
the queue or of one slot that both ask for. -/
def scarceIn (t : Tile) (all : List FirePlan) (a b : FirePlan) (x : Nat) : Bool :=
  let want := all.flatMap (demand t x)
  let av := avail (queueOf t x)
  let slotScarce := fun (k : Option Nat) =>
    k.isSome && (demand t x b).contains k && decide ((av.filter fun v => some (eSlot (entryAt t x v.pos)) == k).length < want.count k)
  demand t x a != [] && demand t x b != [] && (decide (av.length < want.length) || (demand t x a).any slotScarce)

/-- Whether `a` and `b` want the last free entries of queue `x`: the ready descriptors `all` together need more than there are. -/
def scarceOut (t : Tile) (all : List FirePlan) (a b : FirePlan) (x : Nat) : Bool :=
  decide (0 < needIn t a.d x) && decide (0 < needIn t b.d x) && decide (freeCount t x < (all.map fun p => needIn t p.d x).sum)

/-- Whether two of the ready descriptors `all` contend for the entries of queue `x` (R116). -/
def contendQueue (t : Tile) (all : List FirePlan) (a b : FirePlan) (x : Nat) : Bool := scarceIn t all a b x || scarceOut t all a b x

/-- Whether two ready descriptors name one codebook half, one to load it and one to read it (R46). -/
def contendHalf (a b : FirePlan) : Bool :=
  (namedHalf a.d).isSome && namedHalf a.d == namedHalf b.d && dClass a.d != dClass b.d

/-- The queues that a plan takes entries from or gives entries to, ascending. -/
def planQueues (t : Tile) (p : FirePlan) : List Nat :=
  (List.range 64).filter fun x => (p.ins.any fun i => i.2.1 == x) || decide (0 < needIn t p.d x)

/-- The arbitration points at which two ready descriptors contend (R116, R440): point c is the engine of class c, point 16 + x is
queue x, point 80 is a codebook half.  Of several the first decides (DESIGN CHOICE, log entry 112). -/
def contendPoints (t : Tile) (all : List FirePlan) (a b : FirePlan) : List Nat :=
  (if dClass a.d == dClass b.d then [dClass a.d] else []) ++
    ((planQueues t a).filter (contendQueue t all a b)).map (16 + ·) ++ (if contendHalf a b then [80] else [])

/-- Place of a queue in the circular order of an arbitration point, which is of the tile's descriptor queues (R440); a half keeps the
issue order, the lower queue first (Table 2.10). -/
def rotPlace (t : Tile) (point q : Nat) : Nat :=
  let n := (descQueues t).length
  ((descQueues t).idxOf q + n - sget 0 t.rotEngine point % n) % n

/-- The descriptor queues whose heads meet conditions 1 to 7, with what each will consume. -/
def readyPlans (s : State) (lt : Nat) : List (Nat × FirePlan) :=
  (descQueues (tileOf s lt)).filterMap fun q => (fireReady s lt q).map fun p => (q, p)

/-- Other ready queues that contend with `q`, each with the points at which it does. -/
def contenders (s : State) (lt q : Nat) (p : FirePlan) : List (Nat × List Nat) :=
  let all := readyPlans s lt
  (all.filter fun x => x.1 != q).filterMap fun x =>
    let pts := contendPoints (tileOf s lt) (all.map (·.2)) p x.2
    if pts = [] then none else some (x.1, pts)

/-- Condition 8 against each contender: the older goes first, of equals the first in the rotation of the point that decides. -/
def winsAll (s : State) (lt q : Nat) (p : FirePlan) : Bool :=
  let t := tileOf s lt
  (contenders s lt q p).all fun x =>
    decide ((queueOf t x.1).age < (queueOf t q).age) ||
      ((queueOf t x.1).age == (queueOf t q).age && decide (rotPlace t (x.2.headD 0) q < rotPlace t (x.2.headD 0) x.1))

/-- Condition 8.  Where the rotations of different points leave no descriptor before all its contenders, the oldest of the lowest queue
number goes (DESIGN CHOICE, log entry 112). -/
def granted (s : State) (lt q : Nat) (p : FirePlan) : Bool :=
  let t := tileOf s lt
  winsAll s lt q p ||
    (((contenders s lt q p).all fun x =>
        decide ((queueOf t x.1).age < (queueOf t q).age) || ((queueOf t x.1).age == (queueOf t q).age && decide (q < x.1))) &&
      (descQueues t).all fun q2 => (fireReady s lt q2).all fun p2 => !winsAll s lt q2 p2)

/-- Cycles for which each head has met its conditions, one tick later. -/
def ageQueues (s : State) (lt : Nat) : State :=
  let t := tileOf s lt
  let qs := descQueues t
  let t1 := qs.foldl (fun t2 q => updQueue t2 q fun v =>
    { v with age := if (fireReady s lt q).isSome then v.age + 1 else 0 }) t
  setTile s lt t1

/-! ## Firing -/

/-- What a firing descriptor knows: its tile and queue, index, number, bits, and the consumed entries by input. -/
structure FireCtx where
  lt : Nat
  q : Nat
  idx : Nat
  fid : Nat
  d : Nat
  ents : List (Nat × Nat)
deriving DecidableEq, Repr

/-- What an op did at once: the state, its status and detail, its output address and bytes, its arithmetic
status, its parts, those that failed and those still open with the number of their transfers. -/
structure FireRes where
  s : State
  status : Nat
  detail : Nat
  outAddr : Nat
  bytes : Nat
  arith : Nat
  parts : Nat
  partFail : List Nat
  openParts : List (Nat × Nat)
deriving DecidableEq, Repr

/-- An op that finished at once with status OK. -/
def resOk (s : State) (outAddr bytes : Nat) : FireRes := ⟨s, stOk, 0, outAddr, bytes, 0, 1, [], []⟩

/-- Entries consumed from input `i`, in order. -/
def FireCtx.inputs (c : FireCtx) (i : Nat) : List Nat := (c.ents.filter fun e => e.1 == i).map (·.2)

/-- The address field with the OFFSET that input `i` adds (R109); input 0 of a CANON descriptor adds none. -/
def FireCtx.addr (c : FireCtx) (a i : Nat) : Nat :=
  a + (if dCanon c.d && i == 0 then 0 else inOffset c.d c.ents i)

/-- Whether a tile belongs to a tenant region. -/
def tenantTile (t : Tile) : Bool := decide (t.region < 16)

/-- Check of the target of an ARRIVE or RESET (R125): FIRMWARE object, tile outside the region, absent tile. -/
def targetChecks (s : State) (lt : Nat) (remote : Bool) (tlt obj : Nat) : List Nat :=
  let t := tileOf s lt
  let own := regionOf s t.region
  let outside := remote && (match own with | some g => !inRect g tlt | none => !ltOk tlt)
  let tgt := if remote then tlt else lt
  chk (tenantTile t && (objCfgOf (tileOf s tgt) obj).firmware) stClassProtect ++
    chk outside stRegionBound ++ chk (remote && !outside && s.absent.contains tlt) stSendFail

/-- Checks of a descriptor's own ARRIVE (R125). -/
def arriveChecks (s : State) (c : FireCtx) : List Nat :=
  if dArriveEn c.d then targetChecks s c.lt (dArriveRemote c.d) (dArriveLt c.d) (dArriveObj c.d) else []

/-- Marks the step of a tile's region failed by a descriptor status; its STEP_FAIL names the tile, the queue and the index (R120). -/
def failDesc (s : State) (lt st q idx : Nat) : State := failStep s (tileOf s lt).region st (some (lt, q, idx))

/-- The same for a fired descriptor by its number. -/
def failFired (s : State) (lt st fid : Nat) : State :=
  match (tileOf s lt).fired.find? fun f => f.fid == fid with
  | some f => failDesc s lt st f.q f.idx
  | none => failStep s (tileOf s lt).region st

/-- The operand addresses that take an OFFSET, with the input that adds it (R109). -/
def offsetOperands (d : Nat) : List (Nat × Nat) :=
  match dClass d with
  | 0 => [(fld d 158 26, 0), (fld d 128 26, 1), (fld d 188 26, 2)]
  | 1 => [(fld d 128 26, 0), (fld d 154 26, 1), (fld d 180 26, 2)]
  | 2 => [(fld d 128 26, 0)]
  | 5 => [(fld d 167 26, 0)]
  | _ => []

/-- A sum of an operand address and an OFFSET at or beyond 0x0400_0000 fails with ADDR_RANGE (R109). -/
def offsetChecks (c : FireCtx) : List Nat := chk ((offsetOperands c.d).any fun x => decide (spadEnd ≤ c.addr x.1 x.2)) stAddrRange

/-- The primary output address of a descriptor: O_ADDR, DST or LOCAL_ADDR (R102). -/
def primaryOut (c : FireCtx) : Nat :=
  match dClass c.d with
  | 0 => c.addr (fld c.d 188 26) 2
  | 1 => fld c.d 206 26
  | 2 => c.addr (fld c.d 128 26) 0
  | 5 => c.addr (fld c.d 167 26) 0
  | _ => 0

/-- Parts of a descriptor: a DMA body has PARTS_MINUS1, any other one part. -/
def descParts (d : Nat) : Nat := if dClass d = 2 then fld d 304 4 + 1 else 1

/-- What a descriptor leaves that fails a check at issue with status `st`: no data moves and every part fails (R119, R120). -/
def resFail (s : State) (c : FireCtx) (st : Nat) : FireRes :=
  { s := s, status := st, detail := if st = stSendFail then 0x05 else 0, outAddr := primaryOut c, bytes := 0, arith := 0
    parts := descParts c.d, partFail := List.range (descParts c.d), openParts := [] }

/-- Whether the OFFSET of the entry of input `i` is added to an operand address (R109): all three inputs of a MATRIX or VECTOR descriptor but a
CANON's IN0, and IN0 of a DMA or SEND. -/
def offsetUsed (d i : Nat) : Bool :=
  match dClass d with
  | 0 => true
  | 1 => !(dCanon d && i == 0)
  | 2 | 5 => i == 0
  | _ => false

/-- Read slots of the consumed entries: one for each whose OFFSET is used through ADDR_FROM_IN or whose inline payload is used (R103). -/
def entryReads (d : Nat) (ents : List (Nat × Nat)) : Nat :=
  (ents.filter fun e => (dAddrFromIn d && offsetUsed d e.1) || (dCanon d && e.1 == 0 && eInline e.2)).length

/-- The consumed places as a descriptor takes them: under ARRIVAL_FOLD (Table 1.5) those of a gather queue in their order of arrival. -/
def takenIns (s : State) (t : Tile) (p : FirePlan) : List (Nat × Nat × Nat) :=
  if dCanon p.d && (regionOf s t.region).any fun g => g.arrivalFold then
    ((p.ins.find? fun x => x.1 == 0).elim [] fun x =>
      ((visible (queueOf t x.2.1)).filter fun v => p.ins.any fun y => y.1 == 0 && y.2.2 == v.pos).map fun v => (0, x.2.1, v.pos)) ++
        p.ins.filter fun x => x.1 != 0
  else p.ins

/-- Takes the head from its queue, reserves its entries, and moves the first place of each contested point (R115, R116, R440).  The ring
entry of the descriptor is free from here on (DESIGN CHOICE, log entry 111). -/
def fireReserve (s : State) (lt q : Nat) (p : FirePlan) : State × FireCtx × Option (Nat × Nat) × Option Nat :=
  let t := tileOf s lt
  let ents := (takenIns s t p).map fun x => (x.1, entryAt t x.2.1 x.2.2)
  let fid := t.nextFid
  let t1 := updQueue t q fun v => { v with slots := v.slots.filter fun x => x.pos != p.pos, age := 0 }
  let t2 := reserveIns t1 fid (p.ins.map fun x => x.2)
  let r3 := if dOutEn p.d then let r := reserveOut t2 (dOut p.d) 0; (r.1, some (dOut p.d, r.2)) else (t2, none)
  let r4 := if dCompEn p.d then let r := reserveOut r3.1 t.compQueue 0; (r.1, some r.2) else (r3.1, none)
  let rot := (((contenders s lt q p).flatMap (·.2)).eraseDups.filter (· != 80)).foldl
    (fun l k => sset 0 l k ((sget 0 l k + 1) % (descQueues t).length)) t.rotEngine
  let t5 := { r4.1 with
    nextFid := fid + 1, rotEngine := rot, lastFire := sset 0 t.lastFire (dClass p.d) (s.now + 1)
    spad := chargeRd r4.1.spad (entryReads p.d ents) }
  (setTile s lt t5, ⟨lt, q, p.idx, fid, p.d, ents⟩, r3.2, r4.2)

/-- The status of the checks at issue in the order of R439: offsets, the op's own checks, the ARRIVE. -/
def issueStatus (s : State) (c : FireCtx) (checks : State → FireCtx → List Nat) : Nat :=
  firstStatus (offsetChecks c ++ checks s c ++ arriveChecks s c)

/-- Fires the head of queue `q` as the plan says (R115, R439): a failing check moves no data. -/
def fireNow (s : State) (lt q : Nat) (p : FirePlan) (checks : State → FireCtx → List Nat)
    (act : State → FireCtx → FireRes) : State :=
  let r := fireReserve s lt q p
  let s1 := r.1
  let c := r.2.1
  let ac := arriveChecks s1 c
  let st := issueStatus s1 c checks
  let res := if st = stOk then act s1 c else resFail s1 c st
  let f : Fired :=
    { fid := c.fid, q := q, idx := p.idx, desc := p.d, status := res.status, detail := res.detail
      outAddr := res.outAddr, bytes := if res.status = stOk then res.bytes else 0, arith := res.arith
      parts := res.parts, partFail := res.partFail, openParts := res.openParts, ins := p.ins.map fun x => x.2
      out := r.2.2.1, comp := r.2.2.2, noArrive := ac != [] || (dClass p.d == 4 && st != stOk), closing := false, stage := 0, firedAt := s.now }
  let s2 := updTile res.s lt fun t => { t with fired := t.fired ++ [f] }
  pumpTile (if statusFails res.status then failDesc s2 lt res.status q p.idx else s2) lt

/-- A descriptor row: fires the head of queue `q` of tile `lt` when it is the named op, meets R115 and is
granted; otherwise the scheduler waits. -/
def fireRow (s : State) (lt q : Nat) (want : Nat → Bool) (checks : State → FireCtx → List Nat)
    (act : State → FireCtx → FireRes) : Out :=
  needUnit (ltOk lt && decide (q < 64))
    (match fireReady s lt q with
      | none => .next s
      | some p => whenB (want p.d && granted s lt q p) s (fireNow s lt q p checks act))

/-! ## Retirement (R119, R120) -/

/-- The output entry of a retiring descriptor (R102).  LENGTH holds the bytes written modulo 2^16 (DESIGN CHOICE, log entry 113). -/
def outEntry (s : State) (t : Tile) (lt : Nat) (f : Fired) (prov : Bool) : Nat :=
  mkEntry (if f.status = stOk then f.bytes else 0) f.outAddr (dTag f.desc % 256) lt s.idn.deviceId false prov
    (stepOf s t.region) 0

/-- The completion entry: the record as its inline payload. -/
def compEntry (s : State) (t : Tile) (lt : Nat) (f : Fired) : Nat :=
  mkEntry 16 0 (dTag f.desc % 256) lt s.idn.deviceId true false (stepOf s t.region)
    (firedRecord f (stepOf s t.region) lt)

/-- Whether the output of a CONTRIBUTE is provisional: its group has more than one member (R236). -/
def provisionalOut (s : State) (t : Tile) (f : Fired) : Bool :=
  dClass f.desc == 5 && dOp f.desc == 1 && (match regionOf s t.region with
    | some g => decide (1 < g.members)
    | none => false)

/-- Steps 1 and 2 of R119: the inputs leave, the output entry is written. -/
def retireQueues (s : State) (lt : Nat) (f : Fired) : State :=
  let t := dropIns (tileOf s lt) f.ins
  setTile s lt (match f.out with
    | some o => writePlace t o.1 o.2 (outEntry s t lt f (provisionalOut s t f))
    | none => t)

/-- Step 3 of R119: the ARRIVE, local or over the mesh. -/
def retireArrive (s : State) (lt : Nat) (f : Fired) : State :=
  if dArriveEn f.desc && !f.noArrive then
    (if dArriveRemote f.desc then
      injectTile s lt (syncPacket 0 (dArriveObj f.desc) (dArriveDelta f.desc) 0 (dArriveLt f.desc) 0 (dArriveLt f.desc))
    else arriveAt s lt (dArriveObj f.desc) (dArriveDelta f.desc))
  else s

/-- The control firmware receives a completion record whose status is not OK (R119): with the records of the tile's region, or, for
a tile of no tenant region, with those the firmware holds for its own. -/
def toFirmware (s : State) (lt : Nat) (f : Fired) : State :=
  if (regionOf s (tileOf s lt).region).isSome then
    updRegion s (tileOf s lt).region fun g => { g with failRecs := g.failRecs ++ [firedRecord f g.step lt] }
  else { s with flc := { s.flc with fwRecs := s.flc.fwRecs ++ [firedRecord f 0 lt] } }

/-- Step 4 of R119: the completion record, and the copy of a failed one for the control firmware. -/
def retireComp (s : State) (lt : Nat) (f : Fired) : State :=
  let t := tileOf s lt
  let e := compEntry s t lt f
  let s1 := match f.comp with
    | some p => setTile s lt (writePlace t t.compQueue p e)
    | none =>
      if f.status = stOk then s
      else if isDataQueue (qcfgOf t t.compQueue) && decide (0 < freeCount t t.compQueue) then
        setTile s lt (pushEntry t t.compQueue 0 e)
      else setTile s lt { t with cnt := { t.cnt with compDrop := satAdd t.cnt.compDrop 1 32 } }
  if f.status = stOk then s1
  else toFirmware s1 lt f

/-- END closes its queue for the rest of the step (R114). -/
def retireClose (s : State) (lt : Nat) (f : Fired) : State :=
  updTile s lt fun t =>
    let t1 := { t with fired := t.fired.filter fun x => x.fid != f.fid }
    updQueue t1 f.q fun v => { v with
      lastRetired := some f.idx
      since := s.now
      closed := v.closed || (dClass f.desc == 6 && dOp f.desc == 1) }

/-- A GATHER frees the batch buffer that its posted entry named (R181). -/
def retireBuffer (s : State) (lt : Nat) (f : Fired) : State :=
  match f.ins with
  | (q, pos) :: _ =>
    if dClass f.desc == 2 && dOp f.desc == 10 then
      updTile s lt fun t =>
        let slot := eSlot (entryAt t q pos)
        let k := fld f.desc 308 3
        let e := sget expStateReset t.expState k
        { t with expState := sset expStateReset t.expState k { e with posted := e.posted.filter (· != slot) } }
    else s
  | [] => s

/-- A descriptor with an old tag ends: its inputs leave, its reserved places are given up, and entry, ARRIVE and completion are
discarded, and what it had not begun to send is given up (R127). -/
def retireStale (s : State) (lt : Nat) (f : Fired) : State :=
  updTile s lt fun t =>
    let places := f.out.toList ++ (f.comp.map fun p => (t.compQueue, p)).toList
    let t1 := dropIns (dropIns t f.ins) places
    { t1 with fired := t1.fired.filter (fun x => x.fid != f.fid), waiting := t1.waiting.filter fun x => x.fid != f.fid }

/-- Retires a fired descriptor (R119, R127). -/
def retire (s : State) (lt : Nat) (f : Fired) : State :=
  if staleTag (tileOf s lt) f then retireStale s lt f
  else retireClose (retireComp (retireArrive (retireQueues (retireBuffer s lt f) lt f) lt f) lt f) lt f

/-- The fired descriptor of queue `q` and index `idx` whose engine has finished: no open part, or a tag whose work has stopped. -/
def finishedDesc (t : Tile) (q idx : Nat) : Option Fired :=
  t.fired.find? fun f => f.q == q && f.idx == idx && (f.openParts == [] || staleTag t f)

/-- Changes the fired descriptor `fid` of a tile. -/
def updFired (t : Tile) (fid : Nat) (g : Fired → Fired) : Tile :=
  { t with fired := mapIf (fun f => f.fid == fid) g t.fired }

/-- One transfer of a part has ended well; the part ends with its last transfer. -/
def partDone (f : Fired) (part : Nat) : Fired :=
  { f with openParts := f.openParts.filterMap fun p =>
      if p.1 = part then (if p.2 ≤ 1 then none else some (part, p.2 - 1)) else some p }

/-- A part has failed with a status and detail. -/
def partFailed (f : Fired) (part st detail : Nat) : Fired :=
  { partDone f part with
    status := if f.status = stOk then st else f.status
    detail := if f.status = stOk then detail else f.detail
    partFail := setIns part f.partFail }

end Sys2Proof.Machine
end

