-- ==== Sys2Proof/Machine/Ranges.lean ====
section
/-! DEFINITION. The range checks that every op with operands in scratchpad makes at firing (R72, R73, R78,
R109, R145). -/

namespace Sys2Proof.Machine

/-- A byte range: address and length. -/
abbrev Rng := Nat × Nat

/-- Shared page blocks of a region on a tile (R144, R145). -/
def sharedBlocks (s : State) (r lt : Nat) : List Rng :=
  match regionOf s r with
  | none => []
  | some g =>
    match g.image with
    | none => []
    | some im =>
      let per := Nat.max 1 (im.layers * im.heads)
      im.pageMap.filterMap fun e =>
        if e.2.lt = lt ∧ g.pool.any (fun p => p.page == e.1 / per && p.shared) then some (e.2.addr, 17408) else none

def meets (a b : Rng) : Bool :=
  decide (0 < a.2) && decide (0 < b.2) && decide (a.1 < b.1 + b.2) && decide (b.1 < a.1 + a.2)

/-- Whether a tenant's write of any of these ranges of a tile meets a page block that its entry marks SHARED (R145). -/
def sharedHit (s : State) (lt : Nat) (writes : List Rng) : Bool :=
  let t := tileOf s lt
  tenantTile t && (sharedBlocks s t.region lt).any fun b => writes.any fun w => meets b w

/-- Range checks of local reads and writes. -/
def rangeChecks (s : State) (c : FireCtx) (reads writes : List Rng) : List Nat :=
  let t := tileOf s c.lt
  let all_ := reads ++ writes
  chk (all_.any fun x => decide (spadEnd < x.1 + x.2)) stAddrRange ++
    chk (sharedHit s c.lt writes) stRegionBound ++
    chk (tenantTile t && ((all_.any fun x => meetsCtl x.1 x.2) || writes.any fun x => meetsWindow t.protects x.1 x.2))
      stAddrProtect

/-- Slots that a list of ranges costs in LINE mode. -/
def rngCost (l : List Rng) : Nat := (l.map fun x => lineCost x.1 x.2).foldl (· + ·) 0

/-- Rows of equal length as ranges. -/
def rowRngs (a stride rows n : Nat) : List Rng := (rowAddrs a stride rows).map fun x => (x, n)

/-- Writes byte strings at their addresses, in order. -/
def putRows (sp : Spad) (l : List (Nat × List Byte)) : Spad := l.foldl (fun sp x => spadWrite sp x.1 x.2) sp

end Sys2Proof.Machine
end

