-- ==== Sys2Proof/Machine/Basin.lean ====
section
/-! DEFINITION. Basin: the address map, allotments and their ranges, byte access with poisoned granules, error
records (R264 to R269, R276 to R279, Tables 10.1, 10.2, 10.4). -/

namespace Sys2Proof.Machine

/-! ## Addresses (R265, Table 10.1) -/

/-- Bytes of Basin: 192 GiB. -/
def basinEnd : Nat := 0x3000000000

/-- First byte of the tenant range. -/
def basinTenant : Nat := 0x200000000

/-- First byte of the capture area. -/
def basinCapture : Nat := 0x80000000

/-- The stack, and so the die, of a physical address. -/
def stackOf (a : Nat) : Nat := fld a 9 2

def gib : Nat := 2 ^ 30

def bsnOf (s : State) (die : Nat) : BasinCtl := sget basinCtlReset s.bsn die
def updBsn (s : State) (die : Nat) (f : BasinCtl → BasinCtl) : State :=
  { s with bsn := sset basinCtlReset s.bsn die (f (bsnOf s die)) }

/-- Base and length of the space that a region's Basin addresses count from: its allotment; the whole of Basin for
the firmware region. -/
def allotOf (s : State) (r : Nat) : Nat × Nat :=
  match regionOf s r with
  | some g => (g.basinBase, g.basinGib * gib)
  | none => (0, basinEnd)

/-- The directory of a region's image. -/
def dirOf (s : State) (r : Nat) : Option Directory :=
  match regionOf s r with
  | some g => g.image.map (·.dir)
  | none => none

/-- Whether [a, a + n) meets a range of the directory. -/
def inRange (x : Range) (a n : Nat) : Bool := meets (x.off, x.len) (a, n)

/-- Whether a tenant may not read or write [a, a + n) of its allotment (R267, Table 10.2). -/
def allotBad (s : State) (r a n : Nat) (write : Bool) : Bool :=
  decide ((allotOf s r).2 < a + n) ||
    (match dirOf s r with
      | none => false
      | some d => inRange d.undoLog a n ||
          (write && (inRange d.weightImage a n || inRange d.cold a n || inRange d.kvShadow a n || inRange d.ctxBundles a n)))

/-! ## Bytes -/

/-- Read and write positions, visible and reserved counts of a queue, 4 bytes each in this order (log 18). -/
def queueRecBytes (v : Queue) : List Byte :=
  leBytes ((v.slots.head?).elim v.tail (·.pos)) 4 ++ leBytes v.tail 4 ++ leBytes (visible v).length 4 ++
    leBytes (v.slots.filter fun x => !x.written).length 4

/-- Subsections of a tile section in SCOPE bit order, behind its header of 64 bytes (R133): how many bytes each has and its byte at an
index, `none` where the layout is not published. -/
def subsections (x : ScanSec) : List (Nat × (Nat → Option Byte)) :=
  let on := fun i n (f : Nat → Option Byte) => if bitOf x.scope i then [(n, f)] else []
  on 0 1024 (fun i => (queueRecBytes (sget queueReset x.queues (i / 16)))[i % 16]?) ++
    on 0 (64 * x.rings.length) (fun i => (x.rings[i / 64]?).bind fun r => r.2[i % 64]?) ++
    on 1 (16 * 272) (fun i => x.board[i]?) ++
    on 2 1024 (fun i => (leBytes (x.vals.getD (i / 4) 0) 4)[i % 4]?) ++
    on 4 131072 (fun i => some (memRd ((x.halves.find? fun h => h.1 == i / 32768).elim [] (·.2.data)) (i % 32768))) ++
    on 5 (16 * 80) (fun _ => none) ++ on 6 (64 * (x.rx.map fun f => f.held.length).foldl (· + ·) 0) (fun _ => none)

/-- The byte at an index of consecutive parts. -/
def partByte : List (Nat × (Nat → Option Byte)) → Nat → Option Byte
  | [], _ => none
  | p :: t, i => if i < p.1 then p.2 i else partByte t (i - p.1)

/-- Byte `i` of a section: what R133 lays out, a free value elsewhere. -/
def sectionByte (x : ScanSec) (i : Nat) : Byte :=
  match x.raw with
  | some l => l.getD i 0
  | none => (partByte ((64, fun i => x.head[i]?) :: subsections x) i).getD (Config.freeByte x.tag i)

/-- One byte of Basin: of a section where one stands, else of memory. -/
def basinByte (s : State) (a : Nat) : Byte :=
  match s.scans.find? fun x => decide (x.addr ≤ a) && decide (a < x.addr + x.len) with
  | some x => sectionByte x (a - x.addr)
  | none => memRd s.basin a

/-- `n` bytes of Basin. -/
def basinBytes (s : State) (a : Nat) : Nat → List Byte
  | 0 => []
  | n + 1 => basinByte s a :: basinBytes s (a + 1) n

/-- Granules that lie whole in [a, a + n). -/
def wholeGranules (a n : Nat) : Nat × Nat := ((a + 511) / 512, (a + n) / 512)

/-! ## Bundles (R133, R134, Tables 4.23 and 4.24) -/

/-- Bytes of a capture slot; eight slots fill the capture area. -/
def slotBytes : Nat := 0x30000000
def slotBase (k : Nat) : Nat := basinCapture + k * slotBytes

/-- The tile sections of a bundle. -/
def sectionsOf (s : State) (b : Bundle) : List ScanSec :=
  s.scans.filter fun x => x.raw.isNone && meets (x.addr, x.len) (b.base, slotBytes)

/-- TOTAL_LENGTH of a bundle: header, sections, marker. -/
def bundleTotal (s : State) (b : Bundle) : Nat := 128 + ((sectionsOf s b).map fun x => alignUp x.len 64).foldl (· + ·) 0 + 64

/-- The header of a bundle (Table 4.23). -/
def bundleHeader (s : State) (b : Bundle) : List Byte :=
  leBytes 1 2 ++ leBytes b.region 1 ++ leBytes b.inst 1 ++ leBytes b.step 8 ++ leBytes b.attempt 1 ++ leBytes 1 1 ++ leBytes 0xB1 1 ++
    leBytes b.reason 1 ++ leBytes (sectionsOf s b).length 2 ++ zeros 2 ++ leBytes b.seq 4 ++ leBytes (bundleTotal s b) 8 ++ zeros 96

/-- The commit marker of a bundle (Table 4.24). -/
def bundleMarker (s : State) (b : Bundle) : List Byte :=
  leBytes 0x4D4B 2 ++ leBytes b.seq 4 ++ leBytes (bundleTotal s b) 8 ++
    leBytes (crc64 (basinBytes s b.base (bundleTotal s b - 64))).toNat 8 ++ zeros 42

/-- Puts bytes of a header or a marker in place of whatever section stands there. -/
def putRaw (s : State) (a : Nat) (l : List Byte) : State :=
  { s with scans := (s.scans.filter fun x => !meets (x.addr, x.len) (a, l.length)) ++
      [{ addr := a, len := l.length, tag := 0, lt := 0x3FF, scope := 0, region := 31, queues := [], rings := [], objs := [], fired := []
         halves := [], mb := [], rx := [], raw := some l }] }

/-- A field of a little-endian record. -/
def byteField (l : List Byte) (lo n : Nat) : Nat := ofLe ((l.drop lo).take n)

/-- Where the bundle begins that holds the section at `a`: the sections of a bundle follow its header of 128 bytes without a gap
(R133), so the walk goes back over the sections before `a` until none ends there. -/
def bundleBase (l : List ScanSec) (a : Nat) : Nat → Nat
  | 0 => a - 128
  | n + 1 => match l.find? fun x => x.raw.isNone && x.addr + alignUp x.len 64 == a with
    | some x => bundleBase l x.addr n
    | none => a - 128

/-- Whether SCAN_IN accepts the bundle at a Basin address (R134): its marker stands, the CRC-64 over every byte before it matches,
BUNDLE_SEQ and TOTAL_LENGTH agree with the header, ARITH_REV and STEPPING are the part's, and it is not lost (Table 10.4). -/
def bundleGood (s : State) (base : Nat) : Bool :=
  let h := basinBytes s base 128
  let total := byteField h 24 8
  let m := basinBytes s (base + total - 64) 64
  byteField h 0 2 == 1 && decide (192 ≤ total) && byteField m 0 2 == 0x4D4B && byteField m 2 4 == byteField h 20 4 &&
    byteField m 6 8 == total && byteField h 13 1 == 1 && byteField h 14 1 == 0xB1 &&
    (s.bundles.all fun b => b.base != base || !b.lost) &&
    byteField m 14 8 == (crc64 (basinBytes s base (total - 64))).toNat

/-- Writes bytes to Basin: a section it meets is no more, a granule it writes whole is no longer poisoned (R278). -/
def basinPut (s : State) (a : Nat) (l : List Byte) : State :=
  let g := wholeGranules a l.length
  { s with
    basin := memWrL s.basin a l
    scans := s.scans.filter fun x => !meets (x.addr, x.len) (a, l.length)
    poison := s.poison.filter fun p => !(decide (g.1 ≤ p) && decide (p < g.2)) }

/-- Zeroises [a, a + n) of Basin (R267). -/
def basinZero (s : State) (a n : Nat) : State :=
  let g := wholeGranules a n
  { s with
    basin := memZero s.basin a n
    scans := s.scans.filter fun x => !meets (x.addr, x.len) (a, n)
    poison := s.poison.filter fun p => !(decide (g.1 ≤ p) && decide (p < g.2)) }

/-- Poisoned granules that [a, a + n) touches. -/
def poisonIn (s : State) (a n : Nat) : List Nat :=
  s.poison.filter fun p => meets (512 * p, 512) (a, n)

/-- The pieces of [a, a + n) that lie in no poisoned granule, as (offset from a, length); `fuel` bounds the granules. -/
def cleanPieces (s : State) : Nat → Nat → Nat → Nat → List (Nat × Nat)
  | 0, _, _, _ => []
  | fuel + 1, a, off, n =>
    if n = 0 then []
    else
      let k := Nat.min n (512 - a % 512)
      let rest := cleanPieces s fuel (a + k) (off + k) (n - k)
      if s.poison.contains (a / 512) then rest else (off, k) :: rest

/-- Counts the poisoned granules that a read of [a, a + n) meets (R278, Table 10.6). -/
def countPoison (s : State) (a n : Nat) : State :=
  (poisonIn s a n).foldl (fun s p => updBsn s (stackOf (512 * p)) fun c => { c with poisonRd := satAdd c.poisonRd 1 32 }) s

/-! ## Uncorrectable errors (R278, R279, Table 10.4) -/

/-- The region whose allotment holds a physical address. -/
def regionOfBpa (s : State) (a : Nat) : Option (Nat × Region) :=
  s.regions.find? fun e => decide (e.2.basinBase ≤ a) && decide (a < e.2.basinBase + e.2.basinGib * gib)

/-- The resident item of an image that holds allotment offset `o` of WEIGHT_IMAGE: node index and item. -/
def residentAt (im : Image) (o : Nat) : Option (Nat × Resident) :=
  (List.zip (List.range im.nodes.length) im.nodes).findSome? fun x =>
    (x.2.resident.find? fun r => !r.cold && meets (im.dir.weightImage.off + r.off, r.len) (o, 512)).map fun r => (x.1, r)

/-- Queues the healing of a region's poisoned granules for its next boundary, once (R280). -/
def queueHeal (s : State) (r : Nat) : State :=
  updRegion s r fun g =>
    if g.boundary.any (fun b => b.act == BAct.heal) then g
    else { g with boundary := g.boundary ++ [⟨.heal, none, s.orderNo⟩] }

/-- The Basin error record: BASIN_UE with the granule's address. -/
def basinUeEvent (s : State) (a : Nat) : State :=
  postEvent s
    { code := 0x0501, region := (regionOfBpa s a).elim 0xFF (·.1), lt := 0x3FF, px := 0xFF, py := 0xFF, unit := 10
      sub := stackOf a, func := (regionOfBpa s a).elim 0xFF (fun e => e.2.owner)
      step := (regionOfBpa s a).elim 0 (fun e => e.2.step), payload := leBytes a 8 }

end Sys2Proof.Machine
end

