-- ==== Sys2Proof/Machine/Control.lean ====
section
/-! DEFINITION. The fetcher, the SYNC and CONTROL ops and retirement (R105 to R107, R114, R117, R119, R125). -/

namespace Sys2Proof.Machine

/-! ## FETCH_LINE -/

/-- Feeds the descriptors of one line from index `i` on (R105, R106, R114): JUMP and a taken LOOP move the
fetcher and end the line; END enters the queue and ends the stream. -/
def feedLine (c : QCfg) (q i : Nat) : Nat → Tile → Tile
  | 0, t => updQueue t q fun v => { v with fetchIdx := i }
  | n + 1, t =>
    if c.streamLen ≤ i then updQueue t q fun v => { v with fetchIdx := i, fetchDone := true }
    else
      let d := spadNum t.spad (c.streamBase + 64 * i) 64
      if dClass d = 6 ∧ dOp d = 2 then updQueue t q fun v => { v with fetchIdx := fld d 128 16 }
      else if dClass d = 6 ∧ dOp d = 3 then
        let k := fld d 144 2
        let cur := (queueOf t q).loops.getD k 0
        if cur + 1 < fld d 146 16 then
          updQueue t q fun v => { v with loops := modAt (fun x => x + 1) v.loops k, fetchIdx := fld d 128 16 }
        else feedLine c q (i + 1) n (updQueue t q fun v => { v with loops := modAt (fun _ => 0) v.loops k })
      else
        let t1 := pushEntry t q i (setFld d 48 8 (tagOf t))
        if dClass d = 6 ∧ dOp d = 1 then updQueue t1 q fun v => { v with fetchIdx := i + 1, fetchDone := true }
        else feedLine c q (i + 1) n t1

/-- Whether the fetcher of a queue reads a line: a DESC_STREAM queue of a running step with eight free entries
(R105). -/
def fetchReady (s : State) (lt q : Nat) : Bool :=
  let t := tileOf s lt
  present s lt && schedRuns s t && stepRuns s t && (qcfgOf t q).qtype == 1 && !(queueOf t q).fetchDone &&
    decide (8 ≤ freeCount t q)

def fetchLine (s : State) (lt q : Nat) : State :=
  updTile s lt fun t =>
    let c := qcfgOf t q
    let i := (queueOf t q).fetchIdx
    let t1 := if (queueOf t q).slots == [] && !(t.fired.any fun f => f.q == q) then updQueue t q fun v => { v with since := s.now } else t
    feedLine c q i (8 - i % 8) { t1 with spad := chargeRd t1.spad 1 }

/-- FETCH_LINE (R105 to R107). -/
def fetchRow (lt q : Nat) (s : State) : Out :=
  needUnit (ltOk lt && decide (q < 64)) (whenB (fetchReady s lt q) s (fetchLine s lt q))

/-! ## STALE_INSTANCE_DISCARD -/

/-- Discards the head of a descriptor queue whose INSTANCE differs from the tile's tag (R117). -/
def execStaleInstanceDiscard (lt q : Nat) (s : State) : Out :=
  needUnit (ltOk lt && decide (q < 64))
    (match headDesc (tileOf s lt) q with
      | none => .next s
      | some (pos, _, d) =>
        whenB (dInstance d != tagOf (tileOf s lt)) s
          (updTile s lt fun t =>
            { updQueue t q (fun v => { v with slots := v.slots.filter fun x => x.pos != pos, age := 0 }) with
              cnt := { t.cnt with staleInstance := satAdd t.cnt.staleInstance 1 32 } }))

/-! ## SYNC (Table 4.10) -/

def syncObjField (d : Nat) : Nat := fld d 128 8
def syncLt (d : Nat) : Nat := fld d 136 10
def syncRemote (d : Nat) : Bool := bitOf d 146
def syncValue (d : Nat) : Nat := fld d 147 32

/-- Whether a descriptor has the class and op. -/
def isOp (c o : Nat) (d : Nat) : Bool := dClass d == c && dOp d == o

def syncChecks (s : State) (c : FireCtx) : List Nat :=
  targetChecks s c.lt (syncRemote c.d) (syncLt c.d) (syncObjField c.d)

/-- ARRIVE(VALUE) on its object, local or over the mesh. -/
def actArrive (s : State) (c : FireCtx) : FireRes :=
  resOk (if syncRemote c.d then
      injectTile s c.lt (syncPacket 0 (syncObjField c.d) (syncValue c.d) 0 (syncLt c.d) 0 (syncLt c.d))
    else arriveAt s c.lt (syncObjField c.d) (syncValue c.d)) 0 0

/-- RESET(VALUE) of its object, local or over the mesh. -/
def actReset (s : State) (c : FireCtx) : FireRes :=
  resOk (if syncRemote c.d then
      injectTile s c.lt (syncPacket 1 (syncObjField c.d) (syncValue c.d) 0 (syncLt c.d) 0 (syncLt c.d))
    else updTile s c.lt fun t => objSet t s.now (syncObjField c.d) (syncValue c.d) false) 0 0

/-- An op with no effect of its own: WAIT, NOP, FENCE, END; their meaning is when they fire and retire. -/
def actNone (s : State) (_ : FireCtx) : FireRes := resOk s 0 0

def noChecks (_ : State) (_ : FireCtx) : List Nat := []

/-- SYNC ARRIVE (R125). -/
def execArrive (lt q : Nat) (s : State) : Out := fireRow s lt q (isOp 4 0) syncChecks actArrive

/-- SYNC WAIT: the synchronisation word holds its condition (R115 item 5). -/
def execWait (lt q : Nat) (s : State) : Out := fireRow s lt q (isOp 4 1) noChecks actNone

/-- SYNC RESET (R125). -/
def execReset (lt q : Nat) (s : State) : Out := fireRow s lt q (isOp 4 2) syncChecks actReset

/-! ## CONTROL (Table 4.12, R114) -/

def ctlAddr (d : Nat) : Nat := fld d 162 26
def ctlLines (d : Nat) : Nat := fld d 188 20

/-- Range checks of CLEAR_VALID and ZEROIZE (R72, R73, R78, R145). -/
def clearChecks (s : State) (c : FireCtx) : List Nat :=
  let t := tileOf s c.lt
  let n := 512 * ctlLines c.d
  chk (decide (spadEnd < ctlAddr c.d + n)) stAddrRange ++ chk (sharedHit s c.lt [(ctlAddr c.d, n)]) stRegionBound ++
    chk (tenantTile t && (meetsCtl (ctlAddr c.d) n || meetsWindow t.protects (ctlAddr c.d) n)) stAddrProtect

/-- CLEAR_VALID (R91). -/
def actClearValid (s : State) (c : FireCtx) : FireRes :=
  resOk (updTile s c.lt fun t => { t with spad := spadClear t.spad (ctlAddr c.d) (ctlLines c.d) }) 0 0

/-- ZEROIZE is for the firmware region only (Table 4.15, CLASS_PROTECT). -/
def zeroizeChecks (s : State) (c : FireCtx) : List Nat :=
  chk (tenantTile (tileOf s c.lt)) stClassProtect ++ clearChecks s c

/-- ZEROIZE (R92). -/
def actZeroize (s : State) (c : FireCtx) : FireRes :=
  resOk (updTile s c.lt fun t => { t with spad := spadZeroize t.spad (ctlAddr c.d) (ctlLines c.d) }) 0 0

/-- CONTROL NOP. -/
def execControlNop (lt q : Nat) (s : State) : Out := fireRow s lt q (isOp 6 0) noChecks actNone

/-- CONTROL END: fires as FENCE does, and closes its queue when it retires (R114). -/
def execEndDesc (lt q : Nat) (s : State) : Out := fireRow s lt q (isOp 6 1) noChecks actNone

/-- CONTROL FENCE. -/
def execFence (lt q : Nat) (s : State) : Out := fireRow s lt q (isOp 6 4) noChecks actNone

/-- CONTROL CLEAR_VALID. -/
def execClearValid (lt q : Nat) (s : State) : Out := fireRow s lt q (isOp 6 5) clearChecks actClearValid

/-- CONTROL ZEROIZE. -/
def execZeroize (lt q : Nat) (s : State) : Out := fireRow s lt q (isOp 6 6) zeroizeChecks actZeroize

/-! ## DESCRIPTOR_RETIRE -/

/-- Retires the descriptor of queue `q` and index `idx` when its engine has finished every segment (R119). -/
def execDescriptorRetire (lt q idx : Nat) (s : State) : Out :=
  needUnit (ltOk lt && decide (q < 64))
    (match finishedDesc (tileOf s lt) q idx with
      | none => .next s
      | some f => .next (retire s lt f))

end Sys2Proof.Machine
end

