-- ==== Sys2Proof/Machine/Dma.lean ====
section
/-! DEFINITION. The DMA engine's own ops: COPY, PUT, GET, BASIN_READ, BASIN_WRITE, STORE_LOAD and SPARSIFY (R113,
Table 4.8, R45, R169 to R171, R267, R279). -/

namespace Sys2Proof.Machine

/-! ## Fields (Table 4.8) -/

def mLocalF (d : Nat) : Nat := fld d 128 26
def mRemote (d : Nat) : Nat := fld d 154 64
def mLen (d : Nat) : Nat := fld d 218 32
def mTagSet (d : Nat) : Nat := fld d 250 4
def mHalf2 (d : Nat) : Nat := 2 * fld d 254 1 + fld d 255 1
def mLocalStride (d : Nat) : Nat := 64 * fld d 256 16
def mRemoteStride (d : Nat) : Nat := 64 * fld d 272 16
def mRows (d : Nat) : Nat := fld d 288 16 + 1
def mParts (d : Nat) : Nat := fld d 304 4 + 1
def mParam0 (d : Nat) : Nat := fld d 308 32
def mParam1 (d : Nat) : Nat := fld d 340 32

/-- LOCAL_ADDR with the OFFSET of IN0 (R109). -/
def mLocal (c : FireCtx) : Nat := c.addr (mLocalF c.d) 0

/-- First row of part `i` (R113). -/
def partLo (d i : Nat) : Nat := i * mRows d / mParts d

/-- Rows of part `i`. -/
def partRows (d i : Nat) : List Nat := (List.range (partLo d (i + 1) - partLo d i)).map fun k => partLo d i + k

/-- The part of row `r`. -/
def partOf (d r : Nat) : Nat := ((List.range (mParts d)).find? fun i => decide (r < partLo d (i + 1))).getD 0

/-- Local rows as ranges. -/
def localRngs (c : FireCtx) : List Rng := rowRngs (mLocal c) (mLocalStride c.d) (mRows c.d) (mLen c.d)

/-- Local address of row `r`. -/
def localRow (c : FireCtx) (r : Nat) : Nat := mLocal c + mLocalStride c.d * r

/-- Bytes the descriptor moves. -/
def mTotal (d : Nat) : Nat := mRows d * mLen d

/-- A result that ended at once with some parts failed. -/
def resParts (s : State) (c : FireCtx) (bytes detail : Nat) (failed : List Nat) : FireRes :=
  { s := s, status := if failed = [] then stOk else stPartFail, detail := if failed = [] then 0 else detail
    outAddr := mLocal c, bytes := bytes, arith := 0, parts := mParts c.d, partFail := failed, openParts := [] }

/-- A result whose parts wait for the answers to their transfers. -/
def resOpen (s : State) (c : FireCtx) (bytes parts : Nat) (openParts : List (Nat × Nat)) : FireRes :=
  { s := s, status := stOk, detail := 0, outAddr := mLocal c, bytes := bytes, arith := 0, parts := parts
    partFail := [], openParts := openParts }

/-! ## COPY -/

def copyDst (c : FireCtx) (r : Nat) : Nat := mRemote c.d % 2 ^ 26 + mRemoteStride c.d * r

def copyChecks (s : State) (c : FireCtx) : List Nat :=
  rangeChecks s c (localRngs c) (rowRngs (copyDst c 0) (mRemoteStride c.d) (mRows c.d) (mLen c.d))

/-- COPY of one row. -/
def copyRow (c : FireCtx) (sp : Spad) (r : Nat) : Spad :=
  spadWrite (chargeRd sp (lineCost (localRow c r) (mLen c.d))) (copyDst c r) (spadRead sp (localRow c r) (mLen c.d))

/-- COPY: row after row, each read before it is written. -/
def actCopy (s : State) (c : FireCtx) : FireRes :=
  resParts (updTile s c.lt fun t => { t with spad := (List.range (mRows c.d)).foldl (copyRow c) t.spad }) c (mTotal c.d) 0 []

/-! ## PUT and GET -/

def mRemoteLt (d : Nat) : Nat := fld (mRemote d) 26 10
def mRemoteRow (d r : Nat) : Nat := mRemote d % 2 ^ 26 + mRemoteStride d * r

/-- Whether a tile may not address another tile: it lies outside its region, or does not exist (R217). -/
def outsideRegion (s : State) (lt tlt : Nat) : Bool :=
  match regionOf s (tileOf s lt).region with
  | some g => !inRect g tlt
  | none => !ltOk tlt

/-- Checks of a remote extent (R78, R131, Table 4.15). -/
def remoteChecks (s : State) (c : FireCtx) : List Nat :=
  let rs := (List.range (mRows c.d)).map (mRemoteRow c.d)
  chk (rs.any fun a => decide (spadEnd < a + mLen c.d)) stAddrRange ++
    chk (outsideRegion s c.lt (mRemoteLt c.d)) stRegionBound ++
    chk (tenantTile (tileOf s c.lt) && rs.any fun a => meetsCtl a (mLen c.d)) stAddrProtect

/-- Cuts one row into packets: landing address, source address, bytes; `fuel` bounds the packets. -/
def rowPieces : Nat → Nat → Nat → Nat → List (Nat × Nat × Nat)
  | 0, _, _, _ => []
  | fuel + 1, dst, src, n =>
    if n = 0 then []
    else (dst, src, Nat.min n maxPayload) ::
      rowPieces fuel (dst + maxPayload) (src + maxPayload) (n - Nat.min n maxPayload)

def piecesOf (dst src n : Nat) : List (Nat × Nat × Nat) := rowPieces (n / maxPayload + 1) dst src n

/-- A transfer of a descriptor to a tile of its own device, with no retries of its own. -/
def meshXfer (fid part : Nat) (k : XKind) (typ dst : Nat) (ps : List (Nat × Nat × Nat)) : Xfer :=
  { fid := fid, part := part, kind := k, typ := typ, chan := 0, dstKind := 0, dst := dst, fabric := false
    destDev := 0, destLt := dst, transport := 0, inl := [], pieces := ps, retryMax := 0, retryGap := 0
    retries := 0, after := 0 }

/-- A PUT into a page block that its entry marks SHARED fails (R145). -/
def putShared (s : State) (c : FireCtx) : List Nat :=
  chk (sharedHit s (mRemoteLt c.d) ((List.range (mRows c.d)).map fun r => (mRemoteRow c.d r, mLen c.d))) stRegionBound

def putChecks (s : State) (c : FireCtx) : List Nat :=
  rangeChecks s c (localRngs c) [] ++ remoteChecks s c ++ (if tenantTile (tileOf s c.lt) then putShared s c else [])

/-- PUT: one transfer of WRITE packets for each part. -/
def actPut (s : State) (c : FireCtx) : FireRes :=
  let xs := (List.range (mParts c.d)).map fun i =>
    meshXfer c.fid i .put tWrite (mRemoteLt c.d)
      ((partRows c.d i).flatMap fun r => piecesOf (mRemoteRow c.d r) (localRow c r) (mLen c.d))
  let s1 := updTile s c.lt fun t => { t with spad := chargeRd t.spad (rngCost (localRngs c)) }
  resOpen (queueXfers s1 c.lt xs) c (mTotal c.d) (mParts c.d) ((List.range (mParts c.d)).map fun i => (i, 1))

def getChecks (s : State) (c : FireCtx) : List Nat := rangeChecks s c [] (localRngs c) ++ remoteChecks s c

/-- GET: one READ_REQ for each row; a row ends when its data has landed. -/
def actGet (s : State) (c : FireCtx) : FireRes :=
  let xs := (List.range (mRows c.d)).map fun r =>
    meshXfer c.fid (partOf c.d r) .get tReadReq (mRemoteLt c.d) [(localRow c r, mRemoteRow c.d r, mLen c.d)]
  resOpen (queueXfers s c.lt xs) c (mTotal c.d) (mParts c.d)
    ((List.range (mParts c.d)).map fun i => (i, (partRows c.d i).length))

/-! ## BASIN_READ and BASIN_WRITE -/

def mBasinRow (d r : Nat) : Nat := mRemote d % 2 ^ 38 + mRemoteStride d * r

def basinChecks (s : State) (c : FireCtx) (write : Bool) : List Nat :=
  chk ((List.range (mRows c.d)).any fun r => allotBad s (tileOf s c.lt).region (mBasinRow c.d r) (mLen c.d) write) stRegionBound

def basinReadChecks (s : State) (c : FireCtx) : List Nat := rangeChecks s c [] (localRngs c) ++ basinChecks s c false
def basinWriteChecks (s : State) (c : FireCtx) : List Nat := rangeChecks s c (localRngs c) [] ++ basinChecks s c true

/-- BASIN_READ: every granule that is not poisoned lands; a part that meets a poisoned one fails with BASIN_UE (R279). -/
def actBasinRead (s : State) (c : FireCtx) : FireRes :=
  let base := (allotOf s (tileOf s c.lt).region).1
  let rows := List.range (mRows c.d)
  let l := rows.flatMap fun r =>
    let a := base + mBasinRow c.d r
    (cleanPieces s (mLen c.d / 512 + 2) a 0 (mLen c.d)).map fun p => (localRow c r + p.1, basinBytes s (a + p.1) p.2)
  let failed := (List.range (mParts c.d)).filter fun i =>
    (partRows c.d i).any fun r => poisonIn s (base + mBasinRow c.d r) (mLen c.d) != []
  let s1 := rows.foldl (fun s r => countPoison s (base + mBasinRow c.d r) (mLen c.d)) s
  resParts (updTile s1 c.lt fun t => { t with spad := putRows t.spad l }) c (mTotal c.d) 0x40 failed

/-- BASIN_WRITE. -/
def actBasinWrite (s : State) (c : FireCtx) : FireRes :=
  let base := (allotOf s (tileOf s c.lt).region).1
  let sp := (tileOf s c.lt).spad
  let s1 := (List.range (mRows c.d)).foldl (fun s r =>
    basinPut s (base + mBasinRow c.d r) (spadRead sp (localRow c r) (mLen c.d))) s
  resParts (updTile s1 c.lt fun t => { t with spad := chargeRd t.spad (rngCost (localRngs c)) }) c (mTotal c.d) 0 []

/-! ## STORE_LOAD (R45, R113) -/

/-- A codebook entry slot as the load stores it: bits [63:40] of a CB_MXFP4 slot become zero (R44). -/
def loadSlot (tag : Nat) (l : List Byte) : List Byte :=
  if tag = 2 then (List.zip (List.range l.length) l).map fun x => if x.1 % 8 < 5 then x.2 else 0 else l

def storeLoadChecks (s : State) (c : FireCtx) : List Nat :=
  chk (decide (32768 < mTotal c.d)) stFieldInvalid ++ rangeChecks s c (localRngs c) []

/-- STORE_LOAD: the rows fill the half from its first byte, and the tag is set with the first byte written; a load of no byte leaves the
half as it was (R45). -/
def actStoreLoad (s : State) (c : FireCtx) : FireRes :=
  let sp := (tileOf s c.lt).spad
  let bytes := loadSlot (mTagSet c.d) ((List.range (mRows c.d)).flatMap fun r => spadRead sp (localRow c r) (mLen c.d))
  resParts (updTile s c.lt fun t =>
    { t with
      spad := chargeRd t.spad (rngCost (localRngs c))
      halves := if mTotal c.d = 0 then t.halves
        else sset halfReset t.halves (mHalf2 c.d) ⟨mTagSet c.d, memWrL (sget halfReset t.halves (mHalf2 c.d)).data 0 bytes⟩ })
    c (mTotal c.d) 0 []

/-! ## SPARSIFY (R169 to R171, Table 6.4) -/

def spDense (d : Nat) : Nat := fld (mRemote d) 0 26
def spDenseEn (d : Nat) : Bool := bitOf (mRemote d) 26
def spList (d : Nat) : Nat := fld (mRemote d) 27 26
def spFmt (d : Nat) : Nat := fld (mRemote d) 53 4
def spBlockLog (d : Nat) : Nat := fld (mRemote d) 57 4 + 7

/-- Bytes of an element. -/
def spElem (d : Nat) : Nat := Nat.max 1 (fmtBits (spFmt d) / 8)
/-- Elements of a row. -/
def spCols (d : Nat) : Nat := mLen d / spElem d
def spNblk (d : Nat) : Nat := ceilDiv (spCols d) (2 ^ spBlockLog d)

/-- Bytes of a list of `n` entries: header, table, indices, values, each padded to 64 bytes (R163). -/
def spTable (d : Nat) : Nat := alignUp (4 * (mRows d * spNblk d + 1)) 64
def spTotal (d n : Nat) : Nat := 64 + spTable d + alignUp (2 * n) 64 + alignUp (spElem d * n) 64

/-- Whether an element is retained: NaN, or a magnitude above THRESHOLD (R169). -/
def spKeep (fmt : Nat) (th : F32) (code : Nat) : Bool :=
  match decFmt fmt code with
  | .nan => true
  | .inf _ => true
  | .fin _ m e =>
    match f32 th with
    | .fin _ tm te => decide (tm * 2 ^ (te - min e te).toNat < m * 2 ^ (e - min e te).toNat)
    | _ => false

/-- Retained (column, code) pairs of row `r`. -/
def spRow (sp : Spad) (c : FireCtx) (r : Nat) : List (Nat × Nat) :=
  let row := spadRead sp (localRow c r) (mLen c.d)
  (List.range (spCols c.d)).filterMap fun i =>
    let code := elemAt (spFmt c.d) row i
    if spKeep (spFmt c.d) (BitVec.ofNat 32 (mParam0 c.d)) code then some (i, code) else none

/-- First entry of each segment, then NNZ. -/
def spOffsets (d : Nat) (rows : List (List (Nat × Nat))) : List Nat :=
  let counts := rows.flatMap fun r => (List.range (spNblk d)).map fun b =>
    (r.filter fun e => e.1 / 2 ^ spBlockLog d == b).length
  counts.foldl (fun l n => l ++ [l.getLastD 0 + n]) [0]

/-- The header of Table 6.1. -/
def spHeader (d n : Nat) : List Byte :=
  padTo (leBytes 1 2 ++ leBytes (spFmt d) 1 ++ leBytes (spBlockLog d) 1 ++ leBytes (mRows d) 4 ++ leBytes (spCols d) 4 ++
    leBytes n 4 ++ leBytes 64 4 ++ leBytes (64 + spTable d) 4 ++ leBytes (64 + spTable d + alignUp (2 * n) 64) 4 ++
    leBytes (spTotal d n) 4) 64

/-- Offset table, index array and value array. -/
def spBody (d : Nat) (rows : List (List (Nat × Nat))) : List Byte :=
  let es := rows.flatMap id
  let pad := fun (l : List Byte) => padTo l (alignUp l.length 64)
  pad ((spOffsets d rows).flatMap fun o => leBytes o 4) ++
    pad (es.flatMap fun e => leBytes (e.1 % 2 ^ spBlockLog d) 2) ++
    pad (es.flatMap fun e => leBytes e.2 (spElem d))

def sparsifyChecks (s : State) (c : FireCtx) : List Nat :=
  rangeChecks s c (localRngs c)
    ((if spDenseEn c.d then rowRngs (spDense c.d) (mRemoteStride c.d) (mRows c.d) (mLen c.d) else []) ++
      [(spList c.d, spTotal c.d (mParam1 c.d))])

/-- Writes bytes of one word straight to the array; bytes that the merge buffer holds for it reach the array first. -/
def directWord (sp : Spad) (w : Nat) (part : List Host.Cell) : Spad :=
  if part.length = 64 then fullWord sp w part
  else arrayWord (if sp.mb.any fun e => e.word == w then evictLine sp (w / 8) else sp) w part

/-- Writes a byte list word by word without the merge buffer (R170); `fuel` bounds the words.  It charges no slots. -/
def putLines : Nat → Spad → Nat → List Byte → Spad
  | 0, sp, _, _ => sp
  | n + 1, sp, a, l =>
    if l = [] then sp
    else putLines n (directWord sp (a / 64) (cellsFrom (a % 64) (l.take (64 - a % 64)))) (a + (64 - a % 64)) (l.drop (64 - a % 64))

/-- One byte string of SPARSIFY's output. -/
def putLine (sp : Spad) (a : Nat) (l : List Byte) : Spad := putLines (l.length / 64 + 2) sp a l

/-- SPARSIFY: one read slot per 512 source bytes, one write slot per 512 dense bytes and one per 512 list bytes (R170); beyond CAPACITY it fails with LIST_FULL, writes no header, and what the list space beyond the header
holds is a free value. -/
def actSparsify (s : State) (c : FireCtx) : FireRes :=
  let sp := (tileOf s c.lt).spad
  let dense := if spDenseEn c.d then (List.range (mRows c.d)).map fun r =>
      (spDense c.d + mRemoteStride c.d * r, spadRead sp (localRow c r) (mLen c.d)) else []
  let rows := (List.range (mRows c.d)).map (spRow sp c)
  let n := (rows.map (·.length)).foldl (· + ·) 0
  let denseSlots := if spDenseEn c.d then ceilDiv (mTotal c.d) 512 else 0
  let sp1 := dense.foldl (fun sp x => putLine sp x.1 x.2) (chargeWr (chargeRd sp (ceilDiv (mTotal c.d) 512)) denseSlots)
  if n ≤ mParam1 c.d then
    let sp2 := chargeWr (putLine (putLine sp1 (spList c.d + 64) (spBody c.d rows)) (spList c.d) (spHeader c.d n))
      (ceilDiv (spTotal c.d n) 512)
    resParts (updTile s c.lt fun t => { t with spad := sp2 }) c (mTotal c.d) 0 []
  else
    let f := takeFree s
    let body := (List.range (spTotal c.d (mParam1 c.d) - 64)).map (Config.freeByte f.1)
    resParts (updTile f.2 c.lt fun t =>
      { t with spad := chargeWr (putLine sp1 (spList c.d + 64) body) (ceilDiv body.length 512) }) c 0 0x20 [0]

/-! ## Rows of the table -/

def execGet (lt q : Nat) (s : State) : Out := fireRow s lt q (isOp 2 2) getChecks actGet
end Sys2Proof.Machine
end

