-- ==== Sys2Proof/Machine/Matrix.lean ====
section
/-! DEFINITION. The matrix engine: MATMUL (chapter 02, R109 to R111, R172, R173, Table 4.6). -/

namespace Sys2Proof.Machine

/-! ## Fields (Table 4.6) -/

def mWAddr (d : Nat) : Nat := fld d 128 26
def mWFmt (d : Nat) : Nat := fld d 154 4
def mAAddr (d : Nat) : Nat := fld d 158 26
def mAFmt (d : Nat) : Nat := fld d 184 4
def mOAddr (d : Nat) : Nat := fld d 188 26
def mOFmt (d : Nat) : Nat := fld d 214 4
def mmRows (d : Nat) : Nat := fld d 218 6 + 1
def mK (d : Nat) : Nat := fld d 224 20
def mN (d : Nat) : Nat := fld d 244 16
def mAStride (d : Nat) : Nat := 64 * fld d 260 16
def mOStride (d : Nat) : Nat := 64 * fld d 276 16
def mHalf (d : Nat) : Nat := 2 * fld d 292 1 + fld d 293 1
def mRecBase (d : Nat) : Nat := fld d 294 8
def mE1 (d : Nat) : Nat := fld d 302 2
def mE2 (d : Nat) : Nat := fld d 304 2
def mE3 (d : Nat) : Nat := fld d 306 3
def mE4 (d : Nat) : Bool := bitOf d 309
def mSat (d : Nat) : Bool := bitOf d 310
def mEpi (d : Nat) : Nat := fld d 312 26
def mE1Scalar (d : Nat) : F32 := BitVec.ofNat 32 (fld d 338 32)
def mE4Scalar (d : Nat) : F32 := BitVec.ofNat 32 (fld d 370 32)

/-! ## Stationary blocks (Table 2.3, R39, R42 to R44, R110) -/

/-- Columns of a stored block, by weight format and the tag of the named half. -/
def blockCols (fmt tag : Nat) : Nat :=
  match fmt with
  | 0 => 64
  | 5 => 8
  | 6 => 8
  | 7 => if tag = 2 then 64 else 32
  | _ => 32

/-- Bytes of a stored block. -/
def wBlockBytes (fmt tag : Nat) : Nat :=
  match fmt with
  | 1 => 3072
  | 5 => 2048
  | 6 => 2048
  | 7 => if tag = 2 then 1536 else 768
  | _ => 4096

/-- Address and scale record of block (b, j) (R110). -/
def blockAt (d w bs j b jj : Nat) : Nat × Nat :=
  if bitOf d 402 then
    let g := Nat.max 1 (fld d 403 8)
    (w + 256 * (b / g * fld d 411 20 + b % g * fld d 431 20 + jj * fld d 451 20),
      mRecBase d + b / g * fld d 471 8 + b % g * fld d 479 8 + jj * fld d 487 8)
  else (w + (b * j + jj) * bs, mRecBase d + b * j + jj)

def halfOf (t : Tile) (h : Nat) : HalfStore := sget halfReset t.halves h

/-- Number of `n` little-endian bytes of a half. -/
def halfNum (h : HalfStore) (a n : Nat) : Nat := ofLe (memRdN h.data a n)

/-- Element k of column n of a stored block at address `a` with scale record `rec` (Table 2.3, R36, R40, R43). -/
def weightAt (sp : Spad) (h : HalfStore) (fmt a rec n k : Nat) : FpVal :=
  match fmt with
  | 0 =>
    fpMulX (decE2M1 (fld (spadNum sp (a + 64 * n + k / 2) 1) (4 * (k % 2)) 4)) (decE8M0 (halfNum h (256 * rec + 4 * n + k / 32) 1))
  | 1 =>
    fpMulX (decE3M2 (fld (spadNum sp (a + 96 * n + 3 * (k / 4)) 3) (6 * (k % 4)) 6)) (decE8M0 (halfNum h (128 * rec + 4 * n + k / 32) 1))
  | 5 => decBF16 (spadNum sp (a + 256 * n + 2 * k) 2)
  | 6 => decFP16 (spadNum sp (a + 256 * n + 2 * k) 2)
  | 7 =>
    let i := 16 * n + k / 8
    let code := fld (spadNum sp (a + 12 * i / 8) 2) (12 * i % 8) 12
    let e := halfNum h (8 * code) 8
    match h.tag with
    | 2 => fpMulX (decE2M1 (fld e (4 * (k % 8)) 4)) (decE8M0 (fld e 32 8))
    | 3 => decE4M3 (fld e (8 * (k % 8)) 8)
    | _ => decE5M2 (fld e (8 * (k % 8)) 8)
  | f => decFmt f (spadNum sp (a + 128 * n + k) 1)

/-! ## Accumulation (R49 to R54) -/

/-- The FP32 sum of a group of 32 exact products (R50, R54). -/
def groupSum (ps : List FpVal) : F32 := encFP32 (fpSumX ps)

/-- The slice sum of 128 products: four groups in the fixed tree (R51). -/
def sliceSum (ps : List FpVal) : F32 :=
  let g := fun i => groupSum ((ps.drop (32 * i)).take 32)
  fadd (fadd (g 0) (g 1)) (fadd (g 2) (g 3))

/-- The accumulated result of a row and a column over its K slices in order; a skipped slice adds +0
(R52, R173). -/
def dotFp (as ws : List FpVal) (skip : List Bool) : F32 :=
  let ps := chunks 128 (as.length / 128 + 1) (List.zipWith fpMulX as ws)
  let ts := (List.range ps.length).map fun j => if skip.getD j false then f32Zero else sliceSum (ps.getD j [])
  match ts with
  | [] => f32Zero
  | t0 :: rest => rest.foldl fadd t0

/-- The integer of an exact integral value. -/
def intOf : FpVal → Int
  | .fin s m _ => if s then -(m : Int) else m
  | _ => 0

/-- One saturating INT32 addition; the Bool says it clamped (R53). -/
def satAdd32 (a b : Int) : Int × Bool :=
  let v := a + b
  if v < -(2 ^ 31) then (-(2 ^ 31), true) else if 2 ^ 31 - 1 < v then (2 ^ 31 - 1, true) else (v, false)

/-- The INT8 result of a row and a column (R53). -/
def dotInt (as ws : List FpVal) : Int × Bool :=
  let ps := chunks 128 (as.length / 128 + 1) (List.zipWith (fun a w => intOf a * intOf w) as ws)
  match ps.map fun l => l.foldl (· + ·) 0 with
  | [] => (0, false)
  | t0 :: rest => rest.foldl (fun acc t => let r := satAdd32 acc.1 t; (r.1, acc.2 || r.2)) (t0, false)

/-! ## Epilogue (R56 to R59, R111) -/

/-- Stages E1 to E4 of column `c` of column block `b`. -/
def epilogue (sp : Spad) (d epi b c : Nat) (acc : F32) (int_ : Option Int) : F32 :=
  let line := epi + 512 * b
  let scale : F32 := if mE1 d = 1 then BitVec.ofNat 32 (spadNum sp (line + 4 * c) 4) else mE1Scalar d
  let e1 := match int_ with
    | some i => if mE1 d = 0 then f32OfInt i else encFP32 (fpMulX (fpOfInt i) (f32 scale))
    | none => if mE1 d = 0 then acc else fmul acc scale
  let e2 := match mE2 d with
    | 1 => fadd e1 (encFP32 (decBF16 (spadNum sp (line + 256 + 2 * c) 2)))
    | 2 => fadd e1 (BitVec.ofNat 32 (spadNum sp (line + 256 + 4 * c) 4))
    | _ => e1
  let e3 := activateFn (mE3 d) e2
  if mE4 d then fmul e3 (mE4Scalar d) else e3

/-! ## The descriptor -/

/-- Everything MATMUL needs to know about its blocks. -/
structure MatGeom where
  t : Tile
  half : HalfStore
  a : Nat
  w : Nat
  o : Nat
  slices : Nat
  cols : Nat
  nblk : Nat
  win : Option Window
deriving DecidableEq, Repr

def matGeom (s : State) (c : FireCtx) : MatGeom :=
  let t := tileOf s c.lt
  let h := halfOf t (mHalf c.d)
  let a := c.addr (mAAddr c.d) 0
  let cols := blockCols (mWFmt c.d) h.tag
  { t := t, half := h, a := a, w := c.addr (mWAddr c.d) 1, o := c.addr (mOAddr c.d) 2
    slices := ceilDiv (mK c.d) 128, cols := cols, nblk := ceilDiv (mN c.d) cols, win := windowOf t.lists a }

/-- The blocks in streaming order: column block, slice, address, record. -/
def matBlocks (d : Nat) (g : MatGeom) : List (Nat × Nat × Nat × Nat) :=
  (List.range g.nblk).flatMap fun b => (List.range g.slices).map fun j =>
    let x := blockAt d g.w (wBlockBytes (mWFmt d) g.half.tag) g.slices b j
    (b, j, x.1, x.2)

/-- Output columns of the array for the pair's rate class (R32, R38, Table 2.9). -/
def rateCols (d tag : Nat) : Nat :=
  let wb := if mWFmt d = 7 then (if tag = 2 then 4 else 8) else fmtBits (mWFmt d)
  let b := Nat.max wb (fmtBits (mAFmt d))
  if b ≤ 4 then 64 else if b ≤ 8 then 32 else 8

/-- Read slots of one stored block, streamed in sub-blocks of the rate class (R62). -/
def blockCost (d : Nat) (g : MatGeom) (a : Nat) : Nat :=
  let bs := wBlockBytes (mWFmt d) g.half.tag
  let nc := Nat.min g.cols (rateCols d g.half.tag)
  let sub := bs * nc / g.cols
  ((List.range (g.cols / nc)).map fun h => lineCost (a + h * sub) sub).foldl (· + ·) 0

/-- Rows of the activation operand, dense or expanded from a coordinate list (R172). -/
def matARows (d : Nat) (g : MatGeom) : List (List FpVal) :=
  match g.win with
  | some w => clRows g.t.spad w g.a (mAFmt d) (mmRows d) (mK d) true
  | none => (List.range (mmRows d)).map fun r => readRow g.t.spad (mAFmt d) (g.a + mAStride d * r) (mK d)

/-- Slices that every row of a valid list leaves empty (R173). -/
def matSkips (d : Nat) (g : MatGeom) : List Bool :=
  match g.win with
  | none => []
  | some w =>
    if clValid g.t.spad w g.a (mAFmt d) (mmRows d) (mK d) true then
      let h := clHdrOf (clBytes g.t.spad w g.a 0 64)
      (List.range g.slices).map fun j => (List.range (mmRows d)).all fun r => (clSegment g.t.spad w g.a h r j).isEmpty
    else []

/-- Checks at issue: block addresses (R39, R441), ranges (R78, R109), shared pages (R145), windows (R72, R73), tag (R47).  A CB12×8
descriptor whose half has none of the codebook tags is checked for range with blocks of 768 bytes and 32 columns, so that ADDR_RANGE may
come before FORMAT_TAG (DESIGN CHOICE, log entry 129). -/
def matChecks (s : State) (c : FireCtx) : List Nat :=
  let d := c.d
  let g := matGeom s c
  let bs := wBlockBytes (mWFmt d) g.half.tag
  let blocks := matBlocks d g
  let grain := if mWFmt d = 7 && g.half.tag != 2 then 256 else 512
  let ob := outRowBytes (mOFmt d) (mN d)
  let orows := rowAddrs g.o (mOStride d) (mmRows d)
  let arows := if g.win.isSome then [] else rowAddrs g.a (mAStride d) (mmRows d)
  let ab := rowBytes (mAFmt d) (mK d)
  let epis := if mE1 d = 1 || mE2 d != 0 then rowAddrs (mEpi d) 512 g.nblk else []
  let tagBad := (mWFmt d == 7 && !(decide (2 ≤ g.half.tag) && decide (g.half.tag ≤ 4))) ||
    (decide (mWFmt d < 2) && g.half.tag != 1)
  chk (!tagBad && blocks.any fun b => b.2.2.1 % grain != 0) stFieldInvalid ++
    chk (!(rangesFit orows ob && rangesFit arows ab && rangesFit epis 512 && blocks.all fun b => decide (b.2.2.1 + bs ≤ spadEnd))
      || !decide (g.a < spadEnd)) stAddrRange ++
    chk (sharedHit s c.lt (orows.map fun a => (a, ob))) stRegionBound ++
    chk (tenantTile g.t && (rangesCtl orows ob || rangesCtl arows ab || rangesCtl epis 512 ||
      (blocks.any fun b => meetsCtl b.2.2.1 bs) || rangesProtect g.t orows ob)) stAddrProtect ++
    chk tagBad stFormatTag

/-- The weight column `n` (of the whole product) over K, in order. -/
def weightCol (d : Nat) (g : MatGeom) (n : Nat) : List FpVal :=
  (List.range (mK d)).map fun k =>
    let x := blockAt d g.w (wBlockBytes (mWFmt d) g.half.tag) g.slices (n / g.cols) (k / 128)
    weightAt g.t.spad g.half (mWFmt d) x.1 x.2 (n % g.cols) (k % 128)

/-- What one output column holds: each row's FP32 value, or its INT32 value, and the INT32 clamp. -/
def matColumn (d : Nat) (g : MatGeom) (rows : List (List FpVal)) (skip : List Bool) (n : Nat) :
    List (F32 × Option Int) × Bool × Bool :=
  let ws := weightCol d g n
  let isInt := mWFmt d == 4
  let rs := rows.map fun as =>
    if isInt then
      let r := dotInt as ws
      (epilogue g.t.spad d (mEpi d) (n / g.cols) (n % g.cols) f32Zero (some r.1), some r.1, r.2)
    else (epilogue g.t.spad d (mEpi d) (n / g.cols) (n % g.cols) (dotFp as ws skip) none, none, false)
  let used := (List.zip ws (List.range ws.length)).any fun w => fpIsNan w.1 && !skip.getD (w.2 / 128) false
  (rs.map fun r => (r.1, r.2.1), rs.any (fun r => r.2.2), used)

/-- What the activation store holds while the descriptor runs (R32, R33, R172): the rows as they lie in scratchpad, or those of a list with
the code 0 at every absent position; of an invalid list the bytes are free values. -/
def activationBytes (d : Nat) (g : MatGeom) : List Byte :=
  match g.win with
  | none => (List.range (mmRows d)).flatMap fun r => spadRead g.t.spad (g.a + mAStride d * r) (rowBytes (mAFmt d) (mK d))
  | some w =>
    if clValid g.t.spad w g.a (mAFmt d) (mmRows d) (mK d) true then
      let h := clHdrOf (clBytes g.t.spad w g.a 0 64)
      (List.range (mmRows d)).flatMap fun r =>
        let es := (List.range (clNblk h)).flatMap fun b => clSegment g.t.spad w g.a h r b
        packRow (mAFmt d) ((List.range (mK d)).map fun c => (es.find? fun e => e.1 == c).elim 0 (·.2))
    else
      let bytes := spadRead g.t.spad w.base (w.limit - w.base)
      (List.range (mmRows d)).flatMap fun r => packRow (mAFmt d) ((List.range (mK d)).map fun c => (Config.clElement bytes r c).toNat)

/-- The results of column block `b` in its accumulator bank, row after row, before the epilogue (R32, R52, R53). -/
def accBank (d : Nat) (g : MatGeom) (rows : List (List FpVal)) (skip : List Bool) (b : Nat) : List (BitVec 32) :=
  let ns := (List.range g.cols).map (b * g.cols + ·) |>.filter fun n => decide (n < mN d)
  rows.flatMap fun as => ns.map fun n =>
    let ws := weightCol d g n
    if mWFmt d = 4 then BitVec.ofInt 32 (dotInt as ws).1 else dotFp as ws skip

/-- The two banks after the descriptor: block b is in bank b mod 2, so each holds the last block of its parity.  Which bank takes
a descriptor's first block is not given: bank 0 does, for every descriptor (DESIGN CHOICE, assumption 143). -/
def accBanks (d : Nat) (g : MatGeom) (rows : List (List FpVal)) (skip : List Bool) : List (Nat × List (BitVec 32)) :=
  [0, 1].filterMap fun k =>
    (((List.range g.nblk).filter fun b => b % 2 == k).getLast?).map fun b => (k, accBank d g rows skip b)

/-- Read slots of the blocks as they are streamed: a block whose first line is the last line of the block before it does not read that
line again, so a pair of CB12×8 FP8 blocks costs three (Table 2.9). -/
def streamCost (d : Nat) (g : MatGeom) (addrs : List Nat) : Nat :=
  let bs := wBlockBytes (mWFmt d) g.half.tag
  let again := if rateCols d g.half.tag < g.cols then 0
    else ((List.zip addrs (addrs.drop 1)).filter fun x => (x.1 + bs - 1) / 512 == x.2 / 512).length
  (addrs.map (blockCost d g)).foldl (· + ·) 0 - again

/-- Read slots of the activation operand: dense rows, or the header, table and arrays of its list (R172). -/
def matCostA (d : Nat) (g : MatGeom) : Nat :=
  match g.win with
  | some w => clCost g.t.spad w g.a (mAFmt d) (mmRows d)
  | none => ((List.range (mmRows d)).map fun r => lineCost (g.a + mAStride d * r) (rowBytes (mAFmt d) (mK d))).foldl (· + ·) 0

/-- MATMUL: products, accumulation, epilogue and output rows (R49 to R60, R110).  NAN_IN looks at activation and weight elements with their
block and entry scales; a NaN epilogue scale, scalar or bias leaves it clear (DESIGN CHOICE, log entry 130). -/
def actMatmul (s : State) (c : FireCtx) : FireRes :=
  let d := c.d
  let g := matGeom s c
  let rows := matARows d g
  let skip := matSkips d g
  let cols := (List.range (mN d)).map (matColumn d g rows skip)
  let outs := (List.range (mmRows d)).map fun r =>
    let vals := cols.map fun x => x.1.getD r (f32Zero, none)
    if mOFmt d = 9 then (packRow 9 (vals.map fun v => ofInt (v.2.getD 0) 32), ([] : List CvtFlags))
    else packOut (mOFmt d) (mSat d) (vals.map fun v => f32 v.1)
  let nanIn := rows.any (fun r => r.any fpIsNan) || cols.any fun x => x.2.2
  let arith := arithWord (outs.flatMap (·.2)) nanIn (cols.any fun x => x.2.1)
  let wCost := streamCost d g (((matBlocks d g).filter fun b => !skip.getD b.2.1 false).map (·.2.2.1))
  let eCost := if mE1 d = 1 || mE2 d != 0 then g.nblk else 0
  let put := fun (sp : Spad) (o : (List Byte × List CvtFlags) × Nat) => spadWrite sp (g.o + mOStride d * o.2) o.1.1
  let numbered := List.zip outs (List.range outs.length)
  let s1 := updTile s c.lt fun t =>
    { t with
      spad := numbered.foldl put (chargeRd t.spad (matCostA d g + wCost + eCost))
      actStore := activationBytes d g, accBanks := accBanks d g rows skip }
  { resOk s1 g.o (mmRows d * outRowBytes (mOFmt d) (mN d)) with arith := arith }

/-- A matrix descriptor. -/
def isMatmul (d : Nat) : Bool := dClass d == 0 && dOp d == 0

end Sys2Proof.Machine
end

