-- ==== Sys2Proof/Machine/Silt.lean ====
section
/-! DEFINITION. The Silt tier: namespaces, places, the read ladder, transactions and their rows, relocation (R282 to
R300, Tables 10.9 to 10.14). -/

namespace Sys2Proof.Machine

/-! ## Access -/

def nsOf (s : State) (h : Nat) : SNs := sget nsReset s.silt.nss h
def updSilt (s : State) (f : Silt → Silt) : State := { s with silt := f s.silt }
def updNs (s : State) (h : Nat) (f : SNs → SNs) : State :=
  updSilt s fun x => { x with nss := sset nsReset x.nss h (f (sget nsReset x.nss h)) }
def chanOf (x : Silt) (c : Nat) : SChan := sget chanReset x.chans c
def updChan (s : State) (c : Nat) (f : SChan → SChan) : State :=
  updSilt s fun x => { x with chans := sset chanReset x.chans c (f (chanOf x c)) }
def updSuper (s : State) (b : Nat) (f : SSuper → SSuper) : State :=
  updSilt s fun x => { x with supers := x.supers.map fun e => if e.1 = b then (b, f e.2) else e }
def superOf (x : Silt) (b : Nat) : Option SSuper := (x.supers.find? fun e => e.1 == b).map (·.2)

/-- Targets of a channel that were not refused, ascending (R283). -/
def targetsOf (c : SChan) : List Nat := (List.range 8).filter fun t => !bitOf c.refused t

/-- Channels that run, ascending: those not lost, with a target that was not refused. -/
def usableChans (x : Silt) : List Nat := (List.range 16).filter fun c => (chanOf x c).usable && targetsOf (chanOf x c) != []

/-- The target of a channel that holds its page of a stripe: the channel's targets in turn (log 136). -/
def targetAt (c : SChan) (stripe : Nat) : Nat :=
  let ts := targetsOf c
  ts.getD (stripe % Nat.max 1 ts.length) 0

/-- The rate in MT/s at which a channel runs: the SDR mode's, given as 0, until it is trained, then the highest interface of Table 10.7
that every one of its targets supports (R282). -/
def chanRate (x : Silt) (c : Nat) : Nat :=
  if !bitOf x.trained c then 0
  else if (targetsOf (chanOf x c)).any fun t => bitOf (chanOf x c).ddr3 t then 1600 else 3600

/-- A Silt event. -/
def siltEvent (s : State) (code sub : Nat) (payload : List Byte) : State := devEvent s code 11 sub payload

/-! ## Places (R285) -/

/-- The block of a plane of a target of a channel in a superblock. -/
def blockKey (sb chan target plane : Nat) : Nat := ((sb * 16 + chan) * 8 + target) * 4 + plane
def keyOf (u : SUnit) : Nat := blockKey u.sb u.chan u.target u.plane
def keyChan (k : Nat) : Nat := k / 32 % 16

def blockOf (x : Silt) (k : Nat) : SBlock := sget blockReset x.blocks k
def updBlock (s : State) (k : Nat) (f : SBlock → SBlock) : State :=
  updSilt s fun x => { x with blocks := sset blockReset x.blocks k (f (blockOf x k)) }

/-- How many spares of the plane have taken a block's place: one each time that it was retired. -/
def spareNo (x : Silt) (k : Nat) : Nat := x.badBlocks.count k

/-- Whether page `p` of a superblock is the parity page of its stripe: none with one channel. -/
def isParity (b : SSuper) (p : Nat) : Bool :=
  let c := b.chans.length
  decide (2 ≤ c) && p % c == p / c % c

/-- Stripes of a superblock: the pages of every plane of the targets that each of its channels has (log 136). -/
def superStripes (x : Silt) (b : SSuper) : Nat :=
  let ts := b.chans.map fun c => (targetsOf (chanOf x c)).length
  x.pagesPerBlock * x.planes * ts.foldl Nat.min (ts.headD 0)

/-- Pages of a superblock. -/
def superPages (x : Silt) (b : SSuper) : Nat := superStripes x b * b.chans.length

/-- Where a stripe's page on a channel lies. -/
def placeOf (x : Silt) (sb stripe chan txn : Nat) (data : List Byte) : SUnit :=
  let n := Nat.max 1 (targetsOf (chanOf x chan)).length
  let t := targetAt (chanOf x chan) stripe
  let pl := stripe / n % Nat.max 1 x.planes
  { sb := sb, stripe := stripe, chan := chan, txn := txn, data := data, target := t, plane := pl
    page := stripe / (n * Nat.max 1 x.planes), gen := spareNo x (blockKey sb chan t pl) }

/-- A superblock that begins to take pages. -/
def newSuper (s : State) (pslc : Bool) (no erases : Nat) : SSuper :=
  { no := no, pslc := pslc, chans := usableChans s.silt, used := 0, isOpen := true, since := wallSecs s
    seq := (s.silt.supers.map fun e => e.2.seq + 1).foldl Nat.max 0, erases := erases
    hist := List.replicate 8 0, ends := List.replicate 12 0, recent := [] }

/-- The superblock that takes the next page of a zone: the open one with room, else a free one with the fewest
erases, which is one never used while there is one (R297).  Opening one on a single channel raises SILT_NO_PARITY. -/
def openSuper (s : State) (pslc : Bool) : State × Nat :=
  let x := s.silt
  match x.supers.find? fun e => e.2.isOpen && e.2.pslc == pslc && decide (e.2.used < superPages x e.2) with
  | some e => (s, e.1)
  | none =>
    let free := x.supers.filter fun e => !e.2.isOpen && e.2.used == 0 && e.2.pslc == pslc
    let best := free.foldl (fun acc e => match acc with
      | none => some e
      | some b => if e.2.erases < b.2.erases then some e else some b) none
    let next := (x.supers.map fun e => e.1 + 1).foldl Nat.max 0
    let b := match best with
      | some e => if next < x.blockCount ∧ 0 < e.2.erases then newSuper s pslc next 0 else newSuper s pslc e.1 e.2.erases
      | none => newSuper s pslc next 0
    let closed := x.supers.map fun e => if e.2.isOpen && e.2.pslc == pslc then (e.1, { e.2 with isOpen := false }) else e
    let s1 := updSilt s fun x => { x with supers := sins b.no b (sdel b.no closed) }
    (if b.chans.length = 1 then siltEvent s1 0x0515 (b.chans.headD 0) [] else s1, b.no)

/-- Counts a program on a channel. -/
def countProgram (s : State) (c : Nat) : State := updChan s c fun c => { c with programs := satAdd c.programs 1 48 }

/-- The place of the next data page of a zone; a parity page that it passes is programmed. -/
def takePage (s : State) (pslc : Bool) : State × (Nat × Nat × Nat) :=
  let r := openSuper s pslc
  match superOf r.1.silt r.2 with
  | none => (r.1, (r.2, 0, 0))
  | some b =>
    let c := Nat.max 1 b.chans.length
    let parity := fun (s : State) p => if isParity b p then countProgram s (b.chans.getD (p % c) 0) else s
    let p := if isParity b b.used then b.used + 1 else b.used
    let next := if isParity b (p + 1) then p + 2 else p + 1
    let s1 := parity (parity r.1 b.used) (p + 1)
    (updSuper s1 r.2 fun b => { b with used := next, isOpen := decide (next < superPages r.1.silt b) },
      (r.2, p / c, b.chans.getD (p % c) 0))

/-- Places a list of units, programming each on its channel. -/
def placeUnits (s : State) (pslc : Bool) (no : Nat) (us : List (Nat × List Byte)) : State × List (Nat × SUnit) :=
  us.foldl (fun acc u =>
    let r := takePage acc.1 pslc
    let s1 := countProgram r.1 r.2.2.2
    (s1, acc.2 ++ [(u.1, placeOf s1.silt r.2.1 r.2.2.1 r.2.2.2 no u.2)])) (s, [])

/-- Map entry of a unit (Table 10.9): LUN 0, and as BLOCK the superblock's number or the spare's that stands for it (log 136). -/
def mapEntry (pslc : Bool) (u : SUnit) : Nat :=
  2 ^ 63 + u.chan % 16 * 2 ^ 59 + u.target % 8 * 2 ^ 56 + u.plane % 4 * 2 ^ 52 +
    (if u.gen = 0 then u.sb % 2 ^ 16 else (Config.spareBlock (keyOf u) u.gen).toNat) * 2 ^ 36 + u.page % 2 ^ 12 * 2 ^ 24 + b2n pslc * 2 ^ 23

/-- Codeword `sub` of a unit's page (Table 10.8): the data encrypted under the tweak 4 × UNIT + SUB (R287), the fields, the CRC-32 of
R243 over the bytes before it, and the parity. -/
def codeword (n : SNs) (h unit sub : Nat) (u : SUnit) : List Byte :=
  let plain := sliceBytes u.data (4096 * sub) 4096
  let body := (List.range 4096).map (Config.xtsByte n.wrap (4 * unit + sub) plain) ++ leBytes unit 8 ++ leBytes h 2 ++ leBytes sub 1 ++
    leBytes (b2n n.pslc) 1 ++ leBytes u.txn 8 ++ zeros 8
  let head := body ++ leBytes (crc32 body) 4
  head ++ (List.range 416).map (Config.ldpcByte head)

/-! ## Stages (R300) -/

/-- Spare blocks as a percentage, rounded down. -/
def sparePct (n : SNs) : Nat := if n.blocks = 0 then 0 else n.spare * 100 / n.blocks

/-- Mean erase count of the superblocks that hold units of a namespace. -/
def eraseMean (x : Silt) (n : SNs) : Nat :=
  let bs := (n.units.map fun u => u.2.sb).eraseDups
  if bs = [] then 0 else (bs.map fun b => (superOf x b).elim 0 (·.erases)).foldl (· + ·) 0 / bs.length

/-- Rated endurance of a namespace (R297). -/
def ratedOf (x : Silt) (n : SNs) : Nat :=
  if n.pslc then (if n.endurance = 0 then 10 * x.tlcRated else n.endurance) else x.tlcRated

/-- Raises a stage of a namespace, once. -/
def raiseStage (s : State) (h k : Nat) : State :=
  if bitOf (nsOf s h).raised k then s
  else updNs s h fun n => { n with raised := setFld n.raised k 1 1, stage := Nat.max n.stage (k % 4), readonly := n.readonly || k == 4 }

/-- Raises a stage with its event. -/
def stageEvent (s : State) (h k code : Nat) : State :=
  if bitOf (nsOf s h).raised k then s else siltEvent (raiseStage s h k) code 0xFF (leBytes h 2)

/-- Reads of the last 24 hours among those noted. -/
def lastDay (s : State) (l : List (Nat × Bool)) : List (Nat × Bool) := l.filter fun e => decide (wallSecs s - e.1 ≤ 86400)

/-- Raises stages 1 and 4 of a namespace when their conditions hold (Table 10.12). -/
def siltStages (s : State) (h : Nat) : State :=
  let n := nsOf s h
  if !n.opened then s
  else
    let rd := lastDay s n.recent
    let w := decide (ratedOf s.silt n * 80 ≤ eraseMean s.silt n * 100 ∧ 0 < n.units.length) ||
      (rd != [] && decide (rd.length ≤ (rd.filter (·.2)).length * 100))
    let s1 := if w then stageEvent s h 1 0x0510 else s
    if n.spare * 100 < 2 * n.blocks then stageEvent s1 h 4 0x0513 else s1

/-- Notes program times of a zone in µs: the mean of the last 1,024 programs, whose first value is the one at first use; a mean above 1.5
times it raises stage 2 of the zone's namespaces (Table 10.12, log 162). -/
def noteTimes (s : State) (pslc : Bool) (ts : List Nat) : State :=
  let z := b2n pslc
  let l0 := s.silt.progTimes.getD z [] ++ ts
  let l := l0.drop (l0.length - 1024)
  let mean := l.foldl (· + ·) 0 / Nat.max 1 l.length
  let base0 := s.silt.tprogBase.getD z 0
  let base := if base0 = 0 ∧ l.length = 1024 then mean else base0
  if ts = [] then s
  else
    let s1 := updSilt s fun x => { x with
      progTimes := modAt (fun _ => l) x.progTimes z, tprogMean := modAt (fun _ => mean) x.tprogMean z
      tprogBase := modAt (fun _ => base) x.tprogBase z }
    if base ≠ 0 ∧ 3 * base < 2 * mean then
      (s1.silt.nss.filter fun n => n.2.pslc == pslc).foldl (fun s n => stageEvent s n.1 2 0x0511) s1
    else s1

/-! ## The read ladder (R295, Table 10.10a) -/

/-- Channels of a superblock that are lost. -/
def lostChans (x : Silt) (b : SSuper) : List Nat := b.chans.filter fun c => !(chanOf x c).usable

/-- The step at which the ladder starts for a unit's block: the recorded one less one. -/
def ladderFrom (x : Silt) (u : SUnit) : Nat := (blockOf x (keyOf u)).ladder - 1

/-- Whether a unit's target declares no read-retry levels. -/
def noRetryAt (x : Silt) (u : SUnit) : Bool := bitOf (chanOf x u.chan).noRetry u.target

/-- The step at which a codeword decodes: at least the first step tried, stripe rebuild for a lost channel,
failure where no rebuild exists.  `obs` is the least step that would give it; a target that declares no read-retry levels skips steps 1 to
7 (R283). -/
def ladderStep (x : Silt) (u : SUnit) (obs : Nat) : Nat :=
  match superOf x u.sb with
  | none => 11
  | some b =>
    let lost := lostChans x b
    let m := Nat.max (ladderFrom x u) obs
    let n := if lost.contains u.chan then Nat.max 10 obs else if noRetryAt x u && decide (1 ≤ m) && decide (m ≤ 7) then 8 else m
    if n < 10 then n
    else if n = 10 && decide (2 ≤ b.chans.length) && decide ((lost.filter (· != u.chan)).length = 0) then 10
    else 11

/-- Reads of the page on its own channel until the ladder ends at a step: one a step up to 7, three at step 8, five at step 9. -/
def ladderReads (x : Silt) (u : SUnit) (step : Nat) : Nat :=
  if (chanOf x u.chan).usable then
    ((List.range 10).map fun i =>
      if i < ladderFrom x u ∨ step < i ∨ (noRetryAt x u = true ∧ 1 ≤ i ∧ i ≤ 7) then 0 else if i ≤ 7 then 1 else if i = 8 then 3 else 5).foldl (· + ·) 0
  else 0

/-- Adds one to a place of a histogram. -/
def histInc (l : List Nat) (k : Nat) : List Nat := modAt (fun n => satAdd n 1 32) l k

/-- Counts a decode in its superblock and records the step for its block (R295, R296, R298): `o` is the observed least step and, in bits
[6:4], the margin bin. -/
def countSuper (s : State) (u : SUnit) (o step : Nat) : State :=
  let others := if step = 10 then ((superOf s.silt u.sb).elim [] (·.chans)).filter (· != u.chan) else []
  let s1 := updChan s u.chan fun c => { c with reads := satAdd c.reads (ladderReads s.silt u step) 48 }
  let s2 := others.foldl (fun s c => updChan s c fun c => { c with reads := satAdd c.reads 1 48 }) s1
  let s3 := updBlock s2 (keyOf u) fun b =>
    { ladder := if step < 11 then step else b.ladder
      step9 := (if 9 ≤ step then [wallSecs s] else []) ++ b.step9.filter fun t => decide (wallSecs s - t ≤ 86400) }
  updSuper s3 u.sb fun b => { b with
    hist := histInc b.hist (o / 16 % 8), ends := histInc b.ends step, recent := (wallSecs s, decide (3 ≤ step)) :: lastDay s b.recent }

/-- Counts one codeword read (Table 10.14). -/
def countRead (s : State) (h : Nat) (u : SUnit) (o step : Nat) : State :=
  updNs (countSuper s u o step) h fun n => { n with
    ladderHist := histInc n.ladderHist step, marginHist := histInc n.marginHist (o / 16 % 8)
    ue := if step = 11 then satAdd n.ue 1 32 else n.ue, recent := (wallSecs s, decide (3 ≤ step)) :: lastDay s n.recent }

/-! ## Parameter pages (R283) -/

/-- Whether the controller takes a target with this parameter page. -/
def pageOk (p : ParamPage) : Bool :=
  p.dataBytes == 16384 && decide (1792 ≤ p.spareBytes) && p.pslc && decide (p.tprogTlc ≤ 2000) && decide (p.tprogPslc ≤ 400) &&
    decide (p.tErase ≤ 15000) && p.newer

/-- Reads parameter pages, listed by channel · 8 + target: a target that lacks anything is refused in SLT_CH_STATUS, one that declares no
retry levels or does not offer NV-LPDDR4 is noted.  Pages of a block, planes, blocks of a plane and rated endurance are the least that an accepted target declares
(log 136); a target not listed stays as it is. -/
def readParamPages (s : State) (ps : List (Nat × ParamPage)) : State :=
  let s1 := ps.foldl (fun s p => updChan s (p.1 / 8 % 16) fun c =>
    let put := fun (m : Nat) (b : Bool) => setFld m (p.1 % 8) 1 (b2n b)
    { c with
      refused := put c.refused (!pageOk p.2), noRetry := put c.noRetry (pageOk p.2 && !p.2.retry)
      ddr3 := put c.ddr3 (pageOk p.2 && !p.2.lpddr4) }) s
  match (ps.filter fun p => pageOk p.2).map (·.2) with
  | [] => s1
  | p :: t => updSilt s1 fun x => { x with
      pagesPerBlock := (t.map (·.pagesPerBlock)).foldl Nat.min p.pagesPerBlock
      tlcRated := (t.map (·.tlcRated)).foldl Nat.min p.tlcRated
      planes := (t.map (·.planes)).foldl Nat.min p.planes
      blockCount := (t.map (·.blocks)).foldl Nat.min p.blocks }

/-- The rest of a channel's initialisation: training one by one (R282), the scan for factory-marked bad blocks on a channel's first
(R298), the journal records that do not read back (R293), and a sample page of every superblock that holds data (R299). -/
def startSilt (s : State) (x : SiltStart) : State :=
  let on := (usableChans s.silt).foldl (fun m c => setFld m c 1 1) 0
  let bad := x.factoryBad.filter fun k => bitOf on (keyChan k) && !bitOf s.silt.scanned (keyChan k)
  let s1 := updSilt s fun y => { y with
    trained := on, scanned := y.scanned ||| on, badBlocks := y.badBlocks ++ bad, unread := x.unread }
  (s1.silt.supers.filter fun e => e.2.used != 0).foldl (fun s e =>
    let o := sget 0 x.samples e.1
    let u := placeOf s.silt e.1 0 (e.2.chans.headD 0) 0 []
    countSuper s u o (ladderStep s.silt u (o % 16))) s1

/-! ## Transactions (R290 to R292) -/

/-- Whether an earlier transaction in flight covers one of the units. -/
def overlaps (x : Silt) (no ns : Nat) (us : List Nat) : Bool :=
  x.txns.any fun t => decide (t.no < no) && t.ns == ns && t.units.any fun u => us.contains u.1

/-- Starts the transactions that wait on none: their units are placed and programmed. -/
def startTxns (s : State) : State :=
  s.silt.txns.foldl (fun s t =>
    if t.stage == .waiting && !s.silt.halted && !overlaps s.silt t.no t.ns (t.units.map (·.1)) then
      let r := placeUnits s (nsOf s t.ns).pslc t.no (t.units.map fun u => (u.1, u.2.data))
      updSilt r.1 fun x => { x with txns := mapIf (fun y => y.no == t.no) (fun y => { y with stage := .programming, units := r.2 }) x.txns }
    else s) s

/-- Opens a transaction on units with their data. -/
def openTxn (s : State) (h region : Nat) (issuer : Option (Nat × Nat)) (us : List (Nat × List Byte)) : State :=
  let no := s.silt.nextTxn
  let t : STxn :=
    { no := no, ns := h, issuer := issuer, region := region, step := stepOf s region, attempt := attemptOf s region
      stage := .waiting, units := us.map fun u => (u.1, { sb := 0, stripe := 0, chan := 0, txn := no, data := u.2 }) }
  startTxns (updSilt s fun x => { x with nextTxn := no + 1, txns := x.txns ++ [t] })

/-- Ends the parts of the descriptor that issued a transaction. -/
def endIssuer (s : State) (t : STxn) (ok : Bool) (detail : Nat) : State :=
  match t.issuer with
  | none => s
  | some (lt, fid) =>
    match (tileOf s lt).fired.find? fun f => f.fid == fid with
    | none => s
    | some f =>
      let g := (List.range f.parts).foldl (fun f i => if ok then partDone f i else partFailed f i stPartFail detail) f
      let s1 := updTile s lt fun t => updFired t fid fun _ => g
      if ok then s1 else failDesc s1 lt stPartFail f.q f.idx

/-- Retires the block that stands for a key (R298): a spare of the plane takes its place; `moved` says what becomes of its units. -/
def retireOnly (s : State) (k : Nat) : State :=
  let owners := (s.silt.nss.filter fun n => n.2.units.any fun u => keyOf u.2 == k && u.2.gen == spareNo s.silt k).map (·.1)
  let s1 := updSilt s fun x => { x with badBlocks := x.badBlocks ++ [k], blocks := sdel k x.blocks }
  let s2 := owners.foldl (fun s h => siltStages (updNs s h fun n =>
    { n with retired := satAdd n.retired 1 32, spare := n.spare - 1 }) h) s1
  siltEvent s2 0x0512 (keyChan k) (leBytes (k / 512) 4)

/-- Erases a superblock that is full or closed and holds no mapped unit and no unit in flight; a block in `eraseFail` does not erase and
is retired (R298). -/
def reclaimSuper (eraseFail : List Nat) (s : State) (b : Nat) : State :=
  let held := s.silt.nss.any (fun n => n.2.units.any fun u => u.2.sb == b) ||
    s.silt.txns.any fun t => t.stage != .waiting && t.units.any fun u => u.2.sb == b
  match superOf s.silt b with
  | none => s
  | some x =>
    if held || x.isOpen || x.used == 0 then s
    else
      let s1 := x.chans.foldl (fun s c => updChan s c fun c => { c with erases := satAdd c.erases 1 48 }) s
      let s2 := updSuper s1 b fun x => { x with
        used := 0, erases := x.erases + 1, hist := List.replicate 8 0, ends := List.replicate 12 0, recent := [] }
      let s3 := updSilt s2 fun x => { x with blocks := x.blocks.filter fun e => e.1 / 512 != b }
      (eraseFail.filter fun k => k / 512 == b).foldl (fun s k =>
        retireOnly (updChan s (keyChan k) fun c => { c with eraseFail := satAdd c.eraseFail 1 32 }) k) s3

/-- Drops a transaction that fails (R292): what it programmed is garbage. -/
def failTxn (s : State) (t : STxn) (detail : Nat) : State :=
  let s1 := updSilt s fun x => { x with txns := x.txns.filter fun y => y.no != t.no }
  let s2 := endIssuer (updNs s1 t.ns fun n => { n with txnAbort := satAdd n.txnAbort 1 48 }) t false detail
  startTxns ((if t.stage = .waiting then [] else (t.units.map fun u => u.2.sb).eraseDups).foldl (reclaimSuper []) s2)

/-- Drops transactions that a reset ends before they commit: each counts as failed in its namespace (R292). -/
def dropTxns (x : Silt) (p : STxn → Bool) : Silt :=
  let y := (x.txns.filter p).foldl (fun x t => { x with
    nss := x.nss.map fun e => if e.1 = t.ns then (e.1, { e.2 with txnAbort := satAdd e.2.txnAbort 1 48 }) else e }) x
  { y with txns := y.txns.filter fun t => !p t }

/-- Free units of a namespace with its spare blocks, less what transactions hold (R292). -/
def freeUnits (x : Silt) (h : Nat) : Nat :=
  let n := sget nsReset x.nss h
  let inFlight := ((x.txns.filter fun t => t.ns == h).map fun t => t.units.length).foldl (· + ·) 0
  n.capacity + n.spare * x.pagesPerBlock - n.units.length - inFlight

/-- Starts the relocation of the units of a namespace that can be read; with no room they stay as they are (R300). -/
def relocate (s : State) (h : Nat) (us : List (Nat × SUnit)) : State :=
  let ok := us.filter fun u => decide (ladderStep s.silt u.2 0 < 11)
  if ok = [] ∨ s.silt.halted = true then s
  else if freeUnits s.silt h < ok.length then siltEvent s 0x0513 0xFF (leBytes h 2)
  else openTxn s h 0xFF none (ok.map fun u => (u.1, u.2.data))

/-- Relocates every unit that satisfies `p`, namespace by namespace. -/
def relocateAll (s : State) (p : SUnit → Bool) : State :=
  s.silt.nss.foldl (fun s n => relocate s n.1 (n.2.units.filter fun u => p u.2)) s

/-- Retires the block that holds a unit, unless a spare stands for it already, and relocates its valid units. -/
def retireBlock (s : State) (k gen : Nat) (moveUnits : Bool) : State :=
  if gen ≠ spareNo s.silt k then s
  else if moveUnits then relocateAll (retireOnly s k) fun u => keyOf u == k && u.gen == gen
  else retireOnly s k

/-! ## SILT_READ (R289, R295) -/

def sNs (d : Nat) : Nat := fld (mRemote d) 0 6
/-- First offset of row `r`, in 4 KiB units. -/
def sOff (d r : Nat) : Nat := fld (mRemote d) 6 40 + fld d 272 16 * r

/-- Checks that reads and writes share: reserved bits, grain, ownership, capacity (R286, R289). -/
def siltChecks (s : State) (c : FireCtx) (grain : Nat) : List Nat :=
  let n := nsOf s (sNs c.d)
  chk (fld (mRemote c.d) 46 18 != 0 || mLen c.d % grain != 0 ||
      (grain == 16384 && ((List.range (mRows c.d)).any (fun r => sOff c.d r % 4 != 0) || decide (0x4000000 < mTotal c.d)))) stFieldInvalid ++
    chk (!n.opened || n.owner != tileRegion (tileOf s c.lt) ||
      (List.range (mRows c.d)).any fun r => decide (4 * n.capacity < sOff c.d r + mLen c.d / 4096)) stRegionBound

def siltReadChecks (s : State) (c : FireCtx) : List Nat := siltChecks s c 4096 ++ rangeChecks s c [] (localRngs c)

/-- Codewords of a read in order: row, offset in the row, 4 KiB number in the namespace. -/
def siltWords (d : Nat) : List (Nat × Nat × Nat) :=
  (List.range (mRows d)).flatMap fun r => (List.range (mLen d / 4096)).map fun k => (r, 4096 * k, sOff d r + k)

/-- Reads one codeword: its bytes, or none when every step fails.  `move` says whether a block that this read retires is emptied at once
(R298). -/
def readWord (s : State) (h w o : Nat) (move : Bool := true) : State × Option (List Byte) :=
  match ((nsOf s h).units.find? fun u => u.1 == w / 4) with
  | none => (s, some (zeros 4096))
  | some u =>
    let st := ladderStep s.silt u.2 (o % 16)
    let s1 := countRead s h u.2 o st
    if st = 11 then (retireBlock (siltEvent s1 0x0514 u.2.chan (leBytes h 2 ++ leBytes (w / 4) 8)) (keyOf u.2) u.2.gen move, none)
    else
      let twice := decide (2 ≤ (blockOf s1.silt (keyOf u.2)).step9.length)
      (if twice then retireBlock s1 (keyOf u.2) u.2.gen move else s1, some (sliceBytes u.2.data (4096 * (w % 4)) 4096))

/-- SILT_READ: each codeword through the ladder; a part with a failed one ends with SILT_UE (R113, R295). -/
def actSiltRead (ladder : List Nat) (s : State) (c : FireCtx) : FireRes :=
  let ws := siltWords c.d
  let r := (List.zip ws (List.range ws.length)).foldl (fun (acc : State × List (Nat × List Byte) × List Nat) x =>
    let y := readWord acc.1 (sNs c.d) x.1.2.2 (ladder.getD x.2 0)
    match y.2 with
    | some b => (y.1, acc.2.1 ++ [(localRow c x.1.1 + x.1.2.1, b)], acc.2.2)
    | none => (y.1, acc.2.1, setIns (partOf c.d x.1.1) acc.2.2)) (s, [], [])
  resParts (siltStages (updTile r.1 c.lt fun t => { t with spad := putRows t.spad r.2.1 }) (sNs c.d)) c (mTotal c.d) 0x50 r.2.2

def execSiltRead (lt q : Nat) (ladder : List Nat) (s : State) : Out := fireRow s lt q (isOp 2 5) siltReadChecks (actSiltRead ladder)

/-! ## SILT_WRITE (R290 to R292) -/

def siltWriteChecks (s : State) (c : FireCtx) : List Nat := siltChecks s c 16384 ++ rangeChecks s c (localRngs c) []

/-- SILT_WRITE: one transaction; it fails at once in a read-only namespace or with no free unit. -/
def actSiltWrite (s : State) (c : FireCtx) : FireRes :=
  let h := sNs c.d
  let n := nsOf s h
  let sp := (tileOf s c.lt).spad
  let us := (List.range (mRows c.d)).flatMap fun r => (List.range (mLen c.d / 16384)).map fun k =>
    (sOff c.d r / 4 + k, spadRead sp (localRow c r + 16384 * k) 16384)
  let all_ := List.range (mParts c.d)
  let s1 := updTile s c.lt fun t => { t with spad := chargeRd t.spad (rngCost (localRngs c)) }
  let abort := fun (s : State) => updNs s h fun n => { n with txnAbort := satAdd n.txnAbort 1 48 }
  if n.readonly then resParts (abort s1) c 0 0x51 all_
  else if freeUnits s.silt h < us.length then resParts (abort s1) c 0 0x53 all_
  else if s.silt.halted then resParts (abort s1) c 0 0x52 all_
  else resOpen (openTxn s1 h (tileOf s c.lt).region (some (c.lt, c.fid)) us) c (mTotal c.d) (mParts c.d) (all_.map fun i => (i, 1))

/-! ## Rows of the controller -/

def findTxn (s : State) (no : Nat) : Option STxn := s.silt.txns.find? fun t => t.no == no

/-! ### The journal (R290, R291) -/

/-- A page of a journal record (Table 10.10). -/
def journalPage (ns txn no pages : Nat) (es : List (Nat × Nat)) : List Byte :=
  let body := padTo (leBytes 0x4A52 2 ++ leBytes ns 2 ++ leBytes txn 8 ++ leBytes no 2 ++ leBytes pages 2 ++ leBytes es.length 2 ++
    leBytes (b2n (no + 1 == pages)) 1 ++ zeros 45 ++ es.flatMap fun e => leBytes e.1 8 ++ leBytes e.2 8) 16376
  body ++ leBytes (crc64 body).toNat 8

/-- The journal record of a transaction: up to 1,019 entries a page. -/
def journalRec (n : SNs) (ns txn : Nat) (us : List (Nat × SUnit)) : JRec :=
  let es := us.map fun u => (u.1, mapEntry n.pslc u.2)
  let c := Nat.max 1 (ceilDiv es.length 1019)
  { txn := txn, ns := ns, units := us, pages := (List.range c).map fun i => journalPage ns txn i c ((es.drop (1019 * i)).take 1019) }

/-- Programs pages of the journal ring or of the map, which lie in the pSLC zone: on the usable channels in turn (log 161). -/
def metaPrograms (s : State) (n : Nat) : State :=
  let cs := usableChans s.silt
  let s1 := (List.range n).foldl (fun s i => countProgram s (cs.getD ((s.silt.metaPages + i) % Nat.max 1 cs.length) 0)) s
  updSilt s1 fun x => { x with metaPages := x.metaPages + n }

/-- The map entries of a namespace that stand in one map page of 2,048. -/
def mapPage (us : List (Nat × SUnit)) (k : Nat) : List (Nat × SUnit) := us.filter fun u => u.1 / 2048 == k

/-- Map pages of a namespace that differ from those last written. -/
def dirtyPages (now old : List (Nat × SUnit)) : Nat :=
  ((((now ++ old).map fun u => u.1 / 2048).eraseDups).filter fun k => mapPage now k != mapPage old k).length

/-- A checkpoint (R291): the dirty map pages are written, and the journal records up to now become reclaimable. -/
def checkpointNow (s : State) : State :=
  let n := (s.silt.nss.map fun e => dirtyPages e.2.units (sget [] s.silt.maps e.1)).foldl (· + ·) 0
  updSilt (metaPrograms s n) fun x => { x with
    maps := x.nss.map fun e => (e.1, e.2.units), checkpoint := (x.journal.getLast?).elim x.checkpoint (·.txn), journal := [] }

/-- Whether every page of a journal record is present with a valid CRC and the last carries COMMIT (R293). -/
def recGood (x : Silt) (r : JRec) : Bool :=
  !x.unread.contains r.txn && r.pages != [] &&
    ((List.range r.pages.length).all fun i =>
      let p := r.pages.getD i []
      byteField p 0 2 == 0x4A52 && byteField p 4 8 == r.txn && byteField p 12 2 == i && byteField p 14 2 == r.pages.length &&
        byteField p 16376 8 == (crc64 (p.take 16376)).toNat) &&
    byteField (r.pages.getLastD []) 18 1 % 2 == 1

/-- The map changes of a transaction. -/
def mapUnits (us : List (Nat × SUnit)) (m : List (Nat × SUnit)) : List (Nat × SUnit) := us.foldl (fun m u => sins u.1 u.2 (sdel u.1 m)) m

/-- Applies the journal's records in TXN order up to the first that is not good; those from it on are lost (R293). -/
def applyJournal (x : Silt) : Silt :=
  let rs := (x.journal.foldl (fun l r => sins r.txn r (sdel r.txn l)) []).map (·.2)
  let good := rs.takeWhile (recGood x)
  let y := good.foldl (fun x r => { x with
    nss := x.nss.map fun e => if e.1 = r.ns then (e.1, { e.2 with units := mapUnits r.units e.2.units }) else e }) x
  { y with journal := good }

/-! ### Rows -/

/-- SILT_DATA_PROGRAMS_DONE: every data program reported; a block in `failedBlocks` (by its key) failed
once, is retired, and its units are programmed again on a replacement, which a power failure under way forbids (R293).  `ok` is false
where a unit failed twice (R292): the spec gives that failure no DETAIL, which is a free value.  `times` are the program times. -/
def execSiltDataProgramsDone (no : Nat) (ok : Bool) (failedBlocks : List Nat) (s : State) (times : List Nat := []) : Out :=
  match findTxn s no with
  | none => .next s
  | some t =>
    if t.stage != .programming then .next s
    else
      let s1 := failedBlocks.foldl (fun s k =>
        let s := updChan s (keyChan k) fun c => { c with progFail := satAdd c.progFail 1 32 }
        retireBlock (raiseStage s t.ns 3) k (spareNo s.silt k) true) (noteTimes s (nsOf s t.ns).pslc times)
      let moved := t.units.filter fun u => failedBlocks.contains (keyOf u.2)
      if !ok then
        let f := takeFree s1
        .next (failTxn f.2 t (Config.freeByte f.1 0).toNat)
      else if s1.silt.halted && moved != [] then .next (failTxn s1 t 0x52)
      else
        let kept := t.units.filter fun u => !failedBlocks.contains (keyOf u.2)
        let r := placeUnits s1 (nsOf s t.ns).pslc no (moved.map fun u => (u.1, u.2.data))
        let us := kept ++ r.2
        .next (updSilt (metaPrograms r.1 (journalRec (nsOf s t.ns) t.ns no us).pages.length) fun x => { x with
          txns := mapIf (fun y => y.no == no) (fun y => { y with stage := .journal, units := us }) x.txns })

/-- The journal record's last page is programmed: the map changes and the transaction is committed (R290). -/
def commitTxn (eraseFail : List Nat) (s : State) (t : STxn) : State :=
  let old := (nsOf s t.ns).units.filter fun u => t.units.any fun v => v.1 == u.1
  let s1 := updNs s t.ns fun n => { n with
    units := mapUnits t.units n.units
    txnCommit := satAdd n.txnCommit 1 48
    relocated := if t.issuer.isNone then satAdd n.relocated t.units.length 48 else n.relocated }
  let s2 := updSilt s1 fun x => { x with
    txns := x.txns.filter (fun y => y.no != t.no), journal := x.journal ++ [journalRec (nsOf s t.ns) t.ns t.no t.units] }
  let s3 := if 4096 ≤ s2.silt.journal.length then checkpointNow s2 else s2
  let s4 := updRegion s3 t.region fun g =>
    if t.step = g.step ∧ t.attempt = g.attempt then { g with siltCommits := g.siltCommits + 1 } else g
  let s5 := endIssuer s4 t true 0
  startTxns ((old.map fun u => u.2.sb).eraseDups.foldl (reclaimSuper eraseFail) s5)

/-- SILT_TXN_COMMIT (R290); `eraseFail` are blocks that do not erase where the commit frees a superblock (R298). -/
def execSiltTxnCommit (no : Nat) (s : State) (eraseFail : List Nat := []) : Out :=
  match findTxn s no with
  | none => .next s
  | some t => whenB (t.stage == .journal) s (commitTxn eraseFail s t)

/-- SILT_CHECKPOINT (R291). -/
def execSiltCheckpoint (s : State) : Out := .next (checkpointNow s)

/-- Whether a superblock has reached its age or margin limit (R299). -/
def retentionDue (s : State) (b : SSuper) : Bool :=
  let rd := lastDay s b.recent
  let sum := fun (l : List Nat) => l.foldl (· + ·) 0
  decide (0 < b.used) &&
    (decide ((if b.pslc then 90 else 30) * 86400 ≤ wallSecs s - b.since) || decide (rd.length < (rd.filter (·.2)).length * 100) ||
      decide (sum b.hist < sum (b.hist.drop 6) * 1000))

/-- SILT_RETENTION_RELOCATE: every unit of the superblock is read back and relocated; a block with one that fails every ladder
step is retired. -/
def execSiltRetentionRelocate (sb : Nat) (ladder : List Nat) (s : State) : Out :=
  match superOf s.silt sb with
  | none => .next s
  | some b =>
    if !retentionDue s b then .next s
    else
      let us := s.silt.nss.flatMap fun n => (n.2.units.filter fun u => u.2.sb == sb).map fun u => (n.1, u)
      let r := (List.zip us (List.range us.length)).foldl (fun (acc : State × List (Nat × Nat × SUnit)) x =>
        let y := readWord acc.1 x.1.1 (4 * x.1.2.1) (ladder.getD x.2 0) false
        (y.1, if y.2.isSome then acc.2 ++ [x.1] else acc.2)) (s, [])
      let s1 := updSuper r.1 sb fun b => { b with isOpen := false }
      .next ((us.map (·.1)).eraseDups.foldl (fun s h => relocate s h ((r.2.filter fun x => x.1 == h).map (·.2))) s1)

/-- Rated endurance of a zone: the least of its namespaces', or what R297 gives by default where it has none. -/
def zoneRated (x : Silt) (pslc : Bool) : Nat :=
  let rs := (x.nss.filter fun n => n.2.pslc == pslc).map fun n => ratedOf x n.2
  rs.foldl Nat.min (rs.headD (if pslc then 10 * x.tlcRated else x.tlcRated))

/-- SILT_WEAR_RELOCATE (R297): when erase counts of a zone (0 TLC, 1 pSLC) spread by more than 10 % of rated
endurance, the superblock written first is relocated. -/
def execSiltWearRelocate (zone : Nat) (s : State) : Out :=
  let p := zone == 1
  let bs := (s.silt.supers.filter fun e => e.2.pslc == p).map (·.2)
  let es := bs.map (·.erases)
  let hi := es.foldl Nat.max 0
  let lo := es.foldl Nat.min hi
  let rated := zoneRated s.silt p
  let held := bs.filter fun b => s.silt.nss.any fun n => n.2.units.any fun u => u.2.sb == b.no
  let oldest := held.foldl (fun acc b => match acc with
    | none => some b
    | some a => if b.seq < a.seq then some b else some a) none
  match oldest with
  | none => .next s
  | some b => whenB (decide (rated < (hi - lo) * 10)) s (relocateAll (updSuper s b.no fun b => { b with isOpen := false }) fun u => u.sb == b.no)

/-- SILT_CHANNEL_LOST (R285): its pages are missing pages; affected superblocks are relocated to the rest. -/
def execSiltChannelLost (ch : Nat) (s : State) : Out :=
  if 16 ≤ ch then .fault .noSuchUnit
  else if !(chanOf s.silt ch).usable then .next s
  else
    let s1 := updChan s ch fun c => { c with usable := false }
    let hit := fun (b : SSuper) => b.chans.contains ch
    let s2 := updSilt s1 fun x => { x with supers := x.supers.map fun e => if hit e.2 then (e.1, { e.2 with isOpen := false }) else e }
    let bs := (s2.silt.supers.filter fun e => hit e.2).map (·.1)
    .next (relocateAll s2 fun u => bs.contains u.sb)

end Sys2Proof.Machine
end

