-- ==== Sys2Proof/Machine/Experts.lean ====
section
/-! DEFINITION. Sending to experts and back: SCATTER, its CLOSE messages, GATHER (R176 to R178, R181, Tables 6.5 to
6.8). -/

namespace Sys2Proof.Machine

/-! ## Message transfers (Table 8.1) -/

/-- The transport word of a message but for step, attempt, RETX and digest. -/
def msgTransport (handler slot : Nat) (inl : Bool) (len destDev destLt srcRegion : Nat) (mcast : Bool) (group : Nat) : Nat :=
  handler % 256 * 2 ^ 248 + slot % 256 * 2 ^ 240 + b2n inl * 2 ^ 239 + len % 2 ^ 16 * 2 ^ 221 + destDev % 4096 * 2 ^ 189 +
    destLt % 1024 * 2 ^ 179 + srcRegion % 32 * 2 ^ 174 + b2n mcast * 2 ^ 173 + group % 64 * 2 ^ 167

/-- Whether a fabric destination is in the region's peer table (R217). -/
def peerKnown (s : State) (r dev : Nat) : Bool := (regionOf s r).elim false fun g => g.peers.any fun p => p.device == dev

/-- R217's checks on a destination: a tile of the sender's region, or a device of its peer table.  A tile in no tenant region is of
the firmware region, whose tiles are those in no tenant region. -/
def destBad (s : State) (lt : Nat) (fabric : Bool) (dev dlt : Nat) : Bool :=
  if fabric then !peerKnown s (tileOf s lt).region dev
  else outsideRegion s lt dlt || (!tenantTile (tileOf s lt) && tenantTile (tileOf s dlt))

/-- A message transfer; a fabric one goes to the gateway of the sender's die (R218). -/
def msgXfer (s : State) (lt fid part : Nat) (k : XKind) (chan : Nat) (fabric : Bool) (dev dlt handler slot : Nat)
    (inl : List Byte) (destAddr src len retryMax retryGap : Nat) : Xfer :=
  { fid := fid, part := part, kind := k, typ := tMsg, chan := chan
    dstKind := if fabric then 1 else 0, dst := if fabric then dieOfLt s lt else dlt
    fabric := fabric, destDev := dev, destLt := dlt
    transport := msgTransport handler slot (inl != []) len dev dlt (tileRegion (tileOf s lt)) false 0
    inl := inl, pieces := piecesOf destAddr src len, retryMax := retryMax, retryGap := retryGap, retries := 0, after := 0 }

/-! ## SCATTER -/

def scRecs (d : Nat) : Nat := fld (mRemote d) 0 26
def scMap (d : Nat) : Nat := fld (mRemote d) 26 26

/-- One expert-map entry (R176). -/
def mapEntryAt (sp : Spad) (a : Nat) : ExpertMapEntry :=
  let w := spadNum sp a 8
  ⟨bitOf w 63, fld w 50 12, fld w 40 10, fld w 32 8, bitOf w 31⟩

/-- K of the record of token `r`, at most 8. -/
def scK (sp : Spad) (d r : Nat) : Nat := Nat.min (spadNum sp (scRecs d + 64 * r + 4) 1) 8

/-- Entries of the expert map of a tile's image. -/
def mapLen (s : State) (lt : Nat) : Nat := Nat.max 1 ((regionOf s (tileOf s lt).region).elim 0 fun g => g.image.elim 0 (·.experts))

/-- The map entry of rank `k` of token `r`; an index beyond the map of `n` entries is confined to it as R168 confines a list
(Table 6.9). -/
def scEntry (sp : Spad) (d n r k : Nat) : ExpertMapEntry :=
  mapEntryAt sp (scMap d + 8 * (spadNum sp (scRecs d + 64 * r + 8 + 2 * k) 2 % n))

/-- The routing key (Table 6.7). -/
def routingKey (token rank : Nat) (close : Bool) (dev lt retAddr retObj : Nat) : List Byte :=
  padTo (leBytes token 4 ++ leBytes rank 1 ++ leBytes (b2n close) 1 ++ leBytes dev 2 ++ leBytes lt 2 ++ leBytes retAddr 4 ++
    leBytes retObj 1) 32

/-- Every (row, rank) of a SCATTER with its map entry. -/
def scRoutes (sp : Spad) (d n : Nat) : List (Nat × Nat × ExpertMapEntry) :=
  (List.range (mRows d)).flatMap fun r => (List.range (scK sp d r)).map fun k => (r, k, scEntry sp d n r k)

def scatterChecks (s : State) (c : FireCtx) : List Nat :=
  let sp := (tileOf s c.lt).spad
  rangeChecks s c (localRngs c ++ [(scRecs c.d, 64 * mRows c.d), (scMap c.d, 8 * mapLen s c.lt)]) [] ++
    chk ((scRoutes sp c.d (mapLen s c.lt)).any fun x => x.2.2.valid && destBad s c.lt x.2.2.fabric x.2.2.dev x.2.2.lt) stRegionBound

/-- The row message of one (row, rank). -/
def scatterRow (s : State) (c : FireCtx) (x : Nat × Nat × ExpertMapEntry) : Xfer :=
  let sp := (tileOf s c.lt).spad
  let ret := mParam0 c.d % 2 ^ 26 + mRemoteStride c.d * (x.1 * scK sp c.d x.1 + x.2.1)
  msgXfer s c.lt c.fid (partOf c.d x.1) .scatterRow 0 x.2.2.fabric x.2.2.dev x.2.2.lt x.2.2.handler 0
    (routingKey (spadNum sp (scRecs c.d + 64 * x.1) 4) x.2.1 false s.idn.deviceId c.lt ret (mParam1 c.d % 256))
    0 (localRow c x.1) (mLen c.d) (Config.scatterRetryMax c.d).toNat (Config.scatterRetryGap c.d).toNat

/-- SCATTER: one row message for each (row, rank) with a valid map entry; a part that names an invalid entry fails
with NO_EXPERT.  Part number `mParts` stands for the CLOSE messages still to be sent. -/
def actScatter (s : State) (c : FireCtx) : FireRes :=
  let sp := (tileOf s c.lt).spad
  let rs := scRoutes sp c.d (mapLen s c.lt)
  let good := rs.filter fun x => x.2.2.valid
  let bad := (rs.filter fun x => !x.2.2.valid).foldl (fun l x => setIns (partOf c.d x.1) l) []
  let s1 := updTile s c.lt fun t => { t with
    spad := chargeRd t.spad (rngCost (localRngs c ++ [(scRecs c.d, 64 * mRows c.d)]) + rs.length)
    cnt := { t.cnt with msgSent := satAdd t.cnt.msgSent good.length 48 } }
  let opened := (List.range (mParts c.d)).filterMap fun i =>
    let n := (good.filter fun x => partOf c.d x.1 == i).length
    if n = 0 then none else some (i, n)
  { resOpen (queueXfers s1 c.lt (good.map (scatterRow s c))) c (mTotal c.d) (mParts c.d) (opened ++ [(mParts c.d, 1)]) with
    status := if bad = [] then stOk else stPartFail, detail := if bad = [] then 0 else 0x21, partFail := bad }

/-- The first entry of each (DEV, LT, HANDLER). -/
def distinctDests (es : List ExpertMapEntry) : List ExpertMapEntry :=
  es.foldl (fun l e => if l.any (fun x => x.dev == e.dev && x.lt == e.lt && x.handler == e.handler) then l else l ++ [e]) []

/-- Distinct (DEV, LT, HANDLER) of the valid entries of the whole map (R178). -/
def closeDests (s : State) (lt d : Nat) : List ExpertMapEntry :=
  let t := tileOf s lt
  let n := (regionOf s t.region).elim 0 fun g => g.image.elim 0 (·.experts)
  distinctDests (((List.range n).map fun i => mapEntryAt t.spad (scMap d + 8 * i)).filter (·.valid))

/-- A SCATTER of queue `q` whose row messages have all been answered. -/
def scatterDone (t : Tile) (q : Nat) : Option Fired :=
  t.fired.find? fun f => f.q == q && isOp 2 9 f.desc && !f.closing && f.openParts == [(mParts f.desc, 1)]

/-- SCATTER_CLOSE (R178): every row acknowledged, one CLOSE goes to each destination; where a row was not
delivered none is sent and the descriptor ends. -/
def execScatterClose (lt q : Nat) (s : State) : Out :=
  needUnit (ltOk lt && decide (q < 64))
    (match scatterDone (tileOf s lt) q with
      | none => .next s
      | some f =>
        let p := mParts f.desc
        let ds := if f.stage = 0 then closeDests s lt f.desc else []
        let xs := ds.map fun e => msgXfer s lt f.fid p .scatterClose 0 e.fabric e.dev e.lt e.handler 0
          (routingKey 0 0 true s.idn.deviceId lt 0 0) 0 0 0 (Config.scatterRetryMax f.desc).toNat
          (Config.scatterRetryGap f.desc).toNat
        let reads := if f.stage = 0 then lineCost (scMap f.desc) (8 * mapLen s lt) else 0
        let s1 := updTile s lt fun t => updFired
          { t with spad := chargeRd t.spad reads, cnt := { t.cnt with msgSent := satAdd t.cnt.msgSent xs.length 48 } } f.fid fun f =>
            { f with closing := true, openParts := if xs = [] then [] else [(p, xs.length)] }
        .next (queueXfers s1 lt xs))

/-! ## GATHER (R181) -/

/-- The posted entry, its buffer, rows and the receive record. -/
def gaEntry (c : FireCtx) : Nat := (c.inputs 0).headD 0
def gaRec (s : State) (c : FireCtx) : ExpertRec := sget expertReset (tileOf s c.lt).experts (mParam0 c.d % 8)
def gaBatch (s : State) (c : FireCtx) : Nat := (gaRec s c).batchMinus1 + 1

/-- Row-map key of position `n` of the posted buffer: device, tile, return address, return object. -/
def gaKey (s : State) (c : FireCtx) (n : Nat) : Nat × Nat × Nat × Nat :=
  let sp := (tileOf s c.lt).spad
  let a := eOffset (gaEntry c) + gaBatch s c * 64 * (gaRec s c).rowPitch + 32 * n
  (spadNum sp (a + 6) 2 % 4096, spadNum sp (a + 8) 2 % 1024, spadNum sp (a + 10) 4 % 2 ^ 26, spadNum sp (a + 14) 1)

/-- Source address of output row `n`: the entry names a buffer, so its OFFSET adds nothing here. -/
def gaSrc (s : State) (c : FireCtx) (n : Nat) : Nat :=
  mLocal c + eSlot (gaEntry c) * gaBatch s c * mLocalStride c.d + mLocalStride c.d * n

def gaRows (c : FireCtx) : List Nat := List.range (eLength (gaEntry c))

/-- The row map of the posted buffer as far as it is read. -/
def gaMap (s : State) (c : FireCtx) : Rng :=
  (eOffset (gaEntry c) + gaBatch s c * 64 * (gaRec s c).rowPitch, 32 * eLength (gaEntry c))

def gatherChecks (s : State) (c : FireCtx) : List Nat :=
  rangeChecks s c ((gaRows c).map fun n => (gaSrc s c n, mLen c.d)) [] ++
    chk ((gaRows c).any fun n => destBad s c.lt ((gaKey s c n).1 != s.idn.deviceId) (gaKey s c n).1 (gaKey s c n).2.1) stRegionBound ++
    chk (tenantTile (tileOf s c.lt) && (gaRows c).any fun n => (gaKey s c n).1 == s.idn.deviceId &&
      sharedHit s (gaKey s c n).2.1 [((gaKey s c n).2.2.1, mLen c.d)]) stRegionBound

/-- The WRITE of one returned row on the reply channel. -/
def gaXfer (s : State) (c : FireCtx) (n : Nat) : Xfer :=
  let k := gaKey s c n
  let fab := k.1 != s.idn.deviceId
  { meshXfer c.fid 0 (.gather k.2.2.2 k.2.1 k.1) tWrite k.2.1 (piecesOf k.2.2.1 (gaSrc s c n) (mLen c.d)) with
    chan := 1, fabric := fab, destDev := k.1, dstKind := b2n fab, dst := if fab then dieOfLt s c.lt else k.2.1
    transport := if fab then msgTransport 0 0 false 0 k.1 k.2.1 (tileRegion (tileOf s c.lt)) false 0 else 0 }

/-- GATHER: each row returns to its source; ARRIVE(1) follows each acknowledged write. -/
def actGather (s : State) (c : FireCtx) : FireRes :=
  let xs := (gaRows c).map (gaXfer s c)
  let s1 := updTile s c.lt fun t => { t with spad := chargeRd t.spad (rngCost (gaMap s c :: (gaRows c).map fun n => (gaSrc s c n, mLen c.d))) }
  resOpen (queueXfers s1 c.lt xs) c (xs.length * mLen c.d) 1 (if xs = [] then [] else [(0, xs.length)])

end Sys2Proof.Machine
end

