-- ==== Sys2Proof/Machine/Requests.lean ====
section
/-! DEFINITION. Outcomes of deferred commands and the run state of a region (R309 to R311, Tables 11.8, 11.17). -/

namespace Sys2Proof.Machine

/-- Status codes of commands (Table 11.12). -/
def csSuccess : Nat := 0x0000

/-- Changes the open request `id` of a function. -/
def updReq (s : State) (f id : Nat) (g : Req → Req) : State :=
  updFn s f fun v => { v with requests := mapIf (fun q => q.id == id && !q.finished) g v.requests }

/-- A deferred request reaches its outcome; REQUEST_COMPLETION writes it out. -/
def finishReq (s : State) (f id status : Nat) (result : List Byte) : State :=
  updReq { s with pwr := { s.pwr with busyAt := s.now } } f id fun q => { q with
    status := status, finished := true, result := result
    partMap := if status = csSuccess then 2 ^ (q.partsMinus1 + 1) - 1 else q.partMap }

/-- Ends the request behind an optional handle. -/
def finishOpt (s : State) (r : Option (Nat × Nat)) (status : Nat) (result : List Byte) : State :=
  match r with
  | some (f, id) => finishReq s f id status result
  | none => s

/-- STATE code of a region (Table 11.8 and the codes that QUERY_PROGRESS adds). -/
def rstateCode : RState → Nat
  | .running => 0
  | .heldUndelivered => 1
  | .stopped => 2
  | .degraded => 3
  | .resetting => 4
  | .empty => 5
  | .loaded => 6

/-- The last committed step as 64 bits, all ones for none. -/
def lastStep (g : Region) : Nat := g.lastCommitted.getD (2 ^ 64 - 1)

/-- Writes an entry other than COMPLETION and FUNCTION_ABORT while the ring has room; TOKENS wait in the ledger. -/
def ringTry (s : State) (f : Nat) (e : List Byte) : State × Bool :=
  let v := fnOf s f
  if v.backlog = [] && ringRoom v && !s.idn.compat then (ringWrite s f e, true) else (s, false)

/-- Enters a run state and posts it as RUN_STATE on the owner's ring. -/
def postRunState (s : State) (r : Nat) (st : RState) : State :=
  withRegion s r fun g =>
    ringPost (updRegion s r fun g => { g with rstate := st }) g.owner (runStateEntry r (rstateCode st) (lastStep g))

/-- RUN's result: the last committed step. -/
def runResult (g : Region) : List Byte := leBytes (lastStep g) 8

/-- Ends a region's RUN with a status. -/
def endRun (s : State) (r status : Nat) : State :=
  withRegion s r fun g =>
    updRegion (finishOpt s g.runReq status (runResult g)) r fun g => { g with
      running := false, runReq := none, runLeft := 0, runForever := false }

/-- Stops a region: RUN_STATE STOPPED and its RUN ends with the status. -/
def stopRegion (s : State) (r status : Nat) : State := endRun (postRunState s r .stopped) r status

/-! ## TOKENS entries (R311) -/

/-- The TOKENS entry of one context. -/
def tokensEntry (r step : Nat) (t : LedgerTokens) : List Byte :=
  padTo ([0x02, 0x00, BitVec.ofNat 8 r, BitVec.ofNat 8 t.tokens.length, BitVec.ofNat 8 t.stopReason, 0x00] ++ zeros 2 ++
    leBytes t.seqKey 8 ++ leBytes step 8 ++ t.tokens.flatMap fun x => leBytes x 4) 64

/-- Final tokens of a region not yet written, in commit order and ascending CTX_ID. -/
def undeliveredOf (g : Region) : List (Nat × LedgerTokens) :=
  (g.ledger.filter (·.final)).flatMap fun e =>
    (e.tokens.filter fun t => !t.delivered && t.tokens != []).map fun t => (e.step, t)

/-- Marks the tokens of (step, context) delivered. -/
def markDelivered (s : State) (r step ctx n : Nat) : State :=
  let s1 := updRegion s r fun g => { g with ledger := g.ledger.map fun e =>
    if e.step = step ∧ e.final then { e with tokens := mapIf (fun t => t.ctx == ctx) (fun t => { t with delivered := true }) e.tokens }
    else e }
  updCtx s1 ctx fun c => { c with undelivered := c.undelivered - n }

/-- Writes as many TOKENS entries as the ring takes. -/
def deliverTokens (s : State) (r : Nat) : State :=
  withRegion s r fun g =>
    if isShadow s r then s
    else ((undeliveredOf g).foldl (fun (acc : State × Bool) x =>
      if acc.2 then
        let w := ringTry acc.1 g.owner (tokensEntry r x.1 x.2)
        if w.2 then (markDelivered w.1 r x.1 x.2.ctx x.2.tokens.length, true) else (acc.1, false)
      else acc) (s, true)).1

/-- Most undelivered tokens of a context of the region. -/
def maxUndelivered (s : State) (g : Region) : Nat :=
  (g.ctxIds.map fun c => (ctxOf s c).undelivered).foldl Nat.max 0

end Sys2Proof.Machine
end

