-- ==== Sys2Proof/Machine/Sampler.lean ====
section
/-! DEFINITION. The sampler, draft-tree verification and expert gating (R153 to R156, R158, R175, R437, R438)
on values; the descriptors that call them stand in Machine/Vector.lean. -/

namespace Sys2Proof.Machine

/-- A list entry: FP32 value and token identifier (R153). -/
abbrev Cand := F32 × Nat

/-- The padding entry of R153. -/
def padCand : Cand := (f32Nan, 0xFFFFFFFF)

/-- Candidates by value descending, then token ascending; ±0 are equal values (R153). -/
def candBefore (a b : Cand) : Bool :=
  flt b.1 a.1 || (!flt a.1 b.1 && decide (a.2 < b.2))

/-- Inserts a candidate in order. -/
def candIns (c : Cand) : List Cand → List Cand
  | [] => [c]
  | d :: t => if candBefore c d then c :: d :: t else d :: candIns c t

/-- The first `k` candidates in order. -/
def candTop (k : Nat) (l : List Cand) : List Cand :=
  l.foldl (fun acc c => (candIns c acc).take k) []

/-- A list padded to `n` entries (R153). -/
def candPad (n : Nat) (l : List Cand) : List Cand := l ++ List.replicate (n - l.length) padCand

/-- SELECT TOPK of one row (R153). -/
def topkRow (k base : Nat) (vals : List F32) : List Cand :=
  let cs := (List.zip vals (List.range vals.length)).filterMap fun p =>
    if fnan p.1 then none else some (p.1, (p.2 + base) % 2 ^ 32)
  candPad k (candTop k cs)

/-- SELECT MERGE of one row (R153, R437): the first min(topK, len) candidates, then padding. -/
def mergeRow (topK len : Nat) (lists : List (List Cand)) : List Cand :=
  candPad len (candTop (Nat.min topK len) (lists.flatten.filter (· != padCand)))

/-- The leading entries that are not padding, at most `topK` of them (R154). -/
def leading (topK : Nat) (l : List Cand) : List Cand :=
  (l.takeWhile (· != padCand)).take topK

/-- The sampler parameters of a row (Table 5.9). -/
structure SampPar where
  seqKey : Nat
  seed : Nat
  step : Nat
  temperature : F32
  topP : F32
  topK : Nat
  draftCount : Nat
  ctxId : Nat
  draftParent : Nat
deriving DecidableEq, Repr

/-- A target distribution (R154): each candidate with its probability, and the running sums cᵢ up to n. -/
structure Target where
  cands : List Cand
  probs : List F32
  sums : List F32
deriving DecidableEq, Repr

/-- Running sums from +0, in order. -/
def runSums (l : List F32) (acc : F32) : List F32 :=
  match l with
  | [] => []
  | x :: t => let a := fadd acc x; a :: runSums t a

/-- The target of a row with at least one candidate and TEMPERATURE not 0 (R154, R156).  A running sum that is NaN, as after an infinite
leading logit, is not less than the limit, so the count ends there: at n = 0 where the first sum is NaN (DESIGN CHOICE, log entry 132). -/
def targetOf (p : SampPar) (l : List Cand) : Target :=
  let cs := leading p.topK l
  let zs := cs.map fun c => fdiv c.1 p.temperature
  let z0 := zs.headD f32Zero
  let es := zs.map fun z => fexp (fsub z z0)
  let sums := runSums es f32Zero
  let lim := fmul p.topP (sums.getLastD f32Zero)
  let n := (firstIdx (fun c => !flt c lim) sums).getD (sums.length - 1)
  let cn := sums.getD n f32Zero
  { cands := cs
    probs := (List.zip es (List.range es.length)).map fun e => if e.2 ≤ n then fdiv e.1 cn else f32Zero
    sums := sums.take (n + 1) }

/-- The draw of index `i` for the row's sequence and step (R152). -/
def drawAt (p : SampPar) (free : Option Nat) (i : Nat) : F32 :=
  drawUniform (match free with
    | none => drawBits p.seed p.seqKey p.step i
    | some c => mix (mix p.seed ^^^ (c + i)))

/-- The candidate a fresh target selects for the draw `u` (R154). -/
def chooseTarget (t : Target) (u : F32) : Nat :=
  let lim := fmul u (t.sums.getLastD f32Zero)
  let i := (firstIdx (fun c => flt lim c) t.sums).getD (t.sums.length - 1)
  (t.cands.getD i padCand).2

/-- The candidate a residual selects for the draw `u` (R156). -/
def chooseResidual (cands : List Cand) (probs : List F32) (u : F32) : Nat :=
  let sums := runSums probs f32Zero
  let lim := fmul u (sums.getLastD f32Zero)
  let i := match firstIdx (fun c => flt lim c) sums with
    | some i => i
    | none => ((List.range probs.length).reverse.find? fun i => flt f32Zero (probs.getD i f32Zero)).getD 0
  (cands.getD i padCand).2

/-- Parent code of draft node `i`: 0 root, otherwise parent + 1 (Table 5.1). -/
def parentCode (parents i : Nat) : Nat := fld parents (4 * i) 4

/-- Depth of node `i`, counted from the root with fuel; too deep a path gives more than 8. -/
def nodeDepth (parents : Nat) : Nat → Nat → Nat
  | 0, _ => 100
  | fuel + 1, i =>
    match parentCode parents i with
    | 0 => 1
    | p + 1 => 1 + nodeDepth parents fuel p

/-- The draft-tree rules of R158: at most 16 nodes, parents earlier than children, paths of at most 8. -/
def draftOk (count parents : Nat) : Bool :=
  decide (count ≤ 16) && (List.range count).all fun i =>
    decide (parentCode parents i ≤ i) && decide (nodeDepth parents 17 i ≤ 8)

/-- Children of a row: the row code is 0 for the root, node + 1 otherwise. -/
def kidsOf (count parents row : Nat) : List Nat :=
  (List.range count).filter fun i => parentCode parents i == row

/-- State of the verification of one row's children (R156). -/
structure VDist where
  probs : List F32
  residual : Bool
  cancelled : Nat
  hit : Option Nat
deriving DecidableEq, Repr

/-- Tests one draft child against the distribution (R156). -/
def verifyKid (p : SampPar) (free : Option Nat) (cands : List Cand) (tokens : List Nat) (d : VDist)
    (c : Nat) : VDist :=
  match d.hit with
  | some _ => d
  | none =>
    let t := tokens.getD c 0xFFFFFFFF
    if fpIsZero (f32 p.temperature) then
      (if (cands.headD padCand).2 = t then { d with hit := some c } else d)
    else
      let i := firstIdx (fun x : Cand => x.2 == t) cands
      let pt := match i with
        | some i => d.probs.getD i f32Zero
        | none => f32Zero
      if flt (drawAt p free (1 + c)) pt then { d with hit := some c }
      else
        let mass := d.probs.foldl fadd f32Zero
        if fpIsZero (f32 (fsub mass pt)) then { d with hit := some c, cancelled := d.cancelled + 1 }
        else
          let q := match i with
            | some i => modAt (fun _ => f32Zero) d.probs i
            | none => d.probs
          let rest := q.foldl fadd f32Zero
          { d with probs := q.map fun x => fdiv x rest, residual := true }

/-- The result of DRAW or VERIFY for one context (Table 5.10). -/
structure DrawOut where
  accepted : List Nat
  tokens : List Nat
  final : Option Nat
  cancelled : Nat
deriving DecidableEq, Repr

/-- The final token from the distribution of a row (R154, R156, R438). -/
def chooseFinal (p : SampPar) (free : Option Nat) (cands : List Cand) (l : List Cand) (d : VDist) : Option Nat :=
  if cands = [] then none
  else if fpIsZero (f32 p.temperature) then some (cands.headD padCand).2
  else
    let u := drawAt p free 0
    if d.residual then some (chooseResidual cands d.probs u) else some (chooseTarget (targetOf p l) u)

/-- The procedure of R156 from row `row` (0 root, node + 1 otherwise). -/
def verifyFrom (p : SampPar) (free : Option Nat) (count : Nat) (tokens : List Nat) (lists : List (List Cand)) :
    Nat → Nat → Nat → DrawOut
  | 0, _, canc => ⟨[], [], none, canc⟩
  | fuel + 1, row, canc =>
    let l := lists.getD row []
    let cands := leading p.topK l
    let greedy := fpIsZero (f32 p.temperature)
    let d0 : VDist := ⟨if cands = [] || greedy then [] else (targetOf p l).probs, false, canc, none⟩
    let d := if cands = [] then d0
      else (kidsOf count p.draftParent row).foldl (verifyKid p free cands tokens) d0
    match d.hit with
    | some c =>
      let r := verifyFrom p free count tokens lists fuel (c + 1) d.cancelled
      { r with accepted := c :: r.accepted, tokens := tokens.getD c 0xFFFFFFFF :: r.tokens }
    | none => ⟨[], [], chooseFinal p free cands l d, d.cancelled⟩

/-- SELECT VERIFY of one context; `lists` holds the root's list, then each node's.  The second component
says that the draft shape broke the tree rules (DRAFT_INVALID). -/
def verifyCtx (p : SampPar) (free : Option Nat) (tokens : List Nat) (lists : List (List Cand)) : DrawOut × Bool :=
  let ok := draftOk p.draftCount p.draftParent
  (verifyFrom p free (if ok then p.draftCount else 0) tokens lists 18 0 0, !ok)

/-- SELECT DRAW of one context (R154). -/
def drawCtx (p : SampPar) (free : Option Nat) (l : List Cand) : DrawOut :=
  verifyFrom p free 0 [] [l] 1 0 0

/-- The outcome word (Table 5.10). -/
def outcomeWord (p : SampPar) (o : DrawOut) : List Byte :=
  let toks := o.tokens ++ (match o.final with | some t => [t] | none => [])
  let toks := toks ++ List.replicate (9 - toks.length) 0xFFFFFFFF
  leBytes p.ctxId 2 ++ leBytes o.accepted.length 1 ++ leBytes o.cancelled 1 ++
    leBytes (o.accepted.foldl (fun a c => a + 2 ^ c) 0) 2 ++
    leBytes (b2n (o.final == none)) 1 ++ zeros 1 ++
    (toks.take 9).flatMap (fun t => leBytes t 4) ++ leBytes p.step 8 ++ zeros 12

/-- The sampler word read from word 0 of an exchange area (Table 5.9). -/
def sampParOf (w : List Byte) : SampPar :=
  let at_ := fun o n => ofLe (sliceBytes w o n)
  { seqKey := at_ 0 8, seed := at_ 8 8, step := at_ 16 8
    temperature := BitVec.ofNat 32 (at_ 24 4), topP := BitVec.ofNat 32 (at_ 28 4)
    topK := at_ 32 1, draftCount := at_ 33 1, ctxId := at_ 34 2, draftParent := at_ 36 8 }

/-! ## Gating (R175, R182) -/

/-- Experts by logit descending, then index ascending; NaN ranks as −∞. -/
def gateRank (k : Nat) (scores : List F32) : List Nat :=
  (candTop k ((List.zip scores (List.range scores.length)).map fun p =>
    (if fnan p.1 then f32NegInf else p.1, p.2))).map (·.2)

/-- Experts and weights of one row (Table 6.6). -/
def gateRow (func k : Nat) (imm0 : F32) (logits : List F32) : List (Nat × F32) :=
  let dead := logits.all fun x => fnan x || x == f32NegInf
  let scores := if func = 2 then logits.map fsigmoid else logits
  let ids := if dead then List.range (Nat.min k logits.length) else gateRank k scores
  let at_ := fun (l : List F32) i => l.getD i f32Zero
  let ws := if dead then ids.map fun _ => f32Zero
    else match func with
      | 0 =>
        let s0 := at_ logits (ids.headD 0)
        let es := ids.map fun i => fexp (fsub (at_ logits i) s0)
        let l := es.foldl fadd f32Zero
        es.map fun e => fdiv e l
      | 1 =>
        let ps := softmaxFull logits
        ids.map fun i => at_ ps i
      | _ =>
        let sg := ids.map fun i => at_ scores i
        let l := sg.foldl fadd f32Zero
        sg.map fun x => fmul (fdiv x l) imm0
  List.zip ids ws

/-- The expert record of a row (Table 6.5). -/
def expertRecord (token k : Nat) (es : List (Nat × F32)) : List Byte :=
  let pad8 := fun (l : List Nat) (d : Nat) => (l ++ List.replicate (8 - l.length) d).take 8
  leBytes token 4 ++ leBytes k 1 ++ zeros 3 ++
    (pad8 (es.map (·.1)) 0xFFFF).flatMap (fun e => leBytes e 2) ++
    (pad8 (es.map fun e => e.2.toNat) 0).flatMap (fun e => leBytes e 4) ++ zeros 8

end Sys2Proof.Machine
end

