-- ==== Sys2Proof/Machine/Send.lean ====
section
/-! DEFINITION. SEND: MESSAGE (R215 to R218, R227, R229) and CONTRIBUTE (R230 to R233, Table 8.6), and the SCAN ops
(R133, R134). -/

namespace Sys2Proof.Machine

/-! ## MESSAGE (Table 4.11) -/

def sDestDev (d : Nat) : Nat := fld d 128 12
def sDestLt (d : Nat) : Nat := fld d 140 10
def sHandler (d : Nat) : Nat := fld d 150 8
def sFabric (d : Nat) : Bool := bitOf d 158
def sReply (d : Nat) : Nat := fld d 159 1
def sMulticast (d : Nat) : Bool := bitOf d 160
def sGroup (d : Nat) : Nat := fld d 161 6
def sLocalF (d : Nat) : Nat := fld d 167 26
def sDestAddr (d : Nat) : Nat := fld d 193 26
def sLen (d : Nat) : Nat := fld d 219 16
def sSlot (d : Nat) : Nat := fld d 235 8
def sRetryMax (d : Nat) : Nat := fld d 243 4
def sRetryGap (d : Nat) : Nat := fld d 247 8
def sInline (d : Nat) : Bool := bitOf d 255
/-- INLINE_DATA as 32 bytes. -/
def sData (d : Nat) : List Byte := leBytes (fld d 256 256) 32

def sLocal (c : FireCtx) : Nat := c.addr (sLocalF c.d) 0

/-- Members of a multicast group by the sender's record and map (Table 8.5). -/
def groupMembers (t : Tile) (g : Nat) : List Nat :=
  let r := sget mcastReset t.mcast g
  if r.valid then (List.range 576).filter fun lt => bitOf (spadByte t.spad (r.mapAddr + lt / 8)).toNat (lt % 8) else []

/-- Read slots of the map that a multicast reads (R74). -/
def mapCost (t : Tile) (d : Nat) : Nat := if sMulticast d then lineCost (sget mcastReset t.mcast (sGroup d)).mapAddr 72 else 0

/-- The tiles of the own device at which the bulk of a MESSAGE lands. -/
def messageTiles (s : State) (c : FireCtx) : List Nat :=
  if sMulticast c.d then groupMembers (tileOf s c.lt) (sGroup c.d) else [sDestLt c.d]

/-- Checks of MESSAGE: fields (R227), source and landing ranges, shared pages (R145), destination (R217). -/
def messageChecks (s : State) (c : FireCtx) : List Nat :=
  let t := tileOf s c.lt
  rangeChecks s c [(sLocal c, sLen c.d)] [] ++
    chk (sMulticast c.d && (sFabric c.d || decide (60 ≤ sGroup c.d))) stFieldInvalid ++
    chk (decide (spadEnd < sDestAddr c.d + sLen c.d)) stAddrRange ++
    chk (!sMulticast c.d && destBad s c.lt (sFabric c.d) (sDestDev c.d) (sDestLt c.d)) stRegionBound ++
    chk (tenantTile t && !sFabric c.d && (messageTiles s c).any fun lt => sharedHit s lt [(sDestAddr c.d, sLen c.d)]) stRegionBound ++
    chk (tenantTile t && meetsCtl (sDestAddr c.d) (sLen c.d)) stAddrProtect

/-- The transfer of a MESSAGE. -/
def messageXfer (s : State) (c : FireCtx) : Xfer :=
  let d := c.d
  let inl := if sInline d then sData d else []
  if sMulticast d then
    let m := groupMembers (tileOf s c.lt) (sGroup d)
    { msgXfer s c.lt c.fid 0 (.message true m) (sReply d) false 0 0 (sHandler d) (sSlot d) inl (sDestAddr d) (sLocal c)
        (sLen d) (sRetryMax d) (sRetryGap d) with
      dstKind := 3, dst := sGroup d
      transport := msgTransport (sHandler d) (sSlot d) (sInline d) (sLen d) s.idn.deviceId 0
        (tileRegion (tileOf s c.lt)) true (sGroup d) }
  else
    msgXfer s c.lt c.fid 0 (.message false []) (sReply d) (sFabric d) (if sFabric d then sDestDev d else s.idn.deviceId)
      (sDestLt d) (sHandler d) (sSlot d) inl (sDestAddr d) (sLocal c) (sLen d) (sRetryMax d) (sRetryGap d)

/-- MESSAGE: one transfer; the descriptor ends when it is answered. -/
def actMessage (s : State) (c : FireCtx) : FireRes :=
  let s1 := updTile s c.lt fun t => { t with
    spad := chargeRd t.spad (lineCost (sLocal c) (sLen c.d) + mapCost t c.d), cnt := { t.cnt with msgSent := satAdd t.cnt.msgSent 1 48 } }
  let x := messageXfer s c
  { resOpen (queueXfers s1 c.lt [x]) c (sLen c.d) 1 (if x.kind = .message true [] then [] else [(0, 1)]) with outAddr := sLocal c }

/-! ## CONTRIBUTE: the parameter block (Table 8.6) -/

/-- The parameter block read from its bytes. -/
structure CBlock where
  engine : Nat
  cq : Nat
  collSeq : Nat
  op : Nat
  redop : Nat
  inType : Nat
  outType : Nat
  elements : Nat
  contribOff : Nat
  resultOff : Nat
  resultCount : Nat
  localParts : Nat
  algo : Nat
  block : Nat
  rest : Nat
deriving DecidableEq, Repr

def cBlockOf (b : List Byte) : CBlock :=
  let n := fun o k => ofLe (sliceBytes b o k)
  ⟨n 0 1, n 1 1, n 2 2, n 4 1, n 5 1, n 6 1, n 7 1, n 8 4, n 12 4, n 16 4, n 20 4, n 24 2, n 26 1, n 27 1, n 28 4⟩

/-- Width in bytes of a type code. -/
def cWidth (t : Nat) : Nat := if t = 1 then 2 else 4

/-- Piece `r` of a vector of `e` elements among `n` members: first element and count (R231). -/
def pieceRange (e n r : Nat) : Nat × Nat := (r * e / n, (r + 1) * e / n - r * e / n)

/-- Elements of the largest piece. -/
def largestPiece (e n : Nat) : Nat := ((List.range n).map fun r => (pieceRange e n r).2).foldl Nat.max 0

/-- Bytes that a collective needs of its context area (R233). -/
def collNeed (b : CBlock) (n : Nat) : Nat :=
  let p := largestPiece b.elements n
  (n - 1) * p * cWidth b.inType + (if b.op ≤ 1 then 4 * p else 0)

/-- Whether [o, o + k) lies in [lo, lo + n); an empty range lies anywhere. -/
def within (o k lo n : Nat) : Bool := k == 0 || (decide (lo ≤ o) && decide (o + k ≤ lo + n))

/-- Whether a CONTRIBUTE breaks a rule of the section (R230): its block, its element counts, its need. -/
def contributeBad (s : State) (c : FireCtx) : Bool :=
  let d := c.d
  let b := cBlockOf (sData d)
  match regionOf s (tileOf s c.lt).region with
  | none => true
  | some g =>
    let n := Nat.max 1 g.members
    let own := pieceRange b.elements n g.rank
    let w := cWidth b.inType
    let whole := (0, b.elements)
    let cr := if b.op = 2 then own else whole
    let rr := if b.op = 1 then own else whole
    b.engine ≥ 4 || !((rectLts g).any fun lt => dieOfLt s lt == b.engine) || decide (g.collQueues ≤ b.cq) || decide (3 < b.op) ||
      (decide (b.op ≤ 1) && decide (2 < b.redop)) || decide (1 < b.inType) || decide (1 < b.outType) || b.elements == 0 ||
      decide (16777215 < b.elements) || b.localParts == 0 || decide (576 < b.localParts) || b.rest != 0 ||
      !(if b.algo = 0 then b.block == 0 && decide (n ≤ 64) else b.algo == 1 && decide (2 ≤ b.block) && decide (b.block ≤ 16)) ||
      sLen d % w != 0 || !within b.contribOff (sLen d / w) cr.1 cr.2 || !within b.resultOff b.resultCount rr.1 rr.2 ||
      (b.op == 3 && b.elements % n != 0) || decide (262144 < collNeed b n) ||
      fld d 128 30 != 0 || sMulticast d || sGroup d != 0 || sSlot d != 0 || sInline d

def contributeChecks (s : State) (c : FireCtx) : List Nat :=
  let b := cBlockOf (sData c.d)
  chk (contributeBad s c) stFieldInvalid ++
    rangeChecks s c [(sLocal c, sLen c.d)] [(sDestAddr c.d, b.resultCount * cWidth b.outType)]

/-- The COLL transport word of a packet but for step, attempt, element offset of its piece and digest (Table 8.8). -/
def collTransport (kind collSeq cq rank piece off dtype : Nat) (prov : Bool) (destDev op redop elements : Nat) : Nat :=
  kind % 16 * 2 ^ 252 + collSeq % 2 ^ 16 * 2 ^ 236 + cq % 32 * 2 ^ 231 + rank % 256 * 2 ^ 223 + piece % 256 * 2 ^ 215 +
    off % 2 ^ 32 * 2 ^ 183 + dtype % 2 * 2 ^ 182 + b2n prov * 2 ^ 181 + destDev % 4096 * 2 ^ 85 + op % 4 * 2 ^ 83 +
    redop % 4 * 2 ^ 81 + elements % 2 ^ 24 * 2 ^ 57

/-- The transfer of a CONTRIBUTE: packet SEQ 0 carries the parameter block, the elements follow. -/
def contributeXfer (s : State) (c : FireCtx) : Xfer :=
  let b := cBlockOf (sData c.d)
  let rank := (regionOf s (tileOf s c.lt).region).elim 0 (·.rank)
  { fid := c.fid, part := 0, kind := .contribute, typ := tColl, chan := 0, dstKind := 1, dst := b.engine, fabric := false
    destDev := s.idn.deviceId, destLt := 0
    transport := collTransport 0 b.collSeq b.cq rank 0 b.contribOff b.inType false s.idn.deviceId b.op b.redop b.elements
    inl := sData c.d, pieces := piecesOf 0 (sLocal c) (sLen c.d), retryMax := sRetryMax c.d, retryGap := sRetryGap c.d
    retries := 0, after := 0 }

/-- CONTRIBUTE: ends when the engine has acknowledged it and its result range is written (R236). -/
def actContribute (s : State) (c : FireCtx) : FireRes :=
  let b := cBlockOf (sData c.d)
  let s1 := updTile s c.lt fun t => { t with spad := chargeRd t.spad (lineCost (sLocal c) (sLen c.d)) }
  { resOpen (queueXfers s1 c.lt [contributeXfer s c]) c (b.resultCount * cWidth b.outType) 1
      [(0, if b.resultCount = 0 then 1 else 2)] with outAddr := sDestAddr c.d }

/-! ## SCAN_OUT and SCAN_IN (Table 4.9) -/

def scBundle (d : Nat) : Nat := fld d 128 38
def scScope (d : Nat) : Nat := fld d 166 8
def scRegion (d : Nat) : Nat := fld d 174 5
def scLt (d : Nat) : Nat := fld d 179 10

/-- SCAN is for the firmware region only; its target is a tile of the device. -/
def scanChecks (s : State) (c : FireCtx) : List Nat :=
  chk (tenantTile (tileOf s c.lt)) stClassProtect ++ chk (!ltOk (scLt c.d)) stRegionBound

/-- Ring entries in use on a tile, by address. -/
def ringsOf (t : Tile) : List (Nat × List Byte) :=
  t.queues.flatMap fun q => q.2.slots.filterMap fun x =>
    if x.written then some (entryAddr (qcfgOf t q.1) x.pos, spadRead t.spad (entryAddr (qcfgOf t q.1) x.pos) 64) else none

/-- Bytes of a section but for the engine pipeline registers, whose length is the revision's. -/
def sectionLen (t : Tile) (scope : Nat) : Nat :=
  64 + (if bitOf scope 0 then 16 * 64 + 64 * (ringsOf t).length else 0) + (if bitOf scope 1 then 16 * (16 + 256) else 0) +
    (if bitOf scope 2 then 1024 else 0) + (if bitOf scope 4 then 131072 else 0) + (if bitOf scope 5 then 16 * 80 else 0) +
    (if bitOf scope 6 then 64 * (t.rx.map fun x => x.held.length).foldl (· + ·) 0 else 0)

/-- Index, loop counters and the first four descriptors in view of each descriptor queue, 16 and 256 bytes a queue (R118, R133). -/
def boardBytes (t : Tile) : List Byte :=
  ((t.qcfg.filter fun e => isDescQueue e.2).map (·.1)).flatMap fun q =>
    padTo (leBytes (queueOf t q).fetchIdx 2 ++ (queueOf t q).loops.flatMap fun n => leBytes n 2) 16 ++
    padTo (((queueOf t q).slots.take 4).flatMap fun x => spadRead t.spad (entryAddr (qcfgOf t q) x.pos) 64) 256

/-- The 64-byte header of a tile section (R133): LT, px, py, SCOPE and the length of each subsection in SCOPE bit order (log 18). -/
def sectionHead (t : Tile) (pos lt scope : Nat) : List Byte :=
  padTo (leBytes lt 2 ++ leBytes (pos % 26) 1 ++ leBytes (pos / 26) 1 ++ leBytes scope 1 ++
    (List.range 7).flatMap fun i => leBytes (sectionLen t (scope &&& 2 ^ i) - 64) 4) 64

/-- The section of a tile for a SCOPE (R133). -/
def scanSection (s : State) (addr scope region lt tag : Nat) : ScanSec :=
  let t := tileOf s lt
  { addr := addr, len := sectionLen t scope, tag := tag, lt := lt, scope := scope, region := region
    queues := if bitOf scope 0 || bitOf scope 1 then t.queues else []
    rings := if bitOf scope 0 then ringsOf t else []
    objs := if bitOf scope 2 then t.objs else []
    fired := if bitOf scope 3 then t.fired else []
    halves := if bitOf scope 4 then t.halves else []
    mb := if bitOf scope 5 then t.spad.mb else []
    rx := if bitOf scope 6 then t.rx else []
    vals := if bitOf scope 2 then (List.range 256).map fun i => objVal (objOf t i) else []
    board := if bitOf scope 1 then boardBytes t else []
    head := sectionHead t (posOf s lt) lt scope
    flows := if bitOf scope 3 then t.flows else []
    waiting := if bitOf scope 3 then t.waiting else []
    returns := if bitOf scope 3 then t.returns else [] }

/-- Writes the section of a tile to Basin; the merge buffer drains first (R86). -/
def scanOut (s : State) (addr scope region lt : Nat) : State :=
  let s1 := updTile s lt fun t => { t with spad := chargeRd (spadDrain t.spad) (if bitOf scope 0 then (ringsOf t).length else 0) }
  let f := takeFree s1
  let x := scanSection f.2 addr scope region lt f.1
  { f.2 with scans := (f.2.scans.filter fun y => !meets (y.addr, y.len) (addr, x.len)) ++ [x] }

/-- SCAN_OUT. -/
def actScanOut (s : State) (c : FireCtx) : FireRes :=
  resOk (scanOut s (scBundle c.d) (scScope c.d) (scRegion c.d) (scLt c.d)) 0 0

/-- The bundles that sections in Basin belong to, by address of the header. -/
def bundleBases (s : State) : List Nat :=
  (s.scans.filterMap fun x => if x.raw.isNone then some (bundleBase s.scans x.addr s.scans.length) else none).eraseDups

/-- The good bundle of a region with the highest BUNDLE_SEQ. -/
def lastGood (s : State) (region : Nat) : Option Nat :=
  ((bundleBases s).filter fun b => bundleGood s b && byteField (basinBytes s b 3) 2 1 == region).foldl (fun acc b => match acc with
    | none => some b
    | some a => if byteField (basinBytes s a 24) 20 4 < byteField (basinBytes s b 24) 20 4 then some b else some a) none

/-- The section that SCAN_IN takes: the named one when its bundle is good, else the tile's section of the region's last good
bundle (R134). -/
def scanSource (s : State) (addr region lt : Nat) : Option ScanSec :=
  let base := fun (x : ScanSec) => bundleBase s.scans x.addr s.scans.length
  match s.scans.find? fun x => x.addr == addr && x.lt == lt && x.raw.isNone && bundleGood s (base x) with
  | some x => some x
  | none => (lastGood s region).bind fun b => s.scans.find? fun x => x.lt == lt && x.raw.isNone && base x == b

/-- A queue as a section restores it: SCOPE bit 0 its positions and entries, bit 1 what the fetcher and the scoreboard of a
descriptor queue hold. -/
def queueRestore (on0 on1 : Bool) (old new : Queue) : Queue :=
  { slots := if on0 then new.slots else old.slots
    tail := if on0 then new.tail else old.tail
    fetchIdx := if on1 then new.fetchIdx else old.fetchIdx
    loops := if on1 then new.loops else old.loops
    fetchDone := if on1 then new.fetchDone else old.fetchDone
    closed := if on1 then new.closed else old.closed
    lastRetired := if on1 then new.lastRetired else old.lastRetired
    age := if on1 then new.age else old.age
    since := if on1 then new.since else old.since }

/-- Restores the scoped state of a section into a tile. -/
def scanRestore (t : Tile) (x : ScanSec) (scope : Nat) : Tile :=
  let on := fun i => bitOf scope i && bitOf x.scope i
  { t with
    spad := { (if on 0 then putRows t.spad x.rings else t.spad) with mb := if on 5 then x.mb else t.spad.mb }
    queues := t.qcfg.foldl (fun l e =>
      sset queueReset l e.1 (queueRestore (on 0) (on 1) (queueOf t e.1) (sget queueReset x.queues e.1))) t.queues
    objs := if on 2 then x.objs else t.objs
    fired := if on 3 then x.fired else t.fired
    flows := if on 3 then x.flows else t.flows
    waiting := if on 3 then x.waiting else t.waiting
    returns := if on 3 then x.returns else t.returns
    halves := if on 4 then x.halves else t.halves
    rx := if on 6 then x.rx else t.rx }

/-- SCAN_IN: a section whose bundle is not good restores nothing. -/
def actScanIn (s : State) (c : FireCtx) : FireRes :=
  match scanSource s (scBundle c.d) (scRegion c.d) (scLt c.d) with
  | none => resOk s 0 0
  | some x => resOk (updTile s (scLt c.d) fun t => scanRestore t x (scScope c.d)) 0 0

def execScanIn (lt q : Nat) (s : State) : Out := fireRow s lt q (isOp 3 1) scanChecks actScanIn

end Sys2Proof.Machine
end

