-- ==== Sys2Proof/Machine/Steps.lean ====
section
/-! DEFINITION. The step of a region: when it may start, when it has drained, its commit and its discard (R14 to R27,
R126, R128, R129, R158, R273, R275). -/

namespace Sys2Proof.Machine

/-! ## Tiles of a step -/

/-- Whether every queue of a tile is empty. -/
def queuesEmpty (t : Tile) : Bool := t.queues.all fun q => q.2.slots == []

/-- Whether every STEP object holds its reset value. -/
def objsAtReset (t : Tile) : Bool :=
  t.objs.all fun e => (objCfgOf t e.1).firmware || objVal e.2 == (objCfgOf t e.1).resetVal

/-- Nothing outstanding on a tile: no fired descriptor, no transfer, no returning data. -/
def tileIdle (t : Tile) : Bool := t.fired == [] && t.flows == [] && t.waiting == [] && t.returns == []

/-- R14 on one tile. -/
def tileReady (t : Tile) : Bool :=
  queuesEmpty t && objsAtReset t && tileIdle t && t.rx.all (fun x => x.held == []) && !t.heldReset

/-- Whether every DESC_STREAM queue of a tile has retired its END. -/
def streamsDone (t : Tile) : Bool :=
  t.qcfg.all fun e => e.2.qtype != 1 || (queueOf t e.1).closed

/-- Changes every present tile of a region. -/
def updTiles (s : State) (g : Region) (f : Tile → Tile) : State := (regionTiles s g).foldl (fun s lt => updTile s lt f) s

/-- Whether all present tiles of a region satisfy a test. -/
def allTiles (s : State) (g : Region) (p : Tile → Bool) : Bool := (regionTiles s g).all fun lt => p (tileOf s lt)

/-! ## The exchange areas (chapter 05, Table 5.9) -/

/-- The tile of an image's node. -/
def nodeLt (g : Region) (i : Nat) : Nat := sget 0x3FF g.loadedMap i

/-- The exchange area of the context of rank `j`: tile and address. -/
def exchArea (g : Region) (j : Nat) : Nat × Nat :=
  match g.image with
  | none => (0x3FF, 0)
  | some im => (nodeLt g im.exchNode, im.exchBase + 320 * j)

/-- Contexts of a region with their ranks. -/
def rankedCtxs (g : Region) : List (Nat × Nat) := List.zip (List.range g.ctxIds.length) g.ctxIds

/-- The sampler word of a context (Table 5.9). -/
def samplerWord (c : Ctx) (id step : Nat) : List Byte :=
  padTo (leBytes c.seqKey 8 ++ leBytes c.seed 8 ++ leBytes step 8 ++ leBytes c.temperature.toNat 4 ++ leBytes c.topP.toNat 4 ++
    leBytes c.topK 1 ++ leBytes (if c.flags % 2 = 1 then c.draftCount else 0) 1 ++ leBytes id 2 ++ leBytes c.draftParent 8) 64

/-- Words 0 and 1 of every ACTIVE context's exchange area. -/
def writeExchange (s : State) (g : Region) : State :=
  (rankedCtxs g).foldl (fun s x =>
    let c := ctxOf s x.2
    let a := exchArea g x.1
    if c.state = 2 ∧ present s a.1 then
      let w := samplerWord c x.2 g.step ++ padTo (c.draftTokens.flatMap fun k => leBytes k 4) 64
      updTile s a.1 fun t => { t with spad := spadWrite t.spad a.2 w }
    else s) s

/-! ## Starting (R14, R105) -/

/-- Whether a DMA transaction of a region is outstanding at Silt: a SILT_WRITE of an attempt that was discarded (R14, R292). -/
def txnOpen (s : State) (r : Nat) : Bool := s.silt.txns.any fun t => t.region == r && t.issuer.isSome

/-- Whether region `r` may start an attempt of its step. -/
def mayStart (s : State) (r : Nat) (g : Region) : Bool :=
  (g.mstate == .idle || g.mstate == .committed || g.mstate == .discarded) &&
    g.running && !g.held && g.rstate == .running && g.image.isSome && !g.switching && g.boundary == [] &&
    (g.mstate == .discarded || g.runForever || decide (0 < g.runLeft)) && decide (g.discards < g.attemptLimit) &&
    allTiles s g tileReady && !txnOpen s r && !s.quiet

/-- The fetchers restart at index 0 with their loop counters zero (R105). -/
def restartFetch (now : Nat) (t : Tile) : Tile :=
  { t with queues := t.queues.map fun q => (q.1, { q.2 with
      fetchIdx := 0, loops := [0, 0, 0, 0], fetchDone := false, closed := false, lastRetired := none, age := 0, since := now }) }

/-- A pending ledger entry of the step (R18). -/
def pendingEntry (g : Region) : LedgerEntry :=
  { step := g.step, attempt := g.attempt, final := false, nondet := g.arrivalFold || g.samplerFree || g.faultInject
    imageId := g.image.elim 0 (·.imageId), tokens := [], covered := [], lookups := [], stored := [] }

def stepStart (s : State) (r : Nat) : State :=
  withRegion s r fun g =>
    let s1 := writeExchange (updTiles s g (restartFetch s.now)) g
    updRegion s1 r fun g => { g with
      mstate := .running, failed := false, failCauses := [], failRecs := [], stepStart := s.now
      siltCommits := 0, boundaryLog := []
      ledger := g.ledger.filter (·.final) ++ [pendingEntry g] }

/-! ## Outcome words (R158, R438) -/

/-- The outcome word of a context as fields: accepted nodes, map, no candidate, tokens. -/
structure Outcome where
  accepted : Nat
  map : Nat
  noCand : Bool
  tokens : List Nat
deriving DecidableEq, Repr

def outcomeOf (w : List Byte) : Outcome :=
  let n := fun o k => ofLe (sliceBytes w o k)
  let acc := Nat.min (n 2 1) 8
  let nc := n 6 1 % 2 == 1
  ⟨acc, n 4 2, nc, (List.range (acc + (if nc then 0 else 1))).map fun i => n (8 + 4 * i) 4⟩

/-- The stop reason that a token at a position gives, 0 for none (R158).  Where one token meets several conditions, STOP_ID comes before
MAX_NEW and MAX_NEW before MAX_POSITION (DESIGN CHOICE, log entry 114). -/
def stopOf (c : Ctx) (tok out pos : Nat) : Nat :=
  if c.stopIds.any (fun x => x == tok && x != 0xFFFFFFFF) then 1
  else if out = c.maxNew then 2
  else if pos = c.maxPosition then 3
  else 0

/-- Tokens up to the first stop, and its reason. -/
def takeTokens (c : Ctx) : Nat → Nat → List Nat → List Nat × Nat
  | _, _, [] => ([], 0)
  | out, pos, t :: rest =>
    let r := stopOf c t (out + 1) pos
    if r = 0 then
      let q := takeTokens c (out + 1) (pos + 1) rest
      (t :: q.1, q.2)
    else ([t], r)

/-- The tokens that a context's outcome word commits, with the stop reason. -/
def outcomeTokens (c : Ctx) (o : Outcome) : List Nat × Nat :=
  let r := takeTokens c c.tokensOut (c.position + 1) o.tokens
  (r.1, if r.2 = 0 ∧ o.noCand then 6 else r.2)

/-- The next step's drafts from words 3 and 4; the Bool says the shape breaks the tree rules. -/
def nextDraft (w3 w4 : List Byte) : List Nat × Nat × Nat × Bool :=
  let cnt := ofLe (sliceBytes w4 0 1)
  let par := ofLe (sliceBytes w4 8 8)
  let toks := (List.range 16).map fun i => ofLe (sliceBytes w3 (4 * i) 4)
  if draftOk cnt par then (toks, cnt, par, false) else (toks, 0, par, true)

/-- A generation context after the commit of `step` (R158, R438).  DRAFT_TOTAL counts every node of the step's draft, tested or not
(DESIGN CHOICE, log entry 115). -/
def applyOutcome (c : Ctx) (step : Nat) (o : Outcome) (dr : List Nat × Nat × Nat × Bool) : Ctx :=
  let r := outcomeTokens c o
  let used := if c.flags % 2 = 1 then c.draftCount else 0
  { c with
    state := if r.2 = 0 then 2 else 3
    stopReason := r.2
    position := c.position + o.accepted + (if o.noCand then 0 else 1)
    lastToken := o.tokens.getLastD c.lastToken
    tokensOut := satAdd c.tokensOut r.1.length 32
    acceptLast := r.1.length, acceptMap := o.map
    acceptTotal := satAdd c.acceptTotal o.accepted 32
    draftTotal := satAdd c.draftTotal used 32
    committedStep := step
    draftTokens := dr.1, draftCount := dr.2.1, draftParent := dr.2.2.1 }

/-- Positions of a prompt that this step's chunk covers under image `im`: from 1 to what is left (free within that range), 0 when
nothing is left or a lookup is open. -/
def chunkOf (im : Nat) (c : Ctx) : Nat :=
  let left := c.prompt.length - c.position
  if left = 0 ∨ c.lookup ≠ .none_ then 0 else 1 + (Config.chunkSize im c.seqKey c.position).toNat % left

/-- A prompt context after the commit of a chunk of `n` positions (R162). -/
def applyChunk (c : Ctx) (step n : Nat) (o : Outcome) : Ctx :=
  let c1 := { c with position := c.position + n, committedStep := step }
  if 0 < n ∧ c.position + n = c.prompt.length then
    match o.tokens with
    | [] => { c1 with state := 3, stopReason := 6 }
    | t :: _ =>
      let r := stopOf c t (c.tokensOut + 1) c.prompt.length
      { c1 with lastToken := t, tokensOut := satAdd c.tokensOut 1 32, acceptLast := 1, stopReason := r, state := if r = 0 then 2 else 3 }
  else c1

/-- Reads word `k` of an exchange area. -/
def exchWord (s : State) (a : Nat × Nat) (k : Nat) : List Byte := spadRead (tileOf s a.1).spad (a.2 + 64 * k) 64

/-- Place of the tail area of a context of rank `j` for a layer and a head (R142). -/
def tailPlace (im : Image) (j l h : Nat) : Option PageMapEntry :=
  (im.tailMap.find? fun e => e.1 == (j * im.layers + l) * im.heads + h).map (·.2)

/-- Open-group rows of a tail area in bytes (Table 5.5). -/
def tailBytes : Nat := 8192

/-- When a context's position passes the end of its open group, the tail rows of that group are zeroised (R142): every row that does not
belong to the group open now.  They are writes of the step, and the KV shadow receives them (R143; DESIGN CHOICE, log entry 116). -/
def closeGroup (s : State) (im : Image) (j old new : Nat) : State :=
  if old / 32 = new / 32 then s
  else
    let row := new % 32
    ((List.range im.layers).flatMap fun l => (List.range im.heads).filterMap fun h => tailPlace im j l h).foldl (fun s e =>
      updTile s e.lt fun t => { t with spad := spadWrite t.spad (e.addr + 256 * row) (zeros (tailBytes - 256 * row)) }) s

/-- Records the step's results as pending (condition 3 of Table 1.3): tokens of generation contexts, covered positions
and first tokens of prompt contexts. -/
def recordPending (s : State) (r : Nat) (g : Region) : State :=
  let act := (rankedCtxs g).filter fun x => (ctxOf s x.2).state == 2
  let im := g.image.elim 0 (·.imageId)
  let rows := act.map fun x =>
    let c := ctxOf s x.2
    let o := outcomeOf (exchWord s (exchArea g x.1) 2)
    match g.role with
    | .generation => (x.2, c.seqKey, outcomeTokens c o, 0)
    | .prompt =>
      let n := chunkOf im c
      if 0 < n ∧ c.position + n = c.prompt.length then
        (x.2, c.seqKey, (o.tokens.take 1, (applyChunk c g.step n o).stopReason), n)
      else (x.2, c.seqKey, ([], 0), n)
    | .cache => (x.2, c.seqKey, ([], 0), 0)
  let moved := fun (x : Nat × Nat) =>
    let c := ctxOf s x.2
    let o := outcomeOf (exchWord s (exchArea g x.1) 2)
    match g.role with
    | .generation => c.position + o.accepted + (if o.noCand then 0 else 1)
    | .prompt => c.position + chunkOf im c
    | .cache => c.position
  let s1 := match g.image with
    | some im => act.foldl (fun s1 x => closeGroup s1 im x.1 (ctxOf s x.2).position (moved x)) s
    | none => s
  updRegion s1 r fun g => { g with ledger := mapIf (fun e => !e.final && e.step == g.step) (fun e => { e with
    tokens := rows.map fun x => ⟨x.1, x.2.1, x.2.2.1.1, x.2.2.1.2, false⟩
    covered := rows.filterMap fun x => if x.2.2.2 = 0 then none else some (x.1, x.2.2.2) }) g.ledger }

/-- The pending entry of the region's step. -/
def pendingOf (g : Region) : Option LedgerEntry := g.ledger.find? fun e => !e.final && e.step == g.step

/-- Applies a step to one context; a broken draft shape posts DRAFT_INVALID. -/
def commitCtx (s : State) (r : Nat) (g : Region) (x : Nat × Nat) : State :=
  let c := ctxOf s x.2
  if c.state ≠ 2 then s
  else
    let a := exchArea g x.1
    let o := outcomeOf (exchWord s a 2)
    let ent := pendingOf g
    let toks := (ent.elim [] (·.tokens)).find? fun t => t.ctx == x.2
    let und := if g.deliver && !isShadow s r then (toks.elim 0 fun t => t.tokens.length) else 0
    match g.role with
    | .generation =>
      let dr := nextDraft (exchWord s a 3) (exchWord s a 4)
      let s1 := setCtx s x.2 { applyOutcome c g.step o dr with undelivered := c.undelivered + und }
      if dr.2.2.2 then regionEvent s1 0x0202 r [] else s1
    | .prompt =>
      let n := ((ent.elim [] (·.covered)).find? fun e => e.1 == x.2).elim 0 (·.2)
      if n = 0 then s
      else setCtx s x.2 { applyChunk c g.step n o with undelivered := c.undelivered + und }
    | .cache => s

/-! ## Clean-up that commit and discard share -/

/-- A tile at the end of an attempt: queues, engines, transfers, flow entries and buffers empty, STEP objects at
their reset values, the closed-transfer cache empty (R126, R180, R226). -/
def endTile (t : Tile) : Tile :=
  let t1 := objStepReset t
  { t1 with
    queues := t1.queues.map fun q => (q.1, { q.2 with slots := [], fetchDone := false, age := 0 })
    fired := [], flows := [], waiting := [], returns := [], rx := [], closedXfers := [], evicted := false, expState := [] }

/-- Frees a region's collective contexts; an engine's own transfers name their region as `fid`. -/
def freeColl (s : State) (r : Nat) : State :=
  (List.range 4).foldl (fun s d => updEngine s d fun e => { e with
    queues := e.queues.map fun q => if q.2.region = r then (q.1, { q.2 with ctxs := [], oldest := 0 }) else q
    flows := e.flows.filter fun f => f.x.fid != r
    rx := e.rx.filter fun f => f.region != r
    closedXfers := e.closedXfers.filter fun k => k.2.2 != r }) s

/-! ## The cache of a cache region (R162) -/

/-- A cached page is pinned while a push of it is outstanding, and while a lookup that it answers waits for its step's commit. -/
def pinned (g : Region) (p : CachePage) : Bool :=
  (g.pushes.any fun x => x.2.prefixKey == p.prefixKey && x.2.modelKey == p.modelKey) ||
    g.ledger.any fun e => !e.final && e.lookups.any fun x => x.1.modelKey == p.modelKey && (x.1.keys.take x.2).contains p.prefixKey

/-- Pages that a region's cache holds at most: POOL_PAGES. -/
def cacheSize (g : Region) : Nat := g.image.elim 0 (·.poolPages)

/-- Whether two stored pieces are of one page: the same prefix key and MODEL_KEY (R159). -/
def samePage (p q : CachePage) : Bool := q.prefixKey == p.prefixKey && q.modelKey == p.modelKey

/-- Pages that a list of stored pieces makes; a page of several heads may come in several pieces (Table 5.12). -/
def cachePages (l : List CachePage) : Nat := (l.map fun p => (p.prefixKey, p.modelKey)).eraseDups.length

/-- Makes room for one page: at POOL_PAGES pages the least recently served unpinned page is dropped and counted. -/
def cacheRoom (g : Region) (q : CachePage) : Option Region :=
  if g.cache.any (samePage q) || decide (cachePages g.cache < cacheSize g) then some g
  else
    match g.cache.filter fun p => !pinned g p with
    | [] => none
    | p :: rest =>
      let old := rest.foldl (fun m q => if q.served < m.served then q else m) p
      some { g with cache := g.cache.filter (!samePage old ·), cacheDropped := g.cacheDropped + 1 }

/-- Stores one page at the commit, in place of the page of its keys and heads; a page that finds every other one pinned is dropped. -/
def cacheStore (g : Region) (p : CachePage) : Region :=
  let same := fun (q : CachePage) => samePage p q && q.headFirst == p.headFirst
  match cacheRoom { g with cache := g.cache.filter fun q => !same q } p with
  | some g1 => { g1 with cache := g1.cache ++ [{ p with committed := true }] }
  | none => { g with cacheDropped := g.cacheDropped + 1 }

/-- Stores the pages that the step received, in the order received. -/
def cacheCommit (g : Region) : Region := { g.cacheIn.foldl cacheStore g with cacheIn := [] }

/-! ## Commit (R18, R22, R158, R273) -/

/-- Local conditions 1 and 2 of Table 1.3: nothing failed, every shadow write done, and in a cache region no
transaction of this attempt open. -/
def localOk (s : State) (r : Nat) (g : Region) : Bool :=
  !g.failed && allTiles s g (fun t => t.spad.sq == []) &&
    ((List.range 4).all fun d => (engineOf s d).queues.all fun q => q.2.region != r || q.2.ctxs.all fun c =>
      c.peers.all fun p => !p.whole || p.checked) &&
    (g.role != .cache || s.silt.txns.all fun t => t.region != r)

/-- Ranks whose STEP_READY the region still lacks. -/
def missingReady (g : Region) : List Nat :=
  (List.range g.members).filter fun k => k != g.rank && !g.removed.contains k && !g.readyFrom.contains (k, g.step, g.attempt)

/-- The waiting failure-domain table takes the place of the one in force, as it does at the next step boundary
of any region (R262; DEDUCED, assumption 157). -/
def domainsTakeOf (f : FaultCtl) : FaultCtl := { f with domains := f.domainsNext.getD f.domains, domainsNext := none }
def domainsTake (s : State) : State := { s with flc := domainsTakeOf s.flc }

/-- The commit itself: ledger final, records applied, objects reset, filters emptied, step number advanced. -/
def stepCommit (s : State) (r : Nat) : State :=
  withRegion s r fun g =>
    let s1 := (rankedCtxs g).foldl (fun s x => commitCtx s r g x) s
    let s2 := freeColl (updTiles s1 g endTile) r
    let quiet := !g.deliver || isShadow s r
    let fin := fun (e : LedgerEntry) => { e with final := true, tokens := e.tokens.map fun t => { t with delivered := quiet } }
    let s3 := updRegion s2 r fun g0 =>
      let g := cacheCommit g0
      { g with
      ledger := mapIf (fun e => e.step == g.step && !e.final) fin g.ledger
      idleAt := s.now
      lastCommitted := some g.step, step := (g.step + 1) % 2 ^ 64, attempt := 0, discards := 0, mstate := .committed
      landed := [], undo := [], filt := [], failCauses := [], failRecs := [], runLeft := g.runLeft - 1
      readyFrom := g.readyFrom.filter fun x => decide (g.step < x.2.1) }
    domainsTake (deliverTokens s3 r)

/-! ## Discard (R26, R27, R275) -/

/-- The tile and address that a region's window maps to an allotment offset. -/
def windowAddr (s : State) (g : Region) (off : Nat) : Option (Nat × Nat) :=
  (regionTiles s g).findSome? fun lt =>
    ((tileOf s lt).spad.win.find? fun w => w.en && decide (w.off ≤ off) && decide (off < w.off + (w.limit - w.base))).map
      fun w => (lt, w.base + (off - w.off))

/-- Writes bytes into a scratchpad past the shadow windows (refill and restore writes). -/
def spadRestore (sp : Spad) (a : Nat) (l : List Byte) : Spad :=
  { spadDrain (spadWrite { sp with win := [] } a l) with win := sp.win }

/-- Copies a granule of the allotment from Basin to the scratchpad address that maps it. -/
def restoreGranule (s : State) (g : Region) (off : Nat) : State :=
  match windowAddr s g off with
  | none => s
  | some (lt, a) =>
    updTile (countPoison s (g.basinBase + off) 512) lt fun t => { t with spad := spadRestore t.spad a (basinBytes s (g.basinBase + off) 512) }

/-! ## Page blocks -/

/-- Page-list entry of page `i` of a context: its pool page if the entry is VALID (Table 5.6). -/
def poolPageOf (s : State) (c : Ctx) (i : Nat) : Option Nat :=
  let e := sget 0 s.pageList (c.pageBase + i)
  if i < c.pageCount && bitOf e 31 then some (fld e 0 20) else none

/-- Tile and address of a page block (R144). -/
def blockPlace (im : Image) (pp l h : Nat) : Option PageMapEntry :=
  (im.pageMap.find? fun e => e.1 == (pp * im.layers + l) * im.heads + h).map (·.2)

/-- Bytes of a page block (R141). -/
def blockBytes : Nat := 17408

/-- Rank of a context in its region's reservation. -/
def ctxRank (g : Region) (id : Nat) : Nat := (firstIdx (· == id) g.ctxIds).getD 0

/-- Writes one received block at its place, and with TAIL the rows that follow it into the tail area of the context of rank `j`; both
through the shadow windows (R271). -/
def writeBlock (s : State) (im : Image) (j pp l h : Nat) (tail : Bool) (x : List Byte) : State :=
  let put := fun (s : State) (e : PageMapEntry) (bytes : List Byte) => updTile s e.lt fun t => { t with spad := spadWrite t.spad e.addr bytes }
  let s1 := match blockPlace im pp l h with
    | some e => put s e (x.take blockBytes)
    | none => s
  match tail, tailPlace im j l h with
  | true, some e => put s1 e (x.drop blockBytes)
  | _, _ => s1

/-- Writes the blocks of a received page into a pool page: the heads from HEAD_FIRST on (Table 5.12). -/
def writePage (s : State) (im : Image) (j pp : Nat) (m : PagePush) : State :=
  (List.zip (List.range m.blocks.length) m.blocks).foldl (fun s x =>
    let l := x.1 / Nat.max m.heads 1
    let h := m.headFirst + x.1 % Nat.max m.heads 1
    if l < im.layers ∧ h < im.heads then writeBlock s im j pp l h m.tail x.2 else s) s

/-- Writes again the pages that contexts received during a discarded step: they are the work of a committed step of another group (R21),
so the discard, whose undo log took their words back, does not end them (DEDUCED, assumption 59). -/
def landAgain (s : State) (g : Region) : State :=
  match g.image with
  | none => s
  | some im => g.landed.foldl (fun s x =>
      match poolPageOf s (ctxOf s x.1) x.2.pageIndex with
      | some pp => writePage s im (ctxRank g x.1) pp x.2
      | none => s) s

/-- Whether the undo entry at index `i` lies in a poisoned granule (Table 10.4). -/
def undoPoisoned (s : State) (r : Nat) (g : Region) (i : Nat) : Bool :=
  match dirOf s r with
  | none => false
  | some d => poisonIn s (g.basinBase + d.undoLog.off + 576 * i) 576 != []

/-- Contexts of a region whose pages or tail areas map to a granule of the allotment (Table 10.4). -/
def contextsAt (s : State) (g : Region) (off : Nat) : List Nat :=
  match g.image, windowAddr s g off with
  | some im, some (lt, a) =>
    let per := Nat.max (im.layers * im.heads) 1
    let at_ := fun (n : Nat) (e : Nat × PageMapEntry) => e.2.lt == lt && meets (e.2.addr, n) (a, 512)
    let pps := (im.pageMap.filter (at_ blockBytes)).map fun e => e.1 / per
    let ranks := (im.tailMap.filter (at_ 16384)).map fun e => e.1 / per
    g.ctxIds.filter fun id =>
      let c := ctxOf s id
      c.state != 0 && (ranks.contains (ctxRank g id) ||
        (List.range c.pageCount).any fun i => (poolPageOf s c i).any fun pp => pps.contains pp)
  | _, _ => []

/-- The contexts that a SHADOW_LOST report names: those whose pages map to one of the granules, 2 bytes each. -/
def lostContexts (s : State) (g : Region) (offs : List Nat) : List Byte :=
  (offs.flatMap (contextsAt s g)).eraseDups.flatMap fun c => leBytes c 2

/-- The ranges of an allotment (Table 10.2) that hold poison, as offset and length, which a BASIN_UE report names. -/
def lostRanges (s : State) (g : Region) : List Byte :=
  match g.image with
  | none => []
  | some im =>
    ([im.dir.weightImage, im.dir.cold, im.dir.kvShadow, im.dir.undoLog, im.dir.ctxBundles, im.dir.overflow].filter fun x =>
      poisonIn s (g.basinBase + x.off) x.len != []).flatMap fun x => leBytes x.off 8 ++ leBytes x.len 8

/-- Allotment offsets of the granules whose copies have not left a tile. -/
def sqOffs (sp : Spad) : List Nat :=
  sp.sq.map (·.off) ++ sp.sqWait.filterMap fun x => (shadowWin sp x.1).map fun v => v.off + (512 * (x.1 / 8) - v.base)

/-- Applies the undo log newest first, then copies each granule to scratchpad; granules whose shadow write never
left the queue are copied back too.  The list names the granules that cannot be restored: those of entries that lie in poison, and those that
were to be copied back from poison (Table 10.4). -/
def undoApply (s : State) (r : Nat) (g : Region) : State × List Nat :=
  let gone := (List.range g.undo.length).filterMap fun i => if undoPoisoned s r g i then (g.undo[i]?).map (·.off) else none
  let s1 := updTiles s g fun t => { t with spad := spadDrain t.spad }
  let queued := (regionTiles s1 g).flatMap fun lt => sqOffs (tileOf s1 lt).spad
  let s2 := updTiles s1 g fun t => { t with spad := { t.spad with sq := [], sqWait := [] } }
  let s3 := g.undo.reverse.foldl (fun s u => basinPut s (g.basinBase + u.off) u.old) s2
  let all_ := (g.undo.map (·.off) ++ queued).eraseDups
  let bad := all_.filter fun o => s3.poison.contains ((g.basinBase + o) / 512)
  ((all_.filter fun o => !bad.contains o).foldl (fun s o => restoreGranule s g o) s3, gone ++ bad)

/-- The discard of an attempt: ledger entry removed, state restored, next attempt number. -/
def stepDiscard (s : State) (r : Nat) : State :=
  withRegion s r fun g =>
    let u := undoApply s r g
    let s1 := freeColl (updTiles (landAgain u.1 g) g endTile) r
    let s2 := updRegion s1 r fun g => { g with
      landed := []
      ledger := g.ledger.filter (·.final), undo := [], filt := [], mstate := .discarded, idleAt := s.now
      cacheIn := []
      attempt := (g.attempt + 1) % 16, discards := g.discards + 1
      readyFrom := g.readyFrom.filter fun x => decide (g.step < x.2.1) || (x.2.1 == g.step && decide (g.attempt < x.2.2)) }
    let s2 := domainsTake s2
    if u.2 != [] then stopRegion (regionEvent s2 0x0502 r (lostContexts s g u.2)) r 0x0015
    else if g.attemptLimit ≤ g.discards + 1 then
      if g.failRecs.any fun c => c / 2 ^ 34 % 256 == 0x40 then stopRegion (regionEvent s2 0x0501 r (lostRanges s g)) r 0x0016
      else stopRegion s2 r 0x000F
    else s2

end Sys2Proof.Machine
end

