-- ==== Sys2Proof/Machine/Mesh.lean ====
section
/-! DEFINITION. The mesh: route lookup, flow control, arbitration and forwarding of one packet, drops, dead links, route
versions and flips (R184 to R196, R202 to R209, Tables 7.1 to 7.11). -/

namespace Sys2Proof.Machine

/-! ## Counters -/

/-- Adds to a router counter, saturating at 32 bits, unless frozen (Table 7.14). -/
def countR (r : Router) (c : RCnt) (n : Nat) : Router :=
  if bitOf r.telCtl 1 then r
  else
    let k := c.ctorIdx
    { r with cnts := sset 0 r.cnts k (satAdd (sget 0 r.cnts k) n 32) }

def countAt (s : State) (pos : Nat) (c : RCnt) : State := updRouter s pos fun r => countR r c 1

/-- Counts a packet sent on an output port (Table 7.15). -/
def countSent (r : Router) (port : Nat) (p : Packet) : Router :=
  if bitOf r.telCtl 1 then r
  else
    let k := port * 4 + p.vc
    { r with pkts := sset 0 r.pkts k (satAdd (sget 0 r.pkts k) 1 48)
             flits := sset 0 r.flits k (satAdd (sget 0 r.flits k) (flitsOf p) 48) }

/-! ## Route tables (Table 7.7) -/

def reValid (e : BitVec 32) : Bool := bitOf e.toNat 31
def rePrimary (e : BitVec 32) : Nat := fld e.toNat 28 3
def reSpray (e : BitVec 32) : List Nat := (List.range 6).filter fun p => bitOf e.toNat (22 + p)
def reLaneUp (e : BitVec 32) (p : Nat) : Bool := bitOf e.toNat (16 + p)

def tableOf (r : Router) (v : Nat) : List (Nat × BitVec 32) := if v = 0 then r.table0 else r.table1
def routeEntry (r : Router) (v i : Nat) : BitVec 32 := sget 0 (tableOf r v) i

/-- State of a version. -/
def verState (s : State) (v : Nat) : VState := if v = 0 then s.v0 else s.v1
def setVer (s : State) (v : Nat) (x : VState) : State := if v = 0 then { s with v0 := x } else { s with v1 := x }

/-- Table index of a packet's destination (R193, R266); none for a DST that names no unit. -/
def destIndex (p : Packet) : Option Nat :=
  match p.dstKind with
  | 0 => if p.dst < 576 then some p.dst else none
  | 1 => if p.dst / 16 ≠ 0 ∨ p.dst / 4 = 3 ∨ (p.dst / 4 = 2 ∧ p.dst % 4 ≠ 0) then none else some (576 + p.dst % 4)
  | 3 => if p.dst < 60 then some (580 + p.dst) else none
  | _ => none

/-- Lane on the link: L1 by LANE_UP, and for good once used (R185). -/
def outLane (e : BitVec 32) (port lane : Nat) : Nat := if lane = 1 ∨ reLaneUp e port then 1 else 0

/-- Whether the lane beyond an output port is held by XOFF. -/
def heldOut (s : State) (pos port vc lane : Nat) : Bool :=
  match linkTo pos port with
  | some n => (routerOf s n.1).xoff.contains (laneKey n.2 vc lane)
  | none => false

/-- Occupancy reported for the lane beyond an output port. -/
def occOut (s : State) (pos port vc lane : Nat) : Nat :=
  match linkTo pos port with
  | some n => laneFlits (routerOf s n.1) (laneKey n.2 vc lane)
  | none => 0

/-- What a router does with a head: drop it and count, wait, or send it by ports and lanes. -/
inductive Hop where
  | drop (c : RCnt)
  | wait
  | go (outs : List (Nat × Nat))
deriving DecidableEq, Repr

/-- The next port of an X-then-Y path to a physical index (DST_KIND 2). -/
def physPort (pos dst : Nat) : Nat :=
  if pos % 26 < dst % 26 then 2 else if dst % 26 < pos % 26 then 4
  else if pos / 26 < dst / 26 then 3 else if dst / 26 < pos / 26 then 1 else 0

/-- Ports of an entry's SPRAY_SET that are live and free to go, of these the ones of least occupancy (R196). -/
def sprayTies (s : State) (pos : Nat) (r : Router) (e : BitVec 32) (p : Packet) (lane : Nat) : List Nat :=
  let free := (reSpray e).filter fun q => !r.dead.contains q && !heldOut s pos q p.vc (outLane e q lane)
  let occ := fun q => occOut s pos q p.vc (outLane e q lane)
  let low := free.foldl (fun m q => Nat.min m (occ q)) (2 ^ 32)
  free.filter fun q => occ q == low

/-- Place of the spray choice among a router's rotations. -/
def sprayRot : Nat := 1000

/-- The port of least occupancy, the tie broken in rotation (R196). -/
def sprayPick (s : State) (pos : Nat) (r : Router) (e : BitVec 32) (p : Packet) (lane : Nat) : Hop :=
  if reSpray e = [] then .drop .noRoute
  else if (reSpray e).all fun q => r.dead.contains q then .drop .deadDrop
  else
    match rotPick (sprayTies s pos r e p lane) 6 (sget 0 r.rot sprayRot) with
    | some q => .go [(q, outLane e q lane)]
    | none => .wait

/-- Replication of a multicast packet: every live port of the set, when every lane can accept (R228). -/
def mcastPick (s : State) (pos : Nat) (r : Router) (e : BitVec 32) (p : Packet) (lane : Nat) : Hop :=
  let outs := ((reSpray e).filter fun q => !r.dead.contains q).map fun q => (q, outLane e q lane)
  if reSpray e = [] then .drop .noRoute
  else if outs = [] then .drop .deadDrop
  else if outs.any fun o => heldOut s pos o.1 p.vc o.2 then .wait
  else .go outs

/-- A single output port. -/
def onePort (s : State) (pos : Nat) (r : Router) (p : Packet) (port lane : Nat) : Hop :=
  if r.dead.contains port then .drop .deadDrop
  else if heldOut s pos port p.vc lane then .wait
  else .go [(port, lane)]

/-- The lookup and choice of one head by its own router (R193, R196, R202, R205, R228). -/
def routeHere (s : State) (pos : Nat) (r : Router) (p : Packet) (lane : Nat) : Hop :=
  if 11 ≤ p.typ then .drop .flitUe
  else if p.dstKind = 2 then onePort s pos r p (physPort pos p.dst) lane
  else if verState s p.epoch = .writable then .drop .epochStray
  else
    match destIndex p with
    | none => .drop .noRoute
    | some i =>
      let e := routeEntry r p.epoch i
      if !reValid e then .drop .noRoute
      else if p.dstKind = 3 then mcastPick s pos r e p lane
      else if p.vc = 3 then sprayPick s pos r e p lane
      else onePort s pos r p (rePrimary e) (outLane e (rePrimary e) lane)


/-! ## Region check (R209) -/

/-- Whether a router refuses a packet: a tenant packet of another region than its register. -/
def regionForeign (r : Router) (p : Packet) : Bool := p.region != 16 && p.region != r.region

/-- Whether the drop belongs to a region that the register held within the last 1 ms. -/
def regionStale (s : State) (r : Router) (p : Packet) : Bool :=
  p.region == r.prevRegion && decide (s.now - r.regionAt ≤ cyclesPerMs)

/-! ## The column's spine (R210) -/

/-- Age of a packet in units of 32 ns. -/
def ageOf (s : State) (p : Packet) : Nat := (meshTime s + 2 ^ 16 - p.injTime) % 2 ^ 16

/-- Positions of the twelve routers that share the spine of a position's column. -/
def spineCol (pos : Nat) : List Nat := (List.range 12).map fun i => 26 * (12 * (pos / 26 / 12) + i) + pos % 26

/-- Heads of the other routers of a column that could leave by the spine now, by position. -/
def spineRivals (s : State) (pos : Nat) : List (Nat × Packet) :=
  ((spineCol pos).filter (· != pos)).flatMap fun p =>
    let r := routerOf s p
    if !r.alive then [] else r.bufs.filterMap fun b =>
      match b.2 with
      | [] => none
      | x :: _ =>
        if regionForeign r x then none
        else
          match routeHere s p r x (b.1 % 2) with
          | .go outs => if outs.any fun o => o.1 == 5 then some (p, x) else none
          | _ => none

/-- Key of a spine's rotation in its die's engine: the column and the VC. -/
def spineKey (pos vc : Nat) : Nat := 4 * (pos % 26) + vc

/-- Rows of a column that contend for the spine with a head of router `pos`: those of its VC, on VC3 of its age. -/
def spineRows (s : State) (pos : Nat) (p : Packet) : List Nat :=
  (pos / 26 % 12) :: ((spineRivals s pos).filter fun x => x.2.vc == p.vc && (p.vc != 3 || ageOf s x.2 == ageOf s p)).map fun x => x.1 / 26 % 12

/-- Whether a head waits for the spine of its column: another router's VC0 head goes first, on VC3 an older one, and of equals the first row in
rotation (R187, R210). -/
def spineWaits (s : State) (pos : Nat) (p : Packet) : Bool :=
  let rivals := spineRivals s pos
  (p.vc != 0 && rivals.any fun x => x.2.vc == 0) || (p.vc == 3 && rivals.any fun x => x.2.vc == 3 && decide (ageOf s p < ageOf s x.2)) ||
    rotPick (spineRows s pos p) 12 (sget 0 (engineOf s (dieOfPos pos)).spineRot (spineKey pos p.vc)) != some (pos / 26 % 12)

/-- Moves the first place of a column's spine after a packet that others contended with (R440). -/
def turnSpine (s : State) (pos : Nat) (p : Packet) : State :=
  let rows := (spineRows s pos p).eraseDups
  if rows.length < 2 then s
  else updEngine s (dieOfPos pos) fun e => { e with
    spineRot := sset 0 e.spineRot (spineKey pos p.vc) (rotNext rows 12 (sget 0 e.spineRot (spineKey pos p.vc))) }

/-- The lookup and choice of one head: a head for the spine waits while its column's spine takes another's. -/
def routeHead (s : State) (pos : Nat) (r : Router) (p : Packet) (lane : Nat) : Hop :=
  match routeHere s pos r p lane with
  | .go outs => if outs.any (fun o => o.1 == 5) && spineWaits s pos p then .wait else .go outs
  | h => h

/-! ## Arbitration (R187) -/

/-- A head of a router that could leave now: key of its input lane, packet, outputs. -/
abbrev Head : Type := Nat × Packet × List (Nat × Nat)

/-- Heads of a router that could leave now. -/
def readyHeads (s : State) (pos : Nat) (r : Router) : List Head :=
  r.bufs.filterMap fun b =>
    match b.2 with
    | [] => none
    | p :: _ =>
      if regionForeign r p then none
      else
        match routeHead s pos r p (b.1 % 2) with
        | .go outs => some (b.1, p, outs)
        | _ => none

/-- Place of a head in the arbitration of an output lane: the number of its input port (R187, R440).  Of two heads of one port, one on
L0 and one on L1, the one on L0 goes first (DESIGN CHOICE, log entry 121: the spec orders input ports only). -/
def lanePlace (k : Nat) : Nat := k / 8

/-- Keys that contend for an output lane of a VC. -/
def contendLane (hs : List Head) (vc : Nat) (o : Nat × Nat) : List (Nat × Packet) :=
  (hs.filter fun h => h.2.1.vc == vc && h.2.2.contains o).map fun h => (h.1, h.2.1)

/-- Key of an arbitration point: output port, VC, lane. -/
def arbKey (o : Nat × Nat) (vc : Nat) : Nat := laneKey o.1 vc o.2

/-- Heads among which an output lane's rotation decides: on VC3 the oldest ones. -/
def laneRivals (s : State) (hs : List Head) (vc : Nat) (o : Nat × Nat) : List (Nat × Packet) :=
  let cs := contendLane hs vc o
  let oldest := cs.foldl (fun m c => Nat.max m (ageOf s c.2)) 0
  if vc = 3 then cs.filter fun c => ageOf s c.2 == oldest else cs

/-- Input ports whose heads compete for an output lane. -/
def lanesOf (hs : List Head) (vc : Nat) (o : Nat × Nat) : List Nat := ((contendLane hs vc o).map fun c => lanePlace c.1).eraseDups

/-- Input ports among which an output lane's rotation decides. -/
def lanePorts (s : State) (hs : List Head) (vc : Nat) (o : Nat × Nat) : List Nat :=
  ((laneRivals s hs vc o).map fun c => lanePlace c.1).eraseDups

/-- Whether the head at key `k` wins one output lane: the oldest on VC3, then the first input port in rotation. -/
def winsLane (s : State) (r : Router) (hs : List Head) (k : Nat) (p : Packet) (o : Nat × Nat) : Bool :=
  rotPick (lanePorts s hs p.vc o) 6 (sget 0 r.rot (arbKey o p.vc)) == some (lanePlace k) &&
    !(laneRivals s hs p.vc o).any fun c => lanePlace c.1 == lanePlace k && decide (c.1 < k)

/-- Place of an output lane of VC1 to VC3 in the rotation of its link. -/
def linkPlace (vc lane : Nat) : Nat := (vc - 1) * 2 + lane

/-- Place of a link's rotation among a router's rotations. -/
def linkRot (port : Nat) : Nat := 2000 + port

/-- Output lanes of VC1 to VC3 that have a head for a link. -/
def linkLanes (hs : List Head) (port : Nat) : List Nat :=
  ((hs.filter fun h => h.2.1.vc != 0).flatMap fun h => (h.2.2.filter fun o => o.1 == port).map fun o => linkPlace h.2.1.vc o.2).eraseDups

/-- Whether a link sends a lane's packet next: a VC0 packet first, else the next lane in rotation (R187, R192). -/
def winsLink (r : Router) (hs : List Head) (vc : Nat) (o : Nat × Nat) : Bool :=
  vc == 0 || (!(hs.any fun h => h.2.1.vc == 0 && h.2.2.any fun x => x.1 == o.1) &&
    rotPick (linkLanes hs o.1) 6 (sget 0 r.rot (linkRot o.1)) == some (linkPlace vc o.2))

/-- Whether a head may leave by an output: it wins the lane and the link. -/
def winsOut (s : State) (r : Router) (hs : List Head) (h : Head) (o : Nat × Nat) : Bool :=
  winsLane s r hs h.1 h.2.1 o && winsLink r hs h.2.1.vc o

/-- Whether a head is granted: at every output it leaves by; where no head wins all of its outputs, as heads of multicast packets may
each win one, at its first output (DESIGN CHOICE, log entry 121). -/
def headGranted (s : State) (r : Router) (hs : List Head) (h : Head) : Bool :=
  h.2.2.all (winsOut s r hs h) ||
    (!(hs.any fun x => x.2.2.all (winsOut s r hs x)) && (h.2.2.head?.any (winsOut s r hs h)))

/-- The rotations of an output after its packet: the lane's moves on when input ports contended, the link's at each tail. -/
def turnOut (hs : List Head) (vc : Nat) (m : List (Nat × Nat)) (o : Nat × Nat) : List (Nat × Nat) :=
  let m1 := sset 0 m (arbKey o vc) (rotNext (lanesOf hs vc o) 6 (sget 0 m (arbKey o vc)))
  if vc = 0 then m1 else sset 0 m1 (linkRot o.1) ((linkPlace vc o.2 + 1) % 6)

/-! ## Answers of a router -/

/-- Whether a packet type is answered by an ACK or NACK. -/
def answered (typ : Nat) : Bool := typ == 0 || typ == 1 || typ == 2 || typ == 3 || typ == 9

/-- Number that stands in SRC_LT for the collective engine of a die. -/
def engineLt (die : Nat) : Nat := 0x3F8 + die

/-- Where an answer to a packet goes: the source tile, an engine of this device, or the gateway toward its device. -/
def answerDst (s : State) (pos : Nat) (p : Packet) : Nat × Nat :=
  if p.srcDev ≠ s.idn.deviceId then (1, dieOfPos pos)
  else if 0x3F8 ≤ p.srcLt ∧ p.srcLt < 0x3FC then (1, p.srcLt - 0x3F8)
  else (0, p.srcLt)

/-- An ACK or NACK of a packet, stamped at `pos` with the region and the generation of the tile there (R188, Table 7.3). -/
def answerPacket (s : State) (pos : Nat) (p : Packet) (typ reason : Nat) : Packet :=
  let d := answerDst s pos p
  let t := tileAtPos s pos
  { blankPacket with
    typ := typ, epoch := b2n s.activeEpoch, region := tileRegion t, gen := t.gen, dstKind := d.1, dst := d.2
    srcLt := ltAt s pos, srcDev := s.idn.deviceId, last := true, injTime := meshTime s
    transport := ackTransport p.flow p.transfer p.seq reason p.srcDev p.srcLt }

/-- Sends an answer from a position. -/
def answer (s : State) (pos : Nat) (p : Packet) (typ reason : Nat) : State :=
  injectAt s pos (answerPacket s pos p typ reason)

/-- The NACK UNREACHABLE of a router that has no route, provided a route back exists (R193). -/
def unreachable (s : State) (pos : Nat) (p : Packet) : State :=
  let a := answerPacket s pos p tNack 0x05
  match destIndex a with
  | some i =>
    if answered p.typ && p.srcLt != 0x3FF && reValid (routeEntry (routerOf s pos) a.epoch i) then injectAt s pos a else s
  | none => s

/-! ## Forwarding -/

/-- Takes the head of an input lane, and lets in the packets that wait for the room. -/
def dequeue (s : State) (pos port vc lane : Nat) : State :=
  let k := laneKey port vc lane
  let s1 := updRouter s pos fun r => noteXoff pos { r with bufs := sset [] r.bufs k ((sget [] r.bufs k).drop 1) } port vc lane
  drainLane (routerOf s1 pos).outbox.length s1 pos k

/-- Puts a packet into a neighbour's input lane; a router that has stopped loses it. -/
def arriveLane (s : State) (pos port vc lane : Nat) (p : Packet) : State :=
  if (routerOf s pos).alive then updRouter (enqueue s pos port vc lane p) pos fun r => noteXoff pos r port vc lane
  else s

/-- Delivery at the LOCAL output: a packet of another instance generation is discarded (R188), and one to an absent tile is answered
UNREACHABLE (R345). -/
def deliverLocal (s : State) (pos : Nat) (p : Packet) : State :=
  if p.dstKind = 0 ∧ s.absent.contains p.dst then unreachable (countAt s pos .noRoute) pos p else
  if p.dstKind ≠ 2 ∧ p.gen ≠ (tileAtPos s pos).gen then countAt s pos .staleGen
  else updRouter s pos fun r => { r with inbox := r.inbox ++ [p] }

/-- Sends one copy of a packet, come by input port `port`, by an output port and lane; one that would cross its 64th link is dropped and
not sent (R190). -/
def sendOut (s : State) (pos port : Nat) (p : Packet) (o : Nat × Nat) : State :=
  let s1 := updRouter s pos fun r => countSent r o.1 p
  let here := { p with port := port, got := s.now }
  match o.1 with
  | 0 => deliverLocal s1 pos here
  | 5 =>
    if p.dst / 4 = 0 ∨ p.dstKind ≠ 1 then updEngine s1 (dieOfPos pos) fun e => { e with inbox := e.inbox ++ [here] } else s1
  | q =>
    match linkTo pos q with
    | none => s1
    | some n => if 63 < p.hops + 1 then countAt s pos .hopDrop else arriveLane s1 n.1 n.2 p.vc o.2 { p with hops := p.hops + 1 }

/-- Rotations after a packet has been sent: a contested spray choice moves its own on (R196). -/
def turnSpray (s : State) (pos : Nat) (r : Router) (p : Packet) (lane : Nat) (rot : List (Nat × Nat)) : List (Nat × Nat) :=
  match destIndex p with
  | some i =>
    if p.vc = 3 ∧ p.dstKind ≠ 3 then
      sset 0 rot sprayRot (rotNext (sprayTies s pos r (routeEntry r p.epoch i) p lane) 6 (sget 0 rot sprayRot))
    else rot
  | none => rot

/-- PACKET_FORWARD: the head of an input lane is checked, routed, granted and sent, or dropped and counted. -/
def packetForward (s : State) (pos port vc lane : Nat) : State :=
  let r := routerOf s pos
  let k := laneKey port vc lane
  match sget [] r.bufs k with
  | [] => s
  | p :: _ =>
    if !r.alive then s
    else if regionForeign r p then
      let s1 := countAt (dequeue s pos port vc lane) pos .regionDrop
      if regionStale s r p then s1 else posEvent s1 0x0303 pos 6 port []
    else
      match routeHead s pos r p lane with
      | .wait => s
      | .drop c =>
        let s1 := countAt (dequeue s pos port vc lane) pos c
        if c == .noRoute then unreachable s1 pos p else s1
      | .go outs =>
        let hs := readyHeads s pos r
        if headGranted s r hs (k, p, outs) then
          let s1 := updRouter s pos fun r => { r with rot := turnSpray s pos r p lane (outs.foldl (turnOut hs p.vc) r.rot) }
          let s2 := if outs.any fun o => o.1 == 5 then turnSpine s1 pos p else s1
          outs.foldl (fun s o => sendOut s pos port p o) (dequeue s2 pos port vc lane)
        else s

def laneOk (port vc lane : Nat) : Bool := decide (port < 6) && decide (vc < 4) && decide (lane < 2)

/-- AGE_DROP (R190): the head of a lane is older than 1 ms. -/
def execAgeDrop (pos port vc lane : Nat) (s : State) : Out :=
  needUnit (posOk pos && laneOk port vc lane)
    (match sget [] (routerOf s pos).bufs (laneKey port vc lane) with
      | [] => .next s
      | p :: _ => whenB (decide (31250 < ageOf s p)) s (countAt (dequeue s pos port vc lane) pos .ageDrop))


/-- Takes the first packet of a router's inbox that satisfies a test. -/
def takeInbox (s : State) (pos : Nat) (p : Packet → Bool) : Option (Packet × State) :=
  let r := routerOf s pos
  match r.inbox.find? p with
  | none => none
  | some x =>
    match firstIdx p r.inbox with
    | some i => some (x, setRouter s pos { r with inbox := r.inbox.eraseIdx i })
    | none => none

/-! ## Versions and flips (R194, R202 to R204) -/

/-- Outputs of an entry for a packet class: `spray` for VC3 and multicast, else PRIMARY. -/
def classOuts (i : Nat) (e : BitVec 32) (spray : Bool) (lane : Nat) : List (Nat × Nat) :=
  (if spray || decide (580 ≤ i) then reSpray e else [rePrimary e]).map fun q => (q, outLane e q lane)

/-- Number of a link lane. -/
def linkLane (pos : Nat) (o : Nat × Nat) : Nat := (pos * 8 + o.1) * 2 + o.2

/-- Lane in which a packet of a class to a destination enters the mesh at a router: L1 only for a VC3 packet bound west (R193). -/
def entryLane (s : State) (pos i : Nat) (spray : Bool) : Nat :=
  if spray && decide (i < 576) && decide (posOf s i % 26 < pos % 26) then 1 else 0

/-- Where packets to destination `i` of a class go from a position and lane by one version: next position and lane. -/
def nextHops (s : State) (v i : Nat) (spray : Bool) (x : Nat × Nat) : List (Nat × Nat) :=
  let e := routeEntry (routerOf s x.1) v i
  if !reValid e then [] else (classOuts i e spray x.2).filterMap fun o => (linkTo x.1 o.1).map fun n => (n.1, o.2)

/-- Positions and lanes that packets to a destination can hold, from those in `acc`; `fuel` bounds the hops. -/
def reachHops (s : State) (v i : Nat) (spray : Bool) : Nat → List (Nat × Nat) → List (Nat × Nat)
  | 0, acc => acc
  | n + 1, acc =>
    let new := ((acc.flatMap (nextHops s v i spray)).filter fun x => !acc.contains x).eraseDups
    if new = [] then acc else reachHops s v i spray n (acc ++ new)

/-- Destinations that a version's tables name. -/
def destsOf (s : State) (v : Nat) : List Nat := (s.routers.flatMap fun x => (tableOf x.2 v).map (·.1)).eraseDups

/-- Positions and lanes where packets to a destination can be under a version: where they enter, and all that follows. -/
def heldAt (s : State) (v i : Nat) (spray : Bool) : List (Nat × Nat) :=
  reachHops s v i spray 1248 ((s.routers.filter fun x => reValid (routeEntry x.2 v i)).map fun x => (x.1, entryLane s x.1 i spray))

/-- Dependencies of a version for one class, each with its destination: a link lane that a packet can hold to the next it needs. -/
def depEdges (s : State) (v : Nat) (spray : Bool) : List (Nat × Nat × Nat) :=
  (destsOf s v).flatMap fun i => (heldAt s v i spray).flatMap fun x =>
    let e := routeEntry (routerOf s x.1) v i
    if !reValid e then []
    else (classOuts i e spray x.2).flatMap fun o =>
      match linkTo x.1 o.1 with
      | none => []
      | some n =>
        let e2 := routeEntry (routerOf s n.1) v i
        if reValid e2 then (classOuts i e2 spray o.2).map fun o2 => (i, linkLane x.1 o, linkLane n.1 o2) else []

/-- Link lanes reachable along an edge list from those in `acc`; `fuel` is the number of edges. -/
def reachLanes (es : List (Nat × Nat × Nat)) : Nat → List Nat → List Nat
  | 0, acc => acc
  | n + 1, acc =>
    let new := ((es.filter fun e => acc.contains e.2.1 && !acc.contains e.2.2).map (·.2.2)).eraseDups
    if new = [] then acc else reachLanes es n (acc ++ new)

/-- Destinations with a dependency on a cycle of an edge list: one whose end leads back to its start. -/
def cyclic (es : List (Nat × Nat × Nat)) : List Nat :=
  ((es.filter fun e => (reachLanes es es.length [e.2.2]).contains e.2.1).map (·.1)).eraseDups

/-- Destinations of a version that fail the single-version check. -/
def versionBad (s : State) (v : Nat) : List Nat := (cyclic (depEdges s v false) ++ cyclic (depEdges s v true)).eraseDups

/-- Whether the union of both versions is free of cycles. -/
def unionOk (s : State) : Bool :=
  cyclic (depEdges s 0 false ++ depEdges s 1 false) == [] && cyclic (depEdges s 0 true ++ depEdges s 1 true) == []

/-- Marks destinations of a version not VALID at every router. -/
def invalidate (s : State) (v : Nat) (ds : List Nat) : State :=
  { s with routers := s.routers.map fun x =>
      let f := fun (m : List (Nat × BitVec 32)) => m.map fun e =>
        if ds.contains e.1 then (e.1, BitVec.ofNat 32 (e.2.toNat % 2 ^ 31)) else e
      (x.1, if v = 0 then { x.2 with table0 := f x.2.table0 } else { x.2 with table1 := f x.2.table1 }) }

def activeVer (s : State) : Nat := b2n s.activeEpoch
def otherVer (s : State) : Nat := 1 - activeVer s

/-- Packets of an epoch in the routers (R202). -/
def inFlight (s : State) (v : Nat) : Nat :=
  (s.routers.map fun x => (x.2.bufs.map fun b => (b.2.filter fun p => p.epoch == v).length).foldl (· + ·) 0).foldl (· + ·) 0

/-- At a route epoch flip the members that stayed silent to a step query leave their groups (R24), each at its region's boundary. -/
def applyLeaving (s : State) : State :=
  { s with regions := s.regions.map fun e =>
      if e.2.leaving = [] then e
      else (e.1, { e.2 with
        boundary := e.2.boundary ++ e.2.leaving.map fun k => ⟨.remove k, none, s.orderNo⟩, leaving := [] }) }

/-- Makes the other version active; the old one drains, and the link reports that a detour was prepared from are done with (R205). -/
def flipNow (s : State) : State :=
  applyLeaving (setVer (setVer { s with activeEpoch := !s.activeEpoch, fab := { s.fab with linkReports := [] } } (otherVer s) .active) (activeVer s) .draining)

/-- Whether an entry leads only to routers of the same footprint. -/
def staysInside (s : State) (pos i : Nat) (e : BitVec 32) : Bool :=
  ([false, true].flatMap fun sp => classOuts i e sp 0).all fun o =>
    (linkTo pos o.1).all fun n => (routerOf s n.1).region == (routerOf s pos).region

/-- Entries of a version by which a tenant packet would leave its region's footprint for a tile of that region lose VALID: no path inside
the footprint reaches it (R209). -/
def confineVersion (s : State) (v : Nat) : State :=
  { s with routers := s.routers.map fun x =>
      let f := fun (m : List (Nat × BitVec 32)) => m.map fun e =>
        if x.2.region < 16 ∧ e.1 < 576 ∧ (routerOf s (posOf s e.1)).region = x.2.region ∧ staysInside s x.1 e.1 e.2 = false then
          (e.1, BitVec.ofNat 32 (e.2.toNat % 2 ^ 31)) else e
      (x.1, if v = 0 then { x.2 with table0 := f x.2.table0 } else { x.2 with table1 := f x.2.table1 }) }

/-- The record of a quiet flip in the event log (R204; its code is a free value, assumption 140). -/
def quietEvent (s : State) : State := devEvent s Config.quietFlipCode.toNat 6 0xFF []

/-- Verifies the other version and flips to it: at once when the union is acyclic, else as a quiet flip; a version that
fails alone is not flipped and its failing destinations become not VALID (R194, R204).  No version is made active with a VALID entry
to an absent tile (R345). -/
def tryFlip (s : State) (union : Bool) : State :=
  let v := otherVer s
  if verState s v ≠ .writable ∧ verState s v ≠ .ready then s
  else if s.fab.rippleWait.any fun x => x.1 == .tableWrite then s
  else
    let s0 := confineVersion s v
    let s1 := if s.absent = [] then s0 else invalidate s0 v s.absent
    match versionBad s1 v with
    | [] => if union && unionOk s1 then flipNow s1 else quietEvent { setVer s1 v .ready with quiet := true }
    | ds => invalidate s1 v ds

/-- Whether a flip has been made, at once or as a quiet flip. -/
def flipped (s t : State) : Bool := t.activeEpoch != s.activeEpoch || t.quiet

/-- Whether a packet at a position and lane would leave toward a dead link or router. -/
def usesDead (s : State) (v i : Nat) (spray : Bool) (x : Nat × Nat) : Bool :=
  (classOuts i (routeEntry (routerOf s x.1) v i) spray x.2).any fun o =>
    (routerOf s x.1).dead.contains o.1 || (linkTo x.1 o.1).any fun n => !(routerOf s n.1).alive

/-- Whether a version's paths from a position to destination `i` cross a dead link or router. -/
def crossesDead (s : State) (v i pos : Nat) : Bool :=
  [false, true].any fun sp => (reachHops s v i sp 1248 [(pos, entryLane s pos i sp)]).any (usesDead s v i sp)

/-- Whether the other version is a detour of the active one (R204): every entry that differs is of paths that cross a dead router or
link, and stays inside the footprint. -/
def detourOk (s : State) : Bool :=
  s.routers.all fun x => (((tableOf x.2 0) ++ tableOf x.2 1).map (·.1)).all fun i =>
    routeEntry x.2 0 i == routeEntry x.2 1 i ||
      (crossesDead s (activeVer s) i x.1 && staysInside s x.1 i (routeEntry x.2 (otherVer s) i))

/-- Regions whose paths a flip changes: those of the routers whose two versions differ. -/
def changedRegions (s : State) : List Nat :=
  ((s.routers.filter fun x => x.2.table0 != x.2.table1).map fun x => x.2.region).eraseDups

/-- DETOUR_FLIP (R204): takes effect at once, at no boundary. -/
def execDetourFlip (s : State) : Out := whenB (!s.quiet && detourOk s) s (tryFlip s true)

/-- Whether a region stands at a step boundary: no attempt is running or being judged. -/
def atBoundary (g : Region) : Bool := g.mstate == .idle || g.mstate == .committed || g.mstate == .discarded

/-- Rank of a boundary action in the order of R17. -/
def actRank : BAct → Nat
  | .heal => 1
  | .castle _ => 2
  | .rePlace _ => 3
  | .refill _ => 4
  | .flip => 5
  | .member _ _ _ _ => 6
  | .promote _ _ _ _ => 6
  | .remove _ => 6
  | .load _ => 7
  | .unload => 7
  | .release _ => 8
  | .admitSeq _ _ _ => 9
  | .stop _ => 10
  | .destroy => 11
  | .dvfs _ _ => 12

/-- Whether every waiting action of a region that comes before rank `k` is done. -/
def boundaryUpTo (g : Region) (k : Nat) : Bool := atBoundary g && g.boundary.all fun b => decide (k ≤ actRank b.act)

/-- Whether a castling under way holds a region: every other boundary action waits until it is complete (R17, R344). -/
def castleHolds (s : State) (r : Nat) : Bool := s.rep.castle.any fun c => c.held.contains r

/-- Whether an action of rank `k` may run at a region's boundary: no earlier one waits and no castling is under way there. -/
def boundaryFree (s : State) (r : Nat) (g : Region) (k : Nat) : Bool := boundaryUpTo g k && !castleHolds s r

/-- What BOUNDARY_LOG lists of an action (R17, R370); stops and destructions are not in R17's list. -/
def kindOf : BAct → Option BoundaryKind
  | .heal => some .healing
  | .castle p => some (.castling p)
  | .rePlace lt => some (.rePlacement lt)
  | .refill lt => some (.refill lt)
  | .flip => some .routeFlip
  | .member gid n k ps => some (.membership gid n k ps)
  | .promote k d g l => some (.memberPromoted k d g l)
  | .remove k => some (.memberRemoved k)
  | .load im => some (.imageLoad im)
  | .unload => none
  | .release k => some (.release k)
  | .admitSeq b ts ks => some (.admission b ts ks)
  | .stop _ => none
  | .destroy => none
  | .dvfs d m => some (.dvfs d m)

/-- Takes the waiting actions of a region that satisfy a test off its list and logs their kind. -/
def dropAct (s : State) (r : Nat) (p : BAct → Bool) : State :=
  updRegion s r fun g => { g with
    boundary := g.boundary.filter fun b => !p b.act
    boundaryLog := g.boundaryLog ++ (g.boundary.filter fun b => p b.act).filterMap fun b => kindOf b.act }

/-- Whether every region of a list stands at its boundary with all that precedes a flip done. -/
def flipTime (s : State) (regions : List Nat) : Bool :=
  regions.all fun r => (regionOf s r).all fun g => if castleHolds s r then atBoundary g else boundaryUpTo g 5

/-- A planned flip; the waiting flips of its regions are done once it is made, and wait on while the other version drains (R203). -/
def plannedFlip (s : State) (regions : List Nat) (union : Bool) : State :=
  let s1 := tryFlip s union
  if flipped s s1 then regions.foldl (fun s r => dropAct s r (fun a => a == .flip)) s1 else s1

/-- PLANNED_FLIP (R204, Table 7.10): every named region stands at its boundary, and the paths of no other region change. -/
def execPlannedFlip (regions : List Nat) (union : Bool) (s : State) : Out :=
  needUnit (regions.all regOk)
    (whenB (!s.quiet && flipTime s regions && (changedRegions s).all fun r => regions.contains r) s (plannedFlip s regions union))

end Sys2Proof.Machine
end

