-- ==== Sys2Proof/Machine/Faults.lean ====
section
/-! DEFINITION. Faults: resets of a tile core and a tile router, hang records, captures, fault history, classification and
Palacy records, a position declared failed, and how an attempt of a step ends (R340, R350, R354 to R363, R388, R389). -/

namespace Sys2Proof.Machine

def rfOf (s : State) (r : Nat) : RegFault := sget regFaultReset s.rf r
def updRf (s : State) (r : Nat) (f : RegFault → RegFault) : State :=
  { s with rf := sset regFaultReset s.rf r (f (rfOf s r)) }

/-! ## Reset domains of a position (Table 13.1) -/

/-- A tile core reset: engines, scheduler, queues, objects, codebook tags, merge buffer, valid bits and counters; region
membership and instance tag survive, and the data cells keep what the valid bits now hide.  The protected
windows last until unload or destruction (R73); the rest of the configuration waits for the refill (DEDUCED, assumption 156). -/
def coreReset (t : Tile) : Tile :=
  { tileReset with
    spad := { spadEmpty with mem := t.spad.mem }
    region := t.region, gen := t.gen, inUse := t.inUse, protects := t.protects, ceBank := t.ceBank, ceTile := t.ceTile, ceThreshold := t.ceThreshold
    scrubLine := t.scrubLine, heldReset := t.heldReset, fenced := t.fenced, clockGated := t.clockGated }

/-- Resets the tile core at a logical tile; a tile of a tenant region is refilled at the next boundary (R352). -/
def resetTileCore (s : State) (lt : Nat) : State :=
  let s1 := updTile s lt coreReset
  updRegion s1 (tileOf s lt).region fun g =>
    if g.boundary.any (fun b => b.act == BAct.refill lt) then g
    else { g with boundary := g.boundary ++ [⟨.refill lt, none, s.orderNo⟩] }

/-- A tile router reset: both versions not VALID, buffers, region register and counters (Table 13.1). -/
def resetRouter (s : State) (pos : Nat) : State := setRouter s pos { routerReset with histFrom := s.now }

/-! ## Hang records (R354 to R356, Table 13.2) -/

/-- The hang record as 32 bytes, most significant field first in the 256-bit word. -/
def hangRecord (typ r lt q idx cls block wq objv waited step att reason dev plt : Nat) : Nat :=
  typ * 2 ^ 248 + r % 32 * 2 ^ 243 + lt % 1024 * 2 ^ 233 + q % 64 * 2 ^ 227 + idx % 2 ^ 16 * 2 ^ 211 + cls % 16 * 2 ^ 207 +
    block % 16 * 2 ^ 203 + wq % 64 * 2 ^ 197 + objv % 2 ^ 32 * 2 ^ 165 + Nat.min waited (2 ^ 32 - 1) * 2 ^ 133 +
    step % 2 ^ 16 * 2 ^ 117 + att % 16 * 2 ^ 113 + reason % 256 * 2 ^ 105 + dev % 4096 * 2 ^ 93 + plt % 1024 * 2 ^ 83

/-- The first input queue of a descriptor that lacks an entry. -/
def emptyInput (t : Tile) (d : Nat) : Nat :=
  ([0, 1, 2].findSome? fun i => match dIn d i with
    | some q => if pickIns t d i q [] = none then some q else none
    | none => none).getD 0x3F

/-- The first output queue of a descriptor without a free entry. -/
def fullOutput (t : Tile) (d : Nat) : Nat :=
  if dOutEn d && freeCount t (dOut d) == 0 then dOut d else if dCompEn d then t.compQueue else 0x3F

/-- An open transfer of a fired descriptor. -/
def flowOf (t : Tile) (fid : Nat) : Option TxFlow := (t.flows.find? fun f => f.2.x.fid == fid).map (·.2)

/-- Whether a flow is being retried after a refusal. -/
def retrying (fl : TxFlow) : Bool :=
  fl.retryAt.isSome || fl.pkts.any fun p => match p with | .retryAt _ => true | _ => false

/-- What stops the oldest unretired descriptor of a queue: index, descriptor, BLOCK, WAIT_QUEUE, OBJ_VALUE, NACK_REASON,
PEER_DEV and PEER_LT. -/
structure Blocked where
  idx : Nat
  d : Nat
  block : Nat
  wq : Nat
  objv : Nat
  reason : Nat
  dev : Nat
  lt : Nat
deriving DecidableEq, Repr

/-- The oldest unretired descriptor of a queue and its first unmet condition, in the order of R356. -/
def blockedOf (s : State) (lt q : Nat) : Option Blocked :=
  let t := tileOf s lt
  match t.fired.find? fun f => f.q == q with
  | some f =>
    match flowOf t f.fid with
    | some fl =>
      let own := fl.x.dstKind == 0
      let dev := if fl.x.destDev = s.idn.deviceId ∧ own then s.idn.deviceId else fl.x.destDev
      let plt := if own then fl.x.dst else fl.x.destLt
      if dClass f.desc = 5 ∧ retrying fl then some ⟨f.idx, f.desc, 10, 0x3F, 0, fl.lastNack, dev, plt⟩
      else some ⟨f.idx, f.desc, 9, 0x3F, 0, 0, dev, plt⟩
    | none => some ⟨f.idx, f.desc, 0, 0x3F, 0, 0, 0xFFF, 0x3FF⟩
  | none =>
    match headDesc t q with
    | none => none
    | some (_, idx, d) =>
      let b := fun (n wq ov : Nat) => some (⟨idx, d, n, wq, ov, 0, 0xFFF, 0x3FF⟩ : Blocked)
      if !fenceOk t q d then b 1 0x3F 0
      else if dInstance d != tagOf t then b 2 0x3F 0
      else if planIns t d = none then b 3 (emptyInput t d) 0
      else if !roomOk t d then b 4 (fullOutput t d) 0
      else if !waitOk t s.now d then b 5 0x3F (objPrev (objOf t (dWaitObj d)) s.now)
      else if !engineOk t s.now d then b 6 0x3F 0
      else if !halfOk t d then b 7 0x3F 0
      else b 8 0x3F 0

/-- Posts a hang record for a blocked descriptor (codes 0x0200 + TYPE). -/
def postHang (s : State) (typ lt q : Nat) (b : Blocked) : State :=
  let t := tileOf s lt
  let w := hangRecord typ t.region lt q b.idx (dClass b.d) b.block b.wq b.objv
    ((s.now - (queueOf t q).since) / cyclesPerUs) (stepOf s t.region) (attemptOf s t.region) b.reason b.dev b.lt
  tileEvent s (0x0200 + typ) t.region lt 0 q (leBytes w 32)

/-! ## Captures (R268, R357) -/

/-- Whether a slot is free: no bundle, or an exported one with a newer bundle of its region. -/
def slotFree (s : State) (k : Nat) : Bool :=
  match s.bundles.find? fun b => b.slot == k with
  | none => true
  | some b => b.exported && s.bundles.any fun c => c.region == b.region && decide (b.seq < c.seq)

/-- The slot that the next capture takes, and whether it overwrites a bundle. -/
def pickSlot (s : State) : Nat × Bool :=
  match (List.range 8).find? (slotFree s) with
  | some k => (k, false)
  | none =>
    let old := s.bundles.foldl (fun (acc : Option Bundle) b => match acc with
      | none => some b
      | some a => if b.at_ < a.at_ then some b else some a) none
    (old.elim 0 (·.slot), true)

/-- The instance tag of a region: that of its first tile. -/
def instTag (s : State) (g : Region) : Nat := (regionTiles s g).head?.elim 0 fun lt => tagOf (tileOf s lt)

/-- Opens a capture: the slot is taken and the bundle's header written, without a marker. -/
def openCapture (s : State) (r reason : Nat) (tiles : List Nat) : State × Nat :=
  let p := pickSlot s
  let s1 := if p.2 then regionEvent s 0x0504 r (leBytes p.1 1) else s
  let seq := sget 0 s1.bundleSeq r
  let b : Bundle :=
    { slot := p.1, base := slotBase p.1, region := r, inst := (regionOf s r).elim 0 (instTag s), step := stepOf s r, attempt := attemptOf s r
      reason := reason, seq := seq, tiles := tiles, tilesLost := [], committed := false, exported := false, lost := false
      at_ := s.now }
  let s2 := { s1 with
      bundles := (s1.bundles.filter fun x => x.slot != p.1) ++ [b]
      bundleSeq := sset 0 s1.bundleSeq r (seq + 1)
      scans := s1.scans.filter fun x => !meets (x.addr, x.len) (slotBase p.1, slotBytes) }
  (putRaw s2 b.base (bundleHeader s2 b), p.1)

/-- Writes the section of each tile behind the header, in ascending LT. -/
def captureTiles (s : State) (r scope base : Nat) (lts : List Nat) : State :=
  (lts.foldl (fun (acc : State × Nat) lt =>
    let s1 := scanOut acc.1 acc.2 scope r lt
    (s1, alignUp (acc.2 + sectionLen (tileOf s1 lt) scope) 64)) (s, base + 128)).1

/-- Writes a bundle's commit marker, the header's TILES and TOTAL_LENGTH being those of the sections that were written. -/
def commitCapture (s : State) (slot : Nat) : State :=
  match s.bundles.find? fun b => b.slot == slot && !b.committed with
  | none => s
  | some b =>
    let s1 := putRaw s b.base (bundleHeader s b)
    let s2 := putRaw s1 (b.base + bundleTotal s b - 64) (bundleMarker s1 b)
    { s2 with
        bundles := mapIf (fun b => b.slot == slot && !b.committed) (fun b => { b with committed := true }) s2.bundles }

/-- A whole capture of some tiles of a region with the full SCOPE. -/
def captureNow (s : State) (r reason : Nat) (lts : List Nat) : State :=
  let o := openCapture s r reason lts
  commitCapture (captureTiles o.1 r 0x7F (slotBase o.2) lts) o.2

/-- A capture of every present tile of a region. -/
def captureRegion (s : State) (r reason : Nat) : State :=
  withRegion s r fun g => captureNow s r reason (regionTiles s g)

/-! ## Keys of units (Table 14.5) -/

/-- KEY of a unit at a position (kinds 1 to 6). -/
def posKey (kind pos sub : Nat) : Nat := kind * 2 ^ 27 + pos % 26 * 2 ^ 22 + pos / 26 * 2 ^ 17 + sub % 64 * 2 ^ 11
/-- KEY of a unit of a die (kinds 7 to 10). -/
def dieKey (kind die : Nat) : Nat := kind * 2 ^ 27 + die
def keyKind (k : Nat) : Nat := k / 2 ^ 27
def keySub (k : Nat) : Nat := fld k 11 6

/-! ## Fault history (R388) -/

def newHist (key : Nat) : HistEntry := ⟨key, [], false, 0, 0, List.replicate 16 0⟩

/-- Newest time of an entry. -/
def newestOf (h : HistEntry) : Nat := h.times.getLastD 0

/-- The entry of a key, made when there is none; a full table of 8,192 loses the entry whose newest time is oldest. -/
def histGet (rc : Recorder) (key : Nat) : HistEntry × Recorder :=
  match rc.history.find? fun h => h.key == key with
  | some h => (h, rc)
  | none =>
    if rc.history.length < 8192 then (newHist key, { rc with history := rc.history ++ [newHist key] })
    else
      let old := rc.history.foldl (fun (m : Nat) h => Nat.min m (newestOf h)) (2 ^ 32)
      let i := (firstIdx (fun h : HistEntry => newestOf h == old) rc.history).getD 0
      (newHist key, { rc with history := rc.history.eraseIdx i ++ [newHist key], histEvict := satAdd rc.histEvict 1 32 })

def histPut (rc : Recorder) (h : HistEntry) : Recorder :=
  { rc with history := mapIf (fun x => x.key == h.key) (fun _ => h) rc.history }

def histOf (s : State) (key : Nat) : HistEntry := (s.recorder.history.find? fun h => h.key == key).getD (newHist key)

/-- The TIME format of Table 14.1. -/
def timeWord (s : State) : Nat := wallSecs s * 2 ^ 20 + wallUs s

/-- Adds one charged fault to a unit's entry, in the histogram bins of its signature class (Table 14.8). -/
def histCharge (s : State) (key : Nat) (bins : List Nat) : State :=
  let r := histGet s.recorder key
  let h := r.1
  let ts := h.times ++ [wallSecs s]
  { s with recorder := histPut r.2 { h with
      times := ts.drop (ts.length - 15)
      events := satAdd h.events 1 32
      first := if h.events = 0 then timeWord s else h.first
      spread := bins.foldl (modAt fun n => satAdd n 1 16) h.spread } }

/-- Whether HISTORY finds a unit permanent (R361). -/
def histPermanent (s : State) (h : HistEntry) : Bool :=
  decide (s.flc.histEvents ≤ (h.times.filter fun t => decide (wallSecs s - t ≤ s.flc.histDays * 86400)).length)

/-! ## Palacy records (R389, Table 14.7) -/

/-- DEPTH of a unit (Table 0.1): macro 2, unit 3, tile 4, die 6; a bit cell 1. -/
def depthOfKind (k bit : Nat) : Nat :=
  if k = 0 then 4 else if k = 1 then (if bit = 0 then 2 else 1) else if k ≤ 6 then 3 else 6

/-- Charged faults on each of the last 16 days, from the times held. -/
def ageHist (s : State) (h : HistEntry) : List Byte :=
  (List.range 16).flatMap fun d => leBytes (h.times.filter fun t => (wallSecs s - t) / 86400 == d).length 2

/-- The first 248 bytes of a Palacy record. -/
def palacyBody (s : State) (no r : Nat) (c : Charge) (method outcome action : Nat) : List Byte :=
  let h := histOf s c.key
  let k := keyKind c.key
  let at_ := decide (k ≤ 6)
  leBytes 0x5041 2 ++ [0x02] ++ leBytes c.sigClass 1 ++ leBytes no 4 ++ leBytes s.idn.serial 8 ++
    leBytes (b2n s.idn.assigned * 2 ^ 15 + s.idn.deviceId) 2 ++ leBytes s.idn.incarnation 2 ++ [0xB1, 0x01] ++
    leBytes s.idn.lifecycle 1 ++ leBytes (depthOfKind k c.bit) 1 ++
    leBytes (if at_ then dieOfPos c.pos else if k ≤ 10 then c.key % 4 else 0xFF) 1 ++
    leBytes (if at_ then c.pos % 26 else 0xFF) 1 ++ leBytes (if at_ then c.pos / 26 else 0xFF) 1 ++ leBytes k 1 ++
    leBytes c.lt 2 ++ leBytes (if at_ then keySub c.key else c.key % 4) 1 ++ leBytes c.lane 1 ++ leBytes c.row 2 ++
    leBytes c.bit 2 ++ leBytes c.ext 4 ++ leBytes h.first 8 ++ leBytes (timeWord s) 8 ++ leBytes h.events 4 ++
    leBytes method 1 ++ leBytes outcome 1 ++ leBytes action 1 ++ [0x00] ++ ageHist s h ++
    (h.spread.flatMap fun n => leBytes n 2) ++ leBytes s.idn.fwId 8 ++
    leBytes (((regionOf s r).bind (·.image)).elim 0 (·.imageId)) 8 ++ leBytes (if r < 17 then r else 0xFF) 1 ++ zeros 3 ++
    leBytes (stepOf s r) 4 ++ padTo c.payload 32 ++ zeros 64

/-- Writes one Palacy record and posts PALACY_READY. -/
def palacy (s : State) (r : Nat) (c : Charge) (method outcome action : Nat) : State :=
  let no := s.recorder.recordNo
  let b := padTo (palacyBody s no r c method outcome action) 248
  let bytes := b ++ leBytes (crc64 b).toNat 8
  let s1 := { s with recorder := { s.recorder with
      recordNo := (no + 1) % 2 ^ 32
      palacy := ((s.recorder.palacy.filter fun p => p.no % 4096 != no % 4096) ++ [⟨no, bytes⟩]) } }
  devEvent s1 0x0608 (keyKind c.key) 0xFF (leBytes no 4)

/-! ## A position declared failed (R340) -/

/-- The row of a die that a position belongs to, its spare position, and its logical tiles in ascending x (R4, R7). -/
def rowOfPos (pos : Nat) : Nat × Nat := (dieOfPos pos, pos / 26)
def sparePos (row : Nat × Nat) : Nat := 26 * row.2 + (if row.1 % 2 = 0 then 12 else 25)
def rowTiles (row : Nat × Nat) : List Nat := (List.range 12).map fun i => 24 * row.2 + (if row.1 % 2 = 0 then 0 else 12) + i
def allRows : List (Nat × Nat) := (List.range 24).flatMap fun y => [((if y < 12 then 0 else 2), y), ((if y < 12 then 1 else 3), y)]

/-- Rows whose spare holds a logical tile or has failed, other than by factory repair (R339). -/
def fieldSpares (s : State) : Nat :=
  (allRows.filter fun w => s.rep.failed.contains (sparePos w) || ltAt s (sparePos w) != 0x3FF).length - s.idn.factory

def noteSpares (s : State) : State := { s with idn := { s.idn with field := fieldSpares s } }

/-- Declares a position failed: it is fenced, its region's step fails, and castling is due at the boundary; an unused
position joins the failed-position list at once. -/
def declareFailed (s : State) (pos : Nat) : State :=
  if s.rep.declared.contains pos || s.rep.failed.contains pos then s
  else
    let lt := ltAt s pos
    let s1 := setTilePos s pos { tileAtPos s pos with heldReset := true, fenced := true }
    if lt = 0x3FF then
      noteSpares { s1 with rep := { s1.rep with failed := setIns pos s1.rep.failed, faultSince := true } }
    else
      let s2 := { s1 with rep := { s1.rep with declared := setIns pos s1.rep.declared, faultSince := true } }
      let r := regionOfLt s lt
      updRegion (failStep s2 r 0x0607) r fun g => { g with boundary := g.boundary ++ [⟨.castle pos, none, s.orderNo⟩] }

/-! ## Classification and removal (R360 to R363) -/

/-- Removes a unit found permanent.  A path or engine of a die first costs that die a reset (DIE_RESET), and the engine its
place when it is charged again. -/
def removeUnit (s : State) (c : Charge) : State × Nat :=
  let k := keyKind c.key
  let die := c.key % 4
  if k ≤ 5 then (declareFailed s c.pos, 0)
  else if k = 6 then
    (declareFailed (updRouter s c.pos fun r => { r with alive := false }) c.pos, 0)
  else if k ≤ 9 then
    if s.flc.dieReset.contains c.key then
      let s1 := updEngine s die fun e => { e with fenced := true }
      ((s1.regions.filter fun e => (engineOf s1 die).queues.any fun q => q.2.region == e.1).foldl (fun s e =>
        regionEvent (updRegion (endRun (postRunState s e.1 .degraded) e.1 0x000E) e.1 fun g => { g with degraded := true })
          0x0603 e.1 (leBytes (0x11 * 2 ^ 248) 32)) s1, 6)
    else ({ s with flc := { s.flc with dieReset := c.key :: s.flc.dieReset } }, 5)
  else if k = 10 then (devEvent s 0x0607 10 die [], 0)
  else (s, 4)

/-- Marks a unit permanent in its history and removes it, with its Palacy record. -/
def makePermanent (s : State) (r method : Nat) (c : Charge) : State :=
  if (histOf s c.key).permanent && !(7 ≤ keyKind c.key && keyKind c.key ≤ 9) then s
  else
    let g := histGet s.recorder c.key
    let s1 := { s with recorder := histPut g.2 { g.1 with permanent := true }, rep := { s.rep with faultSince := true } }
    let u := removeUnit s1 c
    palacy u.1 r c method 2 u.2

/-- A fault is charged to a unit: it enters the history, and HISTORY is judged at once (R361).  Under HISTORY alone the
verdict is final; otherwise the next attempt is the REPEAT run.  `histOnly`: never judged by REPEAT (CE_THRESHOLD). -/
def charge (s : State) (r : Nat) (c : Charge) (histOnly : Bool) : State :=
  let s1 := histCharge s c.key (if c.sigClass = 1 ∨ c.sigClass = 2 then [c.lane, 8 + c.row / 512] else [c.bin])
  if (s1.flc.classify != 0 || histOnly) && histPermanent s1 (histOf s1 c.key) then makePermanent s1 r 1 c
  else if s1.flc.classify = 1 ∨ histOnly ∨ (regionOf s r).isNone then palacy s1 r c s1.flc.classify 1 0
  else updRf s1 r fun f => { f with charges := f.charges ++ [c] }

/-- A charge with everything but its unit and place empty. -/
def chargeAt (s : State) (r key sig sigClass bin lt pos : Nat) (payload : List Byte) : Charge :=
  { step := stepOf s r, attempt := attemptOf s r, key := key, sig := sig, sigClass := sigClass, bin := bin, lt := lt
    pos := pos, lane := 0, row := 0, bit := 0, ext := 0, payload := payload, old := false }

/-- What an attempt's digest failures are charged to (R362): an engine that met two or more senders charges its own receive
path; every other failure is blamed on its sender. -/
def blameDigests (s : State) (r : Nat) (l : List (Nat × Nat × Nat × Nat)) : State :=
  (List.range 4).foldl (fun s die =>
    let mine := l.filter fun x => x.1 == die
    let coll := mine.filter fun x => x.2.2.1 != 31
    let many := decide (2 ≤ ((coll.map fun x => x.2.1).eraseDups).length)
    let s1 := (mine.filter fun x => !many || x.2.2.1 == 31).foldl (fun s x => send s (.digestBlame x.2.1 die x.2.2.1 x.2.2.2)) s
    match many, coll with
    | true, x :: _ =>
      charge s1 r (chargeAt s1 r (dieKey 9 die) (x.2.1 * 2 ^ 16 + x.2.2.1 * 2 ^ 8 + x.2.2.2) 0x08 0 0x3FF 0 []) false
    | _, _ => s1) s

/-- The end of an attempt for the REPEAT method: an older charge whose signature came again in a discarded attempt is
permanent, any other is transient; charges of this attempt wait for the next. -/
def settleCharges (s : State) (r : Nat) (discarded : Bool) : State :=
  let f0 := rfOf s r
  let s := blameDigests s r f0.senders
  let f := rfOf s r
  let olds := f.charges.filter (·.old)
  let news := f.charges.filter fun c => !c.old
  let s1 := updRf s r fun f => { f with charges := news.map fun c => { c with old := true }, stalls := [], senders := [] }
  olds.foldl (fun s c =>
    if discarded && news.any fun d => d.key == c.key && d.sig == c.sig then makePermanent s r 0 c
    else palacy s r c s.flc.classify 1 0) s1

/-! ## The end of an attempt -/

/-- Commits a region's step and settles the charges. -/
def commitNow (s : State) (r : Nat) : State :=
  let s1 := settleCharges (stepCommit s r) r false
  updRf s1 r fun f => { f with sinceWalk := f.sinceWalk + 1 }

/-- Discards a region's attempt; one that reaches the attempt limit is captured first (Table 13.3). -/
def discardNow (s : State) (r : Nat) : State :=
  withRegion s r fun g =>
    let s1 := if g.attemptLimit ≤ g.discards + 1 then captureRegion s r 1 else s
    settleCharges (stepDiscard s1 r) r true

end Sys2Proof.Machine
end

