-- ==== Sys2Proof/Machine/MeshRows.lean ====
section
/-! DEFINITION. The commands of routers that may charge one: PACKET_FORWARD with its flit errors, LINK_DEAD, CFG writes, and Ripple
data with the receive FIFO and HOLD (R189, R193, R205, R209, R211 to R214, Tables 7.4, 7.12 and 13.6). -/

namespace Sys2Proof.Machine

/-! ## Packets -/

/-- A fault charged to a router for what it met at an input port (Table 13.6, Table 14.8). -/
def chargeRouter (s : State) (pos port sigClass bin : Nat) : State :=
  let r := (routerOf s pos).region
  charge s r (chargeAt s r (posKey 6 pos 0) port sigClass bin (ltAt s pos) pos []) false

/-- The head of an input lane with an uncorrectable flit: the whole packet is discarded, counted and recorded, and the receiving router
charged (R189). -/
def flitUe (s : State) (pos port vc lane : Nat) : State :=
  if (sget [] (routerOf s pos).bufs (laneKey port vc lane)) = [] ∨ !(routerOf s pos).alive then s
  else
    let s1 := posEvent (countAt (dequeue s pos port vc lane) pos .flitUe) 0x0301 pos 6 port []
    chargeRouter s1 pos port 0x05 (port * 2 + lane)

/-- Whether a lane's head is a packet that the region check drops and that shows the router faulty (R209). -/
def foreignHead (s : State) (pos port vc lane : Nat) : Bool :=
  let r := routerOf s pos
  match sget [] r.bufs (laneKey port vc lane) with
  | [] => false
  | p :: _ => r.alive && regionForeign r p && !regionStale s r p

/-- PACKET_FORWARD of clean flits.  A router that drops a packet of a foreign region is treated as faulty: the drop is charged to it
(DEDUCED, log entry 122). -/
def forwardClean (s : State) (pos port vc lane : Nat) : State :=
  let s1 := packetForward s pos port vc lane
  if foreignHead s pos port vc lane then chargeRouter s1 pos port 0x05 (port * 2 + lane) else s1

/-- PACKET_FORWARD with the error met in the packet's flits: a correctable one is corrected and counted in FLIT_CE. -/
def forwardFound (s : State) (pos port vc lane : Nat) : Option EccFind → State
  | some .ue => flitUe s pos port vc lane
  | some (.ce _) => forwardClean (countAt s pos .flitCe) pos port vc lane
  | none => forwardClean s pos port vc lane

/-- PACKET_FORWARD (R184 to R196, R209).  `found` is the error met in the packet's flits, none by default. -/
def execPacketForward (pos port vc lane : Nat) (s : State) (found : Option EccFind := none) : Out :=
  needUnit (posOk pos && laneOk port vc lane) (.next (forwardFound s pos port vc lane found))

/-- The control firmware takes the report of a dead link. -/
def linkReport (s : State) (pos port : Nat) : State :=
  { s with fab := { s.fab with linkReports := if s.fab.linkReports.contains (pos, port) then s.fab.linkReports
      else s.fab.linkReports ++ [(pos, port)] } }

/-- LINK_DEAD (R205): the partner's BEAT stopped.  The control firmware holds the report until the flip that it prepares; the entries that it
writes for it are RIPPLE_TABLE_WRITE data, the flip DETOUR_FLIP. -/
def execLinkDead (pos port : Nat) (s : State) : Out :=
  needUnit (posOk pos && (linkTo pos port).isSome)
    (.next (linkReport (updRouter s pos fun r => { r with dead := setIns port r.dead }) pos port))

/-! ## CFG packets (Table 7.4) -/

/-- Writes a route entry, its reserved bits zero (Table 7.7). -/
def entryWord (w : Nat) : BitVec 32 := BitVec.ofNat 32 (w / 2 ^ 15 * 2 ^ 15)

/-- Writes one entry of a version, refused unless the version is WRITABLE (R193, Table 7.9). -/
def writeEntry (s : State) (pos v i w : Nat) : State :=
  if verState s v = .writable ∧ i < 640 then
    updRouter s pos fun r =>
      if v = 0 then { r with table0 := sset 0 r.table0 i (entryWord w) } else { r with table1 := sset 0 r.table1 i (entryWord w) }
  else s

/-- Clears every counter of a router, its histograms too. -/
def clearCounts (now : Nat) (r : Router) : Router :=
  { r with histBase := 0, histFrom := now, hist := [], pkts := [], flits := [], stall := [], xoffTime := [], cnts := [] }

/-- Writes MSH_TEL_CTL: SAMPLE_64 and FREEZE are kept, CLEAR acts (Table 7.14). -/
def writeTelCtl (r : Router) (w now : Nat) : Router :=
  let r1 := { r with telCtl := w / 2 % 4 * 2 }
  if bitOf w 0 then clearCounts now r1 else r1

/-- Where a CFG packet's payload goes: into the control window at ADDR, or into the register that ADDR names.  The manual publishes no
address of a router register or of the tile's in-use mark, so the command names it (DESIGN CHOICE, log entry 123). -/
def cfgWrite (s : State) (pos : Nat) (p : Packet) (reg : Option RouterReg) : State :=
  let a := fld p.transport.toNat 230 26
  let data := p.payload.take (fld p.transport.toNat 222 8)
  let t := tileAtPos s pos
  match reg with
  | some (.ceCount bank) => setTilePos s pos { t with ceBank := sset 0 t.ceBank bank 0 }
  | some .ceThreshold => setTilePos s pos { t with ceThreshold := ofLe (data.take 2) % 2 ^ 12 }
  | none =>
    if ctlWindow ≤ a then
      setTilePos s pos { tileAtPos s pos with spad := spadWrite (tileAtPos s pos).spad a data }
    else s
  | some (.entry v i) => writeEntry s pos (v % 2) i (ofLe (data.take 4))
  | some .telCtl => updRouter s pos fun r => writeTelCtl r (ofLe (data.take 4)) s.now
  | some .inUse => setTilePos s pos { tileAtPos s pos with inUse := bitOf (ofLe (data.take 4)) 0 }

/-- A CFG packet of the control firmware for an address (R193, Table 7.4). -/
def cfgPacket (addr : Nat) (data : List Byte) : Packet :=
  { blankPacket with typ := tCfg, dstKind := 2, payload := data, transport := BitVec.ofNat _ (addr % 2 ^ 26 * 2 ^ 230 + data.length % 2 ^ 8 * 2 ^ 222) }

/-- CFG_PACKET_RX (R193, Table 7.4): a control-firmware write at the position.  `sent` is a packet that the control firmware sends to the
position, routed by coordinates X first, then Y; without one the router's oldest CFG packet is taken. -/
def execCfgPacketRx (pos : Nat) (s : State) (reg : Option RouterReg := none) (sent : Option (Nat × List Byte) := none) : Out :=
  needUnit (posOk pos)
    (match sent with
      | some x => .next (if (routerOf s pos).alive then cfgWrite s pos (cfgPacket x.1 x.2) reg else s)
      | none =>
        match takeInbox s pos fun p => p.typ == tCfg with
        | none => .next s
        | some (p, s1) => .next (cfgWrite s1 pos p reg))

/-! ## Ripple data (R211 to R213, Table 7.12) -/

/-- Positions that a datum targets. -/
def ripplePos (s : State) (d : Ripple) : List Nat :=
  if d.position < 624 then [d.position]
  else (List.range 624).filter fun p => d.region == 31 || (routerOf s p).region == d.region

/-- The Ripple FIFO of a router at a time: it gives one datum to the router in each mesh cycle (DESIGN CHOICE, log entry 124), lowers
HOLD at 32 and counts the cycles with HOLD raised (R212). -/
def rippleDrain (now : Nat) (r : Router) : Router :=
  let k := now - r.fifoAt
  let held := if r.hold then Nat.min k (r.rippleFifo - 32) else 0
  let r1 := countR r .rippleHold held
  { r1 with rippleFifo := r.rippleFifo - k, hold := r.hold && decide (32 < r.rippleFifo - k), fifoAt := now }

/-- Takes a datum into the FIFO; 64 data raise HOLD. -/
def ripplePush (now : Nat) (r : Router) : Router :=
  let r1 := rippleDrain now r
  let n := r1.rippleFifo + 1
  { r1 with
    rippleFifo := n, hold := r1.hold || decide (64 ≤ n), holdAt := if !r1.hold && decide (64 ≤ n) then now else r1.holdAt }

/-- Whether the root issues no datum: 60 ns after a router raised HOLD, or before a FIFO would overflow. -/
def rootStopped (s : State) : Bool :=
  s.routers.any fun x =>
    let r := rippleDrain s.now x.2
    decide (256 ≤ r.rippleFifo) || (r.hold && decide (r.holdAt + 120 ≤ s.now))

/-- An uncorrectable error in a datum at a router: recorded and charged to the router (R213, Table 13.6). -/
def rippleUe (s : State) (pos : Nat) : State := chargeRouter (posEvent s 0x0302 pos 6 0xFF []) pos 6 0x06 0

/-- The FIFO of every working router takes a datum, whatever its target (R211), but of those that found an error in it. -/
def pushRouters (s : State) (bad : List Nat) : State :=
  { s with routers := (List.range 624).map fun p =>
      (p, if (routerOf s p).alive && !bad.contains p then ripplePush s.now (routerOf s p) else routerOf s p) }

/-- Positions that take a datum, those with an uncorrectable error removed, and the state with the datum in their FIFOs and RIPPLE_UE
posted and charged at the others. -/
def rippleTake (s : State) (d : Ripple) (ue : List Nat) : List Nat × State :=
  let ps := (ripplePos s d).filter fun p => (routerOf s p).alive
  let bad := (ue.filter posOk).eraseDups
  let good := ps.filter fun p => !bad.contains p
  (good, bad.foldl rippleUe (pushRouters s bad))

/-- The targets at which a CFG_WRITE, TABLE_WRITE or FIRMWARE datum met an uncorrectable error: a digest check fails there, and the firmware
sends them the datum again (R213). -/
def rippleAgain (s : State) (k : RippleKind) (d : Ripple) (ue : List Nat) : State :=
  let lost := (ripplePos s d).filter fun p => (routerOf s p).alive && ue.contains p
  { s with fab := { s.fab with rippleWait := s.fab.rippleWait ++ lost.map fun p => (k, { d with position := p }, []) } }

/-- An error in an OPERAND or STEP_START fails the step of the router's region. -/
def rippleFail (s : State) (ue : List Nat) : State :=
  (((ue.filter posOk).map fun p => (routerOf s p).region).eraseDups).foldl (fun s r => failStep s r 0x0302) s

/-- Writes the 64 bytes at every position that takes the datum. -/
def rippleWrite (s : State) (ps : List Nat) (d : Ripple) : State :=
  ps.foldl (fun s p => setTilePos s p { tileAtPos s p with spad := spadWrite (tileAtPos s p).spad d.addr (padTo d.data 64) }) s

/-- Data for the control windows. -/
def rippleCtl (s : State) (d : Ripple) (ue : List Nat) : State :=
  let t := rippleTake s d ue
  if ctlWindow ≤ d.addr then rippleWrite t.2 t.1 d else t.2

/-- Job data, then ARRIVE(1) where enabled. -/
def rippleOperand (s : State) (d : Ripple) (ue : List Nat) : State :=
  let t := rippleTake s d ue
  let s1 := if d.addr + 64 ≤ 0x3800000 then rippleWrite t.2 t.1 d else t.2
  let s2 := if d.arriveEn then t.1.foldl (fun s p =>
      let lt := ltAt s p
      if lt < 576 then arriveAt s lt d.arriveObj 1 else s) s1 else s1
  rippleFail s2 ue

/-- The flip that the datum of EPOCH_FLIP makes: of a detour at once, of any other version only when every region whose paths change
stands at its boundary (R17, R204). -/
def epochFlip (s : State) : State :=
  if s.quiet then s
  else if detourOk s then tryFlip s true
  else if flipTime s (changedRegions s) then plannedFlip s (changedRegions s) true
  else s

/-- Sixteen entries of a table from a datum, their reserved bits zero (Table 7.7). -/
def writeEntries (m : List (Nat × BitVec 32)) (first : Nat) (data : List Byte) : List (Nat × BitVec 32) :=
  (List.range 16).foldl (fun m i =>
    if first + i < 640 then sset 0 m (first + i) (entryWord (ofLe (sliceBytes data (4 * i) 4))) else m) m

def rippleTable (s : State) (d : Ripple) (ue : List Nat) : State :=
  let t := rippleTake s d ue
  if verState s (d.version % 2) = .writable then
    t.1.foldl (fun s p => updRouter s p fun r =>
      if d.version % 2 = 0 then { r with table0 := writeEntries r.table0 (d.addr / 16) d.data }
      else { r with table1 := writeEntries r.table1 (d.addr / 16) d.data }) t.2
  else t.2

/-- What a datum of a kind does (Table 7.12): CFG_WRITE and FIRMWARE (R332) write the control windows, STEP_START is consumed by the routers,
EPOCH_FLIP makes a verified version active. -/
def rippleDo (s : State) (k : RippleKind) (d : Ripple) (ue : List Nat) : State :=
  match k with
  | .cfgWrite | .firmware => rippleAgain (rippleCtl s d ue) k d ue
  | .operand => rippleOperand s d ue
  | .stepStart => rippleFail (rippleTake s d ue).2 ue
  | .epochFlip => epochFlip (rippleTake s d ue).2
  | .tableWrite => rippleAgain (rippleTable s d ue) k d ue

/-- A datum on the bus: it waits at the root while the root is stopped, and behind those that wait there (R211, R212). -/
def rippleRow (s : State) (k : RippleKind) (d : Ripple) (ue : List Nat) : Out :=
  .next (if s.fab.rippleWait = [] ∧ rootStopped s = false then rippleDo s k d ue
    else { s with fab := { s.fab with rippleWait := s.fab.rippleWait ++ [(k, d, ue)] } })

/-- The root issues its oldest waiting datum once it is not stopped: one datum in every second mesh cycle (R211). -/
def pumpRipple (s : State) : State :=
  match s.fab.rippleWait with
  | [] => s
  | x :: rest =>
    if rootStopped s || s.now % 2 == 1 then s else rippleDo { s with fab := { s.fab with rippleWait := rest } } x.1 x.2.1 x.2.2

/-- RIPPLE_CFG_WRITE: into the control windows. -/
def execRippleCfgWrite (d : Ripple) (ue : List Nat) (s : State) : Out := rippleRow s .cfgWrite d ue

/-- RIPPLE_FIRMWARE (R332): tile firmware data into the control windows. -/
def execRippleFirmware (d : Ripple) (ue : List Nat) (s : State) : Out := rippleRow s .firmware d ue

/-- RIPPLE_OPERAND: into job data, then ARRIVE(1) where enabled. -/
def execRippleOperand (d : Ripple) (ue : List Nat) (s : State) : Out := rippleRow s .operand d ue

/-- RIPPLE_STEP_START: consumed by the routers. -/
def execRippleStepStart (d : Ripple) (ue : List Nat) (s : State) : Out := rippleRow s .stepStart d ue

/-- RIPPLE_EPOCH_FLIP: the datum that makes a verified version active. -/
def execRippleEpochFlip (d : Ripple) (ue : List Nat) (s : State) : Out := rippleRow s .epochFlip d ue

/-- RIPPLE_TABLE_WRITE: refused unless the version is WRITABLE (Table 7.9). -/
def execRippleTableWrite (d : Ripple) (ue : List Nat) (s : State) : Out := rippleRow s .tableWrite d ue

end Sys2Proof.Machine
end

