-- ==== Sys2Proof/Machine/Receive.lean ====
section
/-! DEFINITION. What a tile does with the packets its router delivers: the step check, reorder unit and closed-transfer
cache, acceptance of messages, expert batches, returning data, answers and retries (R197 to R201, R216 to R229, R238). -/

namespace Sys2Proof.Machine

/-! ## The step check (R219) -/

/-- How a packet's (STEP_LOW, ATTEMPT) stands to the receiving region. -/
inductive StepFit where
  | ok | stale
  | early (higher : Bool)
deriving DecidableEq, Repr

/-- R219.  A region whose attempt has not started yet answers that attempt EARLY. -/
def stepFit (g : Region) (sl att : Nat) : StepFit :=
  let d := (sl + 2 ^ 16 - g.step % 2 ^ 16) % 2 ^ 16
  if d = 0 then
    if att = g.attempt then (if atBoundary g then .early false else .ok)
    else if g.attempt < att then .early true
    else .stale
  else if d = 1 then .early false
  else .stale

/-- The member of a region's group that sent a packet, by its device and, for a message, by the region that it names (Table 8.1);
a COLL packet names a device only. -/
def memberOf (g : Region) (p : Packet) : Option Peer :=
  g.peers.find? fun q => q.device == p.srcDev && q.member && (p.typ != tMsg || q.region == fld p.transport.toNat 174 5)

/-- Whether R219 applies: the sender is the same region, or a member of the region's group. -/
def sameGroup (s : State) (r : Nat) (g : Region) (p : Packet) : Bool :=
  if p.srcDev = s.idn.deviceId then p.typ != tMsg || fld p.transport.toNat 174 5 == r else (memberOf g p).isSome

/-- STEP_LOW and ATTEMPT of a message or a COLL packet (Tables 8.1 and 8.8). -/
def packetStep (p : Packet) : Nat × Nat :=
  let w := p.transport.toNat
  if p.typ = tColl then (fld w 165 16, fld w 161 4) else (fld w 205 16, fld w 201 4)

/-- The verdict on a packet for a region; writes, reads and data carry no step. -/
def stepVerdict (s : State) (r : Nat) (p : Packet) : StepFit :=
  if p.typ ≠ tMsg ∧ p.typ ≠ tColl then .ok
  else
    match regionOf s r with
    | none => .ok
    | some g => if sameGroup s r g p then stepFit g (packetStep p).1 (packetStep p).2 else .ok

/-- R25: a packet of a higher attempt ends the receiver's own one. -/
def higherAttempt (s : State) (r : Nat) : State :=
  withRegion s r fun g => if atBoundary g then s else discardNow s r

/-! ## Answers -/

def ackTo (s : State) (lt : Nat) (p : Packet) : State := answer s (posOf s lt) p tAck 0

/-- A refusal of a tile, counted in NACK_TX. -/
def nackTo (s : State) (lt : Nat) (p : Packet) (reason : Nat) : State :=
  let s1 := updTile s lt fun t => { t with cnt := { t.cnt with
    nackTx := sset 0 t.cnt.nackTx reason (satAdd (sget 0 t.cnt.nackTx reason) 1 32) } }
  answer s1 (posOf s lt) p tNack reason

/-- Answers with a stored outcome: 0 accepted, else the reason. -/
def answerOutcome (s : State) (lt : Nat) (p : Packet) (o : Nat) : State := if o = 0 then ackTo s lt p else nackTo s lt p o

def countTileR (s : State) (lt : Nat) (c : RCnt) : State := countAt s (posOf s lt) c

/-! ## The reorder unit (R198 to R201) -/

/-- Key of a packet's flow.  Returning data uses numbers that its requester chose, so it is kept apart. -/
def pktKey (p : Packet) : XKey := ⟨p.srcDev, p.srcLt, if p.typ = tReadData then p.flow + 16 else p.flow, p.transfer⟩

def rxOf (t : Tile) (k : XKey) : Option RxFlow := t.rx.find? fun f => f.key == k
def setRx (t : Tile) (f : RxFlow) : Tile := { t with rx := mapIf (fun x => x.key == f.key) (fun _ => f) t.rx }
def closedOf (t : Tile) (k : XKey) : Option Nat := (t.closedXfers.find? fun c => c.1 == k).map (·.2)

/-- Closes a transfer: the flow entry is freed and the cache keeps the outcome (R226). -/
def closeXfer (t : Tile) (k : XKey) (outcome : Nat) : Tile :=
  let full := decide (4096 ≤ t.closedXfers.length)
  { t with
    rx := t.rx.filter fun f => f.key != k
    closedXfers := (if full then t.closedXfers.drop 1 else t.closedXfers) ++ [(k, outcome)]
    evicted := t.evicted || full
    cnt := if full then { t.cnt with dedupEvict := satAdd t.cnt.dedupEvict 1 32 } else t.cnt }

/-- Whether packet 0 of a message is its inline bytes. -/
def inlinePacket (p : Packet) : Bool := p.typ == tMsg && bitOf p.transport.toNat 239 && p.seq == 0

/-- The expert receive record that a message's handler names (R179). -/
def expertRecOf (t : Tile) (p : Packet) : Option (Nat × ExpertRec) :=
  if p.typ = tMsg then t.experts.find? fun e => e.2.en && e.2.handler == fld p.transport.toNat 248 8 else none

/-- Whether a packet's payload is written to its landing address when it arrives. -/
def lands (t : Tile) (p : Packet) : Bool :=
  !inlinePacket p && p.payload != [] && (expertRecOf t p).isNone

/-- Whether the payload would land in a protect window, the control window or past the end (R72, R73). -/
def landBad (t : Tile) (p : Packet) : Bool :=
  lands t p && (decide (spadEnd < p.dstAddr + p.payload.length) || meetsCtl p.dstAddr p.payload.length ||
    meetsWindow t.protects p.dstAddr p.payload.length)

/-- Writes a packet's payload (requester 1). -/
def landPayload (t : Tile) (p : Packet) : Tile :=
  if lands t p then { t with spad := spadWrite t.spad p.dstAddr p.payload } else t

/-- A FLOW_XOFF or FLOW_XON toward a packet's source. -/
def sendFlowCtl (s : State) (lt : Nat) (p : Packet) (typ : Nat) : State :=
  let s1 := if typ = tXoff then countTileR s lt .flowXoffSent else s
  answer s1 (posOf s lt) p typ 0

/-- Takes one packet in order into a flow: inline and bulk bytes in flow order, the expected number, the landing address. -/
def takeIn (f : RxFlow) (p : Packet) : RxFlow :=
  { f with
    expected := (f.expected + 1) % 2 ^ 16
    inl := if inlinePacket p then p.payload else f.inl
    bulk := if inlinePacket p || p.typ != tMsg then f.bulk else f.bulk ++ p.payload
    addr := if f.bulk == [] && !inlinePacket p then (if p.seq ≤ 1 then p.dstAddr else f.addr) else f.addr }

/-- Releases the packets of a flow that are next in order; every one but LAST is acknowledged.  The result is the flow
and the LAST packet when it has been released; `fuel` bounds the held packets. -/
def releaseFrom : Nat → State → Nat → RxFlow → Packet → State × RxFlow × Option Packet
  | 0, s, _, f, _ => (s, f, none)
  | n + 1, s, lt, f, p =>
    let f1 := takeIn f p
    if p.last then (s, f1, some p)
    else
      let s1 := ackTo s lt p
      match f1.held.find? fun h => h.2.seq == f1.expected with
      | some h => releaseFrom n s1 lt { f1 with held := f1.held.filter fun x => x.2.seq != f1.expected } h.2
      | none => (s1, f1, none)

/-- Reorder entries in use at a tile (256 at most). -/
def heldCount (t : Tile) : Nat := (t.rx.map fun f => f.held.length).foldl (· + ·) 0

/-- Sends FLOW_XON when a flow's entries have fallen to 8. -/
def noteXon (s : State) (lt : Nat) (f : RxFlow) (p : Packet) : State × RxFlow :=
  if f.xoff && decide (f.held.length ≤ 8) then (sendFlowCtl s lt p tXon, { f with xoff := false }) else (s, f)

/-- One packet of an open flow.  A second copy of one that is still held is discarded without an answer: its release answers
(DEDUCED, assumption 153). -/
def flowPacket (s : State) (lt : Nat) (f : RxFlow) (p : Packet) : State × Option (RxFlow × Packet) :=
  let t := tileOf s lt
  let d := (p.seq + 2 ^ 16 - f.expected) % 2 ^ 16
  if d = 0 then
    let r := releaseFrom 65 (updTile s lt fun t => landPayload t p) lt f p
    match r.2.2 with
    | some l =>
      let x := noteXon r.1 lt r.2.1 p
      (updTile x.1 lt fun t => setRx t x.2, some (x.2, l))
    | none =>
      let x := noteXon r.1 lt r.2.1 p
      (updTile x.1 lt fun t => setRx t x.2, none)
  else if d < 64 then
    if f.held.any fun h => h.2.seq == p.seq then (countTileR s lt .dupDrop, none)
    else if 256 ≤ heldCount t then (nackTo (countTileR s lt .nobufNack) lt p 0x01, none)
    else
      let f1 := { f with held := f.held ++ [(s.now, p)] }
      let stop := !f1.xoff && decide (32 ≤ f1.held.length)
      let s1 := updTile s lt fun t => setRx (landPayload t p) { f1 with xoff := f1.xoff || stop }
      (if stop then sendFlowCtl s1 lt p tXoff else s1, none)
  else (ackTo (countTileR s lt .dupDrop) lt p, none)

/-- A flow entry that a packet opens. -/
def newRx (t : Tile) (p : Packet) : RxFlow :=
  { key := pktKey p, region := tileRegion t, expected := 0, held := [], xoff := false, inl := [], bulk := []
    msgLen := fld p.transport.toNat 221 16, addr := 0 }

/-- Counts an attempt that fails for a lost cache entry, once (DEDUP_LOST, Table 8.12). -/
def noteDedup (t : Tile) (att : Nat × Nat) : Tile :=
  if t.dedupAt = some att then t
  else { t with dedupAt := some att, cnt := { t.cnt with dedupLost := satAdd t.cnt.dedupLost 1 32 } }

/-- Everything a tile does with one packet of a reliable transfer before its end: step check, cache, protection, flow
table, reorder buffer; a packet that needs a flow entry and a reorder entry is granted both or none (R199).  The second part is the flow and its LAST packet once released. -/
def takePacket (s : State) (lt : Nat) (p : Packet) : State × Option (RxFlow × Packet) :=
  let t := tileOf s lt
  match stepVerdict s (tileRegion t) p with
  | .stale => (nackTo s lt p 0x08, none)
  | .early h =>
    let s1 := nackTo s lt p 0x09
    (if h then higherAttempt s1 (tileRegion t) else s1, none)
  | .ok =>
    match closedOf t (pktKey p) with
    | some o => (answerOutcome (countTileR s lt .dupDrop) lt p o, none)
    | none =>
      match rxOf t (pktKey p) with
      | some f =>
        if landBad t p then (nackTo (updTile s lt fun t => closeXfer t f.key 0x0D) lt p 0x0D, none) else flowPacket s lt f p
      | none =>
        if p.typ == tMsg && bitOf p.transport.toNat 237 && t.evicted then
          (failStep (updTile s lt fun t => noteDedup t (stepOf s (tileRegion t), attemptOf s (tileRegion t))) (tileRegion t) 0x0226, none)
        else if landBad t p then (nackTo (updTile s lt fun t => closeXfer t (pktKey p) 0x0D) lt p 0x0D, none)
        else if 128 ≤ t.rx.length ∨ (0 < p.seq ∧ p.seq < 64 ∧ 256 ≤ heldCount t) then (nackTo (countTileR s lt .nobufNack) lt p 0x01, none)
        else flowPacket (updTile s lt fun t => { t with rx := t.rx ++ [newRx t p] }) lt (newRx t p) p

/-- Whether a packet is of a reliable transfer; the others need no room. -/
def reliable (p : Packet) : Bool := p.typ == tWrite || p.typ == tReadReq || p.typ == tReadData || p.typ == tMsg || p.typ == tColl

/-- Whether a message to an expert record is a CLOSE: FLAGS[0] of its routing key, the inline bytes of packet 0 (Table 6.7).  A later
packet of the message goes by the key that its flow holds. -/
def isClose (t : Tile) (p : Packet) : Bool :=
  bitOf (ofLe (if inlinePacket p then p.payload else (rxOf t (pktKey p)).elim [] (·.inl))) 40

/-- The LAST packet that is released when `p` comes next in order; `fuel` bounds the held packets (R198). -/
def lastReleased : Nat → List (Nat × Packet) → Packet → Option Packet
  | 0, _, _ => none
  | n + 1, held, p =>
    if p.last then some p else (held.find? fun h => h.2.seq == (p.seq + 1) % 2 ^ 16).bind fun h => lastReleased n held h.2

/-- What the end of a message needs of its handler's queues, or a row of an expert record, as arbitration point and count: an ARG_QUEUE 112 + q, a
DESC_QUEUE 176 + q (R123), the rows of a record 240 + k (R180); a CLOSE needs no row. -/
def endNeeds (t : Tile) (p l : Packet) : List (Nat × Nat) :=
  match expertRecOf t l with
  | some (k, _) => if isClose t p || isClose t l then [] else [(240 + k, 1)]
  | none =>
    let h := sget handlerReset t.handlers (fld l.transport.toNat 248 8)
    (112 + h.argQueue, 1) :: if h.chainLen = 0 then [] else [(176 + h.descQueue, h.chainLen)]

/-- The room that a packet needs, as arbitration point and count: a place of the flow table 100, one of the reorder buffer 101 (R199), and what the
message that it completes needs. -/
def roomNeeds (t : Tile) (p : Packet) : List (Nat × Nat) :=
  if !reliable p || (closedOf t (pktKey p)).isSome then []
  else
    let f := rxOf t (pktKey p)
    let ahead := (p.seq + 2 ^ 16 - f.elim 0 (·.expected)) % 2 ^ 16
    (if f.isNone then [(100, 1)] else []) ++
      if ahead != 0 then [(101, 1)]
      else if p.typ != tMsg then []
      else (lastReleased 65 (f.elim [] (·.held)) p).elim [] (endNeeds t p)

/-- Free places at an arbitration point. -/
def roomAt (t : Tile) (pt : Nat) : Nat :=
  if pt = 100 then 128 - t.rx.length
  else if pt = 101 then 256 - heldCount t
  else if pt < 176 then freeCount t (pt - 112)
  else if pt < 240 then freeCount t (pt - 176)
  else
    let e := sget expertReset t.experts (pt - 240)
    let x := sget expStateReset t.expState (pt - 240)
    if x.owed then 0
    else (e.bufsMinus1 + 1 - x.posted.length) * (e.batchMinus1 + 1) - (if x.posted.contains x.cur then 0 else x.rows)

/-- Packets of a tile's inbox that came in the same cycle as `x` and need room at a point. -/
def seekers (t : Tile) (l : List Packet) (x : Packet) (pt : Nat) : List Packet :=
  l.filter fun q => q.got == x.got && (roomNeeds t q).any fun n => n.1 == pt

/-- The arbitration point at which `x` competes for the last room: there is room for it, but not for all that came in its cycle. -/
def lastRoom (t : Tile) (l : List Packet) (x : Packet) : Option Nat :=
  ((roomNeeds t x).find? fun n =>
    let all_ := (seekers t l x n.1).map fun q => ((roomNeeds t q).filter fun m => m.1 == n.1).foldl (fun a m => a + m.2) 0
    decide (n.2 ≤ roomAt t n.1) && decide (roomAt t n.1 < all_.foldl (· + ·) 0)).map (·.1)

/-- The packets that compete with `x` for the last room. -/
def rivals (t : Tile) (l : List Packet) (x : Packet) : List Packet :=
  match lastRoom t l x with
  | none => [x]
  | some pt => seekers t l x pt

/-- The packet that R199, R123 and R180 grant first among the rivals of `x`: the one on the first input port in the point's rotation,
which moves on after a contested grant (R440). -/
def firstRival (t : Tile) (l : List Packet) (x : Packet) : Packet × Tile :=
  match lastRoom t l x with
  | none => (x, t)
  | some pt =>
    let ports := ((rivals t l x).map (·.port)).eraseDups
    match rotPick ports 6 (sget 0 t.rotEngine pt) with
    | none => (x, t)
    | some port =>
      (((rivals t l x).find? fun q => q.port == port).getD x,
        { t with rotEngine := sset 0 t.rotEngine pt (rotNext ports 6 (sget 0 t.rotEngine pt)) })

/-- Takes the first inbox packet of a tile that satisfies a test, or the rival that goes before it, and runs `k` on it; a rival of
another row goes first by that row. -/
def withInbox (s : State) (lt : Nat) (p : Packet → Bool) (k : State → Packet → State) : Out :=
  needUnit (ltOk lt)
    (let r := routerOf s (posOf s lt)
     match r.inbox.find? p with
      | none => .next s
      | some x =>
        let w := firstRival (tileOf s lt) r.inbox x
        if p w.1 then
          match takeInbox s (posOf s lt) (fun q => q == w.1) with
          | none => .next s
          | some y => .next (k (updTile y.2 lt fun t => { t with rotEngine := w.2.rotEngine }) w.1)
        else .next s)

/-! ## WRITE and READ_REQ -/

/-- Ends a transfer as accepted: cache entry and the acknowledgement of LAST. -/
def acceptXfer (s : State) (lt : Nat) (f : RxFlow) (l : Packet) : State :=
  ackTo (updTile s lt fun t => closeXfer t f.key 0) lt l

/-- Ends a transfer as refused. -/
def refuseXfer (s : State) (lt : Nat) (f : RxFlow) (l : Packet) (reason : Nat) : State :=
  nackTo (updTile s lt fun t => closeXfer t f.key reason) lt l reason

def writePacket (s : State) (lt : Nat) (p : Packet) : State :=
  let r := takePacket s lt p
  match r.2 with
  | some (f, l) => acceptXfer r.1 lt f l
  | none => r.1

/-- WRITE_PACKET_RX. -/
def writePacketRow (lt : Nat) (s : State) : Out := withInbox s lt (fun p => p.typ == tWrite) (fun s p => writePacket s lt p)

/-- The transfer that returns the data of a READ_REQ, under the FLOW and TRANSFER that it names (Table 7.4). -/
def returnFlow (p : Packet) : TxFlow :=
  let w := p.transport.toNat
  let x := { meshXfer 0 0 .readData tReadData p.srcLt (piecesOf p.dstAddr (fld w 230 26) (fld w 198 32)) with chan := 1 }
  { flow := fld w 194 4, transfer := fld w 178 16, x := x, pkts := List.replicate (xferCount x) .unsent, xoff := false
    retryAt := none, answered := [], lastNack := 0 }

/-- READ_REQ_RX: the request is acknowledged and its data starts back. -/
def readReq (s : State) (lt : Nat) (p : Packet) : State :=
  let r := takePacket s lt p
  match r.2 with
  | some (f, l) =>
    pumpTile (updTile (acceptXfer r.1 lt f l) lt fun t => { t with returns := t.returns ++ [returnFlow l] }) lt
  | none => r.1

/-! ## The end of a transfer at its sender -/

/-- Ends one transfer of a part with success. -/
def endPart (s : State) (lt fid part : Nat) : State := updTile s lt fun t => updFired t fid fun f => partDone f part

/-- What a transfer's end does: a GATHER row then ARRIVEs at its return object (R181). -/
def xferDone (s : State) (lt : Nat) (x : Xfer) : State :=
  let s1 := match x.kind with
    | .gather obj dlt dev =>
      if x.fabric then injectTile s lt (syncPacket 0 obj 1 1 x.dst dev dlt) else injectTile s lt (syncPacket 0 obj 1 0 dlt 0 dlt)
    | _ => s
  pumpTile (endPart s1 lt x.fid x.part) lt

/-- Status of a failed transfer: a SEND fails with SEND_FAIL, a DMA part with PART_FAIL. -/
def failStatus (t : Tile) (fid : Nat) : Nat :=
  match t.fired.find? fun f => f.fid == fid with
  | some f => if dClass f.desc = 5 then stSendFail else stPartFail
  | none => stSendFail

/-- Ends one transfer of a part as failed, and the step with it (R120). -/
def xferFailed (s : State) (lt : Nat) (x : Xfer) (st detail : Nat) : State :=
  let s1 := updTile s lt fun t => updFired t x.fid fun f =>
    let g := partFailed f x.part st detail
    match x.kind with
    | .scatterRow => { g with stage := 1 }
    | _ => g
  pumpTile (failFired s1 lt st x.fid) lt

/-! ## Returning data (GET) -/

/-- READ_DATA_RX: data lands; LAST ends the request's transfer. -/
def readData (s : State) (lt : Nat) (p : Packet) : State :=
  let r := takePacket s lt p
  match r.2 with
  | none => r.1
  | some (f, l) =>
    let s1 := acceptXfer r.1 lt f l
    match (tileOf s1 lt).flows.find? fun e => e.2.flow == l.flow && e.2.transfer == l.transfer && e.2.x.typ == tReadReq with
    | none => s1
    | some e => xferDone (updTile s1 lt fun t => { t with flows := sdel e.1 t.flows }) lt e.2.x

def readDataRow (lt : Nat) (s : State) : Out := withInbox s lt (fun p => p.typ == tReadData) (fun s p => readData s lt p)

/-! ## SYNC packets -/

/-- SYNC_PACKET_RX (Table 7.4, R125): a tenant's packet does nothing to a FIRMWARE object. -/
def syncPacketIn (s : State) (lt : Nat) (p : Packet) : State :=
  let w := p.transport.toNat
  let o := fld w 246 8
  if p.region < 16 ∧ (objCfgOf (tileOf s lt) o).firmware then s
  else if fld w 254 2 = 0 then arriveAt s lt o (fld w 214 32)
  else if fld w 254 2 = 1 then updTile s lt fun t => objSet t s.now o (fld w 214 32) true
  else s

def execSyncPacketRx (lt : Nat) (s : State) : Out := withInbox s lt (fun p => p.typ == tSync) (fun s p => syncPacketIn s lt p)

/-! ## Digest failures (R237, R238, Table 8.9) -/

/-- Posts a digest failure record, marks the step failed and notes the sender for R362. -/
def digestFailed (s : State) (r lt die typ dev rank cq seq piece carried computed : Nat) : State :=
  let w := typ * 2 ^ 248 + r % 32 * 2 ^ 243 + stepOf s r % 2 ^ 16 * 2 ^ 227 + attemptOf s r % 16 * 2 ^ 223 + dev % 4096 * 2 ^ 211 +
    rank % 256 * 2 ^ 203 + cq % 32 * 2 ^ 198 + seq % 2 ^ 16 * 2 ^ 182 + piece % 256 * 2 ^ 174 + die % 4 * 2 ^ 172 +
    carried % 2 ^ 64 * 2 ^ 64 + computed % 2 ^ 64
  let s1 := if lt < 576 then tileEvent s (0x0300 + typ) r lt 9 die (leBytes w 32)
    else postEvent s ⟨0x0300 + typ, r, 0x3FF, 0xFF, 0xFF, 7, die, funcOfRegion s r, stepOf s r, leBytes w 32⟩
  updRf (failStep s1 r (0x0300 + typ)) r fun f => { f with senders := f.senders ++ [(die, dev, cq, piece)] }

/-- The digest of a received message, and the rank of its sender in the receiver's group. -/
def rxDigest (s : State) (r : Nat) (f : RxFlow) (l : Packet) : BitVec 64 × Option Nat :=
  let w := l.transport.toNat
  let mem := (regionOf s r).bind fun g => memberOf g l
  let step := match mem with | some _ => stepOf s r | none => fld w 205 16
  (pipDigest (f.inl ++ f.bulk) (trailerMsg step (fld w 201 4) (mem.elim 0xFFFF (·.rank)) (fld w 248 8) (fld w 240 8)),
    mem.map (·.rank))

/-- Whether a fabric message fails its digest: `none` for a mesh message or a good digest, else the sender's rank if it is
of the group, with the computed value. -/
def messageDigestBad (s : State) (r : Nat) (f : RxFlow) (l : Packet) : Option (Option Nat × Nat) :=
  if l.srcDev = s.idn.deviceId then none
  else
    let d := rxDigest s r f l
    if d.1.toNat = fld l.transport.toNat 103 64 then none else some (d.2, d.1.toNat)

/-! ## Messages (R220 to R223) -/

/-- Descriptors of a chain as they enter the queue: the tile's INSTANCE, index 0xC000 + 64·handler + i. -/
def chainDescs (t : Tile) (h : Nat) (e : Handler) : List (Nat × Nat) :=
  (List.range e.chainLen).map fun i => (0xC000 + 64 * h + i, setFld (spadNum t.spad (e.chainBase + 64 * i) 64) 48 8 (tagOf t))

/-- Read slots of a handler's chain (R74). -/
def chainCost (e : Handler) : Nat := lineCost e.chainBase (64 * e.chainLen)

/-- Appends descriptors to a DESC_HANDLER queue. -/
def appendChain (t : Tile) (now q : Nat) (ds : List (Nat × Nat)) : Tile :=
  let idle := (queueOf t q).slots == [] && !(t.fired.any fun f => f.q == q)
  let t1 := if idle && ds != [] then updQueue t q fun v => { v with since := now } else t
  ds.foldl (fun t d => pushEntry t q d.1 d.2) t1

/-- Room for an entry and a chain (R122). -/
def handlerRoom (t : Tile) (e : Handler) (extra : Nat) : Bool :=
  decide (0 < freeCount t e.argQueue) && (e.chainLen + extra == 0 || decide (e.chainLen + extra ≤ freeCount t e.descQueue))

/-- The first failing check of orders 4 to 6 of Table 8.2. -/
def handlerRefusal (t : Tile) (h chan : Nat) : Option Nat :=
  let e := sget handlerReset t.handlers h
  if !e.valid || e.region != t.region then some 0x03
  else if !bitOf e.channels chan then some 0x04
  else if !handlerRoom t e 0 then some 0x02
  else none

/-- The queue entry of an accepted message (Table 8.3). -/
def messageEntry (f : RxFlow) (l : Packet) : Nat :=
  let w := l.transport.toNat
  let len := fld w 221 16
  mkEntry len (if len = 0 then 0 else f.addr) (fld w 240 8) l.srcLt l.srcDev (bitOf w 239) (bitOf w 238) (fld w 205 16)
    (if bitOf w 239 then ofLe (padTo f.inl 32) else 0)

/-- Deposits an accepted message: its entry, then its chain, then the acknowledgement of LAST (R221). -/
def acceptMessage (s : State) (lt : Nat) (f : RxFlow) (l : Packet) : State :=
  let h := fld l.transport.toNat 248 8
  let s1 := updTile s lt fun t =>
    let e := sget handlerReset t.handlers h
    let t1 := pushEntry t e.argQueue 0 (messageEntry f l)
    { appendChain { t1 with spad := chargeRd t1.spad (chainCost e) } s.now e.descQueue (chainDescs t h e) with
      cnt := { t.cnt with msgAccepted := satAdd t.cnt.msgAccepted 1 48 } }
  acceptXfer s1 lt f l

/-- MESSAGE_JUDGE (R220): checks 4 to 7 in order; a bad digest of a group member fails the step instead (R238). -/
def judgeMessage (s : State) (lt : Nat) (f : RxFlow) (l : Packet) : State :=
  let t := tileOf s lt
  let w := l.transport.toNat
  let r := tileRegion t
  match handlerRefusal t (fld w 248 8) l.chan with
  | some reason => refuseXfer s lt f l reason
  | none =>
    match messageDigestBad s r f l with
    | none => acceptMessage s lt f l
    | some (none, _) => refuseXfer s lt f l 0x0C
    | some (some rank, comp) =>
      acceptMessage (digestFailed s r lt (dieOfLt s lt) 0x13 l.srcDev rank 31 0xFFFF (fld w 248 8) (fld w 103 64) comp) lt f l

def messagePacket (s : State) (lt : Nat) (p : Packet) : State :=
  let r := takePacket s lt p
  match r.2 with
  | some (f, l) => judgeMessage r.1 lt f l
  | none => r.1

/-- MSG_PACKET_RX: a message that names no expert receive record. -/
def msgPacketRow (lt : Nat) (s : State) : Out :=
  withInbox s lt (fun p => p.typ == tMsg && (expertRecOf (tileOf s lt) p).isNone) (fun s p => messagePacket s lt p)

/-! ## Expert batches (R179, R180) -/

def bufBytes (e : ExpertRec) : Nat := (e.batchMinus1 + 1) * (64 * e.rowPitch + 32)
def bufAddr (e : ExpertRec) (b : Nat) : Nat := e.bufBase + b * bufBytes e

/-- The first free buffer in circular order from `b`. -/
def freeBuf (e : ExpertRec) (x : ExpertState) (b : Nat) : Option Nat :=
  ((List.range (e.bufsMinus1 + 1)).map fun i => (b + i) % (e.bufsMinus1 + 1)).find? fun k => !x.posted.contains k

/-- Posts the current buffer of record `k` if the handler's queues have room, else leaves the post owed.  Its entry
names this tile and this device as the source, with INLINE and PROVISIONAL 0 (DESIGN CHOICE, assumption 148). -/
def postBatch (t : Tile) (now k step dev lt : Nat) : Tile :=
  let e := sget expertReset t.experts k
  let x := sget expStateReset t.expState k
  let h := sget handlerReset t.handlers e.handler
  let pro := if e.cold && !x.prologue then some (sget handlerReset t.handlers e.prologue) else none
  if !handlerRoom t h (pro.elim 0 (·.chainLen)) then { t with expState := sset expStateReset t.expState k { x with owed := true } }
  else
    let t1 := pushEntry t h.argQueue 0 (mkEntry x.rows (bufAddr e x.cur) x.cur lt dev false false (step % 2 ^ 16) 0)
    let t2 := appendChain { t1 with spad := chargeRd t1.spad (chainCost h + pro.elim 0 chainCost) } now h.descQueue ((pro.elim [] fun p => chainDescs t1 e.prologue p) ++ chainDescs t1 e.handler h)
    let posted := setIns x.cur x.posted
    let y := { x with posted := posted, rows := 0, prologue := true, owed := false }
    { t2 with expState := sset expStateReset t2.expState k { y with cur := (freeBuf e y (x.cur + 1)).getD x.cur } }

/-- Tries every post that is owed. -/
def tryOwed (s : State) (lt : Nat) : State :=
  updTile s lt fun t => t.expState.foldl (fun t x => if x.2.owed then postBatch t s.now x.1 (stepOf s (tileRegion t)) s.idn.deviceId lt else t) t

/-- Where the next row of a record and its routing key would land: buffer, row and key addresses. -/
def rowPlace (t : Tile) (k : Nat) : Option (Nat × Nat × Nat) :=
  let e := sget expertReset t.experts k
  let x := sget expStateReset t.expState k
  if x.owed then none
  else
    (if x.posted.contains x.cur then freeBuf e x x.cur else some x.cur).map fun b =>
      (b, bufAddr e b + 64 * e.rowPitch * x.rows, bufAddr e b + (e.batchMinus1 + 1) * 64 * e.rowPitch + 32 * x.rows)

/-- Whether an expert row would land in a protect window, in the control window or past the end: it is refused PROTECT like any
other payload (R1, R72, R73). -/
def rowBad (t : Tile) (k n : Nat) : Bool :=
  match rowPlace t k with
  | none => false
  | some p => [(p.2.1, n), (p.2.2, 32)].any fun r =>
      decide (spadEnd < r.1 + r.2) || meetsCtl r.1 r.2 || meetsWindow t.protects r.1 r.2

/-- Stores a row and its routing key at the next position of the current buffer, posting it when full; `none` when no
buffer is free or the current one is being posted. -/
def storeRow (t : Tile) (now k step dev lt : Nat) (row key : List Byte) : Option Tile :=
  let e := sget expertReset t.experts k
  let x := sget expStateReset t.expState k
  match rowPlace t k with
  | none => none
  | some p =>
    let sp := spadWrite (spadWrite t.spad p.2.1 row) p.2.2 (padTo key 32)
    let t1 := { t with spad := sp, expState := sset expStateReset t.expState k { x with cur := p.1, rows := x.rows + 1 } }
    some (if x.rows + 1 = e.batchMinus1 + 1 then postBatch t1 now k step dev lt else t1)

/-- Counts a CLOSE; the FAN_IN-th posts a buffer that holds a row. -/
def countClose (t : Tile) (now k step dev lt : Nat) : Tile :=
  let e := sget expertReset t.experts k
  let x := sget expStateReset t.expState k
  let y := { x with closes := x.closes + 1 }
  let t1 := { t with expState := sset expStateReset t.expState k y }
  if y.closes = e.fanIn ∧ 0 < y.rows ∧ !y.owed then postBatch t1 now k step dev lt else t1

/-- A fabric row or CLOSE of a group member with a bad digest fails the step (R238); for any other sender check 7 does not run. -/
def expertDigest (s : State) (lt : Nat) (f : RxFlow) (l : Packet) : State :=
  let r := tileRegion (tileOf s lt)
  match messageDigestBad s r f l with
  | some (some rank, comp) =>
    digestFailed s r lt (dieOfLt s lt) 0x13 l.srcDev rank 31 0xFFFF (fld l.transport.toNat 248 8)
      (fld l.transport.toNat 103 64) comp
  | _ => s

def expertAccept (s : State) (lt : Nat) (f : RxFlow) (l : Packet) : State :=
  acceptXfer (updTile s lt fun t => { t with cnt := { t.cnt with msgAccepted := satAdd t.cnt.msgAccepted 1 48 } }) lt f l

/-- The end of a row message: stored, or refused for want of a buffer; checks 4 to 7 of Table 8.2 do not run (check 3). -/
def expertRow (s : State) (lt : Nat) (f : RxFlow) (l : Packet) (k : Nat) : State :=
  if rowBad (tileOf s lt) k f.bulk.length then refuseXfer s lt f l 0x0D
  else
    match storeRow (tileOf s lt) s.now k (stepOf s (tileRegion (tileOf s lt))) s.idn.deviceId lt f.bulk f.inl with
    | none => refuseXfer s lt f l 0x02
    | some t => expertAccept (setTile (expertDigest s lt f l) lt t) lt f l

/-- The end of a CLOSE message: never refused. -/
def expertClose (s : State) (lt : Nat) (f : RxFlow) (l : Packet) (k : Nat) : State :=
  expertAccept (updTile (expertDigest s lt f l) lt fun t =>
    countClose t s.now k (stepOf s (tileRegion t)) s.idn.deviceId lt) lt f l

def expertPacket (s : State) (lt : Nat) (p : Packet) (fin : State → Nat → RxFlow → Packet → Nat → State) : State :=
  let k := (expertRecOf (tileOf s lt) p).elim 0 (·.1)
  let r := takePacket s lt p
  match r.2 with
  | some (f, l) => fin r.1 lt f l k
  | none => r.1

/-- EXPERT_ROW_RX. -/
def expertRowRow (lt : Nat) (s : State) : Out :=
  withInbox s lt (fun p => (expertRecOf (tileOf s lt) p).isSome && !isClose (tileOf s lt) p) (fun s p => expertPacket s lt p expertRow)

/-- EXPERT_CLOSE_RX. -/
def expertCloseRow (lt : Nat) (s : State) : Out :=
  withInbox s lt (fun p => (expertRecOf (tileOf s lt) p).isSome && isClose (tileOf s lt) p) (fun s p => expertPacket s lt p expertClose)

/-! ## ACK and NACK at a tile (R224 to R226, R229, Table 8.4) -/

def ansFlow (p : Packet) : Nat := fld p.transport.toNat 252 4
def ansXfer (p : Packet) : Nat := fld p.transport.toNat 236 16
def ansSeq (p : Packet) : Nat := fld p.transport.toNat 220 16
def ansReason (p : Packet) : Nat := fld p.transport.toNat 212 8

/-- Whether an answer names a transfer that the sender holds: a refused message is held no more under its old number (R220), and
waits for the next. -/
def names (fl : TxFlow) (p : Packet) : Bool := fl.retryAt.isNone && fl.flow == ansFlow p && fl.transfer == ansXfer p

def markPkt (fl : TxFlow) (k : Nat) (x : PktState) : TxFlow := { fl with pkts := modAt (fun _ => x) fl.pkts k }
def allAcked (fl : TxFlow) : Bool := fl.pkts.all fun p => p == .acked

/-- Members of a multicast transfer. -/
def mcMembers (x : Xfer) : List Nat :=
  match x.kind with
  | .message true ms => ms
  | _ => []

/-- Notes a member's acknowledgement of a packet; the packet is acknowledged when every member has. -/
def markMember (fl : TxFlow) (k lt : Nat) : TxFlow :=
  let a := setIns (k * 1024 + lt) fl.answered
  let fl1 := { fl with answered := a }
  if (mcMembers fl.x).all fun m => a.contains (k * 1024 + m) then markPkt fl1 k .acked else fl1

/-- Whether the end of a transfer is its last acknowledgement: a GET waits for its data. -/
def endsByAck (x : Xfer) : Bool := x.typ != tReadReq

def putFlow (s : State) (lt f : Nat) (fl : TxFlow) : State :=
  updTile s lt fun t => { t with flows := mapIf (fun e => e.1 == f) (fun _ => (f, fl)) t.flows }

/-- Closes a flow whose packets are all acknowledged; one that has failed ends nothing more. -/
def settleFlow (s : State) (lt f : Nat) (fl : TxFlow) : State :=
  if fl.dead && allAcked fl then pumpTile (updTile s lt fun t => { t with flows := sdel f t.flows }) lt
  else if !fl.dead && allAcked fl && endsByAck fl.x then xferDone (updTile s lt fun t => { t with flows := sdel f t.flows }) lt fl.x
  else pumpTile (putFlow s lt f fl) lt

/-- A stray answer (R225). -/
def strayAck (s : State) (lt : Nat) : State :=
  updTile s lt fun t => { t with cnt := { t.cnt with strayAck := satAdd t.cnt.strayAck 1 32 } }

/-- Answers to data that a tile returns: acknowledged packets, and the end of the flow. -/
def returnAnswer (s : State) (lt : Nat) (p : Packet) (x : PktState) : State :=
  let t := tileOf s lt
  match firstIdx (fun fl : TxFlow => names fl p && fl.x.dst == p.srcLt) t.returns with
  | none => strayAck s lt
  | some i =>
    let rs := modAt (fun fl => markPkt fl (ansSeq p) x) t.returns i
    pumpTile (setTile s lt { t with returns := rs.filter fun fl => !allAcked fl }) lt

def tileAck (s : State) (lt : Nat) (p : Packet) : State :=
  match (tileOf s lt).flows.find? fun e => names e.2 p with
  | some e =>
    let fl := if mcMembers e.2.x = [] then markPkt e.2 (ansSeq p) .acked else markMember e.2 (ansSeq p) p.srcLt
    settleFlow s lt e.1 fl
  | none => returnAnswer s lt p .acked

/-- Mesh cycles of a RETRY_GAP: units of 100 ns. -/
def gapCycles (g : Nat) : Nat := 200 * g

/-- Whether a refusal uses up a counted retry (Table 8.4, R178, R233). -/
def countsRetry (x : Xfer) (reason : Nat) : Bool :=
  if reason = 0x06 then false
  else if reason = 0x02 then (match x.kind with | .scatterRow => false | .scatterClose => false | .contribute => false | _ => true)
  else true

/-- Whether a transfer is of a DMA descriptor, which carries no RETRY_MAX and no RETRY_GAP (R113). -/
def isDma (x : Xfer) : Bool := x.typ == tWrite || x.typ == tReadReq

/-- When a refused message or packet starts again: a contribution refused for its context and a DMA packet every 256 ns, otherwise
after RETRY_GAP. -/
def retryDelay (x : Xfer) (reason : Nat) : Nat :=
  if isDma x then 512
  else match x.kind with
  | .contribute => if reason = 0x02 then 512 else gapCycles x.retryGap
  | _ => gapCycles x.retryGap

/-- A multicast member that refused is retried alone by unicast (R229). -/
def memberRetry (x : Xfer) (m at_ n : Nat) : Xfer :=
  { x with
    kind := .message false [], dstKind := 0, dst := m, destLt := m, retries := x.retries + n, after := at_
    transport := setFld (setFld x.transport 173 1 0) 179 10 m }

/-- A failed flow sends nothing more, and keeps its number until what it has sent is answered (R197). -/
def deadFlow (fl : TxFlow) (k reason : Nat) : TxFlow :=
  { markPkt fl k .acked with
    lastNack := reason, dead := true
    pkts := (modAt (fun _ => PktState.acked) fl.pkts k).map fun x => match x with | .sent a => .sent a | _ => .acked }

/-- A refusal of the whole transfer: retried while its retries last, else failed. -/
def refused (s : State) (lt f : Nat) (fl : TxFlow) (p : Packet) (reason : Nat) : State :=
  let x := fl.x
  let cnt := countsRetry x reason && reason != 0x09
  let out := cnt && decide (x.retryMax ≤ x.retries)
  if mcMembers x = [] then
    if out then xferFailed (settleFlow s lt f (deadFlow fl (ansSeq p) reason)) lt x (failStatus (tileOf s lt) x.fid) reason
    else putFlow s lt f { fl with
      x := { x with retries := x.retries + b2n cnt }, lastNack := reason, retryAt := some (s.now + retryDelay x reason) }
  else
    let fl1 := (List.range fl.pkts.length).foldl (fun fl k => markMember fl k p.srcLt) { fl with lastNack := reason }
    let s1 := if out then xferFailed s lt x stSendFail reason
      else updTile s lt fun t =>
        let t1 := updFired t x.fid fun g => { g with openParts := mapIf (fun q => q.1 == x.part) (fun q => (q.1, q.2 + 1)) g.openParts }
        { t1 with waiting := t1.waiting ++ [memberRetry x p.srcLt (s.now + retryDelay x reason) (b2n cnt)] }
    settleFlow s1 lt f fl1

/-- Whether a multicast member has still to answer some packet of a transfer. -/
def memberOpen (fl : TxFlow) (lt : Nat) : Bool :=
  (mcMembers fl.x).contains lt && (List.range fl.pkts.length).any fun k => !fl.answered.contains (k * 1024 + lt)

/-- A NACK of a PUT or GET packet (R113): retried every 256 ns, or the part fails. -/
def dmaNack (s : State) (lt f : Nat) (fl : TxFlow) (k reason : Nat) : State :=
  if fl.dead then settleFlow s lt f (markPkt fl k .acked)
  else if reason = 0x01 ∨ reason = 0x06 ∨ reason = 0x09 then
    putFlow s lt f (markPkt { fl with lastNack := reason } k (.retryAt (s.now + 512)))
  else
    xferFailed (settleFlow s lt f (deadFlow fl k reason)) lt fl.x
      (if reason = 0x0D then stAddrProtect else failStatus (tileOf s lt) fl.x.fid) reason

/-- Handles a NACK of an open transfer (Table 8.4); one of a multicast counts only from a member that has still to answer (R229).
Table 8.4 says which reasons are sent again, for a SCATTER's messages too (DEDUCED, assumption 147). -/
def flowNack (s : State) (lt f : Nat) (fl : TxFlow) (p : Packet) : State :=
  let reason := ansReason p
  let k := ansSeq p
  let drop := if mcMembers fl.x = [] then settleFlow s lt f (deadFlow fl k reason) else updTile s lt fun t => { t with flows := sdel f t.flows }
  if isDma fl.x then dmaNack s lt f fl k reason
  else if mcMembers fl.x ≠ [] ∧ !memberOpen fl p.srcLt then strayAck s lt
  else match reason with
  | 0x01 => putFlow s lt f (markPkt { fl with lastNack := reason } k (.retryAt (s.now + 512)))
  | 0x09 =>
    if mcMembers fl.x = [] then
      putFlow s lt f (markPkt { fl with lastNack := reason } k (.retryAt (s.now + Nat.max 1 (retryDelay fl.x reason))))
    else refused s lt f fl p reason
  | 0x08 => pumpTile (endPart drop lt fl.x.fid fl.x.part) lt
  | 0x0B => xferFailed drop lt fl.x stPartFail reason
  | 0x0D => xferFailed drop lt fl.x stAddrProtect reason
  | 0x02 => refused s lt f fl p reason
  | 0x05 => refused s lt f fl p reason
  | 0x06 => refused s lt f fl p reason
  | 0x0C => refused s lt f fl p reason
  | _ => if mcMembers fl.x = [] then xferFailed drop lt fl.x (failStatus (tileOf s lt) fl.x.fid) reason
         else refused s lt f { fl with x := { fl.x with retries := fl.x.retryMax } } p reason

def tileNack (s : State) (lt : Nat) (p : Packet) : State :=
  let s1 := updTile s lt fun t => { t with cnt := { t.cnt with
    nackRx := sset 0 t.cnt.nackRx (ansReason p) (satAdd (sget 0 t.cnt.nackRx (ansReason p)) 1 32) } }
  match (tileOf s1 lt).flows.find? fun e => names e.2 p with
  | some e => flowNack s1 lt e.1 e.2 p
  | none => returnAnswer s1 lt p (.retryAt (s1.now + 512))

/-! ## Timed retries -/

/-- Sends one packet of a returning flow again. -/
def resendReturn (s : State) (lt i k : Nat) (fl : TxFlow) : State :=
  updTile (injectTile s lt (xferPacket s (tileOf s lt) fl.x fl.flow fl.transfer k true)) lt fun t =>
    { t with spad := chargeRd t.spad (packetCost fl.x k), returns := modAt (fun fl => markPkt fl k (.sent s.now)) t.returns i }

/-- Retransmission timeout in cycles: 20 µs on the mesh, 200 µs over the fabric (R225). -/
def timeoutCycles (x : Xfer) : Nat := if x.fabric then 400000 else 40000

/-- NACK_RB_RETRY at a tile: a packet refused by a reorder unit or answered EARLY is due again (R199, Table 8.4). -/
def tileRbRetry (s : State) (lt f k : Nat) : Out :=
  match (tileOf s lt).flows.find? fun e => e.1 == f with
  | none => .next s
  | some e =>
    match e.2.pkts.getD k .acked with
    | .retryAt t => whenB (decide (t ≤ s.now) && e.2.retryAt.isNone) s (injectFlow s lt f k false)
    | _ => .next s

/-- MESSAGE_RETRY at a tile: the whole message again under the next TRANSFER (R224). -/
def tileMessageRetry (s : State) (lt f : Nat) : Out :=
  match (tileOf s lt).flows.find? fun e => e.1 == f with
  | none => .next s
  | some e =>
    match e.2.retryAt with
    | none => .next s
    | some t =>
      whenB (decide (t ≤ s.now)) s
        (pumpTile (updTile s lt fun t => if e.2.x.after = 0 then openOn t f e.2.x else
          { t with flows := mapIf (fun x => x.1 == f) (fun x => (x.1, { x.2 with x := { x.2.x with after := 0 }, retryAt := none })) t.flows }) lt)

/-- RETRANSMIT_TIMEOUT at a tile; numbers from 16 on name its returning flows.  Under FLOW_XOFF only packets that were NACKed are sent again
(R200). -/
def tileTimeout (s : State) (lt f k : Nat) : Out :=
  let t := tileOf s lt
  let cnt := fun (s : State) => updTile s lt fun t => { t with cnt := { t.cnt with retxTimeout := satAdd t.cnt.retxTimeout 1 32 } }
  if f < 16 then
    match t.flows.find? fun e => e.1 == f with
    | none => .next s
    | some e =>
      match e.2.pkts.getD k .acked with
      | .sent a => whenB (decide (a + timeoutCycles e.2.x ≤ s.now) && e.2.retryAt.isNone && !e.2.xoff) s (cnt (injectFlow s lt f k true))
      | _ => .next s
  else
    match t.returns[f - 16]? with
    | none => .next s
    | some fl =>
      match fl.pkts.getD k .acked with
      | .sent a => whenB (decide (a + timeoutCycles fl.x ≤ s.now) && !fl.xoff) s (cnt (resendReturn s lt (f - 16) k fl))
      | .retryAt a => whenB (decide (a ≤ s.now)) s (resendReturn s lt (f - 16) k fl)
      | _ => .next s

/-- FLOW_XON of a flow whose entries have fallen to 8 by age, sent to the source of one of its packets (R200). -/
def ageXon (s : State) (lt : Nat) (k : XKey) (p : Packet) : State :=
  match rxOf (tileOf s lt) k with
  | none => s
  | some f =>
    let x := noteXon s lt f p
    updTile x.1 lt fun t => setRx t x.2

/-- REORDER_AGE (R201): held packets older than 1 ms are discarded and counted. -/
def execReorderAge (lt : Nat) (s : State) : Out :=
  needUnit (ltOk lt)
    (let t := tileOf s lt
     let old := fun (h : Nat × Packet) => decide (cyclesPerMs ≤ s.now - h.1)
     let n := (t.rx.map fun f => (f.held.filter old).length).foldl (· + ·) 0
     let s1 := updTile s lt fun t => { t with rx := t.rx.map fun f => { f with held := f.held.filter fun h => !old h } }
     .next (t.rx.foldl (fun s f => ageXon s lt f.key (f.held.head?.elim blankPacket (·.2)))
       (updRouter s1 (posOf s lt) fun r => countR r .reorderAge n)))

/-- FLOW_XOFF and FLOW_XON at the source of a flow (R200). -/
def flowCtl (s : State) (lt : Nat) (p : Packet) (x : Bool) : State :=
  pumpTile (updTile s lt fun t => { t with
    flows := mapIf (fun e => names e.2 p) (fun e => (e.1, { e.2 with xoff := x })) t.flows
    returns := mapIf (fun fl => names fl p && fl.x.dst == p.srcLt) (fun fl => { fl with xoff := x }) t.returns }) lt

end Sys2Proof.Machine
end

