-- ==== Sys2Proof/Machine/Engine.lean ====
section
/-! DEFINITION. The collective engines: contributions, pieces and results, the canonical fold, delivery, digests and the
engine's own sends (R230 to R239, Tables 8.6 to 8.10). -/

namespace Sys2Proof.Machine

/-! ## COLL packets (Table 8.8) -/

def cKind (p : Packet) : Nat := fld p.transport.toNat 252 4
def cSeq (p : Packet) : Nat := fld p.transport.toNat 236 16
def cCq (p : Packet) : Nat := fld p.transport.toNat 231 5
def cRank (p : Packet) : Nat := fld p.transport.toNat 223 8
def cPiece (p : Packet) : Nat := fld p.transport.toNat 215 8
def cDestDev (p : Packet) : Nat := fld p.transport.toNat 85 12
/-- OP, REDOP and ELEMENTS as one number. -/
def cPar (p : Packet) : Nat := fld p.transport.toNat 57 28
def parOf (b : CBlock) : Nat := (b.op % 4 * 4 + (if b.op ≤ 1 then b.redop % 4 else 0)) * 2 ^ 24 + b.elements % 2 ^ 24
def cDigest (p : Packet) : Nat := fld p.transport.toNat 97 64

/-! ## Where an engine meets the mesh -/

/-- The router through which an engine enters the mesh for a region: that of the region's lowest present tile on the die
(DESIGN CHOICE, assumption 154). -/
def spineEntry (s : State) (die r : Nat) : Option Nat :=
  let lts := match regionOf s r with | some g => rectLts g | none => List.range 576
  (lts.find? fun lt => present s lt && dieOfLt s lt == die).map (posOf s)

/-- Puts a packet of the engine or gateway of a die into the mesh. -/
def injectSpine (s : State) (die : Nat) (p : Packet) : State :=
  match spineEntry s die p.region with
  | none => s
  | some pos => injectPort s pos 5 p

/-- A packet of an engine's own, stamped; an engine has no instance generation, so GEN is that of the destination tile
(DESIGN CHOICE, assumption 155). -/
def engPacket (s : State) (die r : Nat) (p : Packet) : Packet :=
  { p with
    region := r, gen := if p.dstKind = 0 then (tileOf s p.dst).gen else 0, epoch := b2n s.activeEpoch, srcLt := engineLt die
    srcDev := s.idn.deviceId, injTime := meshTime s, hops := 0, len := p.payload.length }

/-- Sends a packet of an engine: into the mesh, or to its own gateway for another device. -/
def engSend (s : State) (die : Nat) (p : Packet) : State :=
  if p.dstKind = 0 then injectSpine s die p else updEngine s die fun e => { e with inbox := e.inbox ++ [p] }

/-- An engine's answer to a packet. -/
def engAnswer (s : State) (die : Nat) (p : Packet) (typ reason : Nat) : State :=
  let fab := p.srcDev != s.idn.deviceId
  engSend s die (engPacket s die p.region { blankPacket with
    typ := typ, dstKind := b2n fab, dst := if fab then die else p.srcLt, last := true
    transport := ackTransport p.flow p.transfer p.seq reason p.srcDev p.srcLt })

/-! ## Queues and contexts -/

/-- The physical queue that a region's number names on an engine. -/
def findQueue (e : Engine) (r cq : Nat) : Option (Nat × CollQueue) := e.queues.find? fun q => q.2.region == r && q.2.num == cq

def newCtx (seq : Nat) : CollCtx := ⟨seq, [], false, 0, [], 0, [], [], false, false, false, []⟩

def ctxFor (q : CollQueue) (seq : Nat) : CollCtx := (q.ctxs.find? fun c => c.collSeq == seq).getD (newCtx seq)

def putCtx (q : CollQueue) (c : CollCtx) : CollQueue :=
  { q with ctxs := (q.ctxs.filter fun x => x.collSeq != c.collSeq) ++ [c] }

/-- Changes the context of (region, CQ, COLL_SEQ), made when there is none. -/
def updCtxC (s : State) (die r cq seq : Nat) (f : CollCtx → CollCtx) : State :=
  updEngine s die fun e =>
    match findQueue e r cq with
    | none => e
    | some q => { e with queues := mapIf (fun x => x.1 == q.1) (fun x => (x.1, putCtx x.2 (f (ctxFor x.2 seq)))) e.queues }

def ctxAt (s : State) (die r cq seq : Nat) : Option CollCtx :=
  (findQueue (engineOf s die) r cq).map fun q => ctxFor q.2 seq

/-- Contributions in the order of (LT, DESC_QUEUE, DESC_INDEX) (R232). -/
def contribLe (a b : Contribution) : Bool :=
  decide (a.lt < b.lt) || (a.lt == b.lt && (decide (a.q < b.q) || (a.q == b.q && decide (a.idx ≤ b.idx))))

def insContrib (c : Contribution) : List Contribution → List Contribution
  | [] => [c]
  | a :: t => if contribLe c a then c :: a :: t else a :: insContrib c t

/-- Changes the counters of an engine. -/
def countE (s : State) (die : Nat) (f : EngCounters → EngCounters) : State := updEngine s die fun e => { e with cnt := f e.cnt }

/-- Fails one local CONTRIBUTE with a status and detail. -/
def failContrib (s : State) (c : Contribution) (st detail : Nat) : State :=
  failDesc (updTile s c.lt fun t => updFired t c.fid fun f => { partFailed f 0 st detail with openParts := [] }) c.lt st c.q c.idx

/-- Fails a collective on every local CONTRIBUTE. -/
def failColl (s : State) (die r cq seq st detail : Nat) : State :=
  match ctxAt s die r cq seq with
  | none => s
  | some c => updCtxC (c.contribs.foldl (fun s x => failContrib s x st detail) s) die r cq seq fun c => { c with failed := detail, done := true }

/-! ## Elements -/

/-- The FP32 value of element `i` of a byte list of a type (0 FP32, 1 BF16); +0 beyond its end. -/
def elemF32 (typ : Nat) (l : List Byte) (i : Nat) : F32 :=
  let w := cWidth typ
  let n := ofLe (sliceBytes l (w * i) w)
  if typ = 1 then BitVec.ofNat 32 (n * 2 ^ 16) else BitVec.ofNat 32 n

/-- The bytes of an element of a type, as it was contributed. -/
def rawBytes (typ : Nat) (x : F32) : List Byte := if typ = 1 then leBytes (x.toNat / 2 ^ 16) 2 else leBytes x.toNat 4

/-- The bytes of a result converted to a type by Table 2.7 with SAT = 1 (R234): a NaN is canonical in either. -/
def collBytes (typ : Nat) (x : F32) : List Byte :=
  if typ = 1 then leBytes (cvtFrom 0x5 true (f32 x)).1 2 else leBytes (cvtFrom 0x8 true (f32 x)).1 4

/-- The parameter block of a collective: that of its first contribution. -/
def ctxBlock (c : CollCtx) : CBlock := cBlockOf ((c.contribs.head?).elim [] (·.block))

/-- Element `i` of the device's vector: the first contribution that covers it, +0 where none does (R232). -/
def localElem (c : CollCtx) (i : Nat) : F32 :=
  match c.contribs.find? fun x =>
      let b := cBlockOf x.block
      decide (b.contribOff ≤ i) && decide (i < b.contribOff + x.data.length / cWidth b.inType) with
  | some x =>
    let b := cBlockOf x.block
    elemF32 b.inType x.data (i - b.contribOff)
  | none => f32Zero

/-- Members of the collective: those of the region's group. -/
def collMembers (g : Region) : Nat := Nat.max 1 g.members

/-- The piece a peer sent. -/
def peerPiece (c : CollCtx) (rank : Nat) (result : Bool) : Option PeerPiece :=
  c.peers.find? fun p => p.rank == rank && p.result == result

/-- REDOP on two values (R234). -/
def redop (k : Nat) (a b : F32) : F32 := if k = 0 then fadd a b else if k = 1 then fmax a b else fmin a b

/-- The direct fold of values in ascending rank order. -/
def foldDirect (k : Nat) : List F32 → F32
  | [] => f32Zero
  | x :: t => t.foldl (redop k) x

/-- The canonical fold (R234): direct, or two levels over blocks of consecutive ranks. -/
def foldCanon (b : CBlock) (vs : List F32) : F32 :=
  if b.algo = 0 then foldDirect b.redop vs else foldDirect b.redop ((chunks b.block vs.length vs).map (foldDirect b.redop))

/-- Value of rank `r` for element `i` of the own piece: the vector's, or that of the peer's piece. -/
def rankElem (g : Region) (b : CBlock) (c : CollCtx) (lo r i : Nat) : F32 :=
  if r = g.rank then localElem c (lo + i) else elemF32 b.inType ((peerPiece c r false).elim [] (·.data)) i

/-- Whether elements [o, o + k) of every contribution to the own piece have been released. -/
def foldReady (g : Region) (b : CBlock) (c : CollCtx) (o k : Nat) : Bool :=
  (List.range (collMembers g)).all fun r => r == g.rank || (match peerPiece c r false with
    | some p => decide ((o + k) * cWidth b.inType ≤ p.data.length)
    | none => false)

/-! ## The engine's sends -/

/-- Packets of an engine's transfer. -/
def engCount (x : Xfer) : Nat := Nat.max 1 (ceilDiv x.inl.length maxPayload)

/-- Packet `k` of an engine's transfer (Table 8.8). -/
def engXferPacket (s : State) (die : Nat) (fl : TxFlow) (k : Nat) : Packet :=
  let x := fl.x
  let w := if bitOf x.transport 182 then 2 else 4
  let n := engCount x
  let body := sliceBytes x.inl (k * maxPayload) (Nat.min maxPayload (x.inl.length - k * maxPayload))
  let r := x.fid
  let t0 := setFld x.transport 183 32 (fld x.transport 183 32 + k * (maxPayload / w))
  let t1 := setFld (setFld t0 165 16 (stepOf s r % 2 ^ 16)) 161 4 (attemptOf s r)
  let dig := if x.fabric && k + 1 == n then
      (pipDigest x.inl (trailerColl (stepOf s r) (attemptOf s r) (fld t1 223 8) (fld t1 231 5) (fld t1 236 16) (fld t1 215 8))).toNat
    else 0
  engPacket s die r { blankPacket with
    typ := tColl, vc := vcOf tColl 0 (decide (2 ≤ n)), dstKind := x.dstKind, dst := x.dst, flow := fl.flow
    transfer := fl.transfer, seq := k, last := k + 1 == n
    dstAddr := (x.pieces.head?.elim 0 (·.1)) + (if x.fabric then 0 else k * maxPayload)
    transport := BitVec.ofNat 256 (setFld t1 97 64 dig), payload := body }

/-- Injects what an engine's flows may inject; `fuel` bounds the packets of one flow. -/
def pumpEngFlow : Nat → State → Nat → Nat → State
  | 0, s, _, _ => s
  | n + 1, s, die, i =>
    match (engineOf s die).flows[i]? with
    | none => s
    | some fl =>
      match nextUnsent fl with
      | none => s
      | some k =>
        let s1 := engSend s die (engXferPacket s die fl k)
        pumpEngFlow n (updEngine s1 die fun e => { e with flows := modAt (fun f => markPkt f k (.sent s.now)) e.flows i }) die i

def pumpEngine (s : State) (die : Nat) : State :=
  (List.range (engineOf s die).flows.length).foldl (fun s i => pumpEngFlow 64 s die i) s

/-- Opens a transfer of an engine under number `n`, its low 4 bits the FLOW and the rest the TRANSFER. -/
def engOpenAt (s : State) (die n : Nat) (x : Xfer) : State :=
  updEngine s die fun e =>
    { e with
      lastXfer := n + 1
      flows := e.flows ++ [{ flow := n % 16, transfer := n / 16 % 2 ^ 16, x := x, pkts := List.replicate (engCount x) .unsent
                             xoff := false, retryAt := none, answered := [], lastNack := 0 }] }

/-- Opens a transfer of an engine: each takes the next number. -/
def engOpen (s : State) (die : Nat) (x : Xfer) : State := engOpenAt s die (engineOf s die).lastXfer x

/-- Opens a transfer of an engine again on its flow, under the next TRANSFER number there (R224). -/
def engReopen (s : State) (die flow : Nat) (x : Xfer) : State :=
  let n := (engineOf s die).lastXfer
  engOpenAt s die (n + (flow % 16 + 16 - n % 16) % 16) x

/-- The transfer of a piece or result to the peer of a rank. -/
def peerXfer (die r : Nat) (g : Region) (c : CollCtx) (b : CBlock) (kind rank piece off typ : Nat) (data : List Byte) :
    Option Xfer :=
  (g.peers.find? fun p => p.member && p.rank == rank).map fun p =>
    { fid := r, part := 0, kind := .contribute, typ := tColl, chan := 0, dstKind := 1, dst := die, fabric := true
      destDev := p.device, destLt := p.region
      transport := collTransport kind c.collSeq b.cq g.rank piece off typ false p.device b.op (if b.op ≤ 1 then b.redop else 0) b.elements
      inl := data, pieces := [], retryMax := (c.contribs.head?).elim 0 (·.retryMax)
      retryGap := (c.contribs.head?).elim 0 (·.retryGap), retries := 0, after := 0 }

/-- Other ranks of the group. -/
def otherRanks (g : Region) : List Nat := (List.range (collMembers g)).filter (· != g.rank)

/-- What the engine sends when the local side opens (Table 8.7). -/
def openSends (die r : Nat) (g : Region) (c : CollCtx) : List Xfer :=
  let b := ctxBlock c
  let n := collMembers g
  let bytes := fun (x : Nat × Nat) => (List.range x.2).flatMap fun i => rawBytes b.inType (localElem c (x.1 + i))
  (otherRanks g).filterMap fun q =>
    let piece := if b.op = 2 then g.rank else q
    let x := pieceRange b.elements n piece
    peerXfer die r g c b 2 q piece x.1 b.inType (bytes x)

/-! ## Results (R236) -/

/-- Element `i` of the result vector, if it is there. -/
def resultElem (g : Region) (b : CBlock) (c : CollCtx) (i : Nat) : Option F32 :=
  let n := collMembers g
  let piece := ((List.range n).find? fun r =>
    let x := pieceRange b.elements n r
    decide (x.1 ≤ i) && decide (i < x.1 + x.2)).getD 0
  let lo := (pieceRange b.elements n piece).1
  if b.op ≤ 1 then
    if piece = g.rank then (if c.released then c.result[i - lo]? else none)
    else (peerPiece c piece true).bind fun p => if p.whole then some (elemF32 b.outType p.data (i - lo)) else none
  else if piece = g.rank then
    (if b.op = 2 then (if c.localOpen then some (localElem c i) else none)
     else if c.localOpen then some (localElem c i) else none)
  else (peerPiece c piece false).bind fun p => if p.whole then some (elemF32 b.inType p.data (i - lo)) else none

/-- The bytes of a contribution's result range when all of it is there. -/
def resultBytes (g : Region) (c : CollCtx) (x : Contribution) : Option (List Byte) :=
  let b := cBlockOf x.block
  (List.range b.resultCount).foldl (fun acc i =>
    match acc, resultElem g b c (b.resultOff + i) with
    | some l, some v => some (l ++ collBytes b.outType v)
    | _, _ => none) (some [])

/-- The LOCAL_OUT transfer that writes a contribution's result range. -/
def localOut (s : State) (r : Nat) (g : Region) (c : CollCtx) (x : Contribution) (data : List Byte) : Xfer :=
  let b := cBlockOf x.block
  { fid := r, part := 0, kind := .put, typ := tColl, chan := 0, dstKind := 0, dst := x.lt, fabric := false
    destDev := s.idn.deviceId, destLt := x.lt
    transport := collTransport 1 c.collSeq b.cq g.rank 0 b.resultOff b.outType (decide (1 < g.members)) s.idn.deviceId b.op
      (if b.op ≤ 1 then b.redop else 0) b.elements
    inl := data, pieces := [(x.destAddr, 0, data.length)], retryMax := (c.contribs.head?).elim 0 (·.retryMax)
    retryGap := (c.contribs.head?).elim 0 (·.retryGap), retries := 0, after := 0 }

/-- Sends every result range that is complete and not yet sent. -/
def deliverLocalResults (s : State) (die r cq seq : Nat) : State :=
  match regionOf s r, ctxAt s die r cq seq with
  | some g, some c =>
    if !c.localOpen || c.failed != 0 then s
    else
      ((List.zip (List.range c.contribs.length) c.contribs).foldl (fun s x =>
        if c.sent.contains x.1 || (cBlockOf x.2.block).resultCount == 0 then s
        else
          match resultBytes g c x.2 with
          | none => s
          | some d =>
            updCtxC (engOpen s die (localOut s r g c x.2 d)) die r cq seq fun c => { c with sent := setIns x.1 c.sent }) s)
  | _, _ => s

/-- Whether a collective has nothing left to do: every result range sent, its own result released, every transfer answered. -/
def collDone (e : Engine) (r : Nat) (g : Region) (q : CollQueue) (c : CollCtx) : Bool :=
  c.done || (c.localOpen &&
    ((List.zip (List.range c.contribs.length) c.contribs).all fun x => c.sent.contains x.1 || (cBlockOf x.2.block).resultCount == 0) &&
    (decide (2 ≤ (ctxBlock c).op) || c.released) &&
    (decide ((ctxBlock c).op == 1) || (otherRanks g).all fun k => (peerPiece c k (decide ((ctxBlock c).op = 0))).any (·.whole)) &&
    !(e.flows.any fun f => f.x.fid == r && fld f.x.transport 231 5 == q.num && fld f.x.transport 236 16 == c.collSeq))

/-- Moves a queue's oldest number past completed collectives; `fuel` is the contexts. -/
def advance : Nat → CollQueue → CollQueue
  | 0, q => q
  | n + 1, q =>
    match q.ctxs.find? fun c => c.collSeq == q.oldest with
    | some c => if c.done then advance n { q with oldest := q.oldest + 1, ctxs := q.ctxs.filter fun x => x.collSeq != q.oldest } else q
    | none => q

/-- Marks completed collectives of a region's queue and frees their contexts. -/
def settleColl (s : State) (die r cq : Nat) : State :=
  match regionOf s r with
  | none => s
  | some g =>
    updEngine s die fun e => { e with queues := e.queues.map fun q =>
      if q.2.region = r ∧ q.2.num = cq then
        (q.1, advance 4 { q.2 with ctxs := q.2.ctxs.map fun c => if collDone e r g q.2 c then { c with done := true } else c })
      else q }

/-- After any change to a collective: results go out, sends start, completed contexts are freed. -/
def workColl (s : State) (die r cq seq : Nat) : State :=
  settleColl (pumpEngine (deliverLocalResults s die r cq seq) die) die r cq

/-! ## Receiving at an engine -/

def eRx (e : Engine) (k : XKey) : Option RxFlow := e.rx.find? fun f => f.key == k

/-- Closes a transfer of a region: its flow is freed and its outcome kept (R226). -/
def closeEng (e : Engine) (k : XKey) (o r : Nat) : Engine :=
  { e with rx := e.rx.filter fun f => f.key != k, closedXfers := (e.closedXfers.drop (e.closedXfers.length - 4095)) ++ [(k, o, r)] }

/-- Releases packets of an engine flow in order; every one but LAST is acknowledged. -/
def engRelease : Nat → State → Nat → RxFlow → Packet → State × RxFlow × Option Packet
  | 0, s, _, f, _ => (s, f, none)
  | n + 1, s, die, f, p =>
    let blk := cKind p == 0 && p.seq == 0
    let f1 := { f with
      expected := (f.expected + 1) % 2 ^ 16, inl := if blk then p.payload else f.inl
      bulk := if blk then f.bulk else f.bulk ++ p.payload }
    if p.last then (s, f1, some p)
    else
      let s1 := engAnswer s die p tAck 0
      match f1.held.find? fun h => h.2.seq == f1.expected with
      | some h => engRelease n s1 die { f1 with held := f1.held.filter fun x => x.2.seq != f1.expected } h.2
      | none => (s1, f1, none)

/-- The window of COLL_SEQ that a queue serves (R233). -/
def inWindow (q : CollQueue) (seq : Nat) : Bool := decide (q.oldest ≤ seq) && decide (seq ≤ q.oldest + 3)

def nackE (s : State) (die : Nat) (p : Packet) (reason : Nat) : State := engAnswer s die p tNack reason

/-- Notes the data of a peer's piece or result as released so far. -/
def notePeer (s : State) (die r : Nat) (p : Packet) (data : List Byte) (whole checked : Bool) : State :=
  let x : PeerPiece := ⟨cRank p, cPiece p, cKind p == 3, p.srcDev, data, whole, checked, cPar p, none⟩
  updCtxC s die r (cCq p) (cSeq p) fun c => { c with
    peers := (c.peers.filter fun y => !(y.rank == x.rank && y.result == x.result)) ++ [x]
    order := if x.result || c.order.contains x.rank then c.order else c.order ++ [x.rank] }

/-- Keeps the LAST packet of a piece that came whole before the local side opened. -/
def holdPeer (s : State) (die r : Nat) (p : Packet) : State :=
  updCtxC s die r (cCq p) (cSeq p) fun c => { c with
    peers := mapIf (fun y => y.rank == cRank p && y.result == (cKind p == 3)) (fun y => { y with hold := some p }) c.peers }

/-- Whether a packet is of a piece that waits for the local side to open. -/
def pieceHeld (c : CollCtx) (p : Packet) : Bool := c.peers.any fun y => y.hold.any fun q => pktKey q == pktKey p

/-- Whether a peer's OP, REDOP or ELEMENTS differ from the local side's. -/
def parMismatch (c : CollCtx) (p : Packet) : Bool := c.contribs != [] && parOf (ctxBlock c) != cPar p

/-- The end of a peer's piece or result: its digest is checked (R237 to R239).  One that comes before the local side opens is answered
when it opens. -/
def peerEnd (s : State) (die r : Nat) (f : RxFlow) (l : Packet) : State :=
  let comp := pipDigest f.bulk (trailerColl (stepOf s r) (attemptOf s r) (cRank l) (cCq l) (cSeq l) (cPiece l))
  let good := comp.toNat == cDigest l
  let s1 := notePeer s die r l f.bulk true true
  let s2 := countE s1 die fun n =>
    if good then { n with contribRx := satAdd n.contribRx 1 48, digestOk := satAdd n.digestOk 1 48 }
    else { n with contribRx := satAdd n.contribRx 1 48, digestFail := satAdd n.digestFail 1 32 }
  let s3 := if good then s2
    else digestFailed s2 r 0x3FF die (if cKind l = 2 then 0x11 else 0x12) l.srcDev (cRank l) (cCq l) (cSeq l) (cPiece l) (cDigest l) comp.toNat
  let open_ := (ctxAt s3 die r (cCq l) (cSeq l)).any fun c => c.localOpen || c.done
  if open_ then workColl (engAnswer (updEngine s3 die fun e => closeEng e f.key 0 r) die l tAck 0) die r (cCq l) (cSeq l)
  else holdPeer (updEngine s3 die fun e => { e with rx := e.rx.filter fun x => x.key != f.key }) die r l

/-- The fired CONTRIBUTE whose transfer a flow is. -/
def contribFid (s : State) (k : XKey) : Option (Nat × TxFlow) :=
  (((tileOf s k.lt).flows.find? fun e => e.2.flow == k.flow && e.2.transfer == k.transfer).map fun e => (e.2.x.fid, e.2))

/-- The end of a tile's contribution: it joins its collective; one for a local side that is open, or that holds all its parts and so
opens, fails alone (R232). -/
def contribEnd (s : State) (die r : Nat) (f : RxFlow) (l : Packet) : State :=
  let s1 := engAnswer (updEngine s die fun e => closeEng e f.key 0 r) die l tAck 0
  match contribFid s f.key with
  | none => s1
  | some (fid, fl) =>
    let t := tileOf s f.key.lt
    let d := (t.fired.find? fun x => x.fid == fid)
    let c : Contribution :=
      { lt := f.key.lt, q := d.elim 0 (·.q), idx := d.elim 0 (·.idx), fid := fid, destAddr := d.elim 0 (·.outAddr), block := f.inl
        data := f.bulk, retryMax := fl.x.retryMax, retryGap := fl.x.retryGap }
    match findQueue (engineOf s die) r (cCq l) with
    | none => failContrib s1 c stPartFail 0x31
    | some q =>
      let x := ctxFor q.2 (cSeq l)
      if cSeq l < q.2.oldest || x.localOpen || x.done || (x.contribs != [] && x.contribs.length == (ctxBlock x).localParts) then failContrib s1 c stPartFail 0x31
      else updCtxC s1 die r (cCq l) (cSeq l) fun x => { x with contribs := insContrib c x.contribs }

/-- One packet of an open flow of an engine. -/
def engFlow (s : State) (die r : Nat) (f : RxFlow) (p : Packet) : State :=
  let d := (p.seq + 2 ^ 16 - f.expected) % 2 ^ 16
  let put := fun (s : State) (g : RxFlow) => updEngine s die fun e => { e with rx := mapIf (fun x => x.key == g.key) (fun _ => g) e.rx }
  if d = 0 then
    let x := engRelease 65 s die f p
    match x.2.2 with
    | some l => if cKind p = 0 then contribEnd x.1 die r x.2.1 l else peerEnd x.1 die r x.2.1 l
    | none =>
      let s1 := put x.1 x.2.1
      if cKind p = 0 then s1 else notePeer s1 die r p x.2.1.bulk false false
  else if d < 64 then
    if f.held.any fun h => h.2.seq == p.seq then s else put s { f with held := f.held ++ [(s.now, p)] }
  else engAnswer s die p tAck 0

/-- A spine packet whose region holds no such queue: discarded, counted and reported (R210). -/
def spineDrop (s : State) (die : Nat) : State :=
  devEvent (countE s die fun n => { n with spineDrop := satAdd n.spineDrop 1 32 }) 0x0303 7 die []

/-- COLL_PACKET_RX at an engine: step check, closed transfers, context window, mismatch, then its flow. -/
def collAtEngine (s : State) (die : Nat) (p : Packet) : State :=
  let r := p.region
  let e := engineOf s die
  if 4 ≤ cKind p ∨ cKind p = 1 then s
  else
    match stepVerdict s r p with
    | .stale => nackE s die p 0x08
    | .early h =>
      let s1 := nackE s die p 0x09
      if h then higherAttempt s1 r else s1
    | .ok =>
      match e.closedXfers.find? fun c => c.1 == pktKey p with
      | some c => if c.2.1 = 0 then engAnswer s die p tAck 0 else nackE s die p c.2.1
      | none =>
        match findQueue e r (cCq p) with
        | none => if p.srcDev = s.idn.deviceId then spineDrop s die else nackE s die p 0x0A
        | some q =>
          if pieceHeld (ctxFor q.2 (cSeq p)) p then s
          else if cKind p ≠ 0 ∧ parMismatch (ctxFor q.2 (cSeq p)) p then
            nackE (countE (updEngine s die fun e => closeEng e (pktKey p) 0x0B r) die fun n =>
              { n with collMismatch := satAdd n.collMismatch 1 32 }) die p 0x0B
          else if !inWindow q.2 (cSeq p) && !(cKind p == 0 && decide (cSeq p < q.2.oldest)) then
            nackE (countE s die fun n => { n with ctxNack := satAdd n.ctxNack 1 32 }) die p 0x02
          else
            match eRx e (pktKey p) with
            | some f => engFlow s die r f p
            | none =>
              let f := { newRx tileReset p with region := r }
              engFlow (updEngine s die fun e => { e with rx := e.rx ++ [f] }) die r f p

/-- Takes the first packet of an engine's inbox that satisfies a test. -/
def takeEng (s : State) (die : Nat) (p : Packet → Bool) : Option (Packet × State) :=
  let e := engineOf s die
  match e.inbox.find? p, firstIdx p e.inbox with
  | some x, some i => some (x, setEngine s die { e with inbox := e.inbox.eraseIdx i })
  | _, _ => none

/-! ## COLL at a tile: LOCAL_OUT -/

/-- The fired CONTRIBUTE that a result packet belongs to. -/
def contribOf (t : Tile) (die addr : Nat) (p : Packet) : Option Fired :=
  t.fired.find? fun f => dClass f.desc == 5 && dOp f.desc == 1 &&
    (let b := cBlockOf (sData f.desc)
     b.engine == die && b.cq == cCq p && b.collSeq == cSeq p && f.outAddr == addr && b.resultCount != 0 && f.openParts != [])

/-- COLL_PACKET_RX at a tile: the result range is written; its LAST packet ends the CONTRIBUTE's second part. -/
def collAtTile (s : State) (die lt : Nat) (p : Packet) : State :=
  let r := takePacket s lt p
  match r.2 with
  | none => r.1
  | some (f, l) =>
    let s1 := acceptXfer r.1 lt f l
    let first := l.dstAddr - l.seq * maxPayload
    match contribOf (tileOf s1 lt) die first l with
    | none => s1
    | some g => endPart s1 lt g.fid 0

/-- COLL_PACKET_RX (R230 to R239): at the engine of a die, or at the tile that takes its results. -/
def collPacketRow (die : Nat) (lt : Option Nat) (s : State) : Out :=
  needUnit (dieOk die)
    (match lt with
      | some t => withInbox s t (fun p => p.typ == tColl && cKind p == 1) (fun s p => collAtTile s die t p)
      | none =>
        match takeEng s die fun p => p.typ == tColl && cDestDev p == s.idn.deviceId with
        | none => .next s
        | some x => .next (collAtEngine x.2 die x.1))

/-! ## LOCAL_SIDE_OPEN, FOLD_BLOCK_DONE, RESULT_RELEASE -/

/-- A parameter block without the fields that each tile sets for itself. -/
def commonBlock (b : CBlock) : CBlock := { b with contribOff := 0, resultOff := 0, resultCount := 0 }

/-- Elements the device must contribute (Table 8.7). -/
def neededElems (g : Region) (b : CBlock) : Nat :=
  if b.op = 2 then (pieceRange b.elements (collMembers g) g.rank).2 else b.elements

/-- Contributed elements. -/
def givenElems (c : CollCtx) : Nat := (c.contribs.map fun x => x.data.length / cWidth (cBlockOf x.block).inType).foldl (· + ·) 0

/-- The failure that opening the local side finds: 0x31 mismatch, 0x30 COVERAGE, 0x32 NO_PEER. -/
def openFailure (g : Region) (c : CollCtx) : Option Nat :=
  let b := ctxBlock c
  if c.contribs.any fun x => commonBlock (cBlockOf x.block) != commonBlock b then some 0x31
  else if givenElems c ≠ neededElems g b then some 0x30
  else if (otherRanks g).any fun k => !(g.peers.any fun p => p.member && p.rank == k) then some 0x32
  else none

/-- Answers the LAST packet of a piece that waited for the local side: accepted, or refused COLL_MISMATCH. -/
def answerHeld (s : State) (die r : Nat) (x : PeerPiece) (o : Nat) : State :=
  match x.hold with
  | none => s
  | some p =>
    let s1 := updEngine s die fun e => closeEng e (pktKey p) o r
    if o = 0 then engAnswer s1 die p tAck 0 else nackE s1 die p o

def localSideOpen (s : State) (die r cq seq : Nat) : State :=
  match regionOf s r, ctxAt s die r cq seq with
  | some g, some c =>
    if c.localOpen || c.done || c.contribs == [] || c.contribs.length != (ctxBlock c).localParts then s
    else
      match openFailure g c with
      | some d => settleColl (failColl s die r cq seq stPartFail d) die r cq
      | none =>
        let bad := c.peers.filter fun p => p.par != parOf (ctxBlock c)
        let s0 := c.peers.foldl (fun s p => answerHeld s die r p (if p.par = parOf (ctxBlock c) then 0 else 0x0B)) s
        let s1 := updCtxC s0 die r cq seq fun c => { c with
          localOpen := true
          order := if c.order.contains g.rank then c.order else c.order ++ [g.rank]
          peers := (c.peers.filter fun p => p.par == parOf (ctxBlock c)).map fun p => { p with hold := none } }
        let s2 := countE s1 die fun n => { n with collMismatch := satAdd n.collMismatch bad.length 32 }
        workColl ((openSends die r g c).foldl (fun s x => engOpen s die x) s2) die r cq seq
  | _, _ => s

/-- LOCAL_SIDE_OPEN (R232). -/
def execLocalSideOpen (die r cq seq : Nat) (s : State) : Out :=
  needUnit (dieOk die && regOk r) (.next (localSideOpen s die r cq seq))

/-- Ranks in the order of the fold: ascending (R234), or of arrival in a region created with ARRIVAL_FOLD (Table 1.5). -/
def foldRanks (g : Region) (c : CollCtx) : List Nat :=
  let n := List.range (collMembers g)
  if g.arrivalFold then (c.order.filter n.contains) ++ n.filter fun r => !c.order.contains r else n

/-- Elements of a 256-byte block of a piece. -/
def foldBlockLen (b : CBlock) : Nat := 256 / cWidth b.inType

def foldBlock (s : State) (die r cq seq : Nat) : State :=
  match regionOf s r, ctxAt s die r cq seq with
  | some g, some c =>
    let b := ctxBlock c
    let n := collMembers g
    let own := pieceRange b.elements n g.rank
    let k := Nat.min (foldBlockLen b) (own.2 - c.folded)
    if !c.localOpen || decide (2 ≤ b.op) || k == 0 || !foldReady g b c c.folded k then s
    else
      let vs := (List.range k).map fun i => foldCanon b ((foldRanks g c).map fun q => rankElem g b c own.1 q (c.folded + i))
      countE (updCtxC s die r cq seq fun c => { c with folded := c.folded + k, result := c.result ++ vs }) die fun m =>
        { m with foldOps := satAdd m.foldOps ((n - 1) * k) 48 }
  | _, _ => s

/-- Context area of a collective: 4 to a physical queue. -/
def ctxArea (s : State) (die r cq seq : Nat) : Nat := ((findQueue (engineOf s die) r cq).elim 0 (·.1)) * 4 + seq % 4

/-- What the fold meets in the words of the fold buffer: a correctable error is corrected and counted; an uncorrectable one fails the
region's step, charges the engine, and folds nothing (Tables 8.11 and 13.6). -/
def foldBlockFound (s : State) (die r cq seq : Nat) : Option EccFind → State
  | none => foldBlock s die r cq seq
  | some (.ce _) => foldBlock (countE s die fun n => { n with foldCe := satAdd n.foldCe 1 32 }) die r cq seq
  | some .ue =>
    let a := ctxArea s die r cq seq
    let s1 := failStep (countE s die fun n => { n with foldUe := satAdd n.foldUe 1 32 }) r 0x0811
    charge s1 r (chargeAt s1 r (dieKey 7 die) a 0x07 (a / 4) 0x3FF 0 []) false

/-- FOLD_BLOCK_DONE (R234): the next 256-byte block of the own piece is folded.  `found` is the error met in its words, none by
default. -/
def execFoldBlockDone (die r cq seq : Nat) (s : State) (found : Option EccFind := none) : Out :=
  needUnit (dieOk die && regOk r) (.next (foldBlockFound s die r cq seq found))

def resultRelease (s : State) (die r cq seq : Nat) : State :=
  match regionOf s r, ctxAt s die r cq seq with
  | some g, some c =>
    let b := ctxBlock c
    let own := pieceRange b.elements (collMembers g) g.rank
    if !c.localOpen || c.released || decide (2 ≤ b.op) || c.folded != own.2 ||
        !((otherRanks g).all fun k => (peerPiece c k false).any (·.checked)) then s
    else
      let data := c.result.flatMap (collBytes b.outType)
      let s1 := updCtxC s die r cq seq fun c => { c with released := true }
      let xs := if b.op = 0 then (otherRanks g).filterMap fun k => peerXfer die r g c b 3 k g.rank own.1 b.outType data else []
      workColl (xs.foldl (fun s x => engOpen s die x) s1) die r cq seq
  | _, _ => s

/-- RESULT_RELEASE (R235): the owner's result goes out after every contribution to it has been checked. -/
def execResultRelease (die r cq seq : Nat) (s : State) : Out :=
  needUnit (dieOk die && regOk r) (.next (resultRelease s die r cq seq))

/-! ## Answers at an engine -/

def engUpd (s : State) (die i : Nat) (f : TxFlow → TxFlow) : State :=
  updEngine s die fun e => { e with flows := modAt f e.flows i }

def engDrop (s : State) (die i : Nat) : State := updEngine s die fun e => { e with flows := e.flows.eraseIdx i }

/-- Region, CQ and COLL_SEQ that a transfer of an engine serves. -/
def xferColl (x : Xfer) : Nat × Nat × Nat := (x.fid, fld x.transport 231 5, fld x.transport 236 16)

def engAck (s : State) (die : Nat) (p : Packet) : State :=
  match firstIdx (fun fl => names fl p) (engineOf s die).flows with
  | none => s
  | some i =>
    match (engineOf s die).flows[i]? with
    | none => s
    | some fl =>
      let fl1 := markPkt fl (ansSeq p) .acked
      let k := xferColl fl.x
      let s1 := if allAcked fl1 then engDrop s die i else engUpd s die i fun _ => fl1
      workColl s1 die k.1 k.2.1 k.2.2

/-- A NACK of an engine's transfer (R233, Table 8.4). -/
def engNack (s : State) (die : Nat) (p : Packet) : State :=
  match firstIdx (fun fl => names fl p) (engineOf s die).flows with
  | none => s
  | some i =>
    match (engineOf s die).flows[i]? with
    | none => s
    | some fl =>
      let reason := ansReason p
      let k := xferColl fl.x
      let gap := Nat.max 512 (gapCycles fl.x.retryGap)
      let again := fun (d : Nat) => engUpd s die i fun f => markPkt { f with lastNack := reason } (ansSeq p) (.retryAt (s.now + d))
      let fail := fun (st : Nat) => settleColl (failColl (engDrop s die i) die k.1 k.2.1 k.2.2 st reason) die k.1 k.2.1
      if reason = 0x01 ∨ reason = 0x02 then again 512
      else if reason = 0x09 then again gap
      else if reason = 0x08 then settleColl (engDrop s die i) die k.1 k.2.1
      else if reason = 0x0B then fail stPartFail
      else if reason = 0x0D then fail stAddrProtect
      else if reason = 0x06 then engUpd s die i fun f => { f with lastNack := reason, retryAt := some (s.now + gap) }
      else if reason = 0x05 ∨ reason = 0x0C then
        if fl.x.retryMax ≤ fl.x.retries then fail stSendFail
        else engUpd s die i fun f => { f with
          lastNack := reason, retryAt := some (s.now + gap), x := { f.x with retries := f.x.retries + 1 } }
      else fail stSendFail

/-- Whether a number names an engine: 0x3F8 + die. -/
def isEngineLt (lt : Nat) : Option Nat := if 0x3F8 ≤ lt ∧ lt < 0x3FC then some (lt - 0x3F8) else none

/-- Whether an answer at an engine's inbox is for its own sends. -/
def ownAnswer (s : State) (typ : Nat) (p : Packet) : Bool :=
  p.typ == typ && fld p.transport.toNat 189 12 == s.idn.deviceId

/-- Handles an answer packet at a tile or, by its number, at an engine. -/
def answerRow (typ lt : Nat) (s : State) (atTile : State → Nat → Packet → State) (atEng : State → Nat → Packet → State) : Out :=
  match isEngineLt lt with
  | some die =>
    match takeEng s die (ownAnswer s typ) with
    | none => .next s
    | some x => .next (atEng x.2 die x.1)
  | none => withInbox s lt (fun p => p.typ == typ) (fun s p => atTile s lt p)

/-- ACK_RX (R197, R225). -/
def execAckRx (lt : Nat) (s : State) : Out := answerRow tAck lt s tileAck engAck

/-- NACK_RX (R224, Table 8.4). -/
def execNackRx (lt : Nat) (s : State) : Out := answerRow tNack lt s tileNack engNack

def engFlowCtl (x : Bool) (s : State) (die : Nat) (p : Packet) : State :=
  pumpEngine (updEngine s die fun e => { e with flows := mapIf (fun fl => names fl p) (fun fl => { fl with xoff := x }) e.flows }) die

/-- FLOW_XOFF_RX (R200). -/
def execFlowXoffRx (lt : Nat) (s : State) : Out :=
  answerRow tXoff lt s (fun s lt p => flowCtl s lt p true) (engFlowCtl true)

/-- FLOW_XON_RX (R200). -/
def execFlowXonRx (lt : Nat) (s : State) : Out :=
  answerRow tXon lt s (fun s lt p => flowCtl s lt p false) (engFlowCtl false)

/-! ## Timed retries at an engine: flows are numbered in the order they were opened -/

def engResend (s : State) (die i k : Nat) : State :=
  match (engineOf s die).flows[i]? with
  | none => s
  | some fl => engUpd (engSend s die (engXferPacket s die fl k)) die i fun f => markPkt f k (.sent s.now)

def engPkt (s : State) (die i k : Nat) : PktState := ((engineOf s die).flows[i]?).elim .acked fun f => f.pkts.getD k .acked

/-- Whether a transfer of an engine is not one that was refused whole and waits to start again (R224, R225). -/
def engLive (s : State) (die i : Nat) : Bool := ((engineOf s die).flows[i]?).all fun fl => fl.retryAt.isNone

/-- NACK_RB_RETRY (R199, R233, Table 8.4). -/
def nackRbRetryRow (lt flow seq : Nat) (s : State) : Out :=
  match isEngineLt lt with
  | some die =>
    match engPkt s die flow seq with
    | .retryAt t => whenB (decide (t ≤ s.now) && engLive s die flow) s (engResend s die flow seq)
    | _ => .next s
  | none => needUnit (ltOk lt) (tileRbRetry s lt flow seq)

/-- A refused message or engine transfer starts again under the next numbers. -/
def engRetry (s : State) (die i : Nat) : Out :=
  match (engineOf s die).flows[i]? with
  | none => .next s
  | some fl =>
    match fl.retryAt with
    | none => .next s
    | some t => whenB (decide (t ≤ s.now)) s (pumpEngine (engReopen (engDrop s die i) die fl.flow fl.x) die)

/-- MESSAGE_RETRY (R224). -/
def execMessageRetry (lt flow : Nat) (s : State) : Out :=
  match isEngineLt lt with
  | some die => engRetry s die flow
  | none => needUnit (ltOk lt) (tileMessageRetry s lt flow)

/-- RETRANSMIT_TIMEOUT (R225). -/
def retransmitRow (lt flow seq : Nat) (s : State) : Out :=
  match isEngineLt lt with
  | some die =>
    match engPkt s die flow seq with
    | .sent a =>
      whenB (decide (a + (((engineOf s die).flows[flow]?).elim 0 fun f => timeoutCycles f.x) ≤ s.now) && engLive s die flow &&
        ((engineOf s die).flows[flow]?).all fun f => !f.xoff) s (engResend s die flow seq)
    | _ => .next s
  | none => needUnit (ltOk lt) (tileTimeout s lt flow seq)

end Sys2Proof.Machine
end

