-- ==== Sys2Proof/Machine/Tarn.lean ====
section
/-! DEFINITION. Tarn ports: flits and packet bytes, sequence numbers and replay, training, loss of a port (R241 to R256,
R258, R263). -/

namespace Sys2Proof.Machine

def portOf (s : State) (p : Nat) : Port := sget portReset s.fab.ports p
def setPort (s : State) (p : Nat) (v : Port) : State := { s with fab := { s.fab with ports := sset portReset s.fab.ports p v } }
def updPort (s : State) (p : Nat) (f : Port → Port) : State := setPort s p (f (portOf s p))

/-! ## TRN_PORT_CTL (Table 9.12) -/

def pEn (p : Port) : Bool := bitOf p.ctl 31
def pExpected (p : Port) : Bool := bitOf p.ctl 30
def pMaxRate (p : Port) : Nat := fld p.ctl 28 2
def pCompat (p : Port) : Bool := bitOf p.ctl 27
def pDownshift (p : Port) : Bool := bitOf p.ctl 26
def pSavedEn (p : Port) : Bool := bitOf p.ctl 25
def pDim (p : Port) : Nat := fld p.ctl 22 2
def pDir (p : Port) : Nat := fld p.ctl 21 1
def pWrap (p : Port) : Bool := bitOf p.ctl 20

/-- States (Table 9.7). -/
def psOff : Nat := 0
def psIdle : Nat := 1
def psDetect : Nat := 2
def psNegotiate : Nat := 3
def psEqualise : Nat := 4
def psAlign : Nat := 5
def psQualify : Nat := 6
def psActive : Nat := 7
def psRetrain : Nat := 8
def psFailed : Nat := 9

def isActive (s : State) (p : Nat) : Bool := (portOf s p).state == psActive

/-! ## The bytes of a packet (Tables 7.3 and 9.5) -/

/-- The 512-bit header. -/
def headerWord (p : Packet) : Nat :=
  p.typ % 16 * 2 ^ 508 + p.vc % 4 * 2 ^ 506 + p.epoch % 2 * 2 ^ 505 + p.region % 32 * 2 ^ 500 + p.gen % 8 * 2 ^ 497 +
    p.dstKind % 4 * 2 ^ 495 + p.dst % 1024 * 2 ^ 485 + p.srcLt % 1024 * 2 ^ 475 + p.srcDev % 4096 * 2 ^ 463 + p.flow % 16 * 2 ^ 459 +
    p.transfer % 2 ^ 16 * 2 ^ 443 + p.seq % 2 ^ 16 * 2 ^ 427 + p.chan % 2 * 2 ^ 426 + b2n p.last * 2 ^ 425 + p.len % 8192 * 2 ^ 412 +
    p.dstAddr % 2 ^ 26 * 2 ^ 386 + p.injTime % 2 ^ 16 * 2 ^ 370 + p.hops % 64 * 2 ^ 364 + p.transport.toNat

/-- The packet of a header word and its payload. -/
def packetOf (w : Nat) (data : List Byte) : Packet :=
  { typ := fld w 508 4, vc := fld w 506 2, epoch := fld w 505 1, region := fld w 500 5, gen := fld w 497 3, dstKind := fld w 495 2
    dst := fld w 485 10, srcLt := fld w 475 10, srcDev := fld w 463 12, flow := fld w 459 4, transfer := fld w 443 16
    seq := fld w 427 16, chan := fld w 426 1, last := bitOf w 425, len := fld w 412 13, dstAddr := fld w 386 26
    injTime := fld w 370 16, hops := fld w 364 6, transport := BitVec.ofNat 256 w, payload := data }

/-- Prefix, header and payload as they cross a port; version 1 framing has the 8-byte prefix. -/
def fabBytes (v1 : Bool) (f : FabPacket) : List Byte :=
  (if v1 then leBytes (1 * 2 ^ 60 + f.destDev % 4096 * 2 ^ 48 + f.fage % 1024 * 2 ^ 38 + f.fhops % 64 * 2 ^ 32) 8
   else leBytes (2 * 2 ^ 124 + f.destDev % 4096 * 2 ^ 112 + f.destInc % 2 ^ 16 * 2 ^ 96 + f.srcInc % 2 ^ 16 * 2 ^ 80 +
     f.fage % 1024 * 2 ^ 70 + f.fhops % 64 * 2 ^ 64) 16) ++ leBytes (headerWord f.pkt) 64 ++ f.pkt.payload

/-- Bytes of the fabric prefix. -/
def prefixLen (v1 : Bool) : Nat := if v1 then 8 else 16

/-- Takes whole packets off the front of a stream; the rest stays.  Bytes that are no packet start (the zero tail of a flit)
are skipped; `fuel` bounds the packets. -/
def parseStream (v1 : Bool) (port lane : Nat) : Nat → List Byte → List FabPacket × List Byte
  | 0, l => ([], l)
  | n + 1, l =>
    let k := prefixLen v1
    let x := ofLe (l.take k)
    let pv := if v1 then x / 2 ^ 60 else x / 2 ^ 124
    if l.length < k then ([], l)
    else if pv ≠ (if v1 then 1 else 2) then ([], [])
    else if l.length < k + 64 then ([], l)
    else
      let h := ofLe ((l.drop k).take 64)
      let len := fld h 412 13
      if l.length < k + 64 + len then ([], l)
      else
        let pkt := packetOf h ((l.drop (k + 64)).take len)
        let f : FabPacket :=
          if v1 then ⟨1, fld x 48 12, 0, 0, fld x 38 10, fld x 32 6, port, lane, 0, pkt, 0, 0⟩
          else ⟨2, fld x 112 12, fld x 96 16, fld x 80 16, fld x 70 10, fld x 64 6, port, lane, 0, pkt, 0, 0⟩
        let r := parseStream v1 port lane n (l.drop (k + 64 + len))
        (f :: r.1, r.2)

/-! ## The 256 bytes of a flit (R243, Table 9.4) -/

/-- The header of a flit as a 64-bit word. -/
def flitHeader (f : Flit) : Nat :=
  f.ftype % 8 * 2 ^ 61 + f.vc % 4 * 2 ^ 59 + f.flane % 2 * 2 ^ 58 + f.seq % 4096 * 2 ^ 46 + b2n f.ackValid * 2 ^ 45 +
    f.ackSeq % 4096 * 2 ^ 33 + f.firstOff % 256 * 2 ^ 25 + f.xoff % 256 * 2 ^ 17 + f.version % 16 * 2 ^ 13

/-- Header, payload and CRC-32. -/
def flitBytes (f : Flit) : List Byte :=
  let b := leBytes (flitHeader f) 8 ++ padTo f.payload 244
  b ++ leBytes (crc32 b) 4

/-- The flit of 256 bytes; `none` when its CRC fails or it is not 256 bytes. -/
def readFlit (b : List Byte) : Option Flit :=
  let w := ofLe (b.take 8)
  if b.length ≠ 256 ∨ ofLe (b.drop 252) ≠ crc32 (b.take 252) then none
  else some
    { ftype := fld w 61 3, vc := fld w 59 2, flane := fld w 58 1, seq := fld w 46 12, ackValid := bitOf w 45, ackSeq := fld w 33 12
      firstOff := fld w 25 8, xoff := fld w 17 8, version := fld w 13 4, payload := (b.drop 8).take 244 }

/-! ## Sending flits (R244, R246) -/

def streamOf (vc lane : Nat) : Nat := 2 * vc + lane

/-- A flit header with the newest ACK_SEQ owed and the XOFF bits of the receive buffers. -/
def flitOf (p : Port) (ftype vc lane seq first : Nat) (data : List Byte) : Flit :=
  { ftype := ftype, vc := vc, flane := lane, seq := seq, ackValid := true, ackSeq := (p.expected + 4095) % 4096, firstOff := first
    xoff := p.rxXoff, version := if p.v1 then 1 else 2, payload := padTo data 244 }

/-- Puts a flit on the wire. -/
def putWire (p : Port) (f : Flit) : Port := { p with wire := p.wire ++ [f] }

/-- Offsets at which packets of these lengths start. -/
def startsFrom (o : Nat) : List Nat → List Nat
  | [] => []
  | n :: t => o :: startsFrom (o + n) t

/-- Counters of a gateway: 0 STALE_INC, 1 FAGE_DROP, 2 FHOP_DROP, 3 NO_FROUTE. -/
def countGw (s : State) (die c n : Nat) : State :=
  updEngine s die fun e => { e with gwDrop := sset 0 e.gwDrop c (satAdd (sget 0 e.gwDrop c) n 32) }

/-- Port-to-port latency of a rate in ns (Table 9.1). -/
def portLatency (rate : Nat) : Nat := if rate = 2 then 250 else if rate = 1 then 290 else 370

/-- FAGE that a packet has now (R245): the mesh age of one from this device, and of one in transit what it brought with its residence
here and the latency of the port it came by. -/
def fageNow (s : State) (f : FabPacket) : Nat :=
  Nat.min 1023 (if f.port = 12 then ceilDiv (ageOf s f.pkt * 32) 1000
    else f.fage + ceilDiv ((s.now - f.since) / 2 + portLatency (portOf s f.port).rate) 1000)

/-- A packet of a transmit queue on its way out: the FAGE its prefix carries, how many of its bytes are sent, and those that are not. -/
abbrev TxItem : Type := FabPacket × Nat × Nat × List Byte

/-- The transmit queue of a stream: a packet that has begun keeps the FAGE its prefix went out with, any other has that of now. -/
def txItems (s : State) (p : Port) (h : Nat × Nat) (l : List FabPacket) : List TxItem :=
  (List.zip (List.range l.length) l).map fun x =>
    let begun := x.1 == 0 && h.1 != 0
    let fage := if begun then h.2 else fageNow s x.2
    let off := if begun then h.1 else 0
    (x.2, fage, off, (fabBytes p.v1 { x.2 with fage := fage }).drop off)

/-- What `n` bytes sent off the front of a queue leave: the packets not wholly sent, and of the first how much of it is sent and its
FAGE. -/
def afterSend : Nat → List TxItem → List FabPacket × Nat × Nat
  | _, [] => ([], 0, 0)
  | n, x :: t => if x.2.2.2.length ≤ n then afterSend (n - x.2.2.2.length) t else (x.1 :: t.map (·.1), x.2.2.1 + n, x.2.1)

/-- The first `n` flits of a queue's bytes, each with FIRST_OFF: packets follow each other without padding (R244). -/
def itemFlits (n : Nat) (l : List TxItem) : List (Nat × List Byte) :=
  let bytes := l.flatMap fun x => x.2.2.2
  let starts := (List.zip (startsFrom 0 (l.map fun x => x.2.2.2.length)) l).filterMap fun x => if x.2.2.2.1 = 0 then some x.1 else none
  (List.range n).map fun i =>
    (((starts.find? fun o => decide (244 * i ≤ o) && decide (o < 244 * i + 244)).map fun o => o - 244 * i).getD 0xFF,
      (bytes.drop (244 * i)).take 244)

/-- Puts DATA flits of a stream on the wire and holds them for replay (R246). -/
def putData (p : Port) (st : Nat) (l : List (Nat × List Byte)) : Port :=
  l.foldl (fun p x =>
    let fl := flitOf p 0 (st / 2) (st % 2) p.nextSeq x.1 x.2
    { putWire p fl with
      nextSeq := (p.nextSeq + 1) % 4096, held := p.held ++ [fl]
      cnt := { p.cnt with flitsTx := sset 0 p.cnt.flitsTx st (satAdd (sget 0 p.cnt.flitsTx st) 1 48) } }) p

/-- Sends what waits of one stream, as far as the replay buffer of 1,024 flits holds it: whole flits, and with `flush` also the bytes
that fill no flit, the tail zero.  A packet whose FAGE would exceed 1,000 as it begins is discarded and counted (R245). -/
def sendStream (s : State) (port st : Nat) (flush : Bool) : State :=
  let p := portOf s port
  let mine := p.txq.filter fun f => streamOf f.pkt.vc f.flane == st
  if mine = [] then s
  else
    let h := sget (0, 0) p.txHead st
    let begun := mine.take (b2n (h.1 != 0))
    let keep := begun ++ (mine.drop begun.length).filter fun f => decide (fageNow s f ≤ 1000)
    let items := txItems s p h keep
    let total := (items.map fun x => x.2.2.2.length).sum
    let n := Nat.min (if flush then ceilDiv total 244 else total / 244) (1024 - p.held.length)
    let rest := afterSend (Nat.min (244 * n) total) items
    let s1 := if keep.length = mine.length then s else countGw s (port / 3) 1 (mine.length - keep.length)
    setPort s1 port (putData { p with
      txq := (p.txq.filter fun f => streamOf f.pkt.vc f.flane != st) ++ rest.1
      txHead := sset (0, 0) p.txHead st (if rest.2.1 = 0 then (0, 0) else rest.2) } st (itemFlits n items))

/-- Sends what waits at an ACTIVE port, stream by stream, and nothing of a stream whose XOFF is raised (R249). -/
def pumpStreams (s : State) (port : Nat) (flush : Bool) : State :=
  if isActive s port then
    (List.range 8).foldl (fun s st => if bitOf (portOf s port).txXoff st then s else sendStream s port st flush) s
  else s

/-- The whole flits that a port can send. -/
def pumpPort (s : State) (port : Nat) : State := pumpStreams s port false

/-! ## Port states -/

/-- What a LINK_EVENT says of a port. -/
def linkState (p : Port) : PortLink := ⟨p.state, p.peerDev, pDim p, pDir p, pWrap p, p.v1⟩

/-- The states of the device's twelve ports. -/
def ownLinks (s : State) : List PortLink := (List.range 12).map fun p => linkState (portOf s p)

/-- Posts PORT_CHANGE, and floods LINK_EVENT (R255, R259). -/
def portChanged (s : State) (port : Nat) : State :=
  send (devEvent s 0x0401 0 port (leBytes (portOf s port).state 1 ++ leBytes (portOf s port).failReason 1))
    (.linkEvent s.idn.deviceId s.fab.inc (ownLinks s))

/-- Enters a state. -/
def enterState (s : State) (port st : Nat) : State :=
  portChanged (updPort s port fun p => { p with state := st, since := s.now, settled := p.settled || st == psActive || st == psFailed }) port

/-- Enters FAILED with a reason and posts PORT_FAILED. -/
def failPort (s : State) (port reason : Nat) : State :=
  let s1 := enterState (updPort s port fun p => { p with failReason := reason }) port psFailed
  devEvent s1 0x0402 0 port (leBytes reason 1)

/-- Takes the packets waiting at a port back: another port or an answer is found for each (R256). -/
def unqueue (s : State) (port : Nat) : State :=
  let q := (portOf s port).txq
  let s1 := updPort s port fun p => { p with txq := [] }
  updEngine s1 (port / 3) fun e => { e with egress := e.egress ++ q }

/-- A port departs from ACTIVE (R255, R256): counted; its replay flits and receive buffers are discarded, the packets that wait at
it are taken back. -/
def departPort (s : State) (port reason : Nat) : State :=
  let s1 := updEngine s (port / 3) fun e => { e with ingress := e.ingress.filter fun f => f.port != port }
  unqueue (updPort s1 port fun p => { p with
    held := [], partial_ := [], partAt := [], txHead := [], leaves := s.now :: p.leaves.take 2
    failReason := if reason = 0 then p.failReason else reason
    lastReason := if reason = 0 then p.lastReason else reason
    cnt := { p.cnt with leaveActive := satAdd p.cnt.leaveActive 1 32 } }) port

/-- PORT_LEAVE_ACTIVE (R255): the third departure within an hour fails the port with its last reason. -/
def leaveActive (s : State) (port st reason : Nat) : State :=
  let s1 := departPort s port reason
  let recent := ((portOf s1 port).leaves.filter fun t => decide (s.now - t ≤ 3600 * cyclesPerSec)).length
  if 3 ≤ recent then failPort s1 port (portOf s1 port).lastReason else enterState s1 port st

/-- Goes to another state from any; leaving ACTIVE has its own rule. -/
def moveTo (s : State) (port st reason : Nat) : State :=
  if isActive s port then leaveActive s port st reason
  else enterState (updPort s port fun p => { p with failReason := if reason = 0 then p.failReason else reason }) port st

/-! ## Acknowledgement and replay (R246 to R248) -/

/-- Frees the held flits that an ACK_SEQ covers. -/
def takeAck (p : Port) (f : Flit) : Port :=
  if f.ackValid then
    match firstIdx (fun x : Flit => x.seq == f.ackSeq) p.held with
    | some i => { p with held := p.held.drop (i + 1), gotCount := 0 }
    | none => p
  else p

/-- What every header brings: the acknowledgement and the partner's XOFF bits. -/
def takeHeader (s : State) (port : Nat) (f : Flit) : State :=
  pumpPort (updPort s port fun p => { takeAck p f with txXoff := f.xoff }) port

/-- Whether what is left of a stream may be the zero tail of a flit: too short for a prefix, and all zero. -/
def isTail (v1 : Bool) (l : List Byte) : Bool := decide (l.length < prefixLen v1) && l.all (· == 0)

/-- Flits that one stream of a port occupies in its receive buffer (Table 9.6): all from the first that holds a byte of a packet which
the gateway has not taken, or of the packet that is not whole yet. -/
def occStream (e : Engine) (p : Port) (port st : Nat) : Nat :=
  let whole := (e.ingress.filter fun f => f.port == port && streamOf f.pkt.vc f.flane == st).map (·.at_)
  let part := if isTail p.v1 (sget [] p.partial_ st) then [] else [sget 0 p.partAt st]
  let n := sget 0 p.rxSeen st
  (whole ++ part).foldl (fun m a => Nat.max m (n - a)) 0

/-- Raises and clears the XOFF bits at 96 and 32 flits (Table 9.6). -/
def noteRxXoff (s : State) (port : Nat) : State :=
  let e := engineOf s (port / 3)
  let step := fun (m st : Nat) =>
    let n := occStream e (portOf s port) port st
    if 96 ≤ n then (if bitOf m st then m else m + 2 ^ st)
    else if n ≤ 32 then (if bitOf m st then m - 2 ^ st else m)
    else m
  updPort s port fun p => { p with rxXoff := (List.range 8).foldl step p.rxXoff }

/-- Accepts the payload of a DATA flit: whole packets go to the gateway, each with the flit in which it began. -/
def acceptData (s : State) (port : Nat) (f : Flit) : State :=
  let p := portOf s port
  let st := streamOf (f.vc % 4) (f.flane % 2)
  let n := sget 0 p.rxSeen st
  let old := if f.firstOff = 0 then [] else sget [] p.partial_ st
  let from_ := if isTail p.v1 old then n else sget n p.partAt st
  let r := parseStream p.v1 port (f.flane % 2) 4 (old ++ padTo f.payload 244)
  let s1 := updPort s port fun p => { p with
    expected := (p.expected + 1) % 4096, partial_ := sset [] p.partial_ st r.2
    rxSeen := sset 0 p.rxSeen st (n + 1), partAt := sset 0 p.partAt st (if r.1 = [] then from_ else n)
    cnt := { p.cnt with flitsRx := sset 0 p.cnt.flitsRx st (satAdd (sget 0 p.cnt.flitsRx st) 1 48) } }
  let ep := b2n s.fab.epoch
  let in_ := (List.zip (List.range r.1.length) r.1).map fun x =>
    { x.2 with epoch := ep, since := s.now, at_ := if x.1 = 0 then from_ else n }
  noteRxXoff (updEngine s1 (port / 3) fun e => { e with ingress := e.ingress ++ in_ }) port

/-- Sends REPLAY_REQ(EXPECTED) unless one for that value went out within the last 2 µs. -/
def requestReplay (s : State) (port : Nat) : State :=
  updPort s port fun p =>
    if p.reqSeq == p.expected && (match p.reqAt with | some t => decide (s.now - t < 4000) | none => false) then p
    else
      let q := putWire p (flitOf p 2 0 0 p.expected 0xFF [])
      { q with reqSeq := p.expected, reqAt := some s.now, cnt := { q.cnt with replayTx := satAdd q.cnt.replayTx 1 32 } }

/-- A DATA flit by d = (SEQ − EXPECTED) mod 4,096 (R247). -/
def flitData (s : State) (port : Nat) (f : Flit) : State :=
  let s1 := takeHeader s port f
  let d := (f.seq + 4096 - (portOf s1 port).expected) % 4096
  if d = 0 then acceptData s1 port f
  else if d ≤ 2047 then requestReplay s1 port
  else updPort s1 port fun p => { p with cnt := { p.cnt with dupFlit := satAdd p.cnt.dupFlit 1 32 } }

/-- A flit discarded whole and counted: its CRC failed, or its FTYPE is reserved (R243, Table 9.3). -/
def crcFail (s : State) (port : Nat) : State :=
  updPort s port fun p => { p with cnt := { p.cnt with crcFail := satAdd p.cnt.crcFail 1 32 } }

/-- Counts what the forward error correction did (Table 9.14). -/
def noteFec (s : State) (port : Nat) (x : FecSeen) : State :=
  if x = ⟨[], 0⟩ then s
  else updPort s port fun p => { p with cnt := { p.cnt with
    fecCorr := (x.corr.filter fun e => decide (e.1 < 4)).foldl (fun m e => sset 0 m e.1 (satAdd (sget 0 m e.1) e.2 48)) p.cnt.fecCorr
    fecUncorr := satAdd p.cnt.fecUncorr x.uncorr 32 } }

/-- FLIT_CRC_FAIL (R243). -/
def execFlitCrcFail (port : Nat) (s : State) (fec : FecSeen := ⟨[], 0⟩) : Out :=
  needUnit (portOk port) (.next (crcFail (noteFec s port fec) port))

/-- What an ACTIVE port does with a flit of the expected type. -/
def flitRx (s : State) (port ftype : Nat) (f : Flit) (k : State → Flit → State) : State :=
  if !isActive s port then s
  else if 4 ≤ f.ftype then crcFail s port
  else if f.ftype = ftype then k s f
  else s

/-- A flit as it comes to a port: read from its 256 bytes where the command gives them (`raw`), else as the command gives it. -/
def flitIn (s : State) (port ftype : Nat) (f : Flit) (raw : List Byte) (k : State → Flit → State) : State :=
  match raw with
  | [] => flitRx s port ftype f k
  | b :: bs =>
    match readFlit (b :: bs) with
    | none => if isActive s port then crcFail s port else s
    | some g => flitRx s port ftype g k

/-- FLIT_DATA_RX (R247). -/
def execFlitDataRx (port : Nat) (f : Flit) (s : State) (raw : List Byte := []) (fec : FecSeen := ⟨[], 0⟩) : Out :=
  needUnit (portOk port) (.next (flitIn (noteFec s port fec) port 0 f raw fun s f => flitData s port f))

/-- FLIT_IDLE_RX (R246). -/
def execFlitIdleRx (port : Nat) (f : Flit) (s : State) (raw : List Byte := []) (fec : FecSeen := ⟨[], 0⟩) : Out :=
  needUnit (portOk port) (.next (flitIn (noteFec s port fec) port 1 f raw fun s f => takeHeader s port f))

/-- REPLAY_REQ_RX (R248): the held flits from n on go out again, whatever XOFF says, and then new ones; a flit not held, or the eighth request
for one n without an advance, sends the port to RETRAIN. -/
def replayReq (s : State) (port : Nat) (f : Flit) : State :=
  let s1 := updPort s port fun p =>
    let q := { takeAck p f with txXoff := f.xoff }
    { q with
      gotSeq := f.seq, gotCount := if q.gotSeq = f.seq then q.gotCount + 1 else 1
      cnt := { q.cnt with replayRx := satAdd q.cnt.replayRx 1 32 } }
  let p := portOf s1 port
  match firstIdx (fun x : Flit => x.seq == f.seq) p.held with
  | none => leaveActive s1 port psRetrain 0x0A
  | some i =>
    if 8 ≤ p.gotCount then leaveActive s1 port psRetrain 0x0A
    else
      let again := p.held.drop i
      pumpPort (updPort s1 port fun p => { p with
        wire := p.wire ++ again.map fun x => { x with ackSeq := (p.expected + 4095) % 4096, xoff := p.rxXoff }
        cnt := { p.cnt with replayed := satAdd p.cnt.replayed again.length 48 } }) port

def execReplayReqRx (port : Nat) (f : Flit) (s : State) (raw : List Byte := []) (fec : FecSeen := ⟨[], 0⟩) : Out :=
  needUnit (portOk port) (.next (flitIn (noteFec s port fec) port 2 f raw fun s f => replayReq s port f))

/-! ## Training (R250 to R254) -/

/-- RATES of a port: the rates enabled up to MAX_RATE, and DOWNSHIFT_EN. -/
def ratesOf (p : Port) : Nat := (2 ^ (Nat.min (pMaxRate p) p.rateCap + 1) - 1) + 8 * b2n (pDownshift p)

/-- The highest rate set in both fields. -/
def commonRate (a b : Nat) : Option Nat := [2, 1, 0].find? fun r => bitOf a r && bitOf b r

/-- Whether a lower rate than Tarn-3 breaks a side's rule. -/
def rateRefused (rate side : Nat) : Bool := rate != 2 && bitOf side 2 && !bitOf side 3

/-- Whether both sides' torus fields contradict each other. -/
def miswired (p : Port) (w : TrainWords) : Bool :=
  pDim p != 0 && w.dim != 0 && (pDim p != w.dim || pDir p == w.dir || pWrap p != w.wrap)

/-- The saved settings that apply (R252). -/
def savedFor (s : State) (port serial peerPort rate : Nat) (v1 : Bool) : Option SavedLink :=
  s.fab.saved.find? fun x => x.port == port && x.serial == serial && x.peerPort == peerPort && x.rate == rate && x.v1 == v1

/-- NEGOTIATE: both training words decide rate, framing and wiring (R251). -/
def negotiate (s : State) (port : Nat) (w : TrainWords) : State :=
  let p := portOf s port
  let s1 := setPort { s with fab := { s.fab with incs := sins w.dev w.incarnation (sdel w.dev s.fab.incs) } } port { p with
    peerInc := w.incarnation, peerDev := w.dev, peerPort := w.port, peerSerial := w.serial, peerRates := w.rates }
  match commonRate (ratesOf p) w.rates with
  | none => failPort s1 port 0x02
  | some r =>
    if rateRefused r (ratesOf p) || rateRefused r w.rates then failPort s1 port 0x02
    else if miswired p w then failPort s1 port 0x09
    else
      let v1 := pCompat p || !bitOf w.framing 1
      let sv := savedFor s port w.serial w.port r v1
      let useSaved := pSavedEn p && (match sv with | some x => x.tag == w.savedTag && x.tag != 0 | none => false)
      enterState (updPort s1 port fun p => { p with rate := r, v1 := v1, savedUsed := useSaved, fullOnce := false }) port psEqualise

/-- TRAIN_RX (R250, R251). -/
def execTrainRx (port : Nat) (w : TrainWords) (s : State) : Out :=
  needUnit (portOk port)
    (let st := (portOf s port).state
     .next (if st = psActive then leaveActive s port psRetrain 0
       else if st = psDetect ∨ st = psRetrain then enterState s port psNegotiate
       else if st = psNegotiate then negotiate s port w
       else s))

/-- PORT_IDLE_TIMEOUT (R250): 1 ms after entering IDLE. -/
def execPortIdleTimeout (port : Nat) (s : State) : Out :=
  needUnit (portOk port)
    (let p := portOf s port
     whenB (p.state == psIdle && decide (cyclesPerMs ≤ s.now - p.since)) s (enterState s port psDetect))

/-- PORT_DETECT_TIMEOUT (R254): 1 s in DETECT. -/
def execPortDetectTimeout (port : Nat) (s : State) : Out :=
  needUnit (portOk port)
    (let p := portOf s port
     whenB (p.state == psDetect && decide (cyclesPerSec ≤ s.now - p.since)) s (failPort s port 0x01))

/-- EQUALISE_DONE (R252): a saved path that fails falls back to full adaptation within the state. -/
def execEqualiseDone (port : Nat) (ok : Bool) (s : State) : Out :=
  needUnit (portOk port)
    (let p := portOf s port
     whenB (p.state == psEqualise) s
       (if ok then enterState s port psAlign
        else if p.savedUsed then updPort s port fun p => { p with
          savedUsed := false, cnt := { p.cnt with savedFallback := satAdd p.cnt.savedFallback 1 32 } }
        else failPort s port 0x03))

/-- Round-trip limit of a rate in ns (Table 9.9). -/
def rttLimit (r : Nat) : Nat := if r = 2 then 1070 else if r = 1 then 2130 else 4260

/-- ALIGN_DONE (R250): SEQ returns to 0 on both sides and the round trip is judged. -/
def execAlignDone (port : Nat) (ok : Bool) (rttNs : Nat) (s : State) : Out :=
  needUnit (portOk port)
    (let p := portOf s port
     whenB (p.state == psAlign) s
       (if !ok then failPort s port 0x04
        else if rttLimit p.rate < rttNs then failPort (updPort s port fun p => { p with rtt := Nat.min rttNs 0xFFFF }) port 0x08
        else enterState (updPort s port fun p => { p with
          rtt := rttNs, nextSeq := 0, held := [], expected := 0, reqAt := none, gotCount := 0, txXoff := 0, rxXoff := 0, partial_ := [], rxSeen := [], partAt := [], txHead := [] })
          port psQualify))

/-- Writes the settings record of a port with a new tag of 16 bits, never 0 (R252). -/
def saveLink (s : State) (port : Nat) : State :=
  let p := portOf s port
  let x : SavedLink := ⟨port, p.peerSerial, p.peerPort, p.rate, p.v1, s.fab.nextTag⟩
  { s with fab := { s.fab with
    saved := (s.fab.saved.filter fun y => !(y.port == x.port && y.serial == x.serial && y.peerPort == x.peerPort && y.rate == x.rate && y.v1 == x.v1)) ++ [x]
    nextTag := if s.fab.nextTag = 0xFFFF then 1 else s.fab.nextTag + 1 } }

/-- QUALIFY_DONE (R253): `fail` is 0 for a pass, else the reason; the first failure repeats EQUALISE on the full path, the
second goes to the next lower rate or to FAILED. -/
def execQualifyDone (port fail : Nat) (s : State) : Out :=
  needUnit (portOk port)
    (let p := portOf s port
     whenB (p.state == psQualify) s
       (if fail = 0 then
          enterState (saveLink (updPort s port fun p => { p with fullOnce := false, failReason := 0 }) port) port psActive
        else if !p.fullOnce then
          enterState (updPort s port fun p => { p with fullOnce := true, savedUsed := false }) port psEqualise
        else if pDownshift p && decide (0 < p.rate) then
          enterState (updPort s port fun p => { p with fullOnce := false, rateCap := p.rate - 1 }) port psNegotiate
        else failPort (updPort s port fun p => { p with fullOnce := false }) port fail))

/-- PORT_STATE_BOUND_EXPIRY (Table 9.7): the bound of NEGOTIATE, EQUALISE or ALIGN. -/
def execPortStateBoundExpiry (port : Nat) (s : State) : Out :=
  needUnit (portOk port)
    (let p := portOf s port
     let late := fun (n : Nat) => decide (n ≤ s.now - p.since)
     .next (if p.state = psNegotiate ∧ late (2 * cyclesPerMs) then failPort s port 0x02
       else if p.state = psEqualise ∧ late ((if p.savedUsed then 20 else 800) * cyclesPerMs) then failPort s port 0x03
       else if p.state = psAlign ∧ late (2 * cyclesPerMs) then failPort s port 0x04
       else s))

/-! ## Loss and return (R250, R255, R258) -/

/-- Loss of signal in a state that has a partner sends the port to IDLE with LOS. -/
def lossOfSignal (s : State) (port : Nat) : State :=
  let st := (portOf s port).state
  if psNegotiate ≤ st ∧ st ≤ psRetrain then moveTo s port psIdle 0x0B else s

/-- PORT_LOSS_OF_SIGNAL (R255). -/
def execPortLossOfSignal (port : Nat) (s : State) : Out :=
  needUnit (portOk port) (.next (lossOfSignal (updPort s port fun p => { p with signal := false }) port))

/-- PORT_ERROR_LIMIT (R255): the BER window or the uncorrectable-codeword limit. -/
def execPortErrorLimit (port reason : Nat) (s : State) : Out :=
  needUnit (portOk port) (whenB (isActive s port) s (leaveActive s port psRetrain reason))

/-- PORT_FAILED_RETRY (R250): FAILED with NO_SIGNAL for 1 s. -/
def execPortFailedRetry (port : Nat) (s : State) : Out :=
  needUnit (portOk port)
    (let p := portOf s port
     whenB (p.state == psFailed && p.failReason == 0x01 && pEn p && decide (cyclesPerSec ≤ s.now - p.since)) s (enterState s port psIdle))

/-- PORT_SIGNAL_DETECT (R250): signal on all four lanes; FAILED with NO_SIGNAL is left at once, and an EN that is set later finds the
signal. -/
def execPortSignalDetect (port : Nat) (s : State) : Out :=
  needUnit (portOk port)
    (let p := portOf s port
     let s1 := setPort s port { p with signal := true }
     whenB (p.state == psFailed && p.failReason == 0x01 && pEn p) s1 (enterState s1 port psIdle))

/-- A fabric port reset (R258): link layer and TRN_PORT_STATUS reset; TRN_PORT_CTL, counters and saved settings survive, and the port
retrains from IDLE, whatever state it was in.  It stays settled, for EN is not set again (R254). -/
def resetPort (s : State) (port : Nat) : State :=
  let p := portOf s port
  let q := portOf (if p.state = psActive then departPort s port 0 else unqueue s port) port
  portChanged (setPort (if p.state = psActive then departPort s port 0 else unqueue s port) port
    { portReset with
      ctl := q.ctl, cnt := q.cnt, leaves := q.leaves, lastReason := q.lastReason, signal := q.signal, wire := q.wire
      settled := q.settled, since := s.now, state := if pEn p then psIdle else psOff }) port

/-- FABRIC_PORT_RESET (R258). -/
def execFabricPortReset (port : Nat) (s : State) : Out := needUnit (portOk port) (.next (resetPort s port))

/-- Writing RETRAIN: from FAILED to IDLE, else to RETRAIN (Table 9.12). -/
def retrainPort (s : State) (port : Nat) : State :=
  let p := portOf s port
  if !pEn p then s
  else if p.state = psFailed then enterState s port psIdle
  else if p.state = psOff then s
  else moveTo s port psRetrain 0

/-- TRN_PORT_CTL_RETRAIN. -/
def execTrnPortCtlRetrain (port : Nat) (s : State) : Out := needUnit (portOk port) (.next (retrainPort s port))

/-- The record store keeps TRN_PORT_CTL of a port (Table 12.2 step 4, R351). -/
def keepCtl (s : State) (port : Nat) : State :=
  { s with fab := { s.fab with savedCtl := sset portCtlReset s.fab.savedCtl port (portOf s port).ctl } }

/-- Setting EN takes a port from OFF to IDLE, and where all four lanes detect signal on to DETECT at once (Table 9.7). -/
def enablePort (s : State) (port : Nat) : State :=
  let s1 := keepCtl (updPort s port fun p => { p with ctl := setFld p.ctl 31 1 1, settled := false }) port
  if (portOf s port).state = psOff then
    (if (portOf s port).signal then enterState (enterState s1 port psIdle) port psDetect else enterState s1 port psIdle)
  else s1

/-- TRN_PORT_CTL_EN_SET (R250). -/
def execTrnPortCtlEnSet (port : Nat) (s : State) : Out :=
  needUnit (portOk port) (whenB (!pEn (portOf s port)) s (enablePort s port))

/-- Clearing EN: the port goes OFF. -/
def disablePort (s : State) (port : Nat) : State :=
  let s1 := if isActive s port then leaveActive s port psOff 0 else unqueue s port
  enterState (keepCtl (updPort s1 port fun p => { p with ctl := setFld p.ctl 31 1 0 }) port) port psOff

/-- A write of TRN_PORT_CTL: MAX_RATE 3 is stored as 2, reserved bits read zero, and EN and RETRAIN act. -/
def writePortCtl (s : State) (port v : Nat) : State :=
  let v1 := if fld v 28 2 = 3 then setFld v 28 2 2 else v
  let old := portOf s port
  let keep := setFld (setFld v1 24 1 0) 0 20 0
  let s1 := keepCtl (updPort s port fun p => { p with ctl := setFld keep 31 1 (b2n (pEn old)), rateCap := 2 }) port
  let s2 := if bitOf v 31 && !pEn old then enablePort s1 port else if !bitOf v 31 && pEn old then disablePort s1 port else s1
  if bitOf v 24 then retrainPort s2 port else s2

/-! ## One flit time (R244, R250, R253, Table 9.1) -/

/-- Flit times of a rate that have begun: 2.56 ns at Tarn-3, twice that at Tarn-2, four times at Tarn-1. -/
def flitNo (rate now : Nat) : Nat := now * 25 / (128 * 2 ^ (2 - rate))

/-- The payload of a TRAIN flit (Table 9.8).  SAVED_TAG is that of the last record for the peer that training has found (DESIGN CHOICE,
log entry 125). -/
def trainBytes (s : State) (port : Nat) : List Byte :=
  let p := portOf s port
  let tag := ((s.fab.saved.filter fun x => x.port == port && x.serial == p.peerSerial && x.peerPort == p.peerPort).getLast?).elim 0 (·.tag)
  leBytes s.idn.deviceId 2 ++ leBytes port 1 ++ leBytes (ratesOf p) 1 ++ leBytes (1 + 2 * b2n (!pCompat p)) 1 ++
    leBytes (pDim p + 4 * pDir p + 8 * b2n (pWrap p)) 1 ++ leBytes s.fab.inc 2 ++ leBytes s.idn.serial 8 ++
    leBytes (if p.state = psNegotiate ∨ p.state = psRetrain then tag else 0) 2 ++ leBytes (Config.rttStamp s.now).toNat 2

/-- Puts a TRAIN flit on the wire. -/
def sendTrain (s : State) (port : Nat) : State := updPort s port fun p => putWire p (flitOf p 3 0 0 0 0xFF (trainBytes s port))

/-- Puts an IDLE flit on the wire. -/
def sendIdle (s : State) (port : Nat) : State := updPort s port fun p => putWire p (flitOf p 1 0 0 0 0xFF [])

/-- A flit time of an ACTIVE port: what waits goes out, also in a flit that it does not fill; with nothing to send an IDLE flit goes
(R244).  XOFF_TIME counts the streams that the partner's XOFF holds. -/
def activeFlit (s : State) (port : Nat) : State :=
  let p := portOf s port
  let s1 := pumpStreams s port true
  let s2 := if (portOf s1 port).nextSeq = p.nextSeq then sendIdle s1 port else s1
  let heldSt := (List.range 8).filter fun st => bitOf p.txXoff st && p.txq.any fun f => streamOf f.pkt.vc f.flane == st
  if heldSt = [] then s2
  else updPort s2 port fun q => { q with cnt := { q.cnt with
    xoffTime := heldSt.foldl (fun m st => sset 0 m st (satAdd (sget 0 m st) 1 48)) q.cnt.xoffTime } }

/-- What a port sends in one cycle: at each flit time of its rate a TRAIN flit in IDLE, DETECT, NEGOTIATE and RETRAIN, an IDLE flit in
QUALIFY, and what an ACTIVE port sends.  NEGOTIATE keeps the port's last rate (DESIGN CHOICE, log entry 125). -/
def tickPort (s : State) (port : Nat) : State :=
  let p := portOf s port
  let rate := if p.state = psIdle ∨ p.state = psDetect then 0 else p.rate
  if flitNo rate s.now = flitNo rate (s.now - 1) then s
  else if p.state = psIdle ∨ p.state = psDetect ∨ p.state = psNegotiate ∨ p.state = psRetrain then sendTrain s port
  else if p.state = psQualify then sendIdle s port
  else if p.state = psActive then activeFlit s port
  else s

end Sys2Proof.Machine
end

