-- ==== Sys2Proof/Machine/Gateway.lean ====
section
/-! DEFINITION. The fabric gateways: what enters the mesh from Tarn and what leaves, incarnations, fabric routes and their
versions, heartbeats between devices (R202, R220, R241, R245, R256 to R261, R349, R371, R404). -/

namespace Sys2Proof.Machine

/-! ## Fabric routes (Table 9.11) -/

def frValid (e : BitVec 32) : Bool := bitOf e.toNat 31
def frLocal (e : BitVec 32) : Bool := bitOf e.toNat 30
def frPrimary (e : BitVec 32) : Nat := fld e.toNat 26 4
def frPorts (e : BitVec 32) : List Nat := (List.range 12).filter fun p => bitOf e.toNat (14 + p)

def fabTable (s : State) (v : Nat) : List (Nat × BitVec 32) := if v = 0 then s.fab.t0 else s.fab.t1
def fabEntry (s : State) (v dev : Nat) : BitVec 32 := sget 0 (fabTable s v) dev
def fabActive (s : State) : Nat := b2n s.fab.epoch
def fabState (s : State) (v : Nat) : VState := if v = 0 then s.fab.f0 else s.fab.f1
def setFabState (s : State) (v : Nat) (x : VState) : State :=
  { s with fab := if v = 0 then { s.fab with f0 := x } else { s.fab with f1 := x } }

/-- Whether a fabric route to a device is VALID in the active version. -/
def routed (s : State) (dev : Nat) : Bool := frValid (fabEntry s (fabActive s) dev)

/-! ## Addresses carried by packets -/

/-- Destination device of a packet in a gateway: Table 8.8 for COLL, the place of Table 8.1 for every other type. -/
def pktDestDev (p : Packet) : Nat := if p.typ = tColl then cDestDev p else fld p.transport.toNat 189 12
def pktDestLt (p : Packet) : Nat := fld p.transport.toNat 179 10
def pktSrcRegion (p : Packet) : Nat := if p.typ = tMsg ∨ p.typ = tWrite then fld p.transport.toNat 174 5 else p.region

/-! ## Egress -/

/-- Fabric lane of a packet on a port: F1 from the wrap link of a dimension onward (R261). -/
def fabLane (s : State) (f : FabPacket) (port : Nat) : Nat :=
  let p := portOf s port
  if p.v1 then 0
  else if pWrap p then 1
  else if f.port < 12 && pDim (portOf s f.port) == pDim p && pDim p != 0 then f.flane
  else 0

/-- Whether a port may carry packets of a route: it is ACTIVE, and a torus link of it does not run version 1 framing (R251). -/
def serves (s : State) (p : Nat) : Bool := isActive s p && !((portOf s p).v1 && pDim (portOf s p) != 0)

/-- The ports among which a VC3 packet's choice is made: live ones of PORT_SET whose XOFF is not raised for the stream that the packet
would take there, and of these the ones with the shortest queue (R260). -/
def fabTies (s : State) (e : BitVec 32) (f : FabPacket) : List Nat :=
  let free := ((frPorts e).filter (serves s)).filter fun p => !bitOf (portOf s p).txXoff (streamOf f.pkt.vc (fabLane s f p))
  let low := free.foldl (fun m p => Nat.min m (portOf s p).txq.length) (2 ^ 32)
  free.filter fun p => (portOf s p).txq.length == low

/-- Chooses the port of a packet: PRIMARY on VC0 to VC2, or while it is down another live port of the entry; on VC3 the live
port of PORT_SET without XOFF and with the shortest queue, ties by the rotation of this gateway (R440).  The Bool says that a live port
exists. -/
def pickFabPort (s : State) (die : Nat) (e : BitVec 32) (f : FabPacket) : Option Nat × Bool :=
  let live := (frPorts e).filter (serves s)
  if f.pkt.vc < 3 then
    if serves s (frPrimary e) then (some (frPrimary e), true) else (live.head?, live != [])
  else (rotPick (fabTies s e f) 12 (sget 0 s.fab.rot die), live != [])

/-- A refusal that a gateway raises, toward the source of a packet on this device or, by the fabric, on another. -/
def gwNack (s : State) (die : Nat) (p : Packet) (reason : Nat) : State :=
  if answered p.typ then engAnswer s die p tNack reason else s

/-- A packet from the mesh or an engine, as it enters the fabric (R245, R257). -/
def toFabric (s : State) (p : Packet) : FabPacket :=
  { pver := 2, destDev := pktDestDev p, destInc := sget 0 s.fab.incs (pktDestDev p), srcInc := s.fab.inc
    fage := Nat.min 1023 (ceilDiv (ageOf s p * 32) 1000), fhops := 0, port := 12, flane := 0, epoch := fabActive s, pkt := p
    since := s.now }

/-! ## Delivery to this device -/

/-- The local region that takes a collective or agreement packet of a sender: its peer table names the sender as a member. -/
def regionOfPeer (s : State) (dev reg : Nat) : Option (Nat × Region) :=
  s.regions.find? fun e => e.2.peers.any fun p => p.device == dev && p.region == reg && p.member

/-- A delivered packet as it enters the mesh (R220, R221, R245). -/
def enterMesh (s : State) (f : FabPacket) (r gen dst : Nat) (prov : Bool) : Packet :=
  let p := f.pkt
  let w := if p.typ = tMsg then setFld p.transport.toNat 238 1 (b2n prov)
    else if p.typ = tColl then setFld p.transport.toNat 181 1 (b2n prov) else p.transport.toNat
  { p with
    region := r, gen := gen, epoch := b2n s.activeEpoch, dstKind := 0, dst := dst, hops := 0
    injTime := (meshTime s + 2 ^ 16 - f.fage * 1000 / 32 % 2 ^ 16) % 2 ^ 16, transport := BitVec.ofNat 256 w }

/-- The refusal of a packet from a peer that no peer table names: PEER_GONE when it is for a region that was destroyed, on a tile of it
where the packet names one (R319), REGION otherwise. -/
def strangerReason (s : State) (lt : Option Nat) (dev reg : Nat) : Nat :=
  if s.fab.ended.any fun x => lt.all (x.1.contains ·) && x.2.contains (dev, reg) then 0x07 else 0x0A

/-- Check 2 of Table 8.2 on a packet for a tile. -/
def deliverTile (s : State) (die : Nat) (f : FabPacket) : State :=
  let p := f.pkt
  let lt := pktDestLt p
  if !present s lt then gwNack s die p 0x05
  else
    let r := regionOfLt s lt
    let known := (regionOf s r).bind fun g => g.peers.find? fun q => q.device == p.srcDev && q.region == pktSrcRegion p
    match known with
    | none => gwNack s die p (strangerReason s (some lt) p.srcDev (pktSrcRegion p))
    | some q => injectSpine s (dieOfLt s lt) (enterMesh s f r (tileOf s lt).gen lt q.member)

/-- An answer or flow control for a tile or an engine of this device. -/
def deliverAnswer (s : State) (f : FabPacket) : State :=
  let lt := pktDestLt f.pkt
  match isEngineLt lt with
  | some d => updEngine s d fun e => { e with inbox := e.inbox ++ [f.pkt] }
  | none =>
    if present s lt then injectSpine s (dieOfLt s lt) (enterMesh s f (regionOfLt s lt) (tileOf s lt).gen lt false) else s

/-- A peer's piece or result goes to the engine of the die that its sender's engine has. -/
def deliverColl (s : State) (die : Nat) (f : FabPacket) : State :=
  match regionOfPeer s f.pkt.srcDev f.pkt.region with
  | none => gwNack s die f.pkt (strangerReason s none f.pkt.srcDev f.pkt.region)
  | some (r, _) =>
    updEngine s ((f.pkt.srcLt - 0x3F8) % 4) fun e => { e with inbox := e.inbox ++ [enterMesh s f r 0 f.pkt.dst true] }

/-- In P2 a packet for a local tile is answered EARLY and starts the exit, or is dropped on VC0 (R404). -/
def dozePacket (s : State) (die : Nat) (p : Packet) : State :=
  if p.vc = 0 then { s with pwr := { s.pwr with dozeDrop := satAdd s.pwr.dozeDrop 1 32 } }
  else
    let s1 := gwNack s die p 0x09
    { s1 with pwr := { s1.pwr with doze := false } }

/-- A packet for this device: delivery by type. -/
def deliverHere (s : State) (die : Nat) (f : FabPacket) : State :=
  let p := f.pkt
  if s.pwr.doze then dozePacket s die p
  else if p.typ = tColl then deliverColl s die f
  else if p.typ = tAck ∨ p.typ = tNack ∨ p.typ = tXoff ∨ p.typ = tXon then deliverAnswer s f
  else if p.typ = tMsg ∨ p.typ = tWrite ∨ p.typ = tSync then deliverTile s die f
  else s

/-! ## Leaving -/

/-- What a gateway does with a packet that leaves the device. -/
inductive Leave where
  | dropAge
  | nack (reason : Nat) (noRoute : Bool)
  | here
  | wait
  | go (port : Nat)
deriving DecidableEq, Repr

/-- The fate of a packet at a gateway by its age (R245), its destination (R372) and its route entry (R260, Table 9.11). -/
def leaveBy (s : State) (die : Nat) (f : FabPacket) : Leave :=
  let e := fabEntry s f.epoch f.destDev
  if 1000 < fageNow s f then .dropAge
  else if s.fab.gone.contains f.destDev then .nack 0x07 false
  else if !frValid e then .nack 0x06 true
  else if frLocal e then .here
  else
    match pickFabPort s die e f with
    | (_, false) => .nack 0x06 false
    | (none, true) => .wait
    | (some port, true) => .go port

/-- Sends a packet out by a port of its entry, delivers one whose entry is LOCAL, or answers PEER_UNREACHABLE; the Bool says it must wait.
It is aged as its first byte goes out. -/
def routeOut (s : State) (die : Nat) (f : FabPacket) : State × Bool :=
  match leaveBy s die f with
  | .dropAge => (countGw s die 1 1, false)
  | .nack reason noRoute => (gwNack (if noRoute then countGw s die 3 1 else s) die f.pkt reason, false)
  | .here => (deliverHere s die f, false)
  | .wait => (s, true)
  | .go port =>
    let e := fabEntry s f.epoch f.destDev
    let s1 := if f.pkt.vc = 3 then
        { s with fab := { s.fab with rot := sset 0 s.fab.rot die (rotNext (fabTies s e f) 12 (sget 0 s.fab.rot die)) } } else s
    (pumpPort (updPort s1 port fun p => { p with txq := p.txq ++ [{ f with flane := fabLane s f port }] }) port, false)

/-- Whether a packet of an own region is swallowed: the region is a shadow that sends nothing into the group (R371). -/
def shadowSinks (s : State) (p : Packet) : Bool :=
  match (rfOf s p.region).shadow with
  | some sh => p.srcDev == s.idn.deviceId && (sh.state == .sync || sh.state == .comparing || sh.state == .qualified)
  | none => false

/-- Acknowledges and discards a shadow's packet, counted in SHADOW_SINK. -/
def sinkPacket (s : State) (die : Nat) (p : Packet) : State :=
  let s1 := { s with fab := { s.fab with sink := s.fab.sink + 1 } }
  if answered p.typ then engAnswer s1 die p tAck 0 else s1

/-- Whether a packet at an engine is one for the fabric: bound for another device, or a message, which no engine takes, of a descriptor
with FABRIC 1 that names this device (R215). -/
def outbound (s : State) (p : Packet) : Bool :=
  pktDestDev p != s.idn.deviceId || p.typ == tMsg || p.typ == tWrite || p.typ == tSync

/-- Sends the first packet of a channel in transit or re-sent; `none` when there is none or it must wait. -/
def egressVc (s : State) (die vc : Nat) : Option State :=
  let q := (engineOf s die).egress
  match firstIdx (fun f : FabPacket => f.pkt.vc == vc) q with
  | none => none
  | some i =>
    match q[i]? with
    | none => none
    | some f =>
      let r := routeOut (updEngine s die fun e => { e with egress := e.egress.eraseIdx i }) die f
      if r.2 then none else some r.1

/-- Sends the first outbound packet of a channel from the mesh; `none` when there is none or it must wait. -/
def outboundVc (s : State) (die vc : Nat) : Option State :=
  match takeEng s die (fun p => outbound s p && p.vc == vc) with
  | none => none
  | some (p, s1) =>
    if shadowSinks s p then some (sinkPacket s1 die p)
    else
      let r := routeOut s1 die (toFabric s p)
      if r.2 then none else some r.1

/-- GATEWAY_EGRESS: packets in transit or re-sent go first, then the outbound ones from the mesh; of either, VC0 first, and a channel
whose head must wait holds no other up (R192, R249). -/
def gatewayEgress (s : State) (die : Nat) : State :=
  match (List.range 4).findSome? (egressVc s die) with
  | some t => t
  | none => ((List.range 4).findSome? (outboundVc s die)).getD s

def execGatewayEgress (die : Nat) (s : State) : Out := needUnit (dieOk die) (.next (gatewayEgress s die))

/-! ## Ingress -/

/-- A packet in transit crosses one more device (R245); its age is reckoned as it leaves.  One that came in version 1 framing takes both
incarnations from the peer table, SRC_INC that of its source device (R257; DEDUCED, log entry 151). -/
def transit (s : State) (die : Nat) (f : FabPacket) : State :=
  if 32 < f.fhops + 1 then countGw s die 2 1
  else updEngine s die fun e => { e with egress := e.egress ++ [{ f with
    fhops := f.fhops + 1
    destInc := if f.pver = 1 then sget 0 s.fab.incs f.destDev else f.destInc
    srcInc := if f.pver = 1 then sget 0 s.fab.incs f.pkt.srcDev else f.srcInc }] }

/-- GATEWAY_INGRESS (R257): incarnations, transit, then delivery by type. -/
def ingressPacket (s : State) (die : Nat) (f : FabPacket) : State :=
  let p := f.pkt
  let v2 := f.pver == 2
  if v2 && f.destDev == s.idn.deviceId && f.destInc != s.fab.inc then
    let s1 := countGw s die 0 1
    if p.vc = 1 ∨ p.vc = 3 then gwNack s1 die p 0x07 else s1
  else if v2 && f.srcInc != sget 0 s.fab.incs p.srcDev then countGw s die 0 1
  else if f.destDev ≠ s.idn.deviceId then transit s die f
  else deliverHere s die f

def gatewayIngress (s : State) (die : Nat) : State :=
  match (engineOf s die).ingress with
  | [] => s
  | f :: rest =>
    let s1 := ingressPacket (updEngine s die fun e => { e with ingress := rest }) die f
    if f.port < 12 then noteRxXoff s1 f.port else s1

def execGatewayIngress (die : Nat) (s : State) : Out := needUnit (dieOk die) (.next (gatewayIngress s die))

/-! ## Fabric versions (R259 to R261) -/

/-- The ports of a device as the control firmware holds them: its own, or those of its LINK_EVENT (R259). -/
def linksAt (s : State) (dev : Nat) : List PortLink := if dev = s.idn.deviceId then ownLinks s else sget [] s.fab.links dev

/-- Whether a port is a torus link of a dimension and direction: in service, or with `all_` whatever its state.  Version 1 framing cannot
serve as one (R251). -/
def torusLink (all_ : Bool) (d r : Nat) (l : PortLink) : Bool := l.dim == d && l.dir == r && !l.v1 && (all_ || l.state == psActive)

/-- The devices that lie along one direction of a dimension, nearest first, with their distances. -/
def torusLine (s : State) (all_ : Bool) (d r home : Nat) : Nat → Nat → Nat → List (Nat × Nat)
  | 0, _, _ => []
  | fuel + 1, dev, h =>
    match (linksAt s dev).find? (torusLink all_ d r) with
    | some l => if l.peerDev = home then [] else (l.peerDev, h + 1) :: torusLine s all_ d r home fuel l.peerDev (h + 1)
    | none => []

/-- The devices that correcting one dimension can reach from a device, itself among them. -/
def torusReach (s : State) (all_ : Bool) (d dev : Nat) : List (Nat × Nat) :=
  (dev, 0) :: (torusLine s all_ d 1 dev 15 dev 0 ++ torusLine s all_ d 0 dev 15 dev 0)

/-- The least of two distances. -/
def leastHops (a b : Option Nat) : Option Nat :=
  match a, b with
  | some x, some y => some (Nat.min x y)
  | some x, none => some x
  | none, y => y

/-- Hops of the shortest path that corrects the given dimensions in order. -/
def torusHops (s : State) (all_ : Bool) (dst : Nat) : List Nat → Nat → Option Nat
  | [], dev => if dev = dst then some 0 else none
  | d :: ds, dev =>
    (torusReach s all_ d dev).foldl (fun m x => leastHops m ((torusHops s all_ dst ds x.1).map (x.2 + ·))) none

/-- First dimension and direction of a shortest path from this device that corrects X, Y and Z in order, with its hops (R261).  Of two
directions of one length the plus one is taken (DESIGN CHOICE, log entry 152). -/
def torusFirst (s : State) (all_ : Bool) (dst : Nat) : Option (Nat × Nat × Nat) :=
  let own := s.idn.deviceId
  let cand := [1, 2, 3].flatMap fun d => [1, 0].filterMap fun r =>
    ((torusLine s all_ d r own 15 own 0).foldl (fun m x =>
      leastHops m ((torusHops s all_ dst ((List.range 4).filter (d < ·)) x.1).map (x.2 + ·))) none).map fun n => (n, d, r)
  cand.foldl (fun b x => match b with
    | none => some x
    | some y => if x.1 < y.1 then some x else some y) none

/-- A route entry of the given ports, the lowest PRIMARY (Table 9.11). -/
def entryOf (ports : List Nat) (detour : Bool) : BitVec 32 :=
  BitVec.ofNat 32 (2 ^ 31 + ports.headD 0 * 2 ^ 26 + (ports.map fun p => 2 ^ (14 + p)).sum + b2n detour * 2 ^ 13)

/-- The torus entry of a destination, where links in service reach it; DETOUR when every link in service would give a shorter path. -/
def torusEntry (s : State) (dst : Nat) : Option (BitVec 32) :=
  (torusFirst s false dst).map fun x =>
    let ports := (List.range 12).filter fun p => torusLink false x.2.1 x.2.2 (linkState (portOf s p))
    entryOf ports ((torusFirst s true dst).any fun y => decide (y.1 < x.1))

/-- The devices that the link states name. -/
def linkDevs (s : State) : List Nat :=
  ((s.fab.links.flatMap fun e => e.1 :: (e.2.filter fun l => l.dim != 0).map (·.peerDev)) ++
    ((ownLinks s).filter fun l => l.dim != 0).map (·.peerDev)).eraseDups.filter (· != s.idn.deviceId)

/-- Entries of the torus algorithm. -/
def torusEntries (s : State) : List (Nat × BitVec 32) := (linkDevs s).filterMap fun d => (torusEntry s d).map fun e => (d, e)

/-- One-hop entries of the devices that ACTIVE direct links reach (R261).  A port of DIM 0 is a direct link when the device at its far
end has named this one in its LINK_EVENT, which a switch does not send (DESIGN CHOICE, log entry 152). -/
def directEntries (s : State) : List (Nat × BitVec 32) :=
  let ports := (List.range 12).filter fun p =>
    isActive s p && pDim (portOf s p) == 0 && (linksAt s (portOf s p).peerDev).any fun l => l.peerDev == s.idn.deviceId
  ((ports.map fun p => (portOf s p).peerDev).eraseDups).map fun dev => (dev, entryOf (ports.filter fun p => (portOf s p).peerDev == dev) false)

/-- The table that the control firmware computes: own device, the torus, direct links, and over them the host's (R261). -/
def computedTable (s : State) : List (Nat × BitVec 32) :=
  let put := fun (m : List (Nat × BitVec 32)) (l : List (Nat × BitVec 32)) => l.foldl (fun m e => sset 0 m e.1 e.2) m
  let t2 := put (put (put [] (torusEntries s)) (directEntries s)) s.fab.hostRoutes
  sset 0 t2 s.idn.deviceId (BitVec.ofNat 32 (3 * 2 ^ 30))

/-- Devices named by any peer table. -/
def peerDevs (s : State) : List Nat := ((s.regions.flatMap fun e => e.2.peers.map (·.device)).eraseDups).filter (· != s.idn.deviceId)

/-- Marks a device lost (R372): a shadow of a member on it takes note; one that is not QUALIFIED is DETACHED and its JOIN_SHADOW
ends with PEER_GONE. -/
def loseDevice (s : State) (dev : Nat) : State :=
  let s1 := { s with fab := { s.fab with lost := setIns dev s.fab.lost } }
  s1.rf.foldl (fun s e =>
    match e.2.shadow with
    | none => s
    | some sh =>
      if sh.workDev ≠ dev then s
      else if sh.state = .qualified then updRf s e.1 fun f => { f with shadow := some { sh with workLost := true } }
      else if sh.state = .sync ∨ sh.state = .comparing then
        finishOpt (updRf s e.1 fun f => { f with shadow := some { sh with state := .detached, workLost := true } }) sh.req 0x0012 []
      else s) s1

/-- Peers that the active version no longer reaches. -/
def noteLost (s : State) : State :=
  ((peerDevs s).filter fun d => !routed s d && !s.fab.lost.contains d && s.fab.incs.any fun e => e.1 == d).foldl loseDevice s

/-- Writes the computed table into the version that is WRITABLE and flips to it. -/
def fabricFlip (s : State) : State :=
  let v := 1 - fabActive s
  if fabState s v ≠ .writable then s
  else
    let t := computedTable s
    let s1 := { s with fab := if v = 0 then { s.fab with t0 := t } else { s.fab with t1 := t } }
    let s2 := setFabState (setFabState { s1 with fab := { s1.fab with epoch := !s1.fab.epoch } } v .active) (1 - v) .draining
    noteLost (applyLeaving s2)

/-- FABRIC_FLIP (R261): takes effect at no boundary. -/
def execFabricFlip (s : State) : Out := .next (fabricFlip s)

/-- Packets of a fabric epoch in the gateways and port queues. -/
def fabInFlight (s : State) (v : Nat) : Nat :=
  ((List.range 4).map fun d => ((engineOf s d).ingress ++ (engineOf s d).egress).filter (fun f => f.epoch == v) |>.length).foldl (· + ·) 0 +
    ((s.fab.ports.map fun p => (p.2.txq.filter fun f => f.epoch == v).length).foldl (· + ·) 0)

/-- Lets in the packets that waited outside the lanes, where the lanes take them. -/
def releaseLanes (s : State) : State :=
  s.routers.foldl (fun s x => ((x.2.outbox.map (·.1)).eraseDups).foldl (fun s k => drainLane x.2.outbox.length s x.1 k) s) s

/-- VERSION_DRAINED (R202, R203, R260): a DRAINING version without packets becomes WRITABLE; the switch of a quiet flip. -/
def versionDrained (s : State) (fabric : Bool) : State :=
  if fabric then
    [0, 1].foldl (fun s v => if fabState s v = .draining ∧ fabInFlight s v = 0 then setFabState s v .writable else s) s
  else
    let s1 := [0, 1].foldl (fun s v => if verState s v = .draining ∧ inFlight s v = 0 then setVer s v .writable else s) s
    if s1.quiet && inFlight s1 (activeVer s1) == 0 then releaseLanes { flipNow s1 with quiet := false } else s1

def execVersionDrained (fabric : Bool) (s : State) : Out := .next (versionDrained s fabric)

/-- LINK_EVENT_RX (R257, R259): the sender's incarnation and the states of its ports. -/
def linkEvent (s : State) (dev inc : Nat) (ports : List PortLink) : State :=
  let old := s.fab.incs.find? fun e => e.1 == dev
  let s1 := { s with fab := { s.fab with
    incs := sins dev inc (sdel dev s.fab.incs), links := sins dev ports (sdel dev s.fab.links) } }
  match old with
  | some e => if e.2 ≠ inc then loseDevice s1 dev else s1
  | none => s1

def execLinkEventRx (dev inc : Nat) (ports : List PortLink) (s : State) : Out :=
  needUnit (decide (dev < 4096)) (.next (linkEvent s dev inc ports))

/-! ## Heartbeats between devices (R349) -/

/-- MC_BEAT_TICK: every 5 ms MC_BEAT goes to every peer. -/
def execMcBeatTick (s : State) : Out :=
  whenB (decide (5 * cyclesPerMs ≤ s.now - s.fab.beatAt)) s
    (let s1 := { s with fab := { s.fab with beatAt := s.now } }
     if peerDevs s = [] then s1 else send s1 .mcBeat)

/-- MC_BEAT_RX: the peer's silence measure starts again. -/
def execMcBeatRx (dev : Nat) (s : State) : Out :=
  needUnit (decide (dev < 4096))
    (.next { s with fab := { s.fab with beats := sins dev s.now (sdel dev s.fab.beats), silent := setDel dev s.fab.silent } })

/-- PEER_SILENT: MC_BEAT missing for 25 ms while the route is VALID; the event is its only effect. -/
def execPeerSilent (dev : Nat) (s : State) : Out :=
  needUnit (decide (dev < 4096))
    (whenB ((peerDevs s).contains dev && routed s dev && !s.fab.silent.contains dev &&
        decide (25 * cyclesPerMs ≤ s.now - sget 0 s.fab.beats dev)) s
      (devEvent { s with fab := { s.fab with silent := setIns dev s.fab.silent } } 0x0403 0 0xFF (leBytes dev 2)))

end Sys2Proof.Machine
end

