-- ==== Sys2Proof/Machine/Handoff.lean ====
section
/-! DEFINITION. Role hand-off (R159 to R162, Tables 5.11, 5.12): prefix lookups and replies, pages pushed and received, commit
notices, and a context's activation or timeout. -/

namespace Sys2Proof.Machine

/-! ## Contexts and pages -/

def noGroup : Nat := 0xFFFFFFFF

/-- The context of a region that holds a sequence key, not FREE. -/
def ctxByKey (s : State) (g : Region) (k : Nat) : Option Nat :=
  g.ctxIds.find? fun c => (ctxOf s c).state != 0 && (ctxOf s c).seqKey == k

/-- Whether a COMMIT_NOTICE covers a received page: of its producing group and step, over its index (R21, R160). -/
def noticed (c : Ctx) (p : PageIn) : Bool :=
  c.covered.any fun n => n.group == p.group && n.step == p.step && decide (n.firstPage ≤ p.page) && decide (p.page ≤ n.lastPage)

/-- Whether pieces, each a first head, heads and layers, make up the whole page of an image: every head of every layer (Table 5.12). -/
def wholePage (im : Image) (l : List (Nat × Nat × Nat)) : Bool :=
  (List.range im.heads).all fun h => l.any fun x => decide (x.1 ≤ h) && decide (h < x.1 + x.2.1) && decide (im.layers ≤ x.2.2)

/-- Whether page `i` has arrived whole and a COMMIT_NOTICE covers it (R160). -/
def pageUsable (im : Image) (c : Ctx) (i : Nat) : Bool :=
  let got := c.pagesIn.filter fun p => p.page == i && noticed c p
  got != [] && wholePage im (got.map fun p => (p.head, p.heads, p.layers))

/-- Whether every page below `n` is usable. -/
def pagesReady (g : Region) (c : Ctx) (n : Nat) : Bool := (List.range n).all fun i => g.image.any fun im => pageUsable im c i

/-- The tail bytes of a context of rank `j` for a layer and a head: of the area that the image places, else free. -/
def tailOf (s : State) (im : Image) (j l h tag : Nat) : List Byte :=
  match tailPlace im j l h with
  | some e => spadRead (tileOf s e.lt).spad e.addr tailBytes
  | none => (List.range tailBytes).map fun i => Config.tailByte tag (((l * im.heads) + h) * tailBytes + i)

/-- The blocks of a pool page of a context of rank `j`, layer by layer and head by head; with TAIL each is followed by the rows of its
tail area. -/
def pageBlocks (s : State) (im : Image) (j pp tag : Nat) (tail : Bool) : List (List Byte) :=
  (List.range im.layers).flatMap fun l => (List.range im.heads).map fun h =>
    let b := match blockPlace im pp l h with
      | some e => spadRead (tileOf s e.lt).spad e.addr blockBytes
      | none => zeros blockBytes
    if tail then b ++ tailOf s im j l h tag else b

/-! ## Sending -/

/-- Pushes a page to a group; it stays outstanding until it is acknowledged. -/
def pushPage (s : State) (r group : Nat) (m : PagePush) : State :=
  send (updRegion s r fun g => { g with pushes := g.pushes ++ [(group, m)] }) (.pagePush r group m)

/-- The lookup of a prompt context from key `first`: at most 64 keys (R159). -/
def lookupMsg (s : State) (r : Nat) (g : Region) (c : Ctx) (first : Nat) : PrefixLookup :=
  ⟨s.idn.deviceId, r, c.seqKey, c.modelKey, first, (c.prefixKeys.drop first).take 64, g.groupId, c.genGroup⟩

/-- Starts or continues a context's lookups; rank 0 sends the message. -/
def startLookup (s : State) (r ctx first : Nat) : State :=
  withRegion s r fun g =>
    let c := ctxOf s ctx
    let s1 := setCtx s ctx { c with lookup := .waiting first }
    if g.rank = 0 && !isShadow s r then send s1 (.prefixLookup r (lookupMsg s r g c first)) else s1

/-- The push of page `i` of the prompt context of rank `j` after the commit of `step`, from group `group`. -/
def promptPage (s : State) (group j : Nat) (c : Ctx) (im : Image) (step i : Nat) : State × PagePush :=
  let full := decide (128 * (i + 1) ≤ c.position)
  let f := takeFree s
  let blocks := pageBlocks s im j ((poolPageOf s c i).getD 0) f.1 (!full)
  (f.2, { prefixKey := if full then c.prefixKeys.getD i 0 else 0, modelKey := c.modelKey, seqKey := c.seqKey, pageIndex := i
          tokens := if full then 128 else c.position - 128 * i, headFirst := 0, heads := im.heads, layers := im.layers
          tail := !full, srcDev := s.idn.deviceId, step := step, crc := crc64 (blocks.flatMap id), blocks := blocks
          group := group })

/-- Pushes one prompt page to the generation group, and a full keyed page to the cache group of a context with CACHE_STORE. -/
def pushPromptPage (s : State) (r group j : Nat) (c : Ctx) (im : Image) (step i : Nat) : State :=
  let p := promptPage s group j c im step i
  let s1 := pushPage p.1 r c.genGroup p.2
  if bitOf c.flags 2 && !p.2.tail && decide (i < c.prefixKeys.length) && c.cacheGroup != noGroup then pushPage s1 r c.cacheGroup p.2
  else s1

/-- Pages 0 to `n - 1` of an admitted prompt context, which other sequences of the region produced in committed steps, pushed to the
generation group with their notice, so that every page of the sequence reaches it (R159, R160; assumption 118). -/
def sharedOut (s : State) (r : Nat) (g : Region) (id n : Nat) : State :=
  match g.image, g.lastCommitted with
  | some im, some step =>
    if n = 0 ∨ isShadow s r = true then s
    else
      let c := ctxOf s id
      let s1 := (List.range n).foldl (fun s i => pushPromptPage s r g.groupId (ctxRank g id) c im step i) s
      if g.rank = 0 then send s1 (.commitNotice r c.genGroup ⟨g.groupId, step, 0, n - 1, c.seqKey⟩) else s1
  | _, _ => s

/-- What leaves a prompt region for one context when a chunk of `n` positions has committed: its pages, and from rank 0 the
notice and, with the first token, the hand-off (R160 to R162). -/
def promptOut (s : State) (r : Nat) (g : Region) (im : Image) (e : LedgerEntry) (x : Nat × Nat) : State :=
  let c := ctxOf s x.1
  let p0 := c.position - x.2
  let ended := decide (c.position = c.prompt.length)
  let last := if ended then ceilDiv c.position 128 else c.position / 128
  let pages := (List.range last).filter fun i => decide (p0 / 128 ≤ i)
  let s1 := pages.foldl (fun s i => pushPromptPage s r g.groupId (ctxRank g x.1) c im e.step i) s
  let tok := (e.tokens.find? fun t => t.ctx == x.1).elim [] (·.tokens)
  let s2 :=
    if g.rank = 0 && pages != [] then
      let n : CommitNotice := ⟨g.groupId, e.step, p0 / 128, last - 1, c.seqKey⟩
      let sg := send s1 (.commitNotice r c.genGroup n)
      if bitOf c.flags 2 && c.cacheGroup != noGroup then send sg (.commitNotice r c.cacheGroup n) else sg
    else s1
  if g.rank = 0 && ended && tok != [] then send s2 (.seqHandoff r c.genGroup ⟨c.seqKey, c.position, c.lastToken, c.tokensOut, e.step⟩)
  else s2

/-- The stored pieces of the page of a key. -/
def cacheFind (g : Region) (k : BitVec 128) (model : Nat) : List CachePage :=
  g.cache.filter fun p => p.prefixKey == k && p.modelKey == model && p.committed

/-- Whether the whole page of a key is held. -/
def cacheHas (g : Region) (k : BitVec 128) (model : Nat) : Bool :=
  let l := cacheFind g k model
  l != [] && g.image.any fun im => wholePage im (l.map fun p => (p.headFirst, p.heads, p.layers))

/-- Leading keys of a lookup for which committed pages are held (R159). -/
def hitCount (g : Region) (m : PrefixLookup) : Nat := (m.keys.takeWhile fun k => cacheHas g k m.modelKey).length

/-- The push of a cached page that answers key `i` of a lookup, from group `group`. -/
def cachePush (s : State) (group : Nat) (m : PrefixLookup) (step i : Nat) (p : CachePage) : PagePush :=
  { prefixKey := p.prefixKey, modelKey := p.modelKey, seqKey := m.seqKey, pageIndex := m.firstKey + i, tokens := 128
    headFirst := p.headFirst, heads := p.heads, layers := p.layers, tail := false, srcDev := s.idn.deviceId, step := step
    crc := crc64 (p.blocks.flatMap id), blocks := p.blocks, group := group }

/-- What leaves a cache region for one answered lookup when its step has committed: the reply, the pages and the notice. -/
def cacheOut (s : State) (r : Nat) (g : Region) (step : Nat) (x : PrefixLookup × Nat) : State :=
  let m := x.1
  let groups := if m.promptGroup = m.genGroup then [m.promptGroup] else [m.promptGroup, m.genGroup]
  let reply : PrefixReply := ⟨m.seqKey, m.firstKey, x.2, step, g.groupId⟩
  let s1 := if g.rank = 0 then groups.foldl (fun s d => send s (.prefixReply r d reply)) s else s
  let s2 := (List.zip (List.range x.2) m.keys).foldl (fun s y =>
    (cacheFind g y.2 m.modelKey).foldl (fun s p =>
      groups.foldl (fun s d => pushPage s r d (cachePush s g.groupId m step y.1 p)) s) s) s1
  let used := m.keys.take x.2
  let touch := mapIf (fun p : CachePage => used.contains p.prefixKey && p.modelKey == m.modelKey) fun p => { p with served := s.now }
  let s3 := updRegion s2 r fun g => { g with cache := touch g.cache }
  if g.rank = 0 && decide (0 < x.2) then
    groups.foldl (fun s d => send s (.commitNotice r d ⟨g.groupId, step, m.firstKey, m.firstKey + x.2 - 1, m.seqKey⟩)) s3
  else s3

/-- What a committed step of a region sends to other groups (R21). -/
def handOffOut (s : State) (r step : Nat) : State :=
  withRegion s r fun g =>
    match g.image, g.ledger.find? fun e => e.final && e.step == step with
    | some im, some e =>
      if isShadow s r then s
      else match g.role with
        | .prompt => e.covered.foldl (fun s x => promptOut s r g im e x) s
        | .cache => e.lookups.foldl (fun s x => cacheOut s r g step x) s
        | .generation => s
    | _, _ => s

/-! ## Receiving -/

/-- Whether a region is inside a step. -/
def inStep (g : Region) : Bool := g.mstate == .running || g.mstate == .drained

/-- Runs `k` on a region of the machine. -/
def onRegion (r : Nat) (s : State) (k : Region → State) : Out :=
  needUnit (regOk r) (.next (withRegion s r k))

/-- Changes the pending ledger entry of a region's step. -/
def updPending (s : State) (r : Nat) (f : LedgerEntry → LedgerEntry) : State :=
  updRegion s r fun g => { g with ledger := mapIf (fun e => !e.final && e.step == g.step) f g.ledger }

/-- PREFIX_LOOKUP_RX: the answer is an effect of the step that received the lookup, so it leaves with the commit. -/
def execPrefixLookupRx (r : Nat) (m : PrefixLookup) (s : State) : Out :=
  onRegion r s fun g =>
    if g.role == .cache && inStep g then
      updPending s r fun e => { e with lookups := e.lookups ++ [(m, hitCount g m)] }
    else s

/-- PREFIX_REPLY_RX: HIT is added to the sequence's; a full reply continues the lookups of a prompt context. -/
def prefixReplyRow (r : Nat) (m : PrefixReply) (s : State) : Out :=
  onRegion r s fun g =>
    match ctxByKey s g m.seqKey with
    | none => s
    | some id =>
      let c := ctxOf s id
      match g.role, c.lookup with
      | .prompt, .waiting first =>
        if first ≠ m.firstKey then s
        else
          let n := Nat.min 64 (c.prefixKeys.length - first)
          let s1 := setCtx s id { c with hits := c.hits + m.hit, lookup := .ended }
          if m.hit = n ∧ first + n < c.prefixKeys.length then startLookup s1 r id (first + n) else s1
      | .generation, _ => setCtx s id { c with hits := c.hits + m.hit }
      | _, _ => s

def ackPage (s : State) (r : Nat) (m : PagePush) (st : PageAckStatus) : State :=
  if isShadow s r then s else send s (.pageAck r m.srcDev m.seqKey m.pageIndex st)

/-- Whether a cache region has the push already: the same sequence, page, producing step and heads. -/
def pushTwice (g : Region) (m : PagePush) : Bool :=
  (g.cache ++ g.cacheIn).any fun p => p.seqKey == m.seqKey && p.pageIndex == m.pageIndex && p.step == m.step && p.headFirst == m.headFirst

/-- Whether the pages that a cache region must keep leave room for one more. -/
def cacheFull (g : Region) (m : PagePush) : Bool :=
  let kept := g.cache.filter (pinned g) ++ g.cacheIn
  !kept.any (fun p => p.prefixKey == m.prefixKey && p.modelKey == m.modelKey) && decide (cacheSize g ≤ cachePages kept)

/-- A page pushed to a cache region: it is stored by the commit of the step that received it (R162).  One that
arrives outside a step is dropped without an answer (DESIGN CHOICE, assumption 144). -/
def storePage (s : State) (r : Nat) (g : Region) (m : PagePush) : State :=
  if !inStep g then s
  else if pushTwice g m then ackPage s r m .duplicate
  else if m.tail ∨ m.tokens ≠ 128 ∨ cacheFull g m then ackPage s r m .noRoom
  else
    let p : CachePage := ⟨m.prefixKey, m.modelKey, m.seqKey, m.pageIndex, m.headFirst, m.heads, m.layers, m.blocks, s.now, false, m.step⟩
    let s0 := updRegion s r fun g => { g with cacheIn := g.cacheIn ++ [p] }
    ackPage (updPending s0 r fun e => { e with stored := e.stored ++ [(m.seqKey, m.pageIndex)] }) r m .ok

/-- A page as its receiver notes it. -/
def pageIn (m : PagePush) : PageIn := ⟨m.pageIndex, m.step, m.headFirst, m.group, m.heads, m.layers⟩

/-- A page pushed to a context: written into the pool page of its page list (R160). -/
def landPage (s : State) (r : Nat) (g : Region) (im : Image) (m : PagePush) : State :=
  match ctxByKey s g m.seqKey with
  | none => ackPage s r m .noContext
  | some id =>
    let c := ctxOf s id
    if c.pagesIn.any fun p => p.page == m.pageIndex && p.step == m.step && p.head == m.headFirst && p.group == m.group then ackPage s r m .duplicate
    else
      match poolPageOf s c m.pageIndex with
      | none => ackPage s r m .noRoom
      | some pp =>
        let s1 := setCtx (writePage s im (ctxRank g id) pp m) id { c with pagesIn := c.pagesIn ++ [pageIn m] }
        ackPage (if inStep g then updRegion s1 r fun g => { g with landed := g.landed ++ [(id, m)] } else s1) r m .ok

/-- PAGE_PUSH_RX: the CRC first. -/
def pagePushRow (r : Nat) (m : PagePush) (s : State) : Out :=
  onRegion r s fun g =>
    if crc64 (m.blocks.flatMap id) ≠ m.crc then ackPage s r m .checkFail
    else
      match g.image with
      | none => ackPage s r m .noContext
      | some im => if g.role == .cache then storePage s r g m else landPage s r g im m

/-- PAGE_ACK_RX: CHECK_FAIL sends the page again to the group it answers for; any other answer ends the push.  `group` is the group of the
member that answers, `none` where it is not given: then the oldest push of that page is meant. -/
def execPageAckRx (r seqKey pageIndex : Nat) (st : PageAckStatus) (s : State) (group : Option Nat := none) : Out :=
  onRegion r s fun g =>
    let mine := fun (x : Nat × PagePush) => x.2.seqKey == seqKey && x.2.pageIndex == pageIndex && group.all (· == x.1)
    match firstIdx mine g.pushes with
    | none => s
    | some i =>
      match st, g.pushes[i]? with
      | .checkFail, some x => send s (.pagePush r x.1 x.2)
      | _, _ => updRegion s r fun g => { g with pushes := g.pushes.eraseIdx i }

/-- COMMIT_NOTICE_RX. -/
def commitNoticeRow (r : Nat) (m : CommitNotice) (s : State) : Out :=
  onRegion r s fun g =>
    match ctxByKey s g m.seqKey with
    | none => s
    | some id => updCtx s id fun c => { c with covered := c.covered ++ [m] }

/-- SEQ_HANDOFF_RX: held by a context in AWAITING. -/
def seqHandoffRow (r : Nat) (m : SeqHandoff) (s : State) : Out :=
  onRegion r s fun g =>
    match ctxByKey s g m.seqKey with
    | none => s
    | some id => if (ctxOf s id).state = 1 then updCtx s id fun c => { c with handoff := some m } else s

/-- HANDOFF_TIMEOUT: at a boundary of the region, FAILED with STOP_REASON 5 (R137: a record changes at no other time). -/
def handoffTimeoutRow (r ctx : Nat) (s : State) : Out :=
  onRegion r s fun g =>
    let c := ctxOf s ctx
    if g.ctxIds.contains ctx && atBoundary g && c.state == 1 && decide (c.deadline ≤ s.now) then setCtx s ctx { c with state := 4, stopReason := 5 }
    else s

/-- Whether a context in AWAITING holds everything (R161). -/
def handoffComplete (g : Region) (c : Ctx) : Bool :=
  c.state == 1 && (match c.handoff with
    | some h => pagesReady g c (ceilDiv h.position 128)
    | none => false)

/-- HANDOFF_ACTIVATION: at a boundary the context becomes ACTIVE with what the hand-off carries. -/
def handoffActivationRow (r ctx : Nat) (s : State) : Out :=
  onRegion r s fun g =>
    let c := ctxOf s ctx
    match c.handoff with
    | none => s
    | some h =>
      if g.ctxIds.contains ctx && atBoundary g && handoffComplete g c then
        setCtx s ctx { c with state := 2, position := h.position, lastToken := h.lastToken, tokensOut := h.tokensOut }
      else s

/-- A prompt context whose lookups have ended starts after the pages it was given: at 128 positions a page, but not past its
last position, so that a last chunk remains. -/
def settleLookup (g : Region) (s : State) (ctx : Nat) : State :=
  let c := ctxOf s ctx
  if c.lookup = .ended ∧ c.state = 2 ∧ pagesReady g c c.hits = true then
    setCtx s ctx { c with lookup := .none_, position := Nat.min (128 * c.hits) (c.prompt.length - 1) }
  else s

end Sys2Proof.Machine
end

