-- ==== Sys2Proof/Machine/Commit.lean ====
section
/-! DEFINITION. What surrounds a commit and a discard: extreme quantities, step digests, hand-off output, the end of a RUN, a
shadow's comparison, and the group that stops (R311, R368, R371, R374, R382). -/

namespace Sys2Proof.Machine

/-! ## Extreme quantities (R382, Table 14.4) -/

/-- A value of an extreme quantity: the minimum and the maximum with their times. -/
def noteExtreme (s : State) (num : Nat) (v : Int) : State :=
  let t := timeWord s
  let rc := s.recorder
  let xs := match rc.extremes.find? fun x => x.num == num with
    | none => rc.extremes ++ [⟨num, v, v, t, t, true⟩]
    | some x =>
      let x1 := if v < x.min then { x with min := v, minAt := t, changed := true } else x
      let x2 := if x.max < v then { x1 with max := v, maxAt := t, changed := true } else x1
      mapIf (fun y => y.num == num) (fun _ => x2) rc.extremes
  { s with recorder := { rc with extremes := xs } }

/-! ## Step digests (R368) -/

/-- The KV term: the XOR over the granules of the step filter of the CRC of offset and bytes. -/
def kvTerm (s : State) (g : Region) : BitVec 64 :=
  g.filt.foldl (fun x o => x ^^^ crc64 (leBytes o 8 ++ basinBytes s (g.basinBase + o) 512)) 0

/-- The step digest of a region whose step is about to commit. -/
def stepDigest (s : State) (g : Region) : BitVec 64 :=
  let toks := (pendingOf g).elim [] (·.tokens)
  crc64 ((toks.flatMap fun t => Config.ledgerBytes t.ctx t.seqKey t.tokens t.stopReason) ++ leBytes (kvTerm s g).toNat 8)

/-! ## Commit -/

/-- What the region does when a step has committed: it holds with 16,384 undelivered tokens, and a RUN that has its steps ends. -/
def afterCommit (s : State) (r : Nat) : State :=
  withRegion s r fun g =>
    let s1 := if g.running && !g.runForever && g.runLeft == 0 then updRegion (endRun s r csSuccess) r fun g => { g with rstate := .loaded } else s
    if 16384 ≤ maxUndelivered s g then postRunState (updRegion s1 r fun g => { g with held := true }) r .heldUndelivered else s1

/-- The commit of a region's step with everything that follows it. -/
def commitStep (s : State) (r : Nat) : State :=
  withRegion s r fun g =>
    let d := stepDigest s g
    let s1 := handOffOut (commitNow (noteExtreme s 4 ((s.now - g.stepStart) / cyclesPerUs)) r) r g.step
    let s2 := if (rfOf s r).attached.isSome then send s1 (.stepDigest r g.step d) else s1
    afterCommit s2 r

/-! ## Discard -/

/-- Ranks of the group whose member is lost or removed, that no PROMOTE waiting here and no shadow mirrored here replaces. -/
def lostRanks (s : State) (r : Nat) (g : Region) : List Nat :=
  (g.peers.filter fun p => p.member && p.rank != g.rank && (s.fab.lost.contains p.device || g.removed.contains p.rank) &&
    !(g.boundary.any fun b => match b.act with | .promote k _ _ _ => k == p.rank | _ => false) &&
    !(rfOf s r).mirrors.any fun m => m.1 == p.rank).map (·.rank)

/-- A group that loses a member and promotes no shadow stops (R374): PEER_GONE. -/
def groupStop (s : State) (r : Nat) : State :=
  withRegion s r fun g =>
    if g.rstate = .running && lostRanks s r g != [] && !isShadow s r then stopRegion s r 0x0012 else s

/-- The discard of a region's attempt with what follows it. -/
def discardStep (s : State) (r : Nat) : State := groupStop (discardNow s r) r

/-! ## Shadows at their commit (R371) -/

def updShadow (s : State) (r : Nat) (f : Shadow → Shadow) : State :=
  updRf s r fun x => { x with shadow := x.shadow.map f }

/-- A shadow is detached: it stands stopped, its attempt is discarded. -/
def detach (s : State) (r status : Nat) (result : List Byte) : State :=
  match (rfOf s r).shadow with
  | none => s
  | some sh =>
    let s1 := updShadow (finishOpt s sh.req status result) r fun x => { x with state := .detached, req := none }
    let s2 := if (regionOf s1 r).any inStep || (regionOf s1 r).any (fun g => g.mstate == .readySent) then discardNow s1 r else s1
    stopRegion s2 r status

/-- Compares the shadow's digest of its step with the working member's, when both are there: equal commits, and the last of
COMPARE_STEPS commits makes it QUALIFIED; different detaches. -/
def shadowSettle (s : State) (r : Nat) : State :=
  withRegion s r fun g =>
    match (rfOf s r).shadow with
    | none => s
    | some sh =>
      match sh.digests.find? fun d => d.1 == g.step with
      | none => s
      | some d =>
        let own := stepDigest s g
        if g.mstate ≠ .readySent then s
        else if own = d.2 then
          let s1 := updShadow (commitStep s r) r fun x => { x with
            compared := x.compared + 1, digests := x.digests.filter fun y => decide (g.step < y.1) }
          if sh.state = .comparing ∧ sh.compareSteps ≤ sh.compared + 1 then
            updShadow (finishOpt s1 sh.req csSuccess []) r fun x => { x with state := .qualified, req := none }
          else s1
        else
          let rec_ := leBytes g.step 8 ++ leBytes own.toNat 8 ++ leBytes d.2.toNat 8
          let s1 := if sh.state = .qualified then regionEvent s 0x0606 r rec_ else s
          detach s1 r 0x0013 rec_

end Sys2Proof.Machine
end

