-- ==== Sys2Proof/Machine/StepRows.lean ====
section
/-! DEFINITION. The step of a region as commands: start, drain, local conditions, the group's messages, timers, and the watchdogs
of queues and engines (R14 to R27, R129, R311, R354 to R356). -/

namespace Sys2Proof.Machine

/-! ## Start -/

/-- Changes of group membership that no row of its own carries out: GROUP_SET of a running region, and the removal of a silent
member (R17, R24), once every action before them is done. -/
def settleMembers (s : State) (r : Nat) : State :=
  withRegion s r fun g =>
    if boundaryFree s r g 6 then
      let s1 := g.boundary.foldl (fun s b =>
        match b.act with
        | .member gid n k ps =>
          finishOpt (updRegion s r fun g => { g with groupId := gid, members := n, rank := k, peers := ps, removed := [] }) b.req csSuccess []
        | .remove k => updRegion s r fun g => { g with removed := setIns k g.removed }
        | _ => s) s
      let s2 := dropAct s1 r (fun a => match a with | .member _ _ _ _ => true | .remove _ => true | _ => false)
      groupStop s2 r
    else s

/-- Whether a region may start in the power state and while no castling holds it. -/
def freeToStart (s : State) (r : Nat) : Bool :=
  !s.rep.held.contains r && !s.pwr.doze && !s.pwr.p1.contains r && s.flt.state == 5 && s.rep.run.isNone && (rfOf s r).reset.isNone

/-- Whether a shadow may run: it holds state through the step before c₁ and is still compared. -/
def shadowMay (s : State) (r : Nat) (g : Region) : Bool :=
  match (rfOf s r).shadow with
  | none => true
  | some sh => sh.state == .promoted || ((sh.state == .comparing || sh.state == .qualified) && decide (sh.c1 ≤ g.step))

/-- STEP_START. -/
def stepStartRow (r : Nat) (s : State) : Out :=
  onRegion r s fun _ =>
    let s1 := settleMembers s r
    withRegion s1 r fun g =>
      if mayStart s1 r g && freeToStart s1 r && shadowMay s1 r g then
        let s2 := g.ctxIds.foldl (settleLookup g) s1
        let s3 := if (rfOf s r).attached.isSome then send s2 (.boundaryLog r g.boundaryLog) else s2
        stepStart s3 r
      else s1

/-! ## Drain and local conditions -/

/-- Tiles and data queues that hold entries although every stream has ended and nothing is in flight (R129). -/
def strandedQueues (s : State) (g : Region) : List (Nat × Nat) :=
  (regionTiles s g).flatMap fun lt =>
    let t := tileOf s lt
    (t.queues.filter fun q => q.2.slots != [] && isDataQueue (qcfgOf t q.1)).map fun q => (lt, q.1)

/-- The completion record of a stranded queue: status STRANDED, DESC_QUEUE the queue, DESC_INDEX 0xFFFF. -/
def strand (s : State) (lt q : Nat) : State :=
  updRegion s (tileOf s lt).region fun g => { g with
    failRecs := g.failRecs ++ [compRecord 0x0B 0 q 0xFFFF 0 0 0 0 0 g.step lt] }

/-- Whether nothing on a tile can run any more and its merge buffer is empty (R16, R86). -/
def tileStill (t : Tile) : Bool :=
  streamsDone t && tileIdle t && t.spad.mb == [] && t.queues.all fun q => q.2.slots == [] || isDataQueue (qcfgOf t q.1)

/-- Whether a region's part of every collective engine is idle: no collective with a CONTRIBUTE is unfinished, and every message to a
peer has been answered (R16). -/
def enginesStill (s : State) (r : Nat) : Bool :=
  (List.range 4).all fun d =>
    let e := engineOf s d
    (e.flows.all fun f => f.x.fid != r) && e.queues.all fun q => q.2.region != r || q.2.ctxs.all fun c => c.done || c.contribs == []

/-- STEP_DRAINED: entries left in data queues are STRANDED and fail the step; a failed step is discarded; any other waits for
its local conditions with its results recorded. -/
def execStepDrained (r : Nat) (s : State) : Out :=
  onRegion r s fun g =>
    if g.mstate == .running && allTiles s g tileStill && enginesStill s r then
      let left := strandedQueues s g
      let s1 := if left = [] then s else
        failStep (left.foldl (fun s x => strand s x.1 x.2) s) r 0x0B
      let s2 := updRegion s1 r fun g => { g with mstate := .drained }
      withRegion s2 r fun g2 => if g2.failed then discardStep s2 r else recordPending s2 r g2
    else s

/-- LOCAL_CONDITIONS_MET: STEP_READY goes to the group; a region alone, or one that holds every other STEP_READY, commits.  A
shadow sends nothing and waits for the working member's digest. -/
def localConditionsMetRow (r : Nat) (s : State) : Out :=
  onRegion r s fun g =>
    if g.mstate == .drained && g.failed then discardStep s r
    else if g.mstate == .drained && localOk s r g then
      let s1 := updRegion s r fun g => { g with mstate := .readySent }
      if isShadow s r then shadowSettle s1 r
      else
        let s2 := if 1 < g.members then send s1 (.stepReady r (stepMsg g)) else s1
        if missingReady g = [] then commitStep s2 r else s2
    else s

/-! ## Group messages -/

/-- The regions of this device that a group message is for: those of its group, but not the sender's rank. -/
def groupRegions (s : State) (m : StepMsg) : List Nat :=
  (s.regions.filter fun e => e.2.groupId == m.group && e.2.rank != m.rank && decide (1 < e.2.members)).map (·.1)

def eachRegion (s : State) (m : StepMsg) (k : State → Nat → Region → State) : State :=
  (groupRegions s m).foldl (fun s r => withRegion s r (k s r)) s

/-- Whether an attempt is under way that a message can end. -/
def openStep (g : Region) : Bool :=
  g.mstate == .running || g.mstate == .drained || g.mstate == .readySent || g.mstate == .inDoubt

/-- R25: a message for the current step with a higher attempt number discards the current attempt at once. -/
def stepMsgAttempt (s : State) (r : Nat) (g : Region) (m : StepMsg) : State :=
  if openStep g && m.step == g.step && decide (g.attempt < m.attempt) then discardStep s r else s

/-- STEP_READY_RX. -/
def execStepReadyRx (m : StepMsg) (s : State) : Out :=
  .next (eachRegion s m fun s r g =>
    if m.step < g.step then s
    else
      let s1 := stepMsgAttempt (updRegion s r fun g => { g with
        readyFrom := g.readyFrom.filter (· != (m.rank, m.step, m.attempt)) ++ [(m.rank, m.step, m.attempt)] }) r g m
      withRegion s1 r fun g1 => if g1.mstate = .readySent && missingReady g1 = [] && !isShadow s1 r then commitStep s1 r else s1)

/-- STEP_FAIL_RX: for the current attempt, or of a higher one, it discards the attempt at once. -/
def execStepFailRx (m : StepMsg) (s : State) : Out :=
  .next (eachRegion s m fun s r g =>
    if openStep g && m.step == g.step && decide (g.attempt ≤ m.attempt) then discardStep s r else s)

/-- Whether a region has committed a step. -/
def hasCommitted (g : Region) (step : Nat) : Bool := g.lastCommitted.any fun c => decide (step ≤ c)

/-- STEP_QUERY_RX: COMMITTED if it has committed the step; otherwise it discards it and answers DISCARDED, under its own rank. -/
def execStepQueryRx (m : StepMsg) (s : State) : Out :=
  .next (eachRegion s m fun s r g =>
    if isShadow s r then s
    else if hasCommitted g m.step then send s (.stepAnswer r { m with rank := g.rank } .committed)
    else
      let s1 := if openStep g && m.step == g.step then discardStep s r else s
      send s1 (.stepAnswer r { m with rank := g.rank } .discarded))

/-- STEP_QUERY_ANSWER_RX: an in-doubt member, or a promoted shadow that settles its step, commits on any COMMITTED answer; the
member discards when every other member has answered DISCARDED.  An answer that comes after the outcome is still an answer (R24). -/
def execStepQueryAnswerRx (m : StepMsg) (a : QueryAnswer) (s : State) : Out :=
  .next (eachRegion s m fun s r g =>
    if g.queryAt.isSome && m.step == g.queryStep then
      let s1 := updRegion s r fun g => { g with answers := (m.rank, a) :: g.answers.filter fun x => x.1 != m.rank }
      withRegion s1 r fun g1 =>
        if g1.mstate ≠ .inDoubt ∨ m.step ≠ g1.step then s1
        else if a = .committed then commitStep s1 r
        else
          let others := (List.range g1.members).filter fun k => k != g1.rank && !g1.removed.contains k
          if others.all fun k => g1.answers.any fun x => x.1 == k then discardStep s1 r else s1
    else s)

/-! ## Timers -/

/-- The faulting context (R356): of every region tile's blocked descriptors the one that has waited longest, ties by lower LT
and then lower queue. -/
def faultingContext (s : State) (g : Region) : Option (Nat × Nat × Blocked) :=
  let all := (regionTiles s g).flatMap fun lt =>
    (((tileOf s lt).qcfg.filter fun e => isDescQueue e.2).map (·.1)).filterMap fun q =>
      (blockedOf s lt q).map fun b => (s.now - (queueOf (tileOf s lt) q).since, lt, q, b)
  let worst := all.foldl (fun m x => Nat.max m x.1) 0
  (all.find? fun x => x.1 == worst).map fun x => (x.2.1, x.2.2.1, x.2.2.2)

/-- STEP_TIMER_EXPIRY: before STEP_READY the attempt is discarded, with a STEP_TIMEOUT hang record if it has not drained; after
it the member is in doubt and asks. -/
def execStepTimerExpiry (r : Nat) (s : State) : Out :=
  onRegion r s fun g =>
    if s.now < g.stepStart + g.timeoutUs * cyclesPerUs then s
    else match g.mstate with
      | .running =>
        let s1 := match faultingContext s g with
          | some (lt, q, b) => postHang s 0x22 lt q b
          | none => s
        discardStep s1 r
      | .drained => discardStep s r
      | .readySent =>
        if isShadow s r then s
        else send (updRegion s r fun g => { g with mstate := .inDoubt, queryAt := some s.now, queryStep := g.step, answers := [] }) (.stepQuery r (stepMsg g))
      | _ => s

/-- Ranks that have not answered a region's STEP_QUERY. -/
def silentRanks (g : Region) : List Nat :=
  (List.range g.members).filter fun k => k != g.rank && !g.removed.contains k && !g.answers.any fun x => x.1 == k

/-- QUERY_WAIT_EXPIRY: 1 ms after a STEP_QUERY the wait ends, whatever the outcome of the step by then.  Members that have not answered
are removed at the next route flip; a member still in doubt discards. -/
def execQueryWaitExpiry (r : Nat) (s : State) : Out :=
  onRegion r s fun g =>
    match g.queryAt with
    | some t =>
      if s.now < t + cyclesPerMs then s
      else
        let s1 := updRegion s r fun g => { g with queryAt := none, leaving := (silentRanks g).foldl (fun l k => setIns k l) g.leaving }
        if g.mstate = .inDoubt then discardStep s1 r else s1
    | none => s

/-- UNDELIVERED_RESUME: a held region whose contexts all hold fewer than 8,192 undelivered tokens runs again. -/
def execUndeliveredResume (r : Nat) (s : State) : Out :=
  onRegion r s fun g =>
    if g.held && atBoundary g && decide (maxUndelivered s g < 8192) then
      postRunState (updRegion s r fun g => { g with held := false }) r .running
    else s

/-! ## Watchdogs of queues and engines -/

/-- QUEUE_STALL: the oldest unretired descriptor of a queue has stood for half the step timeout; once per attempt; it fails
nothing. -/
def execQueueStall (lt q : Nat) (s : State) : Out :=
  needUnit (ltOk lt && decide (q < 64))
    (let r := (tileOf s lt).region
     .next (withRegion s r fun g =>
      match blockedOf s lt q with
      | some b =>
        if inStep g && decide ((queueOf (tileOf s lt) q).since + g.timeoutUs * cyclesPerUs / 2 ≤ s.now) && !(rfOf s r).stalls.contains (lt, q) then
          postHang (updRf s r fun f => { f with stalls := (lt, q) :: f.stalls }) 0x21 lt q b
        else s
      | none => s))

/-- The segment watchdog's descriptor: fired 100 µs ago in an engine of the tile, and not waiting for another tile or device. -/
def hungIn (s : State) (lt q : Nat) : Option Fired :=
  (tileOf s lt).fired.find? fun f =>
    f.q == q && f.openParts == [] && decide (f.firedAt + 100 * cyclesPerUs ≤ s.now) && (dClass f.desc == 0 || dClass f.desc == 1 || dClass f.desc == 2 || dClass f.desc == 3)

/-- History kind of the engine that a class runs on (Table 14.5). -/
def engineKind (cls : Nat) : Nat := cls + 2

/-- ENGINE_HANG: the tile is captured, the hang record posted, the core reset, the step failed and the engine charged. -/
def execEngineHang (lt q : Nat) (s : State) : Out :=
  needUnit (ltOk lt && decide (q < 64))
    (match hungIn s lt q, blockedOf s lt q with
      | some f, some b =>
        let r := (tileOf s lt).region
        let pos := posOf s lt
        let cls := dClass f.desc
        let s1 := captureNow s r 1 [lt]
        let s2 := resetTileCore (postHang s1 0x23 lt q b) lt
        let key := posKey (engineKind cls) pos 0
        .next (charge (failStep s2 r 0x0223) r (chargeAt s2 r key key 0x04 cls lt pos []) false)
      | _, _ => .next s)

end Sys2Proof.Machine
end

