-- ==== Sys2Proof/Machine/Placement.lean ====
section
/-! DEFINITION. Placing the nodes of an image on tiles: displaced nodes, renumbering, rewriting of references, and writing a tile's
configuration and resident data (R73, R130, R132, R269, R343, R346, R352, R364, R365). -/

namespace Sys2Proof.Machine

/-! ## Sums per tile (R130, Tables 4.19 and 4.20) -/

/-- A shortfall record (Table 4.21). -/
structure Shortfall where
  resource : Nat
  lt : Nat
  node : Nat
  need : Nat
  have_ : Nat
  detail : Nat
deriving DecidableEq, Repr

def shortBytes (x : Shortfall) : List Byte :=
  leBytes (x.resource * 2 ^ 248 + x.lt % 1024 * 2 ^ 238 + x.node % 2 ^ 16 * 2 ^ 222 + x.need % 2 ^ 64 * 2 ^ 128 +
    x.have_ % 2 ^ 64 * 2 ^ 64 + x.detail % 2 ^ 64) 32

/-- Adds a range to a list of ranges kept in rising order of base. -/
def rngIns (x : Nat × Nat) : List (Nat × Nat) → List (Nat × Nat)
  | [] => [x]
  | y :: t => if x.1 < y.1 then x :: y :: t else y :: rngIns x t

/-- Joins ranges (base, end) that touch. -/
def rngJoin : List (Nat × Nat) → List (Nat × Nat)
  | [] => []
  | [x] => [x]
  | x :: y :: t =>
    match rngJoin (y :: t) with
    | z :: u => if z.1 ≤ x.2 then (x.1, Nat.max x.2 z.2) :: u else x :: z :: u
    | [] => [x]

/-- The fewest windows that cover exactly the ranges filled from WEIGHT_IMAGE (R73). -/
def protectOf (ns : List Node) : List Window :=
  let rs := (ns.flatMap (·.resident)).filter fun r => !r.cold && decide (0 < r.len)
  (rngJoin ((rs.map fun r => (r.addr, r.addr + r.len)).foldr rngIns [])).map fun x => ⟨true, x.1, x.2⟩

/-- Nodes with their numbers. -/
def nodesOf (im : Image) : List (Nat × Node) := List.zip (List.range im.nodes.length) im.nodes

/-- The tile of a node's position in the region's rectangle. -/
def nodeHome (g : Region) (n : Node) : Nat := 24 * (g.y0 + n.y) + g.x0 + n.x

/-- The items of orders 2 to 7 of Table 4.20 that a list of nodes sums to, with their RESOURCE and limit. -/
def sums (ns : List Node) : List (Nat × Nat × Nat) :=
  let f := fun (p : Node → Nat) => (ns.map p).foldl (· + ·) 0
  [(0x02, f (·.spadData), 58720256), (0x03, f (·.reservation), 8126464), (0x04, f (·.nQueues), 64),
    (0x05, f (·.nDescQueues), 16), (0x06, f (·.nSync), 256), (0x07, f (·.nHandlers), 256)]

/-- The windows that nodes on one tile need, in the order shadow, list, protect. -/
def windowsOf (ns : List Node) : List Nat :=
  [((ns.flatMap (·.shadow)).filter (·.en)).length, ((ns.flatMap (·.lists)).filter (·.en)).length, (protectOf ns).length]

/-- What a tile with these nodes exceeds first: RESOURCE, NEED and HAVE. -/
def tileShort (ns : List Node) : Option (Nat × Nat × Nat) :=
  match (sums ns).find? fun x => decide (x.2.2 < x.2.1) with
  | some x => some x
  | none => ((windowsOf ns).find? fun n => decide (8 < n)).map fun n => (0x14, n, 8)

/-- The nodes of an image that a placement puts on a tile, in ascending number. -/
def nodesOn (im : Image) (map : List (Nat × Nat)) (lt : Nat) : List Node :=
  (nodesOf im).filterMap fun x => if sget 0x3FF map x.1 = lt then some x.2 else none

/-! ## Placing displaced nodes (R130) -/

/-- The shortfall record of a node that no tile can hold. -/
def unplaceable (im : Image) (map : List (Nat × Nat)) (tiles : List Nat) (i : Nat) (n : Node) : Shortfall :=
  match tiles with
  | [] => ⟨0x01, 0x3FF, i, im.nodes.length, 0, 0⟩
  | lt :: _ =>
    match tileShort (nodesOn im map lt ++ [n]) with
    | some x => ⟨x.1, lt, i, x.2.1, x.2.2, 0⟩
    | none => ⟨0x01, lt, i, im.nodes.length, 0, 0⟩

/-- Places the displaced nodes in ascending order, each on the lowest present tile that can hold it; `fuel` bounds the nodes. -/
def placeNodes (im : Image) (tiles : List Nat) : List (Nat × Node) → List (Nat × Nat) → Sum Shortfall (List (Nat × Nat))
  | [], map => .inr map
  | (i, n) :: t, map =>
    match tiles.find? fun lt => (tileShort (nodesOn im map lt ++ [n])).isNone with
    | some lt => placeNodes im tiles t (sins i lt map)
    | none => .inl (unplaceable im map tiles i n)

/-! ## Renumbering (R346 steps 1 and 2) -/

/-- Numbers below `limit` that are not in use, ascending. -/
def freeNums (used : List Nat) (limit : Nat) : List Nat := (List.range limit).filter fun k => !used.contains k

/-- The move of node `i` from `old` to the tile of a placement, beside the nodes already there. -/
def renameOf (im : Image) (map : List (Nat × Nat)) (old i : Nat) (n : Node) (rest : Bool) : Rename :=
  let lt := sget 0x3FF map i
  let there := ((nodesOf im).filter fun x => x.1 != i && sget 0x3FF map x.1 == lt).map (·.2)
  let pair := fun (own : List Nat) (used : List Nat) (limit : Nat) => List.zip own (freeNums used limit)
  { node := i, old := old, new := lt, rest := rest
    queues := pair (n.queues.map (·.1)) (there.flatMap fun m => m.queues.map (·.1)) 64
    objs := pair (n.objects.map (·.1)) (there.flatMap fun m => m.objects.map (·.1)) 256
    handlers := pair (n.handlers.map (·.1)) (there.flatMap fun m => m.handlers.map (·.1)) 256 }

/-- A number under a renumbering; unlisted numbers keep. -/
def renum (m : List (Nat × Nat)) (k : Nat) : Nat := (m.find? fun e => e.1 == k).elim k (·.2)

/-- Whether a moved node is what a reference (absent tile, number) means. -/
def ownsNum (x : Rename) (m : List (Nat × Nat)) (k : Nat) : Bool := x.rest || m.any fun e => e.1 == k

/-- Whether a node's ranges hold a scratchpad address. -/
def holdsAddr (n : Node) (a : Nat) : Bool :=
  (n.resident.any fun r => decide (r.addr ≤ a) && decide (a < r.addr + r.len)) ||
    (n.shadow.any fun w => w.en && decide (w.base ≤ a) && decide (a < w.limit)) ||
    (n.lists.any fun w => w.en && decide (w.base ≤ a) && decide (a < w.limit)) ||
    n.queues.any fun q => decide (q.2.ringBase ≤ a) && decide (a < q.2.ringBase + 64 * depthOf q.2)

/-- The references of a descriptor to other places that mean the moved node. -/
def refDesc (x : Rename) (nd : Node) (own : Bool) (d : Nat) : Nat :=
  let arr := fun (d : Nat) =>
    if dArriveEn d && dArriveRemote d && dArriveLt d == x.old && ownsNum x x.objs (dArriveObj d) then
      setFld (setFld d 75 10 x.new) 67 8 (renum x.objs (dArriveObj d))
    else if dArriveEn d && !dArriveRemote d && own then setFld d 67 8 (renum x.objs (dArriveObj d))
    else d
  let wait := fun (d : Nat) => if own && dWaitEn d then setFld d 119 8 (renum x.objs (dWaitObj d)) else d
  let qs := fun (d : Nat) =>
    if own then
      let d1 := [0, 1, 2].foldl (fun d i => match dIn d i with
        | some q => setFld d (39 - 6 * i) 6 (renum x.queues q)
        | none => d) d
      if dOutEn d1 then setFld d1 20 6 (renum x.queues (dOut d1)) else d1
    else d
  let body := fun (d : Nat) =>
    if dClass d = clsSync then
      if syncRemote d then
        if syncLt d = x.old && ownsNum x x.objs (syncObjField d) then
          setFld (setFld d 136 10 x.new) 128 8 (renum x.objs (syncObjField d))
        else d
      else if own then setFld d 128 8 (renum x.objs (syncObjField d)) else d
    else if dClass d = clsDma && (dOp d == 1 || dOp d == 2) then
      if mRemoteLt d = x.old && (x.rest || holdsAddr nd (mRemote d % 2 ^ 26)) then setFld d 180 10 x.new else d
    else if dClass d = clsDma && dOp d == 9 && own then setFld d 340 8 (renum x.objs (mParam1 d % 256))
    else if dClass d = clsSend && dOp d == 0 && !sFabric d && !sMulticast d then
      if sDestLt d = x.old && ownsNum x x.handlers (sHandler d) then
        setFld (setFld d 140 10 x.new) 150 8 (renum x.handlers (sHandler d))
      else d
    else d
  body (qs (wait (arr d)))

def refBits (x : Rename) (nd : Node) (own : Bool) (d : Desc) : Desc := BitVec.ofNat 512 (refDesc x nd own d.toNat)

/-- A node with every reference to the moved node rewritten; the moved node itself renumbered. -/
def renameNode (x : Rename) (moved : Node) (i : Nat) (n : Node) : Node :=
  let own := i == x.node
  let ds := fun (l : List Desc) => l.map (refBits x moved own)
  if own then { n with
    queues := n.queues.map fun e => (renum x.queues e.1, e.2)
    objects := n.objects.map fun e => (renum x.objs e.1, e.2)
    handlers := n.handlers.map fun e => (renum x.handlers e.1, { e.2 with
      descQueue := renum x.queues e.2.descQueue, argQueue := renum x.queues e.2.argQueue })
    streams := n.streams.map fun e => (renum x.queues e.1, ds e.2)
    chains := n.chains.map fun e => (renum x.handlers e.1, ds e.2)
    experts := n.experts.map fun e => (e.1, { e.2 with
      handler := renum x.handlers e.2.handler
      prologue := if e.2.cold then renum x.handlers e.2.prologue else e.2.prologue })
    compQueue := renum x.queues n.compQueue }
  else { n with streams := n.streams.map fun e => (e.1, ds e.2), chains := n.chains.map fun e => (e.1, ds e.2) }

/-- An image with one node moved: node records, page map and tail map. -/
def renameImage (im : Image) (x : Rename) : Image :=
  match im.nodes[x.node]? with
  | none => im
  | some moved =>
    { im with
      nodes := (nodesOf im).map fun e => renameNode x moved e.1 e.2
      pageMap := im.pageMap.map fun e =>
        if e.2.lt = x.old ∧ (x.rest || holdsAddr moved e.2.addr) = true then (e.1, { e.2 with lt := x.new }) else e
      tailMap := im.tailMap.map fun e =>
        if e.2.lt = x.old ∧ (x.rest || holdsAddr moved e.2.addr) = true then (e.1, { e.2 with lt := x.new }) else e }

/-- Moves the listed nodes one after another; the last node of each absent tile takes the references no other owns. -/
def renameAll (map : List (Nat × Nat)) : List (Nat × Nat) → Image → Image × List Rename
  | [], im => (im, [])
  | (i, old) :: t, im =>
    match im.nodes[i]? with
    | none => renameAll map t im
    | some n =>
      let x := renameOf im map old i n (!t.any fun y => y.2 == old)
      let r := renameAll map t (renameImage im x)
      (r.1, x :: r.2)

/-! ## Maps in scratchpad: multicast groups and expert maps (R176, R346) -/

/-- A multicast bitmap with the absent tile's place taken by the receiving one. -/
def renameBits (x : Rename) (b : List Byte) : List Byte :=
  let n := ofLe b
  if bitOf n x.old then leBytes (setFld (if x.rest then setFld n x.old 1 0 else n) x.new 1 1) b.length else b

/-- An expert-map entry of 8 bytes. -/
def renameEntry (own : Nat) (x : Rename) (b : List Byte) : List Byte :=
  let n := ofLe b
  if bitOf n 63 && (!bitOf n 31 || fld n 50 12 == own) && fld n 40 10 == x.old && ownsNum x x.handlers (fld n 32 8) then
    leBytes (setFld (setFld n 40 10 x.new) 32 8 (renum x.handlers (fld n 32 8))) 8
  else b

/-- Rewrites the maps that a tile holds for a list of moves. -/
def fixMaps (s : State) (g : Region) (im : Image) (xs : List Rename) (lt : Nat) : State :=
  let maps := im.expertMaps.filter fun e => sget 0x3FF g.loadedMap e.1 == lt
  xs.foldl (fun s x =>
    updTile s lt fun t =>
      let sp1 := (t.mcast.filter fun e => e.2.valid).foldl (fun sp e =>
        spadRestore sp e.2.mapAddr (renameBits x (spadRead sp e.2.mapAddr 72))) t.spad
      let sp2 := maps.foldl (fun sp m => (List.range im.experts).foldl (fun sp i =>
        spadRestore sp (m.2 + 8 * i) (renameEntry s.idn.deviceId x (spadRead sp (m.2 + 8 * i) 8))) sp) sp1
      { t with spad := sp2 }) s

/-! ## Writing a tile (Table 4.22, R343) -/

/-- The tile configuration, streams and chains of the nodes on a tile; queues empty, objects at their reset values (an object
that nothing has touched holds it), the reservation area cleared.  Handlers and multicast groups keep the REGION of the image
(DEDUCED, assumption 41).  Every codebook half becomes EMPTY (DESIGN CHOICE, log entry 142), and of two nodes on one tile whose expert
receive records have one number the lower node's stays (DESIGN CHOICE, log entry 149). -/
def configureTile (ns : List Node) (t : Tile) : Tile :=
  let put := fun {α : Type} (l : List (Nat × α)) => l.foldr (fun e m => sins e.1 e.2 (sdel e.1 m)) []
  let sp0 := spadClear { spadDrain t.spad with win := [] } 0x3800000 (0x7C0000 / 512)
  let sp1 := (ns.flatMap fun n => n.streams.map fun e => ((sget qcfgReset n.queues e.1).streamBase, e.2)).foldl
    (fun sp e => spadWrite sp e.1 (e.2.flatMap fun d => leBytes d.toNat 64)) sp0
  let sp2 := (ns.flatMap fun n => n.chains.map fun e => ((sget handlerReset n.handlers e.1).chainBase, e.2)).foldl
    (fun sp e => spadWrite sp e.1 (e.2.flatMap fun d => leBytes d.toNat 64)) sp1
  { t with
    spad := { spadDrain sp2 with win := ns.flatMap (·.shadow) }
    queues := [], objs := [], fired := [], rx := [], closedXfers := [], evicted := false, expState := []
    flows := [], waiting := [], returns := [], halves := []
    qcfg := put (ns.flatMap (·.queues)), objCfg := put (ns.flatMap (·.objects))
    handlers := put (ns.flatMap (·.handlers))
    experts := put (ns.flatMap (·.experts))
    mcast := put (ns.flatMap (·.mcast))
    lists := ns.flatMap (·.lists), protects := protectOf ns
    compQueue := (ns.head?).elim 0 (·.compQueue) }

/-- A tile with no configuration: what UNLOAD and REGION_DESTROY leave (R73, R318), its codebook halves EMPTY (DESIGN CHOICE, log entry
142). -/
def unconfigured (t : Tile) : Tile :=
  { t with
    spad := { spadDrain t.spad with win := [], sq := [], sqWait := [] }, qcfg := [], objCfg := [], objs := [], queues := [], handlers := []
    experts := [], expState := [], mcast := [], lists := [], protects := [], compQueue := 0, fired := [], flows := []
    waiting := [], returns := [], rx := [], closedXfers := [], evicted := false, halves := [] }

/-- Copies a range of the allotment to scratchpad, but for its poisoned granules. -/
def refillRange (s : State) (g : Region) (lt off addr len : Nat) : State :=
  (cleanPieces s (len / 512 + 2) (g.basinBase + off) 0 len).foldl (fun s p =>
    updTile s lt fun t => { t with spad := spadRestore t.spad (addr + p.1) (basinBytes s (g.basinBase + off + p.1) p.2) })
    (countPoison s (g.basinBase + off) len)

/-- Where a resident item's source begins in the allotment. -/
def residentOff (im : Image) (r : Resident) : Nat := (if r.cold then im.dir.cold.off else im.dir.weightImage.off) + r.off

/-- Fills the resident-data ranges of a node. -/
def fillResident (s : State) (g : Region) (im : Image) (lt : Nat) (n : Node) : State :=
  n.resident.foldl (fun s r => refillRange s g lt (residentOff im r) r.addr r.len) s

/-- Fills the shadow windows of a node from KV_SHADOW. -/
def fillShadow (s : State) (g : Region) (lt : Nat) (n : Node) : State :=
  (n.shadow.filter (·.en)).foldl (fun s w => refillRange s g lt w.off w.base (w.limit - w.base)) s

/-- Poisoned granules that a node's ranges meet: of its resident data, and of its windows. -/
def poisonOfNode (s : State) (g : Region) (im : Image) (n : Node) : List Nat × List Nat :=
  (n.resident.flatMap fun r => poisonIn s (g.basinBase + residentOff im r) r.len,
    (n.shadow.filter (·.en)).flatMap fun w => poisonIn s (g.basinBase + w.off) (w.limit - w.base))

/-! ## Weight digests (R364, R365) -/

/-- The weight digest of a node on a tile: the CRC over its WEIGHT_IMAGE ranges in scratchpad. -/
def nodeDigest (s : State) (lt : Nat) (n : Node) : BitVec 64 :=
  crc64 ((n.resident.filter fun r => !r.cold).flatMap fun r => spadRead (tileOf s lt).spad r.addr r.len)

/-- The reference digest of a node: the same CRC over WEIGHT_IMAGE. -/
def nodeRef (s : State) (g : Region) (im : Image) (n : Node) : BitVec 64 :=
  crc64 ((n.resident.filter fun r => !r.cold).flatMap fun r => basinBytes s (g.basinBase + residentOff im r) r.len)

/-- Numbers of the nodes on a tile. -/
def nodeNums (g : Region) (im : Image) (lt : Nat) : List Nat :=
  (List.range im.nodes.length).filter fun i => sget 0x3FF g.loadedMap i == lt

/-- Rebuilds a tile from Basin (R343, R352): valid bits cleared, configuration, streams and chains written, resident data and
windows filled, maps rewritten for earlier moves.  A poisoned granule of weights with no other copy stops the region with
BASIN_UE, one of the shadow with SHADOW_LOST (Table 10.4); so does a weight digest that differs from its reference. -/
def rebuildTile (s : State) (r lt : Nat) : State :=
  withRegion s r fun g =>
    match g.image with
    | none => updTile s lt fun t => { t with heldReset := false }
    | some im =>
      let is := nodeNums g im lt
      let ns := is.filterMap fun i => im.nodes[i]?
      let bad := ns.map (poisonOfNode s g im)
      let s1 := updTile s lt fun t => configureTile ns { t with
        heldReset := false, spad := { spadEmpty with mem := t.spad.mem } }
      let s2 := ns.foldl (fun s n => fillShadow (fillResident s g im lt n) g lt n) s1
      let s3 := fixMaps s2 g im g.renames lt
      let refs := (rfOf s3 r).refDigests
      let wrong := is.any fun i => match im.nodes[i]?, refs[i]? with
        | some n, some d => nodeDigest s3 lt n != d
        | _, _ => false
      let ue := fun (s : State) (l : List Nat) => l.foldl (fun s k => basinUeEvent s (512 * k)) s
      if bad.any fun b => b.2 != [] then
        stopRegion (regionEvent (ue s3 (bad.flatMap (·.2))) 0x0502 r (lostContexts s g ((bad.flatMap (·.2)).map fun k => 512 * k - g.basinBase))) r 0x0015
      else if (bad.any fun b => b.1 != []) || wrong then stopRegion (ue s3 (bad.flatMap (·.1))) r 0x0016
      else s3

/-! ## Loading an image (R132, R364) -/

/-- Where an image's nodes come to stand in a region: the rectangle's places, and displaced nodes placed under R130. -/
def placeImage (s : State) (g : Region) (im : Image) : Sum Shortfall (List (Nat × Nat)) :=
  let home := (nodesOf im).map fun x => (x.1, nodeHome g x.2)
  let disp := (nodesOf im).filter fun x => !present s (nodeHome g x.2)
  placeNodes im (regionTiles s g) disp (home.filter fun e => present s e.2)

/-- Displaced nodes of an image in a region with the absent tile of each. -/
def displacedOf (s : State) (g : Region) (im : Image) : List (Nat × Nat) :=
  ((nodesOf im).filter fun x => !present s (nodeHome g x.2)).map fun x => (x.1, nodeHome g x.2)

/-- The switch of a region to an image that has passed its checks: tiles configured, resident data filled, references rewritten
for displaced nodes, reference digests taken, contexts assigned. -/
def switchTo (s : State) (r : Nat) (g : Region) (im : Image) (map : List (Nat × Nat)) : State :=
  let rn := renameAll map (displacedOf s g im) im
  let s1 := updRegion s r fun g => { g with image := some rn.1, loadedMap := map, renames := rn.2, switching := false }
  let s2 := (regionTiles s1 g).foldl (fun s lt => updTile s lt (configureTile (nodesOn rn.1 map lt))) s1
  let g1 := { g with image := some rn.1, loadedMap := map }
  let s3 := (nodesOf rn.1).foldl (fun s x => fillResident s g1 rn.1 (sget 0x3FF map x.1) x.2) s2
  let s4 := (regionTiles s3 g).foldl (fun s lt => fixMaps s g1 rn.1 rn.2 lt) s3
  let refs := (nodesOf rn.1).map fun x =>
    if rn.2 = [] then nodeRef s g im x.2 else nodeDigest s4 (sget 0x3FF map x.1) x.2
  updRf s4 r fun f => { f with refDigests := refs, sinceWalk := 0, walk := none, ownDigest := none, ownOk := true }

end Sys2Proof.Machine
end

