-- ==== Sys2Proof/Machine/Boundary.lean ====
section
/-! DEFINITION. Boundary actions on sequences, images and Basin: admission, release, graph switch, stop and destroy, healing
(R17, R132, R138 to R140, R280, R319, R320). -/

namespace Sys2Proof.Machine

/-! ## Waiting actions -/

/-- The first waiting action of a region that satisfies a test. -/
def firstAct (g : Region) (p : BAct → Bool) : Option BEntry := g.boundary.find? fun b => p b.act

/-- Takes one waiting action off a region's list, and logs it where R17 lists its kind. -/
def takeAct (s : State) (r : Nat) (b : BEntry) : State :=
  updRegion s r fun g => { g with
    boundary := g.boundary.erase b
    boundaryLog := g.boundaryLog ++ (kindOf b.act).toList }

/-- Runs the next waiting action that satisfies a test, once everything before rank `k` is done. -/
def runAct (s : State) (r k : Nat) (p : BAct → Bool) (run : State → Region → BEntry → State) : State :=
  let s1 := settleMembers s r
  withRegion s1 r fun g =>
    match firstAct g p with
    | some b => if boundaryFree s1 r g k then run s1 g b else s1
    | none => s1

/-! ## Pool pages and page lists (R138, R144, R145) -/

/-- Pool pages that a context may take: its partition, or the whole pool. -/
def partitionOf (g : Region) (im : Image) (id : Nat) : List Nat :=
  if im.onePartition then List.range im.poolPages
  else
    let n := im.poolPages / Nat.max 1 g.ctxIds.length
    (List.range n).map fun k => n * ctxRank g id + k

def freePages (g : Region) (im : Image) (id : Nat) : List Nat :=
  (partitionOf g im id).filter fun p => !g.pool.any fun x => x.page == p

/-- Leading pages of a prompt that the pool already holds, in a pool with one partition: full pages with the same key (R145).  Which pages
are shared and when the spec leaves open: here those of a prompt region's admission, at most (PROMPT_TOKENS − 1) / 128 leading keyed
pages that another context has filled, and the position starts after them (DESIGN CHOICE, log entry 117). -/
def sharedPages (s : State) (g : Region) (im : Image) (b : AdmitBlock) (keys : List (BitVec 128)) : List Nat :=
  if !im.onePartition || g.role != .prompt then []
  else
    let found := (keys.take ((b.promptTokens - 1) / 128)).map fun k =>
      (g.pool.find? fun p => p.keyed && p.prefixKey == k && p.modelKey == b.modelKey && g.ctxIds.any fun c =>
        let x := ctxOf s c
        x.state != 0 && (List.range x.pageCount).any fun i => poolPageOf s x i == some p.page && decide (128 * (i + 1) ≤ x.position)).map
        (·.page)
    (found.takeWhile (·.isSome)).filterMap id

/-- Whether `n` page-list entries from `base` on are free. -/
def listFree (s : State) (base n : Nat) : Bool := s.pageList.all fun e => !(decide (base ≤ e.1) && decide (e.1 < base + n))

/-- Entries in use as (first, end) of maximal runs of free entries between them. -/
def freeRuns (used : List Nat) : Nat → List (Nat × Nat)
  | lo =>
    let r := used.foldl (fun (acc : Nat × List (Nat × Nat)) u =>
      if acc.1 < u then (u + 1, acc.2 ++ [(acc.1, u)]) else (Nat.max acc.1 (u + 1), acc.2)) (lo, [])
    if r.1 < 131072 then r.2 ++ [(r.1, 131072)] else r.2

/-- The first free run of the page-list store that holds `n` entries, and the longest run. -/
def listRun (s : State) (n : Nat) : Option Nat × Nat :=
  let runs := freeRuns (s.pageList.map (·.1)) 0
  ((runs.find? fun x => decide (n ≤ x.2 - x.1)).map (·.1), runs.foldl (fun m x => Nat.max m (x.2 - x.1)) 0)

/-! ## Admission (R138, R139) -/

/-- Check 3: the ranges of Table 5.1 (TEMPERATURE, TOP_P and TOP_K among them) and of Table 11.16. -/
def admitRanges (g : Region) (b : AdmitBlock) : Bool :=
  let t := b.temperature.toNat
  let p := b.topP.toNat
  decide (1 ≤ b.maxNew) && decide (1 ≤ b.maxPosition) && decide (b.maxPosition ≤ 524288) &&
    (t == 0 || (decide (0x3B800000 ≤ t) && decide (t ≤ 0x43800000))) && decide (0 < p) && decide (p ≤ 0x3F800000) &&
    decide (1 ≤ b.topK) && decide (b.topK ≤ 255) && decide (b.flags < 8) && decide (b.handoffMs ≤ 10000) &&
    (if g.role = .prompt then
      decide (1 ≤ b.promptTokens) && decide (b.promptTokens ≤ b.maxPosition) && decide (b.prefixKeys ≤ b.promptTokens / 128)
    else b.promptTokens == 0 && b.prefixKeys == 0)

/-- What an admission comes to: a status with the RESULT bytes, or the context, its pages, the shared ones first, and the base
of its list. -/
inductive Admit where
  | refused (status : Nat) (result : List Byte)
  | ok (id : Nat) (shared own : List Nat) (base : Nat)
deriving DecidableEq, Repr

/-- The checks of R138 in order. -/
def admitCheck (s : State) (g : Region) (im : Image) (b : AdmitBlock) (keys : List (BitVec 128)) : Admit :=
  let short := fun (res need have_ : Nat) => Admit.refused 0x0004 (shortBytes ⟨res, 0x3FF, 0xFFFF, need, have_, 0⟩)
  match g.ctxIds.find? fun c => (ctxOf s c).state == 0 with
  | none => short 0x08 1 0
  | some id =>
    if (ctxByKey s g b.seqKey).isSome || !admitRanges g b then .refused 0x0003 []
    else
      let n := ceilDiv b.maxPosition 128
      let sh := sharedPages s g im b keys
      let fr := freePages g im id
      if fr.length < n - sh.length then short 0x0C n fr.length
      else
        match listRun s n with
        | (some base, _) => .ok id sh (fr.take (n - sh.length)) base
        | (none, run) => short 0x0D n run

/-- The context record of an admitted sequence (Table 5.1).  Shared pages count as pages that it has, under a step number that no step
has. -/
def admitted (s : State) (r : Nat) (g : Region) (b : AdmitBlock) (tokens : List Nat) (keys : List (BitVec 128)) (shared base : Nat) : Ctx :=
  { ctxReset with
    region := r, state := if b.flags / 2 % 2 = 1 then 1 else 2
    seqKey := b.seqKey, seed := b.seed, modelKey := b.modelKey, position := 128 * shared
    lastToken := b.lastToken, maxNew := b.maxNew, maxPosition := b.maxPosition, stopIds := b.stopIds
    temperature := b.temperature, topP := b.topP, topK := b.topK, flags := b.flags
    pageBase := base, pageCount := ceilDiv b.maxPosition 128
    deadline := s.now + (if b.handoffMs = 0 then 100 else b.handoffMs) * cyclesPerMs
    prompt := if g.role = .prompt then tokens else [], prefixKeys := keys
    genGroup := b.genGroup, cacheGroup := b.cacheGroup, hits := shared
    pagesIn := (List.range shared).map fun i => ⟨i, 2 ^ 64, 0, b.genGroup, 2 ^ 8, 2 ^ 8⟩
    covered := if shared = 0 then [] else [⟨b.genGroup, 2 ^ 64, 0, shared - 1, b.seqKey⟩] }

/-- Page-list entries of a region's contexts that name one of the pages become SHARED (R145). -/
def markShared (s : State) (g : Region) (pages : List Nat) : State :=
  let mine := fun (k : Nat) => g.ctxIds.any fun c => decide ((ctxOf s c).pageBase ≤ k) && decide (k < (ctxOf s c).pageBase + (ctxOf s c).pageCount)
  { s with pageList := s.pageList.map fun e =>
      if mine e.1 && bitOf e.2 31 && pages.contains (fld e.2 0 20) then (e.1, setFld e.2 30 1 1) else e }

/-- Admits a sequence: context, page list and pages.  The lookups of a prompt begin at the first key that no shared page answers,
and the shared pages leave for the generation group (DESIGN CHOICE, log entry 118). -/
def admitNow (s : State) (r : Nat) (g : Region) (b : AdmitBlock) (tokens : List Nat) (keys : List (BitVec 128))
    (id : Nat) (sh own : List Nat) (base : Nat) : State :=
  let c := admitted s r g b tokens keys sh.length base
  let ents := sh.map (fun p => 2 ^ 31 + 2 ^ 30 + p) ++ own.map fun p => 2 ^ 31 + p
  let s0 := markShared s g sh
  let s1 := { s0 with pageList := (List.zip (List.range ents.length) ents).foldl (fun l e => sins (base + e.1) e.2 l) s0.pageList }
  let s2 := updRegion s1 r fun g => { g with
    pool := (g.pool.map fun x => if sh.contains x.page then { x with refs := x.refs + 1, shared := true } else x) ++
      (List.zip (List.range own.length) own).map fun e =>
        ⟨e.2, 1, false, keys.getD (sh.length + e.1) 0, b.modelKey, decide (sh.length + e.1 < keys.length)⟩ }
  let s3 := setCtx s2 id c
  let s3 := if g.role == .prompt then sharedOut s3 r g id sh.length else s3
  if g.role == .prompt && decide (sh.length < keys.length) && b.cacheGroup != noGroup then startLookup s3 r id sh.length else s3

/-- The next admission that waits at the region's boundary. -/
def nextAdmission (s : State) (r : Nat) : State :=
  runAct s r 9 (fun a => match a with | .admitSeq _ _ _ => true | _ => false) fun s g b =>
    match b.act, g.image with
    | .admitSeq blk tokens keys, some im =>
      let s1 := takeAct s r b
      match admitCheck s g im blk keys with
      | .refused st res => finishOpt s1 b.req st res
      | .ok id sh own base => finishOpt (admitNow s1 r g blk tokens keys id sh own base) b.req csSuccess (leBytes id 2)
    | _, _ => finishOpt (takeAct s r b) b.req 0x0008 []

/-! ## Release (R140) -/

/-- Frees a context, its page-list entries, and each page whose reference count falls to zero. -/
def freeCtx (s : State) (r id : Nat) : State :=
  let c := ctxOf s id
  let pages := (List.range c.pageCount).filterMap (poolPageOf s c)
  let s1 := { s with pageList := s.pageList.filter fun e => !(decide (c.pageBase ≤ e.1) && decide (e.1 < c.pageBase + c.pageCount)) }
  let s2 := updRegion s1 r fun g => { g with
    pool := (g.pool.map fun x => if pages.contains x.page then { x with refs := x.refs - 1 } else x).filter fun x => x.refs != 0
    ledger := g.ledger.map fun e => { e with tokens := e.tokens.filter fun t => t.ctx != id || t.delivered } }
  setCtx s2 id ctxReset

/-- The next release that waits; its completion reports the tokens that the host had not read. -/
def nextRelease (s : State) (r : Nat) : State :=
  runAct s r 8 (fun a => match a with | .release _ => true | _ => false) fun s g b =>
    let s1 := takeAct s r b
    match b.act with
    | .release key =>
      match ctxByKey s g key with
      | none => finishOpt s1 b.req 0x0003 []
      | some id => finishOpt (freeCtx s1 r id) b.req csSuccess (leBytes (ctxOf s id).undelivered 4)
    | _ => s1

/-! ## Graph switch and unload (R132, R136, R320) -/

/-- Contexts that no region reserves. -/
def freeCtxIds (s : State) : List Nat := (List.range 1024).filter fun c => !s.regions.any fun e => e.2.ctxIds.contains c

/-- Returns a region to holding no image; a degraded one stays degraded (R320). -/
def unloadImage (s : State) (r : Nat) (g : Region) : State :=
  let s1 := (rectLts g).foldl (fun s lt => updTile s lt unconfigured) s
  let s2 := updRegion s1 r fun g => { g with
    image := none, ctxIds := [], pool := [], loadedMap := [], renames := [], rstate := if g.degraded then .degraded else .empty, switching := false
    ledger := g.ledger.filter (·.final), cache := [], pushes := [] }
  updRf s2 r fun f => { f with refDigests := [], walk := none, ownDigest := none }

/-- Tiles of a region whose configuration digest does not match after their one reload are handled as failed tiles (R132, Table 13.6). -/
def failConfigs (s : State) (r : Nat) (bad : List Nat) : State :=
  (bad.eraseDups.filter fun lt => ltOk lt && regionOfLt s lt == r).foldl (fun s lt =>
    let pos := posOf s lt
    palacy (declareFailed (posEvent s 0x0607 pos 0 0xFF []) pos) r (chargeAt s r (posKey 0 pos 0) 0 0x0D 0 lt pos []) 3 2 0) s

/-- The queue wiring of a new graph goes into the inactive version, and the flip to it waits (Table 4.22, step 5). -/
def awaitFlip (s : State) (r : Nat) : State :=
  updRegion s r fun g => { g with boundary := g.boundary ++ [⟨.flip, none, s.orderNo⟩] }

/-- GRAPH_SWITCH: at the boundary the region switches to an image that has passed its checks; what has changed since then (a tile
gone absent, contexts reserved elsewhere) refuses it with CAPACITY.  An image that is unloaded leaves with STOP_AT_BOUNDARY.  `bad` lists
the tiles whose configuration digest does not match twice. -/
def execGraphSwitch (r : Nat) (s : State) (bad : List Nat := []) : Out :=
  onRegion r s fun _ => runAct s r 7 (fun a => match a with | .load _ => true | _ => false) fun s g b =>
    let s1 := updRegion (takeAct s r b) r fun g => { g with switching := false }
    match b.act with
    | .load im =>
      let avail := (freeCtxIds s ++ g.ctxIds).foldl (fun l c => setIns c l) []
      match placeImage s g im with
      | .inl x => finishOpt s1 b.req 0x0004 (shortBytes x)
      | .inr map =>
        if avail.length < im.contexts then
          finishOpt s1 b.req 0x0004 (shortBytes ⟨0x08, 0x3FF, 0xFFFF, im.contexts, avail.length, 0⟩)
        else
          let s2 := unloadImage s1 r g
          let s3 := updRegion s2 r fun g => { g with
            ctxIds := avail.take im.contexts, rstate := if g.running then .running else .loaded
            step := 0, attempt := 0, discards := 0, lastCommitted := none, mstate := .idle, readyFrom := [] }
          failConfigs (finishOpt (awaitFlip (switchTo s3 r g im map) r) b.req csSuccess []) r bad
    | _ => s1

/-! ## Stop, unload and destroy (R319, R320, R326) -/

/-- Destroys a Silt namespace (R287): its transactions fail, its key slot is cleared, and then the blocks that held its data alone are erased. -/
def destroyNs (s : State) (h : Nat) : State :=
  let s1 := (s.silt.txns.filter fun t => t.ns == h).foldl (fun s t => failTxn s t 0x52) s
  let held := ((nsOf s1 h).units.map fun u => u.2.sb).eraseDups
  let s2 := updSilt s1 fun x => { x with
    nss := sdel h x.nss, txns := x.txns.filter fun t => t.ns != h, maps := sdel h x.maps, journal := x.journal.filter fun r => r.ns != h }
  held.foldl (reclaimSuper []) s2

/-- What becomes of a lost region's namespaces (R319, R397). -/
def dropNamespaces (s : State) (r : Nat) : State :=
  (s.silt.nss.filter fun n => n.2.owner == r).foldl (fun s n =>
    if n.2.persist then updNs s n.1 fun x => { x with owner := 16 } else destroyNs s n.1) s

/-- Region of a position by R208: of the logical tile it holds, else of the nearest one to its west in the row. -/
def footprintOf (s : State) (pos : Nat) : Nat :=
  let row := pos / 26
  (((List.range (pos % 26 + 1)).reverse).findSome? fun px =>
    let lt := ltAt s (26 * row + px)
    if lt = 0x3FF then none else some (regionOfLt s lt)).getD 31

/-- Rewrites every router's region register (R208). -/
def setFootprints (s : State) : State :=
  (List.range 624).foldl (fun s p =>
    let f := footprintOf s p
    if (routerOf s p).region = f then s
    else updRouter s p fun r => { r with prevRegion := r.region, region := f, regionAt := s.now }) s

/-- The requests still open on a region complete with a status. -/
def endRequests (s : State) (r status : Nat) (keep : Option (Nat × Nat)) : State :=
  (List.range 17).foldl (fun s f =>
    ((fnOf s f).requests.filter fun q => q.region == r && !q.finished && some (f, q.id) != keep).foldl (fun s q =>
      finishReq s f q.id status []) s) s

/-- Takes a region out of every table outside its tiles; its tiles and peers are noted. -/
def forgetRegion (s : State) (r : Nat) (g : Region) : State :=
  let s1 := { s with
    rf := sdel r s.rf
    scans := s.scans.filter fun x => !meets (x.addr, x.len) (g.basinBase, g.basinGib * gib)
    silt := dropTxns s.silt fun t => t.region == r
    sec := { s.sec with regionKeys := s.sec.regionKeys.filter (· != r) }
    pwr := { s.pwr with p1 := s.pwr.p1.filter (· != r) } }
  { delRegion s1 r with fab := { s.fab with
    ended := s.fab.ended ++ [(rectLts g, g.peers.map fun p => (p.device, p.region))] } }

/-- REGION_DESTROY at the boundary: everything of the region is freed, the allotment is zeroised; its tiles and peers are noted, for
what arrives for it later is answered PEER_GONE. -/
def destroyRegion (s : State) (r : Nat) (g : Region) (keep : Option (Nat × Nat)) : State :=
  let s0 := match (rfOf s r).shadow with
    | some _ => detach s r 0x000B []
    | none => s
  let s1 := endRequests s0 r 0x000B keep
  let s2 := g.ctxIds.foldl (fun s c => freeCtx s r c) s1
  let s3 := (rectLts g).foldl (fun s lt => updTile s lt fun t => { unconfigured t with region := 31 }) s2
  let s4 := (List.range 4).foldl (fun s d => updEngine s d fun e => { e with
    queues := e.queues.filter fun q => q.2.region != r
    flows := e.flows.filter fun f => f.x.fid != r, rx := e.rx.filter fun f => f.region != r }) s3
  let s5 := basinZero (dropNamespaces s4 r) g.basinBase (g.basinGib * gib)
  setFootprints (forgetRegion s5 r g)

/-- STOP_AT_BOUNDARY: the next stop, unload or destroy that waits at the region's boundary.  RUN ends OK at a STOP, with the
status that a disable or a silent host gave otherwise. -/
def execStopAtBoundary (r : Nat) (s : State) : Out :=
  onRegion r s fun _ =>
    let s1 := settleMembers s r
    withRegion s1 r fun g =>
      match g.boundary.find? fun b => match b.act with | .unload => true | .stop _ => true | .destroy => true | _ => false with
      | none => s1
      | some b =>
        if boundaryFree s1 r g (actRank b.act) then
          let s2 := takeAct s1 r b
          match b.act with
          | .stop st => finishOpt (stopRegion s2 r st) b.req csSuccess []
          | .unload =>
            if g.ctxIds.any fun c => (ctxOf s1 c).state != 0 then finishOpt s2 b.req 0x0006 []
            else finishOpt (unloadImage (stopRegion s2 r csSuccess) r g) b.req csSuccess []
          | .destroy => finishOpt (destroyRegion (stopRegion s2 r 0x000B) r g b.req) b.req csSuccess []
          | _ => s1
        else s1

/-! ## Healing (R280) -/

/-- Scratchpad places of byte `o` of an allotment: in the resident ranges that nodes fill from WEIGHT_IMAGE, and in a window. -/
def copyPlaces (s : State) (g : Region) (im : Image) (o : Nat) : List (Nat × Nat) :=
  ((nodesOf im).flatMap fun x => (x.2.resident.filter fun r =>
      !r.cold && decide (residentOff im r ≤ o) && decide (o < residentOff im r + r.len)).map fun r =>
    (sget 0x3FF g.loadedMap x.1, r.addr + (o - residentOff im r))) ++ (windowAddr s g o).toList

/-- Whether a place holds a committed copy: its tile is present, runs and awaits no refill, and the word is valid. -/
def copySound (s : State) (g : Region) (x : Nat × Nat) : Bool :=
  present s x.1 && !(tileOf s x.1).heldReset && (tileOf s x.1).spad.valid.contains (x.2 / 64) &&
    !g.boundary.any fun b => b.act == .refill x.1

/-- The scratchpad byte that equals byte `o` of an allotment, from the first place that holds a copy. -/
def residentByte (s : State) (g : Region) (im : Image) (o : Nat) : Option Byte :=
  ((copyPlaces s g im o).find? (copySound s g)).map fun x => spadByte (tileOf s x.1).spad x.2

/-- Rewrites one poisoned granule from its copy, when all of it has one. -/
def healGranule (s : State) (g : Region) (im : Image) (k : Nat) : State :=
  let bs := (List.range 512).map fun i => residentByte s g im (512 * k + i - g.basinBase)
  if bs.all (·.isSome) then
    updBsn (basinPut s (512 * k) (bs.map fun b => b.getD 0)) (stackOf (512 * k)) fun c => { c with healed := satAdd c.healed 1 32 }
  else s

/-- BASIN_HEALING: every poisoned granule of WEIGHT_IMAGE or KV_SHADOW that has a copy in scratchpad. -/
def execBasinHealing (r : Nat) (s : State) : Out :=
  onRegion r s fun _ => runAct s r 1 (fun a => a == .heal) fun s g b =>
    let s1 := takeAct s r b
    match g.image with
    | none => s1
    | some im => (poisonIn s1 g.basinBase (g.basinGib * gib)).foldl (fun s k =>
        let o := 512 * k - g.basinBase
        if inRange im.dir.weightImage o 512 || inRange im.dir.kvShadow o 512 then healGranule s g im k else s) s1

end Sys2Proof.Machine
end

