-- ==== Sys2Proof/Machine/Castling.lean ====
section
/-! DEFINITION. Castling, absent tiles, re-placement and refill in place (R340 to R347, R352, Table 12.8). -/

namespace Sys2Proof.Machine

/-! ## Absent tiles (R345) -/

/-- What an absent tile costs its region: TILE_ABSENT and a re-placement that waits for the boundary. -/
def absentEvent (s : State) (r lt pos : Nat) : State :=
  let s1 := postEvent s ⟨0x0602, r, lt, pos % 26, pos / 26, 0, 0xFF, funcOfRegion s r, stepOf s r, []⟩
  updRegion s1 r fun g => { g with boundary := g.boundary ++ [⟨.rePlace lt, none, s.orderNo⟩] }

/-- Marks a logical tile absent: its position is fenced and recorded failed; its entries of a WRITABLE version are not VALID, and
those of the other when the next flip comes (R203). -/
def makeAbsent (s : State) (lt : Nat) : State :=
  let pos := posOf s lt
  let r := regionOfLt s lt
  let s1 := setTilePos s pos { coreReset (tileAtPos s pos) with heldReset := true, fenced := true }
  let s2 := [0, 1].foldl (fun s v => if verState s v = .writable then invalidate s v [lt] else s) s1
  let s3 := noteSpares { s2 with
    absent := setIns lt s2.absent
    rep := { s2.rep with declared := setDel pos s2.rep.declared, failed := setIns pos s2.rep.failed } }
  if (regionOf s r).isSome then absentEvent s3 r lt pos else s3

/-! ## Castling -/

/-- Logical tiles from the failed one to the die's eastern edge, with where each stands and where it goes. -/
def castleMoves (s : State) (pos lt : Nat) : List (Nat × Nat × Nat) :=
  ((rowTiles (rowOfPos pos)).filter fun l => decide (lt ≤ l) && !s.absent.contains l).map fun l => (l, posOf s l, posOf s l + 1)

/-- Whether the row can be castled for a position: its spare is free and every position between is sound. -/
def rowFree (s : State) (pos : Nat) : Bool :=
  let sp := sparePos (rowOfPos pos)
  let between := (List.range (sp - pos)).map fun i => pos + 1 + i
  decide (pos < sp) && ltAt s sp == 0x3FF &&
    between.all fun p => !s.rep.failed.contains p && !s.rep.declared.contains p

/-- Whether another position of the row, further east, is declared failed too (Table 12.8). -/
def eastDeclared (s : State) (pos : Nat) : Bool :=
  s.rep.declared.any fun p => rowOfPos p == rowOfPos pos && decide (pos < p)

/-- Regions that own a moving tile. -/
def moveRegions (s : State) (ms : List (Nat × Nat × Nat)) : List Nat :=
  ((ms.map fun m => regionOfLt s m.1).filter fun r => (regionOf s r).isSome).eraseDups

/-- Castling starts: the halt datum switches the links, and every moving tile's copy begins. -/
def startCastle (s : State) (pos lt : Nat) (ms : List (Nat × Nat × Nat)) (rs : List Nat) : State :=
  let s1 := { s with rep := { s.rep with
    castle := some { failed := pos, lt := lt, moves := ms, held := rs, done := [], rebuild := [lt], lost := [] }
    held := rs.foldl (fun l r => setIns r l) s.rep.held } }
  rs.foldl (fun s r => updRegion (dropAct s r (fun a => a == .castle pos)) r fun g => { g with
    boundary := g.boundary ++ [⟨.flip, none, s.orderNo⟩] }) s1

/-- The failed tile becomes absent instead. -/
def absentInstead (s : State) (pos lt : Nat) : State :=
  let rs := s.regions.map (·.1)
  makeAbsent (rs.foldl (fun s r => updRegion s r fun g => { g with
    boundary := g.boundary.filter fun b => b.act != BAct.castle pos }) { s with rep := { s.rep with held := [] } }) lt

/-- CASTLING: a position declared failed, at the boundary of its region, one castling at a time.  Regions created with REPAIR_PAUSE are held until all
stand together; without it, or with no spare, the tile becomes absent. -/
def execCastling (pos : Nat) (s : State) : Out :=
  needUnit (posOk pos)
    (let lt := ltAt s pos
     let r := regionOfLt s lt
     let ready := (regionOf s r).all fun g => boundaryFree s r g 2
     if !s.rep.declared.contains pos || lt == 0x3FF || s.rep.castle.isSome || !ready then .next s
     else
      let ms := castleMoves s pos lt
      let others := (moveRegions s ms).filter (· != r)
      let pause := others.all fun o => (regionOf s o).all (·.repairPause)
      if eastDeclared s pos || !rowFree s pos || !pause then .next (absentInstead s pos lt)
      else if others.all fun o => (regionOf s o).all fun g => boundaryFree s o g 2 then .next (startCastle s pos lt ms (moveRegions s ms))
      else .next { s with rep := { s.rep with held := others.foldl (fun l o => setIns o l) s.rep.held } })

/-- The logical tile that moves away from a position in a castling. -/
def movingFrom (c : Castle) (pos : Nat) : Option Nat := (c.moves.find? fun m => m.2.1 == pos).map (·.1)
/-- The logical tile that a position is to hold. -/
def movingTo (c : Castle) (pos : Nat) : Option Nat := (c.moves.find? fun m => m.2.2 == pos).map (·.1)

/-- POSITION_FAILED: the position is declared failed.  One that shifts in the castling under way loses the tile bound for it, and
the tile it was the source of is rebuilt. -/
def execPositionFailed (pos : Nat) (s : State) : Out :=
  needUnit (posOk pos)
    (match s.rep.castle with
      | none => .next (declareFailed s pos)
      | some c =>
        let c1 := match movingTo c pos with
          | some lt => { c with lost := setIns lt c.lost, done := setIns lt c.done }
          | none => c
        let c2 := match movingFrom c pos with
          | some lt => if lt = c.lt then c1 else { c1 with rebuild := setIns lt c1.rebuild, done := setIns lt c1.done }
          | none => c1
        if (movingTo c pos).isSome || (movingFrom c pos).isSome then .next { s with rep := { s.rep with castle := some c2 } }
        else .next (declareFailed s pos))

/-- What a tile carries to a new position, its merge buffer emptied first (R86); error counts, fences and gating belong to the position. -/
def carryTile (src dst : Tile) : Tile :=
  { src with
    spad := chargeWr (chargeRd (spadDrain src.spad) scrubLines) scrubLines
    ceBank := dst.ceBank, ceTile := dst.ceTile, scrubLine := dst.scrubLine, scrubSlot := dst.scrubSlot
    heldReset := false, fenced := false, clockGated := dst.clockGated }

/-- Payload of CASTLED: the row, the failed position, and the logical tiles moved. -/
def castledPayload (c : Castle) : List Byte :=
  let w := rowOfPos c.failed
  leBytes w.1 1 ++ leBytes w.2 1 ++ leBytes (c.failed % 26) 1 ++ leBytes (c.failed / 26) 1 ++ (c.moves.flatMap fun m => leBytes m.1 2)

/-- CASTLING_COMPLETE: copies done and the planned flip in force; the map and the failed-position list change, tiles without a
copy are rebuilt, CASTLED is posted and the held regions are released. -/
def execCastlingComplete (s : State) : Out :=
  match s.rep.castle with
  | none => .next s
  | some c =>
    let copied := c.moves.all fun m => m.1 == c.lt || c.done.contains m.1
    let flipped := c.held.all fun r => (regionOf s r).all fun g => !g.boundary.any fun b => b.act == BAct.flip
    if !copied || !flipped then .next s
    else
      let good := c.moves.filter fun m => !c.lost.contains m.1
      let s1 := { s with tiles := good.foldl (fun ts m =>
        let t := carryTile (tileAtPos s m.2.1) (tileAtPos s m.2.2)
        sset tileReset ts m.2.2 (if m.1 = c.lt then { t with spad := spadEmpty } else t)) s.tiles }
      let lostPos := (c.moves.filter fun m => c.lost.contains m.1).map (·.2.2)
      let s2 := setTilePos s1 c.failed { coreReset (tileAtPos s1 c.failed) with heldReset := true, fenced := true }
      let s3 := { s2 with
        ltMap := c.moves.foldl (fun l m => sins m.1 m.2.2 (sdel m.1 l)) s2.ltMap
        rep := { s2.rep with
          declared := s2.rep.declared.filter fun p => p != c.failed && !lostPos.contains p
          failed := setIns c.failed s2.rep.failed
          castle := none, held := [] } }
      let s4 := ((c.rebuild ++ c.spoiled).eraseDups.filter fun l => !c.lost.contains l).foldl (fun s l =>
        let r := regionOfLt s l
        if (regionOf s r).isSome then rebuildTile s r l else updTile s l coreReset) s3
      let s5 := c.lost.foldl (fun s l => makeAbsent s l) s4
      let s6 := setFootprints (noteSpares s5)
      let r := regionOfLt s c.lt
      .next (postEvent s6
        { code := 0x0601, region := if r < 16 then r else 0xFF, lt := c.lt, px := c.failed % 26, py := c.failed / 26, unit := 0
          sub := 0xFF, func := funcOfRegion s r, step := stepOf s r, payload := castledPayload c })

/-! ## Re-placement (R346, R347) -/

/-- A region that re-placement cannot serve: it stays at its boundary, degraded. -/
def degradeRegion (s : State) (r : Nat) (payload : List Byte) : State :=
  let s1 := updRegion (endRun (postRunState s r .degraded) r 0x000E) r fun g => { g with degraded := true }
  regionEvent s1 0x0603 r payload

/-- Tables, streams and chains of a tile written again, with what it holds left as it is. -/
def rewriteTile (ns : List Node) (t : Tile) : Tile :=
  let t1 := configureTile ns t
  let keep := t.objs.filter fun e => (objCfgOf t e.1).firmware
  let sp1 := (ns.flatMap fun n => n.streams.map fun e => ((sget qcfgReset n.queues e.1).streamBase, e.2)).foldl
    (fun sp e => spadWrite sp e.1 (e.2.flatMap fun d => leBytes d.toNat 64)) { spadDrain t.spad with win := [] }
  let sp2 := (ns.flatMap fun n => n.chains.map fun e => ((sget handlerReset n.handlers e.1).chainBase, e.2)).foldl
    (fun sp e => spadWrite sp e.1 (e.2.flatMap fun d => leBytes d.toNat 64)) sp1
  { t1 with spad := { spadDrain sp2 with win := ns.flatMap (·.shadow) }, objs := keep, halves := t.halves }

/-- Re-places the displaced nodes of a region on the tiles that a placement gives them. -/
def replaceNodes (s : State) (r : Nat) (g : Region) (im : Image) (map : List (Nat × Nat)) (disp : List (Nat × Nat)) : State :=
  let rn := renameAll map disp im
  let all_ := g.renames ++ rn.2
  let g1 := { g with image := some rn.1, loadedMap := map, renames := all_ }
  let s1 := updRegion s r fun g => { g with
    image := some rn.1, loadedMap := map, renames := all_
    boundary := g.boundary ++ [⟨.flip, none, s.orderNo⟩] }
  let s2 := (regionTiles s1 g).foldl (fun s lt => updTile s lt (rewriteTile (nodesOn rn.1 map lt))) s1
  let moved := disp.filterMap fun e => rn.1.nodes[e.1]?.map fun n => (sget 0x3FF map e.1, n)
  let s3 := moved.foldl (fun s x => fillShadow (fillResident s g1 rn.1 x.1 x.2) g1 x.1 x.2) s2
  let s4 := (regionTiles s3 g).foldl (fun s lt => fixMaps s g1 rn.1 all_ lt) s3
  let holdsMap := fun (i : Nat) => (rn.1.expertMaps.any fun e => e.1 == i) || rn.1.nodes[i]?.any fun n => n.mcast != []
  let refOf := fun (e : Nat × BitVec 64) =>
    if holdsMap e.1 then rn.1.nodes[e.1]?.elim e.2 (nodeDigest s4 (sget 0x3FF map e.1)) else e.2
  let s5 := updRf s4 r fun f => { f with refDigests := (List.zip (List.range f.refDigests.length) f.refDigests).map refOf }
  let bad := moved.map fun x => poisonOfNode s g im x.2
  let ue := fun (s : State) (l : List Nat) => l.foldl (fun s k => basinUeEvent s (512 * k)) s
  if bad.any fun b => b.2 != [] then stopRegion (regionEvent (ue s5 (bad.flatMap (·.2))) 0x0502 r (lostContexts s g ((bad.flatMap (·.2)).map fun k => 512 * k - g.basinBase))) r 0x0015
  else if bad.any fun b => b.1 != [] then stopRegion (ue s5 (bad.flatMap (·.1))) r 0x0016
  else s5

/-- RE_PLACEMENT: the nodes of an absent tile are placed under R130; when one does not fit the region becomes degraded. -/
def execRePlacement (r lt : Nat) (s : State) : Out :=
  needUnit (ltOk lt)
    (onRegion r s fun _ => runAct s r 3 (fun a => a == .rePlace lt) fun s g b =>
      let s1 := takeAct s r b
      match g.image with
      | none => s1
      | some im =>
        let disp := (nodesOf im).filter fun x => sget 0x3FF g.loadedMap x.1 == lt
        let rest := g.loadedMap.filter fun e => e.2 != lt
        match placeNodes im (regionTiles s1 g) disp rest with
        | .inl x => degradeRegion s1 r (shortBytes x)
        | .inr map => replaceNodes s1 r g im map (disp.map fun x => (x.1, lt)))

/-- REFILL_IN_PLACE: a tile whose core was reset, or whose weights a digest walk found wrong, is rebuilt where it stands. -/
def execRefillInPlace (r lt : Nat) (s : State) : Out :=
  needUnit (ltOk lt)
    (onRegion r s fun _ => runAct s r 4 (fun a => a == .refill lt) fun s _ b =>
      let s1 := takeAct s r b
      if present s lt && !(tileOf s lt).fenced then rebuildTile s1 r lt else s1)

end Sys2Proof.Machine
end

