-- ==== Sys2Proof/Machine/RecorderRows.lean ====
section
/-! DEFINITION. The event recorder's rows: an occurrence posted, the end of a flood window, extreme records, the trickle to the
event log, dropped alarms, and the flush (R378 to R387). -/

namespace Sys2Proof.Machine

/-- Stores a record that is not folded: counted in its code's interval, and in the histogram in flood mode. -/
def storeCounted (s : State) (o : Occurrence) (mark : EvRec → EvRec) : State :=
  match codeClass o.code with
  | none => s
  | some c =>
    let r := floodCount s o
    let s1 := { s with recorder := { s.recorder with floods := r.1 } }
    if r.2 then { s1 with recorder := { s1.recorder with recFlood := satAdd s1.recorder.recFlood 1 48 } }
    else storeRecord s1 (mark (recordOf s1 c o))

/-- PAYLOAD of an EXTREME record: number, minimum and maximum, and their times. -/
def extremePayload (x : Extreme) : List Byte :=
  leBytes x.num 1 ++ zeros 3 ++ leBytes (ofInt x.min 32) 4 ++ leBytes (ofInt x.max 32) 4 ++ zeros 4 ++ leBytes x.minAt 8 ++
    leBytes x.maxAt 8

/-- One EXTREME record for each quantity that has changed since its last record (R382). -/
def postExtremes (s : State) : State :=
  let s1 := (s.recorder.extremes.filter (·.changed)).foldl (fun s x =>
    storeCounted s ⟨0x0704, 0xFF, 0x3FF, 0xFF, 0xFF, 0, 0xFF, 0xFF, 0, extremePayload x⟩ fun e => { e with extreme := true }) s
  { s1 with recorder := { s1.recorder with extremes := s1.recorder.extremes.map fun x => { x with changed := false } } }

/-- The flush of R385: extreme records first (R382), then every unwritten record goes to the event log, class 0 first. -/
def flushRecords (s : State) : State :=
  let s1 := postExtremes s
  { s1 with recorder := flushLog s1.recorder }

/-- EVENT_POST. -/
def execEventPost (o : Occurrence) (s : State) : Out := .next (postEvent s o)

/-- The FLOOD_HIST record of a code in flood mode: the source fields of its first counted occurrence, CODE included, with HIST
set, the eight bins, and the window as TIME and SPAN_MS. -/
def floodRecord (s : State) (f : Flood) (o : Occurrence) : EvRec :=
  let sec := f.first / cyclesPerSec
  { recordOf s 3 o with
    hist := true, at_ := sec * cyclesPerSec, secs := s.secsBase + sec, spanMs := 1000
    payload := f.bins.flatMap fun n => leBytes n 4 }

/-- Whether a flood's window is over. -/
def windowOver (s : State) (f : Flood) : Bool := f.flooding && decide (f.first / cyclesPerSec < s.now / cyclesPerSec)

/-- FLOOD_WINDOW_END: one FLOOD_HIST record for each code in flood mode, which then leaves it. -/
def execFloodWindowEnd (s : State) : Out :=
  let ended := s.recorder.floods.filter (windowOver s)
  let s1 := ended.foldl (fun s f => f.occ.elim s fun o => storeRecord s (floodRecord s f o)) s
  .next { s1 with recorder := { s1.recorder with
    floods := s1.recorder.floods.filter fun f => !ended.any fun x => x.code == f.code } }

/-- EXTREME_TICK: once per interval. -/
def execExtremeTick (s : State) : Out :=
  whenB (decide (s.recorder.extremeAt + s.recorder.extremeSecs * cyclesPerSec ≤ s.now)) s
    (let s1 := postExtremes s
     { s1 with recorder := { s1.recorder with extremeAt := s.now } })

/-- LOG_TRICKLE: the unwritten records of the buffer reach the event log in sequence order. -/
def execLogTrickle (s : State) : Out :=
  .next { s with recorder := (s.recorder.buffer.filter fun e => !e.flushed).foldl logRecord s.recorder }

/-- ALARM_DROPPED_REPORT: with 16 places free and a count grown since the last report. -/
def execAlarmDroppedReport (func : Nat) (s : State) : Out :=
  needUnit (funcOk func)
    (let v := fnOf s func
     let growth := (List.range 4).map fun c => v.alarmDrop.getD c 0 - v.alarmReported.getD c 0
     whenB (decide (v.alarms.length ≤ 240) && growth.any (· != 0)) s
      (let s1 := setFn s func { v with alarmReported := v.alarmDrop }
       storeRecord s1 (recordOf s1 2 ⟨0x0702, 0xFF, 0x3FF, 0xFF, 0xFF, 0, 0xFF, func, 0, growth.flatMap fun n => leBytes n 4⟩)))

end Sys2Proof.Machine
end

