-- ==== Sys2Proof/Machine/Resets.lean ====
section
/-! DEFINITION. The reset domains: the virtual-instance reset, die, router and device resets, and the boot ROM's choice of a slot
(R314, R322 to R325, R350 to R353, R392, R393). -/

namespace Sys2Proof.Machine

/-! ## Virtual-instance reset (R322 to R325, Table 11.18) -/

def cycles2Ms : Nat := 2 * cyclesPerMs

/-- Steps 1 to 3: RUN ends, STEP_FAIL goes to the group of a region in a step, no descriptor fires any more, and the capture of
the whole scope is opened and written, without its marker. -/
def resetBegin (s : State) (r : Nat) (g : Region) (x : InstReset) : State :=
  let s1 := postRunState (endRun s r 0x000B) r .resetting
  let s2 :=
    if atBoundary g then s1
    else
      let t := updRegion s1 r fun g => { g with failed := true, failCauses := g.failCauses ++ [0x0018] }
      if g.failed || isShadow s r then t else send t (.stepFail r (stepMsg g) 0x0018)
  let o := openCapture s2 r 1 (regionTiles s2 g)
  let s3 := captureTiles o.1 r 0x7F (slotBase o.2) (regionTiles s2 g)
  updRf s3 r fun f => { f with reset := some { x with begun := some s.now, slot := o.2, capturing := true } }

/-- Gives up a region's capture: its bundle never gets a marker, and CAPTURE_INCOMPLETE is posted (R357). -/
def captureGiveUp (s : State) (r slot : Nat) : State :=
  regionEvent { s with bundles := s.bundles.filter fun b => !(b.slot == slot && !b.committed) } 0x0505 r (leBytes slot 1)

/-- Steps 4 and 5: the marker, or the capture given up; then the instance generation of every tile goes up by one, and Silt
transactions of the old instance that have issued no program are abandoned (R323). -/
def resetRenew (s : State) (r : Nat) (g : Region) (x : InstReset) (marker : Bool) : State :=
  let s1 := if marker then commitCapture s x.slot else captureGiveUp s r x.slot
  let s2 := updTiles s1 g fun t => { t with gen := (t.gen + 1) % 8 }
  let s3 := (s2.silt.txns.filter fun t => t.region == r && t.stage == .waiting).foldl (fun s t => failTxn s t 0x52) s2
  updRf s3 r fun f => { f with reset := some { x with
    capturing := false, slot := if marker then x.slot else 0xFF, old := some s.now } }

/-- The drain counter (R323): packets of the region in the mesh that carry another generation than its tiles, at the positions
that `p` selects. -/
def oldPackets (s : State) (r gen : Nat) (p : Nat → Bool) : Nat :=
  let stale := fun (k : Packet) => k.region == r && k.gen != gen
  let inRouters := (s.routers.filter fun e => p e.1).map fun e =>
    ((e.2.bufs.flatMap (·.2)) ++ e.2.inbox).countP stale
  let inEngines := s.engines.map fun e => e.2.inbox.countP stale
  (inRouters ++ inEngines).foldl (· + ·) 0

/-- Generation of a region's tiles. -/
def genOf (s : State) (g : Region) : Nat := instTag s g / 32

/-- Whether the drain counter is 0. -/
def drained (s : State) (r : Nat) (g : Region) : Bool := oldPackets s r (genOf s g) (fun _ => true) == 0

/-- Steps 6 and 7: the step is discarded unless the region stood at a boundary, the region is left LOADED and not running, and
every request for the reset completes. -/
def resetFinish (s : State) (r : Nat) (g : Region) (x : InstReset) (status : Nat) : State :=
  let s1 := if atBoundary g then s else settleCharges (stepDiscard s r) r true
  let s2 := updRegion s1 r fun g => { g with rstate := if g.image.isSome then .loaded else .empty, held := false, failed := false }
  let s3 := updRf s2 r fun f => { f with reset := none, lastReset := some s.now }
  let us := (s.now - x.old.getD s.now) / cyclesPerUs
  x.reqs.foldl (fun s q => finishReq s q.1 q.2 status (leBytes us 4 ++ leBytes x.slot 1)) s3

/-- INSTANCE_RESET_START: at least 1 ms after the region's previous reset, and not while castling holds the region. -/
def execInstanceResetStart (r : Nat) (s : State) : Out :=
  onRegion r s fun g =>
    match (rfOf s r).reset with
    | some x =>
      if x.begun.isNone && (rfOf s r).lastReset.all (fun t => decide (t + cyclesPerMs ≤ s.now)) && !s.rep.held.contains r then
        resetBegin s r g x
      else s
    | none => s

/-- The state after steps 4 and 5, where they are still due. -/
def resetUpTo5 (s : State) (r : Nat) (g : Region) : State :=
  match (rfOf s r).reset with
  | some x => if x.capturing then resetRenew s r g x (x.begun.all fun b => decide (s.now < b + cyclesPerMs)) else s
  | none => s

/-- DRAIN_COUNTER_ZERO. -/
def execDrainCounterZero (r : Nat) (s : State) : Out :=
  onRegion r s fun g =>
    let s1 := resetUpTo5 s r g
    match (rfOf s1 r).reset with
    | some x => if x.old.isSome && drained s1 r g then resetFinish s1 r g x csSuccess else s1
    | none => s

/-- CAPTURE_ABANDON: a capture that has no marker 1 ms after it began (R323, R357). -/
def execCaptureAbandon (r : Nat) (s : State) : Out :=
  onRegion r s fun g =>
    match (rfOf s r).reset with
    | some x => if x.capturing && x.begun.any (fun b => decide (b + cyclesPerMs ≤ s.now)) then resetRenew s r g x false else s
    | none => s

/-- The procedure of Table 11.18 carried out on a region at once, as a die reset does; a reset under way ends with it. -/
def instanceNow (s : State) (r status : Nat) : State :=
  withRegion s r fun g =>
    let x0 := ((rfOf s r).reset).getD ⟨[], s.now, none, 0xFF, false, none⟩
    let s1 := if x0.begun.isNone then resetBegin s r g x0 else s
    let s2 := resetUpTo5 s1 r g
    match (rfOf s2 r).reset with
    | some x => resetFinish s2 r g x status
    | none => s2

/-! ## Tile router, die (R350, R351) -/

/-- Positions of a die. -/
def diePositions (die : Nat) : List Nat := (List.range 624).filter fun p => dieOfPos p == die

/-- A tile router reset: tables, buffers, region register and counters of the router, and the reorder unit and flow table; the
rest of the tile core is untouched (Table 13.1). -/
def tileRouterReset (s : State) (pos : Nat) : State :=
  let s1 := resetRouter s pos
  setTilePos s1 pos { tileAtPos s1 pos with rx := [] }

/-- TILE_ROUTER_RESET. -/
def execTileRouterReset (pos : Nat) (s : State) : Out := needUnit (posOk pos) (.next (tileRouterReset s pos))

/-- Tenant regions that own a tile of a die. -/
def regionsOnDie (s : State) (die : Nat) : List Nat :=
  (s.regions.filter fun e => (regionTiles s e.2).any fun lt => dieOfLt s lt == die).map (·.1)

/-- One position of a die that is reset: core and router; a tile of a region is refilled before its next step (R352). -/
def resetPosition (s : State) (pos : Nat) : State :=
  let lt := ltAt s pos
  let s1 := if lt = 0x3FF then setTilePos s pos (coreReset (tileAtPos s pos)) else resetTileCore s lt
  tileRouterReset s1 pos

/-- A die reset: the instance reset of every region with a tile on the die, then its tiles, routers, engine, gateway and ports.
Its Basin controller keeps its registers and contents
(R351), and clears its counters (Table 10.6; DEDUCED, assumption 82).  The control firmware writes the region registers and TRN_PORT_CTL again. -/
def dieReset (s : State) (die status : Nat) : State :=
  let s1 := (regionsOnDie s die).foldl (fun s r => instanceNow s r status) s
  let s2 := (diePositions die).foldl resetPosition s1
  let s3 := updEngine s2 die fun e => { engineReset with
    queues := e.queues.map fun q => (q.1, { q.2 with ctxs := [], oldest := 0 }), fenced := e.fenced }
  let s4 := [3 * die, 3 * die + 1, 3 * die + 2].foldl (fun s p =>
    resetPort (updPort s p fun q => { q with ctl := sget q.ctl s.fab.savedCtl p, cnt := portCntReset }) p) s3
  setFootprints (updBsn s4 die fun c => { c with
    ce := 0, ue := 0, poisonRd := 0, healed := 0, shadowFail := 0, undoBytes := 0, scrubPasses := 0, ecs := 0 })

/-- DIE_RESET. -/
def execDieReset (die : Nat) (s : State) : Out := needUnit (dieOk die) (.next (dieReset s die csSuccess))

/-- DRAIN_ESCALATION: the drain counter is not 0 after 2 ms; every die with a tile of the region is reset, and the command
completes with ESCALATED (R324). -/
def execDrainEscalation (r : Nat) (s : State) : Out :=
  onRegion r s fun g =>
    match (rfOf s r).reset with
    | some x =>
      if x.old.any (fun t => decide (t + cycles2Ms ≤ s.now)) && !drained s r g then
        let dies := ((regionTiles s g).map (dieOfLt s)).eraseDups
        dies.foldl (fun s d => dieReset s d csSuccess) (resetFinish s r g x 0x0010)
      else s
    | none => s

/-! ## Boot ROM (R392, R393) -/

/-- Whether the boot ROM accepts an image (R392). -/
def imageOk (s : State) (im : FwImage) : Bool :=
  im.magicOk && im.format == 1 && decide (im.keyIndex < (if s.idn.lifecycle = 0 then 4 else 2)) &&
    im.keyHash == s.sec.fwKeys.getD im.keyIndex 0 && !s.sec.revoked.contains im.keyIndex && decide (s.sec.svn ≤ im.svn) &&
    im.sigOk && im.bodyOk

/-- The image of a slot: 0 for A, 1 for B. -/
def slotImage (s : State) (k : Nat) : Option FwImage := if k = 0 then s.sec.slotA else s.sec.slotB
def slotOk (s : State) (k : Nat) : Bool := (slotImage s k).any (imageOk s)

/-- The selection record in use: the copy with the higher SEQ, and its number. -/
def selInUse (s : State) : Option (Nat × SelRec) :=
  match s.sec.sel0, s.sec.sel1 with
  | none, none => none
  | some a, none => some (0, a)
  | none, some b => some (1, b)
  | some a, some b => if a.seq < b.seq then some (1, b) else some (0, a)

/-- Writes a selection record as copy `k`. -/
def putSel (s : State) (k : Nat) (x : SelRec) : State :=
  if k = 0 then { s with sec := { s.sec with sel0 := some x } } else { s with sec := { s.sec with sel1 := some x } }

/-- Writes a new selection record, one higher in SEQ, into the place of the copy not in use. -/
def newSel (s : State) (preferred tries : Nat) (confirmed : Bool) : State :=
  match selInUse s with
  | none => putSel s 0 ⟨1, preferred, tries, confirmed⟩
  | some (k, x) => putSel s (1 - k) ⟨x.seq + 1, preferred, tries, confirmed⟩

/-- BOOT_ERROR keeps the first code written after a reset. -/
def setBootError (s : State) (e : Nat) : State :=
  { s with flt := { s.flt with bootError := if s.flt.bootError = 0 then e else s.flt.bootError } }

/-- A start error stops the device: HALTED, with a START_HALT record (R331). -/
def haltStart (s : State) (e : Nat) : State :=
  let s1 := { s with flt := { s.flt with state := 7, bootError := e } }
  devEvent s1 0x0005 0 0xFF (leBytes e 2)

/-- The boot ROM hands over to a slot. -/
def runSlot (s : State) (k : Nat) : State :=
  { s with flt := { s.flt with state := 2 }, idn := { s.idn with fwSlot := k }, sec := { s.sec with booted := true } }

/-- BOOT_ROM_SELECT: the first matching row of R393. -/
def bootSelect (s : State) : State :=
  let c := (selInUse s).elim (⟨0, 0, 0, true⟩ : SelRec) (·.2)
  let k := c.preferred % 2
  let s1 := if !c.confirmed && decide (0 < c.tries) then newSel s k (c.tries - 1) false else s
  let spent := !c.confirmed && c.tries == 0
  let first := if spent then 1 - k else k
  if slotOk s first then runSlot (if spent then setBootError s1 0x0103 else s1) first
  else if slotOk s (1 - first) then runSlot (setBootError (if spent then setBootError s1 0x0103 else s1) 0x0102) (1 - first)
  else haltStart s1 0x0101

/-- The boot ROM's start: without the core reference it does not run (R427); with PKG_TEST_N at 0 a part in DEVELOP holds in BOOT_ROM, and any other notes it (Table 16.2). -/
def bootRom (s : State) : State :=
  let s1 := { s with flt := { s.flt with state := 1, bootError := 0, startPath := 0 } }
  if !s1.pwr.coreRef then s1
  else if s1.pwr.pkgTestN then bootSelect s1
  else if s1.idn.lifecycle = 0 then setBootError s1 0x0401
  else bootSelect (storeRecord s1 (recordOf s1 3 ⟨0x0005, 0xFF, 0x3FF, 0xFF, 0xFF, 0, 0xFF, 0xFF, 0, []⟩))

/-! ## Device reset (R314, R350, R353) -/

/-- FLT_RESET.CAUSE (Table 11.10). -/
def causeCode : ResetCause → Nat
  | .powerOn => 1
  | .perst => 2
  | .fltDevReset => 3
  | .command => 4
  | .controlUe => 5
  | .basinFw => 6
  | .watchdog => 7
  | .emergency => 8

/-- Causes for which Basin goes into self-refresh, so that the capture area survives (R353). -/
def keepsCapture : ResetCause → Bool
  | .fltDevReset | .command | .controlUe | .watchdog => true
  | _ => false

/-- KW by lifecycle state and FULL flag (Table 15.3). -/
def kwOf (lifecycle level : Nat) : Nat := 2 * lifecycle + b2n (level == 2)

/-- A function after a device reset: the configuration space and the MSI-X table stay, and so do the alarm counters (R314, R390). -/
def fnAfterReset (v : Fn) : Fn :=
  { fnReset with msix := v.msix, pba := v.pba, bme := v.bme, d3 := v.d3, alarmDrop := v.alarmDrop, alarmReported := v.alarmReported }

/-- Whether a Basin address lies in the capture area. -/
def inCapture (a : Nat) : Bool := decide (basinCapture ≤ a) && decide (a < basinTenant)

/-- The Basin side of a device reset: the capture area and its bundles, or nothing. -/
def basinAfterReset (keep : Bool) (s : State) : State :=
  if keep then
    { s with
      basin := s.basin.filter fun c => inCapture c.1
      poison := s.poison.filter fun k => inCapture (512 * k)
      scans := s.scans.filter fun x => inCapture x.addr
      bundles := s.bundles.filter (·.committed) }
  else { s with basin := [], poison := [], scans := [], bundles := [], bundleSeq := [] }

/-- Silt after a device reset: the NAND keeps its content; transactions that have not committed have failed (R292), the map is the one
last written until the journal is replayed (R293), no channel is trained, and no namespace is open until its key pair has been
unwrapped. -/
def siltAfterReset (x : Silt) : Silt :=
  let y := dropTxns x fun _ => true
  { y with
    halted := false, trained := 0
    nss := y.nss.map fun n => (n.1, { n.2 with opened := false, keyed := false, units := sget [] x.maps n.1 }) }

/-- Puts everything outside the preserved blocks into its state after a device reset. -/
def clearDevice (s : State) (keep : Bool) : State :=
  let s1 := basinAfterReset keep s
  { s1 with
    tiles := [], routers := [], engines := [], ltMap := [], absent := [], regions := [], rf := [], ctxs := [], pageList := []
    bsn := [], orderNo := 0, activeEpoch := false, v0 := .active, v1 := .writable, quiet := false
    fns := s1.fns.map fun e => (e.1, fnAfterReset e.2)
    silt := siltAfterReset s1.silt
    recorder := { s1.recorder with cache := [], buffer := [], floods := [], extremes := [], extremeAt := s.now, board := [] }
    idn := { s1.idn with debugLevel := 0, listed := false }
    rep := { s1.rep with declared := [], castle := none, held := [], run := none, zeroized := [], mismatch := [], retried := false }
    fab := { fabricReset with
      saved := s1.fab.saved, nextTag := s1.fab.nextTag, savedCtl := s1.fab.savedCtl, savedDev := s1.fab.savedDev, inc := s1.fab.inc }
    pwr := { s1.pwr with
      doze := false, p1 := [], coreRestart := none, resetPend := none
      dies := s1.pwr.dies.map fun d => (d.1, { dieClockReset with trnRef := d.2.trnRef, capFloor := d.2.capFloor }) }
    sec := { s1.sec with
      booted := false, wrote := false, challenge := none, regionKeys := [], aliasNo := s1.sec.aliasNo + 1, aliasHeld := true
      kw := kwOf s1.idn.lifecycle 0, spdmState := 0, spdm := none, halted := false } }

/-- A device reset takes effect: the flush, the reset, then the boot ROM. -/
def resetDevice (s : State) (cause : ResetCause) : State :=
  let s1 := clearDevice (flushRecords s) (keepsCapture cause)
  bootRom { s1 with flt := { s1.flt with cause := causeCode cause, count := Nat.min (s1.flt.count + 1) (2 ^ 24 - 1) } }

/-- Whether the control firmware's heartbeat advances: its last change is less than 10 ms old (R314). -/
def fwAlive (s : State) : Bool := decide (s.now < s.flt.beatAt + 10 * cyclesPerMs)

/-- Holds the device in reset with a cause, until its pins release it; the identity block and the host interface are reset. -/
def pinReset (s : State) (cause : ResetCause) : State :=
  let s1 := clearDevice (flushRecords s) (keepsCapture cause)
  { s1 with
    fns := []
    idn := { idnReset with
      compat := s1.pwr.perstN && s1.idn.compat, factory := s1.idn.factory, serial := s1.idn.serial, lifecycle := s1.idn.lifecycle }
    flt := { s1.flt with
      cause := causeCode cause, count := Nat.min (s1.flt.count + 1) (2 ^ 24 - 1), state := 6, startPath := 0, bootError := 0 } }

/-- A reset by the host or by command: with the control firmware alive, every region inside a step is captured first
(Table 13.3). -/
def captureAndReset (s : State) (cause : ResetCause) : State :=
  let caught := (s.regions.filter fun e => inStep e.2).map (·.1)
  resetDevice (if fwAlive s then caught.foldl (fun s r => captureRegion s r 1) s else s) cause

/-- DEVICE_RESET_EFFECT: a reset that is due for this cause.  PERST_N holds the device in reset, once what power-fail actions had to
finish is done (R425). -/
def execDeviceResetEffect (cause : ResetCause) (s : State) : Out :=
  match s.pwr.resetPend with
  | some (c, due) =>
    if c = cause ∧ due ≤ s.now then
      match cause with
      | .perst =>
        let s1 := pinReset s .perst
        whenB (s.silt.txns == []) s (if s1.pwr.pwrOk && s1.pwr.perstN && !s1.pwr.powerFail then bootRom s1 else s1)
      | .fltDevReset | .command => .next (captureAndReset s cause)
      | _ => .next (resetDevice s cause)
    else .next s
  | none => .next s

end Sys2Proof.Machine
end

