-- ==== Sys2Proof/Machine/Scrub.lean ====
section
/-! DEFINITION. Errors of the memories: the scrub reader of a tile, correctable and uncorrectable words, write-back,
shadow writes with their undo log, the Basin patrol, and the errors that BASIN_READ meets (R94 to R99, R271 to R274, R276 to R281). -/

namespace Sys2Proof.Machine

/-! ## A word with an error (R94 to R98) -/

/-- REGION of an error record (Table 3.8). -/
def errRegion (t : Tile) : Nat := if t.region < 16 then t.region else if t.inUse then 16 else 31

/-- Whether a word belongs to a firmware-owned control structure (R97). -/
def controlWord (t : Tile) (w : Nat) : Bool := decide (ctlWindow ≤ 64 * w) || (errRegion t == 16)

/-- Who made an access (Table 3.8): the requester of Table 3.4, and the descriptor's queue and index, none for an access of no
descriptor. -/
structure Reader where
  requester : Nat
  desc : Option (Nat × Nat)
deriving DecidableEq, Repr

/-- The error record of a word, with the descriptor that read it. -/
def errRecord (s : State) (typ lt : Nat) (who : Reader) (w bit count : Nat) : List Byte :=
  let t := tileOf s lt
  let step := if errRegion t = 31 then 0 else stepOf s t.region
  let x := who.desc.getD (0, 0)
  leBytes (spadRecord typ lt (errRegion t) x.1 who.desc.isSome x.2 who.requester w (Config.syndrome w bit).toNat bit step count) 16

/-- The charge of a macro for one of its words (Table 13.6). -/
def macroCharge (s : State) (lt w bit sigClass : Nat) (payload : List Byte) : Charge :=
  let pos := posOf s lt
  let a := 64 * w
  { chargeAt s (tileOf s lt).region (posKey 1 pos (bankOf a)) w sigClass 0 lt pos payload with
    lane := laneOf a, row := rowOf a, bit := bit }

/-- A correctable error: counted per bank and tile, its records posted, its write-back due; at the threshold the macro is charged,
by history alone. -/
def correctable (s : State) (lt : Nat) (who : Reader) (w bit : Nat) : State :=
  let t := tileOf s lt
  let bank := bankOf (64 * w)
  let before := sget 0 t.ceBank bank
  let after := satAdd before 1 12
  let s1 := setTile s lt { t with
    ceBank := sset 0 t.ceBank bank after, ceTile := satAdd t.ceTile 1 32, spad := { t.spad with wb := setIns w t.spad.wb } }
  (ceRecords before after t.ceThreshold).foldl (fun s typ =>
    let rec_ := errRecord s typ lt who w bit after
    let s2 := tileEvent s (0x0100 + typ) t.region lt 1 bank rec_
    if typ = 4 then charge s2 t.region (macroCharge s2 lt w bit 1 rec_) true else s2) s1

/-- An uncorrectable error: in job data the tile core is reset and the step fails; in a control structure the device is reset,
and a position whose control window it was is failed from the next start on. -/
def uncorrectable (s : State) (lt : Nat) (who : Reader) (w : Nat) : State :=
  let t := tileOf s lt
  let bank := bankOf (64 * w)
  let s0 := { s with rep := { s.rep with faultSince := true } }
  if controlWord t w then
    let s1 := tileEvent s0 0x0001 t.region lt 1 bank (errRecord s 3 lt who w 0x3FF (sget 0 t.ceBank bank))
    let s2 := if ctlWindow ≤ 64 * w then { s1 with rep := { s1.rep with failed := setIns (posOf s lt) s1.rep.failed } } else s1
    resetDevice s2 .controlUe
  else
    let rec_ := errRecord s 2 lt who w 0x3FF (sget 0 t.ceBank bank)
    let s1 := tileEvent s0 0x0102 t.region lt 1 bank rec_
    let c := macroCharge s1 lt w 0x3FF 2 rec_
    charge (resetTileCore (failStep s1 t.region 0x0102 (who.desc.map fun x => (lt, x.1, x.2))) lt) t.region c false

/-- Counts the correctable errors of a list. -/
def correctAll (s : State) (lt : Nat) (who : Reader) (fs : List (Nat × EccFind)) : State :=
  fs.foldl (fun s f => match f.2 with
    | .ce bit => correctable s lt who f.1 bit
    | .ue => s) s

/-- What a read meets of a list of errors: each correctable one is counted, and the first uncorrectable one takes its action; the Bool says that
one did, so that the access delivers nothing (R94, R96). -/
def meetErrors (s : State) (lt : Nat) (who : Reader) (fs : List (Nat × EccFind)) : State × Bool :=
  let s1 := correctAll s lt who fs
  match fs.find? fun f => f.2 == .ue with
  | some f => (uncorrectable s1 lt who f.1, true)
  | none => (s1, false)

/-- The errors among `found` that lie in words of a tile that its check covers: a valid word, or a vote on a valid bit (R89, R90). -/
def eccChecked (t : Tile) (found : List (Nat × EccFind)) : List (Nat × EccFind) :=
  found.filter fun f => t.spad.valid.contains f.1 || f.2 == .ce 0x3FE

/-! ## The scrub reader (R99) -/

/-- Whether a tile's scrub reader runs: the tile is there, neither held in reset nor gated. -/
def scrubRuns (s : State) (lt : Nat) : Bool :=
  let t := tileOf s lt
  present s lt && !t.heldReset && !t.clockGated && !s.pwr.doze

/-- Findings that lie in the line being read: any vote on a valid bit, and errors of valid words. -/
def lineFinds (t : Tile) (found : List (Nat × EccFind)) : List (Nat × EccFind) :=
  (eccChecked t found).filter fun f => f.1 / 8 == t.scrubLine

/-- Reads the next line with requester 6; every correctable error is counted, and the first uncorrectable one ends the read. -/
def scrubLine (s : State) (lt : Nat) (found : List (Nat × EccFind)) : State :=
  let t := tileOf s lt
  let s1 := setTile s lt { t with
    spad := chargeRd t.spad 1, scrubSlot := s.now, scrubLine := (t.scrubLine + 1) % scrubLines }
  (meetErrors s1 lt ⟨6, none⟩ (lineFinds t found)).1

/-- SCRUB_READ. -/
def execScrubRead (lt : Nat) (found : List (Nat × EccFind)) (s : State) : Out :=
  needUnit (ltOk lt) (whenB (scrubRuns s lt) s (scrubLine s lt found))

/-- Tile clock of a die in MHz. -/
def dieMhz (s : State) (die : Nat) : Nat := (sget dieClockReset s.pwr.dies die).mhz

/-- Tile cycles since the reader's last slot reach the limit: 4,096, or 256 during a digest walk (R366). -/
def scrubDue (s : State) (lt : Nat) : Bool :=
  let t := tileOf s lt
  let limit := if (rfOf s t.region).walk.isSome then 256 else 4096
  decide (limit * 2000 ≤ (s.now - t.scrubSlot) * dieMhz s (dieOfLt s lt))

/-- SCRUB_FORCED. -/
def execScrubForced (lt : Nat) (found : List (Nat × EccFind)) (s : State) : Out :=
  needUnit (ltOk lt) (whenB (scrubRuns s lt && scrubDue s lt) s (scrubLine s lt found))

/-- CE_WRITEBACK. -/
def execCeWriteback (lt : Nat) (s : State) : Out :=
  needUnit (ltOk lt) (.next (updTile s lt fun t => { t with spad := writeBack t.spad }))

/-! ## Shadow writes (R271 to R274) -/

/-- Entries of the step filter that one controller holds: 65,536 at most. -/
def filterFull (g : Region) (stack : Nat) : Bool :=
  decide (65536 ≤ (g.filt.filter fun o => stackOf (g.basinBase + o) == stack).length)

/-- A shadow write fails: the step fails. -/
def shadowFail (s : State) (r stack : Nat) : State :=
  failStep (updBsn s stack fun c => { c with shadowFail := satAdd c.shadowFail 1 32 }) r 0x0010

/-- An undo entry as UNDO_LOG holds it: a 64-byte header with the granule's offset, the region, the step and a CRC-64 over the entry, then the old
bytes.  The places of the header's fields are not given (DESIGN CHOICE, assumption 60). -/
def undoBytes (u : UndoEntry) : List Byte :=
  let h := leBytes u.off 8 ++ leBytes u.region 2 ++ leBytes u.stepLow 2 ++ zeros 44
  h ++ leBytes (crc64 (h ++ zeros 8 ++ u.old)).toNat 8 ++ u.old

/-- Appends the undo entry of a granule that the step filter does not hold. -/
def logUndo (s : State) (r : Nat) (g : Region) (off : Nat) : State :=
  let stack := stackOf (g.basinBase + off)
  let u : UndoEntry := ⟨off, g.step % 2 ^ 16, basinBytes s (g.basinBase + off) 512, r⟩
  let s0 := match g.image with
    | some im => basinPut s (g.basinBase + im.dir.undoLog.off + 576 * g.undo.length) (undoBytes u)
    | none => s
  let s1 := updRegion s0 r fun g => { g with
    undo := g.undo ++ [u], filt := if filterFull g stack then g.filt else setIns off g.filt }
  updBsn (countPoison s1 (g.basinBase + off) 512) stack fun c => { c with undoBytes := satAdd c.undoBytes 576 48 }

/-- The words of one shadow entry reach Basin; a whole line is one write of its granule. -/
def shadowPut (s : State) (a : Nat) (x : ShadowLine) : State :=
  if x.words.length = 8 then basinPut s a (x.words.flatMap (·.2))
  else x.words.foldl (fun s w => basinPut s (a + 64 * w.1) w.2) s

/-- SHADOW_WRITE: the oldest entry of a tile's shadow queue leaves; `ok` is false when the write does not complete after its
retries.  One that UNDO_LOG has no room for stays in the queue, so that the discard restores its granule (R275). -/
def shadowWrite (s : State) (lt : Nat) (ok : Bool) : State :=
  let t := tileOf s lt
  match t.spad.sq with
  | [] => s
  | x :: rest =>
    let s0 := setTile s lt { t with spad := sqTake { t.spad with sq := rest } }
    match regionOf s t.region with
    | none => s0
    | some g =>
      let stack := stackOf (g.basinBase + x.off)
      let fresh := !g.filt.contains x.off
      let room := (g.image.map fun im => im.dir.undoLog.len / 576).getD 0
      if fresh && decide (room ≤ g.undo.length) then (if g.failed then s else shadowFail s t.region stack)
      else
        let s1 := if fresh then logUndo s0 t.region g x.off else s0
        if ok then shadowPut s1 (g.basinBase + x.off) x else shadowFail s1 t.region stack

/-- SHADOW_WRITE. -/
def execShadowWrite (lt : Nat) (ok : Bool) (s : State) : Out := needUnit (ltOk lt) (.next (shadowWrite s lt ok))

/-! ## The Basin patrol (R276 to R281) -/

/-- 64-byte words of one stack. -/
def stackWords : Nat := 0x30000000

/-- Number of a Basin word in its stack, in BPA order (R265). -/
def wordInStack (w : Nat) : Nat := 8 * (w / 32) + w % 8

/-- Whether the patrol reads word `w` when it reads `n` words of a stack from position `from_` on. -/
def patrolled (stack from_ n w : Nat) : Bool :=
  stackOf (64 * w) == stack && decide (64 * w < basinEnd) && decide ((wordInStack w + stackWords - from_) % stackWords < n)

/-- A bundle whose slot holds a granule is lost (Table 10.4). -/
def loseBundle (s : State) (a : Nat) : State :=
  let k := (a - basinCapture) / slotBytes
  match s.bundles.find? fun b => b.slot == k && !b.lost with
  | some b =>
    regionEvent { s with bundles := mapIf (fun x => x.slot == k) (fun x => { x with lost := true }) s.bundles } 0x0503 b.region (leBytes k 1)
  | none => s

/-- What an uncorrectable granule costs by its range (Table 10.4); the firmware area costs a device reset. -/
def ueAction (s : State) (a : Nat) : State :=
  if a < basinCapture then resetDevice (devEvent s 0x0002 10 (stackOf a) (leBytes a 8)) .basinFw
  else if a < basinTenant then loseBundle s a
  else
    match regionOfBpa s a with
    | none => s
    | some (r, g) =>
      match g.image with
      | none => s
      | some im =>
        let o := a - g.basinBase
        let owner := (windowAddr s g o).any fun x => present s x.1
        if inRange im.dir.weightImage o 512 || (inRange im.dir.kvShadow o 512 && owner) then queueHeal s r else s

/-- One uncorrectable word: its granule is poisoned and recorded, the stack charged, and the range's action taken; a granule that
is poisoned already counts a poisoned read. -/
def basinUe (s : State) (w : Nat) : State :=
  let a := 64 * w / 512 * 512
  let stack := stackOf a
  if s.poison.contains (a / 512) then countPoison s a 512
  else
    let s1 := updBsn { s with poison := setIns (a / 512) s.poison } stack fun c => { c with ue := satAdd c.ue 1 32 }
    let s2 := basinUeEvent s1 a
    let r := (regionOfBpa s2 a).elim 31 (·.1)
    let c := { chargeAt s2 r (dieKey 10 stack) a 9 (fld a 11 5 / 2) 0x3FF 0 (leBytes a 8) with ext := a / 64 }
    ueAction (charge s2 r c false) a

/-- Whether a pass that began `t` cycles ago and has read `done` words is more than 1 % of a pass behind the schedule that PERIOD_H sets;
0 and values above 168 act as 168 (R281, Table 10.5). -/
def patrolBehind (periodH t done : Nat) : Bool :=
  let hours := if periodH = 0 ∨ 168 < periodH then 168 else periodH
  decide (done + stackWords / 100 < t * stackWords / (hours * 3600000 * cyclesPerMs))

/-- PATROL_SCRUB: the next `words` words of a stack in BPA order; `ce` and `ue` name Basin words by BPA / 64, and `ecs` is what the
stack's own error check and scrub reports since.  Each poisoned granule that it passes is one read of poison (R278). -/
def patrolScrub (s : State) (stack words : Nat) (ce ue : List Nat) (ecs : Nat := 0) : State :=
  let b := bsnOf s stack
  let hit := fun w => patrolled stack b.scrubWord words w
  let next := b.scrubWord + words
  let start := if next < stackWords then b.passStart else s.now
  let read := s.poison.filter fun p => !(ue.any fun w => hit w && w / 8 == p) && (List.range 8).any fun i => hit (8 * p + i)
  let s1 := updBsn s stack fun c => { c with
    scrubWord := next % stackWords, passPct := next % stackWords * 100 / stackWords
    scrubPasses := satAdd c.scrubPasses (next / stackWords) 32
    passStart := start, behind := patrolBehind c.periodH (s.now - start) (next % stackWords)
    ecs := satAdd c.ecs ecs 32, poisonRd := satAdd c.poisonRd read.length 32
    ce := satAdd c.ce (ce.filter hit).length 32 }
  let before := s1.flt.count
  (ue.filter hit).foldl (fun s w => if s.flt.count = before then basinUe s w else s) s1

/-- PATROL_SCRUB. -/
def execPatrolScrub (stack words : Nat) (ce ue : List Nat) (s : State) (ecs : Nat := 0) : Out :=
  needUnit (dieOk stack) (whenB ((bsnOf s stack).en && !s.pwr.doze) s (patrolScrub s stack words ce ue ecs))

/-- The words, by BPA / 64, that a BASIN_READ reads when the head of its queue fires and its checks pass. -/
def basinReads (s : State) (lt q : Nat) (ws : List Nat) : List Nat :=
  match fireReady s lt q with
  | none => []
  | some p =>
    let r := fireReserve s lt q p
    let c := r.2.1
    if ltOk lt && decide (q < 64) && isOp 2 3 p.d && granted s lt q p &&
        issueStatus r.1 c basinReadChecks == stOk then
      let base := (allotOf s (tileOf s lt).region).1
      ws.filter fun w => (List.range (mRows c.d)).any fun i => meets (64 * w, 64) (base + mBasinRow c.d i, mLen c.d)
    else []

/-- BASIN_READ where `poison` was the list of poisoned granules before the read: only those count as poisoned reads (R278). -/
def actBasinReadMet (poison : List Nat) (s : State) (c : FireCtx) : FireRes :=
  let x := actBasinRead s c
  { x with s := { x.s with bsn := (actBasinRead { s with poison := poison } c).s.bsn } }

/-- BASIN_READ.  `ce` and `ue` name words in error, none unless given: a correctable one is counted, an uncorrectable one poisons its granule and takes
the action of its range, and its part fails; one of the firmware area resets the device at once (R277 to R279, Table 10.4). -/
def execBasinRead (lt q : Nat) (s : State) (ce ue : List Nat := []) : Out :=
  match basinReads s lt q ce, basinReads s lt q ue with
  | [], [] => fireRow s lt q (isOp 2 3) basinReadChecks actBasinRead
  | ces, ues =>
    let s1 := ces.foldl (fun s w => updBsn s (stackOf (64 * w)) fun c => { c with ce := satAdd c.ce 1 32 }) s
    match ues.find? fun w => decide (64 * w < basinCapture) && !s.poison.contains (64 * w / 512) with
    | some w => .next (basinUe s1 w)
    | none => fireRow (ues.foldl basinUe s1) lt q (isOp 2 3) basinReadChecks (actBasinReadMet s.poison)

end Sys2Proof.Machine
end

