-- ==== Sys2Proof/Machine/Vector.lean ====
section
/-! DEFINITION. The vector engine's descriptors (chapter 05 and R174, R175, R182, Table 5.7, Table 5.14). -/

namespace Sys2Proof.Machine

/-! ## Shared parts -/

def vecA (c : FireCtx) : Nat := c.addr (vSrcA c.d) 0
def vecB (c : FireCtx) : Nat := c.addr (vSrcB c.d) 1
def vecC (c : FireCtx) : Nat := c.addr (vSrcC c.d) 2
def vecDst (c : FireCtx) : Nat := vDst c.d

/-- The list window that makes SRC_A a coordinate list (R164). -/
def vecWin (s : State) (c : FireCtx) : Option Window := windowOf (tileOf s c.lt).lists (vecA c)

/-- Row values of SRC_A: dense under SRC_MODE, or the expanded list. -/
def vecRowsA (s : State) (c : FireCtx) : List (List F32) :=
  let t := tileOf s c.lt
  match vecWin s c with
  | some w => (clRows t.spad w (vecA c) (vSrcFmt c.d) (vRows c.d) (vLen c.d) false).map fun r => r.map toF32
  | none => (List.range (vRows c.d)).map (vecRowA t.spad c.d (vecA c))

/-- Row r of SRC_B or SRC_C at base `a`, in LINE mode at SRC_STRIDE. -/
def vecRowLine (s : State) (c : FireCtx) (a r : Nat) : List F32 :=
  (readRow (tileOf s c.lt).spad (vSrcFmt c.d) (a + vSrcStride c.d * r) (vLen c.d)).map toF32

/-- Checks of SRC_A: its mode's alignment and extent (R78, R436), and a list where none is allowed (R174). -/
def srcAChecks (s : State) (c : FireCtx) (clOk : Bool) : List Nat :=
  match vecWin s c with
  | some _ => chk (!clOk || vSrcMode c.d != 0) stFieldInvalid
  | none =>
    chk ((vSrcMode c.d != 0 && vecA c % 64 != 0) || decide (spadEnd < vecEndA c.d (vecA c))) stAddrRange ++
      chk (tenantTile (tileOf s c.lt) && meetsCtl (vecA c) (vecEndA c.d (vecA c) - vecA c)) stAddrProtect

/-- Destination rows of `n` elements in DST_FMT. -/
def dstRngs (c : FireCtx) (n : Nat) : List Rng :=
  rowRngs (vecDst c) (vDstStride c.d) (vRows c.d) (outRowBytes (vDstFmt c.d) n)

/-- Rows of FP32 values at the destination in DST_FMT, SAT = 1 (R146). -/
def dstRows (c : FireCtx) (rows : List (List F32)) : List (Nat × List Byte) :=
  (List.zip rows (List.range rows.length)).map fun r =>
    (vecDst c + vDstStride c.d * r.2, (packOut (vDstFmt c.d) true (f32s r.1)).1)

/-- Writes byte strings and charges the read slots of the operands. -/
def vecPut (s : State) (c : FireCtx) (cost : Nat) (l : List (Nat × List Byte)) : State :=
  updTile s c.lt fun t => { t with spad := putRows (chargeRd t.spad cost) l }

/-- The result of an op whose bytes are given. -/
def vecRes (s : State) (c : FireCtx) (cost : Nat) (l : List (Nat × List Byte)) : FireRes :=
  resOk (vecPut s c cost l) (vecDst c) ((l.map fun x => x.2.length).foldl (· + ·) 0)

/-- Read slots of SRC_A: of a list its header, table and arrays, otherwise its mode's cost. -/
def costA (s : State) (c : FireCtx) : Nat :=
  match vecWin s c with
  | some w => clCost (tileOf s c.lt).spad w (vecA c) (vSrcFmt c.d) (vRows c.d)
  | none => vecCostA c.d (vecA c)

/-! ## ELEMENTWISE, REDUCE, NORM, ACTIVATE, CONVERT -/

/-- Whether an ELEMENTWISE function reads SRC_B and SRC_C. -/
def ewUsesB (f : Nat) : Bool := decide (f < 6) || f == 7
def ewUsesC (f : Nat) : Bool := f == 5

def srcRngs (c : FireCtx) (a : Nat) : List Rng :=
  rowRngs a (vSrcStride c.d) (vRows c.d) (rowBytes (vSrcFmt c.d) (vLen c.d))

def ewReads (c : FireCtx) : List Rng :=
  (if ewUsesB (dFunc c.d) then srcRngs c (vecB c) else []) ++ (if ewUsesC (dFunc c.d) then srcRngs c (vecC c) else [])

def ewChecks (s : State) (c : FireCtx) : List Nat :=
  srcAChecks s c false ++ rangeChecks s c (ewReads c) (dstRngs c (vLen c.d))

def actElementwise (s : State) (c : FireCtx) : FireRes :=
  let f := dFunc c.d
  let rows := (List.zip (vecRowsA s c) (List.range (vRows c.d))).map fun r =>
    let b := if ewUsesB f then vecRowLine s c (vecB c) r.2 else r.1
    let cc := if ewUsesC f then vecRowLine s c (vecC c) r.2 else r.1
    List.zipWith (fun (x : F32 × F32) z => elementwiseFn f (vImm0 c.d) x.1 x.2 z) (List.zip r.1 b) cc
  vecRes s c (costA s c + rngCost (ewReads c)) (dstRows c rows)

def redOpOf (f : Nat) : RedOp :=
  match f with
  | 0 => .sum
  | 1 => .max
  | 2 => .min
  | _ => .sumsq

def reduceChecks (s : State) (c : FireCtx) : List Nat := srcAChecks s c true ++ rangeChecks s c [] (dstRngs c 1)

def actReduce (s : State) (c : FireCtx) : FireRes :=
  vecRes s c (costA s c) (dstRows c ((vecRowsA s c).map fun r => [reduceRow (redOpOf (dFunc c.d)) r]))

/-- The gain row, and for LAYER the bias row (R435). -/
def normReads (c : FireCtx) : List Rng :=
  let n := rowBytes (vSrcFmt c.d) (vLen c.d)
  (vecB c, n) :: (if dFunc c.d = 1 then [(vecC c, n)] else [])

def normChecks (s : State) (c : FireCtx) : List Nat :=
  srcAChecks s c false ++ rangeChecks s c (normReads c) (dstRngs c (vLen c.d))

def actNorm (s : State) (c : FireCtx) : FireRes :=
  let b := vecRowLine s c (vecB c) 0
  let cc := if dFunc c.d = 1 then vecRowLine s c (vecC c) 0 else []
  vecRes s c (costA s c + rngCost (normReads c))
    (dstRows c ((vecRowsA s c).map fun r => normRow (dFunc c.d) (vImm0 c.d) r b cc))

def activateChecks (s : State) (c : FireCtx) : List Nat := srcAChecks s c false ++ rangeChecks s c [] (dstRngs c (vLen c.d))

def actActivate (s : State) (c : FireCtx) : FireRes :=
  vecRes s c (costA s c) (dstRows c ((vecRowsA s c).map fun r => r.map (activateFn (dFunc c.d))))

def convertChecks (s : State) (c : FireCtx) : List Nat := srcAChecks s c true ++ rangeChecks s c [] (dstRngs c (vLen c.d))

def actConvert (s : State) (c : FireCtx) : FireRes := vecRes s c (costA s c) (dstRows c (vecRowsA s c))

/-! ## SOFTMAX (R149) and ROPE (R148) -/

def maskPitch (c : FireCtx) : Nat := 64 * ceilDiv (vLen c.d) 512

def softReads (c : FireCtx) : List Rng :=
  if dFunc c.d = 2 then rowRngs (vecB c) (maskPitch c) (vRows c.d) (ceilDiv (vLen c.d) 8) else []

/-- PARTIAL forms also write m and l at SRC_C + 8r. -/
def softWrites (c : FireCtx) : List Rng :=
  dstRngs c (vLen c.d) ++ (if dFunc c.d = 0 then [] else rowRngs (vecC c) 8 (vRows c.d) 8)

def softChecks (s : State) (c : FireCtx) : List Nat :=
  srcAChecks s c false ++ rangeChecks s c (softReads c) (softWrites c)

def actSoftmax (s : State) (c : FireCtx) : FireRes :=
  let sp := (tileOf s c.lt).spad
  let f := dFunc c.d
  let masked := (List.zip (vecRowsA s c) (List.range (vRows c.d))).map fun r =>
    if f = 2 then
      let m := spadNum sp (vecB c + r.2 * maskPitch c) (ceilDiv (vLen c.d) 8)
      (List.zip r.1 (List.range r.1.length)).map fun x => if bitOf m x.2 then x.1 else f32NegInf
    else r.1
  let rows := if f = 0 then masked.map softmaxFull else masked.map fun r => (softmaxRow r).2.2
  let ml := if f = 0 then [] else (List.zip masked (List.range masked.length)).map fun r =>
    let x := softmaxRow r.1
    (vecC c + 8 * r.2, leBytes x.1.toNat 4 ++ leBytes x.2.1.toNat 4)
  let out := dstRows c rows
  { vecRes s c (costA s c + rngCost (softReads c)) (out ++ ml) with
    bytes := (out.map fun x => x.2.length).foldl (· + ·) 0 }

/-- Row r takes its frequencies from SRC_B and its position from SRC_C, both at SRC_STRIDE·r (R148, R436; DEDUCED, log entry 128). -/
def ropeReads (c : FireCtx) : List Rng :=
  rowRngs (vecB c) (vSrcStride c.d) (vRows c.d) (8 * (vLen c.d / 2)) ++ rowRngs (vecC c) (vSrcStride c.d) (vRows c.d) 4

def ropeChecks (s : State) (c : FireCtx) : List Nat :=
  srcAChecks s c false ++ rangeChecks s c (ropeReads c) (dstRngs c (vLen c.d))

def actRope (s : State) (c : FireCtx) : FireRes :=
  let sp := (tileOf s c.lt).spad
  let rows := (List.zip (vecRowsA s c) (List.range (vRows c.d))).map fun r =>
    let at_ := vSrcStride c.d * r.2
    ropeRow (dFunc c.d) (spadNum sp (vecC c + at_) 4)
      ((List.range (vLen c.d / 2)).map fun i => spadNum sp (vecB c + at_ + 8 * i) 8) r.1
  vecRes s c (costA s c + rngCost (ropeReads c)) (dstRows c rows)

/-! ## Gather entries (R109, R112, R150) -/

/-- `n` bytes at offset `o` of the data an entry names: its inline payload or the scratchpad at its OFFSET. -/
def entData (sp : Spad) (e o n : Nat) : List Byte :=
  if eInline e then sliceBytes (leBytes (e % 2 ^ 384) 48) o n else spadRead sp (eOffset e + o) n

/-- Two visible entries of the gather queue with one SLOT below PARAM_K (R112). -/
def slotConflict (s : State) (c : FireCtx) : Bool :=
  match dIn c.d 0 with
  | none => false
  | some q =>
    let t := tileOf s c.lt
    let sl := ((visible (queueOf t q)).filter fun x => x.resv == none || x.resv == some c.fid).map fun x =>
      eSlot (entryAt t q x.pos)
    (List.range (dParamK c.d)).any fun k => decide (1 < (sl.filter (· == k)).length)

/-- Ranges that the consumed entries reference, `n` bytes each. -/
def entRngs (c : FireCtx) (n : Nat) : List Rng :=
  ((c.inputs 0).filter fun e => !eInline e).map fun e => (eOffset e, n)

/-- Bytes of one ATTN_MERGE entry: m, l and o of every row. -/
def mergeBytes (c : FireCtx) : Nat := vRows c.d * (8 + 4 * vLen c.d)

/-- The issue checks of ATTN_MERGE, which reads no SRC_A: R174 asks nothing of one (DEDUCED, assumption 146). -/
def attnChecks (s : State) (c : FireCtx) : List Nat :=
  rangeChecks s c (entRngs c (mergeBytes c)) (dstRngs c (vLen c.d)) ++ chk (slotConflict s c) stSlotConflict

/-- ATTN_MERGE (R150). -/
def actAttnMerge (s : State) (c : FireCtx) : FireRes :=
  let sp := (tileOf s c.lt).spad
  let n := vLen c.d
  let rs := vRows c.d
  let f := fun (e o : Nat) => (BitVec.ofNat 32 (ofLe (entData sp e o 4)) : F32)
  let rows := (List.range rs).map fun r =>
    attnMergeRow ((c.inputs 0).map fun e =>
      (f e (4 * r), f e (4 * rs + 4 * r), (List.range n).map fun i => f e (8 * rs + 4 * (n * r + i)))) n
  vecRes s c (rngCost (entRngs c (mergeBytes c))) (dstRows c rows)

/-! ## SELECT (R153 to R156, R437, R438, Table 5.14) -/

/-- The entries of a list. -/
def candsOf (b : List Byte) (n : Nat) : List Cand :=
  (List.range n).map fun i => (BitVec.ofNat 32 (ofLe (sliceBytes b (8 * i) 4)), ofLe (sliceBytes b (8 * i + 4) 4))

def candBytes (l : List Cand) : List Byte := l.flatMap fun c => leBytes c.1.toNat 4 ++ leBytes c.2 4

/-- Exchange area of row r. -/
def exchAddr (c : FireCtx) (r : Nat) : Nat := vecB c + 320 * r

def sampParAt (sp : Spad) (a : Nat) : SampPar := sampParOf (spadRead sp a 64)

/-- The free-running counter that keys the sampler under SAMPLER_FREE (Table 1.5). -/
def freeCounter (s : State) (lt : Nat) : Option Nat :=
  match regionOf s (tileOf s lt).region with
  | some g => if g.samplerFree then some s.now else none
  | none => none

def topkChecks (s : State) (c : FireCtx) : List Nat :=
  srcAChecks s c false ++ rangeChecks s c [] (rowRngs (vecDst c) (vDstStride c.d) (vRows c.d) (8 * dParamK c.d))

/-- SELECT TOPK. -/
def actTopk (s : State) (c : FireCtx) : FireRes :=
  let rows := (List.zip (vecRowsA s c) (List.range (vRows c.d))).map fun r =>
    (vecDst c + vDstStride c.d * r.2, candBytes (topkRow (dParamK c.d) (vImm1 c.d) r.1))
  vecRes s c (costA s c) rows

def exchRngs (c : FireCtx) (o n : Nat) : List Rng := (List.range (vRows c.d)).map fun r => (exchAddr c r + o, n)

/-- Lists that a MERGE entry references: row r at OFFSET + S_A·r. -/
def mergeRngs (c : FireCtx) : List Rng :=
  ((c.inputs 0).filter fun e => !eInline e).flatMap fun e => rowRngs (eOffset e) (vSrcStride c.d) (vRows c.d) (8 * vLen c.d)

/-- The issue checks of SELECT MERGE, which reads no SRC_A: R174 asks nothing of one (DEDUCED, assumption 146). -/
def mergeChecks (s : State) (c : FireCtx) : List Nat :=
  rangeChecks s c (mergeRngs c ++ exchRngs c 0 64) (rowRngs (vecDst c) (vDstStride c.d) (vRows c.d) (8 * vLen c.d)) ++
    chk (slotConflict s c) stSlotConflict

/-- SELECT MERGE. -/
def actMerge (s : State) (c : FireCtx) : FireRes :=
  let sp := (tileOf s c.lt).spad
  let n := vLen c.d
  let rows := (List.range (vRows c.d)).map fun r =>
    let lists := (c.inputs 0).map fun e => candsOf (entData sp e (vSrcStride c.d * r) (8 * n)) n
    (vecDst c + vDstStride c.d * r, candBytes (mergeRow (sampParAt sp (exchAddr c r)).topK n lists))
  vecRes s c (rngCost (mergeRngs c ++ exchRngs c 0 64)) rows

def drawReads (c : FireCtx) : List Rng :=
  rowRngs (vecA c) (vSrcStride c.d) (vRows c.d) (8 * vLen c.d) ++ exchRngs c 0 64

def drawChecks (s : State) (c : FireCtx) : List Nat :=
  chk (vecWin s c).isSome stFieldInvalid ++ rangeChecks s c (drawReads c) (exchRngs c 128 64)

/-- SELECT DRAW. -/
def actDraw (s : State) (c : FireCtx) : FireRes :=
  let sp := (tileOf s c.lt).spad
  let rows := (List.range (vRows c.d)).map fun r =>
    let p := sampParAt sp (exchAddr c r)
    let l := candsOf (spadRead sp (vecA c + vSrcStride c.d * r) (8 * vLen c.d)) (vLen c.d)
    (exchAddr c r + 128, outcomeWord p (drawCtx p (freeCounter s c.lt) l))
  vecRes s c (rngCost (drawReads c)) rows

def verifyReads (c : FireCtx) : List Rng :=
  rowRngs (vecA c) (vSrcStride c.d) (17 * vRows c.d) (8 * vLen c.d) ++ exchRngs c 0 128

def verifyChecks (s : State) (c : FireCtx) : List Nat :=
  chk (vecWin s c).isSome stFieldInvalid ++ rangeChecks s c (verifyReads c) (exchRngs c 128 64)

/-- SELECT VERIFY; a broken draft shape posts DRAFT_INVALID (R156, R158). -/
def actVerify (s : State) (c : FireCtx) : FireRes :=
  let sp := (tileOf s c.lt).spad
  let outs := (List.range (vRows c.d)).map fun r =>
    let p := sampParAt sp (exchAddr c r)
    let toks := (List.range 16).map fun i => spadNum sp (exchAddr c r + 64 + 4 * i) 4
    let lists := (List.range 17).map fun i =>
      candsOf (spadRead sp (vecA c + vSrcStride c.d * (17 * r + i)) (8 * vLen c.d)) (vLen c.d)
    let v := verifyCtx p (freeCounter s c.lt) toks lists
    ((exchAddr c r + 128, outcomeWord p v.1), v.2)
  let res := vecRes s c (rngCost (verifyReads c)) (outs.map (·.1))
  { res with s := (outs.filter (·.2)).foldl (fun s _ => regionEvent s 0x0202 (tileOf s c.lt).region []) res.s }

/-! ## GATE (R175) and COMBINE (R182) -/

def gateChecks (s : State) (c : FireCtx) : List Nat := srcAChecks s c false ++ rangeChecks s c [] (rowRngs (vecDst c) 64 (vRows c.d) 64)

/-- GATE functions 0x00 to 0x02. -/
def actGate (s : State) (c : FireCtx) : FireRes :=
  let rows := (List.zip (vecRowsA s c) (List.range (vRows c.d))).map fun r =>
    (vecDst c + 64 * r.2,
      expertRecord ((r.2 + vImm1 c.d) % 2 ^ 32) (dParamK c.d) (gateRow (dFunc c.d) (dParamK c.d) (vImm0 c.d) r.1))
  vecRes s c (costA s c) rows

/-- K of an expert record, at most 8 (Table 6.5). -/
def recordK (sp : Spad) (a : Nat) : Nat := Nat.min (spadNum sp (a + 4) 1) 8

/-- Addresses of the K rows of token r. -/
def combineRows (sp : Spad) (c : FireCtx) (r : Nat) : List Nat :=
  let k := recordK sp (vecA c + 64 * r)
  (List.range k).map fun i => vecB c + vSrcStride c.d * (r * k + i)

def combineReads (s : State) (c : FireCtx) : List Rng :=
  rowRngs (vecA c) 64 (vRows c.d) 64 ++
    (List.range (vRows c.d)).flatMap fun r =>
      (combineRows (tileOf s c.lt).spad c r).map fun a => (a, 4 * vLen c.d)

def combineChecks (s : State) (c : FireCtx) : List Nat :=
  chk ((vecWin s c).isSome) stFieldInvalid ++ rangeChecks s c (combineReads s c) (dstRngs c (vLen c.d))

/-- GATE COMBINE: FMA over the ranks in order from +0. -/
def actCombine (s : State) (c : FireCtx) : FireRes :=
  let sp := (tileOf s c.lt).spad
  let rows := (List.range (vRows c.d)).map fun r =>
    let as := combineRows sp c r
    (List.zip as (List.range as.length)).foldl (fun acc x =>
      let w : F32 := BitVec.ofNat 32 (spadNum sp (vecA c + 64 * r + 24 + 4 * x.2) 4)
      let o := readF32s sp x.1 (vLen c.d)
      List.zipWith (fun y a => ffma y w a) o acc) (List.replicate (vLen c.d) f32Zero)
  vecRes s c (rngCost (combineReads s c)) (dstRows c rows)

/-! ## Rows of the table -/

/-- A VECTOR op with a FUNC in a range. -/
def isVec (op lo hi : Nat) (d : Nat) : Bool := dClass d == 1 && dOp d == op && decide (lo ≤ dFunc d) && decide (dFunc d ≤ hi)

end Sys2Proof.Machine
end

