-- ==== Sys2Proof/Machine/ReadErrors.lean ====
section
/-! DEFINITION. The rows that read scratchpad words or a matrix engine's stores, with the errors that their reads meet: merge-buffer
eviction, the descriptors, READ_REQ and the castling copy (R48, R67, R86, R89, R94 to R98, Table 12.8).  `found` lists words in error and
what their check found; none unless given, and only words that the row reads count. -/

namespace Sys2Proof.Machine

/-! ## Merge buffer (R86, R98) -/

/-- Whether a drain empties the tile's merge buffer: no stream of the step is left, or the region is in no step. -/
def mergeDrains (s : State) (lt : Nat) : Bool :=
  let t := tileOf s lt
  streamsDone t || !((regionOf s t.region).any inStep)

/-- The errors that the read half of the eviction of a line meets: `ue` finds one in the word `w`, `found` in the words that it names. -/
def evictFinds (t : Tile) (w : Nat) (ue : Bool) (found : List (Nat × EccFind)) : List (Nat × EccFind) :=
  (eccChecked t ((if ue then [(w, EccFind.ue)] else []) ++ found)).filter fun f => f.1 / 8 == w / 8

/-- Evicts the line of word `w`, its read half with the errors it meets: an uncorrectable one discards the line's entries. -/
def evictMet (s : State) (lt w : Nat) (fs : List (Nat × EccFind)) : State :=
  if fs.any fun f => f.2 == .ue then
    (meetErrors (updTile s lt fun t => { t with spad := discardLine (chargeRd t.spad 1) (w / 8) }) lt ⟨0, none⟩ fs).1
  else updTile (correctAll s lt ⟨0, none⟩ fs) lt fun t => { t with spad := evictLine t.spad (w / 8) }

/-- MERGE_EVICT: the oldest entry with its line, when the buffer is full or drains.  R86 evicts a full buffer when a partial word needs an
entry; this row may also evict it before one does, and drains a tile whose region is in no step (DESIGN CHOICE, log entry 131).  An
eviction with an incomplete word reads the line first. -/
def execMergeEvict (lt : Nat) (ue : Bool) (s : State) (found : List (Nat × EccFind) := []) : Out :=
  needUnit (ltOk lt)
    (let t := tileOf s lt
     match t.spad.mb with
     | [] => .next s
     | e :: _ =>
       let reads := t.spad.mb.any fun x => x.word / 8 == e.word / 8 && x.bytes.length != 64
       if !(t.spad.mb.length == 16 || mergeDrains s lt) then .next s
       else .next (evictMet s lt e.word (if reads then evictFinds t e.word ue found else [])))

/-- Lines with an incomplete word that a tile's merge buffer held and holds no more: their evictions read them first (R86). -/
def evictedLines (t u : Tile) : List Nat :=
  (((t.spad.mb.filter fun e => e.bytes.length != 64).map fun e => e.word / 8).eraseDups).filter fun l => !u.spad.mb.any fun e => e.word / 8 == l

/-- A row whose writes evict lines of a tile.  An error that an eviction's read half meets is met as MERGE_EVICT meets it: that line is evicted
before the row's own effect, and after an uncorrectable one there is none (R94, R96, R98). -/
def withEvictions (s : State) (lt : Nat) (found : List (Nat × EccFind)) (row : State → Out) : Out :=
  match row s with
  | .next u =>
    let fs := (eccChecked (tileOf s lt) found).filter fun f => (evictedLines (tileOf s lt) (tileOf u lt)).contains (f.1 / 8)
    if fs = [] then .next u
    else
      let s1 := ((fs.map fun f => f.1 / 8).eraseDups).foldl (fun s l => evictMet s lt (8 * l) (fs.filter fun f => f.1 / 8 == l)) s
      if fs.any fun f => f.2 == .ue then .next s1 else row s1
  | o => o

/-- The chains of handlers that a row appended to a tile's queues: descriptors that only the tile after it holds. -/
def chainReads (t u : Tile) : List Rng :=
  let new := u.queues.flatMap fun e => (e.2.slots.filter fun x => decide (0xC000 ≤ x.idx) && !(queueOf t e.1).slots.any fun y => y.pos == x.pos).map (·.idx)
  ((new.map fun i => (i - 0xC000) / 64).eraseDups).map fun h =>
    let e := sget handlerReset t.handlers h
    (e.chainBase, 64 * e.chainLen)

/-- A row of no descriptor that reads the ranges `rs` of a tile: `found` lists the words in error, of which it meets those that it reads, in
those ranges as requester `who`, in a chain that it appends as requester 4, and in the evictions that its writes make. -/
def meetRow (s : State) (lt who : Nat) (rs : List Rng) (found : List (Nat × EccFind)) (row : State → Out) : Out :=
  match found, row s with
  | _ :: _, .next u =>
    let hit := fun (l : List Rng) (s : State) => (eccChecked (tileOf s lt) found).filter fun f => l.any (meets (64 * f.1, 64))
    let r := meetErrors s lt ⟨who, none⟩ (hit rs s)
    if r.2 then .next r.1
    else
      let r2 := meetErrors r.1 lt ⟨4, none⟩ (hit (chainReads (tileOf s lt) (tileOf u lt)) r.1)
      if r2.2 then .next r2.1 else withEvictions r2.1 lt found row
  | _, o => o

/-! ## A descriptor whose reads meet errors (R94 to R97) -/

/-- A descriptor row with the reads that its engine makes: the requester of Table 3.4 and the ranges. -/
structure ReadRow where
  want : Nat → Bool
  checks : State → FireCtx → List Nat
  act : State → FireCtx → FireRes
  requester : Nat
  reads : State → FireCtx → List Rng

/-- The consumed entries whose fields a descriptor reads (R103). -/
def entryRngs (s : State) (lt : Nat) (p : FirePlan) : List Rng :=
  let t := tileOf s lt
  ((takenIns s t p).filter fun x => entryReads p.d [(x.1, entryAt t x.2.1 x.2.2)] != 0).map fun x => (entryAddr (qcfgOf t x.2.1) x.2.2, 64)

/-- The errors that the head of a queue meets when it fires and its checks pass, with the reader they are recorded for: those of the
words that it reads. -/
def readErrors (s : State) (lt q : Nat) (x : ReadRow) (found : List (Nat × EccFind)) : Option (Reader × List (Nat × EccFind)) :=
  match fireReady s lt q with
  | none => none
  | some p =>
    let r := fireReserve s lt q p
    let c := r.2.1
    if ltOk lt && decide (q < 64) && x.want p.d && granted s lt q p && issueStatus r.1 c x.checks == stOk then
      some (⟨x.requester, some (q, p.idx)⟩,
        (eccChecked (tileOf s lt) found).filter fun f => (x.reads r.1 c ++ entryRngs s lt p).any (meets (64 * f.1, 64)))
    else none

/-- A descriptor row.  A correctable error is counted and the descriptor receives corrected data; an uncorrectable one takes the action of
its word, and nothing is written. -/
def errorRow (s : State) (lt q : Nat) (x : ReadRow) (found : List (Nat × EccFind)) : Out :=
  match readErrors s lt q x found with
  | none => fireRow s lt q x.want x.checks x.act
  | some (who, fs) =>
    let r := meetErrors s lt who fs
    if r.2 then .next r.1 else withEvictions r.1 lt found fun s => fireRow s lt q x.want x.checks x.act

/-! ## MATMUL and the stores of its engine (R48, R67, R98) -/

/-- What a matrix descriptor reads: activation rows or the window of its list, the stationary blocks that are streamed, epilogue
vectors. -/
def matReads (d : Nat) (g : MatGeom) : List Rng :=
  (match g.win with
    | some w => [(w.base, w.limit - w.base)]
    | none => rowRngs g.a (mAStride d) (mmRows d) (rowBytes (mAFmt d) (mK d))) ++
  ((matBlocks d g).filter fun b => !(matSkips d g).getD b.2.1 false).map (fun b => (b.2.2.1, wBlockBytes (mWFmt d) g.half.tag)) ++
  (if mE1 d = 1 || mE2 d != 0 then rowRngs (mEpi d) 512 g.nblk 512 else [])

/-- MATMUL as a row that reads. -/
def matmulRow : ReadRow := ⟨isMatmul, matChecks, actMatmul, 2, fun s c => matReads c.d (matGeom s c)⟩

/-- The errors of scratchpad words that a MATMUL meets. -/
def matmulErrors (s : State) (lt q : Nat) (found : List (Nat × EccFind)) : Option (Reader × List (Nat × EccFind)) :=
  readErrors s lt q matmulRow found

/-- Words of a store that a descriptor uses: of the activation store and the accumulators any, of the codebook stores the slots of the half
that it names. -/
def usesStore (d : Nat) (f : StoreFind) : Bool :=
  match f.store with
  | 0 => decide (f.index < 3072)
  | 1 => decide (f.index < 512)
  | 2 => decide (f.index < 16384) && namedHalf d == some (f.index / 4096)
  | _ => false

/-- The word address that the record gives for a word of a store. -/
def storeAddr (f : StoreFind) : Nat := (Config.storeWord f.store f.index).toNat

/-- A correctable error of a store: counted and recorded as a scratchpad error; no word of the scratchpad is written back for it. -/
def storeCorrectable (s : State) (lt : Nat) (who : Reader) (f : StoreFind) (bit : Nat) : State :=
  let wb := (tileOf s lt).spad.wb
  updTile (correctable s lt who (storeAddr f) bit) lt fun t => { t with spad := { t.spad with wb := wb } }

/-- An uncorrectable error of a store takes the action of a scratchpad word of its tile; the matrix engine is charged (Table 13.6). -/
def storeUncorrectable (s : State) (lt : Nat) (who : Reader) (f : StoreFind) : State :=
  let t := tileOf s lt
  let w := storeAddr f
  let bank := bankOf (64 * w)
  let s0 := { s with rep := { s.rep with faultSince := true } }
  if errRegion t = 16 then
    resetDevice (tileEvent s0 0x0001 t.region lt 2 bank (errRecord s 3 lt who w 0x3FF (sget 0 t.ceBank bank))) .controlUe
  else
    let rec_ := errRecord s 2 lt who w 0x3FF (sget 0 t.ceBank bank)
    let s1 := tileEvent s0 0x0102 t.region lt 2 bank rec_
    let pos := posOf s1 lt
    charge (resetTileCore (failStep s1 t.region 0x0102 (who.desc.map fun x => (lt, x.1, x.2))) lt) t.region
      (chargeAt s1 t.region (posKey 2 pos 0) f.store 3 f.store lt pos rec_) false

/-- What a MATMUL meets of the errors of its engine's stores. -/
def meetStores (s : State) (lt : Nat) (who : Reader) (fs : List StoreFind) : State × Bool :=
  let s1 := fs.foldl (fun s f => match f.find with
    | .ce bit => storeCorrectable s lt who f bit
    | .ue => s) s
  match fs.find? fun f => f.find == .ue with
  | some f => (storeUncorrectable s1 lt who f, true)
  | none => (s1, false)

/-- The errors of its engine's stores that the MATMUL at the head of a queue meets when it fires and its checks pass. -/
def storeErrors (s : State) (lt q : Nat) (stores : List StoreFind) : Option (Reader × List StoreFind) :=
  match fireReady s lt q, matmulErrors s lt q [] with
  | some p, some (who, _) => some (who, stores.filter (usesStore p.d))
  | _, _ => none

/-- MATMUL; `stores` lists the words in error of the activation store, the accumulators and the codebook stores. -/
def execMatmul (lt q : Nat) (s : State) (found : List (Nat × EccFind) := []) (stores : List StoreFind := []) : Out :=
  match storeErrors s lt q stores with
  | none => errorRow s lt q matmulRow found
  | some (who, fs) =>
    let r := meetStores s lt who fs
    if r.2 then .next r.1 else errorRow r.1 lt q matmulRow found

/-! ## The vector engine's descriptors: requester 3 -/

/-- What SRC_A reads: the rows of its access mode, or the window of its list. -/
def vecReadsA (s : State) (c : FireCtx) : List Rng :=
  match vecWin s c with
  | some w => [(w.base, w.limit - w.base)]
  | none =>
    match vSrcMode c.d with
    | 0 => rowRngs (vecA c) (vSrcStride c.d) (vRows c.d) (rowBytes (vSrcFmt c.d) (vLen c.d))
    | 1 => rowRngs (vecA c) (vSrcStride c.d) (vRows c.d) 64
    | 2 => rowRngs (vecA c) (vSrcStride c.d) (32 * ceilDiv (vRows c.d) 32) 64
    | _ => rowRngs (vecA c) (vSrcStride c.d) (32 * ceilDiv (vRows c.d) 64) 64

def ewRow : ReadRow := ⟨isVec 0 0 8, ewChecks, actElementwise, 3, fun s c => vecReadsA s c ++ ewReads c⟩
def reduceRow_ : ReadRow := ⟨isVec 1 0 3, reduceChecks, actReduce, 3, vecReadsA⟩
def attnRow : ReadRow := ⟨isVec 1 4 4, attnChecks, actAttnMerge, 3, fun _ c => entRngs c (mergeBytes c)⟩
def normRow_ : ReadRow := ⟨isVec 2 0 1, normChecks, actNorm, 3, fun s c => vecReadsA s c ++ normReads c⟩
def softRow : ReadRow := ⟨isVec 3 0 2, softChecks, actSoftmax, 3, fun s c => vecReadsA s c ++ softReads c⟩
def ropeRow_ : ReadRow := ⟨isVec 4 0 1, ropeChecks, actRope, 3, fun s c => vecReadsA s c ++ ropeReads c⟩
def activateRow : ReadRow := ⟨isVec 5 0 10, activateChecks, actActivate, 3, vecReadsA⟩
def topkRow_ : ReadRow := ⟨isVec 6 0 0, topkChecks, actTopk, 3, vecReadsA⟩
def mergeRow_ : ReadRow := ⟨isVec 6 1 1, mergeChecks, actMerge, 3, fun _ c => mergeRngs c ++ exchRngs c 0 64⟩
def drawRow : ReadRow := ⟨isVec 6 2 2, drawChecks, actDraw, 3, fun _ c => drawReads c⟩
def verifyRow : ReadRow := ⟨isVec 6 3 3, verifyChecks, actVerify, 3, fun _ c => verifyReads c⟩
def convertRow : ReadRow := ⟨isVec 7 0 0, convertChecks, actConvert, 3, vecReadsA⟩
def gateRow_ : ReadRow := ⟨isVec 8 0 2, gateChecks, actGate, 3, vecReadsA⟩
def combineRow : ReadRow := ⟨isVec 8 3 3, combineChecks, actCombine, 3, combineReads⟩

def execElementwise (lt q : Nat) (s : State) (found : List (Nat × EccFind) := []) : Out := errorRow s lt q ewRow found
def execReduce (lt q : Nat) (s : State) (found : List (Nat × EccFind) := []) : Out := errorRow s lt q reduceRow_ found
def execAttnMerge (lt q : Nat) (s : State) (found : List (Nat × EccFind) := []) : Out := errorRow s lt q attnRow found
def execNorm (lt q : Nat) (s : State) (found : List (Nat × EccFind) := []) : Out := errorRow s lt q normRow_ found
def execSoftmax (lt q : Nat) (s : State) (found : List (Nat × EccFind) := []) : Out := errorRow s lt q softRow found
def execRope (lt q : Nat) (s : State) (found : List (Nat × EccFind) := []) : Out := errorRow s lt q ropeRow_ found
def execActivate (lt q : Nat) (s : State) (found : List (Nat × EccFind) := []) : Out := errorRow s lt q activateRow found
def execTopk (lt q : Nat) (s : State) (found : List (Nat × EccFind) := []) : Out := errorRow s lt q topkRow_ found
def execMerge (lt q : Nat) (s : State) (found : List (Nat × EccFind) := []) : Out := errorRow s lt q mergeRow_ found
def execDraw (lt q : Nat) (s : State) (found : List (Nat × EccFind) := []) : Out := errorRow s lt q drawRow found
def execVerify (lt q : Nat) (s : State) (found : List (Nat × EccFind) := []) : Out := errorRow s lt q verifyRow found
def execConvert (lt q : Nat) (s : State) (found : List (Nat × EccFind) := []) : Out := errorRow s lt q convertRow found
def execGate (lt q : Nat) (s : State) (found : List (Nat × EccFind) := []) : Out := errorRow s lt q gateRow_ found
def execCombine (lt q : Nat) (s : State) (found : List (Nat × EccFind) := []) : Out := errorRow s lt q combineRow found

/-! ## The DMA engine's and the sending descriptors: requester 4; a codebook or scale load is requester 2 (Table 3.4) -/

def copyRow_ : ReadRow := ⟨isOp 2 0, copyChecks, actCopy, 4, fun _ c => localRngs c⟩
def putRow : ReadRow := ⟨isOp 2 1, putChecks, actPut, 4, fun _ c => localRngs c⟩
def basinWriteRow : ReadRow := ⟨isOp 2 4, basinWriteChecks, actBasinWrite, 4, fun _ c => localRngs c⟩
def siltWriteRow : ReadRow := ⟨isOp 2 6, siltWriteChecks, actSiltWrite, 4, fun _ c => localRngs c⟩
def storeLoadRow : ReadRow := ⟨isOp 2 7, storeLoadChecks, actStoreLoad, 2, fun _ c => localRngs c⟩
def sparsifyRow : ReadRow := ⟨isOp 2 8, sparsifyChecks, actSparsify, 4, fun _ c => localRngs c⟩

/-- SCATTER reads its rows, the records and the entries of the map that they name. -/
def scatterReads (s : State) (c : FireCtx) : List Rng :=
  localRngs c ++ [(scRecs c.d, 64 * mRows c.d), (scMap c.d, 8 * mapLen s c.lt)]
def scatterRow_ : ReadRow := ⟨isOp 2 9, scatterChecks, actScatter, 4, scatterReads⟩

/-- GATHER reads its rows and the row map of the posted buffer. -/
def gatherReads (s : State) (c : FireCtx) : List Rng :=
  ((gaRows c).map fun n => (gaSrc s c n, mLen c.d)) ++
    [(eOffset (gaEntry c) + gaBatch s c * 64 * (gaRec s c).rowPitch, 32 * eLength (gaEntry c))]
def gatherRow : ReadRow := ⟨isOp 2 10, gatherChecks, actGather, 4, gatherReads⟩

def messageRow : ReadRow := ⟨isOp 5 0, messageChecks, actMessage, 4, fun _ c => [(sLocal c, sLen c.d)]⟩
def contributeRow : ReadRow := ⟨isOp 5 1, contributeChecks, actContribute, 4, fun _ c => [(sLocal c, sLen c.d)]⟩

def execCopy (lt q : Nat) (s : State) (found : List (Nat × EccFind) := []) : Out := errorRow s lt q copyRow_ found
def execPut (lt q : Nat) (s : State) (found : List (Nat × EccFind) := []) : Out := errorRow s lt q putRow found
def execBasinWrite (lt q : Nat) (s : State) (found : List (Nat × EccFind) := []) : Out := errorRow s lt q basinWriteRow found
def execSiltWrite (lt q : Nat) (s : State) (found : List (Nat × EccFind) := []) : Out := errorRow s lt q siltWriteRow found
def execStoreLoad (lt q : Nat) (s : State) (found : List (Nat × EccFind) := []) : Out := errorRow s lt q storeLoadRow found
def execSparsify (lt q : Nat) (s : State) (found : List (Nat × EccFind) := []) : Out := errorRow s lt q sparsifyRow found
def execScatter (lt q : Nat) (s : State) (found : List (Nat × EccFind) := []) : Out := errorRow s lt q scatterRow_ found
def execGather (lt q : Nat) (s : State) (found : List (Nat × EccFind) := []) : Out := errorRow s lt q gatherRow found
def execMessage (lt q : Nat) (s : State) (found : List (Nat × EccFind) := []) : Out := errorRow s lt q messageRow found
def execContribute (lt q : Nat) (s : State) (found : List (Nat × EccFind) := []) : Out := errorRow s lt q contributeRow found

/-! ## Accesses of no descriptor: the mesh (requester 1), scan-out and the castling copy (requester 5) -/

/-- Errors among `found` in the words of a range of a tile. -/
def rangeFinds (s : State) (lt : Nat) (r : Rng) (found : List (Nat × EccFind)) : List (Nat × EccFind) :=
  (eccChecked (tileOf s lt) found).filter fun f => meets (64 * f.1, 64) r

/-- READ_REQ_RX with the errors that the read of its data meets: with an uncorrectable one no data starts back. -/
def readReqMet (s : State) (lt : Nat) (p : Packet) (found : List (Nat × EccFind)) : State :=
  let fs := rangeFinds s lt (fld p.transport.toNat 230 26, fld p.transport.toNat 198 32) found
  let r := meetErrors s lt ⟨1, none⟩ fs
  if r.2 then r.1 else readReq r.1 lt p

/-- READ_REQ_RX. -/
def execReadReqRx (lt : Nat) (s : State) (found : List (Nat × EccFind) := []) : Out :=
  withInbox s lt (fun p => p.typ == tReadReq) (fun s p => readReqMet s lt p found)

/-- SCAN_OUT reads the rings of its target tile; an error is recorded for the target. -/
def execScanOut (lt q : Nat) (s : State) (found : List (Nat × EccFind) := []) : Out :=
  match readErrors s lt q ⟨isOp 3 0, scanChecks, actScanOut, 5, fun _ _ => []⟩ [], fireReady s lt q with
  | some _, some p =>
    let target := scLt p.d
    let rs := if bitOf (scScope p.d) 0 then (ringsOf (tileOf s target)).map fun x => (x.1, 64) else []
    let fs := (eccChecked (tileOf s target) found).filter fun f => rs.any (meets (64 * f.1, 64))
    let r := meetErrors s target ⟨5, none⟩ fs
    if r.2 then .next r.1 else fireRow r.1 lt q (isOp 3 0) scanChecks actScanOut
  | _, _ => fireRow s lt q (isOp 3 0) scanChecks actScanOut

/-- FETCH_LINE: the line is read under requester 4 (R105). -/
def execFetchLine (lt q : Nat) (s : State) (found : List (Nat × EccFind) := []) : Out :=
  let t := tileOf s lt
  let i := (queueOf t q).fetchIdx
  meetRow s lt 4 (if fetchReady s lt q then [((qcfgOf t q).streamBase + 512 * (i / 8), 512)] else []) found (fetchRow lt q)

/-- WRITE_PACKET_RX. -/
def execWritePacketRx (lt : Nat) (s : State) (found : List (Nat × EccFind) := []) : Out := meetRow s lt 1 [] found (writePacketRow lt)

/-- READ_DATA_RX. -/
def execReadDataRx (lt : Nat) (s : State) (found : List (Nat × EccFind) := []) : Out := meetRow s lt 1 [] found (readDataRow lt)

/-- MSG_PACKET_RX. -/
def execMsgPacketRx (lt : Nat) (s : State) (found : List (Nat × EccFind) := []) : Out := meetRow s lt 1 [] found (msgPacketRow lt)

/-- EXPERT_ROW_RX. -/
def execExpertRowRx (lt : Nat) (s : State) (found : List (Nat × EccFind) := []) : Out := meetRow s lt 1 [] found (expertRowRow lt)

/-- EXPERT_CLOSE_RX. -/
def execExpertCloseRx (lt : Nat) (s : State) (found : List (Nat × EccFind) := []) : Out := meetRow s lt 1 [] found (expertCloseRow lt)

/-- COLL_PACKET_RX. -/
def execCollPacketRx (die : Nat) (lt : Option Nat) (s : State) (found : List (Nat × EccFind) := []) : Out :=
  match lt with
  | some t => meetRow s t 1 [] found (collPacketRow die lt)
  | none => collPacketRow die lt s

/-- The bytes that packet `k` of a flow of a tile reads when it is sent again, and their reader: the DMA engine's for a flow of a descriptor,
the mesh's for a returning flow. -/
def resentReads (t : Tile) (f k : Nat) : Nat × List Rng :=
  let of := fun (x : Xfer) => match x.pieces[k - (if x.inl = [] then 0 else 1)]? with
    | some p => if x.typ = tReadReq then [] else [(p.2.1, p.2.2)]
    | none => []
  if f < 16 then (4, ((t.flows.find? fun e => e.1 == f).map fun e => of e.2.x).getD [])
  else (1, ((t.returns[f - 16]?).map fun fl => of fl.x).getD [])

/-- A row that may send one packet of a tile's flow again: it reads the packet's bytes only if it does. -/
def resendRow (lt f k : Nat) (s : State) (found : List (Nat × EccFind)) (row : State → Out) : Out :=
  let x := resentReads (tileOf s lt) f k
  let sends := match row s with
    | .next u => u.tiles != s.tiles
    | _ => false
  meetRow s lt x.1 (if sends then x.2 else []) found row

/-- NACK_RB_RETRY. -/
def execNackRbRetry (lt flow seq : Nat) (s : State) (found : List (Nat × EccFind) := []) : Out :=
  resendRow lt flow seq s found (nackRbRetryRow lt flow seq)

/-- RETRANSMIT_TIMEOUT. -/
def execRetransmitTimeout (lt flow seq : Nat) (s : State) (found : List (Nat × EccFind) := []) : Out :=
  resendRow lt flow seq s found (retransmitRow lt flow seq)

/-- A castling copy whose read met an uncorrectable error in job data: the tile that leaves the position and the one that comes to it are
rebuilt from Basin (Table 12.8). -/
def spoilCopy (s : State) (c : Castle) (pos lt : Nat) : State :=
  { s with rep := { s.rep with castle := some { c with
    spoiled := (movingTo c pos).elim (setIns lt c.spoiled) fun l => setIns l (setIns lt c.spoiled)
    done := setIns lt c.done } } }

/-- The copy sent from a position has arrived: a CRC mismatch has the tile rebuilt from Basin; a second one at the same receiver declares
that position failed, and the tile that was to occupy it becomes absent. -/
def copyDone (s : State) (c : Castle) (lt : Nat) (crcOk : Bool) : State :=
  let c1 := if crcOk then { c with done := setIns lt c.done }
    else if c.rebuild.contains lt then { c with lost := setIns lt c.lost, done := setIns lt c.done }
    else { c with rebuild := setIns lt c.rebuild, done := setIns lt c.done }
  { s with rep := { s.rep with castle := some c1 } }

/-- CASTLING_COPY_DONE.  A correctable error of the copy's reads is corrected and counted; an uncorrectable one in job data resets the
sending tile core and spoils the copy, one in the control window resets the device. -/
def execCastlingCopyDone (pos : Nat) (crcOk : Bool) (s : State) (found : List (Nat × EccFind) := []) : Out :=
  needUnit (posOk pos)
    (match s.rep.castle with
      | none => .next s
      | some c =>
        match movingFrom c pos with
        | none => .next s
        | some lt =>
          if lt = c.lt then .next s
          else
            let r := meetErrors s lt ⟨5, none⟩ (eccChecked (tileOf s lt) found)
            if !r.2 then .next (copyDone r.1 c lt crcOk)
            else match r.1.rep.castle with
              | some c1 => .next (spoilCopy r.1 c1 pos lt)
              | none => .next r.1)

/-! ## The token scheduler's stores (R97, R135) -/

/-- An uncorrectable error in the words of the context store or the page-list store that the token scheduler reads: they are control
structures, so the record is posted and the device is reset (R97, R135).  Of the record, whose other fields name a tile's word, TYPE alone is
laid down; the rest is free (log 137). -/
def ctxStoreUe (s : State) : State :=
  let f := takeFree { s with rep := { s.rep with faultSince := true } }
  resetDevice (devEvent f.2 0x0001 0 0xFF ((List.range 15).map (Config.freeByte f.1) ++ [3])) .controlUe

/-- SEQUENCE_ADMISSION: the next admission that waits; `ue` says that the scheduler's read of its stores met an uncorrectable error. -/
def execSequenceAdmission (r : Nat) (s : State) (ue : Bool := false) : Out :=
  onRegion r s fun _ => if ue then ctxStoreUe s else nextAdmission s r

/-- SEQUENCE_RELEASE, likewise. -/
def execSequenceRelease (r : Nat) (s : State) (ue : Bool := false) : Out :=
  onRegion r s fun _ => if ue then ctxStoreUe s else nextRelease s r

/-- A row in which the token scheduler reads context records or page-list entries: `ue` says that a read met an uncorrectable error.
A corrected word is the word as it was written (R93), and the counts of R95 are a tile's. -/
def ctxRow (r : Nat) (ue : Bool) (s : State) (row : State → Out) : Out :=
  if ue then onRegion r s fun _ => ctxStoreUe s else row s

def execStepStart (r : Nat) (s : State) (ue : Bool := false) : Out := ctxRow r ue s (stepStartRow r)
def execLocalConditionsMet (r : Nat) (s : State) (ue : Bool := false) : Out := ctxRow r ue s (localConditionsMetRow r)
def execPrefixReplyRx (r : Nat) (m : PrefixReply) (s : State) (ue : Bool := false) : Out := ctxRow r ue s (prefixReplyRow r m)
def execPagePushRx (r : Nat) (m : PagePush) (s : State) (ue : Bool := false) : Out := ctxRow r ue s (pagePushRow r m)
def execCommitNoticeRx (r : Nat) (m : CommitNotice) (s : State) (ue : Bool := false) : Out := ctxRow r ue s (commitNoticeRow r m)
def execSeqHandoffRx (r : Nat) (m : SeqHandoff) (s : State) (ue : Bool := false) : Out := ctxRow r ue s (seqHandoffRow r m)
def execHandoffTimeout (r ctx : Nat) (s : State) (ue : Bool := false) : Out := ctxRow r ue s (handoffTimeoutRow r ctx)
def execHandoffActivation (r ctx : Nat) (s : State) (ue : Bool := false) : Out := ctxRow r ue s (handoffActivationRow r ctx)

end Sys2Proof.Machine
end

