-- ==== Sys2Proof/Machine/Functions.lean ====
section
/-! DEFINITION. Functions: outcomes written out, function disable and function reset, heartbeats of host, firmware and management
cores (R309, R310, R314, R316, R326, R349, Tables 11.8, 11.20). -/

namespace Sys2Proof.Machine

/-! ## Outcomes (R309, R310) -/

/-- Bytes 4 to 21 of a COMPLETION entry. -/
def outcomeBytes (q : Req) : List Byte :=
  leBytes q.tag 2 ++ leBytes q.status 2 ++ leBytes q.id 8 ++ leBytes q.partMap 2 ++ leBytes q.partsMinus1 1 ++ leBytes q.region 1

/-- A COMPLETION entry. -/
def completionEntry (q : Req) : List Byte :=
  padTo ([0x01, 0x00] ++ leBytes q.opcode 2 ++ outcomeBytes q ++ zeros 4 ++ padTo q.result 40) 64

/-- A FUNCTION_ABORT entry on the PF's ring. -/
def abortEntry (f : Nat) (q : Req) : List Byte :=
  padTo ([0x05, 0x00] ++ leBytes f 2 ++ padTo (outcomeBytes q) 18 ++ leBytes q.opcode 2) 64

/-- Enters an outcome into the request log, which keeps the 4,096 most recent. -/
def logReq (v : Fn) (q : Req) : Fn :=
  let l := v.reqLog ++ [q]
  { v with requests := v.requests.filter fun x => x.id != q.id, reqLog := l.drop (l.length - 4096) }

/-- Writes out the outcome of a finished request: to the log always, and to the ring that Table 11.20 names. -/
def publishReq (s : State) (f : Nat) (q : Req) : State :=
  let s1 := updFn s f fun v => logReq v q
  match (fnOf s f).drain with
  | none | some (_, .command) => ringPost s1 f (completionEntry q)
  | some (_, .vfReset) => ringPost s1 0 (abortEntry f q)
  | some (_, .pfReset) => s1

/-- Aborts every open request of a function that satisfies `p`, with its part map as reached. -/
def abortReqs (s : State) (f : Nat) (p : Req → Bool) : State :=
  ((fnOf s f).requests.filter fun q => !q.finished && p q).foldl (fun s q =>
    updReq s f q.id fun q => { q with status := 0x000A, finished := true }) s

/-- Writes out every finished request of a function. -/
def publishAll (s : State) (f : Nat) : State :=
  ((fnOf s f).requests.filter (·.finished)).foldl (fun s q => publishReq s f q) s

/-! ## Function disable and function reset (R326) -/

/-- Regions that a function owns. -/
def ownedRegions (s : State) (f : Nat) : List Nat := (s.regions.filter fun e => e.2.owner == f).map (·.1)

/-- Adds a boundary action to a region. -/
def addAct (s : State) (r : Nat) (a : BAct) (req : Option (Nat × Nat)) : State :=
  updRegion { s with orderNo := s.orderNo + 1 } r fun g => { g with boundary := g.boundary ++ [⟨a, req, s.orderNo⟩] }

/-- The trigger: no new work, running regions stop at their boundary, and a function reset aborts what needs host DMA and destroys
the regions. -/
def startDisable (s : State) (f : Nat) (kind : DisableKind) : State :=
  let s1 := raiseCause (setFn s f { fnOf s f with disabled := true, drain := some (s.now, kind) }) f causeDisable
  let s2 := (ownedRegions s1 f).foldl (fun s r =>
    let s := if (regionOf s r).any (·.running) then addAct s r (.stop 0x000A) none else s
    if kind = .command then s else addAct s r .destroy none) s1
  if kind = .command then s2 else abortReqs s2 f (·.hostDma)

/-- A function after its reset: enabled, READY, its mailbox and interrupt registers reset, no region; the request log, the next
REQ_ID and the quota stay. -/
def fnAfterFlr (s : State) (v : Fn) : Fn :=
  { fnReset with
    reqLog := v.reqLog, nextReq := v.nextReq, quota := v.quota, msix := v.msix, pba := v.pba, bme := v.bme, d3 := v.d3
    alarms := v.alarms, alarmDrop := v.alarmDrop, alarmReported := v.alarmReported, ready := s.flt.state == 5 }

/-- Drain limit in ms. -/
def drainMs (v : Fn) (kind : DisableKind) : Nat := if kind = .command then v.disableMs else Nat.min v.disableMs 90

/-- Destroys a region that has not reached its boundary when the drain limit comes: its step is discarded first. -/
def destroyNow (s : State) (r : Nat) : State :=
  withRegion s r fun g =>
    let s1 := stopRegion (if atBoundary g then s else settleCharges (stepDiscard s r) r true) r 0x000A
    destroyRegion s1 r g none

/-- The end of the drain: what is still open is aborted, every outcome goes where it belongs, and a function reset is complete. -/
def endDrain (s : State) (f : Nat) (kind : DisableKind) : State :=
  let s0 := if kind = .command then s else (ownedRegions s f).foldl destroyNow s
  let s1 := publishAll (abortReqs s0 f fun _ => true) f
  if kind = .command then
    let done := (fnOf s1 0).requests.filter fun q => q.opcode == 0x0005 && q.result == leBytes f 1 && !q.finished
    let s2 := done.foldl (fun s q => finishReq s 0 q.id csSuccess []) (updFn s1 f fun v => { v with drain := none })
    raiseCause s2 f causeDisable
  else raiseCause (setFn s1 f (fnAfterFlr s1 (fnOf s1 f))) f causeDisable

/-- FUNCTION_DRAIN_LIMIT. -/
def execFunctionDrainLimit (func : Nat) (s : State) : Out :=
  needUnit (funcOk func)
    (match (fnOf s func).drain with
      | some (t, kind) => whenB (decide (t + drainMs (fnOf s func) kind * cyclesPerMs ≤ s.now)) s (endDrain s func kind)
      | none => .next s)

/-- VF_FLR. -/
def execVfFlr (func : Nat) (s : State) : Out :=
  needUnit (funcOk func) (whenB (func != 0) s (startDisable s func .vfReset))

def vfList : List Nat := (List.range 16).map (· + 1)

/-- VF_ENABLE_CLEARED: every VF. -/
def execVfEnableCleared (s : State) : Out :=
  .next ((vfList.foldl (fun s f => startDisable s f .vfReset) { s with idn := { s.idn with vfs := 0 } }))

/-- A PF event that stops every function (Table 11.20). -/
def stopFunctions (s : State) : State := (List.range 17).foldl (fun s f => startDisable s f .pfReset) s

/-- PF_FLR_OR_LINK_DOWN. -/
def execPfFlrOrLinkDown (_kind : PfStop) (s : State) : Out := .next (stopFunctions s)

/-! ## Heartbeats (R314, R316, R349) -/

/-- FW_DEAD: the control firmware's beat has not changed for 10 ms. -/
def execFwDead (s : State) : Out :=
  whenB (!fwAlive s) s ((List.range 17).foldl (fun s f => raiseCause s f causeFwDead) s)

/-- HOST_BEAT_MISSED: HOST_LATE, HOST_SILENT, and with BEAT_STOP the function's running regions stop at their next boundary. -/
def execHostBeatMissed (func : Nat) (s : State) : Out :=
  needUnit (funcOk func)
    (let v := fnOf s func
     if v.beatMs = 0 ∨ s.now < v.beatAt + v.beatMs * cyclesPerMs then .next s
     else
       let s1 := setFn s func { v with hostLate := true, beatAt := s.now, w1c := noteSet v.w1c 25 s.now }
       let s2 := postEvent s1 ⟨0x0701, 0xFF, 0x3FF, 0xFF, 0xFF, 0, 0xFF, func, 0, []⟩
       .next (if v.beatStop then (ownedRegions s2 func).foldl (fun s r =>
         if (regionOf s r).any (·.running) then addAct s r (.stop 0x0014) none else s) s2 else s2))

/-- The Wellhead's watchdog reset, 100 ms after the first miss of 20 ms. -/
def watchdogReset (s : State) (from_ : Nat) : State :=
  let s1 := devEvent s 0x0003 0 0xFF []
  { s1 with pwr := { s1.pwr with resetPend := some (.watchdog, from_ + 80 * cyclesPerMs) } }

/-- MC_CORE_WATCHDOG: `missed` lists the cores that have missed 20 ms.  One is restarted, and READY reads 0 meanwhile; two or more,
or a restart that has taken 50 ms, lead to a device reset. -/
def execMcCoreWatchdog (missed : List Nat) (s : State) : Out :=
  let cores := (missed.filter fun c => decide (c < 4)).eraseDups
  match s.pwr.coreRestart with
  | some t =>
    if cores.length ≥ 2 || decide (t + 50 * cyclesPerMs ≤ s.now) then .next (watchdogReset s t) else .next s
  | none =>
    match cores with
    | [] => .next s
    | [_] =>
      let s1 := { s with pwr := { s.pwr with coreRestart := some s.now } }
      .next ((List.range 17).foldl (fun s f => updFn s f fun v => { v with ready := false }) s1)
    | _ => .next (watchdogReset s s.now)

end Sys2Proof.Machine
end

