-- ==== Sys2Proof/Machine/Bringup.lean ====
section
/-! DEFINITION. Bring-up: the start of the control firmware, self-test with its zeroisation and records, the logical map, journal
replay, and orderly shutdown (R329 to R339, R396, R397). -/

namespace Sys2Proof.Machine

/-! ## The logical map (R339) -/

/-- Logical tiles of a row with the positions they get: ascending, over the row's positions that have not failed. -/
def rowMap (failed : List Nat) (row : Nat × Nat) : List (Nat × Option Nat) :=
  let x0 := if row.1 % 2 = 0 then 0 else 13
  let ok := ((List.range 13).map fun i => 26 * row.2 + x0 + i).filter fun p => !failed.contains p
  let lts := rowTiles row
  (List.range lts.length).map fun i => (lts.getD i 0, ok[i]?)

/-- LOGICAL_MAP_BUILD: map and absent tiles from the failed-position list; failed positions are fenced. -/
def buildMap (s : State) : State :=
  let all := allRows.flatMap (rowMap s.rep.failed)
  let moved : List (Nat × Nat) := all.filterMap fun e => e.2.bind fun p => if p = defaultPos e.1 then none else some (e.1, p)
  let gone := (all.filter fun e => e.2.isNone).map (·.1)
  let s1 := { s with
    ltMap := moved.foldl (fun m (e : Nat × Nat) => sins e.1 e.2 m) [], absent := gone.foldl (fun l k => setIns k l) [] }
  s1.rep.failed.foldl (fun s p => setTilePos s p { tileAtPos s p with heldReset := true, fenced := true }) s1

/-! ## Namespaces and their keys (R396, R397) -/

/-- Unwraps every stored key pair under the current KW: a pair wrapped under another belongs to a sealed namespace. -/
def unwrapNs (s : State) : State :=
  updSilt s fun x => { x with nss := x.nss.map fun n =>
    if n.2.wrap = s.sec.kw then (n.1, { n.2 with opened := true, keyed := true, isSealed := false })
    else (n.1, { n.2 with opened := false, keyed := false, isSealed := true }) }

/-- The start of Silt: the journal is replayed on the map last written (R293), and the key slots are loaded. -/
def journalReplay (s : State) : State :=
  unwrapNs (updSilt s fun x => { applyJournal (dropTxns x fun _ => true) with halted := false })

/-! ## Zeroisation (R334) -/

/-- Changes every listed tile of a die. -/
def updDieTiles (s : State) (die : Nat) (f : Tile → Tile) : State :=
  ((s.tiles.map (·.1)).filter fun p => dieOfPos p == die).foldl (fun s p => setTilePos s p (f (tileAtPos s p))) s

/-- A tile whose scratchpad and stores have been zeroised. -/
def zeroTile (t : Tile) : Tile := { t with spad := { spadEmpty with rd := t.spad.rd, wr := t.spad.wr }, halves := [], actStore := [], accBanks := [] }

/-- Zeroises a die: its tiles and key registers, on die 0 the region keys, the Silt key slots and the Alias private key; then
ZEROIZE_DONE. -/
def zeroizeDie (s : State) (die : Nat) : State :=
  let s1 := updDieTiles { s with rep := { s.rep with zeroized := setIns die s.rep.zeroized } } die zeroTile
  if die = 0 then
    { s1 with
      sec := { s1.sec with regionKeys := [], aliasHeld := false }
      silt := { s1.silt with nss := s1.silt.nss.map fun n => (n.1, { n.2 with opened := false, keyed := false }) } }
  else s1

/-! ## Self-test (R333 to R337) -/

/-- FW_ID of the running image. -/
def runningId (s : State) : Nat := (slotImage s s.idn.fwSlot).elim 0 (·.fwId)

/-- Starts a run: KIND 0 in a shutdown, 1 at a start; the conditions of R333 are set. -/
def startRun (s : State) (kind : Nat) : State :=
  let run : TestRun := ⟨kind, s.rep.runNo, wallSecs s, 1100, 750, 0, [], 0, 0, 0, 0, runningId s, [], []⟩
  let cond := fun (d : DieClock) => { d with mhz := 1100, setMv := 750, oldMv := 750, slewTo := s.now }
  { s with
    rep := { s.rep with run := some run, zeroized := [] }
    pwr := { s.pwr with dies := (List.range 4).map fun d => (d, cond (sget dieClockReset s.pwr.dies d)) } }

/-- The operating point after a run: every die back at the top step. -/
def serviceClocks (s : State) : State :=
  { s with pwr := { s.pwr with dies := (s.pwr.dies.map fun d => (d.1, { dieClockReset with
    trnRef := d.2.trnRef, capFloor := d.2.capFloor })).filter fun d => d.2 != dieClockReset } }

/-- The Palacy record of a self-test finding: CLASSIFY 3. -/
def testPalacy (s : State) (key pos sigClass action : Nat) (f : Charge → Charge) : State :=
  palacy s 31 (f { chargeAt s 31 key 0 sigClass 0 (ltAt s pos) pos [] with step := 0 }) 3 2 action

/-- Records a position failed in a run, once. -/
def failPosition (s : State) (pos : Nat) : State :=
  { s with rep := { s.rep with failed := setIns pos s.rep.failed, faultSince := true } }

/-- The macro entries of a position: a repair is kept, each entry becomes a Palacy record. -/
def noteMacros (s : State) (x : PosResult) : State :=
  x.macros.foldl (fun s m =>
    let (bank, kind, row, lane, bit) := m
    let s1 := if kind = 1 ∨ kind = 2 then
        { s with rep := { s.rep with repairs := s.rep.repairs ++ [(x.pos, bank, kind, row, lane, bit)] } } else s
    testPalacy s1 (posKey 1 x.pos bank) x.pos 0x0C (if kind = 3 then 0 else 7) fun c => { c with lane := lane, row := row, bit := bit }) s

/-- Whether a position fails: its tile's or router's signature, or a macro beyond its redundancy. -/
def unrepairable (x : PosResult) : Bool := x.macros.any fun m => m.2.1 == 3
def positionFails (x : PosResult) : Bool := x.tileFail || x.routerFail || unrepairable x

/-- The result of one position (R335, R336); a failed router no longer runs, and a tile failed by logic BIST keeps its router. -/
def notePosition (s : State) (x : PosResult) : State :=
  if s.rep.failed.contains x.pos then s
  else
    let s1 := noteMacros s x
    let s2 := if x.routerFail then updRouter s1 x.pos fun r => { r with alive := false } else s1
    if positionFails x then
      let s3 := failPosition s2 x.pos
      if x.routerFail then testPalacy s3 (posKey 6 x.pos 0) x.pos 0x0B 0 id
      else if x.tileFail then testPalacy s3 (posKey 0 x.pos 0) x.pos 0x0B 0 id
      else s3
    else s2

/-- A run's counts with the results of a pair of dies. -/
def countRun (run : TestRun) (pair : Nat) (xs : List PosResult) : TestRun :=
  let n := fun (p : PosResult → Nat) => (xs.map p).foldl (· + ·) 0
  { run with
    diesDone := run.diesDone ++ [2 * pair, 2 * pair + 1]
    tilesFailed := run.tilesFailed + n fun x => b2n (x.tileFail || unrepairable x)
    routersFailed := run.routersFailed + n fun x => b2n x.routerFail
    macrosRepaired := run.macrosRepaired + n fun x => (x.macros.filter fun m => m.2.1 != 3).length
    macrosFailed := run.macrosFailed + n fun x => (x.macros.filter fun m => m.2.1 == 3).length
    entries := run.entries ++ xs }

/-! ## P3 and the end of a run -/

/-- P3: everything but the Wellhead, the record store and the SPI NOR is off. -/
def enterP3 (s : State) : State :=
  let lit := (s.fab.ports.filter fun p => pExpected p.2).map (·.1)
  let s1 := clearDevice s false
  { s1 with
    fns := [], flt := { s1.flt with state := 6 }
    pwr := { s1.pwr with p3 := true, expected := lit, railsUp := false, pwrOk := false, wakeN := true } }

/-- The part of the start that both paths share from the map on (Table 12.2 steps 7 to 9). -/
def finishStart (s : State) : State :=
  let s1 := journalReplay (setFootprints (buildMap s))
  { s1 with flt := { s1.flt with state := 4 }, sec := { s1.sec with aliasHeld := true } }

/-- Ends a run: its record is kept with the last four, and the shutdown or the start goes on. -/
def endTest (s : State) (run : TestRun) : State :=
  let s1 := serviceClocks { s with rep := { s.rep with
    run := none, runs := (run :: s.rep.runs).take 4, runNo := s.rep.runNo + 1
    faultSince := if run.outcome = 0 then false else s.rep.faultSince } }
  if run.kind = 0 then
    enterP3 { s1 with rep := { s1.rep with cleanStart := run.outcome == 0 } }
  else if run.outcome = 4 then s1
  else if 1 ≤ run.outcome ∧ run.outcome ≤ 3 then
    if s1.rep.retried then haltStart s1 0x0301
    else startRun { s1 with rep := { s1.rep with retried := true } } 1
  else finishStart s1

/-- OUTCOME of a pair's run: refused when the clock or VDD_TILE is out of range at its start (R333). -/
def runOutcome (outcome clockMhz vddMv : Nat) : Nat :=
  if clockMhz < 1000 ∨ 1200 < clockMhz then 1 else if vddMv < 700 ∨ 800 < vddMv then 2 else outcome

/-- SELF_TEST_DONE: one pair of dies, dies 0 and 1 before 2 and 3. -/
def execSelfTestDone (pair outcome clockMhz vddMv : Nat) (results : List PosResult) (s : State) : Out :=
  match s.rep.run with
  | none => .next s
  | some run0 =>
    let due := run0.diesDone.length / 2
    if pair ≠ due then .next s
    else
      let run := { run0 with clockMhz := clockMhz, vddMv := vddMv, outcome := runOutcome outcome clockMhz vddMv }
      if run.outcome ≠ 0 then .next (endTest s run)
      else
        let mine := results.filter fun x => posOk x.pos && dieOfPos x.pos / 2 == pair
        let s1 := mine.foldl notePosition (zeroizeDie (zeroizeDie s (2 * pair)) (2 * pair + 1))
        let run1 := countRun run pair mine
        .next (if pair = 1 then endTest s1 run1 else { s1 with rep := { s1.rep with run := some run1 } })

/-- ZEROIZE_TIMEOUT: a tile of a die that is being zeroised is fenced and its position recorded failed. -/
def execZeroizeTimeout (pos : Nat) (s : State) : Out :=
  needUnit (posOk pos)
    (match s.rep.run with
      | none => .next s
      | some run =>
        if s.rep.zeroized.contains (dieOfPos pos) || s.rep.failed.contains pos then .next s
        else
          let s1 := failPosition (setTilePos s pos { tileAtPos s pos with heldReset := true, fenced := true }) pos
          let s2 := { s1 with rep := { s1.rep with run := some { run with
            tilesFailed := run.tilesFailed + 1, timeouts := setIns pos run.timeouts } } }
          .next (testPalacy s2 (posKey 0 pos 0) pos 0x0B 0 id))

/-! ## The start of the control firmware (R329, R331, R332) -/

/-- TILE_FIRMWARE_BROADCAST: a position named twice has mismatched again after its reload and is failed. -/
def broadcast (s : State) (bad : List Nat) : State :=
  (bad.eraseDups.filter fun p => posOk p && decide (2 ≤ bad.count p) && !s.rep.failed.contains p).foldl (fun s p =>
    posEvent (failPosition s p) 0x0607 p 0 0xFF []) s

/-- Ports whose saved TRN_PORT_CTL has EN = 1 are enabled. -/
def enableSaved (s : State) : State :=
  s.fab.savedCtl.foldl (fun s e => if bitOf e.2 31 then
    enablePort (updPort s e.1 fun p => { p with ctl := setFld e.2 31 1 0 }) e.1 else s) s

/-- Basin stacks that failed to initialise (Table 12.3). -/
def basinStart (s : State) (ok : List Bool) : State :=
  let bad := (List.range 4).filter fun k => !ok.getD k true
  let s1 := { s with rep := { s.rep with basinBad := bad } }
  if bad = [] then s1
  else bad.foldl (fun s k => devEvent s 0x0607 10 k []) (setBootError s1 0x0201)

/-- FIRMWARE_START: the incarnation goes up, Silt initialises its channels (R282, R283), the clean-start record is consumed and chooses the path; the fast path goes on to the
map at once, the full path to self-test. -/
def execFirmwareStart (basinOk : List Bool) (badDigests : List Nat) (s : State) (pages : List (Nat × ParamPage) := [])
    (nand : SiltStart := {}) : Out :=
  if s.flt.state ≠ 2 then .next s
  else
    let fast := s.rep.cleanStart
    let s1 := { s with
      fab := { s.fab with inc := (s.fab.inc + 1) % 2 ^ 16 }
      rep := { s.rep with cleanStart := false }
      flt := { s.flt with startPath := if fast then 1 else 2, beatAt := s.now, fwBeat := (s.flt.fwBeat + 1) % 2 ^ 32 }
      sec := { s.sec with kw := kwOf s.idn.lifecycle 0 }
      idn := { s.idn with assigned := s.fab.savedDev.isSome, deviceId := s.fab.savedDev.getD 0 } }
    let s2 := enableSaved (broadcast (startSilt (readParamPages (basinStart s1 basinOk) pages) nand) badDigests)
    .next (if fast then finishStart s2 else startRun { s2 with flt := { s2.flt with state := 3 } } 1)

/-! ## Orderly shutdown (R338, R403, R405) -/

/-- Whether every region stands stopped at a boundary and no deferred request is open. -/
def shutdownReady (s : State) : Bool :=
  (s.regions.all fun e => atBoundary e.2 && !e.2.running) && (List.range 17).all fun f => (fnOf s f).requests.all (·.finished)

/-- PME_TURN_OFF with the PF in D3hot: regions are stopped at their boundaries; once all stand and every request has completed,
the outcomes and records are written out, Silt writes a checkpoint, and the self-test runs. -/
def execPmeTurnOff (s : State) : Out :=
  if !(fnOf s 0).d3 || s.rep.run.isSome || s.pwr.p3 || s.flt.state != 5 then .next s
  else if shutdownReady s then
    let s1 := flushRecords ((List.range 17).foldl publishAll s)
    .next (startRun (checkpointNow s1) 0)
  else
    let rs := (s.regions.filter fun e => e.2.running && !e.2.boundary.any fun b => b.act == BAct.stop 0).map (·.1)
    .next (rs.foldl (fun s r => addAct s r (.stop csSuccess) none) s)

end Sys2Proof.Machine
end

