-- ==== Sys2Proof/Machine/Shadows.lean ====
section
/-! DEFINITION. Weight-digest walks, and shadows: blame for digest failures, the walk and its comparison, synchronisation, step
digests, gaps, promotion (R362, R364 to R374). -/

namespace Sys2Proof.Machine

/-! ## Blame (R362) -/

/-- The region that a blame concerns: one whose peer table names the device, and which owns the queue on the engine. -/
def blamedRegion (s : State) (dev die cq : Nat) : Nat :=
  (s.regions.find? fun e => e.2.peers.any (fun p => p.device == dev) &&
    (cq == 31 || (engineOf s die).queues.any fun q => q.2.region == e.1 && q.2.num == cq)).elim 16 (·.1)

/-- The port of a die that packets for a device leave by. -/
def sendPort (s : State) (dev : Nat) : Nat := frPrimary (fabEntry s (fabActive s) dev) % 3

/-- DIGEST_BLAME_RX: the send path of the die is charged. -/
def execDigestBlameRx (dev die cq piece : Nat) (s : State) : Out :=
  needUnit (dieOk die)
    (let r := blamedRegion s dev die cq
     .next (charge s r (chargeAt s r (dieKey 8 die) (dev * 2 ^ 16 + cq * 2 ^ 8 + piece) 0x08 (sendPort s dev) 0x3FF 0 []) false))

/-! ## The walk (R365 to R367, Table 13.7) -/

/-- DIGEST_WALK_START: the first boundary after DIGEST_STEPS commits. -/
def execDigestWalkStart (r : Nat) (s : State) : Out :=
  onRegion r s fun g =>
    if atBoundary g && g.image.isSome && (rfOf s r).walk.isNone && decide (s.flc.digestSteps ≤ (rfOf s r).sinceWalk) then
      updRf s r fun f => { f with walk := some g.step, sinceWalk := 0 }
    else s

/-- Scratchpad addresses of the 64-byte words of a node whose bytes differ from WEIGHT_IMAGE. -/
def wrongWords (s : State) (g : Region) (im : Image) (lt : Nat) (n : Node) : List Nat :=
  (n.resident.filter fun x => !x.cold).flatMap fun x =>
    ((List.range (ceilDiv x.len 64)).filter fun k =>
      let m := Nat.min 64 (x.len - 64 * k)
      spadRead (tileOf s lt).spad (x.addr + 64 * k) m != basinBytes s (g.basinBase + residentOff im x + 64 * k) m).map
        fun k => (x.addr + 64 * k) / 64

/-- The charge of a macro whose weights differ. -/
def weightCharge (s : State) (lt w : Nat) : Charge :=
  { macroCharge s lt w 0x3FF 0x0E [] with bin := bankOf (64 * w) % 16 }

/-- Adds a refill of a tile to a region's waiting actions, once. -/
def addRefill (s : State) (r lt : Nat) : State :=
  if (regionOf s r).any fun g => g.boundary.any fun b => b.act == BAct.refill lt then s else addAct s r (.refill lt) none

/-- A node whose digest differs from its reference: event, refill at the next boundary, each macro that holds a differing word
charged, and a Palacy record. -/
def corrupt (s : State) (r : Nat) (g : Region) (im : Image) (i lt : Nat) (n : Node) : State :=
  let pos := posOf s lt
  let ws := wrongWords s g im lt n
  let firsts := ws.foldl (fun (l : List Nat) w => if l.any (fun v => bankOf (64 * v) == bankOf (64 * w)) then l else l ++ [w]) []
  let s1 := tileEvent s 0x0604 r lt 1 0xFF (leBytes i 2 ++ leBytes lt 2 ++ leBytes (pos % 26) 1 ++ leBytes (pos / 26) 1 ++
    zeros 2 ++ leBytes (rfOf s r).lastMatch 8 ++ leBytes g.step 8)
  firsts.foldl (fun s w =>
    let c := weightCharge s lt w
    charge (palacy s r c s.flc.classify 0 3) r c false) (addRefill s1 r lt)

/-- The region digest (R365). -/
def regionDigest (ds : List (BitVec 64)) : BitVec 64 := crc64 (ds.flatMap fun d => leBytes d.toNat 8)

/-- DIGEST_WALK_END: every node digest against its reference, and DIGEST_REPORT to the regions of the peer table. -/
def execDigestWalkEnd (r : Nat) (s : State) : Out :=
  onRegion r s fun g =>
    match (rfOf s r).walk, g.image with
    | some st, some im =>
      let ds := (nodesOf im).map fun x => nodeDigest s (sget 0x3FF g.loadedMap x.1) x.2
      let refs := (rfOf s r).refDigests
      let bad := (nodesOf im).filter fun x => ds[x.1]? != refs[x.1]?
      let s1 := bad.foldl (fun s x => corrupt s r g im x.1 (sget 0x3FF g.loadedMap x.1) x.2) s
      let d := regionDigest ds
      let s2 := updRf s1 r fun f => { f with
        walk := none, ownDigest := some d, ownOk := bad == [], lastMatch := if bad == [] then g.step else f.lastMatch }
      if g.peers == [] then s2 else send s2 (.digestReport r im.imageId g.rank d st)
    | _, _ => s

/-- DIGEST_REPORT_RX: a replica's digest against the own last one, when it is of the same image and rank.  Two digests that each
match their own reference and differ name two images. -/
def execDigestReportRx (r imageId rank : Nat) (digest : BitVec 64) (refOk : Bool) (s : State) : Out :=
  onRegion r s fun g =>
    let f := rfOf s r
    if g.image.any (fun im => im.imageId == imageId) && g.rank == rank && f.ownOk && refOk && f.ownDigest.any (· != digest) then
      regionEvent s 0x0605 r []
    else s

/-! ## Synchronisation (R369, Table 13.8) -/

/-- A context from a record of Table 5.1, with its page list at `base`. -/
def ctxOfRecord (r base : Nat) (b : List Byte) : Ctx :=
  let n := fun (o k : Nat) => ofLe (sliceBytes b o k)
  { ctxReset with
    region := r, state := n 3 1, seqKey := n 4 8, seed := n 12 8, modelKey := n 20 8, committedStep := n 28 8
    position := n 36 4, lastToken := n 40 4, tokensOut := n 44 4, maxNew := n 48 4, maxPosition := n 52 4
    stopIds := (List.range 4).map fun i => n (56 + 4 * i) 4
    temperature := BitVec.ofNat 32 (n 72 4), topP := BitVec.ofNat 32 (n 76 4), topK := n 80 1, flags := n 81 1
    stopReason := n 82 1, draftCount := n 83 1, pageBase := base, pageCount := n 88 2
    acceptTotal := n 92 4, draftTotal := n 96 4, acceptMap := n 100 2, acceptLast := n 102 1
    draftTokens := (List.range 16).map fun i => n (104 + 4 * i) 4, draftParent := n 168 8 }

/-- Enters one streamed context: its record, its page list in a free run of the store, and its pages of the pool. -/
def syncContext (s : State) (r : Nat) (x : SyncRecord) : State :=
  withRegion s r fun g =>
    match g.ctxIds[x.rank]?, (listRun s x.pages.length).1 with
    | some id, some base =>
      let old := freeCtx s r id
      let ents := List.zip (List.range x.pages.length) (x.pages.map (·.toNat))
      let s1 := { old with pageList := ents.foldl (fun l e => sins (base + e.1) e.2 l) old.pageList }
      let s2 := updRegion s1 r fun g => { g with
        pool := ents.foldl (fun (pl : List PoolPage) e =>
          let pg := fld e.2 0 30
          if pl.any fun y => y.page == pg then mapIf (fun y => y.page == pg) (fun y => { y with refs := y.refs + 1, shared := true }) pl
          else pl ++ [⟨pg, 1, bitOf e.2 30, 0, 0, false⟩]) g.pool }
      setCtx s2 id (ctxOfRecord r base x.record)
    | _, _ => s

/-- SHADOW_SYNC_COMPLETE: the shadow holds the state through commit c₁ − 1: the KV_SHADOW bytes by allotment offset, in Basin and in
scratchpad, and the context records; it goes on with step c₁. -/
def execShadowSyncComplete (r c1 : Nat) (kv : List (Nat × List Byte)) (records : List SyncRecord) (s : State) : Out :=
  onRegion r s fun g =>
    match (rfOf s r).shadow with
    | some sh =>
      if sh.state = .sync ∧ atBoundary g then
        let s1 := kv.foldl (fun s e =>
          let t := basinPut s (g.basinBase + e.1) e.2
          (List.range (ceilDiv e.2.length 512)).foldl (fun t k => restoreGranule t g (e.1 / 512 * 512 + 512 * k)) t) s
        let s2 := records.foldl (fun s x => syncContext s r x) s1
        let s3 := updRegion s2 r fun g => { g with
          step := c1, attempt := 0, discards := 0, mstate := .idle, lastCommitted := if c1 = 0 then none else some (c1 - 1) }
        updShadow s3 r fun x => { x with state := .comparing, compared := 0, c1 := c1 }
      else s
    | none => s

/-! ## While shadowing (R370, R371) -/

/-- STEP_DIGEST_RX: the working member's digest of a step; the shadow commits or detaches when it stands at that step. -/
def execStepDigestRx (r step : Nat) (digest : BitVec 64) (s : State) : Out :=
  onRegion r s fun g =>
    match (rfOf s r).shadow with
    | some sh =>
      if (sh.state = .comparing ∨ sh.state = .qualified ∨ sh.state = .sync) ∧ g.step ≤ step then
        shadowSettle (updShadow s r fun x => { x with
          digests := x.digests.filter (fun d => d.1 != step) ++ [(step, digest)] }) r
      else s
    | none => s

/-- The boundary action that a shadow takes over from its working member: those of the job; hardware repair, flips and clocks are
each side's own (Table 13.9). -/
def actOfKind : BoundaryKind → Option BAct
  | .membership gid n k ps => some (.member gid n k ps)
  | .memberRemoved k => some (.remove k)
  | .memberPromoted k d g l => some (.promote k d g l)
  | .imageLoad im => some (.load im)
  | .admission b ts ks => some (.admitSeq b ts ks)
  | .release k => some (.release k)
  | .healing | .castling _ | .rePlacement _ | .refill _ | .routeFlip | .dvfs _ _ => none

/-- BOUNDARY_LOG_RX: the shadow applies the working member's actions at its same boundary. -/
def execBoundaryLogRx (r : Nat) (actions : List BoundaryKind) (s : State) : Out :=
  onRegion r s fun _ =>
    match (rfOf s r).shadow with
    | some sh =>
      if sh.state = .comparing ∨ sh.state = .qualified then
        (actions.filterMap actOfKind).foldl (fun s a => addAct s r a none) (updShadow s r fun x => { x with actions := actions })
      else s
    | none => s

/-- SHADOW_GAP_RX: the shadow discards the step and returns to SYNC; a gap during SYNC detaches it. -/
def execShadowGapRx (r step : Nat) (s : State) : Out :=
  onRegion r s fun g =>
    match (rfOf s r).shadow with
    | some sh =>
      if sh.state = .sync then detach s r 0x0013 (leBytes step 8)
      else if (sh.state = .comparing ∨ sh.state = .qualified) ∧ g.step ≤ step then
        let s1 := if openStep g && g.step == step then discardNow s r else s
        updShadow s1 r fun x => { x with state := .sync, compared := 0, digests := [] }
      else s
    | none => s

/-! ## Promotion (R372, R373) -/

/-- SHADOW_PROMOTION: a QUALIFIED shadow settles its last step (`anyCommitted`: another member answered COMMITTED) or discards it,
and sends PROMOTE. -/
def execShadowPromotion (r : Nat) (anyCommitted : Bool) (s : State) : Out :=
  onRegion r s fun g =>
    match (rfOf s r).shadow with
    | some sh =>
      if sh.state = .qualified then
        let s1 :=
          if g.mstate = .readySent then (if anyCommitted then commitStep s r else discardNow s r)
          else if inStep g then discardNow s r
          else s
        let s2 := updShadow s1 r fun x => { x with state := .promoted, digests := [] }
        withRegion s2 r fun g2 => send s2 (.promote r g2.rank s2.idn.deviceId r (lastStep g2))
      else s
    | none => s

/-- PROMOTE_RX: the PROMOTE waits for the member's next boundary. -/
def execPromoteRx (r rank dev reg lastStep : Nat) (s : State) : Out :=
  onRegion r s fun g => if g.rank == rank && !isShadow s r then s else addAct s r (.promote rank dev reg lastStep) none

/-- The waiting PROMOTE of lowest rank. -/
def nextPromote (g : Region) : Option (BEntry × Nat × Nat × Nat × Nat) :=
  (g.boundary.filterMap fun b => match b.act with | .promote k d x l => some (b, k, d, x, l) | _ => none).foldl
    (fun (acc : Option (BEntry × Nat × Nat × Nat × Nat)) e => match acc with
      | none => some e
      | some a => if e.2.1 < a.2.1 then some e else some a) none

/-- PROMOTE_APPLY: with the same last committed step the rank's peer entry becomes the shadow's, and duplication to it ends;
otherwise the group stops. -/
def execPromoteApply (r : Nat) (s : State) : Out :=
  onRegion r s fun g =>
    match nextPromote g with
    | none => s
    | some (b, k, d, x, l) =>
      if boundaryFree s r g 6 then
        let s1 := takeAct s r b
        if lastStep g = l then
          let s2 := updRegion s1 r fun g => { g with
            peers := mapIf (fun p => p.member && p.rank == k) (fun p => { p with device := d, region := x }) g.peers
            removed := setDel k g.removed }
          updRf s2 r fun f => { f with mirrors := f.mirrors.filter fun m => m.1 != k }
        else if g.rstate = .running then stopRegion s1 r 0x0012 else s1
      else s

end Sys2Proof.Machine
end

