-- ==== Sys2Proof/Machine/Wellhead.lean ====
section
/-! DEFINITION. The Wellhead: sampling and filters, power cap and throttle, emergency stop, DVFS, scrubber heartbeats, the stored
seconds and the power states P1 and P2 (R403, R404, R407 to R415, R421, R422). -/

namespace Sys2Proof.Machine

/-! ## The Wellhead's log (R415) -/

/-- Writes one entry to the ring of 1,024. -/
def whNote (s : State) (what : WhDecision) (source : Nat) (values : List Int) : State :=
  let l := s.pwr.whLog ++ [⟨timeWord s, what, source, values⟩]
  { s with pwr := { s.pwr with whLog := l.drop (l.length - 1024) } }

/-! ## Filters (R407) -/

/-- Median of three. -/
def med3 (a b c : Int) : Int := max (min a b) (min (max a b) c)

/-- The median of a stream's last three samples; a stream's first sample stands for the two before it. -/
def medOf (f : Filt) : Int :=
  match f.last with
  | [a, b, c] => med3 a b c
  | a :: _ => a
  | [] => 0

/-- Takes one sample into a stream with time constant k: y ← y + (m − y) · 2^−k, exactly. -/
def filtStep (k : Nat) (x : Int) (f : Filt) : Filt :=
  let first := f.last == []
  let last := if first then [x, x, x] else (x :: f.last).take 3
  let m := medOf ⟨last, f.avg⟩
  ⟨last, if first then ⟨m, 0⟩ else ⟨f.avg.num * (2 ^ k - 1) + m * 2 ^ f.avg.exp, f.avg.exp + k⟩⟩

/-- The integer at or below a filtered value. -/
def dyFloor (d : Dy) : Int := d.num / 2 ^ d.exp
/-- Whether a filtered value is below, or above, an integer. -/
def dyLt (d : Dy) (c : Int) : Bool := decide (d.num < c * 2 ^ d.exp)
def dyGt (d : Dy) (c : Int) : Bool := decide (c * 2 ^ d.exp < d.num)

/-- Steps a list of streams with the samples that a sample set holds for them. -/
def filtAll (k : Nat) (xs : List Nat) (fs : List Filt) : List Filt :=
  (List.range xs.length).map fun i => filtStep k (xs.getD i 0) (fs.getD i filtReset)

/-! ## Package power (R407, R430) -/

/-- Set point in mV and peak current in mA of the rails other than VDD_TILE, in the order of Table 16.3 from VDD_SRAM on. -/
def otherRails : List (Nat × Nat) :=
  [(750, 185000), (750, 110000), (750, 100000), (1200, 22000), (1050, 80000), (750, 70000), (1800, 5000), (750, 20000),
    (750, 10000), (1200, 8000), (1800, 2000), (800, 1500), (1800, 500)]

def clockOf (s : State) (die : Nat) : DieClock := sget dieClockReset s.pwr.dies die

/-- The set point that a die's rail is held to: the lower of old and new while it slews (R422). -/
def railSet (s : State) (die : Nat) : Nat :=
  let d := clockOf s die
  if s.now < d.slewTo then Nat.min d.oldMv d.setMv else d.setMv

def regOf (s : State) (k : Nat) : Regulator := sget regReset s.pwr.regs k

/-- Power of a VDD_TILE rail in µW: voltage times current, or the peak rating of a silent regulator. -/
def tilePower (s : State) (w : WhSample) (die : Nat) : Nat :=
  if (regOf s die).silent then 190000 * railSet s die else w.vddMv.getD die 0 * w.vddMa.getD die 0

/-- Power of another rail in µW: its last PMBus reading, or its peak rating times its set point while it is silent. -/
def otherPower (s : State) (k : Nat) : Nat :=
  let x := otherRails.getD k (0, 0)
  let g := regOf s (4 + k)
  if g.silent then x.1 * x.2 else 1000 * g.mw

/-- Package power in µW. -/
def packagePower (s : State) (w : WhSample) : Nat :=
  (((List.range 4).map (tilePower s w)) ++ ((List.range 13).map (otherPower s))).foldl (· + ·) 0

/-! ## Limits (Table 15.9) -/

def capW (s : State) : Nat := fld s.pwr.limits 22 10
def clipW (s : State) : Nat := fld s.pwr.limits 12 10
def throttleC (s : State) : Nat := fld s.pwr.limits 5 7
/-- Watts as µW. -/
def microW (w : Nat) : Int := w * 1000000

/-- The bucket of R408 in pJ after one sample. -/
def bucketStep (s : State) (fast : Dy) : Dy :=
  let b := s.pwr.bucket
  let e := Nat.max b.exp fast.exp
  let sum := b.num * 2 ^ (e - b.exp) + 10 * (microW (capW s) * 2 ^ e - fast.num * 2 ^ (e - fast.exp))
  let top : Int := (clipW s - capW s) * 5000000000
  if sum ≤ 0 then ⟨0, 0⟩ else if top * 2 ^ e ≤ sum then ⟨top, 0⟩ else ⟨sum, e⟩

/-! ## The sample -/

/-- The hottest filtered sensor, as the greatest average. -/
def hottest (fs : List Filt) : Dy :=
  fs.foldl (fun m f =>
    let a := f.avg
    if m.num * 2 ^ a.exp < a.num * 2 ^ m.exp then a else m) ⟨0, 0⟩

/-- The filters and the bucket after a sample. -/
def takeSample (s : State) (w : WhSample) : State :=
  let p : Int := packagePower s w
  let fast := filtStep 1 p s.pwr.fast
  { s with pwr := { s.pwr with
      fast := fast
      slow := filtStep 10 p s.pwr.slow
      temps := filtAll 7 w.temps s.pwr.temps
      vdd := filtAll 2 w.vddMv s.pwr.vdd
      rails := filtAll 2 w.rails s.pwr.rails
      bucket := bucketStep s fast.avg } }

/-- Rule 2 of R409: VDD_TILE of a die below 95 % of its set point. -/
def underVolt (s : State) : Bool :=
  s.pwr.railsUp && (List.range s.pwr.vdd.length).any fun d =>
    match s.pwr.vdd[d]? with
    | some f => decide (100 * f.avg.num < 95 * (railSet s d : Int) * 2 ^ f.avg.exp)
    | none => false

/-- Number of the first rule of R409 that holds, 0 for none, with the 10-sample count after this sample. -/
def throttleRule (s : State) : Nat × Nat :=
  let fast := s.pwr.fast.avg
  let hot := hottest s.pwr.temps
  let calm := if dyLt fast (microW (capW s) - 20000000) && dyLt hot (10 * (throttleC s : Int) - 50) then s.pwr.calm + 1 else 0
  let rule :=
    if dyGt fast (microW (clipW s)) || decide (microW (clipW s) < medOf s.pwr.fast) then 1
    else if underVolt s then 2
    else if s.pwr.bucket.num == 0 && dyGt fast (microW (capW s)) then 3
    else if dyGt hot (10 * throttleC s) && s.pwr.heatAt.all (fun t => decide (t + 100 * cyclesPerUs ≤ s.now)) then 4
    else if 10 ≤ calm then 5 else 0
  (rule, if rule = 5 then 0 else calm)

/-- T after a rule. -/
def levelAfter (t rule : Nat) : Nat :=
  match rule with
  | 1 => Nat.min 15 (t + 4)
  | 2 => 15
  | 3 => Nat.min 15 (t + 1)
  | 4 => Nat.min 15 (t + 1)
  | 5 => t - 1
  | _ => t

/-- Whether CAP_ACTIVE has been set for more than half of the last 100 ms (R410). -/
def capLong (log : List Bool) : Bool := decide (5000 < log.count true)

/-- Applies the throttle rules, and what WHD_CAP_STATUS, FLT_WELLHEAD and R410 keep of them; T stands under the rule that last
set or raised it. -/
def throttle (s : State) : State :=
  let rc := throttleRule s
  let t := levelAfter s.pwr.level rc.1
  let cap := t != 0 && (rc.1 == 1 || rc.1 == 3 || (s.pwr.capActive && rc.1 != 2 && rc.1 != 4))
  let quiet := t == 0 && dyLt s.pwr.slow.avg (microW (capW s) - 50000000)
  let hot := hottest s.pwr.temps
  let s1 := { s with
    pwr := { s.pwr with
      level := t, calm := rc.2, capActive := cap
      clipAt := if rc.1 = 1 then some s.now else s.pwr.clipAt
      heatAt := if rc.1 = 4 then some s.now else s.pwr.heatAt
      thermal := rc.1 == 4 || (s.pwr.thermal && dyGt hot (10 * throttleC s))
      undervolt := underVolt s
      capLog := (cap :: s.pwr.capLog).take 10000
      dies := if capLong ((cap :: s.pwr.capLog).take 10000) then s.pwr.dies
        else s.pwr.dies.map fun d => (d.1, { d.2 with capFloor := none })
      quietFrom := if quiet then some (s.pwr.quietFrom.getD s.now) else none }
    flt := { s.flt with
      throttle := t != 0, capActive := cap, tempMax := (dyFloor hot / 10).toNat, powerW := (dyFloor s.pwr.slow.avg / 1000000).toNat } }
  if t = s.pwr.level then s1 else whNote s1 .throttle rc.1 [t, dyFloor s.pwr.fast.avg, dyFloor hot]

/-- The extreme quantities that the Wellhead feeds (Table 14.4). -/
def sampleExtremes (s : State) : State :=
  let s1 := noteExtreme s 1 (dyFloor s.pwr.slow.avg / 1000000)
  let s2 := noteExtreme s1 2 (dyFloor (hottest s.pwr.temps))
  s.pwr.vdd.foldl (fun s f => noteExtreme s 3 (dyFloor f.avg)) s2

/-! ## Emergency stop (R411, Table 15.12) -/

/-- Puts every Tarn transmitter into electrical idle. -/
def idlePorts (s : State) : State :=
  (s.fab.ports.map (·.1)).foldl (fun s p => if (portOf s p).state = psOff then s else moveTo s p psIdle 0) s

/-- EMERGENCY_STOP: the state, Tarn idle, Silt without new programs, the fatal record and the flush.  A self-test or shutdown under
way ends with it.  The third within an hour leaves the device HALTED. -/
def emergencyStop (s : State) (source : Nat) : State :=
  if s.flt.state = 8 ∨ s.flt.state = 7 then s
  else
    let recent := s.pwr.emergTimes.filter fun t => decide (s.now < t + 3600 * cyclesPerSec)
    let halt := 2 ≤ recent.length
    let s1 := idlePorts { s with
      flt := { s.flt with state := if halt then 7 else 8, emergency := true, w1c := noteSet s.flt.w1c 8 s.now }
      pwr := { s.pwr with emerg := some s.now, clearFrom := none, emergTimes := s.now :: recent }
      silt := { s.silt with halted := true }
      rep := { s.rep with run := none } }
    flushRecords (devEvent (whNote s1 .emergency source [dyFloor (hottest s.pwr.temps)]) 0x0004 0 0xFF (leBytes source 1))

/-- Samples in a row on which each sensor's median is at 115 °C or above. -/
def hotCounts (s : State) : List Nat :=
  (List.range s.pwr.temps.length).map fun i =>
    if 1150 ≤ medOf (s.pwr.temps.getD i filtReset) then s.pwr.hot.getD i 0 + 1 else 0

/-- Whether a filtered rail is within 90 % to 110 % of a set point. -/
def within10 (f : Filt) (set : Nat) : Bool :=
  decide (90 * (set : Int) * 2 ^ f.avg.exp ≤ 100 * f.avg.num) && decide (100 * f.avg.num ≤ 110 * (set : Int) * 2 ^ f.avg.exp)

/-- Samples in a row on which each rail is out of range: the VDD_TILE rails, then the others in 0.1 % of their set points. -/
def railCounts (s : State) : List Nat :=
  if !s.pwr.railsUp then []
  else
    let bad := ((List.range s.pwr.vdd.length).map fun d => !within10 (s.pwr.vdd.getD d filtReset) (railSet s d)) ++
      (s.pwr.rails.map fun f => !within10 f 1000)
    (List.range bad.length).map fun i => if bad.getD i false then s.pwr.railBad.getD i 0 + 1 else 0

/-- The emergency rules after a sample, and since when the cause of a stop has been gone. -/
def emergencyRules (s : State) : State :=
  let hot := hotCounts s
  let bad := railCounts s
  let clear := dyLt (hottest s.pwr.temps) 900 && bad.all (· == 0)
  let s1 := { s with pwr := { s.pwr with
    hot := hot, railBad := bad
    clearFrom := if s.pwr.emerg.isSome && clear then some (s.pwr.clearFrom.getD s.now) else none } }
  if hot.any (3 ≤ ·) then emergencyStop s1 1 else if bad.any (6 ≤ ·) then emergencyStop s1 2 else s1

/-- BIST_ABORT: VDD_TILE of a die under test leaves 0.70 to 0.80 V (R333). -/
def bistWatch (s : State) (w : WhSample) : State :=
  match s.rep.run with
  | none => s
  | some run =>
    let d := run.diesDone.length
    let out := fun (v : Nat) => decide (v < 700) || decide (800 < v)
    if out (w.vddMv.getD d 750) || out (w.vddMv.getD (d + 1) 750) then endTest s { run with outcome := 3 } else s

/-- WELLHEAD_SAMPLE: filters, bucket, throttle rules, extreme quantities, the self-test's limits, then the emergency rules. -/
def execWellheadSample (w : WhSample) (s : State) : Out :=
  if s.pwr.off then .next s
  else .next (emergencyRules (bistWatch (sampleExtremes (throttle (takeSample s w))) w))

/-- EMERGENCY_RELEASE: after 1 s with the hottest filtered sensor below 90 °C and every rail in range. -/
def execEmergencyRelease (s : State) : Out :=
  if s.flt.state = 8 && s.pwr.clearFrom.any (fun t => decide (t + cyclesPerSec ≤ s.now)) then
    .next (resetDevice { s with pwr := { s.pwr with emerg := none, clearFrom := none } } .emergency)
  else .next s

/-! ## DVFS (R410, R421, R422) -/

/-- VDD_TILE set point in mV of a tile clock in MHz, with a fused offset of 0. -/
def setPoint (mhz : Nat) : Nat := 5 * ceilDiv (6600000 + 2375 * (mhz - 900)) 50000

def updDie (s : State) (die : Nat) (f : DieClock → DieClock) : State :=
  { s with pwr := { s.pwr with dies := sset dieClockReset s.pwr.dies die (f (clockOf s die)) } }

/-- Decides a step: it waits for the boundary of every region on the die. -/
def decideStep (s : State) (die mhz : Nat) : State :=
  (regionsOnDie s die).foldl (fun s r => addAct s r (.dvfs die mhz) none) (updDie s die fun d => { d with pend := some mhz })

/-- The condition of R410 as the last sample left it. -/
def capHeld (s : State) : Bool := capLong s.pwr.capLog

/-- DVFS_CAP_DECISION: one step down; at 0.90 GHz a CAP_FLOOR event when the condition first holds there, then once per hour. -/
def execDvfsCapDecision (die : Nat) (s : State) : Out :=
  needUnit (dieOk die)
    (let d := clockOf s die
     if !capHeld s || d.pend.isSome then .next s
     else if 900 < d.mhz then .next (decideStep s die (Nat.max 900 (d.mhz - 50)))
     else if d.capFloor.all fun t => decide (t + 3600 * cyclesPerSec ≤ s.now) then
       .next (devEvent (updDie s die fun d => { d with capFloor := some s.now }) 0x0705 0 die [])
     else .next s)

/-- DVFS_RAISE_DECISION: one step up after 1 s of quiet, also since the die's last step. -/
def execDvfsRaiseDecision (die : Nat) (s : State) : Out :=
  needUnit (dieOk die)
    (let d := clockOf s die
     whenB (d.pend.isNone && decide (d.mhz < 1700) && decide (d.stepAt + cyclesPerSec ≤ s.now) &&
        s.pwr.quietFrom.any fun t => decide (t + cyclesPerSec ≤ s.now)) s
      (decideStep s die (Nat.min 1700 (d.mhz + 50))))

/-- DVFS_CHANGE: at the boundary of every region on the die; a set point that the regulator has refused three times leaves the
clock at the old step (R430). -/
def execDvfsChange (die : Nat) (voutOk : Bool) (s : State) : Out :=
  needUnit (dieOk die)
    (let d := clockOf s die
     let rs := regionsOnDie s die
     match d.pend with
     | none => .next s
     | some f =>
       if rs.all fun r => (regionOf s r).all fun g => boundaryFree s r g 12 then
         let v := setPoint f
         let gap := if v < d.setMv then d.setMv - v else v - d.setMv
         let s1 := updDie s die fun d =>
           if voutOk then
             { d with mhz := f, oldMv := d.setMv, setMv := v, slewTo := s.now + ceilDiv gap 5 * cyclesPerUs, pend := none, stepAt := s.now }
           else { d with pend := none }
         .next (rs.foldl (fun s r => dropAct s r (fun a => match a with | .dvfs k _ => k == die | _ => false)) s1)
       else .next s)

/-! ## Scrubber heartbeats (R413, R414) -/

/-- Key of a scrubber among the watches: a position, or 624 and the die of a Basin controller. -/
def watchKey (basin : Bool) (idx : Nat) : Nat := if basin then 624 + idx else idx

/-- Whether a scrubber owes a heartbeat. -/
def beats (s : State) (basin : Bool) (idx : Nat) : Bool :=
  !s.pwr.doze && (basin || !((tileAtPos s idx).clockGated || (tileAtPos s idx).heldReset))

/-- Whether a heartbeat word is a mismatch. -/
def heartbeatBad (basin : Bool) (x : ScrubWatch) : Option Heartbeat → Bool
  | none => true
  | some w => w.crc != (Config.scrubCrc basin).toNat || w.progress == x.progress || w.alive == x.alive

/-- SCRUBBER_RESTART: registers from the ROM defaults, the pass from address 0; a digest walk that it interrupts is abandoned. -/
def scrubRestart (s : State) (basin : Bool) (idx : Nat) : State :=
  let s1 := whNote { s with pwr := { s.pwr with restarts := s.pwr.restarts + 1 } } .scrubRestart (watchKey basin idx) []
  if basin then
    updBsn s1 idx fun c => { c with en := true, periodH := 12, behind := false, scrubWord := 0, passPct := 0, passStart := s1.now }
  else
    let t := tileAtPos s1 idx
    let s2 := setTilePos s1 idx { t with scrubLine := 0 }
    if (rfOf s2 t.region).walk.isSome then updRf s2 t.region fun f => { f with walk := none } else s2

/-- SCRUB_HEARTBEAT_CHECK: a Basin controller by die, or a tile's scrub reader by position. -/
def execScrubHeartbeatCheck (basin : Bool) (idx : Nat) (w : Option Heartbeat) (s : State) : Out :=
  needUnit (if basin then dieOk idx else posOk idx)
    (if !beats s basin idx then .next s
     else
       let k := watchKey basin idx
       let x := sget watchReset s.pwr.watches k
       let seen := w.elim x fun h => ⟨h.progress, h.alive⟩
       let s1 := { s with pwr := { s.pwr with watches := sset watchReset s.pwr.watches k seen } }
       if heartbeatBad basin x w then .next (scrubRestart s1 basin idx)
       else if w.any (·.disagree) then .next { s1 with pwr := { s1.pwr with disagree := s1.pwr.disagree + 1 } }
       else .next s1)

/-! ## Seconds (R412) -/

/-- Stores the seconds counter in the record store. -/
def storeSeconds (s : State) : State := { s with pwr := { s.pwr with secsStored := wallSecs s, storedAt := s.now } }

/-- SECONDS_STORE: every 60 s. -/
def execSecondsStore (s : State) : Out := whenB (decide (s.pwr.storedAt + 60 * cyclesPerSec ≤ s.now)) s (storeSeconds s)

/-! ## P1 and P2 (R403, R404) -/

/-- Gates or ungates the clocks of a region's tiles. -/
def gateRegion (s : State) (g : Region) (gated : Bool) : State := updTiles s g fun t => { t with clockGated := gated }

/-- P1_ENTRY: 10 µs at a boundary with no step pending. -/
def execP1Entry (r : Nat) (s : State) : Out :=
  onRegion r s fun g =>
    if atBoundary g && !(g.running && !g.held) && decide (g.idleAt + 10 * cyclesPerUs ≤ s.now) && !s.pwr.p1.contains r then
      gateRegion { s with pwr := { s.pwr with p1 := setIns r s.pwr.p1 } } g true
    else s

/-- Leaves P1. -/
def leaveP1 (s : State) (r : Nat) : State :=
  withRegion s r fun g =>
    if s.pwr.p1.contains r then gateRegion { s with pwr := { s.pwr with p1 := setDel r s.pwr.p1 } } g false else s

/-- P1_EXIT. -/
def execP1Exit (r : Nat) (s : State) : Out := onRegion r s fun _ => leaveP1 s r

/-- P2_ENTRY: 100 ms with no RUN outstanding and no deferred command running. -/
def execP2Entry (s : State) : Out :=
  whenB (s.flt.state == 5 && !s.pwr.doze && s.rep.run.isNone && decide (s.pwr.busyAt + 100 * cyclesPerMs ≤ s.now) &&
      (s.regions.all fun e => !e.2.running) && (List.range 17).all fun f => (fnOf s f).requests.all (·.finished)) s
    { s with pwr := { s.pwr with doze := true } }

/-- Leaves P2. -/
def wake (s : State) : State := if s.pwr.doze then { s with pwr := { s.pwr with doze := false, busyAt := s.now } } else s

/-- P2_EXIT. -/
def execP2Exit (s : State) : Out := .next (wake s)

end Sys2Proof.Machine
end

