-- ==== Sys2Proof/Machine/Mailbox.lean ====
section
/-! DEFINITION. The mailbox: doorbell, response, the checks every command meets, requests, and the commands on functions, ports and
the device (R303 to R310, R316, R317, Tables 11.7, 11.11, 11.12, 11.15, 11.22). -/

namespace Sys2Proof.Machine

/-! ## Response and doorbell (R306, Table 11.7, Table 11.22) -/

/-- The response area for a command: IGX-3 with a 16-byte header, IGX-2 with an 8-byte one. -/
def responseBytes (compat : Bool) (h : CmdHdr) (op status id : Nat) (body : List Byte) : List Byte :=
  if compat then
    let b := if status = 1 then leBytes id 8 ++ body else if 0xFE < status then leBytes status 2 ++ body else body
    let b1 := b.take 496
    leBytes (Nat.min status 0xFF) 1 ++ [0x00] ++ leBytes h.tag 2 ++ leBytes b1.length 2 ++ leBytes op 2 ++ b1
  else
    let b1 := body.take 1008
    leBytes status 2 ++ leBytes h.tag 2 ++ leBytes b1.length 2 ++ leBytes op 1 ++ [0x00] ++ leBytes id 8 ++ b1

/-- Writes the response: the area, LAST_SEQ, DONE, then BUSY 0 and the MBX_DONE cause. -/
def respondId (s : State) (h : CmdHdr) (op status id : Nat) (body : List Byte) : State :=
  let v := fnOf s h.func
  let s1 := setFn s h.func { v with
    resp := responseBytes s.idn.compat h op status id body, lastSeq := h.seq % 2 ^ 16, done := true, busy := false, locked := none
    w1c := noteSet v.w1c 29 s.now }
  raiseCause s1 h.func causeMbx

def respond (s : State) (h : CmdHdr) (op status : Nat) (body : List Byte) : State := respondId s h op status 0 body

/-- The command header as it stands in the command area. -/
def headerBytes (compat : Bool) (h : CmdHdr) (op : Nat) : List Byte :=
  leBytes op 2 ++ leBytes h.tag 2 ++ leBytes h.paramLen 2 ++ leBytes h.region 1 ++ leBytes (b2n h.admin) 1 ++
    (if compat then [] else zeros 8)

/-- The OPCODE that stands in the command area. -/
def areaOpcode (v : Fn) : Nat := ofLe (memRdN v.cmd 0 2)

/-- Writes bytes into the command area. -/
def putArea (v : Fn) (a : Nat) (l : List Byte) : Fn := { v with cmd := memWrL v.cmd a l }

/-- A command arrives: its header stands in the command area and RING is written.  While BUSY the ring is ignored, unless the area
already holds this command with its doorbell rung, which is then handled.  Without READY the command stays locked. -/
def doorbell (h : CmdHdr) (op : Nat) (c : Instr) (handle : State → State) (s : State) : Out :=
  needUnit (funcOk h.func)
    (let v := fnOf s h.func
     let rung := v.busy && v.locked.isNone && areaOpcode v == op
     if v.busy && !rung then .next (setFn s h.func { v with overrun := true, w1c := noteSet v.w1c 27 s.now })
     else
       let v1 := if rung then v else putArea v 0 (headerBytes s.idn.compat h op)
       let s1 := wake (setFn s h.func { v1 with busy := true, done := false, rungSeq := h.seq % 2 ^ 16, rungNow := if rung then v1.rungNow else s.now })
       if v.ready then .next (handle { s1 with pwr := { s1.pwr with busyAt := s1.now } })
       else .next (updFn s1 h.func fun v => { v with locked := some c }))

/-! ## The checks of R308 -/

/-- Who may issue a command (Table 11.11). -/
inductive Issuer where
  | any | pf | owner | ownerPf
deriving DecidableEq, Repr

/-- Whether the issuer may use the opcode on the region of the header. -/
def issuerOk (s : State) (h : CmdHdr) (w : Issuer) : Bool :=
  let own := (regionOf s h.region).any fun g => g.owner == h.func
  let exists_ := (regionOf s h.region).isSome
  !(h.admin && h.func != 0) &&
    match w with
    | .any => true
    | .pf => h.func == 0
    | .owner => own || (h.func == 0 && h.admin && exists_)
    | .ownerPf => own || (h.func == 0 && h.admin)

/-- The first check that a command fails, with its status.  `allowed`: one of the commands that a disabled function may still use;
`state`: the status with which a region's state refuses the command, 0 for none; `mine`: whether what the parameter block names is the
issuer's. -/
def firstFailure (s : State) (h : CmdHdr) (allowed known : Bool) (w : Issuer) (len : Nat) (state : Nat) (deferred : Bool)
    (mine : Bool := true) : Option Nat :=
  let v := fnOf s h.func
  if v.disabled && !allowed then some 0x0009
  else if !known then some 0x0002
  else if !(issuerOk s h w && mine) then some 0x0007
  else if h.paramLen ≠ len then some 0x0003
  else if state ≠ 0 then some state
  else if deferred && decide (backlogMax s ≤ v.backlog.length) then some 0x000C
  else none

/-- Runs a command's own part once R308 passes. -/
def checked (s : State) (h : CmdHdr) (op : Nat) (fail : Option Nat) (k : State → State) : State :=
  match fail with
  | some st => respond s h op st []
  | none => k s

/-- An immediate command. -/
def immediate (h : CmdHdr) (op : Nat) (allowed : Bool) (w : Issuer) (len : Nat) (k : State → State) (s : State) : State :=
  checked s h op (firstFailure s h allowed true w len 0 false) k

/-- A deferred command; `state` is what the region's state says. -/
def deferred (h : CmdHdr) (op : Nat) (w : Issuer) (len state : Nat) (k : State → State) (s : State) : State :=
  checked s h op (firstFailure s h false true w len state true) k

/-- A deferred command whose region or namespace its parameter block names. -/
def deferredBy (h : CmdHdr) (op : Nat) (mine : Bool) (len : Nat) (k : State → State) (s : State) : State :=
  checked s h op (firstFailure s h false true .any len 0 true mine) k

/-! ## Requests (R306, R309) -/

/-- Accepts a deferred command: ACCEPTED with a fresh REQ_ID. -/
def accept (s : State) (h : CmdHdr) (op region parts : Nat) (hostDma : Bool) : State × Nat :=
  let v := fnOf s h.func
  let q : Req := { id := v.nextReq, opcode := op, tag := h.tag, status := 1, partMap := 0, partsMinus1 := parts, region := region
                   result := [], finished := false, hostDma := hostDma, seqNo := h.seq }
  let s1 := setFn s h.func { v with nextReq := v.nextReq + 1, requests := v.requests ++ [q] }
  (respondId s1 h op 1 q.id [], q.id)

/-- Accepts a command and gives its outcome at once. -/
def acceptDone (s : State) (h : CmdHdr) (op region status : Nat) (result : List Byte) : State :=
  let a := accept s h op region 0 false
  finishReq a.1 h.func a.2 status result

/-- A CAPACITY refusal with the shortfall record (Table 4.21). -/
def shortfall (s : State) (h : CmdHdr) (op : Nat) (x : Shortfall) : State := respond s h op 0x0004 (shortBytes x)

/-! ## Commands on functions -/

def opNop : Nat := 0x01
/-- NOP. -/
def doNop (h : CmdHdr) (s : State) : State := immediate h opNop true .any 0 (fun s => respond s h opNop 0 []) s
def execNop (h : CmdHdr) (s : State) : Out := doorbell h opNop (.nop h) (doNop h) s

/-- What a function uses of its quota (R304). -/
def useOf (s : State) (f : Nat) : Quota :=
  let rs := (ownedRegions s f).filterMap (regionOf s)
  let ns := (s.silt.nss.filter fun n => (ownedRegions s f).contains n.2.owner).map (·.2)
  let sum := fun (l : List Nat) => l.foldl (· + ·) 0
  { regions := rs.length, tiles := sum (rs.map fun g => g.w * g.h), basinGib := sum (rs.map (·.basinGib))
    contexts := sum (rs.map fun g => g.ctxIds.length), namespaces := ns.length
    siltGib := ceilDiv (sum (ns.map (·.capacity))) 65536 }

def quotaNums (q : Quota) : List Nat := [q.regions, q.tiles, q.basinGib, q.contexts, q.namespaces, q.siltGib]

/-- Preserved bundles that the first IDENTIFY response after READY lists. -/
def preserved (s : State) : List Nat :=
  if s.idn.listed then [] else (s.bundles.filter (·.committed)).flatMap fun b => [b.slot, b.region, b.seq]

/-- IDENTIFY. -/
def doIdentify (h : CmdHdr) (s : State) : State :=
  immediate h 0x02 true .any 0 (fun s =>
    let body := Config.identifyBytes (h.func :: quotaNums (fnOf s h.func).quota ++ quotaNums (useOf s h.func) ++ preserved s)
    respond { s with idn := { s.idn with listed := true } } h 0x02 0 body) s
def execIdentify (h : CmdHdr) (s : State) : Out := doorbell h 0x02 (.identify h) (doIdentify h) s

/-- FUNCTION_CONFIG (R316). -/
def doFunctionConfig (h : CmdHdr) (beatMs : Nat) (beatStop : Bool) (disableMs : Nat) (s : State) : State :=
  immediate h 0x03 false .any 8 (fun s =>
    if 10000 < disableMs ∨ 0xFFFF < beatMs then respond s h 0x03 3 []
    else
      respond (updFn s h.func fun v => { v with
        beatMs := beatMs, beatStop := beatStop, disableMs := if disableMs = 0 then 100 else disableMs, beatAt := s.now }) h 0x03 0 []) s
def execFunctionConfig (h : CmdHdr) (beatMs : Nat) (beatStop : Bool) (disableMs : Nat) (s : State) : Out :=
  doorbell h 0x03 (.functionConfig h beatMs beatStop disableMs) (doFunctionConfig h beatMs beatStop disableMs) s

/-- VF_QUOTA (R304). -/
def doVfQuota (h : CmdHdr) (b : QuotaBlock) (s : State) : State :=
  immediate h 0x04 false .pf 16 (fun s =>
    if b.vf = 0 ∨ 16 < b.vf then respond s h 0x04 3 []
    else respond (updFn s b.vf fun v => { v with
      quota := ⟨b.regions, b.tiles, b.basinGib, b.contexts, b.namespaces, b.siltGib⟩ }) h 0x04 0 []) s
def execVfQuota (h : CmdHdr) (b : QuotaBlock) (s : State) : Out := doorbell h 0x04 (.vfQuota h b) (doVfQuota h b) s

/-- FUNCTION_DISABLE, ACTION 0 (R326): the request completes at the end of the drain; it carries the function until then. -/
def doFunctionDisable (h : CmdHdr) (func : Nat) (s : State) : State :=
  deferred h 0x05 .pf 4 0 (fun s =>
    if func = 0 ∨ 16 < func then respond s h 0x05 3 []
    else
      let a := accept s h 0x05 0xFF 0 false
      match (fnOf s func).disabled, (fnOf s func).drain with
      | true, some (_, .command) => updReq a.1 h.func a.2 fun q => { q with result := leBytes func 1 }
      | true, _ => finishReq a.1 h.func a.2 csSuccess []
      | false, _ => startDisable (updReq a.1 h.func a.2 fun q => { q with result := leBytes func 1 }) func .command) s
def execFunctionDisable (h : CmdHdr) (func : Nat) (s : State) : Out :=
  doorbell h 0x05 (.functionDisable h func) (doFunctionDisable h func) s

/-- FUNCTION_DISABLE, ACTION 1: enables a VF whose drain has ended. -/
def doFunctionEnable (h : CmdHdr) (func : Nat) (s : State) : State :=
  deferred h 0x05 .pf 4 0 (fun s =>
    if func = 0 ∨ 16 < func then respond s h 0x05 3 []
    else if (fnOf s func).drain.isSome then respond s h 0x05 8 []
    else
      let was := (fnOf s func).disabled
      let s1 := updFn (acceptDone s h 0x05 0xFF csSuccess []) func fun v => { v with disabled := false }
      if was then raiseCause s1 func causeDisable else s1) s
def execFunctionEnable (h : CmdHdr) (func : Nat) (s : State) : Out :=
  doorbell h 0x05 (.functionEnable h func) (doFunctionEnable h func) s

/-! ## Commands on the device -/

def resetKey : Nat := 0xD1CE

/-- Whether a DEVICE_RESET writes a clean-start record (R329). -/
def cleanEligible (s : State) : Bool :=
  !s.rep.faultSince && s.rep.runs.getLast?.any fun r => r.outcome == 0 && decide (wallSecs s ≤ r.time + 7 * 86400)

/-- DEVICE_RESET: 1 ms after the response. -/
def doDeviceReset (h : CmdHdr) (key : Nat) (s : State) : State :=
  immediate h 0x06 false .pf 4 (fun s =>
    if key ≠ resetKey then respond s h 0x06 3 []
    else
      respond { s with
        rep := { s.rep with cleanStart := s.rep.cleanStart || cleanEligible s }
        pwr := { s.pwr with resetPend := some (.command, s.now + cyclesPerMs) } } h 0x06 0 []) s
def execDeviceReset (h : CmdHdr) (key : Nat) (s : State) : Out := doorbell h 0x06 (.deviceReset h key) (doDeviceReset h key) s

/-- SYSTEM_SET: the device identifier, kept in the record store. -/
def doSystemSet (h : CmdHdr) (key deviceId : Nat) (s : State) : State :=
  immediate h 0x07 false .pf 8 (fun s =>
    if key ≠ resetKey ∨ 4095 < deviceId then respond s h 0x07 3 []
    else respond { s with
      idn := { s.idn with assigned := true, deviceId := deviceId }, fab := { s.fab with savedDev := some deviceId } } h 0x07 0 []) s
def execSystemSet (h : CmdHdr) (key deviceId : Nat) (s : State) : Out :=
  doorbell h 0x07 (.systemSet h key deviceId) (doSystemSet h key deviceId) s

/-- Whether the fields of a DOMAINS_SET block are in range (Table 13.5). -/
def domainsOk (b : DomainsBlock) : Bool :=
  (b.classify == 0 || b.classify == 1 || b.classify == 2 || b.classify == 0xFF) &&
    (b.histEvents == 0 || (decide (2 ≤ b.histEvents) && decide (b.histEvents ≤ 15))) && decide (b.histDays ≤ 255) &&
    (b.digestSteps == 0 || (decide (100 ≤ b.digestSteps) && decide (b.digestSteps ≤ 100000000)))

/-- A waiting failure-domain table takes effect at once where no region is inside a step (R262, R17). -/
def domainsFree (s : State) : State := if s.regions.any fun x => inStep x.2 then s else domainsTake s
/-- DOMAINS_SET (R262, R360): the table waits for the next step boundary. -/
def doDomainsSet (h : CmdHdr) (b : DomainsBlock) (s : State) : State :=
  deferred h 0x08 .pf 16 0 (fun s =>
    if !domainsOk b then respond s h 0x08 3 []
    else
      let set := fun (s : State) (t : Option (List (Nat × BitVec 64))) => { s with flc := { s.flc with
        classify := if b.classify = 0xFF then s.flc.classify else b.classify
        histEvents := if b.histEvents = 0 then 3 else b.histEvents
        histDays := if b.histDays = 0 then 30 else b.histDays
        digestSteps := if b.digestSteps = 0 then 10000 else b.digestSteps
        domainsNext := t } }
      if b.hostAddr = 0 then acceptDone (set s s.flc.domainsNext) h 0x08 0xFF csSuccess []
      else match b.table with
        | none => acceptDone s h 0x08 0xFF 0x000D []
        | some t => acceptDone (domainsFree (set s (some (t.foldl (fun m e => sset 0 m e.1 e.2) [])))) h 0x08 0xFF csSuccess []) s
def execDomainsSet (h : CmdHdr) (b : DomainsBlock) (s : State) : Out := doorbell h 0x08 (.domainsSet h b) (doDomainsSet h b) s

/-- FABRIC_ROUTES (R261): the entries join those that the host has supplied; each port of PORT_SET and PRIMARY must be
enabled. -/
def doFabricRoutes (h : CmdHdr) (entries : Option (List (Nat × BitVec 32))) (s : State) : State :=
  deferred h 0x09 .pf 16 0 (fun s =>
    match entries with
    | none => acceptDone s h 0x09 0xFF 0x000D []
    | some l =>
      if l.all fun e => decide (e.1 < 4096) && (!frValid e.2 || frLocal e.2 || (frPrimary e.2 :: frPorts e.2).all fun p => pEn (portOf s p)) then
        acceptDone { s with fab := { s.fab with hostRoutes := l.foldl (fun m e => sset 0 m e.1 e.2) s.fab.hostRoutes } } h 0x09 0xFF csSuccess []
      else acceptDone s h 0x09 0xFF 3 []) s
def execFabricRoutes (h : CmdHdr) (entries : Option (List (Nat × BitVec 32))) (s : State) : Out :=
  doorbell h 0x09 (.fabricRoutes h entries) (doFabricRoutes h entries) s

/-! ## LINK_STATE (Table 11.15) -/

/-- TRN_PORT_STATUS as 64 bits (Table 9.13). -/
def portStatusWord (p : Port) : Nat :=
  p.peerInc % 2 ^ 16 * 2 ^ 48 + p.peerDev % 2 ^ 12 * 2 ^ 36 + p.peerPort % 16 * 2 ^ 32 + p.state % 16 * 2 ^ 28 + p.rate % 4 * 2 ^ 26 +
    b2n p.v1 * 2 ^ 25 + b2n p.savedUsed * 2 ^ 24 + p.failReason % 256 * 2 ^ 16 + Nat.min p.rtt 0xFFFF

/-- The 16 bytes of a port: TRN_PORT_CTL, TRN_PORT_STATUS, LEAVE_ACTIVE. -/
def portBytes (s : State) (port : Nat) : List Byte :=
  let p := portOf s port
  leBytes p.ctl 4 ++ leBytes (portStatusWord p) 8 ++ leBytes p.cnt.leaveActive 4

def maskPorts (mask : Nat) : List Nat := (List.range 12).filter fun p => bitOf mask p

/-- LINK_STATE with one action on each port of the mask; the response shows the ports after it. -/
def linkCommand (h : CmdHdr) (mask : Nat) (read : Bool) (act : State → Nat → State) (s : State) : State :=
  checked s h 0x0A (firstFailure s h read true (if read then .any else .pf) 8 0 false) fun s =>
    if 0xFFF < mask then respond s h 0x0A 3 []
    else
      let s1 := (maskPorts mask).foldl act s
      respond s1 h 0x0A 0 ((maskPorts mask).flatMap (portBytes s1))

def doLinkStateRead (h : CmdHdr) (mask : Nat) (s : State) : State := linkCommand h mask true (fun s _ => s) s
/-- LINK_STATE_READ. -/
def execLinkStateRead (h : CmdHdr) (mask : Nat) (s : State) : Out :=
  doorbell h 0x0A (.linkStateRead h mask) (doLinkStateRead h mask) s

def doLinkStateEnable (h : CmdHdr) (mask : Nat) (s : State) : State :=
  linkCommand h mask false (fun s p => if pEn (portOf s p) then s else enablePort s p) s
/-- LINK_STATE_ENABLE (R250). -/
def execLinkStateEnable (h : CmdHdr) (mask : Nat) (s : State) : Out :=
  doorbell h 0x0A (.linkStateEnable h mask) (doLinkStateEnable h mask) s

def doLinkStateDisable (h : CmdHdr) (mask : Nat) (s : State) : State :=
  linkCommand h mask false (fun s p => if pEn (portOf s p) then disablePort s p else s) s
/-- LINK_STATE_DISABLE (R250). -/
def execLinkStateDisable (h : CmdHdr) (mask : Nat) (s : State) : Out :=
  doorbell h 0x0A (.linkStateDisable h mask) (doLinkStateDisable h mask) s

def doLinkStateRetrain (h : CmdHdr) (mask : Nat) (s : State) : State := linkCommand h mask false retrainPort s
/-- LINK_STATE_RETRAIN (R258). -/
def execLinkStateRetrain (h : CmdHdr) (mask : Nat) (s : State) : Out :=
  doorbell h 0x0A (.linkStateRetrain h mask) (doLinkStateRetrain h mask) s

def doLinkStateWriteCtl (h : CmdHdr) (mask : Nat) (ctl : BitVec 32) (s : State) : State :=
  linkCommand h mask false (fun s p => writePortCtl s p ctl.toNat) s
/-- LINK_STATE_WRITE_CTL (Table 9.12). -/
def execLinkStateWriteCtl (h : CmdHdr) (mask : Nat) (ctl : BitVec 32) (s : State) : Out :=
  doorbell h 0x0A (.linkStateWriteCtl h mask ctl) (doLinkStateWriteCtl h mask ctl) s

/-! ## TELEMETRY (R214, R384, R389) -/

/-- Writes bytes to host memory. -/
def toHost (s : State) (f addr : Nat) (l : List Byte) : State := { s with hostOut := s.hostOut ++ [⟨f, addr, l⟩] }

/-- What TELEMETRY exports; counters have no layout and come as a free value. -/
def exportOf (s : State) : TelemetryWhat → State × List Byte
  | .counters => let k := takeFree s; (k.2, Config.counterExport k.1)
  | .palacy no => (s, ((s.recorder.palacy.find? fun p => p.no == no).map (·.bytes)).getD (zeros 256))
  | .fatalSlots _ =>
    (s, (s.recorder.fatal0.elim (zeros 64) eventBytes) ++ ((List.range 16).flatMap fun i => (s.recorder.fatal[i]?).elim (zeros 64) eventBytes))

/-- Whether the export also clears fatal slot 0. -/
def clearsFatal : TelemetryWhat → Bool
  | .fatalSlots c => c
  | _ => false

/-- TELEMETRY. -/
def doTelemetry (h : CmdHdr) (what : TelemetryWhat) (hostAddr : Nat) (hostOk : Bool) (s : State) : State :=
  deferred h 0x0B .any 32 0 (fun s =>
    if clearsFatal what && h.func != 0 then respond s h 0x0B 7 []
    else if !hostOk then acceptDone s h 0x0B 0xFF 0x000D []
    else
      let x := exportOf s what
      let s1 := toHost x.1 h.func hostAddr x.2
      let s2 := if clearsFatal what then { s1 with recorder := { s1.recorder with fatal0 := none } } else s1
      acceptDone s2 h 0x0B 0xFF csSuccess []) s
def execTelemetry (h : CmdHdr) (what : TelemetryWhat) (hostAddr : Nat) (hostOk : Bool) (s : State) : Out :=
  doorbell h 0x0B (.telemetry h what hostAddr hostOk) (doTelemetry h what hostAddr hostOk) s

end Sys2Proof.Machine
end

