-- ==== Sys2Proof/Machine/RegionCommands.lean ====
section
/-! DEFINITION. Mailbox commands on regions: create, destroy, write the allotment, group, run, stop, shadow join, reset and capture
(R13, R217, R268, R311, R318 to R325, R357, R369). -/

namespace Sys2Proof.Machine

/-! ## REGION_CREATE (R318, Table 11.14) -/

/-- Check 1: the fields of the block in their ranges. -/
def regionFieldsOk (b : RegionBlock) : Bool :=
  decide (1 ≤ b.width) && decide (b.width ≤ 24) && decide (1 ≤ b.height) && decide (b.height ≤ 24) &&
    decide (b.x0 + b.width ≤ 24) && decide (b.y0 + b.height ≤ 24) && decide (b.role ≤ 2) && decide (b.attemptLimit ≤ 15) &&
    decide (1 ≤ b.collQueues) && decide (b.collQueues ≤ 4) && decide (b.flags < 16) &&
    (b.stepTimeoutUs == 0 || (decide (1000 ≤ b.stepTimeoutUs) && decide (b.stepTimeoutUs ≤ 10000000))) &&
    decide (1 ≤ b.basinGib) && decide (b.basinGib ≤ 184) && (decide (b.region ≤ 15) || b.region == 0xFF)

/-- The region that a request would take: the one asked for, or the lowest free. -/
def freeRegion (s : State) (want : Nat) : Option Nat :=
  if want = 0xFF then (List.range 16).find? fun r => (regionOf s r).isNone
  else if (regionOf s want).isNone then some want else none

/-- Check 4: the first item of a VF's quota that the region exceeds: its number, what would be used, and the quota. -/
def quotaExceeded (s : State) (f : Nat) (b : RegionBlock) : Option (Nat × Nat × Nat) :=
  if f = 0 then none
  else
    let u := useOf s f
    let q := (fnOf s f).quota
    [(1, u.regions + 1, q.regions), (2, u.tiles + b.width * b.height, q.tiles), (3, u.basinGib + b.basinGib, q.basinGib)].find?
      fun x => decide (x.2.2 < x.2.1)

/-- Tiles of a rectangle. -/
def blockLts (b : RegionBlock) : List Nat :=
  (List.range b.height).flatMap fun j => (List.range b.width).map fun i => 24 * (b.y0 + j) + b.x0 + i

/-- Free runs of the tenant range as (base, bytes), in rising order. -/
def basinRuns (s : State) : List (Nat × Nat) :=
  let used := s.regions.foldl (fun l e => rngIns (e.2.basinBase, e.2.basinGib * gib) l) []
  let r := used.foldl (fun (acc : Nat × List (Nat × Nat)) x =>
    (x.1 + x.2, if acc.1 < x.1 then acc.2 ++ [(acc.1, x.1 - acc.1)] else acc.2)) (basinTenant, [])
  if r.1 < basinEnd then r.2 ++ [(r.1, basinEnd - r.1)] else r.2

/-- Basin runs that may be given out: none while a stack has not started (Table 12.3). -/
def allotRuns (s : State) : List (Nat × Nat) := if s.rep.basinBad = [] then basinRuns s else []

/-- Collective queues of a die's engine that no region holds. -/
def freeColls (s : State) (die : Nat) : List Nat :=
  (List.range 16).filter fun k => !(engineOf s die).queues.any fun q => q.1 == k && q.2.region < 16

/-- The first refusal of checks 3 to 7, or the region number and the allotment's base. -/
def createCheck (s : State) (f : Nat) (b : RegionBlock) : Sum Shortfall (Nat × Nat) :=
  match freeRegion s b.region with
  | none => .inl ⟨0x0E, 0x3FF, 0xFFFF, 1, 0, 0⟩
  | some r =>
    match quotaExceeded s f b with
    | some x => .inl ⟨0x12, 0x3FF, 0xFFFF, x.2.1, x.2.2, x.1 * 2 ^ 56⟩
    | none =>
      let lts := blockLts b
      let clash := lts.filter fun lt => regionOfLt s lt != 16
      match clash with
      | lt :: _ => .inl ⟨0x0F, lt, 0xFFFF, lts.length, lts.length - clash.length, 0⟩
      | [] =>
        let runs := allotRuns s
        match runs.find? fun x => decide (b.basinGib * gib ≤ x.2) with
        | none => .inl ⟨0x10, 0x3FF, 0xFFFF, b.basinGib, runs.foldl (fun m x => Nat.max m (x.2 / gib)) 0, 0⟩
        | some run =>
          let dies := (List.range 4).filter fun d => lts.any fun lt => dieOfLt s lt == d
          match dies.find? fun d => decide ((freeColls s d).length < b.collQueues) with
          | some d => .inl ⟨0x11, 0x3FF, 0xFFFF, b.collQueues, (freeColls s d).length, d * 2 ^ 56⟩
          | none => .inr (r, run.1)

def roleOf (n : Nat) : Role := if n = 0 then .prompt else if n = 1 then .generation else .cache

/-- A region as REGION_CREATE makes it: no image, no group but itself, its step 0 not started. -/
def newRegion (s : State) (f base : Nat) (b : RegionBlock) : Region :=
  { owner := f, role := roleOf b.role, x0 := b.x0, y0 := b.y0, w := b.width, h := b.height, jobId := b.jobId
    attemptLimit := if b.attemptLimit = 0 then 4 else b.attemptLimit, collQueues := b.collQueues
    timeoutUs := if b.stepTimeoutUs = 0 then 50000 else b.stepTimeoutUs, basinBase := base, basinGib := b.basinGib
    repairPause := bitOf b.flags 0, arrivalFold := bitOf b.flags 1, samplerFree := bitOf b.flags 2, faultInject := bitOf b.flags 3
    step := 0, attempt := 0, mstate := .idle, rstate := .empty, failed := false, failCauses := [], failRecs := [], stepStart := 0
    readyFrom := [], answers := [], queryAt := none, lastCommitted := none, discards := 0, groupId := 0, members := 1, rank := 0
    peers := [], removed := [], image := none, switching := false, running := false, runLeft := 0, runForever := false
    deliver := false, runReq := none, held := false, ctxIds := [], pool := [], cache := [], cacheDropped := 0, ledger := []
    boundary := [], boundaryLog := [], degraded := false, loadedMap := [], undo := [], filt := [], siltCommits := 0
    idleAt := s.now, pushes := [], renames := [] }

/-- Gives a region its queues on the engine of each die of its footprint, the lowest free ones. -/
def takeColls (s : State) (r n : Nat) (lts : List Nat) : State :=
  ((List.range 4).filter fun d => lts.any fun lt => dieOfLt s lt == d).foldl (fun s d =>
    let ks := (freeColls s d).take n
    updEngine s d fun e => { e with queues := (List.zip ks (List.range n)).foldl (fun qs x =>
      sins x.1 (⟨r, x.2, 0, []⟩ : CollQueue) (sdel x.1 qs)) e.queues }) s

/-- Creates the region: tiles, queues, allotment, region key, region registers. -/
def createRegion (s : State) (f r base : Nat) (b : RegionBlock) : State :=
  let lts := blockLts b
  let s1 := takeColls (addRegion s r (newRegion s f base b)) r b.collQueues lts
  let s2 := (lts.filter (present s1)).foldl (fun s lt => updTile s lt fun t => { t with region := r }) s1
  setFootprints { s2 with sec := { s2.sec with regionKeys := setIns r s2.sec.regionKeys } }

/-- REGION_CREATE. -/
def doRegionCreate (h : CmdHdr) (b : RegionBlock) (s : State) : State :=
  deferred h 0x10 .any 32 0 (fun s =>
    if !regionFieldsOk b then respond s h 0x10 3 []
    else if b.flags / 2 ≠ 0 ∧ s.idn.debugLevel ≠ 2 then respond s h 0x10 7 []
    else match createCheck s h.func b with
      | .inl x => shortfall s h 0x10 x
      | .inr (r, base) =>
        let s1 := createRegion s h.func r base b
        let present_ := ((blockLts b).filter (present s1)).length
        acceptDone s1 h 0x10 r csSuccess (leBytes r 1 ++ zeros 3 ++ leBytes base 8 ++ leBytes present_ 2)) s
def execRegionCreate (h : CmdHdr) (b : RegionBlock) (s : State) : Out := doorbell h 0x10 (.regionCreate h b) (doRegionCreate h b) s

/-- Runs the own part of a command on an existing region. -/
def onOwn (s : State) (h : CmdHdr) (op : Nat) (k : Region → State) : State :=
  match regionOf s h.region with
  | some g => k g
  | none => respond s h op 3 []

/-- A deferred command on a region: `st` gives the status with which the region's state refuses it. -/
def regionCmd (h : CmdHdr) (op : Nat) (w : Issuer) (len : Nat) (st : State → Region → Nat) (k : State → Region → State) (s : State) : State :=
  deferred h op w len ((regionOf s h.region).elim 0 (st s)) (fun s => onOwn s h op (k s)) s

def noState (_ : State) (_ : Region) : Nat := 0

/-- REGION_DESTROY (R319): the region is destroyed at its next boundary. -/
def doRegionDestroy (h : CmdHdr) (s : State) : State :=
  regionCmd h 0x11 .owner 0 noState (fun s _ =>
    let a := accept s h 0x11 h.region 0 false
    addAct a.1 h.region .destroy (some (h.func, a.2))) s
def execRegionDestroy (h : CmdHdr) (s : State) : Out := doorbell h 0x11 (.regionDestroy h) (doRegionDestroy h) s

/-! ## IMAGE_WRITE (R320) -/

/-- First byte of part `i` of a write of `len` bytes in `p` parts. -/
def partStart (len p i : Nat) : Nat := 512 * (i * (len / 512) / p)

/-- Writes the parts in ascending order; the list gives each part's bytes, `none` for a host access that failed. -/
def writeParts (base len p : Nat) (parts : List (Option (List Byte))) (s : State) : State × Nat :=
  (List.range p).foldl (fun (acc : State × Nat) i =>
    match parts.getD i none with
    | none => acc
    | some l =>
      let a := partStart len p i
      (basinPut acc.1 (base + a) (padTo l (partStart len p (i + 1) - a)), acc.2 + 2 ^ i)) (s, 0)

/-- IMAGE_WRITE. -/
def doImageWrite (h : CmdHdr) (offset length partsMinus1 : Nat) (parts : List (Option (List Byte))) (s : State) : State :=
  regionCmd h 0x12 .owner 32 (fun _ g => if g.image.isSome || g.switching then 8 else 0) (fun s g =>
    if offset % 512 ≠ 0 ∨ length % 512 ≠ 0 ∨ 15 < partsMinus1 ∨ g.basinGib * gib < offset + length then respond s h 0x12 3 []
    else
      let a := accept s h 0x12 h.region partsMinus1 true
      let w := writeParts (g.basinBase + offset) length (partsMinus1 + 1) parts a.1
      let s1 := updReq w.1 h.func a.2 fun q => { q with partMap := w.2 }
      finishReq s1 h.func a.2 (if w.2 = 2 ^ (partsMinus1 + 1) - 1 then csSuccess else 0x000D) []) s
def execImageWrite (h : CmdHdr) (offset length partsMinus1 : Nat) (parts : List (Option (List Byte))) (s : State) : Out :=
  doorbell h 0x12 (.imageWrite h offset length partsMinus1 parts) (doImageWrite h offset length partsMinus1 parts) s

/-! ## Group, run and stop -/

/-- The members of a peer list, the region's own entry apart. -/
def otherMembers (s : State) (r : Nat) (ps : List Peer) : List Peer :=
  ps.filter fun p => p.member && !(p.device == s.idn.deviceId && p.region == r)

/-- Whether a peer list makes a group of R13: at most one member region on each device, every rank below MEMBERS and held by one member
only, the own entry, if it is listed, with the own rank. -/
def peersOk (s : State) (r members rank : Nat) (ps : List Peer) : Bool :=
  let devs := (otherMembers s r ps).map (·.device)
  let ranks := (otherMembers s r ps).map (·.rank)
  !devs.contains s.idn.deviceId && devs.eraseDups.length == devs.length && !ranks.contains rank && ranks.eraseDups.length == ranks.length
    && ps.all fun p => !p.member || (p.rank < members && (p.device != s.idn.deviceId || p.rank == rank))

/-- Whether a region belongs to a group of several members, or waits to join it at its boundary. -/
def joinsGroup (g : Region) (groupId : Nat) : Bool :=
  (g.groupId == groupId && decide (1 < g.members)) || g.boundary.any fun b =>
    match b.act with
    | .member id n _ _ => id == groupId && decide (1 < n)
    | _ => false

/-- Whether another region of the same function on this device belongs to the group or is to (R13: at most one member region on each
device; log 134). -/
def groupTaken (s : State) (f r groupId members : Nat) : Bool :=
  decide (1 < members) && s.regions.any fun x => x.1 != r && x.2.owner == f && joinsGroup x.2 groupId

/-- GROUP_SET (R13, R217): takes effect at the region's boundary. -/
def doGroupSet (h : CmdHdr) (groupId members rank : Nat) (peers : Option (List Peer)) (s : State) : State :=
  regionCmd h 0x14 .owner 32 noState (fun s _ =>
    if members = 0 ∨ 256 < members ∨ members ≤ rank then respond s h 0x14 3 []
    else match peers with
      | none => acceptDone s h 0x14 h.region 0x000D []
      | some ps =>
        if 256 < ps.length || !peersOk s h.region members rank ps || groupTaken s h.func h.region groupId members then respond s h 0x14 3 []
        else
          let a := accept s h 0x14 h.region 0 true
          settleMembers (addAct a.1 h.region (.member groupId members rank ps) (some (h.func, a.2))) h.region) s
def execGroupSet (h : CmdHdr) (groupId members rank : Nat) (peers : Option (List Peer)) (s : State) : Out :=
  doorbell h 0x14 (.groupSet h groupId members rank peers) (doGroupSet h groupId members rank peers) s

/-- What refuses a RUN: a degraded region, no image, a run or a reset under way. -/
def runState (s : State) (r : Nat) (g : Region) : Nat :=
  if g.degraded then 0x000E else if g.image.isNone || g.running || (rfOf s r).reset.isSome then 8 else 0

/-- RUN (R311). -/
def doRun (h : CmdHdr) (steps : Nat) (deliver : Bool) (s : State) : State :=
  regionCmd h 0x15 .owner 16 (fun s g => runState s h.region g) (fun s _ =>
    let a := accept s h 0x15 h.region 0 false
    let s1 := updRegion a.1 h.region fun g => { g with
      running := true, runLeft := steps, runForever := steps == 0, deliver := deliver, runReq := some (h.func, a.2), discards := 0 }
    deliverTokens (postRunState s1 h.region .running) h.region) s
def execRun (h : CmdHdr) (steps : Nat) (deliver : Bool) (s : State) : Out :=
  doorbell h 0x15 (.run h steps deliver) (doRun h steps deliver) s

/-- STOP (R320): at the next boundary; UNLOAD needs every context FREE. -/
def doStop (h : CmdHdr) (unload : Bool) (s : State) : State :=
  regionCmd h 0x16 .owner 8 noState (fun s g =>
    if unload && g.ctxIds.any fun c => (ctxOf s c).state != 0 then respond s h 0x16 6 []
    else
      let a := accept s h 0x16 h.region 0 false
      addAct a.1 h.region (if unload then .unload else .stop csSuccess) (some (h.func, a.2))) s
def execStop (h : CmdHdr) (unload : Bool) (s : State) : Out := doorbell h 0x16 (.stop h unload) (doStop h unload) s

/-! ## JOIN_SHADOW (R262, R369) -/

/-- Whether two failure-domain entries share a domain: a tag is equal or unknown, in any of the four kinds. -/
def shareDomain (a b : BitVec 64) : Bool :=
  [48, 32, 16, 0].any fun lo =>
    let x := fld a.toNat lo 16
    let y := fld b.toNat lo 16
    x == y || x == 0 || y == 0

/-- The first check of R369 that fails. -/
def joinRefusal (s : State) (r : Nat) (g : Region) (workDev : Nat) (info : WorkingInfo) : Nat :=
  let dom := fun (d : Nat) => sget 0 s.flc.domains d
  let same := g.image.any fun im => im.imageId == info.imageId && im.role == info.role && im.arithRev == info.arithRev
  if !same || g.ctxIds.any fun c => (ctxOf s c).state != 0 then 3
  else if g.arrivalFold || g.samplerFree || g.faultInject || info.nondet then 7
  else if shareDomain (dom s.idn.deviceId) (dom workDev) then 0x0011
  else if !info.reachable || !info.isMember || !routed s workDev then 0x0012
  else if info.shadowed then 8
  else if (rfOf s r).shadow.any fun x => x.state == .sync || x.state == .comparing || x.state == .qualified then 8
  else 0

/-- JOIN_SHADOW: the region enters SYNC; the request completes when it is QUALIFIED. -/
def doJoinShadow (h : CmdHdr) (workDev workRegion compareSteps : Nat) (info : WorkingInfo) (s : State) : State :=
  regionCmd h 0x17 .owner 16 noState (fun s g =>
    match joinRefusal s h.region g workDev info with
    | 0 =>
      let a := accept s h 0x17 h.region 0 false
      updRf a.1 h.region fun f => { f with shadow := some {
        state := .sync, workDev := workDev, workRegion := workRegion
        compareSteps := if compareSteps = 0 then 1000 else compareSteps
        compared := 0, c1 := 0, digests := [], actions := [], req := some (h.func, a.2), workLost := false, sink := 0 } }
    | st => respond s h 0x17 st []) s
def execJoinShadow (h : CmdHdr) (workDev workRegion compareSteps : Nat) (info : WorkingInfo) (s : State) : Out :=
  doorbell h 0x17 (.joinShadow h workDev workRegion compareSteps info) (doJoinShadow h workDev workRegion compareSteps info) s

/-! ## RESET_INSTANCE, CAPTURE, CAPTURE_READ -/

/-- RESET_INSTANCE (R322 to R325): asked for, or joined to the reset that runs. -/
def doResetInstance (h : CmdHdr) (s : State) : State :=
  regionCmd h 0x18 .ownerPf 8 noState (fun s _ =>
    let a := accept s h 0x18 h.region 0 false
    updRf a.1 h.region fun f => { f with reset := some (match f.reset with
      | some x => { x with reqs := x.reqs ++ [(h.func, a.2)] }
      | none => ⟨[(h.func, a.2)], s.now, none, 0xFF, false, none⟩) }) s
def execResetInstance (h : CmdHdr) (s : State) : Out := doorbell h 0x18 (.resetInstance h) (doResetInstance h) s

/-- CAPTURE's own work: the bundle of the region as it stands, and the result. -/
def captureFor (s : State) (f id r : Nat) : State :=
  let s1 := captureRegion s r 1
  match (s1.bundles.filter fun b => b.region == r).getLast? with
  | some b => finishReq s1 f id csSuccess (leBytes b.slot 1 ++ zeros 3 ++ leBytes b.seq 4 ++ leBytes (bundleTotal s1 b) 8)
  | none => finishReq s1 f id 0x0008 []

/-- CAPTURE (R357): with MID_STEP at once, otherwise at a boundary. -/
def doCapture (h : CmdHdr) (midStep : Bool) (s : State) : State :=
  regionCmd h 0x19 .ownerPf 8 noState (fun s g =>
    let a := accept s h 0x19 h.region 0 false
    if midStep || atBoundary g then captureFor a.1 h.func a.2 h.region else a.1) s
def execCapture (h : CmdHdr) (midStep : Bool) (s : State) : Out := doorbell h 0x19 (.capture h midStep) (doCapture h midStep) s

/-- CAPTURE_READ: bytes of a bundle with a marker; a read of its last byte exports it.  The PF may also read bundles of regions
that are gone (R353). -/
def doCaptureRead (h : CmdHdr) (slot hostAddr offset length : Nat) (hostOk : Bool) (s : State) : State :=
  deferred h 0x1A .ownerPf 32 0 (fun s =>
    match s.bundles.find? fun b => b.slot == slot && b.committed with
    | none => respond s h 0x1A 3 []
    | some b =>
      if h.func ≠ 0 ∧ b.region ≠ h.region then respond s h 0x1A 7 []
      else if bundleTotal s b < offset + length then respond s h 0x1A 3 []
      else if !hostOk then acceptDone s h 0x1A h.region 0x000D []
      else
        let s1 := toHost s h.func hostAddr (basinBytes s (b.base + offset) length)
        let s2 := if offset + length = bundleTotal s b then
          { s1 with bundles := mapIf (fun x => x.slot == slot) (fun x => { x with exported := true }) s1.bundles } else s1
        acceptDone s2 h 0x1A h.region csSuccess []) s
def execCaptureRead (h : CmdHdr) (slot hostAddr offset length : Nat) (hostOk : Bool) (s : State) : Out :=
  doorbell h 0x1A (.captureRead h slot hostAddr offset length hostOk) (doCaptureRead h slot hostAddr offset length hostOk) s

end Sys2Proof.Machine
end

