-- ==== Sys2Proof/Machine/Validity.lean ====
section
/-! DEFINITION. Whether an image's records are valid: order 11 of Table 4.20 (R131) over queue configuration records, handler entries,
streams, chains and every descriptor.  A check answers the lowest bits of the fields that take part in each broken rule. -/

namespace Sys2Proof.Machine

/-! ## Broken rules -/

/-- The offending bit of a rule, when it is broken. -/
def rule (broken : Bool) (bit : Nat) : List Nat := if broken then [bit] else []

/-- The lowest offending bit. -/
def lowest : List Nat → Option Nat
  | [] => none
  | b :: t => some (t.foldl Nat.min b)

/-- Non-zero reserved bits of the range [lo, lo + n). -/
def reserved (d lo n : Nat) : List Nat := ((List.range n).map fun i => lo + i).filter fun b => bitOf d b

/-- An operand range that reaches the control window or runs past the scratchpad (R72, R131). -/
def tooFar (r : Rng) : Bool := decide (0 < r.2) && decide (ctlWindow < r.1 + r.2)

/-- The offending bit of an operand whose whole extent is the list of ranges. -/
def extent (rs : List Rng) (bit : Nat) : List Nat := rule (rs.any tooFar) bit

/-- A descriptor seen with every ADDR_FROM_IN offset as zero. -/
def bare (d : Nat) : FireCtx := ⟨0, 0, 0, 0, d, []⟩

/-! ## MATRIX (Table 4.6) -/

/-- The formats and modes of a MATRIX descriptor (R34, R38, R57). -/
def matrixFields (d : Nat) : List Nat :=
  let int_ := mWFmt d == 4 && mAFmt d == 4
  rule (decide (7 < mWFmt d)) 154 ++ rule (decide (6 < mAFmt d)) 184 ++ rule (decide (9 < mOFmt d) || mOFmt d == 7) 214 ++
    rule ((mWFmt d == 4) != (mAFmt d == 4)) 154 ++ rule (mOFmt d == 9 && !int_) 154 ++
    rule (mOFmt d == 9 && int_ && (mE1 d != 0 || mE2 d != 0 || mE3 d != 0 || mE4 d)) 214 ++
    rule (mE1 d == 3) 302 ++ rule (mE2 d == 3) 304 ++ rule (decide (4 < mE3 d)) 306 ++ rule (mK d == 0) 224 ++ rule (mN d == 0) 244 ++
    rule (bitOf d 402 && fld d 403 8 == 0) 403

/-- Records that one half holds (R40). -/
def halfRecords (fmt : Nat) : Nat := if fmt = 0 then 128 else 256

/-- The blocks of a MATRIX descriptor at load: CB12×8 blocks are taken with FP8 entries, the smaller ones. -/
def loadBlocks (d : Nat) : List (Nat × Nat) :=
  let nblk := ceilDiv (mN d) (blockCols (mWFmt d) 3)
  let slices := ceilDiv (mK d) 128
  (List.range nblk).flatMap fun b => (List.range slices).map fun j => blockAt d (mWAddr d) (wBlockBytes (mWFmt d) 3) slices b j

/-- MATRIX: fields, footprint (R33), records (R41), alignment (R39, R441) and extents.  `cl`: A_ADDR lies in a list window. -/
def matrixBits (cl : Bool) (d : Nat) : List Nat :=
  let blocks := loadBlocks d
  let nblk := ceilDiv (mN d) (blockCols (mWFmt d) 3)
  let epi := mE1 d == 1 || mE2 d != 0
  let row := rowBytes (mAFmt d) (mK d)
  matrixFields d ++ rule (decide (196608 < mmRows d * row)) 184 ++
    rule (decide (mWFmt d < 2) && blocks.any fun b => decide (halfRecords (mWFmt d) ≤ b.2)) 154 ++
    rule (if mWFmt d = 7 then mWAddr d % 256 != 0 else blocks.any fun b => b.1 % 512 != 0) 128 ++
    rule (epi && mEpi d % 512 != 0) 312 ++
    extent (blocks.map fun b => (b.1, wBlockBytes (mWFmt d) 3)) 128 ++
    (if cl then [] else extent (rowRngs (mAAddr d) (mAStride d) (mmRows d) row) 158) ++
    extent (rowRngs (mOAddr d) (mOStride d) (mmRows d) (outRowBytes (mOFmt d) (mN d))) 188 ++
    (if epi then extent (rowRngs (mEpi d) 512 nblk 512) 154 else [])

/-! ## VECTOR (Table 4.7, Table 5.7, Table 5.14) -/

/-- Number of functions of a VECTOR op (Tables 5.7 and 6.6). -/
def funcCount (op : Nat) : Nat := [9, 5, 2, 3, 2, 11, 4, 1, 4].getD op 0

/-- Ops that a SRC_MODE other than LINE may go with (R436). -/
def modeOps (op f : Nat) : Bool := op == 0 || (op == 1 && decide (f ≤ 3)) || op == 2 || op == 3 || op == 4 || op == 5 || op == 7

/-- Rows that a STRIDE8, TRANS16 or TRANS4 source may not have (R436). -/
def modeBad (d : Nat) : Bool :=
  match vSrcMode d with
  | 0 => false
  | 1 => vSrcFmt d == 0 || vSrcFmt d == 1 || decide (64 < elemBytes (vSrcFmt d) (vLen d))
  | 2 => !(vSrcFmt d == 5 || vSrcFmt d == 6) || vLen d != 32
  | _ => vSrcFmt d != 0 || vLen d != 64

/-- Whether IN0 names a gather queue whose FAN_IN reaches PARAM_K (R112). -/
def gatherOk (queues : List (Nat × QCfg)) (d : Nat) : Bool :=
  (dIn d 0).any fun q =>
    let c := sget qcfgReset queues q
    queues.any (fun e => e.1 == q) && isGather c && decide (2 ≤ dParamK d) && decide (dParamK d ≤ c.fanIn)

/-- R112, R436, R437 and the ranges of Table 5.14 and R175. -/
def vectorShape (queues : List (Nat × QCfg)) (d : Nat) : List Nat :=
  let op := dOp d
  let f := dFunc d
  let canonOp := (op == 1 && f == 4) || (op == 6 && f == 1)
  rule (dCanon d != canonOp) 56 ++ rule (dCanon d && canonOp && (dIn d 0).isNone) 45 ++
    rule (dCanon d && canonOp && (dIn d 0).isSome && !gatherOk queues d) 39 ++
    rule (vSrcMode d != 0 && !modeOps op f) 56 ++ rule (modeOps op f && modeBad d) 232 ++
    rule (op == 6 && vSrcC d != 0) 180 ++ rule (op == 6 && decide (2 ≤ f) && vDst d != 0) 206 ++
    rule (op == 8 && decide (f ≤ 2) && (decide (vLen d < 2) || decide (4096 < vLen d))) 240 ++
    rule (op == 8 && decide (f ≤ 2) && (dParamK d == 0 || decide (8 < dParamK d))) 304

/-- Formats that SRC_FMT and DST_FMT may hold. -/
def vecFmt (f : Nat) : Bool := decide (f ≤ 6) || f == 8 || f == 9

/-- What SRC_A reads, as one range. -/
def srcARng (d : Nat) : Rng := (vSrcA d, vecEndA d (vSrcA d) - vSrcA d)

/-- Extents of a SELECT. -/
def selectExtents (d : Nat) : List Nat :=
  let c := bare d
  match dFunc d with
  | 0 => extent [srcARng d] 128 ++ extent (rowRngs (vDst d) (vDstStride d) (vRows d) (8 * dParamK d)) 206
  | 1 => extent (exchRngs c 0 64) 154 ++ extent (rowRngs (vDst d) (vDstStride d) (vRows d) (8 * vLen d)) 206
  | 2 => extent (exchRngs c 0 192) 154 ++ extent (rowRngs (vSrcA d) (vSrcStride d) (vRows d) (8 * vLen d)) 128
  | _ => extent (exchRngs c 0 192) 154 ++ extent (rowRngs (vSrcA d) (vSrcStride d) (17 * vRows d) (8 * vLen d)) 128

/-- Extents of a GATE: records of 64 bytes, and of COMBINE the records it reads and its rows of the least K. -/
def gateExtents (cl : Bool) (d : Nat) : List Nat :=
  let c := bare d
  if dFunc d ≤ 2 then (if cl then [] else extent [srcARng d] 128) ++ extent (rowRngs (vDst d) 64 (vRows d) 64) 206
  else extent (rowRngs (vSrcA d) 64 (vRows d) 64) 128 ++ extent (rowRngs (vSrcB d) (vSrcStride d) (vRows d) (4 * vLen d)) 154 ++
    extent (dstRngs c (vLen d)) 206

/-- Extents of the other ops. -/
def plainExtents (cl : Bool) (d : Nat) : List Nat :=
  let c := bare d
  let op := dOp d
  let f := dFunc d
  let n := rowBytes (vSrcFmt d) (vLen d)
  (if cl || (op == 1 && f == 4) then [] else extent [srcARng d] 128) ++
    (if op == 0 && ewUsesB f then extent (srcRngs c (vSrcB d)) 154 else []) ++
    (if op == 0 && ewUsesC f then extent (srcRngs c (vSrcC d)) 180 else []) ++
    (if op == 2 then extent [(vSrcB d, n)] 154 ++ (if f == 1 then extent [(vSrcC d, n)] 180 else []) else []) ++
    (if op == 3 then extent (softReads c) 154 ++ (if f == 0 then [] else extent (rowRngs (vSrcC d) 8 (vRows d) 8) 180) else []) ++
    (if op == 4 then extent (rowRngs (vSrcB d) (vSrcStride d) (vRows d) (8 * (vLen d / 2))) 154 ++
      extent (rowRngs (vSrcC d) (vSrcStride d) (vRows d) 4) 180 else []) ++
    extent (dstRngs c (if op == 1 && f != 4 then 1 else vLen d)) 206

/-- VECTOR. -/
def vectorBits (queues : List (Nat × QCfg)) (cl : Bool) (d : Nat) : List Nat :=
  rule (!vecFmt (vSrcFmt d)) 232 ++ rule (!vecFmt (vDstFmt d)) 236 ++ rule (decide (funcCount (dOp d) ≤ dFunc d)) 296 ++
    rule (vLen d == 0) 240 ++ vectorShape queues d ++
    (if dOp d = 6 then selectExtents d else if dOp d = 8 then gateExtents cl d else plainExtents cl d)

/-! ## DMA, SCAN, SYNC, SEND, CONTROL (Tables 4.8 to 4.12) -/

/-- Reserved values of a SPARSIFY (R169, Table 6.4). -/
def sparsifyBits (d : Nat) : List Nat :=
  let t := mParam0 d
  let v1 := (decide (2 ≤ spFmt d) && decide (spFmt d ≤ 6)) || spFmt d == 8
  reserved d 215 3 ++ rule (!v1) 207 ++ rule (decide (9 < fld (mRemote d) 57 4)) 211 ++ rule (v1 && mLen d % spElem d != 0) 207 ++
    rule (spList d % 64 != 0) 181 ++ rule (mParts d != 1) 304 ++
    rule ((bitOf t 31 && t % 2 ^ 31 != 0) || fld t 23 8 == 255) 308 ++
    (if spDenseEn d then extent (rowRngs (spDense d) (mRemoteStride d) (mRows d) (mLen d)) 154 else []) ++
    extent [(spList d, spTotal d (mParam1 d))] 181

/-- DMA; Silt ops are judged at issue (R289), GATHER's rows come from its entry. -/
def dmaBits (d : Nat) : List Nat :=
  let c := bare d
  let op := dOp d
  let remote := rowRngs (mRemote d % 2 ^ 26) (mRemoteStride d) (mRows d) (mLen d)
  rule (decide (mRows d < mParts d)) 288 ++ (if op = 10 then extent [(mLocalF d, mLen d)] 128 else extent (localRngs c) 128) ++
    (if op ≤ 2 then extent remote 154 else []) ++
    (if op = 7 then rule (mTagSet d == 0 || decide (4 < mTagSet d)) 250 ++ rule (decide (32768 < mTotal d)) 218 else []) ++
    (if op = 8 then sparsifyBits d else []) ++
    (if op = 9 then extent [(scRecs d, 64 * mRows d)] 154 ++ extent [(scMap d, 8)] 180 else [])

/-- SEND (R227). -/
def sendBits (d : Nat) : List Nat :=
  let b := cBlockOf (sData d)
  let n := if dOp d = 1 then b.resultCount * cWidth b.outType else sLen d
  rule (decide (60 ≤ sGroup d)) 161 ++ rule (sMulticast d && sFabric d) 158 ++ extent [(sLocalF d, sLen d)] 167 ++
    extent [(sDestAddr d, n)] 193

/-- CONTROL (R114). -/
def controlBits (d : Nat) : List Nat :=
  let op := dOp d
  rule (op == 3 && fld d 146 16 == 0) 146 ++ rule (op == 5 && ctlAddr d % 32768 != 0) 162 ++
    rule (op == 5 && ctlLines d % 64 != 0) 188 ++ rule (op == 6 && ctlAddr d % 512 != 0) 162 ++
    (if op == 5 || op == 6 then extent [(ctlAddr d, 512 * ctlLines d)] 162 else [])

/-- Ops of a class (Table 4.5). -/
def opCount (cls : Nat) : Nat := [1, 9, 11, 2, 3, 2, 7].getD cls 0

/-- First bit of the body's zero tail, by class. -/
def tailBit (cls : Nat) : Nat := [495, 379, 372, 189, 179, 512, 208].getD cls 512

/-- Every offending bit of a descriptor (R108). -/
def descBits (queues : List (Nat × QCfg)) (lists : List Window) (d : Nat) : List Nat :=
  let cls := dClass d
  reserved d 16 2 ++ reserved d (tailBit cls) (512 - tailBit cls) ++
    if 6 < cls then [60]
    else if opCount cls ≤ dOp d then [56]
    else match cls with
      | 0 => reserved d 311 1 ++ matrixBits (windowOf lists (mAAddr d)).isSome d
      | 1 => vectorBits queues (windowOf lists (vSrcA d)).isSome d
      | 2 => dmaBits d
      | 3 => reserved d 173 1
      | 4 => rule (dOp d == 0 && syncValue d == 0) 147
      | 5 => sendBits d
      | _ => controlBits d

/-- What a stream or a chain adds to a descriptor's bits (R114): JUMP and LOOP in a chain, targets beyond the stream. -/
def flowBits (chain : Bool) (len d : Nat) : List Nat :=
  if dClass d == 6 && (dOp d == 2 || dOp d == 3) then rule chain 56 ++ rule (!chain && decide (len ≤ fld d 128 16)) 128 else []

/-! ## Records (Tables 4.1 and 4.16) -/

/-- Offending bits of a queue configuration record (R100, R114); of an unused one, its reserved bits. -/
def queueBits (n : Node) (q : Nat) (c : QCfg) : List Nat :=
  reserved c.res 0 46 ++
  if c.qtype = 3 then []
  else
    let len := (sget [] n.streams q).length
    rule (decide (4 < c.depthCode)) 123 ++
      rule (decide (c.depthCode ≤ 4) && (c.ringBase % (64 * depthOf c) != 0 || tooFar (c.ringBase, 64 * depthOf c))) 97 ++
      rule (c.fanIn != 0 && (c.qtype != 0 || c.fanIn == 1 || decide (255 < c.fanIn))) 88 ++
      rule (c.qtype != 1 && c.streamLen != 0) 46 ++
      (if c.qtype = 1 then rule (c.streamLen == 0 || decide (49152 < c.streamLen) || c.streamLen != len) 46 ++
        rule (c.streamBase % 512 != 0) 62 ++ rule (tooFar (c.streamBase, 64 * c.streamLen)) 46 else [])

/-- Whether a record is one descriptor queue too many (R100). -/
def descQueueSurplus (n : Node) (q : Nat) : Bool :=
  isDescQueue (sget qcfgReset n.queues q) && decide (16 < ((n.queues.filter fun e => isDescQueue e.2).filter fun e => decide (e.1 ≤ q)).length)

/-- Offending bits of a handler entry (R122); of one not VALID, its reserved bits. -/
def handlerBits (n : Node) (h : Nat) (e : Handler) : List Nat :=
  reserved e.res 0 75 ++
  if !e.valid then []
  else
    let dq := sget qcfgReset n.queues e.descQueue
    let aq := sget qcfgReset n.queues e.argQueue
    rule (dq.qtype != 2) 116 ++ rule (aq.qtype != 0 || !aq.remoteOk) 110 ++
      rule (decide (64 < e.chainLen) || (sget [] n.chains h).length != e.chainLen) 103 ++
      rule (e.chainBase % 64 != 0 || tooFar (e.chainBase, 64 * e.chainLen)) 77

/-- DETAIL of a shortfall record for order 11 (Table 4.21). -/
def detailOf (queue idx bit kind handler : Nat) : Nat :=
  queue % 64 * 2 ^ 58 + idx % 2 ^ 16 * 2 ^ 42 + bit % 512 * 2 ^ 33 + kind % 4 * 2 ^ 31 + handler % 256 * 2 ^ 23

/-- The first fault of a stream or chain of queue `q` whose indexes begin at `base`. -/
def streamFault (n : Node) (q base : Nat) (chain : Bool) (ds : List Desc) : Option Nat :=
  let each := (List.zip (List.range ds.length) ds).findSome? fun x =>
    (lowest (descBits n.queues n.lists x.2.toNat ++ flowBits chain ds.length x.2.toNat)).map fun b => detailOf q (base + x.1) b 0 0
  let last := (ds.getLast?).any fun d => dClass d.toNat == 6 && dOp d.toNat == 1
  match each with
  | some x => some x
  | none => if !chain && !last then some (detailOf q (ds.length - 1) 0 3 0) else none

/-- Order 11 over one node, in R131's order. -/
def nodeFault (n : Node) : Option Nat :=
  let qs := n.queues.findSome? fun e =>
    (lowest (queueBits n e.1 e.2 ++ rule (descQueueSurplus n e.1) 126)).map fun b => detailOf e.1 0xFFFF b 1 0
  let hs := n.handlers.findSome? fun e => (lowest (handlerBits n e.1 e.2)).map fun b => detailOf 0 0xFFFF b 2 e.1
  let ss := n.streams.findSome? fun e => streamFault n e.1 0 false e.2
  let cs := n.chains.findSome? fun e => streamFault n (sget handlerReset n.handlers e.1).descQueue (0xC000 + 64 * e.1) true e.2
  qs.orElse fun _ => hs.orElse fun _ => ss.orElse fun _ => cs

/-! ## The image as a whole (R72, R73, R165, R269, R270) -/

/-- Ranges of a directory in rising order of offset. -/
def dirRanges (d : Directory) : List (Nat × Nat) :=
  ([d.weightImage, d.cold, d.kvShadow, d.undoLog, d.ctxBundles, d.overflow].map fun r => (r.off, r.len)).foldr rngIns []

/-- Whether a directory lies within BASIN_BYTES and its ranges do not overlap (R269). -/
def dirOk (im : Image) : Bool :=
  let rs := (dirRanges im.dir).filter fun r => decide (0 < r.2)
  rs.all (fun r => decide (r.1 + r.2 ≤ im.basinBytes)) && (List.zip rs (rs.drop 1)).all fun p => decide (p.1.1 + p.1.2 ≤ p.2.1)

/-- Whether a resident range stays out of the control window and inside its source, and a weight range is made of whole words. -/
def residentOk (im : Image) (r : Resident) : Bool :=
  !tooFar (r.addr, r.len) && decide (r.off + r.len ≤ (if r.cold then im.dir.cold.len else im.dir.weightImage.len)) &&
    (r.cold || (r.addr % 64 == 0 && r.len % 64 == 0))

/-- A shadow window: whole lines of the job data area, its image in KV_SHADOW (R270). -/
def shadowOk (im : Image) (w : ShadowWindow) : Bool :=
  !w.en || (w.base % 512 == 0 && w.limit % 512 == 0 && w.off % 512 == 0 && decide (w.base < w.limit) && decide (w.limit ≤ 0x3800000) &&
    decide (im.dir.kvShadow.off ≤ w.off) && decide (w.off + (w.limit - w.base) ≤ im.dir.kvShadow.off + im.dir.kvShadow.len))

/-- A list window in the job data area (R165). -/
def listOk (w : Window) : Bool :=
  !w.en || (w.base % 64 == 0 && w.limit % 64 == 0 && decide (w.base < w.limit) && decide (w.limit ≤ 0x3800000))

/-- Windows of one node: eight of each kind at most, shadow windows apart from each other. -/
def windowsOk (im : Image) (n : Node) : Bool :=
  let sh := n.shadow.filter (·.en)
  (windowsOf [n]).all (fun k => decide (k ≤ 8)) && n.shadow.all (shadowOk im) && n.lists.all listOk &&
    let rs := (sh.map fun w => (w.base, w.limit)).foldr rngIns []
    (List.zip rs (rs.drop 1)).all fun p => decide (p.1.2 ≤ p.2.1)

/-- Tables of a node in rising order of number, each number one that a tile has; of expert receive records eight (R179; DEDUCED, log
entry 150: the spec names no check of their number). -/
def tablesOk (n : Node) : Bool :=
  let within := fun (l : List Nat) (k : Nat) => l.all fun x => decide (x < k)
  sortedKeys n.queues && sortedKeys n.objects && sortedKeys n.handlers && sortedKeys n.streams && sortedKeys n.chains &&
    sortedKeys n.experts && within (n.experts.map (·.1)) 8 &&
    within (n.queues.map (·.1)) 64 && within (n.objects.map (·.1)) 256 && within (n.handlers.map (·.1)) 256 &&
    n.streams.all (fun e => (sget qcfgReset n.queues e.1).qtype == 1) && n.chains.all fun e => n.handlers.any fun h => h.1 == e.1

/-- The buffers of a node's expert receive records and the maps of its multicast groups stay out of the control window (R72). -/
def receiveOk (n : Node) : Bool :=
  n.experts.all (fun e => !e.2.en || !tooFar (e.2.bufBase, (e.2.bufsMinus1 + 1) * bufBytes e.2)) &&
    n.mcast.all fun e => !e.2.valid || !tooFar (e.2.mapAddr, 72)

/-- The areas that an image places beside its nodes' records stay out of the control window (R72): exchange areas, page blocks, tail
areas and expert maps. -/
def areasOk (im : Image) : Bool :=
  !tooFar (im.exchBase, 320 * im.contexts) && im.pageMap.all (fun e => !tooFar (e.2.addr, 17408)) &&
    im.tailMap.all (fun e => !tooFar (e.2.addr, 16384)) && im.expertMaps.all fun e => !tooFar (e.2, 8 * im.experts)

/-- Whether a shadow window of a node at a tile covers an area (R270). -/
def windowCovers (g : Region) (im : Image) (e : PageMapEntry) (len : Nat) : Bool :=
  im.nodes.any fun n => nodeHome g n == e.lt && n.shadow.any fun w => w.en && decide (w.base ≤ e.addr) && decide (e.addr + len ≤ w.limit)

/-- Whether every page block and tail area of the region's page pool lies in a shadow window (R270). -/
def pagesShadowed (g : Region) (im : Image) : Bool :=
  im.pageMap.all (fun e => windowCovers g im e.2 17408) && im.tailMap.all fun e => windowCovers g im e.2 16384

/-- What LOAD_IMAGE refuses with IMAGE_INVALID and no shortfall record beside the header's mismatches. -/
def imageWhole (g : Region) (im : Image) : Bool :=
  decide (1 ≤ im.nodes.length) && decide (im.nodes.length ≤ 576) && decide (1 ≤ im.tilesW) && decide (im.tilesW ≤ g.w) &&
    decide (1 ≤ im.tilesH) && decide (im.tilesH ≤ g.h) && dirOk im && areasOk im && pagesShadowed g im &&
    im.nodes.all fun n => decide (n.x < im.tilesW) && decide (n.y < im.tilesH) && tablesOk n && windowsOk im n && receiveOk n &&
      n.resident.all (residentOk im)

end Sys2Proof.Machine
end

