-- ==== Sys2Proof/Machine/LoadImage.lean ====
section
/-! DEFINITION. LOAD_IMAGE: the refusals before any check, the load checks in order, and the boundary action that a good image becomes
(R12, R130 to R132, R136, R320, Tables 4.20 and 4.21). -/

namespace Sys2Proof.Machine

/-- Refusals made before any check: FORMAT, DIGEST, ARITH_REV, ROLE, the expected IMAGE_ID, and what makes the image as a whole
invalid; none of them has a shortfall record. -/
def headerBad (g : Region) (expected : Nat) (im : Image) : Bool :=
  im.format != 2 || !im.digestOk || im.arithRev != 1 || im.role != g.role || (expected != 0 && expected != im.imageId) || !imageWhole g im

/-- Whether a region has a context that is not FREE (R136). -/
def regionBusy (s : State) (g : Region) : Bool := g.ctxIds.any fun c => (ctxOf s c).state != 0

/-- The node whose sum first passes a limit, with nodes taken in ascending number. -/
def firstOver (item limit : Nat) : List (Nat × Node) → List Node → Nat
  | [], _ => 0xFFFF
  | (i, n) :: t, seen =>
    if ((sums (seen ++ [n])).find? fun x => x.1 == item).any fun x => decide (limit < x.2.1) then i else firstOver item limit t (seen ++ [n])

/-- Orders 2 to 7 on one tile. -/
def tileShortfall (im : Image) (map : List (Nat × Nat)) (lt : Nat) : Option Shortfall :=
  let ns := (nodesOf im).filter fun x => sget 0x3FF map x.1 == lt
  ((sums (ns.map (·.2))).find? fun x => decide (x.2.2 < x.2.1)).map fun x => ⟨x.1, lt, firstOver x.1 x.2.2 ns [], x.2.1, x.2.2, 0⟩

/-- Free contexts that an image may take: those of the device with the region's own, within a VF's quota. -/
def contextsLeft (s : State) (g : Region) : Nat :=
  let dev := 1024 - (s.regions.foldl (fun n e => n + e.2.ctxIds.length) 0 - g.ctxIds.length)
  if g.owner = 0 then dev
  else Nat.min dev ((fnOf s g.owner).quota.contexts - ((useOf s g.owner).contexts - g.ctxIds.length))

/-- Free bytes of a region's namespaces. -/
def siltFree (s : State) (r : Nat) : Nat :=
  (s.silt.nss.filter fun n => n.2.owner == r && n.2.opened).foldl (fun b n => b + 16384 * freeUnits s.silt n.1) 0

/-- Orders 8 to 10. -/
def deviceShort (s : State) (r : Nat) (g : Region) (im : Image) : Option Shortfall :=
  ([(0x08, im.contexts, contextsLeft s g), (0x09, im.basinBytes, g.basinGib * gib), (0x0A, im.siltBytes, siltFree s r)].find?
    fun x => decide (x.2.2 < x.2.1)).map fun x => ⟨x.1, 0x3FF, 0xFFFF, x.2.1, x.2.2, 0⟩

/-- Order 11, node by node. -/
def orderEleven (im : Image) (map : List (Nat × Nat)) : Option Shortfall :=
  (nodesOf im).findSome? fun x => (nodeFault x.2).map fun d => ⟨0x0B, sget 0x3FF map x.1, x.1, 0, 0, d⟩

/-- The checks of Table 4.20: the status and shortfall record of the first that fails. -/
def loadChecks (s : State) (r : Nat) (g : Region) (im : Image) : Option (Nat × Shortfall) :=
  match placeImage s g im with
  | .inl x => some (4, x)
  | .inr map =>
    match (regionTiles s g).findSome? (tileShortfall im map) with
    | some x => some (4, x)
    | none =>
      match deviceShort s r g im with
      | some x => some (4, x)
      | none => (orderEleven im map).map fun x => (5, x)

/-- LOAD_IMAGE: loads the whole image at the next boundary, or changes nothing. -/
def doLoadImage (h : CmdHdr) (imageId : Nat) (img : Option Image) (s : State) : State :=
  regionCmd h 0x13 .owner 32 (fun _ g => if g.degraded then 0x000E else 0) (fun s g =>
    match img with
    | none => acceptDone s h 0x13 h.region 0x000D []
    | some im =>
      if headerBad g imageId im then respond s h 0x13 5 []
      else if regionBusy s g then respond s h 0x13 6 []
      else match loadChecks s h.region g im with
        | some (st, x) => respond s h 0x13 st (shortBytes x)
        | none =>
          let a := accept s h 0x13 h.region 0 true
          addAct (updRegion a.1 h.region fun g => { g with switching := true }) h.region (.load im) (some (h.func, a.2))) s
def execLoadImage (h : CmdHdr) (imageId : Nat) (img : Option Image) (s : State) : Out :=
  doorbell h 0x13 (.loadImage h imageId img) (doLoadImage h imageId img) s

end Sys2Proof.Machine
end

