-- ==== Sys2Proof/Machine/Pins.lean ====
section
/-! DEFINITION. Pins, rails and reference clocks: resets and straps, power failure, loss of a clock, the PMBus, wake (R293, R403,
R406, R411, R412, R419, R423 to R427, R430). -/

namespace Sys2Proof.Machine

/-! ## Outputs (R426, R429) -/

/-- Level of FAULT_N: low while FLT_STATE is HALTED or EMERGENCY_STOP (R426). -/
def faultN (s : State) : Bool := !(s.flt.state == 7 || s.flt.state == 8)

/-- Level of SMB_ALERT_N: low while a platform event waits (R429). -/
def smbAlertN (s : State) : Bool := s.recorder.board.isEmpty

/-! ## Start by pins (R419, R423, R425) -/

/-- The device starts when PWR_OK and PERST_N are both high and it is not running: the core reference runs then. -/
def startIfReleased (s : State) : State :=
  if s.pwr.pwrOk && s.pwr.perstN && !s.pwr.powerFail && (s.flt.state == 0 || s.flt.state == 6) then
    bootRom (whNote { s with pwr := { s.pwr with p3 := false, wakeN := true } } .start s.flt.cause [])
  else s

/-- Whether the device is running, so that a reset pin resets it. -/
def powered (s : State) : Bool := !s.pwr.off && !s.pwr.p3 && s.flt.state != 0 && s.flt.state != 6

/-- PERST_N_ASSERT: a device reset with cause 0x02; while power-fail actions run it waits for their end. -/
def execPerstNAssert (s : State) : Out :=
  let s1 := { s with pwr := { s.pwr with perstN := false } }
  if !powered s then .next s1
  else if s.pwr.powerFail && s.silt.txns != [] then .next { s1 with pwr := { s1.pwr with resetPend := some (.perst, s.now) } }
  else .next (pinReset s1 .perst)

/-- PERST_N_DEASSERT: COMPAT_SEL and PCIE_LANE_REV are sampled, and the link trains to the rate and width given (Table 11.1); the start
begins once PWR_OK is high. -/
def execPerstNDeassert (compatSel laneRev : Bool) (s : State) (speed : Nat := 0) (width : Nat := 0) : Out :=
  if s.pwr.perstN then .next s
  else
    .next (startIfReleased { s with
      pwr := { s.pwr with perstN := true, laneRev := laneRev }, idn := { s.idn with compat := compatSel, speed := speed, width := width } })

/-- PWR_OK_ASSERT: every rail is in range, the references run, MGMT_ADDR and PKG_TEST_N are sampled. -/
def execPwrOkAssert (mgmtAddr : Nat) (pkgTestN : Bool) (s : State) : Out :=
  if s.pwr.off || s.pwr.pwrOk then .next s
  else
    .next (startIfReleased { s with pwr := { s.pwr with
      pwrOk := true, railsUp := true, coreRef := true, powerFail := false, mgmtAddr := mgmtAddr % 8, pkgTestN := pkgTestN } })

/-! ## Power failure (R293, R385, R411, R412, R424, R425) -/

/-- What POWER_FAIL_N starts: the flush, the Silt controller's last commits, the stored seconds; a self-test ends with OUTCOME 4. -/
def powerFailNow (s : State) : State :=
  if s.pwr.powerFail then s
  else
    let s1 := whNote { s with
      pwr := { s.pwr with powerFail := true }, flt := { s.flt with powerFail := true, w1c := noteSet s.flt.w1c 9 s.now } } .powerFail 0 []
    let s2 := match s1.rep.run with
      | some run => { s1 with rep := { s1.rep with
          run := none, runs := ({ run with outcome := 4 } :: s1.rep.runs).take 4, runNo := s1.rep.runNo + 1 } }
      | none => s1
    let s3 := updSilt s2 fun x => { x with halted := true }
    let s4 := (s3.silt.txns.filter fun t => t.stage == .waiting).foldl (fun s t => failTxn s t 0x52) s3
    storeSeconds (flushRecords s4)

/-- POWER_FAIL_ASSERT: low for 1 µs. -/
def execPowerFailAssert (s : State) : Out := whenB (!s.pwr.off) s (powerFailNow s)

/-- POWER_FAIL_GLITCH: a pulse of 200 ns or more that ends before 1 µs is logged; a shorter one leaves no trace. -/
def execPowerFailGlitch (widthNs : Nat) (s : State) : Out :=
  whenB (!s.pwr.off && decide (200 ≤ widthNs) && decide (widthNs < 1000)) s (whNote s .glitch 0 [widthNs])

/-- POWER_FAIL_RELEASE: with the rails in range for 100 ms afterwards, an emergency stop. -/
def execPowerFailRelease (railsInRange : Bool) (s : State) : Out :=
  if !s.pwr.powerFail then .next s
  else
    let s1 := { s with pwr := { s.pwr with powerFail := false } }
    .next (if railsInRange && powered s then emergencyStop s1 3 else s1)

/-- PWR_OK_FALL: as POWER_FAIL_N, and the device is held in reset until PWR_OK and PERST_N are high again. -/
def execPwrOkFall (s : State) : Out :=
  if !s.pwr.pwrOk then .next s
  else
    let s1 := powerFailNow s
    let s2 := { s1 with pwr := { s1.pwr with pwrOk := false } }
    if !powered s then .next s2
    else if s2.silt.txns != [] then .next { s2 with pwr := { s2.pwr with resetPend := some (.perst, s.now) } }
    else .next (pinReset s2 .perst)

/-! ## The Wellhead's own rail (R403, R423) -/

/-- WELLHEAD_RAIL_FALL: Off.  Only the record store and the SPI NOR keep their content; what was not written out is lost. -/
def execWellheadRailFall (s : State) : Out :=
  if s.pwr.off then .next s
  else
    let s1 := clearDevice s false
    .next { s1 with
      fns := [], flt := { s1.flt with state := 0 }
      pwr := { s1.pwr with off := true, p3 := false, pwrOk := false, perstN := false, railsUp := false } }

/-- The state after the Wellhead's power-on: as after reset, with the record store, the SPI NOR, the fuses, the NAND and what
waits in the queue kept.  The seconds counter resumes from its stored value. -/
def powerOn (s : State) : State :=
  let b := State.reset
  { b with
    pending := s.pending, free := s.free, outbox := s.outbox, msis := s.msis, hostOut := s.hostOut, secsBase := s.pwr.secsStored
    silt := siltAfterReset s.silt
    recorder := { recorderReset with
      nextSeq := s.recorder.nextSeq, log := s.recorder.log, fatal0 := s.recorder.fatal0, fatal := s.recorder.fatal
      history := s.recorder.history, palacy := s.recorder.palacy, recordNo := s.recorder.recordNo
      extremeSecs := s.recorder.extremeSecs }
    idn := { idnReset with factory := s.idn.factory, serial := s.idn.serial, lifecycle := s.idn.lifecycle }
    rep := { repairReset with
      failed := s.rep.failed, runs := s.rep.runs, runNo := s.rep.runNo, repairs := s.rep.repairs, cleanStart := s.rep.cleanStart
      faultSince := s.rep.faultSince }
    flc := { domainsTakeOf s.flc with dieReset := [] }
    fab := { fabricReset with
      saved := s.fab.saved, nextTag := s.fab.nextTag, savedCtl := s.fab.savedCtl, savedDev := s.fab.savedDev, inc := s.fab.inc }
    pwr := { powerReset with
      regs := s.pwr.regs.map (fun e => (e.1, regReset)), whLog := s.pwr.whLog, secsStored := s.pwr.secsStored }
    sec := { securityReset with
      fwKeys := s.sec.fwKeys, debugKeys := s.sec.debugKeys, revoked := s.sec.revoked, svn := s.sec.svn, slotA := s.sec.slotA
      slotB := s.sec.slotB, sel0 := s.sec.sel0, sel1 := s.sec.sel1, aliasNo := s.sec.aliasNo + 1 } }

/-- WELLHEAD_POWER_ON. -/
def execWellheadPowerOn (s : State) : Out := whenB s.pwr.off s (powerOn s)

/-! ## Reference clocks (R423, R427) -/

/-- PCIE_REFCLK_LOSS: link down. -/
def execPcieRefclkLoss (s : State) : Out := whenB (powered s) s (stopFunctions s)

/-- TRN_REFCLK_LOSS: the die's ports lose lock. -/
def execTrnRefclkLoss (die : Nat) (s : State) : Out :=
  needUnit (dieOk die)
    (.next ([3 * die, 3 * die + 1, 3 * die + 2].foldl lossOfSignal (updDie s die fun d => { d with trnRef := false })))

/-- CORE_REFCLK_LOSS: the management cores miss their watchdogs, and the Wellhead resets the device. -/
def execCoreRefclkLoss (s : State) : Out :=
  whenB (powered s) s { s with pwr := { s.pwr with
    coreRef := false, resetPend := some (.watchdog, s.now + 100 * cyclesPerMs) } }

/-- CRYSTAL_LOSS. -/
def execCrystalLoss (s : State) : Out :=
  whenB (!s.pwr.off) s (whNote { s with pwr := { s.pwr with crystal := false } } .crystal 0 [])

/-- CRYSTAL_STABLE. -/
def execCrystalStable (s : State) : Out := whenB (!s.pwr.off) s { s with pwr := { s.pwr with crystal := true } }

/-! ## PMBus (R430) -/

/-- PMB_ALERT: taken as an out-of-range rail once the Wellhead's own monitors confirm it. -/
def execPmbAlert (confirmed : Bool) (s : State) : Out :=
  whenB (confirmed && powered s) s (emergencyStop s 4)

/-- PMBUS_POLL: readings by regulator, in mV, mA and mW; a regulator that answers is silent no more. -/
def execPmbusPoll (readings : List (Nat × Nat × Nat × Nat)) (s : State) : Out :=
  .next ((readings.filter fun x => decide (x.1 < 16)).foldl (fun s x =>
    { s with pwr := { s.pwr with regs := sins x.1 ⟨x.2.1, x.2.2.1, x.2.2.2, s.now, false⟩ (sdel x.1 s.pwr.regs) } }) s)

/-- REGULATOR_SILENT: no answer for 10 ms. -/
def execRegulatorSilent (reg : Nat) (s : State) : Out :=
  needUnit (decide (reg < 16))
    (let g := regOf s reg
     whenB (!g.silent && decide (g.at_ + 10 * cyclesPerMs ≤ s.now)) s
      (whNote { s with pwr := { s.pwr with regs := sins reg { g with silent := true } (sdel reg s.pwr.regs) } } .regulator reg []))

/-! ## Wake (R406) -/

/-- WAKE_ON_SIGNAL: in P3, on a port that was EXPECTED at shutdown. -/
def execWakeOnSignal (port : Nat) (s : State) : Out :=
  needUnit (portOk port)
    (whenB (s.pwr.p3 && s.pwr.expected.contains port) s
      (whNote { s with pwr := { s.pwr with wakeN := false } } .wake port []))

end Sys2Proof.Machine
end

