-- ==== Sys2Proof/Machine/Security.lean ====
section
/-! DEFINITION. Firmware update, debug unlock and lifecycle, attestation over DOE, the board manager's PLDM and the IEEE 1149.1 port
(R391 to R402, R425, R429, R431). -/

namespace Sys2Proof.Machine

/-! ## FIRMWARE_UPDATE (R394) -/

/-- Writes a slot: 0 for A, 1 for B. -/
def setSlot (s : State) (k : Nat) (im : Option FwImage) : State :=
  if k = 0 then { s with sec := { s.sec with slotA := im } } else { s with sec := { s.sec with slotB := im } }

/-- The slot that does not run. -/
def idleSlot (s : State) : Nat := 1 - s.idn.fwSlot % 2

/-- Status of a WRITE whose bytes arrived: a failed check of R392, or an SVN below the fused one. -/
def writeStatus (s : State) (im : FwImage) : Nat :=
  if imageOk s im then 0
  else if imageOk s { im with svn := Nat.max im.svn s.sec.svn } then 0x0007 else 0x0005

/-- FIRMWARE_UPDATE, ACTION 0: the idle slot is erased, programmed and verified. -/
def doFirmwareUpdateWrite (h : CmdHdr) (length : Nat) (img : Option FwImage) (s : State) : State :=
  deferred h 0x0C .pf 32 0 (fun s =>
    if 30 * 2 ^ 20 < length then respond s h 0x0C 3 []
    else
      let a := accept s h 0x0C 0xFF 0 true
      let s1 := setSlot { a.1 with sec := { a.1.sec with wrote := false } } (idleSlot s) img
      match img with
      | none => finishReq s1 h.func a.2 0x000D []
      | some im =>
        match writeStatus s im with
        | 0 => finishReq { s1 with sec := { s1.sec with wrote := true } } h.func a.2 csSuccess (leBytes im.fwId 8)
        | st => finishReq s1 h.func a.2 st []) s
/-- FIRMWARE_UPDATE_WRITE. -/
def execFirmwareUpdateWrite (h : CmdHdr) (length : Nat) (img : Option FwImage) (s : State) : Out :=
  doorbell h 0x0C (.firmwareUpdateWrite h length img) (doFirmwareUpdateWrite h length img) s

/-- FIRMWARE_UPDATE, ACTION 1. -/
def doFirmwareUpdatePrefer (h : CmdHdr) (s : State) : State :=
  deferred h 0x0C .pf 32 (if s.sec.wrote then 0 else 8) (fun s =>
    acceptDone (newSel s (idleSlot s) 3 false) h 0x0C 0xFF csSuccess []) s
/-- FIRMWARE_UPDATE_PREFER. -/
def execFirmwareUpdatePrefer (h : CmdHdr) (s : State) : Out :=
  doorbell h 0x0C (.firmwareUpdatePrefer h) (doFirmwareUpdatePrefer h) s

/-- Whether the running slot is CONFIRMED; with no record slot A is. -/
def runningConfirmed (s : State) : Bool :=
  match selInUse s with
  | none => s.idn.fwSlot == 0
  | some (_, x) => x.confirmed && x.preferred == s.idn.fwSlot

/-- FIRMWARE_UPDATE, ACTION 2: fuses only ever gain. -/
def doFirmwareUpdateAdvanceSvn (h : CmdHdr) (s : State) : State :=
  deferred h 0x0C .pf 32 (if runningConfirmed s then 0 else 8) (fun s =>
    let svn := (slotImage s s.idn.fwSlot).elim s.sec.svn fun im => Nat.max s.sec.svn im.svn
    acceptDone { s with sec := { s.sec with svn := svn } } h 0x0C 0xFF csSuccess []) s
/-- FIRMWARE_UPDATE_ADVANCE_SVN. -/
def execFirmwareUpdateAdvanceSvn (h : CmdHdr) (s : State) : Out :=
  doorbell h 0x0C (.firmwareUpdateAdvanceSvn h) (doFirmwareUpdateAdvanceSvn h) s

/-! ## DEBUG_UNLOCK (R399, R401, R402) -/

/-- What a phase came to: state, status, body, and whether a device reset follows the answer. -/
structure Unlocked where
  s : State
  status : Nat
  body : List Byte
  reset : Bool
deriving DecidableEq, Repr

/-- A device reset that leaves no clean-start record. -/
def debugReset (s : State) : State :=
  captureAndReset { s with rep := { s.rep with cleanStart := false } } .command

/-- DEBUG_UNLOCK from the mailbox; the IGX-2 layout cannot carry its block. -/
def doUnlock (h : CmdHdr) (serve : State → Unlocked) (s : State) : State :=
  immediate h 0x0D false .pf 256 (fun s =>
    if s.idn.compat then respond s h 0x0D 0x0017 []
    else
      let r := serve s
      let s1 := respond r.s h 0x0D r.status r.body
      if r.reset then debugReset s1 else s1) s

/-- The control firmware runs: the boot ROM has handed over and the heartbeat advances. -/
def fwUp (s : State) : Bool := s.sec.booted && powered s && fwAlive s && !s.sec.halted

/-- One phase from either path; the answer of the data register stands in `jtag`. -/
def unlockRow (src : UnlockSrc) (c : Instr) (serve : State → Unlocked) (s : State) : Out :=
  match src with
  | .mailbox h => doorbell h 0x0D c (doUnlock h serve) s
  | .jtag =>
    if !fwUp s then .next s
    else
      let r := serve s
      let s1 := { r.s with sec := { r.s.sec with
        jtag := if r.status ≠ 0 then .refused else if r.body = [] then .done else .data r.body } }
      .next (if r.reset then debugReset s1 else s1)

/-- PHASE 0: a nonce for 60 s. -/
def serveChallenge (s : State) : Unlocked :=
  let k := takeFree s
  let n := Config.nonce k.1
  ⟨{ k.2 with sec := { k.2.sec with challenge := some (n, s.now) } }, 0, leBytes n.toNat 48, false⟩

/-- DEBUG_UNLOCK_CHALLENGE. -/
def execDebugUnlockChallenge (src : UnlockSrc) (s : State) : Out := unlockRow src (.debugUnlockChallenge src) serveChallenge s

/-- Whether a token is good (R401). -/
def tokenOk (s : State) (t : Token) : Bool :=
  (if s.idn.lifecycle = 0 then t.keyIndex == 0 else decide (1 ≤ t.keyIndex) && decide (t.keyIndex ≤ 3)) &&
    t.pubkeyHash == s.sec.debugKeys.getD t.keyIndex 0 && t.serial == s.idn.serial &&
    (s.sec.challenge.any fun c => c.1 == t.nonce && decide (s.now ≤ c.2 + 60 * cyclesPerSec)) && t.sigOk

/-- Three failed tokens within an hour refuse every token for the next hour. -/
def failToken (s : State) : State :=
  let l := (s.sec.fails ++ [s.now]).filter fun t => decide (s.now ≤ t + 3600 * cyclesPerSec)
  { s with sec :=
    if 3 ≤ l.length then { s.sec with fails := [], blockedTo := s.now + 3600 * cyclesPerSec, challenge := none }
    else { s.sec with fails := l, challenge := none } }

/-- Presents a token; the nonce is spent whatever comes of it. -/
def withToken (s : State) (t : Token) (k : State → Unlocked) : Unlocked :=
  if s.now < s.sec.blockedTo then ⟨s, 7, [], false⟩
  else if tokenOk s t then k { s with sec := { s.sec with challenge := none } }
  else ⟨failToken s, 7, [], false⟩

/-- A refusal with a status. -/
def noUnlock (s : State) (st : Nat) : Unlocked := ⟨s, st, [], false⟩

/-- The steps of R402 for FULL: every die zeroised, KW recomputed, the key pairs unwrapped again. -/
def goFull (s : State) : State :=
  let s1 := (List.range 4).foldl zeroizeDie s
  let s2 := unwrapNs { s1 with sec := { s1.sec with kw := kwOf s1.idn.lifecycle 2 } }
  { s2 with idn := { s2.idn with debugLevel := 2 } }

/-- PHASE 1. -/
def serveRaise (target : Nat) (t : Token) (s : State) : Unlocked :=
  if target ≤ s.idn.debugLevel ∨ 2 < target then noUnlock s 3
  else if target = 2 ∧ s.regions ≠ [] then noUnlock s 8
  else withToken s t fun s => ⟨if target = 2 then goFull s else { s with idn := { s.idn with debugLevel := 1 } }, 0, [], false⟩

/-- DEBUG_UNLOCK_RAISE. -/
def execDebugUnlockRaise (src : UnlockSrc) (target : Nat) (t : Token) (s : State) : Out :=
  unlockRow src (.debugUnlockRaise src target t) (serveRaise target t) s

/-- PHASE 2: from OBSERVE at once, from FULL by a device reset. -/
def serveLower (target : Nat) (s : State) : Unlocked :=
  if s.idn.debugLevel ≤ target then noUnlock s 3
  else if s.idn.debugLevel = 2 then ⟨s, 0, [], true⟩
  else ⟨{ s with idn := { s.idn with debugLevel := 0 } }, 0, [], false⟩

/-- DEBUG_UNLOCK_LOWER. -/
def execDebugUnlockLower (src : UnlockSrc) (target : Nat) (s : State) : Out :=
  unlockRow src (.debugUnlockLower src target) (serveLower target) s

/-- PHASE 3: DEVELOP to FIELD or RETURN, FIELD to RETURN. -/
def serveLifecycle (target : Nat) (t : Token) (s : State) : Unlocked :=
  if target ≤ s.idn.lifecycle ∨ 2 < target then noUnlock s 3
  else if s.regions ≠ [] then noUnlock s 8
  else withToken s t fun s => ⟨{ s with idn := { s.idn with lifecycle := target } }, 0, [], true⟩

/-- DEBUG_UNLOCK_LIFECYCLE. -/
def execDebugUnlockLifecycle (src : UnlockSrc) (target : Nat) (t : Token) (s : State) : Out :=
  unlockRow src (.debugUnlockLifecycle src target t) (serveLifecycle target t) s

/-! ## SPDM over the PF's DOE mailbox (R398, Table 15.4) -/

/-- A request reaches the responder while the control firmware runs; it wakes P2.  `need` is the least stage of the exchange: 1 after
GET_VERSION, 2 after GET_CAPABILITIES, 3 after NEGOTIATE_ALGORITHMS; an earlier one is an unexpected request. -/
def spdmRow (need next : Nat) (answer : State → SpdmResp) (s : State) : Out :=
  if !fwUp s then .next s
  else
    let s1 := wake s
    if s1.sec.spdmState < need then .next { s1 with sec := { s1.sec with spdm := some (.error 0x04) } }
    else
      let r := answer s1
      let ok := match r with
        | .error _ => false
        | _ => true
      .next { s1 with sec := { s1.sec with spdm := some r, spdmState := if ok && next != 0 then next else s1.sec.spdmState } }

/-- SPDM_GET_VERSION: starts the exchange anew. -/
def execSpdmGetVersion (s : State) : Out := spdmRow 0 1 (fun _ => .version) s

/-- SPDM_GET_CAPABILITIES. -/
def execSpdmGetCapabilities (s : State) : Out := spdmRow 1 2 (fun _ => .capabilities) s

/-- SPDM_NEGOTIATE_ALGORITHMS: ECDSA P-384 and SHA-384 only. -/
def execSpdmNegotiateAlgorithms (ecdsaP384 sha384 : Bool) (s : State) : Out :=
  spdmRow 2 3 (fun _ => if ecdsaP384 && sha384 then .algorithms else .error 0x01) s

/-- SPDM_GET_DIGESTS: slot 0. -/
def execSpdmGetDigests (s : State) : Out := spdmRow 3 0 (fun _ => .digests 1) s

/-- A portion of slot 0's chain. -/
def chainPortion (s : State) (slot offset length : Nat) : SpdmResp :=
  let n := (Config.chainLength s.sec.aliasNo).toNat
  if slot ≠ 0 ∨ n ≤ offset then .error 0x01
  else
    let p := Nat.min length (n - offset)
    .certificate p (n - offset - p)

/-- SPDM_GET_CERTIFICATE. -/
def execSpdmGetCertificate (slot offset length : Nat) (s : State) : Out :=
  spdmRow 3 0 (fun s => chainPortion s slot offset length) s

/-- An answer that is signed with the Alias key: an error while the key engine does not hold it. -/
def signed (s : State) (r : SpdmResp) : SpdmResp := if s.sec.aliasHeld then r else .error 0x05

/-- SPDM_CHALLENGE. -/
def execSpdmChallenge (slot : Nat) (nonce : BitVec 256) (s : State) : Out :=
  spdmRow 3 0 (fun s => if slot ≠ 0 then .error 0x01 else signed s (.challenge nonce s.sec.aliasNo)) s

/-- IMAGE_ID and DIGEST of the image loaded in a region, zero when none. -/
def regionMeasure (s : State) (r : Nat) : List Byte :=
  match (regionOf s r).bind (·.image) with
  | some im => leBytes im.imageId 8 ++ leBytes im.digest.toNat 48
  | none => zeros 56

/-- A measurement block of Table 15.4. -/
def measureOf (s : State) (i : Nat) : Option (Nat × List Byte) :=
  let im := slotImage s s.idn.fwSlot
  let head := im.elim [] fun x => [x.format, x.keyIndex, x.svn, x.fwId]
  match i with
  | 1 => some (1, leBytes Config.bootRomDigest.toNat 48)
  | 2 => some (2, leBytes (Config.headerDigest head).toNat 48)
  | 3 => some (3, leBytes (im.elim 0 fun x => x.tileSetDigest.toNat) 48)
  | 4 => some (4, leBytes s.idn.lifecycle 1 ++ leBytes s.idn.debugLevel 1 ++ leBytes s.sec.svn 1 ++ leBytes s.idn.fwSlot 1)
  | 5 => some (5, leBytes 0x6240 2 ++ leBytes 0xB1 1 ++ leBytes 0x01 1 ++ leBytes s.idn.serial 8)
  | _ => if 16 ≤ i ∧ i ≤ 31 then some (i, regionMeasure s (i - 16)) else none

/-- Indices that exist. -/
def measureIdx : List Nat := [1, 2, 3, 4, 5] ++ (List.range 16).map (· + 16)

/-- SPDM_GET_MEASUREMENTS: index 0 asks for their number, 0xFF for all. -/
def execSpdmGetMeasurements (index : Nat) (nonce : BitVec 256) (s : State) : Out :=
  spdmRow 3 0 (fun s =>
    if index = 0 then signed s (.measurements measureIdx.length [] nonce s.sec.aliasNo)
    else if index = 0xFF then signed s (.measurements measureIdx.length (measureIdx.filterMap (measureOf s)) nonce s.sec.aliasNo)
    else match measureOf s index with
      | some b => signed s (.measurements 1 [b] nonce s.sec.aliasNo)
      | none => .error 0x01) s

/-! ## PLDM over SMBus (R429) -/

/-- A sensor value: power in W, temperatures in °C, voltages in mV. -/
def pldmAnswer (s : State) : PldmReq → PldmResp
  | .packagePower => .value s.flt.powerW
  | .hottestSensor => .value s.flt.tempMax
  | .dieHottest die => .value (dyFloor (hottest ((s.pwr.temps.drop (16 * die)).take 16)) / 10)
  | .vddTile die => .value ((s.pwr.vdd[die]?).elim 0 fun f => dyFloor f.avg)
  | .fltState => .state s.flt.state
  | .throttle => .state (b2n s.flt.throttle)
  | .pollEvent => (s.recorder.board.head?).elim .noEvent .event
  | .unsupported => .unsupported

/-- PLDM_REQUEST: answered from READY on; an event that is handed over leaves the queue. -/
def execPldmRequest (req : PldmReq) (s : State) : Out :=
  needUnit (match req with
      | .dieHottest d => dieOk d
      | .vddTile d => dieOk d
      | _ => true)
    (if s.flt.state ≠ 5 then .next s
     else
       let s1 := { s with sec := { s.sec with pldm := some (pldmAnswer s req) } }
       .next (match req with
         | .pollEvent => { s1 with recorder := { s1.recorder with board := s1.recorder.board.drop 1 } }
         | _ => s1))

/-! ## The IEEE 1149.1 port (R400, R425, R431, Table 15.5) -/

/-- TRST_N_ASSERT: resets the controller only. -/
def execTrstNAssert (s : State) : Out := .next { s with sec := { s.sec with jtag := .none_ } }

/-- IDCODE: version 0x1, part 0x6240, the manufacturer code, bit 0 set. -/
def idcode : Nat := 0x1 * 2 ^ 28 + 0x6240 * 2 ^ 12 + Config.makerCode.toNat * 2 + 1

/-- Sets what the port last answered. -/
def jtagSays (s : State) (r : JtagResp) : State := { s with sec := { s.sec with jtag := r } }

/-- What an access does. -/
def jtagAct (s : State) : JtagAccess → State
  | .bypass => jtagSays s .bypass
  | .idcode => jtagSays s (.idcode idcode)
  | .samplePreload => jtagSays s .done
  | .extest => jtagSays s (if s.pwr.perstN then .bypass else .done)
  | .clamp => jtagSays s (if s.pwr.perstN then .bypass else .done)
  | .readCounters =>
    if s.idn.debugLevel = 0 then jtagSays s .refused else let k := takeFree s; jtagSays k.2 (.data (Config.debugExport k.1))
  | .mcTrace =>
    if s.idn.debugLevel = 0 then jtagSays s .refused else let k := takeFree s; jtagSays k.2 (.data (Config.debugExport k.1))
  | .readState =>
    if s.idn.debugLevel = 0 then jtagSays s .refused else let k := takeFree s; jtagSays k.2 (.data (Config.debugExport k.1))
  | .mcHalt =>
    if s.idn.debugLevel < 2 then jtagSays s .refused else jtagSays { s with sec := { s.sec with halted := true } } .done
  | .mcStep => jtagSays s (if s.idn.debugLevel < 2 then .refused else .done)
  | .writeState lt obj val =>
    if s.idn.debugLevel < 2 then jtagSays s .refused
    else jtagSays (updTile s lt fun t => objSet t s.now (obj % 256) (val % 2 ^ 32) false) .done
  | .readMem lt addr =>
    jtagSays s (if s.idn.debugLevel < 2 then .refused else .data (spadRead (tileOf s lt).spad addr 64))
  | .writeMem lt addr data =>
    if s.idn.debugLevel < 2 then jtagSays s .refused
    else jtagSays (updTile s lt fun t => { t with spad := spadWrite t.spad addr data }) .done
  | .scan die =>
    if s.idn.debugLevel = 2 && s.rep.zeroized.contains die then let k := takeFree s; jtagSays k.2 (.data (Config.debugExport k.1))
    else jtagSays s .refused

/-- Whether an access names a unit of the package, and bytes inside a scratchpad. -/
def jtagUnit : JtagAccess → Bool
  | .writeState lt _ _ => ltOk lt
  | .readMem lt addr => ltOk lt && decide (addr + 64 ≤ spadEnd)
  | .writeMem lt addr data => ltOk lt && decide (addr + data.length ≤ spadEnd)
  | .scan die => dieOk die
  | _ => true

/-- BOUNDARY_SCAN_ACCESS. -/
def execBoundaryScanAccess (a : JtagAccess) (s : State) : Out :=
  needUnit (jtagUnit a) (if s.pwr.off then .next s else .next (jtagAct s a))

end Sys2Proof.Machine
end

