-- ==== Sys2Proof/Machine/SequenceCommands.lean ====
section
/-! DEFINITION. Mailbox commands on sequences, progress and Silt, EVENT_FETCH, and the completion of requests (R138, R140, R286, R287,
R300, R309, R310, R321, R327, Tables 11.16 and 11.17). -/

namespace Sys2Proof.Machine

/-! ## Sequences -/

/-- What refuses an admission at once: a region without an image (Table 11.14, STATE).  The checks of R138 follow at the boundary. -/
def admitState (_ : State) (g : Region) : Nat := if g.image.isNone then 8 else 0

/-- ADMIT_SEQUENCE (R138): the prompt is read when the command is accepted; the checks run at the boundary. -/
def doAdmitSequence (h : CmdHdr) (b : AdmitBlock) (s : State) : State :=
  regionCmd h 0x20 .owner 128 admitState (fun s _ =>
    let wants := b.promptTokens != 0 || b.prefixKeys != 0
    match wants, b.prompt with
    | true, none => respond s h 0x20 0x000D []
    | _, p =>
      let d := p.getD ([], [])
      let a := accept s h 0x20 h.region 0 false
      addAct a.1 h.region (.admitSeq b (d.1.take b.promptTokens) (d.2.take b.prefixKeys)) (some (h.func, a.2))) s
def execAdmitSequence (h : CmdHdr) (b : AdmitBlock) (s : State) : Out :=
  doorbell h 0x20 (.admitSequence h b) (doAdmitSequence h b) s

/-- RELEASE_SEQUENCE (R140). -/
def doReleaseSequence (h : CmdHdr) (seqKey : Nat) (s : State) : State :=
  regionCmd h 0x21 .owner 8 noState (fun s _ =>
    let a := accept s h 0x21 h.region 0 false
    addAct a.1 h.region (.release seqKey) (some (h.func, a.2))) s
def execReleaseSequence (h : CmdHdr) (seqKey : Nat) (s : State) : Out :=
  doorbell h 0x21 (.releaseSequence h seqKey) (doReleaseSequence h seqKey) s

/-! ## QUERY_PROGRESS (R321, Table 11.17) -/

def regionRecord (s : State) (r : Nat) (g : Region) : List Byte :=
  let act := (g.ctxIds.filter fun c => (ctxOf s c).state == 2).length
  padTo (leBytes r 1 ++ leBytes (rstateCode g.rstate) 1 ++ leBytes g.attempt 1 ++ zeros 5 ++ leBytes g.step 8 ++ leBytes (lastStep g) 8 ++
    leBytes act 2) 32

def seqRecord (s : State) (id : Nat) : List Byte :=
  let c := ctxOf s id
  padTo (leBytes c.seqKey 8 ++ leBytes c.committedStep 8 ++ leBytes c.position 4 ++ leBytes c.tokensOut 4 ++
    leBytes (Nat.min c.undelivered 0xFFFF) 2 ++ leBytes id 2 ++ leBytes c.state 1 ++ leBytes c.stopReason 1) 32

def reqRecord (q : Req) : List Byte :=
  padTo (leBytes q.id 8 ++ leBytes q.opcode 2 ++ leBytes q.tag 2 ++ leBytes q.status 2 ++ leBytes q.partMap 2 ++ leBytes q.partsMinus1 1 ++
    leBytes q.region 1) 32

/-- Contexts that a SEQUENCES query names: those of its keys, or every one that holds a sequence. -/
def queriedCtxs (s : State) (g : Region) (keys : List Nat) : List Nat :=
  (g.ctxIds.filter fun c => (ctxOf s c).state != 0 && (keys == [] || keys.contains (ctxOf s c).seqKey)).foldl (fun l c => setIns c l) []

/-- Sequence records that a response body holds: 30, or 14 in the IGX-2 layout. -/
def bodyRecords (s : State) : Nat := if s.idn.compat then 14 else 30

/-- QUERY_PROGRESS_SEQUENCES. -/
def doQueryProgressSequences (h : CmdHdr) (keys : List Nat) (hostAddr : Nat) (hostOk : Bool) (s : State) : State :=
  immediate h 0x22 true .ownerPf (32 + 8 * keys.length) (fun s => onOwn s h 0x22 fun g =>
    let rr := regionRecord s h.region g
    let recs := (queriedCtxs s g keys).map (seqRecord s)
    if 122 < keys.length then respond s h 0x22 3 []
    else if hostAddr = 0 then respond s h 0x22 0 (rr ++ (recs.take (bodyRecords s)).flatten)
    else if !hostOk then respond s h 0x22 0x000D []
    else respond (toHost s h.func hostAddr (rr ++ recs.flatten)) h 0x22 0 rr) s
def execQueryProgressSequences (h : CmdHdr) (keys : List Nat) (hostAddr : Nat) (hostOk : Bool) (s : State) : Out :=
  doorbell h 0x22 (.queryProgressSequences h keys hostAddr hostOk) (doQueryProgressSequences h keys hostAddr hostOk) s

/-- The record of a request of a function: ACCEPTED while its outcome is not written out. -/
def findReq (v : Fn) (id : Nat) : Option Req :=
  match v.requests.find? fun q => q.id == id with
  | some q => some { q with status := 1 }
  | none => v.reqLog.find? fun q => q.id == id

/-- QUERY_PROGRESS_REQUEST. -/
def doQueryProgressRequest (h : CmdHdr) (reqId : Nat) (s : State) : State :=
  immediate h 0x22 true .any 32 (fun s =>
    match findReq (fnOf s h.func) reqId with
    | some q => respond s h 0x22 0 (reqRecord q)
    | none => respond s h 0x22 3 []) s
def execQueryProgressRequest (h : CmdHdr) (reqId : Nat) (s : State) : Out :=
  doorbell h 0x22 (.queryProgressRequest h reqId) (doQueryProgressRequest h reqId) s

/-- The last bundle of a region, when the region has been reset since it was taken. -/
def bundleSince (s : State) (r : Nat) : Option Bundle :=
  match (s.bundles.filter fun b => b.region == r && b.committed).getLast?, (rfOf s r).lastReset with
  | some b, some t => if b.at_ ≤ t then some b else none
  | _, _ => none

/-- The scheduler state that a TILE query reports: live, or as the bundle holds it, with the step. -/
def tileProgress (s : State) (r lt : Nat) : List (Nat × Queue) × List Fired × Nat × Nat :=
  let live := ((tileOf s lt).queues, (tileOf s lt).fired, 0, stepOf s r)
  match bundleSince s r with
  | none => live
  | some b =>
    match s.scans.find? fun x => x.lt == lt && meets (x.addr, x.len) (b.base, slotBytes) with
    | some x => (x.queues, x.fired, 1, b.step)
    | none => live

/-- The TILE record: the header, 16 descriptor-queue records, and 16 of unretired DMA descriptors. -/
def tileRecord (s : State) (r lt : Nat) : List Byte :=
  let p := tileProgress s r lt
  let qs := (((tileOf s lt).qcfg.filter fun e => isDescQueue e.2).map (·.1)).take 16
  let qrec := fun (q : Nat) =>
    let x := (p.1.find? fun e => e.1 == q).map (·.2)
    leBytes q 1 ++ leBytes (b2n (x.any (·.closed))) 1 ++ leBytes ((x.bind (·.lastRetired)).getD 0xFFFF) 2
  let dma := (p.2.1.filter fun f => dClass f.desc == 2).take 16
  let drec := fun (f : Fired) =>
    leBytes f.q 1 ++ leBytes (f.parts - 1) 1 ++ leBytes f.idx 2 ++ leBytes (partMapOf f.parts f.partFail (f.openParts.map (·.1))) 2 ++ zeros 2
  leBytes lt 2 ++ leBytes r 1 ++ leBytes p.2.2.1 1 ++ zeros 4 ++ leBytes p.2.2.2 8 ++ padTo (qs.flatMap qrec) 64 ++ padTo (dma.flatMap drec) 128

/-- QUERY_PROGRESS_TILE. -/
def doQueryProgressTile (h : CmdHdr) (lt : Nat) (s : State) : State :=
  immediate h 0x22 true .ownerPf 32 (fun s => onOwn s h 0x22 fun g =>
    if inRect g lt && ltOk lt then respond s h 0x22 0 (tileRecord s h.region lt) else respond s h 0x22 3 []) s
def execQueryProgressTile (h : CmdHdr) (lt : Nat) (s : State) : Out :=
  doorbell h 0x22 (.queryProgressTile h lt) (doQueryProgressTile h lt) s

/-! ## Silt (R286, R287, R300) -/

/-- Blocks and spare blocks of a namespace of so many units: the spare is 7 % of the blocks. -/
def nsBlocks (s : State) (units : Nat) : Nat × Nat :=
  let b := ceilDiv units s.silt.pagesPerBlock
  (b, ceilDiv (b * 7) 100)

/-- Units of a zone that no namespace holds, with their spare. -/
def zoneFree (s : State) (pslc : Bool) : Nat :=
  let held := (s.silt.nss.filter fun n => n.2.pslc == pslc).map fun n => n.2.capacity + n.2.spare * s.silt.pagesPerBlock
  (Config.siltUnits pslc).toNat - held.foldl (· + ·) 0

/-- Whether a function may open a namespace for an owner; a number that names none is left to the check of the block. -/
def mayOwn (s : State) (h : CmdHdr) (owner : Nat) : Bool :=
  if owner = 16 then h.func == 0
  else if 16 < owner then true
  else (regionOf s owner).any fun g => g.owner == h.func || (h.func == 0 && h.admin)

/-- The shortfall of a SILT_OPEN: no handle or quota of namespaces, no room or quota of capacity. -/
def siltShort (s : State) (f : Nat) (b : SiltOpenBlock) : Option Shortfall :=
  let u := useOf s f
  let q := (fnOf s f).quota
  let need := b.units + (nsBlocks s b.units).2 * s.silt.pagesPerBlock
  if 64 ≤ s.silt.nss.length then some ⟨0x13, 0x3FF, 0xFFFF, 1, 0, 0⟩
  else if f ≠ 0 ∧ q.namespaces < u.namespaces + 1 then some ⟨0x13, 0x3FF, 0xFFFF, u.namespaces + 1, q.namespaces, 0⟩
  else if f ≠ 0 ∧ q.siltGib < u.siltGib + ceilDiv b.units 65536 then
    some ⟨0x0A, 0x3FF, 0xFFFF, u.siltGib + ceilDiv b.units 65536, q.siltGib, 0⟩
  else if zoneFree s (b.zone == 1) < need then some ⟨0x0A, 0x3FF, 0xFFFF, need, zoneFree s (b.zone == 1), 0⟩
  else none

/-- SILT_OPEN: the namespace takes the lowest free handle, and its key pair is stored under KW (R396). -/
def doSiltOpen (h : CmdHdr) (b : SiltOpenBlock) (s : State) : State :=
  deferredBy h 0x30 (mayOwn s h b.owner) 32 (fun s =>
    if 1 < b.zone ∨ 16 < b.owner ∨ b.units = 0 then respond s h 0x30 3 []
    else match siltShort s h.func b with
      | some x => shortfall s h 0x30 x
      | none =>
        let k := ((List.range 64).find? fun k => !s.silt.nss.any fun n => n.1 == k).getD 0
        let bl := nsBlocks s b.units
        let n := { nsReset with
          opened := true, pslc := b.zone == 1, owner := b.owner, persist := b.persist, capacity := b.units, keyed := true
          endurance := b.endurance, blocks := bl.1 + bl.2, spare := bl.2, wrap := s.sec.kw }
        acceptDone (updSilt s fun x => { x with nss := sins k n x.nss }) h 0x30 b.owner csSuccess (leBytes k 1)) s
def execSiltOpen (h : CmdHdr) (b : SiltOpenBlock) (s : State) : Out := doorbell h 0x30 (.siltOpen h b) (doSiltOpen h b) s

/-- Whether a function may reach a namespace: of a region of its own, any for the PF with ADMIN, and those of the PF itself. -/
def mayReachNs (s : State) (h : CmdHdr) (n : SNs) : Bool :=
  (h.func == 0 && (h.admin || n.owner == 16)) || (decide (n.owner < 16) && (regionOf s n.owner).any fun g => g.owner == h.func)

/-- The namespace of a handle, a sealed one included. -/
def nsHeld (s : State) (k : Nat) : Option SNs := (s.silt.nss.find? fun n => n.1 == k).map (·.2)

/-- SILT_DESTROY: the key slot is cleared before the blocks are erased. -/
def doSiltDestroy (h : CmdHdr) (handle : Nat) (s : State) : State :=
  deferredBy h 0x31 ((nsHeld s handle).all (mayReachNs s h)) 4 (fun s =>
    match nsHeld s handle with
    | none => respond s h 0x31 3 []
    | some n => acceptDone (destroyNs s handle) h 0x31 n.owner csSuccess []) s
def execSiltDestroy (h : CmdHdr) (handle : Nat) (s : State) : Out := doorbell h 0x31 (.siltDestroy h handle) (doSiltDestroy h handle) s

/-- SLT_NS_STATUS (Table 10.13). -/
def nsStatusWord (n : SNs) : Nat :=
  b2n n.opened * 2 ^ 31 + b2n n.readonly * 2 ^ 30 + n.stage % 4 * 2 ^ 28 + b2n n.pslc * 2 ^ 27 + n.owner % 64 * 2 ^ 21 +
    sparePct n % 128 * 2 ^ 14

/-- The counters of a namespace, in the order of Table 10.14. -/
def nsCounterBytes (s : State) (n : SNs) : List Byte :=
  (n.ladderHist.flatMap fun x => leBytes x 4) ++ (n.marginHist.flatMap fun x => leBytes x 4) ++ leBytes n.ue 4 ++
    leBytes (eraseMean s.silt n) 4 ++ leBytes (s.silt.tprogMean.getD (b2n n.pslc) 0) 4 ++ leBytes (s.silt.tprogBase.getD (b2n n.pslc) 0) 4 ++
    leBytes n.retired 4 ++ leBytes (sparePct n) 1 ++ leBytes n.relocated 6 ++ leBytes n.txnCommit 6 ++ leBytes n.txnAbort 6

/-- SILT_STATUS. -/
def doSiltStatus (h : CmdHdr) (handle : Nat) (s : State) : State :=
  checked s h 0x32 (firstFailure s h false true .any 4 0 false ((nsHeld s handle).all (mayReachNs s h))) fun s =>
    match nsHeld s handle with
    | none => respond s h 0x32 3 []
    | some n => respond s h 0x32 0 (leBytes (nsStatusWord n) 4 ++ nsCounterBytes s n)
def execSiltStatus (h : CmdHdr) (handle : Nat) (s : State) : Out := doorbell h 0x32 (.siltStatus h handle) (doSiltStatus h handle) s

/-! ## EVENT_FETCH (R327, Table 11.22) -/

/-- The next entry that waits for a function in the IGX-2 layout: the backlog, then tokens, then alarms. -/
def nextEntry (s : State) (f : Nat) : Option (State × List Byte) :=
  let v := fnOf s f
  match v.backlog with
  | e :: rest => some (setFn s f { v with backlog := rest }, e)
  | [] =>
    let tok := (ownedRegions s f).findSome? fun r => (regionOf s r).bind fun g =>
      if !isShadow s r then (undeliveredOf g).head?.map fun x => (r, x) else none
    match tok with
    | some (r, x) => some (markDelivered s r x.1 x.2.ctx x.2.tokens.length, tokensEntry r x.1 x.2)
    | none =>
      match v.alarms with
      | a :: rest => some (setFn s f { v with alarms := rest }, eventEntry a)
      | [] => none

/-- Up to `n` entries. -/
def fetchEntries (f : Nat) : Nat → State → State × List Byte
  | 0, s => (s, [])
  | n + 1, s =>
    match nextEntry s f with
    | none => (s, [])
    | some (t, e) =>
      let r := fetchEntries f n t
      (r.1, padTo e 64 ++ r.2)

/-- EVENT_FETCH, an opcode of the IGX-2 layout only. -/
def doEventFetch (h : CmdHdr) (s : State) : State :=
  checked s h 0xFF (firstFailure s h false s.idn.compat .any 0 0 false) fun s =>
    let r := fetchEntries h.func 7 s
    respond r.1 h 0xFF 0 r.2
def execEventFetch (h : CmdHdr) (s : State) : Out := doorbell h 0xFF (.eventFetch h) (doEventFetch h) s

/-! ## REQUEST_COMPLETION (R309, R310) -/

/-- A CAPTURE that waited for a boundary is taken once its region stands at one. -/
def captureWaiting (s : State) (f : Nat) (q : Req) : State :=
  if q.opcode == 0x19 && !q.finished && (regionOf s q.region).any atBoundary then captureFor s f q.id q.region else s

/-- REQUEST_COMPLETION: a request that has reached its outcome is written out. -/
def execRequestCompletion (func reqId : Nat) (s : State) : Out :=
  needUnit (funcOk func)
    (.next (match (fnOf s func).requests.find? fun q => q.id == reqId with
      | none => s
      | some q =>
        let s1 := captureWaiting s func q
        match (fnOf s1 func).requests.find? fun q => q.id == reqId && q.finished with
        | some q1 => publishReq s1 func q1
        | none => s1))

end Sys2Proof.Machine
end

