-- ==== Sys2Proof/Machine/Registers.lean ====
section
/-! DEFINITION. Host writes to the registers of BAR0, the event ring's registers, interrupts, bus mastering, and two registers with
effects of their own (R214, R302, R303, R305, R306, R310, R313, R315, R327, R404, Tables 11.2 to 11.6, 11.10, 11.13, 11.22). -/

namespace Sys2Proof.Machine

/-! ## What waits for a function (R310, R311) -/

/-- Lets what is held for a function's ring go there: the backlog, then alarms, then the tokens of its regions. -/
def drainHeld (s : State) (f : Nat) : State :=
  let s1 := feedRing ((fnOf s f).backlog.length + (fnOf s f).alarms.length) s f
  (ownedRegions s1 f).foldl deliverTokens s1

/-- Whether a vector may be sent: its table entry is not masked and the function may master the bus. -/
def vectorOpen (v : Fn) (vec : Nat) : Bool := v.bme && !v.d3 && (memRd v.msix (16 * vec + 12)).toNat % 2 == 0

/-- Sends the pending vectors that nothing masks any more. -/
def sendPending (s : State) (f : Nat) : State :=
  let v := fnOf s f
  let out := v.pba.filter (vectorOpen v)
  setFn { s with msis := s.msis ++ out.map fun k => (f, k) } f { v with pba := v.pba.filter fun k => !vectorOpen v k }

/-! ## The mailbox page -/

/-- Opcodes of Table 11.11; EVENT_FETCH belongs to the IGX-2 layout (Table 11.22). -/
def knownOpcode (compat : Bool) (op : Nat) : Bool :=
  (decide (1 ≤ op) && decide (op ≤ 0x0D)) || (decide (0x10 ≤ op) && decide (op ≤ 0x1A)) || (decide (0x20 ≤ op) && decide (op ≤ 0x22)) ||
    (decide (0x30 ≤ op) && decide (op ≤ 0x32)) || (compat && op == 0xFF)

/-- The header that stands in a function's command area. -/
def areaHdr (s : State) (f : Nat) : CmdHdr :=
  let b := memRdN (fnOf s f).cmd 0 8
  ⟨f, (fnOf s f).rungSeq, ofLe (sliceBytes b 2 2), ofLe (sliceBytes b 6 1), bitOf (ofLe (sliceBytes b 7 1)) 0, ofLe (sliceBytes b 4 2)⟩

/-- A byte of the parameter block that stands in a function's command area. -/
def areaParam (s : State) (f k : Nat) : Nat := ofLe (memRdN (fnOf s f).cmd ((if s.idn.compat then 8 else 16) + k) 1)

/-- Whether the ACTION, PHASE or form of the parameter block names no row of the table (R317), with the issuer of the opcode and
whether a disabled function may use it. -/
def badForm (s : State) (f : Nat) : Option (Issuer × Bool) :=
  let b := areaParam s f
  match areaOpcode (fnOf s f) with
  | 0x05 => if 1 < b 1 then some (.pf, false) else none
  | 0x0A => if 4 < b 2 then some (.pf, false) else none
  | 0x0C => if 2 < b 12 then some (.pf, false) else none
  | 0x0D => if 3 < b 0 then some (.pf, false) else none
  | 0x22 => if 2 < b 0 then some (.ownerPf, true) else none
  | _ => none

/-- Answers a locked command that is no row of the table: its opcode is none, or its block is of no form.  The checks of R308 come
first. -/
def answerUnknown (s : State) (f : Nat) : State :=
  let v := fnOf s f
  let h := areaHdr s f
  if v.busy && v.ready && v.locked.isNone then
    if !knownOpcode s.idn.compat (areaOpcode v) then respond s h (areaOpcode v) (if v.disabled then 0x0009 else 0x0002) []
    else match badForm s f with
      | some w => respond s h (areaOpcode v) ((firstFailure s h w.2 true w.1 h.paramLen 0 false).getD 0x0003) []
      | none => s
  else s

/-- RING written: BUSY is set and DONE cleared, or the write is ignored while BUSY. -/
def ringDoorbell (s : State) (f seq : Nat) : State :=
  let v := fnOf s f
  if v.busy then setFn s f { v with overrun := true, w1c := noteSet v.w1c 27 s.now }
  else answerUnknown (wake (setFn s f { v with busy := true, done := false, rungSeq := seq % 2 ^ 16, rungNow := s.now })) f

/-- MBX_STATUS: the W1C bits at their places in the layout (R11). -/
def writeStatus1c (compat : Bool) (now : Nat) (v : Fn) (w : Nat) : Fn :=
  let b := fun (bit : Nat) (cur : Bool) (at_ : Nat) => w1cBit v.w1c now bit cur (bitOf w at_)
  if compat then { v with done := b 29 v.done 1, overrun := b 27 v.overrun 4 }
  else { v with
    done := b 29 v.done 29, overrun := b 27 v.overrun 27, lockWr := b 26 v.lockWr 26, hostLate := b 25 v.hostLate 25 }

/-- MBX_HOST_BEAT: only a change counts as a beat (R316). -/
def writeBeat (s : State) (v : Fn) (w : Nat) : Fn :=
  if v.hostBeat = w then v else { v with hostBeat := w, beatAt := s.now }

/-- MBX_EVQ_BASE, a half or the whole of it; ignored while EN is 1. -/
def writeEvqBase (v : Fn) (lo n w : Nat) : Fn :=
  if v.evqEn then v else { v with evqBase := setFld v.evqBase lo n w / 4096 * 4096 }

/-- MBX_EVQ_CTL: SIZE_LOG2 is ignored while EN is 1; EN is set only with a size of 6 to 16, and then HEAD and TAIL become 0. -/
def writeEvqCtl (s : State) (f w : Nat) : State :=
  let v := fnOf s f
  let en := bitOf w 31
  if v.evqEn then setFn s f { v with evqVector := fld w 16 8, evqEn := en }
  else
    let size := fld w 0 5
    let v1 := { v with evqVector := fld w 16 8, evqSize := size }
    if en && decide (6 ≤ size) && decide (size ≤ 16) then drainHeld (setFn s f { v1 with evqEn := true, evqHead := 0, evqTail := 0 }) f
    else setFn s f v1

/-- MBX_EVQ_HEAD. -/
def writeEvqHead (s : State) (f w : Nat) : State := drainHeld (updFn s f fun v => { v with evqHead := w % 2 ^ 17 }) f

/-! ## Interrupt controls (Table 11.13) -/

/-- INT_MASK: a set cause whose mask is taken away raises its vector. -/
def writeMask (s : State) (f w : Nat) : State :=
  let v := fnOf s f
  let freed := (List.range 5).filter fun c => bitOf v.intMask c && !bitOf w c && bitOf v.intCause c
  freed.foldl (fun s c => raiseVector s f (causeVector s.idn.compat v c)) (setFn s f { v with intMask := w % 32 })

/-- A write to the interrupt controls. -/
def writeInt (s : State) (f off w : Nat) : State :=
  match off with
  | 0x0 => updFn s f fun v => { v with intCause :=
      ((List.range 5).filter fun c => w1cBit v.w1c s.now c (bitOf v.intCause c) (bitOf w c)).foldl (fun n c => n + 2 ^ c) 0 }
  | 0x4 => writeMask s f w
  | 0x8 => updFn s f fun v => { v with intVec := w % 2 ^ 24 }
  | 0xC => updFn s f fun v => { v with intMod := w % 2 ^ 32 }
  | _ => s

/-! ## The fault and status block (Table 11.10) -/

/-- FLT_DEV_RESET: GO with the key asks for a device reset at once. -/
def devResetGo (s : State) (key : Nat) : State :=
  if key ≠ resetKey ∨ !powered s then s
  else match s.pwr.resetPend with
    | some (_, due) =>
      if due ≤ s.now then s else { s with pwr := { s.pwr with resetPend := some (.fltDevReset, s.now) } }
    | none => { s with pwr := { s.pwr with resetPend := some (.fltDevReset, s.now) } }

/-- A write to the fault and status block by the PF. -/
def writeFlt (s : State) (off w : Nat) : State :=
  match off with
  | 0x0C => { s with flt := { s.flt with fatalValid := w1cBit s.flt.w1c s.now 31 s.flt.fatalValid (bitOf w 31) } }
  | 0x10 => { s with flt := { s.flt with
      powerFail := w1cBit s.flt.w1c s.now 9 s.flt.powerFail (bitOf w 9)
      emergency := w1cBit s.flt.w1c s.now 8 s.flt.emergency (bitOf w 8) } }
  | 0x18 => if bitOf w 0 then devResetGo s (fld w 16 16) else s
  | _ => s

/-! ## BAR0 (R303, Tables 11.2, 11.3, 11.22) -/

/-- Bytes of the command area. -/
def areaSize (compat : Bool) : Nat := if compat then 0x200 else 0x400

/-- First byte and size of a function's MSI-X table. -/
def msixBase (f : Nat) : Nat := if f = 0 then 0x8000 else 0x3800
def inMsix (f off : Nat) : Bool := decide (msixBase f ≤ off) && decide (off < msixBase f + 16 * vectorsOf f)

/-- Whether an offset lies in a range of Table 11.2. -/
def inBar (f off : Nat) : Bool :=
  decide (off < 0x1100) || (decide (0x2000 ≤ off) && decide (off < 0x2100)) || (decide (0x3000 ≤ off) && decide (off < 0x3100)) ||
    inMsix f off || (if f = 0 then decide (0x9000 ≤ off) && decide (off < 0x9020) else decide (0x3F00 ≤ off) && decide (off < 0x3F10))

/-- A 4-byte write to a register of the mailbox page, by layout. -/
def writeMbxPage (s : State) (f off w : Nat) : State :=
  if s.idn.compat then
    match off with
    | 0x400 => if bitOf w 0 then ringDoorbell s f 0 else s
    | 0x404 => updFn s f fun v => writeStatus1c true s.now v w
    | 0x408 => updFn s f fun v => writeBeat s v w
    | _ => s
  else
    match off with
    | 0x800 => updFn s f fun v => writeEvqBase v 0 32 w
    | 0x804 => updFn s f fun v => writeEvqBase v 32 32 w
    | 0x808 => writeEvqCtl s f w
    | 0x80C => writeEvqHead s f w
    | 0x840 => if bitOf w 31 then ringDoorbell s f (fld w 0 16) else s
    | 0x844 => updFn s f fun v => writeStatus1c false s.now v w
    | 0x848 => updFn s f fun v => writeBeat s v w
    | _ => s

/-- A write to the MSI-X table: pending vectors that it unmasks are sent. -/
def writeMsix (s : State) (f off : Nat) (data : List Byte) : State :=
  sendPending (updFn s f fun v => { v with msix := memWrL v.msix (off - msixBase f) data }) f

/-- A refused access is counted; the count saturates. -/
def badAccess (s : State) : State := { s with flt := { s.flt with badAccess := Nat.min (s.flt.badAccess + 1) (2 ^ 32 - 1) } }

/-- A write to the command area; while BUSY it is ignored. -/
def writeArea (s : State) (f off : Nat) (data : List Byte) : State :=
  updFn s f fun v => if v.busy then { v with lockWr := true, w1c := noteSet v.w1c 26 s.now } else putArea v off data

/-- An aligned write of 4 bytes. -/
def write4 (s : State) (f off w : Nat) : State :=
  if off < 0x1000 then writeMbxPage s f off w
  else if 0x2000 ≤ off ∧ off < 0x2100 then (if f = 0 then writeFlt s (off - 0x2000) w else s)
  else if 0x3000 ≤ off ∧ off < 0x3100 then writeInt s f (off - 0x3000) w
  else s

/-- A host write to BAR0 of a function. -/
def hostWrite (s : State) (f off : Nat) (data : List Byte) : State :=
  let n := data.length
  let w := ofLe data
  if !inBar f off then s
  else if off < areaSize s.idn.compat then
    if [4, 8, 16, 32, 64].contains n && off % n == 0 then writeArea s f off data else badAccess s
  else if inMsix f off then
    if (n = 4 ∨ n = 8) ∧ off % n = 0 then writeMsix s f off data else badAccess s
  else if n = 4 ∧ off % 4 = 0 then write4 s f off w
  else if n = 8 ∧ off = 0x800 ∧ s.idn.compat = false then updFn s f fun v => writeEvqBase v 0 64 w
  else if n = 8 ∧ off = 0x1010 then s
  else badAccess s

/-- MBX_EVQ_CTL_ENABLE: a write of MBX_EVQ_CTL; the IGX-2 layout has no ring. -/
def execMbxEvqCtlEnable (func : Nat) (value : BitVec 32) (s : State) : Out :=
  needUnit (funcOk func) (whenB (!s.idn.compat) s (writeEvqCtl s func value.toNat))

/-- MBX_EVQ_HEAD_WRITE. -/
def execMbxEvqHeadWrite (func head : Nat) (s : State) : Out :=
  needUnit (funcOk func) (whenB (!s.idn.compat) s (writeEvqHead s func head))

/-- EVQ_MODERATION_TIMER: INT_MOD.TIME_US after the first unsignalled entry. -/
def execEvqModerationTimer (func : Nat) (s : State) : Out :=
  needUnit (funcOk func)
    (let v := fnOf s func
     let due := v.unsigAt + fld v.intMod 0 16 * cyclesPerUs
     whenB (v.unsig != 0 && decide (due ≤ s.now)) s (raiseCause (setFn s func { v with unsig := 0 }) func causeEvq))

/-- FLT_DEV_RESET_GO. -/
def execFltDevResetGo (key : Nat) (s : State) : Out := .next (devResetGo s key)

/-- MSH_TEL_CTL_CLEAR: every counter of the router, its histograms too. -/
def execMshTelCtlClear (pos : Nat) (s : State) : Out :=
  needUnit (posOk pos) (.next (updRouter s pos (clearCounts s.now)))

/-! ## Bus mastering and D3hot (R310, R404) -/

/-- What follows when a function may master the bus again. -/
def busFree (s : State) (f : Nat) : State := drainHeld (sendPending s f) f

/-- BUS_MASTER_ENABLE_CHANGE; `vfs` is the number of VFs that the host's configuration writes have enabled by then, where they changed it
(log 94). -/
def execBusMasterEnableChange (func : Nat) (bme : Bool) (s : State) (vfs : Option Nat := none) : Out :=
  needUnit (funcOk func)
    (let s1 := updFn { s with idn := { s.idn with vfs := vfs.getD s.idn.vfs } } func fun v => { v with bme := bme }
     .next (if bme then busFree s1 func else s1))

/-- D3HOT_CHANGE: of the PF. -/
def execD3hotChange (enter : Bool) (s : State) : Out :=
  let s1 := updFn s 0 fun v => { v with d3 := enter }
  .next (if enter then s1 else busFree s1 0)

end Sys2Proof.Machine
end

