-- ==== Sys2Proof/Machine/RegisterReads.lean ====
section
/-! DEFINITION. What a host read of BAR0 returns, register by register: RO and W1C fields their value, RW fields what was last written, WO
and RSV fields 0 (R10, R11, R303, R312, R313, R315, Tables 0.5, 11.2 to 11.6, 11.9, 11.10, 11.13, 11.22). -/

namespace Sys2Proof.Machine

/-- IDN_PART.STEPPING: silicon stepping B1 (R10). -/
def stepping : Nat := 0xB1
/-- IDN_REV.IGX_LEVEL: interface level IGX-3 (R10). -/
def igxLevel : Nat := 3
/-- IDN_REV.ARITH_REV (R68). -/
def arithRev : Nat := 1
/-- IDN_REV.IMAGE_FORMAT. -/
def imageFormat : Nat := 2

/-- The identity block (Table 11.9), word by word. -/
def idnRead (s : State) (off : Nat) : Nat :=
  let i := s.idn
  match off with
  | 0x00 => 0x6240 * 2 ^ 16 + 0x43 * 2 ^ 8 + stepping
  | 0x04 => arithRev * 2 ^ 24 + imageFormat * 2 ^ 16 + igxLevel * 2 ^ 8 + b2n i.compat * 2 ^ 7
  | 0x08 => i.factoryRead % 64 * 2 ^ 26 + i.field % 64 * 2 ^ 20 + s.absent.length % 1024 * 2 ^ 10
  | 0x0C => b2n i.assigned * 2 ^ 31 + i.deviceId % 4096 * 2 ^ 16 + i.incarnation % 2 ^ 16
  | 0x10 => i.serial % 2 ^ 32
  | 0x14 => i.serial / 2 ^ 32 % 2 ^ 32
  | 0x18 => i.fwVersion % 2 ^ 32
  | 0x1C => i.lifecycle % 4 * 2 ^ 30 + i.debugLevel % 4 * 2 ^ 28 + i.fwSlot % 2 * 2 ^ 27
  | 0x20 => i.speed % 16 * 2 ^ 28 + i.width % 64 * 2 ^ 22 + i.vfs % 32 * 2 ^ 17
  | _ => 0

/-- The fault and status block (Table 11.10); a VF sees FLT_STATE and FLT_FW_BEAT only. -/
def fltRead (s : State) (f off : Nat) : Nat :=
  let x := s.flt
  match off with
  | 0x00 => x.state % 16 * 2 ^ 28 + x.startPath % 4 * 2 ^ 26 + x.bootError % 2 ^ 16
  | 0x04 => x.fwBeat % 2 ^ 32
  | 0x08 => if f = 0 then x.cause % 256 * 2 ^ 24 + x.count % 2 ^ 24 else 0
  | 0x0C => if f = 0 then b2n x.fatalValid * 2 ^ 31 + x.fatalCode % 2 ^ 16 else 0
  | 0x10 =>
    if f = 0 then
      x.tempMax % 256 * 2 ^ 24 + x.powerW % 4096 * 2 ^ 12 + b2n x.throttle * 2 ^ 11 + b2n x.capActive * 2 ^ 10 +
        b2n x.powerFail * 2 ^ 9 + b2n x.emergency * 2 ^ 8
    else 0
  | 0x1C => if f = 0 then x.badAccess else 0
  | _ => 0

/-- The interrupt controls (Table 11.13). -/
def intRead (v : Fn) (off : Nat) : Nat :=
  match off with
  | 0x0 => v.intCause % 32
  | 0x4 => v.intMask % 32
  | 0x8 => v.intVec % 2 ^ 24
  | 0xC => v.intMod % 2 ^ 32
  | _ => 0

/-- Whether a function's ring is full, bit [30] of MBX_EVQ_CTL. -/
def evqFull (v : Fn) : Bool := v.evqEn && ringUsed v == 2 ^ v.evqSize

/-- MBX_STATUS in the layout that is live. -/
def statusRead (compat : Bool) (v : Fn) : Nat :=
  if compat then b2n v.busy + b2n v.done * 2 + b2n v.ready * 4 + b2n v.disabled * 8 + b2n v.overrun * 16
  else b2n v.ready * 2 ^ 31 + b2n v.busy * 2 ^ 30 + b2n v.done * 2 ^ 29 + b2n v.disabled * 2 ^ 28 + b2n v.overrun * 2 ^ 27 +
    b2n v.lockWr * 2 ^ 26 + b2n v.hostLate * 2 ^ 25 + v.lastSeq % 2 ^ 16

/-- The registers of the mailbox page, by layout (Tables 11.3 to 11.6, 11.22). -/
def mbxRead (compat : Bool) (v : Fn) (off : Nat) : Nat :=
  if compat then
    match off with
    | 0x404 => statusRead true v
    | 0x408 => v.hostBeat % 2 ^ 32
    | _ => 0
  else
    match off with
    | 0x800 => v.evqBase % 2 ^ 32
    | 0x804 => v.evqBase / 2 ^ 32 % 2 ^ 32
    | 0x808 => b2n v.evqEn * 2 ^ 31 + b2n (evqFull v) * 2 ^ 30 + v.evqVector % 256 * 2 ^ 16 + v.evqSize % 32
    | 0x80C => v.evqHead % 2 ^ 17
    | 0x810 => v.evqTail % 2 ^ 17
    | 0x814 => Nat.min v.backlog.length 1024
    | 0x844 => statusRead false v
    | 0x848 => v.hostBeat % 2 ^ 32
    | _ => 0

/-- The pending-bit array: bit k for vector k. -/
def pbaRead (v : Fn) (off : Nat) : Nat :=
  ((List.range 32).filter fun k => v.pba.contains (8 * off + k)).foldl (fun n k => n + 2 ^ k) 0

/-- First byte of the pending-bit array. -/
def pbaBase (f : Nat) : Nat := if f = 0 then 0x9000 else 0x3F00

/-- The four bytes that a host read of an aligned word of BAR0 of a function returns; a byte outside the ranges of Table 11.2 reads 0. -/
def hostRead (s : State) (f off : Nat) : Nat :=
  let v := fnOf s f
  let a := areaSize s.idn.compat
  if !inBar f off then 0
  else if off < a then ofLe (memRdN v.cmd off 4)
  else if off < (if s.idn.compat then 0x400 else 0x800) then ofLe (padTo (sliceBytes v.resp (off - a) 4) 4)
  else if off < 0x1000 then mbxRead s.idn.compat v off
  else if off < 0x1100 then idnRead s (off - 0x1000)
  else if 0x2000 ≤ off ∧ off < 0x2100 then fltRead s f (off - 0x2000)
  else if 0x3000 ≤ off ∧ off < 0x3100 then intRead v (off - 0x3000)
  else if inMsix f off then ofLe (memRdN v.msix (off - msixBase f) 4)
  else pbaRead v (off - pbaBase f)

/-- Whether a read of 8 bytes meets a 64-bit register (Tables 11.6 and 11.9, and MSI-X). -/
def wideReg (s : State) (f off : Nat) : Bool :=
  (off == 0x800 && !s.idn.compat) || off == 0x1010 || inMsix f off || decide (pbaBase f ≤ off)

/-- A host read of `n` bytes (R303): what it returns, and the state after it.  A read that no register accepts returns 0 and is counted;
outside the listed ranges every byte reads 0. -/
def hostReadAt (s : State) (f off n : Nat) : State × Nat :=
  if !inBar f off then (s, 0)
  else if n = 4 ∧ off % 4 = 0 then (s, hostRead s f off)
  else if n = 8 ∧ off % 8 = 0 ∧ wideReg s f off = true then (s, hostRead s f off + hostRead s f (off + 4) * 2 ^ 32)
  else (badAccess s, 0)

/-- REGISTER_WRITE, which with no data writes nothing; `read` is the width in bytes of a host read of the same offset that follows it, 0 where
none does (log 9). -/
def execRegisterWrite (func offset : Nat) (data : List Byte) (s : State) (read : Nat := 0) : Out :=
  needUnit (funcOk func)
    (let s1 := if data = [] then s else hostWrite s func offset data
     .next (if read = 0 then s1 else (hostReadAt s1 func offset read).1))

end Sys2Proof.Machine
end

