-- ==== Sys2Proof/Machine/Ready.lean ====
section
/-! DEFINITION. Readiness: READY declared at the end of a start, a management core's restart done, and the commands that waited
locked for READY (R254, R303, R349, R393, R397). -/

namespace Sys2Proof.Machine

/-- What handles a mailbox command (Table 11.11); other commands have no mailbox part. -/
def handlerOf : Instr → State → State
  | .nop h => doNop h
  | .identify h => doIdentify h
  | .functionConfig h beatMs beatStop disableMs => doFunctionConfig h beatMs beatStop disableMs
  | .vfQuota h b => doVfQuota h b
  | .functionDisable h f => doFunctionDisable h f
  | .functionEnable h f => doFunctionEnable h f
  | .deviceReset h key => doDeviceReset h key
  | .systemSet h key dev => doSystemSet h key dev
  | .domainsSet h b => doDomainsSet h b
  | .fabricRoutes h entries => doFabricRoutes h entries
  | .linkStateRead h mask => doLinkStateRead h mask
  | .linkStateEnable h mask => doLinkStateEnable h mask
  | .linkStateDisable h mask => doLinkStateDisable h mask
  | .linkStateRetrain h mask => doLinkStateRetrain h mask
  | .linkStateWriteCtl h mask ctl => doLinkStateWriteCtl h mask ctl
  | .telemetry h what hostAddr hostOk => doTelemetry h what hostAddr hostOk
  | .firmwareUpdateWrite h length img => doFirmwareUpdateWrite h length img
  | .firmwareUpdatePrefer h => doFirmwareUpdatePrefer h
  | .firmwareUpdateAdvanceSvn h => doFirmwareUpdateAdvanceSvn h
  | .debugUnlockChallenge (.mailbox h) => doUnlock h serveChallenge
  | .debugUnlockRaise (.mailbox h) target t => doUnlock h (serveRaise target t)
  | .debugUnlockLower (.mailbox h) target => doUnlock h (serveLower target)
  | .debugUnlockLifecycle (.mailbox h) target t => doUnlock h (serveLifecycle target t)
  | .regionCreate h b => doRegionCreate h b
  | .regionDestroy h => doRegionDestroy h
  | .imageWrite h offset length partsMinus1 parts => doImageWrite h offset length partsMinus1 parts
  | .loadImage h imageId img => doLoadImage h imageId img
  | .groupSet h groupId members rank peers => doGroupSet h groupId members rank peers
  | .run h steps deliver => doRun h steps deliver
  | .stop h unload => doStop h unload
  | .joinShadow h workDev workRegion compareSteps info => doJoinShadow h workDev workRegion compareSteps info
  | .resetInstance h => doResetInstance h
  | .capture h midStep => doCapture h midStep
  | .captureRead h slot hostAddr offset length hostOk => doCaptureRead h slot hostAddr offset length hostOk
  | .admitSequence h b => doAdmitSequence h b
  | .releaseSequence h seqKey => doReleaseSequence h seqKey
  | .queryProgressSequences h keys hostAddr hostOk => doQueryProgressSequences h keys hostAddr hostOk
  | .queryProgressRequest h reqId => doQueryProgressRequest h reqId
  | .queryProgressTile h lt => doQueryProgressTile h lt
  | .siltOpen h b => doSiltOpen h b
  | .siltDestroy h handle => doSiltDestroy h handle
  | .siltStatus h handle => doSiltStatus h handle
  | .eventFetch h => doEventFetch h
  | _ => id

/-- Handles the command that a function has locked; one whose opcode is in no table is answered too. -/
def handleLocked (s : State) (f : Nat) : State :=
  match (fnOf s f).locked with
  | some c => handlerOf c (updFn { s with pwr := { s.pwr with busyAt := s.now } } f fun v => { v with locked := none })
  | none => answerUnknown s f

/-- The functions in the order of their doorbells, those of one cycle ascending (R307). -/
def bellOrder (s : State) : List Nat := ((List.range 17).foldl (fun l f => sins (fnOf s f).rungNow f l) []).map (·.2)

/-- READY on every function, and the commands that waited for it, in the order of their doorbells. -/
def raiseReady (s : State) : State :=
  (bellOrder s).foldl handleLocked ((List.range 17).foldl (fun s f => updFn s f fun v => { v with ready := true }) s)

/-- CONFIRMED is written for the running slot unless the record in use says so already (R393). -/
def confirmSlot (s : State) : State :=
  let already := match selInUse s with
    | none => s.idn.fwSlot == 0
    | some (_, x) => x.preferred == s.idn.fwSlot && x.confirmed
  if already then s else newSel s s.idn.fwSlot 0 true

/-- Namespaces of regions that the reset has taken away pass to the PF or are destroyed (R397). -/
def settleNamespaces (s : State) : State :=
  (s.silt.nss.filter fun n => decide (n.2.owner < 16)).foldl (fun s n =>
    if n.2.persist then updNs s n.1 fun x => { x with owner := 16 } else destroyNs s n.1) s

/-- Fields of the identity block that are set at READY (Table 11.9). -/
def noteReady (s : State) : State :=
  let s1 := noteSpares s
  { s1 with idn := { s1.idn with factoryRead := s1.idn.factory, incarnation := s1.fab.inc, fwId := runningId s1, fwVersion := runningId s1 % 2 ^ 32 } }

/-- Whether every EXPECTED port has reached ACTIVE or FAILED since EN was last set (R254). -/
def portsSettled (s : State) : Bool := s.fab.ports.all fun p => !pExpected p.2 || p.2.settled

/-- DECLARE_READY. -/
def execDeclareReady (s : State) : Out :=
  whenB (s.flt.state == 4 && portsSettled s) s
    (let s1 := confirmSlot (noteReady (settleNamespaces s))
     raiseReady { s1 with flt := { s1.flt with state := 5 } })

/-- MANAGEMENT_CORE_RESTART_DONE: within 50 ms of its start. -/
def execManagementCoreRestartDone (s : State) : Out :=
  match s.pwr.coreRestart with
  | none => .next s
  | some t =>
    if t + 50 * cyclesPerMs ≤ s.now then .next s
    else
      let s1 := { s with pwr := { s.pwr with coreRestart := none } }
      .next (if s.flt.state = 5 then raiseReady s1 else s1)

end Sys2Proof.Machine
end

