-- ==== Sys2Proof/Machine/Tick.lean ====
section
/-! DEFINITION. One mesh cycle with no command waiting: what the block does by its clock alone (R116, R187, R214, R313, Tables
7.14, 7.15). -/

namespace Sys2Proof.Machine

/-! ## Router telemetry (Table 7.15) -/

/-- Place of a port and VC among a router's counters. -/
def pvKey (port vc : Nat) : Nat := 4 * port + vc
def portVcs : List (Nat × Nat) := (List.range 6).flatMap fun p => (List.range 4).map fun v => (p, v)

/-- Flits that stand in the buffers of an input port's VC. -/
def portDepth (r : Router) (port vc : Nat) : Nat := laneFlits r (laneKey port vc 0) + laneFlits r (laneKey port vc 1)

/-- Bin of DEPTH_HIST. -/
def depthBin (n : Nat) : Nat :=
  if n = 0 then 0 else if n ≤ 7 then 1 else if n ≤ 15 then 2 else if n ≤ 31 then 3 else if n ≤ 47 then 4
  else if n ≤ 63 then 5 else if n ≤ 95 then 6 else 7

/-- Whether a head waits in an input port's VC. -/
def headWaits (r : Router) (port vc : Nat) : Bool :=
  (List.range 2).any fun lane => !(sget [] r.bufs (laneKey port vc lane)).isEmpty

/-- Cycles between two samples of the depth histograms. -/
def samplePeriod (r : Router) : Nat := if bitOf r.telCtl 2 then 64 else 1024

/-- Adds one to a counter of `w` bits. -/
def bump (m : List (Nat × Nat)) (k w : Nat) : List (Nat × Nat) := sset 0 m k (satAdd (sget 0 m k) 1 w)

/-- Counters of an input port's VC after one cycle; bin 0 stands for every sample that no other bin took. -/
def sampleIn (now : Nat) (r : Router) (o : Nat × Nat) : Router :=
  let r1 := if headWaits r o.1 o.2 then { r with stall := bump r.stall (pvKey o.1 o.2) 48 } else r
  let b := depthBin (portDepth r o.1 o.2)
  if now % samplePeriod r = 0 ∧ b ≠ 0 then { r1 with hist := bump r1.hist (8 * pvKey o.1 o.2 + b) 32 } else r1

/-- Bin 0 of DEPTH_HIST: the samples since the counters were cleared, less those in the other bins. -/
def depthBin0 (s : State) (r : Router) (port vc : Nat) : Nat :=
  let taken := r.histBase + (s.now / samplePeriod r - r.histFrom / samplePeriod r)
  let other := ((List.range 7).map fun i => sget 0 r.hist (8 * pvKey port vc + i + 1)).foldl (· + ·) 0
  Nat.min (taken - other) (2 ^ 32 - 1)

/-- One cycle of a router's counters. -/
def sampleRouter (s : State) (pos : Nat) : State :=
  updRouter s pos fun r0 =>
    let r := if r0.hold then rippleDrain s.now r0 else r0
    if bitOf r.telCtl 1 then r
    else
      let r1 := portVcs.foldl (fun r o => sampleIn s.now r o) r
      let r2 := portVcs.foldl (fun (r : Router) (o : Nat × Nat) =>
        if (List.range 2).any fun lane => heldOut s pos o.1 o.2 lane then { r with xoffTime := bump r.xoffTime (pvKey o.1 o.2) 48 }
        else r) r1
      r2

/-- Routers that may have something to count: those not in their reset state, and their neighbours. -/
def busyRouters (s : State) : List Nat :=
  (s.routers.flatMap fun e => e.1 :: (List.range 5).filterMap fun p => (linkTo e.1 p).map (·.1)).foldl (fun l k => setIns k l) []

/-! ## Tiles, engines and firmware -/

/-- One cycle of a tile: the ages of its descriptor heads, packets that may be injected, posts that are owed. -/
def tickTile (s : State) (pos : Nat) : State :=
  let lt := ltAt s pos
  if lt = 0x3FF then s else tryOwed (pumpTile (ageQueues s lt) lt) lt

/-- Whether the control firmware runs: the boot ROM has handed over, no start error has stopped it and no probe halts it. -/
def fwRuns (s : State) : Bool :=
  s.sec.booted && powered s && !s.sec.halted && decide (2 ≤ s.flt.state) && decide (s.flt.state ≤ 5)

/-- FLT_FW_BEAT goes up every millisecond (R313). -/
def tickBeat (s : State) : State :=
  if fwRuns s && decide (s.flt.beatAt + cyclesPerMs ≤ s.now) then
    { s with flt := { s.flt with fwBeat := (s.flt.fwBeat + 1) % 2 ^ 32, beatAt := s.now } }
  else s

/-- One mesh cycle. -/
def tick (s : State) : State :=
  let s1 := { s with now := s.now + 1 }
  let s2 := pumpRipple ((busyRouters s1).foldl sampleRouter s1)
  let s3 := (s2.tiles.map (·.1)).foldl tickTile s2
  let s4 := (List.range 4).foldl pumpEngine s3
  tickBeat ((s4.fab.ports.map (·.1)).foldl tickPort s4)

end Sys2Proof.Machine
end

