-- ==== Sys2Proof/Machine/Dispatch.lean ====
section
/-! DEFINITION. One arm per command of the opcode table, each one direct call of its meaning. -/

namespace Sys2Proof.Machine

/-- The effect of a command on everything but the queue. -/
def exec (i : Instr) (s : State) : Host.Outcome State Fault Refusal :=
  match i with
  -- mailbox commands (chapter 11): the header and the parameter block the host wrote, then the doorbell
  | .nop h => Sys2Proof.Machine.execNop h s
  | .identify h => Sys2Proof.Machine.execIdentify h s
  | .functionConfig h beatMs beatStop disableMs => Sys2Proof.Machine.execFunctionConfig h beatMs beatStop disableMs s
  | .vfQuota h b => Sys2Proof.Machine.execVfQuota h b s
  | .functionDisable h func => Sys2Proof.Machine.execFunctionDisable h func s
  | .functionEnable h func => Sys2Proof.Machine.execFunctionEnable h func s
  | .deviceReset h key => Sys2Proof.Machine.execDeviceReset h key s
  | .systemSet h key deviceId => Sys2Proof.Machine.execSystemSet h key deviceId s
  | .domainsSet h b => Sys2Proof.Machine.execDomainsSet h b s
  | .fabricRoutes h entries => Sys2Proof.Machine.execFabricRoutes h entries s
  | .linkStateRead h mask => Sys2Proof.Machine.execLinkStateRead h mask s
  | .linkStateEnable h mask => Sys2Proof.Machine.execLinkStateEnable h mask s
  | .linkStateDisable h mask => Sys2Proof.Machine.execLinkStateDisable h mask s
  | .linkStateRetrain h mask => Sys2Proof.Machine.execLinkStateRetrain h mask s
  | .linkStateWriteCtl h mask ctl => Sys2Proof.Machine.execLinkStateWriteCtl h mask ctl s
  | .telemetry h what hostAddr hostOk => Sys2Proof.Machine.execTelemetry h what hostAddr hostOk s
  | .firmwareUpdateWrite h length img => Sys2Proof.Machine.execFirmwareUpdateWrite h length img s
  | .firmwareUpdatePrefer h => Sys2Proof.Machine.execFirmwareUpdatePrefer h s
  | .firmwareUpdateAdvanceSvn h => Sys2Proof.Machine.execFirmwareUpdateAdvanceSvn h s
  | .debugUnlockChallenge src => Sys2Proof.Machine.execDebugUnlockChallenge src s
  | .debugUnlockRaise src target t => Sys2Proof.Machine.execDebugUnlockRaise src target t s
  | .debugUnlockLower src target => Sys2Proof.Machine.execDebugUnlockLower src target s
  | .debugUnlockLifecycle src target t => Sys2Proof.Machine.execDebugUnlockLifecycle src target t s
  | .regionCreate h b => Sys2Proof.Machine.execRegionCreate h b s
  | .regionDestroy h => Sys2Proof.Machine.execRegionDestroy h s
  | .imageWrite h offset length partsMinus1 parts => Sys2Proof.Machine.execImageWrite h offset length partsMinus1 parts s
  | .loadImage h imageId img => Sys2Proof.Machine.execLoadImage h imageId img s
  | .groupSet h groupId members rank peers => Sys2Proof.Machine.execGroupSet h groupId members rank peers s
  | .run h steps deliver => Sys2Proof.Machine.execRun h steps deliver s
  | .stop h unload => Sys2Proof.Machine.execStop h unload s
  | .joinShadow h workDev workRegion compareSteps info => Sys2Proof.Machine.execJoinShadow h workDev workRegion compareSteps info s
  | .resetInstance h => Sys2Proof.Machine.execResetInstance h s
  | .capture h midStep => Sys2Proof.Machine.execCapture h midStep s
  | .captureRead h slot hostAddr offset length hostOk => Sys2Proof.Machine.execCaptureRead h slot hostAddr offset length hostOk s
  | .admitSequence h b => Sys2Proof.Machine.execAdmitSequence h b s
  | .releaseSequence h seqKey => Sys2Proof.Machine.execReleaseSequence h seqKey s
  | .queryProgressSequences h keys hostAddr hostOk => Sys2Proof.Machine.execQueryProgressSequences h keys hostAddr hostOk s
  | .queryProgressRequest h reqId => Sys2Proof.Machine.execQueryProgressRequest h reqId s
  | .queryProgressTile h lt => Sys2Proof.Machine.execQueryProgressTile h lt s
  | .siltOpen h b => Sys2Proof.Machine.execSiltOpen h b s
  | .siltDestroy h handle => Sys2Proof.Machine.execSiltDestroy h handle s
  | .siltStatus h handle => Sys2Proof.Machine.execSiltStatus h handle s
  | .eventFetch h => Sys2Proof.Machine.execEventFetch h s
  | .requestCompletion func reqId => Sys2Proof.Machine.execRequestCompletion func reqId s
  -- host register accesses
  | .registerWrite func offset data read => Sys2Proof.Machine.execRegisterWrite func offset data s read
  | .mbxEvqCtlEnable func value => Sys2Proof.Machine.execMbxEvqCtlEnable func value s
  | .mbxEvqHeadWrite func head => Sys2Proof.Machine.execMbxEvqHeadWrite func head s
  | .evqModerationTimer func => Sys2Proof.Machine.execEvqModerationTimer func s
  | .fltDevResetGo key => Sys2Proof.Machine.execFltDevResetGo key s
  | .mshTelCtlClear pos => Sys2Proof.Machine.execMshTelCtlClear pos s
  | .trnPortCtlRetrain port => Sys2Proof.Machine.execTrnPortCtlRetrain port s
  | .trnPortCtlEnSet port => Sys2Proof.Machine.execTrnPortCtlEnSet port s
  -- SPDM over DOE, PLDM over SMBus, TRST_N
  | .spdmNegotiateAlgorithms ecdsaP384 sha384 => Sys2Proof.Machine.execSpdmNegotiateAlgorithms ecdsaP384 sha384 s
  | .spdmGetCertificate slot offset length => Sys2Proof.Machine.execSpdmGetCertificate slot offset length s
  | .spdmChallenge slot nonce => Sys2Proof.Machine.execSpdmChallenge slot nonce s
  | .spdmGetMeasurements index nonce => Sys2Proof.Machine.execSpdmGetMeasurements index nonce s
  | .pldmRequest req => Sys2Proof.Machine.execPldmRequest req s
  -- function resets, pins, clocks, rails
  | .vfFlr func => Sys2Proof.Machine.execVfFlr func s
  | .pfFlrOrLinkDown kind => Sys2Proof.Machine.execPfFlrOrLinkDown kind s
  | .functionDrainLimit func => Sys2Proof.Machine.execFunctionDrainLimit func s
  | .perstNDeassert compatSel laneRev speed width => Sys2Proof.Machine.execPerstNDeassert compatSel laneRev s speed width
  | .pwrOkAssert mgmtAddr pkgTestN => Sys2Proof.Machine.execPwrOkAssert mgmtAddr pkgTestN s
  | .powerFailGlitch widthNs => Sys2Proof.Machine.execPowerFailGlitch widthNs s
  | .powerFailRelease railsInRange => Sys2Proof.Machine.execPowerFailRelease railsInRange s
  | .trnRefclkLoss die => Sys2Proof.Machine.execTrnRefclkLoss die s
  | .pmbAlert confirmed => Sys2Proof.Machine.execPmbAlert confirmed s
  | .pmbusPoll readings => Sys2Proof.Machine.execPmbusPoll readings s
  | .regulatorSilent reg => Sys2Proof.Machine.execRegulatorSilent reg s
  | .wakeOnSignal port => Sys2Proof.Machine.execWakeOnSignal port s
  -- bring-up
  | .firmwareStart basinOk badDigests pages nand => Sys2Proof.Machine.execFirmwareStart basinOk badDigests s pages nand
  | .selfTestDone pair outcome clockMhz vddMv results => Sys2Proof.Machine.execSelfTestDone pair outcome clockMhz vddMv results s
  | .zeroizeTimeout pos => Sys2Proof.Machine.execZeroizeTimeout pos s
  | .deviceResetEffect cause => Sys2Proof.Machine.execDeviceResetEffect cause s
  | .dieReset die => Sys2Proof.Machine.execDieReset die s
  | .tileRouterReset pos => Sys2Proof.Machine.execTileRouterReset pos s
  -- the step (chapter 01)
  | .stepStart r ue => Sys2Proof.Machine.execStepStart r s ue
  | .stepDrained r => Sys2Proof.Machine.execStepDrained r s
  | .localConditionsMet r ue => Sys2Proof.Machine.execLocalConditionsMet r s ue
  | .stepReadyRx m => Sys2Proof.Machine.execStepReadyRx m s
  | .undeliveredResume r => Sys2Proof.Machine.execUndeliveredResume r s
  | .stepFailRx m => Sys2Proof.Machine.execStepFailRx m s
  | .stepTimerExpiry r => Sys2Proof.Machine.execStepTimerExpiry r s
  | .stepQueryRx m => Sys2Proof.Machine.execStepQueryRx m s
  | .stepQueryAnswerRx m a => Sys2Proof.Machine.execStepQueryAnswerRx m a s
  | .queryWaitExpiry r => Sys2Proof.Machine.execQueryWaitExpiry r s
  | .queueStall lt q => Sys2Proof.Machine.execQueueStall lt q s
  | .engineHang lt q => Sys2Proof.Machine.execEngineHang lt q s
  -- descriptors (chapters 02 to 06)
  | .fetchLine lt q found => Sys2Proof.Machine.execFetchLine lt q s found
  | .staleInstanceDiscard lt q => Sys2Proof.Machine.execStaleInstanceDiscard lt q s
  | .matmul lt q found stores => Sys2Proof.Machine.execMatmul lt q s found stores
  | .elementwise lt q found => Sys2Proof.Machine.execElementwise lt q s found
  | .reduce lt q found => Sys2Proof.Machine.execReduce lt q s found
  | .attnMerge lt q found => Sys2Proof.Machine.execAttnMerge lt q s found
  | .norm lt q found => Sys2Proof.Machine.execNorm lt q s found
  | .softmax lt q found => Sys2Proof.Machine.execSoftmax lt q s found
  | .rope lt q found => Sys2Proof.Machine.execRope lt q s found
  | .activate lt q found => Sys2Proof.Machine.execActivate lt q s found
  | .topk lt q found => Sys2Proof.Machine.execTopk lt q s found
  | .merge lt q found => Sys2Proof.Machine.execMerge lt q s found
  | .draw lt q found => Sys2Proof.Machine.execDraw lt q s found
  | .verify lt q found => Sys2Proof.Machine.execVerify lt q s found
  | .convert lt q found => Sys2Proof.Machine.execConvert lt q s found
  | .gate lt q found => Sys2Proof.Machine.execGate lt q s found
  | .combine lt q found => Sys2Proof.Machine.execCombine lt q s found
  | .copy lt q found => Sys2Proof.Machine.execCopy lt q s found
  | .put lt q found => Sys2Proof.Machine.execPut lt q s found
  | .get lt q => Sys2Proof.Machine.execGet lt q s
  | .basinRead lt q ce ue => Sys2Proof.Machine.execBasinRead lt q s ce ue
  | .basinWrite lt q found => Sys2Proof.Machine.execBasinWrite lt q s found
  | .siltRead lt q ladder => Sys2Proof.Machine.execSiltRead lt q ladder s
  | .siltWrite lt q found => Sys2Proof.Machine.execSiltWrite lt q s found
  | .storeLoad lt q found => Sys2Proof.Machine.execStoreLoad lt q s found
  | .sparsify lt q found => Sys2Proof.Machine.execSparsify lt q s found
  | .scatter lt q found => Sys2Proof.Machine.execScatter lt q s found
  | .scatterClose lt q => Sys2Proof.Machine.execScatterClose lt q s
  | .gather lt q found => Sys2Proof.Machine.execGather lt q s found
  | .scanOut lt q found => Sys2Proof.Machine.execScanOut lt q s found
  | .scanIn lt q => Sys2Proof.Machine.execScanIn lt q s
  | .arrive lt q => Sys2Proof.Machine.execArrive lt q s
  | .wait lt q => Sys2Proof.Machine.execWait lt q s
  | .reset lt q => Sys2Proof.Machine.execReset lt q s
  | .message lt q found => Sys2Proof.Machine.execMessage lt q s found
  | .contribute lt q found => Sys2Proof.Machine.execContribute lt q s found
  | .controlNop lt q => Sys2Proof.Machine.execControlNop lt q s
  | .endDesc lt q => Sys2Proof.Machine.execEndDesc lt q s
  | .fence lt q => Sys2Proof.Machine.execFence lt q s
  | .clearValid lt q => Sys2Proof.Machine.execClearValid lt q s
  | .zeroize lt q => Sys2Proof.Machine.execZeroize lt q s
  | .descriptorRetire lt q idx => Sys2Proof.Machine.execDescriptorRetire lt q idx s
  -- scratchpad and Basin housekeeping
  | .scrubRead lt found => Sys2Proof.Machine.execScrubRead lt found s
  | .scrubForced lt found => Sys2Proof.Machine.execScrubForced lt found s
  | .ceWriteback lt => Sys2Proof.Machine.execCeWriteback lt s
  | .mergeEvict lt ue found => Sys2Proof.Machine.execMergeEvict lt ue s found
  | .shadowWrite lt ok => Sys2Proof.Machine.execShadowWrite lt ok s
  | .patrolScrub stack words ce ue ecs => Sys2Proof.Machine.execPatrolScrub stack words ce ue s ecs
  | .siltDataProgramsDone txn ok failedBlocks times => Sys2Proof.Machine.execSiltDataProgramsDone txn ok failedBlocks s times
  | .siltTxnCommit txn eraseFail => Sys2Proof.Machine.execSiltTxnCommit txn s eraseFail
  | .siltRetentionRelocate sb ladder => Sys2Proof.Machine.execSiltRetentionRelocate sb ladder s
  | .siltWearRelocate zone => Sys2Proof.Machine.execSiltWearRelocate zone s
  -- mesh (chapter 07) and message layer (chapter 08)
  | .packetForward pos port vc lane found => Sys2Proof.Machine.execPacketForward pos port vc lane s found
  | .ageDrop pos port vc lane => Sys2Proof.Machine.execAgeDrop pos port vc lane s
  | .writePacketRx lt found => Sys2Proof.Machine.execWritePacketRx lt s found
  | .readReqRx lt found => Sys2Proof.Machine.execReadReqRx lt s found
  | .readDataRx lt found => Sys2Proof.Machine.execReadDataRx lt s found
  | .msgPacketRx lt found => Sys2Proof.Machine.execMsgPacketRx lt s found
  | .syncPacketRx lt => Sys2Proof.Machine.execSyncPacketRx lt s
  | .ackRx lt => Sys2Proof.Machine.execAckRx lt s
  | .nackRx lt => Sys2Proof.Machine.execNackRx lt s
  | .nackRbRetry lt flow seq found => Sys2Proof.Machine.execNackRbRetry lt flow seq s found
  | .messageRetry lt flow => Sys2Proof.Machine.execMessageRetry lt flow s
  | .retransmitTimeout lt flow seq found => Sys2Proof.Machine.execRetransmitTimeout lt flow seq s found
  | .reorderAge lt => Sys2Proof.Machine.execReorderAge lt s
  | .flowXoffRx lt => Sys2Proof.Machine.execFlowXoffRx lt s
  | .flowXonRx lt => Sys2Proof.Machine.execFlowXonRx lt s
  | .cfgPacketRx pos reg sent => Sys2Proof.Machine.execCfgPacketRx pos s reg sent
  | .collPacketRx die lt found => Sys2Proof.Machine.execCollPacketRx die lt s found
  | .localSideOpen die r cq collSeq => Sys2Proof.Machine.execLocalSideOpen die r cq collSeq s
  | .foldBlockDone die r cq collSeq found => Sys2Proof.Machine.execFoldBlockDone die r cq collSeq s found
  | .resultRelease die r cq collSeq => Sys2Proof.Machine.execResultRelease die r cq collSeq s
  | .expertRowRx lt found => Sys2Proof.Machine.execExpertRowRx lt s found
  | .expertCloseRx lt found => Sys2Proof.Machine.execExpertCloseRx lt s found
  | .gatewayIngress die => Sys2Proof.Machine.execGatewayIngress die s
  | .gatewayEgress die => Sys2Proof.Machine.execGatewayEgress die s
  | .linkDead pos port => Sys2Proof.Machine.execLinkDead pos port s
  | .versionDrained fabric => Sys2Proof.Machine.execVersionDrained fabric s
  | .plannedFlip regions unionOk => Sys2Proof.Machine.execPlannedFlip regions unionOk s
  | .rippleCfgWrite d ue => Sys2Proof.Machine.execRippleCfgWrite d ue s
  | .rippleOperand d ue => Sys2Proof.Machine.execRippleOperand d ue s
  | .rippleStepStart d ue => Sys2Proof.Machine.execRippleStepStart d ue s
  | .rippleEpochFlip d ue => Sys2Proof.Machine.execRippleEpochFlip d ue s
  | .rippleTableWrite d ue => Sys2Proof.Machine.execRippleTableWrite d ue s
  | .rippleFirmware d ue => Sys2Proof.Machine.execRippleFirmware d ue s
  -- Tarn links (chapter 09)
  | .flitDataRx port f raw fec => Sys2Proof.Machine.execFlitDataRx port f s raw fec
  | .flitIdleRx port f raw fec => Sys2Proof.Machine.execFlitIdleRx port f s raw fec
  | .replayReqRx port f raw fec => Sys2Proof.Machine.execReplayReqRx port f s raw fec
  | .trainRx port w => Sys2Proof.Machine.execTrainRx port w s
  | .portIdleTimeout port => Sys2Proof.Machine.execPortIdleTimeout port s
  | .portDetectTimeout port => Sys2Proof.Machine.execPortDetectTimeout port s
  | .equaliseDone port ok => Sys2Proof.Machine.execEqualiseDone port ok s
  | .alignDone port ok rttNs => Sys2Proof.Machine.execAlignDone port ok rttNs s
  | .qualifyDone port fail => Sys2Proof.Machine.execQualifyDone port fail s
  | .portLossOfSignal port => Sys2Proof.Machine.execPortLossOfSignal port s
  | .portErrorLimit port reason => Sys2Proof.Machine.execPortErrorLimit port reason s
  | .portFailedRetry port => Sys2Proof.Machine.execPortFailedRetry port s
  | .fabricPortReset port => Sys2Proof.Machine.execFabricPortReset port s
  | .linkEventRx dev inc ports => Sys2Proof.Machine.execLinkEventRx dev inc ports s
  | .peerSilent dev => Sys2Proof.Machine.execPeerSilent dev s
  | .mcCoreWatchdog missed => Sys2Proof.Machine.execMcCoreWatchdog missed s
  | .hostBeatMissed func => Sys2Proof.Machine.execHostBeatMissed func s
  -- hand-off (chapter 05)
  | .prefixLookupRx r m => Sys2Proof.Machine.execPrefixLookupRx r m s
  | .prefixReplyRx r m ue => Sys2Proof.Machine.execPrefixReplyRx r m s ue
  | .pagePushRx r m ue => Sys2Proof.Machine.execPagePushRx r m s ue
  | .pageAckRx r seqKey pageIndex st group => Sys2Proof.Machine.execPageAckRx r seqKey pageIndex st s group
  | .commitNoticeRx r m ue => Sys2Proof.Machine.execCommitNoticeRx r m s ue
  | .seqHandoffRx r m ue => Sys2Proof.Machine.execSeqHandoffRx r m s ue
  | .handoffTimeout r ctx ue => Sys2Proof.Machine.execHandoffTimeout r ctx s ue
  | .handoffActivation r ctx ue => Sys2Proof.Machine.execHandoffActivation r ctx s ue
  -- boundary actions (R17)
  | .sequenceAdmission r ue => Sys2Proof.Machine.execSequenceAdmission r s ue
  | .sequenceRelease r ue => Sys2Proof.Machine.execSequenceRelease r s ue
  | .graphSwitch r bad => Sys2Proof.Machine.execGraphSwitch r s bad
  | .stopAtBoundary r => Sys2Proof.Machine.execStopAtBoundary r s
  | .dvfsChange die voutOk => Sys2Proof.Machine.execDvfsChange die voutOk s
  | .basinHealing r => Sys2Proof.Machine.execBasinHealing r s
  | .positionFailed pos => Sys2Proof.Machine.execPositionFailed pos s
  | .castling pos => Sys2Proof.Machine.execCastling pos s
  | .castlingCopyDone pos crcOk found => Sys2Proof.Machine.execCastlingCopyDone pos crcOk s found
  | .rePlacement r lt => Sys2Proof.Machine.execRePlacement r lt s
  | .refillInPlace r lt => Sys2Proof.Machine.execRefillInPlace r lt s
  -- faults, digests, shadows (chapter 13)
  | .digestBlameRx dev die cq piece => Sys2Proof.Machine.execDigestBlameRx dev die cq piece s
  | .digestWalkStart r => Sys2Proof.Machine.execDigestWalkStart r s
  | .digestWalkEnd r => Sys2Proof.Machine.execDigestWalkEnd r s
  | .digestReportRx r imageId rank digest refOk => Sys2Proof.Machine.execDigestReportRx r imageId rank digest refOk s
  | .stepDigestRx r step digest => Sys2Proof.Machine.execStepDigestRx r step digest s
  | .boundaryLogRx r actions => Sys2Proof.Machine.execBoundaryLogRx r actions s
  | .shadowGapRx r step => Sys2Proof.Machine.execShadowGapRx r step s
  | .shadowPromotion r anyCommitted => Sys2Proof.Machine.execShadowPromotion r anyCommitted s
  | .promoteRx r rank dev reg lastStep => Sys2Proof.Machine.execPromoteRx r rank dev reg lastStep s
  | .promoteApply r => Sys2Proof.Machine.execPromoteApply r s
  | .instanceResetStart r => Sys2Proof.Machine.execInstanceResetStart r s
  | .drainCounterZero r => Sys2Proof.Machine.execDrainCounterZero r s
  | .drainEscalation r => Sys2Proof.Machine.execDrainEscalation r s
  | .captureAbandon r => Sys2Proof.Machine.execCaptureAbandon r s
  -- Wellhead and power (chapter 15)
  | .wellheadSample w => Sys2Proof.Machine.execWellheadSample w s
  | .dvfsCapDecision die => Sys2Proof.Machine.execDvfsCapDecision die s
  | .dvfsRaiseDecision die => Sys2Proof.Machine.execDvfsRaiseDecision die s
  | .scrubHeartbeatCheck basin idx w => Sys2Proof.Machine.execScrubHeartbeatCheck basin idx w s
  | .p1Entry r => Sys2Proof.Machine.execP1Entry r s
  | .p1Exit r => Sys2Proof.Machine.execP1Exit r s
  -- event recorder (chapter 14)
  | .eventPost o => Sys2Proof.Machine.execEventPost o s
  | .alarmDroppedReport func => Sys2Proof.Machine.execAlarmDroppedReport func s
  -- later rows of the table
  | .portSignalDetect port => Sys2Proof.Machine.execPortSignalDetect port s
  | .portStateBoundExpiry port => Sys2Proof.Machine.execPortStateBoundExpiry port s
  | .flitCrcFail port fec => Sys2Proof.Machine.execFlitCrcFail port s fec
  | .busMasterEnableChange func bme vfs => Sys2Proof.Machine.execBusMasterEnableChange func bme s vfs
  | .d3hotChange enter => Sys2Proof.Machine.execD3hotChange enter s
  | .mcBeatRx dev => Sys2Proof.Machine.execMcBeatRx dev s
  | .shadowSyncComplete r c1 kv records => Sys2Proof.Machine.execShadowSyncComplete r c1 kv records s
  | .siltChannelLost ch => Sys2Proof.Machine.execSiltChannelLost ch s
  | .boundaryScanAccess a => Sys2Proof.Machine.execBoundaryScanAccess a s
  -- rows without operands, last so that compiled code can build every command
  | .spdmGetVersion => Sys2Proof.Machine.execSpdmGetVersion s
  | .spdmGetCapabilities => Sys2Proof.Machine.execSpdmGetCapabilities s
  | .spdmGetDigests => Sys2Proof.Machine.execSpdmGetDigests s
  | .trstNAssert => Sys2Proof.Machine.execTrstNAssert s
  | .vfEnableCleared => Sys2Proof.Machine.execVfEnableCleared s
  | .perstNAssert => Sys2Proof.Machine.execPerstNAssert s
  | .pwrOkFall => Sys2Proof.Machine.execPwrOkFall s
  | .powerFailAssert => Sys2Proof.Machine.execPowerFailAssert s
  | .wellheadPowerOn => Sys2Proof.Machine.execWellheadPowerOn s
  | .wellheadRailFall => Sys2Proof.Machine.execWellheadRailFall s
  | .pcieRefclkLoss => Sys2Proof.Machine.execPcieRefclkLoss s
  | .coreRefclkLoss => Sys2Proof.Machine.execCoreRefclkLoss s
  | .crystalLoss => Sys2Proof.Machine.execCrystalLoss s
  | .pmeTurnOff => Sys2Proof.Machine.execPmeTurnOff s
  | .declareReady => Sys2Proof.Machine.execDeclareReady s
  | .siltCheckpoint => Sys2Proof.Machine.execSiltCheckpoint s
  | .detourFlip => Sys2Proof.Machine.execDetourFlip s
  | .fabricFlip => Sys2Proof.Machine.execFabricFlip s
  | .mcBeatTick => Sys2Proof.Machine.execMcBeatTick s
  | .fwDead => Sys2Proof.Machine.execFwDead s
  | .castlingComplete => Sys2Proof.Machine.execCastlingComplete s
  | .emergencyRelease => Sys2Proof.Machine.execEmergencyRelease s
  | .secondsStore => Sys2Proof.Machine.execSecondsStore s
  | .p2Entry => Sys2Proof.Machine.execP2Entry s
  | .p2Exit => Sys2Proof.Machine.execP2Exit s
  | .floodWindowEnd => Sys2Proof.Machine.execFloodWindowEnd s
  | .extremeTick => Sys2Proof.Machine.execExtremeTick s
  | .logTrickle => Sys2Proof.Machine.execLogTrickle s
  | .managementCoreRestartDone => Sys2Proof.Machine.execManagementCoreRestartDone s
  | .crystalStable => Sys2Proof.Machine.execCrystalStable s

end Sys2Proof.Machine
end

