-- ==== Sys2Proof/Safety.lean ====
section
/-! DEFINITION. What statements about the block are stated in: the parts of the state and which of them a command may change,
the invariant that every step keeps, and what no step takes back. -/

namespace Sys2Proof.Machine

/-- The parts of the state, one for each field. -/
inductive Part where
  | pending | now | free | tiles | routers | engines | ltMap | absent | regions | fns | ctxs | pageList
  | basin | poison | bsn | scans | bundles | bundleSeq | silt | recorder | activeEpoch | v0 | v1 | quiet
  | flt | idn | secsBase | outbox | msis | hostOut | orderNo | rep | flc | rf | fab | pwr
  | sec
deriving DecidableEq, Repr

/-- A part that is the same in both states. -/
def same (p : Part) (s t : State) : Prop :=
  match p with
  | .pending => t.pending = s.pending
  | .now => t.now = s.now
  | .free => t.free = s.free
  | .tiles => t.tiles = s.tiles
  | .routers => t.routers = s.routers
  | .engines => t.engines = s.engines
  | .ltMap => t.ltMap = s.ltMap
  | .absent => t.absent = s.absent
  | .regions => t.regions = s.regions
  | .fns => t.fns = s.fns
  | .ctxs => t.ctxs = s.ctxs
  | .pageList => t.pageList = s.pageList
  | .basin => t.basin = s.basin
  | .poison => t.poison = s.poison
  | .bsn => t.bsn = s.bsn
  | .scans => t.scans = s.scans
  | .bundles => t.bundles = s.bundles
  | .bundleSeq => t.bundleSeq = s.bundleSeq
  | .silt => t.silt = s.silt
  | .recorder => t.recorder = s.recorder
  | .activeEpoch => t.activeEpoch = s.activeEpoch
  | .v0 => t.v0 = s.v0
  | .v1 => t.v1 = s.v1
  | .quiet => t.quiet = s.quiet
  | .flt => t.flt = s.flt
  | .idn => t.idn = s.idn
  | .secsBase => t.secsBase = s.secsBase
  | .outbox => t.outbox = s.outbox
  | .msis => t.msis = s.msis
  | .hostOut => t.hostOut = s.hostOut
  | .orderNo => t.orderNo = s.orderNo
  | .rep => t.rep = s.rep
  | .flc => t.flc = s.flc
  | .rf => t.rf = s.rf
  | .fab => t.fab = s.fab
  | .pwr => t.pwr = s.pwr
  | .sec => t.sec = s.sec

/-- Nothing but the listed parts differs. -/
def Only (l : List Part) (s t : State) : Prop := ∀ p, p ∉ l → same p s t

/-- What every step keeps.  Basin stands in canonical form; the device identifier, set and stored, fits its 12 bits (Table 11.9);
the lifecycle state and the debug level are among the three of R399 and Table 15.5; FLT_STATE is a state of Table 11.10; the
settings of DOMAINS_SET are in the ranges of Table 13.5. -/
structure Inv (s : State) : Prop where
  basin : memWf s.basin = true
  device : s.idn.deviceId < 4096
  stored : ∀ d, s.fab.savedDev = some d → d < 4096
  lifecycle : s.idn.lifecycle ≤ 2
  debug : s.idn.debugLevel ≤ 2
  state : s.flt.state ≤ 8
  method : s.flc.classify ≤ 2
  events : 2 ≤ s.flc.histEvents ∧ s.flc.histEvents ≤ 15
  days : 1 ≤ s.flc.histDays ∧ s.flc.histDays ≤ 255
  walks : 100 ≤ s.flc.digestSteps ∧ s.flc.digestSteps ≤ 100000000

/-- What is fused only ever gains: the lifecycle state never goes back (R399), the security version never falls (R392), and keys,
revocations, the serial number and the factory repairs stay as they are. -/
structure Fused (s t : State) : Prop where
  lifecycle : s.idn.lifecycle ≤ t.idn.lifecycle
  svn : s.sec.svn ≤ t.sec.svn
  fwKeys : t.sec.fwKeys = s.sec.fwKeys
  debugKeys : t.sec.debugKeys = s.sec.debugKeys
  revoked : t.sec.revoked = s.sec.revoked
  serial : t.idn.serial = s.idn.serial
  factory : t.idn.factory = s.idn.factory

end Sys2Proof.Machine
end

