-- ==== Sys2Proof/Claims.lean ====
section
/-! DEFINITION. The vocabulary that statements about commands share: what an answered mailbox command leaves. -/

namespace Sys2Proof.Machine

/-! ## The mailbox -/

/-- A function's mailbox is free and its commands reach their own checks: the function exists, is READY and not disabled, no
command is pending, only the PF uses ADMIN, and the backlog of deferred outcomes has room (R306, R308). -/
abbrev Rung (s : State) (h : CmdHdr) : Prop :=
  h.func < 17 ∧ (fnOf s h.func).ready = true ∧ (fnOf s h.func).busy = false ∧ (fnOf s h.func).disabled = false ∧
    (h.admin = true → h.func = 0) ∧ (fnOf s h.func).backlog.length < backlogMax s

/-- A function's registers once a command is answered: `v` with the header in the command area, the response, LAST_SEQ, DONE, not
BUSY, and the MBX_DONE cause (R306). -/
def answeredFn (s : State) (h : CmdHdr) (op status id : Nat) (body : List Byte) (v : Fn) (pba : List Nat) : Fn :=
  { v with
    cmd := memWrL v.cmd 0 (headerBytes s.idn.compat h op)
    resp := responseBytes s.idn.compat h op status id body
    lastSeq := h.seq % 2 ^ 16, rungSeq := h.seq % 2 ^ 16, rungNow := s.now, done := true, busy := false, locked := none
    intCause := if bitOf v.intCause causeMbx then v.intCause else v.intCause + 2 ^ causeMbx
    w1c := noteSet (noteSet v.w1c 29 s.now) causeMbx s.now, pba := pba }

/-- The command is answered at once with a status and a body; of the function's other registers nothing differs from `v`, but for a
pending bit of MSI-X. -/
def Answered (s t : State) (h : CmdHdr) (op status : Nat) (body : List Byte) (v : Fn) : Prop :=
  ∃ pba, fnOf t h.func = answeredFn s h op status 0 body v pba

/-- The command is answered ACCEPTED with the function's next REQ_ID, and a request of that number stands among its requests (R306,
R309): open, or finished with its outcome. -/
def Accepted (s t : State) (h : CmdHdr) (op region : Nat) (finished : Bool) (status : Nat) (result : List Byte) : Prop :=
  let v := fnOf s h.func
  ∃ pba reqs q, fnOf t h.func = answeredFn s h op 1 v.nextReq [] { v with nextReq := v.nextReq + 1, requests := reqs } pba ∧
    q ∈ reqs ∧ q.id = v.nextReq ∧ q.opcode = op ∧ q.tag = h.tag ∧ q.region = region ∧ q.finished = finished ∧ q.status = status ∧
    q.result = result

/-- No function but one differs. -/
def OtherFns (f : Nat) (s t : State) : Prop := ∀ k, k ≠ f → fnOf t k = fnOf s k

/-- The answer of a command whose work also posts events or ends other requests of its sender: the response, LAST_SEQ, DONE, not BUSY,
and the MBX_DONE cause (R306). -/
def Replied (s t : State) (h : CmdHdr) (op status : Nat) (body : List Byte) : Prop :=
  let v := fnOf t h.func
  v.resp = responseBytes s.idn.compat h op status 0 body ∧ v.lastSeq = h.seq % 2 ^ 16 ∧ v.done = true ∧ v.busy = false ∧
    bitOf v.intCause causeMbx = true

/-- The path on which a DEBUG_UNLOCK block arrives is open: the PF's mailbox in the IGX-3 layout, or the data register while the
control firmware runs (R401). -/
def UnlockOpen (s : State) : UnlockSrc → Prop
  | .mailbox h => Rung s h ∧ h.func = 0 ∧ h.paramLen = 256 ∧ s.idn.compat = false
  | .jtag => fwUp s = true

/-- What a DEBUG_UNLOCK block is answered with on its path. -/
def UnlockAnswer (s t : State) (status : Nat) (body : List Byte) : UnlockSrc → Prop
  | .mailbox h => Replied s t h 0x0D status body
  | .jtag => t.sec.jtag = if status ≠ 0 then .refused else if body = [] then .done else .data body

/-- The weaker acceptance of a command whose work also writes its sender's event ring: ACCEPTED with the next REQ_ID, and the request
stands among the function's requests, open or with its outcome. -/
def Acknowledged (s t : State) (h : CmdHdr) (op : Nat) (finished : Bool) (status : Nat) : Prop :=
  let id := (fnOf s h.func).nextReq
  let v := fnOf t h.func
  v.resp = responseBytes s.idn.compat h op 1 id [] ∧ v.lastSeq = h.seq % 2 ^ 16 ∧ v.done = true ∧ v.busy = false ∧
    v.nextReq = id + 1 ∧
    ∃ q ∈ v.requests, q.id = id ∧ q.opcode = op ∧ q.tag = h.tag ∧ q.finished = finished ∧ q.status = status

/-- The header names a region that exists and that its sender owns. -/
abbrev OwnRegion (s : State) (h : CmdHdr) (g : Region) : Prop := regionOf s h.region = some g ∧ g.owner = h.func

/-- The one thing that changed on a region is that an action waits at the end of its list, for the sender's next request. -/
def Waits (s t : State) (h : CmdHdr) (g : Region) (a : BAct) : Prop :=
  regionOf t h.region = some { g with boundary := g.boundary ++ [⟨a, some (h.func, (fnOf s h.func).nextReq), s.orderNo⟩] } ∧
    t.orderNo = s.orderNo + 1 ∧ ∀ r, r ≠ h.region → regionOf t r = regionOf s r

/-! ## Steps -/

/-- A region's tiles stand as at the end of an attempt: queues empty, nothing fired, no transfer, no flow entry, and every STEP object
at its reset value (R126, R180, R226). -/
def Cleared (s t : State) (g : Region) : Prop :=
  ∀ lt ∈ regionTiles s g, let x := tileOf t lt
    queuesEmpty x = true ∧ x.fired = [] ∧ x.flows = [] ∧ x.rx = [] ∧
      ∀ e ∈ x.objs, (objCfgOf x e.1).firmware = false → objVal e.2 = Nat.min (objCfgOf x e.1).resetVal 0xFFFFFFFF

/-- The attempt that a region `g` was in is discarded (R22, R26): the next attempt number, no undo entry, no pending ledger entry, its
tiles cleared. -/
def Discarded (s t : State) (r : Nat) (g : Region) : Prop :=
  (∃ h, regionOf t r = some h ∧ h.mstate = .discarded ∧ h.step = g.step ∧ h.attempt = (g.attempt + 1) % 16 ∧
    h.discards = g.discards + 1 ∧ h.undo = [] ∧ ∀ e ∈ h.ledger, e.final = true) ∧ Cleared s t g

/-- The step that a region `g` was in is committed (R18, R22): its ledger entries are final, the next step is attempt 0. -/
def Committed (s t : State) (r : Nat) (g : Region) : Prop :=
  (∃ h, regionOf t r = some h ∧ h.mstate = .committed ∧ h.lastCommitted = some g.step ∧ h.step = (g.step + 1) % 2 ^ 64 ∧
    h.attempt = 0 ∧ h.discards = 0 ∧ h.undo = [] ∧ ∀ e ∈ h.ledger, e.step = g.step → e.final = true) ∧ Cleared s t g

/-! ## Descriptors -/

/-- A descriptor row: tile and queue, the class, op and function it is for, its checks, and what it does. -/
structure DescRow where
  lt : Nat
  q : Nat
  want : Nat → Bool
  checks : State → FireCtx → List Nat
  act : State → FireCtx → FireRes

/-- The rows that fire a descriptor (Tables 4.5 to 4.12). -/
def descRow : Instr → Option DescRow
  | .matmul lt q [] [] => some ⟨lt, q, isMatmul, matChecks, actMatmul⟩
  | .elementwise lt q [] => some ⟨lt, q, isVec 0 0 8, ewChecks, actElementwise⟩
  | .reduce lt q [] => some ⟨lt, q, isVec 1 0 3, reduceChecks, actReduce⟩
  | .attnMerge lt q [] => some ⟨lt, q, isVec 1 4 4, attnChecks, actAttnMerge⟩
  | .norm lt q [] => some ⟨lt, q, isVec 2 0 1, normChecks, actNorm⟩
  | .softmax lt q [] => some ⟨lt, q, isVec 3 0 2, softChecks, actSoftmax⟩
  | .rope lt q [] => some ⟨lt, q, isVec 4 0 1, ropeChecks, actRope⟩
  | .activate lt q [] => some ⟨lt, q, isVec 5 0 10, activateChecks, actActivate⟩
  | .topk lt q [] => some ⟨lt, q, isVec 6 0 0, topkChecks, actTopk⟩
  | .merge lt q [] => some ⟨lt, q, isVec 6 1 1, mergeChecks, actMerge⟩
  | .draw lt q [] => some ⟨lt, q, isVec 6 2 2, drawChecks, actDraw⟩
  | .verify lt q [] => some ⟨lt, q, isVec 6 3 3, verifyChecks, actVerify⟩
  | .convert lt q [] => some ⟨lt, q, isVec 7 0 0, convertChecks, actConvert⟩
  | .gate lt q [] => some ⟨lt, q, isVec 8 0 2, gateChecks, actGate⟩
  | .combine lt q [] => some ⟨lt, q, isVec 8 3 3, combineChecks, actCombine⟩
  | .copy lt q [] => some ⟨lt, q, isOp 2 0, copyChecks, actCopy⟩
  | .put lt q [] => some ⟨lt, q, isOp 2 1, putChecks, actPut⟩
  | .get lt q => some ⟨lt, q, isOp 2 2, getChecks, actGet⟩
  | .basinRead lt q [] [] => some ⟨lt, q, isOp 2 3, basinReadChecks, actBasinRead⟩
  | .basinWrite lt q [] => some ⟨lt, q, isOp 2 4, basinWriteChecks, actBasinWrite⟩
  | .siltRead lt q l => some ⟨lt, q, isOp 2 5, siltReadChecks, (actSiltRead l)⟩
  | .siltWrite lt q [] => some ⟨lt, q, isOp 2 6, siltWriteChecks, actSiltWrite⟩
  | .storeLoad lt q [] => some ⟨lt, q, isOp 2 7, storeLoadChecks, actStoreLoad⟩
  | .sparsify lt q [] => some ⟨lt, q, isOp 2 8, sparsifyChecks, actSparsify⟩
  | .scatter lt q [] => some ⟨lt, q, isOp 2 9, scatterChecks, actScatter⟩
  | .gather lt q [] => some ⟨lt, q, isOp 2 10, gatherChecks, actGather⟩
  | .scanOut lt q [] => some ⟨lt, q, isOp 3 0, scanChecks, actScanOut⟩
  | .scanIn lt q => some ⟨lt, q, isOp 3 1, scanChecks, actScanIn⟩
  | .arrive lt q => some ⟨lt, q, isOp 4 0, syncChecks, actArrive⟩
  | .wait lt q => some ⟨lt, q, isOp 4 1, noChecks, actNone⟩
  | .reset lt q => some ⟨lt, q, isOp 4 2, syncChecks, actReset⟩
  | .message lt q [] => some ⟨lt, q, isOp 5 0, messageChecks, actMessage⟩
  | .contribute lt q [] => some ⟨lt, q, isOp 5 1, contributeChecks, actContribute⟩
  | .controlNop lt q => some ⟨lt, q, isOp 6 0, noChecks, actNone⟩
  | .endDesc lt q => some ⟨lt, q, isOp 6 1, noChecks, actNone⟩
  | .fence lt q => some ⟨lt, q, isOp 6 4, noChecks, actNone⟩
  | .clearValid lt q => some ⟨lt, q, isOp 6 5, clearChecks, actClearValid⟩
  | .zeroize lt q => some ⟨lt, q, isOp 6 6, zeroizeChecks, actZeroize⟩
  | _ => none

/-- A command for the head of a queue with the errors that its reads meet: the same command with none, the queue, what the row reads, and
the errors. -/
structure ErrRow where
  base : Instr
  lt : Nat
  q : Nat
  row : ReadRow
  found : List (Nat × EccFind)

/-- The rows whose reads of the scratchpad meet errors (R94, R96). -/
def errRow : Instr → Option ErrRow
  | .matmul lt q found [] => some ⟨.matmul lt q, lt, q, matmulRow, found⟩
  | .elementwise lt q found => some ⟨.elementwise lt q, lt, q, ewRow, found⟩
  | .reduce lt q found => some ⟨.reduce lt q, lt, q, reduceRow_, found⟩
  | .attnMerge lt q found => some ⟨.attnMerge lt q, lt, q, attnRow, found⟩
  | .norm lt q found => some ⟨.norm lt q, lt, q, normRow_, found⟩
  | .softmax lt q found => some ⟨.softmax lt q, lt, q, softRow, found⟩
  | .rope lt q found => some ⟨.rope lt q, lt, q, ropeRow_, found⟩
  | .activate lt q found => some ⟨.activate lt q, lt, q, activateRow, found⟩
  | .topk lt q found => some ⟨.topk lt q, lt, q, topkRow_, found⟩
  | .merge lt q found => some ⟨.merge lt q, lt, q, mergeRow_, found⟩
  | .draw lt q found => some ⟨.draw lt q, lt, q, drawRow, found⟩
  | .verify lt q found => some ⟨.verify lt q, lt, q, verifyRow, found⟩
  | .convert lt q found => some ⟨.convert lt q, lt, q, convertRow, found⟩
  | .gate lt q found => some ⟨.gate lt q, lt, q, gateRow_, found⟩
  | .combine lt q found => some ⟨.combine lt q, lt, q, combineRow, found⟩
  | .copy lt q found => some ⟨.copy lt q, lt, q, copyRow_, found⟩
  | .put lt q found => some ⟨.put lt q, lt, q, putRow, found⟩
  | .basinWrite lt q found => some ⟨.basinWrite lt q, lt, q, basinWriteRow, found⟩
  | .siltWrite lt q found => some ⟨.siltWrite lt q, lt, q, siltWriteRow, found⟩
  | .storeLoad lt q found => some ⟨.storeLoad lt q, lt, q, storeLoadRow, found⟩
  | .sparsify lt q found => some ⟨.sparsify lt q, lt, q, sparsifyRow, found⟩
  | .scatter lt q found => some ⟨.scatter lt q, lt, q, scatterRow_, found⟩
  | .gather lt q found => some ⟨.gather lt q, lt, q, gatherRow, found⟩
  | .message lt q found => some ⟨.message lt q, lt, q, messageRow, found⟩
  | .contribute lt q found => some ⟨.contribute lt q, lt, q, contributeRow, found⟩
  | _ => none

/-- A command of no descriptor with the errors that its reads meet: the same command with none, the tile, the requester of Table 3.4, the
ranges that it reads, and the errors. -/
structure MeetRow where
  base : Instr
  lt : Nat
  who : Nat
  rs : List Rng
  found : List (Nat × EccFind)

/-- The ranges that a command reads if it sends a packet again. -/
def sentReads (s : State) (c : Instr) (l : List Rng) : List Rng :=
  match exec c s with
  | .next u => if u.tiles = s.tiles then [] else l
  | _ => []

/-- The rows of no descriptor whose reads meet errors: a descriptor fetch under requester 4 (R105), a packet's row, whose chain reads and
evictions do (R94, R98), and a packet that is sent again. -/
def meetRowOf (s : State) : Instr → Option MeetRow
  | .fetchLine lt q found =>
    some ⟨.fetchLine lt q, lt, 4,
      if fetchReady s lt q then [((qcfgOf (tileOf s lt) q).streamBase + 512 * ((queueOf (tileOf s lt) q).fetchIdx / 8), 512)] else [], found⟩
  | .writePacketRx lt found => some ⟨.writePacketRx lt, lt, 1, [], found⟩
  | .readDataRx lt found => some ⟨.readDataRx lt, lt, 1, [], found⟩
  | .msgPacketRx lt found => some ⟨.msgPacketRx lt, lt, 1, [], found⟩
  | .expertRowRx lt found => some ⟨.expertRowRx lt, lt, 1, [], found⟩
  | .expertCloseRx lt found => some ⟨.expertCloseRx lt, lt, 1, [], found⟩
  | .collPacketRx die (some lt) found => some ⟨.collPacketRx die (some lt), lt, 1, [], found⟩
  | .nackRbRetry lt flow seq found =>
    let x := resentReads (tileOf s lt) flow seq
    some ⟨.nackRbRetry lt flow seq, lt, x.1, sentReads s (.nackRbRetry lt flow seq) x.2, found⟩
  | .retransmitTimeout lt flow seq found =>
    let x := resentReads (tileOf s lt) flow seq
    some ⟨.retransmitTimeout lt flow seq, lt, x.1,
      sentReads s (.retransmitTimeout lt flow seq) x.2, found⟩
  | _ => none

/-- The errors of a list that lie in words of a tile that some of the ranges read. -/
def rangesHit (t : Tile) (rs : List Rng) (found : List (Nat × EccFind)) : List (Nat × EccFind) :=
  (eccChecked t found).filter fun f => rs.any (meets (64 * f.1, 64))

/-- The errors of a list that lie in the lines which a row that turns `t` into `u` evicts and reads first (R86). -/
def evictHits (t u : Tile) (found : List (Nat × EccFind)) : List (Nat × EccFind) :=
  (eccChecked t found).filter fun f => (evictedLines t u).contains (f.1 / 8)

/-- No eviction that a command's writes make on a tile meets an error of the list. -/
def EvictsClean (s : State) (c : Instr) (lt : Nat) (found : List (Nat × EccFind)) : Prop :=
  ∀ u, exec c s = .next u → evictHits (tileOf s lt) (tileOf u lt) found = []

/-- The head of the row's queue is the row's op, meets R115 and is granted. -/
def Fires (s : State) (x : DescRow) (p : FirePlan) : Prop :=
  x.lt < 576 ∧ x.q < 64 ∧ fireReady s x.lt x.q = some p ∧ x.want p.d = true ∧ granted s x.lt x.q p = true

/-- The state and the context in which a firing descriptor is checked and acts: its head taken, its entries reserved. -/
def atFiring (s : State) (x : DescRow) (p : FirePlan) : State × FireCtx :=
  let r := fireReserve s x.lt x.q p
  (r.1, r.2.1)

/-- The status of the checks at firing, in the order of R439. -/
def fireStatus (s : State) (x : DescRow) (p : FirePlan) : Nat :=
  let r := atFiring s x p
  issueStatus r.1 r.2 x.checks

/-- The entry of a fired descriptor among those that have not retired. -/
def FiredAs (s t : State) (x : DescRow) (p : FirePlan) (f : Fired) : Prop :=
  f ∈ (tileOf t x.lt).fired ∧ f.fid = (tileOf s x.lt).nextFid ∧ f.q = x.q ∧ f.idx = p.idx ∧ f.desc = p.d ∧ f.firedAt = s.now ∧
    f.ins = p.ins.map (·.2)

/-- The form of a merge buffer: one entry a word, and in an entry offsets below 64 that rise. -/
def spadWf (sp : Spad) : Bool :=
  decide (sp.mb.map (·.word)).Nodup && sp.mb.all fun e => sortedKeys e.bytes && e.bytes.all fun c => decide (c.1 < 64)

/-- The byte at an address of a tile's scratchpad, as a read delivers it. -/
def tileByte (s : State) (lt a : Nat) : Byte := spadByte (tileOf s lt).spad a

/-- A tile core is reset by an uncorrectable error, its step lost (R96): no queue, descriptor or merge-buffer entry is left, every word is
invalid, and a step of its region fails. -/
def CoreLost (s t : State) (lt : Nat) : Prop :=
  (tileOf t lt).queues = [] ∧ (tileOf t lt).fired = [] ∧ (tileOf t lt).spad.mb = [] ∧ (∀ a, tileByte t lt a = 0) ∧
    ∀ g, regionOf s (tileOf s lt).region = some g → inStep g = true →
      ∃ h, regionOf t (tileOf s lt).region = some h ∧ h.failed = true

/-- Address ranges of its own tile's scratchpad that a descriptor may write; none for the ops that write another tile's. -/
def destRngs : Instr → State → FireCtx → Option (List Rng)
  | .matmul _ _ [] [], s, c => some (rowRngs (matGeom s c).o (mOStride c.d) (mmRows c.d) (outRowBytes (mOFmt c.d) (mN c.d)))
  | .elementwise _ _ [], _, c | .norm _ _ [], _, c | .rope _ _ [], _, c | .activate _ _ [], _, c | .convert _ _ [], _, c | .combine _ _ [], _, c
  | .attnMerge _ _ [], _, c => some (dstRngs c (vLen c.d))
  | .reduce _ _ [], _, c => some (dstRngs c 1)
  | .softmax _ _ [], _, c => some (softWrites c)
  | .topk _ _ [], _, c => some (rowRngs (vecDst c) (vDstStride c.d) (vRows c.d) (8 * dParamK c.d))
  | .merge _ _ [], _, c => some (rowRngs (vecDst c) (vDstStride c.d) (vRows c.d) (8 * vLen c.d))
  | .draw _ _ [], _, c | .verify _ _ [], _, c => some (exchRngs c 128 64)
  | .gate _ _ [], _, c => some (rowRngs (vecDst c) 64 (vRows c.d) 64)
  | .copy _ _ [], _, c => some (rowRngs (copyDst c 0) (mRemoteStride c.d) (mRows c.d) (mLen c.d))
  | .basinRead _ _ [] [], _, c | .siltRead _ _ _, _, c => some (localRngs c)
  | .sparsify _ _ [], _, c => some
      ((if spDenseEn c.d then rowRngs (spDense c.d) (mRemoteStride c.d) (mRows c.d) (mLen c.d) else []) ++
        [(spList c.d, spTotal c.d (mParam1 c.d))])
  | .clearValid _ _, _, c | .zeroize _ _, _, c => some [(ctlAddr c.d / 64 * 64, 512 * ctlLines c.d + ctlAddr c.d % 64)]
  | .put _ _ [], _, _ | .get _ _, _, _ | .basinWrite _ _ [], _, _ | .siltWrite _ _ [], _, _ | .storeLoad _ _ [], _, _ | .scatter _ _ [], _, _
  | .gather _ _ [], _, _ | .scanOut _ _ [], _, _ | .arrive _ _, _, _ | .wait _ _, _, _ | .reset _ _, _, _ | .message _ _ [], _, _
  | .contribute _ _ [], _, _ | .controlNop _ _, _, _ | .endDesc _ _, _, _ | .fence _ _, _, _ => some []
  | _, _, _ => none

/-! ## Packets at a tile -/

/-- The router of a tile holds an answer to a packet in its LOCAL input, or the answer waits for its lane there (R191). -/
def Answers (s t : State) (lt : Nat) (p : Packet) (typ reason : Nat) : Prop :=
  let pos := posOf s lt
  let a := answerPacket s pos p typ reason
  let k := laneKey 0 a.vc (injectLane s pos a)
  a ∈ sget [] (routerOf t pos).bufs k ∨ (k, a) ∈ (routerOf t pos).outbox

/-- A row takes packet `p` from a tile's inbox and goes on from `u`: of the packets that pass the row's test the first, or the one that
goes before it where both need the last room (R123, R180, R199). -/
def Takes (s : State) (lt : Nat) (test : Packet → Bool) (p : Packet) (u : State) : Prop :=
  ∃ x y, (routerOf s (posOf s lt)).inbox.find? test = some x ∧
    (firstRival (tileOf s lt) (routerOf s (posOf s lt)).inbox x).1 = p ∧ test p = true ∧
    takeInbox s (posOf s lt) (fun q => q == p) = some (p, y) ∧
    u = updTile y lt fun t => { t with
      rotEngine := (firstRival (tileOf s lt) (routerOf s (posOf s lt)).inbox x).2.rotEngine }

/-- A packet is a whole transfer that a tile has not seen, has room for and may land. -/
def FreshWhole (s : State) (lt : Nat) (p : Packet) : Prop :=
  let v := tileOf s lt
  p.seq = 0 ∧ p.last = true ∧ stepVerdict s (tileRegion v) p = .ok ∧ closedOf v (pktKey p) = none ∧ rxOf v (pktKey p) = none ∧
    landBad v p = false ∧ v.rx.length < 128 ∧ (p.typ = tMsg → bitOf p.transport.toNat 237 = true → v.evicted = false)

/-- The flow of a packet that is a whole transfer, once it is released. -/
def wholeFlow (s : State) (lt : Nat) (p : Packet) : RxFlow := takeIn (newRx (tileOf s lt) p) p

/-- The outcome that the closed-transfer cache of a tile holds for a packet's transfer. -/
def Remembers (t : State) (lt : Nat) (p : Packet) (outcome : Nat) : Prop :=
  (pktKey p, outcome) ∈ (tileOf t lt).closedXfers ∧ rxOf (tileOf t lt) (pktKey p) = none

/-! ## Tarn ports -/

/-- No other port differs. -/
def OtherPorts (p : Nat) (s t : State) : Prop := ∀ q, q ≠ p → portOf t q = portOf s q

/-- A port enters a state: the time of entry is noted and a LINK_EVENT goes out with the device, its incarnation and the states of its
ports (R255, R259). -/
def Enters (s t : State) (p st : Nat) : Prop :=
  (portOf t p).state = st ∧ (portOf t p).since = s.now ∧ OtherPorts p s t ∧
    t.outbox = s.outbox ++ [.linkEvent s.idn.deviceId s.fab.inc (ownLinks t)] ∧
    Only [.fns, .recorder, .flt, .outbox, .msis, .fab] s t

/-- A port leaves ACTIVE (R255, R256): counted; replay flits, the receive buffer and the queue are gone, the queued packets stand at the
gateway for another port; the third departure within an hour ends in FAILED with the port's last reason. -/
def Leaves (s t : State) (p st reason : Nat) : Prop :=
  let a := portOf s p
  let b := portOf t p
  let times := s.now :: a.leaves.take 2
  let third := 3 ≤ (times.filter fun x => decide (s.now - x ≤ 3600 * cyclesPerSec)).length
  let last := if reason = 0 then a.lastReason else reason
  b.held = [] ∧ b.partial_ = [] ∧ b.txq = [] ∧ b.lastReason = last ∧
    b.failReason = (if third then last else if reason = 0 then a.failReason else reason) ∧ b.leaves = times ∧ b.since = s.now ∧
    b.cnt.leaveActive = satAdd a.cnt.leaveActive 1 32 ∧ b.state = (if third then psFailed else st) ∧
    (engineOf t (p / 3)).egress = (engineOf s (p / 3)).egress ++ a.txq ∧
    (engineOf t (p / 3)).ingress = (engineOf s (p / 3)).ingress.filter (fun f => f.port != p) ∧
    (∀ d, d ≠ p / 3 → engineOf t d = engineOf s d) ∧
    OtherPorts p s t ∧ t.outbox = s.outbox ++ [.linkEvent s.idn.deviceId s.fab.inc (ownLinks t)] ∧
    Only [.engines, .fns, .recorder, .flt, .outbox, .msis, .fab] s t

/-- What every flit header brings to a transmitter (R246, Table 9.6): the held flits up to the one acknowledged are free, the partner's
XOFF bits hold, and what goes out beside `extra` are DATA flits of streams that are not stopped, each held until it is acknowledged. -/
def HeaderTaken (a b : Port) (f : Flit) (extra : List Flit) : Prop :=
  ∃ kept sent, b.held = kept ++ sent ∧ b.wire = a.wire ++ sent ++ extra ∧ b.txXoff = f.xoff ∧
    ((f.ackValid = true ∧ ∃ acked x, a.held = acked ++ x :: kept ∧ x.seq = f.ackSeq ∧ ∀ y ∈ acked, y.seq ≠ f.ackSeq) ∨
      (kept = a.held ∧ (f.ackValid = true → ∀ y ∈ a.held, y.seq ≠ f.ackSeq))) ∧
    (sent = [] ∨ b.held.length ≤ 1024) ∧ ∀ x ∈ sent, x.ftype = 0 ∧ bitOf f.xoff (streamOf x.vc x.flane) = false

/-- The XOFF bits of a port toward its partner follow the fill of its receive buffers at the marks 96 and 32 (R249, Table 9.6). -/
def XoffFollows (p : Nat) (s t : State) : Prop :=
  ∀ st, st < 8 → bitOf (portOf t p).rxXoff st =
    (let n := occStream (engineOf t (p / 3)) (portOf t p) p st
     if 96 ≤ n then true else if n ≤ 32 then false else bitOf (portOf s p).rxXoff st)

/-- A packet joins the transmit queue of an ACTIVE port, which sends what fills whole flits (R244, R246): nothing of a stream whose XOFF
is raised, each flit held until it is acknowledged, and of a packet that is alone the bytes of its prefix, header and payload in turn. -/
def Queued (s t : State) (port : Nat) (g : FabPacket) : Prop :=
  let q := portOf s port
  let b := portOf t port
  let st := streamOf g.pkt.vc g.flane
  let mine := fun (l : List FabPacket) => l.filter fun x => streamOf x.pkt.vc x.flane == st
  let bytes := fabBytes q.v1 { g with fage := fageNow s g }
  let n := bytes.length / 244
  OtherPorts port s t ∧ ∃ new, b.wire = q.wire ++ new ∧ b.held = q.held ++ new ∧ (new = [] ∨ b.held.length ≤ 1024) ∧
    (∀ x ∈ new, x.ftype = 0 ∧ bitOf q.txXoff (streamOf x.vc x.flane) = false) ∧
    (bitOf q.txXoff st = true → mine b.txq = mine q.txq ++ [g]) ∧
    (q.txq = [] → st < 8 → bitOf q.txXoff st = false → sget (0, 0) q.txHead st = (0, 0) → q.held.length + n ≤ 1024 →
      fageNow s g ≤ 1000 → new.flatMap (·.payload) = bytes.take (244 * n) ∧ b.txq = if bytes.length = 244 * n then [] else [g])

/-- Beside what else a port does, the gateway of its die has at most counted packets dropped for their age (R245). -/
def FageDrops (p : Nat) (s t : State) : Prop :=
  ∀ d, { engineOf t d with gwDrop := [] } = { engineOf s d with gwDrop := [] } ∧
    ∀ c, (d ≠ p / 3 ∨ c ≠ 1) → sget 0 (engineOf t d).gwDrop c = sget 0 (engineOf s d).gwDrop c

/-! ## Boundary actions -/

/-- The request behind a handle ends: where it was open in `u`, it stands finished with the outcome in `t`. -/
def Ends (u t : State) (req : Option (Nat × Nat)) (status : Nat) (result : List Byte) : Prop :=
  ∀ f id, req = some (f, id) → ∀ q ∈ (fnOf u f).requests, q.id = id → q.finished = false →
    ∃ x ∈ (fnOf t f).requests, x.id = id ∧ x.opcode = q.opcode ∧ x.tag = q.tag ∧ x.finished = true ∧ x.status = status ∧ x.result = result

/-- `u` is a region's machine once the membership changes that stand at the head of its boundary have been made (R17), `g` the region,
and `b` the first waiting action of a kind, which is due: the region stands at its boundary, no action of a lower rank waits and no castling holds it. -/
def Due (s u : State) (r k : Nat) (g : Region) (b : BEntry) (p : BAct → Bool) : Prop :=
  r < 17 ∧ u = settleMembers s r ∧ regionOf u r = some g ∧ g.boundary.find? (fun x => p x.act) = some b ∧ boundaryFree u r g k = true

/-- Such an action is not due. -/
def NotDue (s u : State) (r k : Nat) (p : BAct → Bool) : Prop :=
  r < 17 ∧ u = settleMembers s r ∧ ∀ g, regionOf u r = some g → boundaryFree u r g k = false ∨ ∀ x ∈ g.boundary, p x.act = false

/-! ## Frames -/

/-- The parts of the state that a command may change. -/
def mayChange : Instr → List Part
  | .nop _ | .functionConfig _ _ _ _ | .vfQuota _ _ | .functionEnable _ _ | .linkStateRead _ _ | .queryProgressRequest _ _ |
    .queryProgressTile _ _ | .siltStatus _ _ => [.fns, .msis, .pwr]
  | .identify _ => [.fns, .idn, .msis, .pwr]
  | .functionDisable _ _ | .regionDestroy _ | .loadImage _ _ _ | .groupSet _ _ _ _ _ | .stop _ _ | .admitSequence _ _ |
    .releaseSequence _ _ => [.regions, .fns, .msis, .orderNo, .pwr]
  | .deviceReset _ _ => [.fns, .msis, .rep, .pwr]
  | .systemSet _ _ _ => [.fns, .idn, .msis, .fab, .pwr]
  | .domainsSet _ _ => [.fns, .msis, .flc, .pwr]
  | .fabricRoutes _ _ => [.fns, .msis, .fab, .pwr]
  | .linkStateEnable _ _ => [.fns, .recorder, .flt, .outbox, .msis, .fab, .pwr]
  | .linkStateDisable _ _ | .linkStateRetrain _ _ | .linkStateWriteCtl _ _ _ | .trnRefclkLoss _ =>
    [.engines, .fns, .recorder, .flt, .outbox, .msis, .fab, .pwr]
  | .telemetry _ _ _ _ => [.free, .fns, .recorder, .msis, .hostOut, .pwr]
  | .firmwareUpdateWrite _ _ _ | .firmwareUpdatePrefer _ | .firmwareUpdateAdvanceSvn _ => [.fns, .msis, .pwr, .sec]
  | .debugUnlockChallenge _ | .debugUnlockRaise _ _ _ | .debugUnlockLower _ _ | .debugUnlockLifecycle _ _ _ | .deviceResetEffect _
    | .stepStart _ true | .localConditionsMet _ true | .prefixReplyRx _ _ true | .pagePushRx _ _ true | .commitNoticeRx _ _ true |
    .seqHandoffRx _ _ true | .handoffTimeout _ _ true | .handoffActivation _ _ true | .sequenceAdmission _ true | .sequenceRelease
    _ true =>
    [.free, .tiles, .routers, .engines, .ltMap, .absent, .regions, .fns, .ctxs, .pageList, .basin, .poison, .bsn, .scans,
      .bundles, .bundleSeq, .silt, .recorder, .activeEpoch, .v0, .v1, .quiet, .flt, .idn, .msis, .orderNo, .rep, .rf, .fab, .pwr,
      .sec]
  | .regionCreate _ _ => [.tiles, .routers, .engines, .regions, .fns, .msis, .pwr, .sec]
  | .imageWrite _ _ _ _ _ => [.fns, .basin, .poison, .scans, .msis, .pwr]
  | .run _ _ _ | .eventFetch _ => [.regions, .fns, .ctxs, .msis, .pwr]
  | .joinShadow _ _ _ _ _ | .resetInstance _ => [.fns, .msis, .rf, .pwr]
  | .capture _ _ | .requestCompletion _ _ => [.free, .tiles, .fns, .scans, .bundles, .bundleSeq, .recorder, .flt, .msis, .pwr]
  | .captureRead _ _ _ _ _ _ => [.fns, .bundles, .msis, .hostOut, .pwr]
  | .queryProgressSequences _ _ _ _ => [.fns, .msis, .hostOut, .pwr]
  | .siltOpen _ _ => [.fns, .silt, .msis, .pwr]
  | .siltDestroy _ _ => [.tiles, .regions, .fns, .silt, .recorder, .flt, .outbox, .msis, .pwr]
  | .registerWrite _ _ _ _ => [.regions, .fns, .ctxs, .flt, .msis, .pwr]
  | .mbxEvqCtlEnable _ _ | .mbxEvqHeadWrite _ _ | .d3hotChange _ => [.regions, .fns, .ctxs, .msis]
  | .busMasterEnableChange _ _ _ => [.regions, .fns, .ctxs, .idn, .msis]
  | .evqModerationTimer _ | .fwDead => [.fns, .msis]
  | .fltDevResetGo _ | .powerFailGlitch _ | .pmbusPoll _ | .regulatorSilent _ | .wakeOnSignal _ | .coreRefclkLoss | .crystalLoss |
    .secondsStore | .p2Entry | .p2Exit | .crystalStable => [.pwr]
  | .mshTelCtlClear _ | .ageDrop _ _ _ _ => [.routers]
  | .linkDead _ _ => [.routers, .fab]
  | .trnPortCtlRetrain _ | .replayReqRx _ _ _ _ | .trainRx _ _ | .portLossOfSignal _ | .portErrorLimit _ _ | .fabricPortReset _ =>
    [.engines, .fns, .recorder, .flt, .outbox, .msis, .fab]
  | .trnPortCtlEnSet _ | .portIdleTimeout _ | .portDetectTimeout _ | .equaliseDone _ _ | .alignDone _ _ _ | .qualifyDone _ _ |
    .portFailedRetry _ | .portSignalDetect _ | .portStateBoundExpiry _ => [.fns, .recorder, .flt, .outbox, .msis, .fab]
  | .spdmNegotiateAlgorithms _ _ | .spdmGetCertificate _ _ _ | .spdmChallenge _ _ | .spdmGetMeasurements _ _ | .spdmGetVersion |
    .spdmGetCapabilities | .spdmGetDigests => [.pwr, .sec]
  | .pldmRequest _ => [.recorder, .sec]
  | .vfFlr _ | .pfFlrOrLinkDown _ | .pcieRefclkLoss => [.regions, .fns, .msis, .orderNo]
  | .functionDrainLimit _ | .stopAtBoundary _ =>
    [.free, .tiles, .routers, .engines, .regions, .fns, .ctxs, .pageList, .basin, .poison, .bsn, .scans, .bundles, .bundleSeq,
      .silt, .recorder, .flt, .idn, .outbox, .msis, .rep, .flc, .rf, .fab, .pwr, .sec]
  | .perstNDeassert _ _ _ _ | .pwrOkAssert _ _ => [.fns, .recorder, .flt, .idn, .msis, .pwr, .sec]
  | .powerFailRelease _ | .pmbAlert _ => [.engines, .fns, .silt, .recorder, .flt, .outbox, .msis, .rep, .fab, .pwr]
  | .firmwareStart _ _ _ _ =>
    [.tiles, .routers, .ltMap, .absent, .fns, .silt, .recorder, .flt, .idn, .outbox, .msis, .rep, .fab, .pwr, .sec]
  | .selfTestDone _ _ _ _ _ | .perstNAssert | .emergencyRelease =>
    [.tiles, .routers, .engines, .ltMap, .absent, .regions, .fns, .ctxs, .pageList, .basin, .poison, .bsn, .scans, .bundles,
      .bundleSeq, .silt, .recorder, .activeEpoch, .v0, .v1, .quiet, .flt, .idn, .msis, .orderNo, .rep, .rf, .fab, .pwr, .sec]
  | .zeroizeTimeout _ => [.tiles, .fns, .recorder, .flt, .msis, .rep]
  | .dieReset _ | .drainEscalation _ =>
    [.free, .tiles, .routers, .engines, .regions, .fns, .basin, .poison, .bsn, .scans, .bundles, .bundleSeq, .silt, .recorder,
      .flt, .idn, .outbox, .msis, .rep, .flc, .rf, .fab, .pwr]
  | .tileRouterReset _ | .scatterClose _ _ | .reorderAge _ | .cfgPacketRx _ _ _ => [.tiles, .routers]
  | .stepStart _ false => [.tiles, .regions, .fns, .ctxs, .outbox, .msis, .pwr]
  | .stepDrained _ | .stepFailRx _ | .stepTimerExpiry _ | .stepQueryRx _ | .queryWaitExpiry _ | .writePacketRx _ [] | .readReqRx _
    [] | .readDataRx _ [] | .msgPacketRx _ [] | .collPacketRx _ _ [] | .expertRowRx _ [] | .expertCloseRx _ [] | .shadowGapRx _ _
    =>
    [.free, .tiles, .routers, .engines, .regions, .fns, .basin, .poison, .bsn, .scans, .bundles, .bundleSeq, .recorder, .flt,
      .idn, .outbox, .msis, .rep, .flc, .rf, .pwr]
  | .writePacketRx _ (_ :: _) | .readReqRx _ (_ :: _) | .readDataRx _ (_ :: _) | .msgPacketRx _ (_ :: _) | .collPacketRx _ _ (_ ::
    _) | .expertRowRx _ (_ :: _) | .expertCloseRx _ (_ :: _) | .sparsify _ _ (_ :: _) | .scanOut _ _ (_ :: _) =>
    [.free, .tiles, .routers, .engines, .ltMap, .absent, .regions, .fns, .ctxs, .pageList, .basin, .poison, .bsn, .scans,
      .bundles, .bundleSeq, .silt, .recorder, .activeEpoch, .v0, .v1, .quiet, .flt, .idn, .outbox, .msis, .orderNo, .rep, .flc,
      .rf, .fab, .pwr, .sec]
  | .localConditionsMet _ false | .stepReadyRx _ | .stepQueryAnswerRx _ _ | .stepDigestRx _ _ _ | .shadowPromotion _ _ =>
    [.free, .tiles, .routers, .engines, .regions, .fns, .ctxs, .basin, .poison, .bsn, .scans, .bundles, .bundleSeq, .recorder,
      .flt, .idn, .outbox, .msis, .rep, .flc, .rf, .pwr]
  | .undeliveredResume _ => [.regions, .fns, .msis]
  | .queueStall _ _ => [.fns, .recorder, .flt, .msis, .rf]
  | .engineHang _ _ =>
    [.free, .tiles, .routers, .engines, .regions, .fns, .scans, .bundles, .bundleSeq, .recorder, .flt, .idn, .outbox, .msis, .rep,
      .flc, .rf, .pwr]
  | .fetchLine _ _ [] | .staleInstanceDiscard _ _ | .ceWriteback _ => [.tiles]
  | .fetchLine _ _ (_ :: _) | .matmul _ _ (_ :: _) _ | .matmul _ _ [] (_ :: _) | .elementwise _ _ (_ :: _) | .reduce _ _ (_ :: _)
    | .attnMerge _ _ (_ :: _) | .norm _ _ (_ :: _) | .softmax _ _ (_ :: _) | .rope _ _ (_ :: _) | .activate _ _ (_ :: _) | .topk _
    _ (_ :: _) | .merge _ _ (_ :: _) | .draw _ _ (_ :: _) | .convert _ _ (_ :: _) | .gate _ _ (_ :: _) | .combine _ _ (_ :: _) |
    .copy _ _ (_ :: _) | .put _ _ (_ :: _) | .storeLoad _ _ (_ :: _) | .scatter _ _ (_ :: _) | .gather _ _ (_ :: _) | .message _ _
    (_ :: _) | .contribute _ _ (_ :: _) | .verify _ _ (_ :: _) | .basinRead _ _ (_ :: _) _ | .basinRead _ _ [] (_ :: _) |
    .basinWrite _ _ (_ :: _) | .siltWrite _ _ (_ :: _) | .scrubRead _ _ | .scrubForced _ _ | .mergeEvict _ _ _ | .patrolScrub _ _
    _ _ _ | .nackRbRetry _ _ _ (_ :: _) | .retransmitTimeout _ _ _ (_ :: _) | .castlingCopyDone _ _ (_ :: _) =>
    [.tiles, .routers, .engines, .ltMap, .absent, .regions, .fns, .ctxs, .pageList, .basin, .poison, .bsn, .scans, .bundles,
      .bundleSeq, .silt, .recorder, .activeEpoch, .v0, .v1, .quiet, .flt, .idn, .outbox, .msis, .orderNo, .rep, .flc, .rf, .fab,
      .pwr, .sec]
  | .matmul _ _ [] [] | .elementwise _ _ [] | .reduce _ _ [] | .attnMerge _ _ [] | .norm _ _ [] | .softmax _ _ [] | .rope _ _ [] |
    .activate _ _ [] | .topk _ _ [] | .merge _ _ [] | .draw _ _ [] | .convert _ _ [] | .gate _ _ [] | .combine _ _ [] | .copy _ _
    [] | .put _ _ [] | .get _ _ | .storeLoad _ _ [] | .scatter _ _ [] | .gather _ _ [] | .scanIn _ _ | .wait _ _ | .reset _ _ |
    .message _ _ [] | .contribute _ _ [] | .controlNop _ _ | .endDesc _ _ | .fence _ _ | .clearValid _ _ | .zeroize _ _ =>
    [.tiles, .routers, .regions, .outbox]
  | .verify _ _ [] | .arrive _ _ => [.tiles, .routers, .regions, .fns, .recorder, .flt, .outbox, .msis]
  | .basinRead _ _ [] [] => [.tiles, .routers, .regions, .bsn, .outbox]
  | .basinWrite _ _ [] => [.tiles, .routers, .regions, .basin, .poison, .scans, .outbox]
  | .siltRead _ _ _ | .siltWrite _ _ [] => [.tiles, .routers, .regions, .fns, .silt, .recorder, .flt, .outbox, .msis]
  | .sparsify _ _ [] => [.free, .tiles, .routers, .regions, .outbox]
  | .scanOut _ _ [] => [.free, .tiles, .routers, .regions, .scans, .outbox]
  | .descriptorRetire _ _ _ => [.tiles, .routers, .regions, .fns, .recorder, .flt, .msis, .flc]
  | .shadowWrite _ _ => [.tiles, .regions, .basin, .poison, .bsn, .scans, .outbox]
  | .siltDataProgramsDone _ _ _ _ => [.free, .tiles, .regions, .fns, .silt, .recorder, .flt, .outbox, .msis]
  | .siltTxnCommit _ _ => [.tiles, .regions, .fns, .silt, .recorder, .flt, .outbox, .msis]
  | .siltRetentionRelocate _ _ | .siltWearRelocate _ | .siltChannelLost _ => [.fns, .silt, .recorder, .flt, .msis]
  | .packetForward _ _ _ _ _ | .foldBlockDone _ _ _ _ (some _) | .digestBlameRx _ _ _ _ =>
    [.tiles, .routers, .engines, .regions, .fns, .recorder, .flt, .idn, .outbox, .msis, .rep, .flc, .rf, .pwr]
  | .syncPacketRx _ => [.tiles, .routers, .fns, .recorder, .flt, .msis]
  | .ackRx _ | .nackRbRetry _ _ _ [] | .messageRetry _ _ | .retransmitTimeout _ _ _ [] | .flowXoffRx _ | .flowXonRx _ =>
    [.tiles, .routers, .engines]
  | .nackRx _ | .localSideOpen _ _ _ _ => [.tiles, .routers, .engines, .regions, .outbox]
  | .foldBlockDone _ _ _ _ none => [.engines]
  | .resultRelease _ _ _ _ => [.routers, .engines]
  | .gatewayIngress _ | .gatewayEgress _ => [.routers, .engines, .fab, .pwr]
  | .versionDrained _ => [.routers, .regions, .activeEpoch, .v0, .v1, .quiet, .fab]
  | .plannedFlip _ _ | .detourFlip => [.routers, .regions, .fns, .recorder, .activeEpoch, .v0, .v1, .quiet, .flt, .msis, .fab]
  | .rippleCfgWrite _ _ | .rippleFirmware _ _ | .rippleOperand _ _ | .rippleStepStart _ _ | .rippleEpochFlip _ _ |
    .rippleTableWrite _ _ =>
    [.tiles, .routers, .engines, .regions, .fns, .recorder, .activeEpoch, .v0, .v1, .quiet, .flt, .idn, .outbox, .msis, .rep,
      .flc, .rf, .fab, .pwr]
  | .flitDataRx _ _ _ _ | .flitIdleRx _ _ _ _ => [.engines, .fab]
  | .flitCrcFail _ _ | .mcBeatRx _ => [.fab]
  | .linkEventRx _ _ _ => [.fns, .rf, .fab, .pwr]
  | .fabricFlip => [.regions, .fns, .rf, .fab, .pwr]
  | .peerSilent _ => [.fns, .recorder, .flt, .msis, .fab]
  | .mcCoreWatchdog _ => [.fns, .recorder, .flt, .msis, .pwr]
  | .hostBeatMissed _ => [.regions, .fns, .recorder, .flt, .msis, .orderNo]
  | .prefixLookupRx _ _ => [.regions]
  | .prefixReplyRx _ _ false => [.ctxs, .outbox]
  | .pagePushRx _ _ false => [.tiles, .regions, .ctxs, .outbox]
  | .pageAckRx _ _ _ _ _ => [.regions, .outbox]
  | .commitNoticeRx _ _ false | .seqHandoffRx _ _ false | .handoffTimeout _ _ false | .handoffActivation _ _ false => [.ctxs]
  | .sequenceAdmission _ false => [.free, .regions, .fns, .ctxs, .pageList, .outbox, .msis, .pwr]
  | .sequenceRelease _ false => [.regions, .fns, .ctxs, .pageList, .msis, .pwr]
  | .graphSwitch _ [] => [.tiles, .regions, .fns, .bsn, .msis, .rf, .pwr]
  | .graphSwitch _ (_ :: _) => [.tiles, .regions, .fns, .bsn, .recorder, .flt, .idn, .outbox, .msis, .rep, .rf, .pwr]
  | .dvfsChange _ _ => [.regions, .pwr]
  | .basinHealing _ => [.regions, .fns, .basin, .poison, .bsn, .scans, .msis, .pwr]
  | .positionFailed _ => [.tiles, .regions, .idn, .outbox, .rep]
  | .castling _ => [.tiles, .routers, .absent, .regions, .fns, .recorder, .flt, .idn, .msis, .rep]
  | .castlingCopyDone _ _ [] => [.rep]
  | .rePlacement _ _ => [.tiles, .regions, .fns, .bsn, .recorder, .flt, .msis, .rf, .pwr]
  | .refillInPlace _ _ => [.tiles, .regions, .fns, .bsn, .recorder, .flt, .msis, .pwr]
  | .digestWalkStart _ => [.rf]
  | .digestWalkEnd _ =>
    [.tiles, .routers, .engines, .regions, .fns, .recorder, .flt, .idn, .outbox, .msis, .orderNo, .rep, .flc, .rf, .pwr]
  | .digestReportRx _ _ _ _ _ | .eventPost _ | .alarmDroppedReport _ | .floodWindowEnd | .extremeTick =>
    [.fns, .recorder, .flt, .msis]
  | .boundaryLogRx _ _ => [.regions, .orderNo, .rf]
  | .promoteRx _ _ _ _ _ => [.regions, .orderNo]
  | .promoteApply _ => [.regions, .fns, .msis, .rf, .pwr]
  | .instanceResetStart _ => [.free, .tiles, .regions, .fns, .scans, .bundles, .bundleSeq, .recorder, .flt, .outbox, .msis, .rf, .pwr]
  | .drainCounterZero _ =>
    [.tiles, .routers, .engines, .regions, .fns, .basin, .poison, .bsn, .scans, .bundles, .silt, .recorder, .flt, .idn, .outbox,
      .msis, .rep, .flc, .rf, .pwr]
  | .captureAbandon _ => [.tiles, .regions, .fns, .scans, .bundles, .silt, .recorder, .flt, .outbox, .msis, .rf]
  | .wellheadSample _ | .pwrOkFall =>
    [.tiles, .routers, .engines, .ltMap, .absent, .regions, .fns, .ctxs, .pageList, .basin, .poison, .bsn, .scans, .bundles,
      .bundleSeq, .silt, .recorder, .activeEpoch, .v0, .v1, .quiet, .flt, .idn, .outbox, .msis, .orderNo, .rep, .rf, .fab, .pwr,
      .sec]
  | .dvfsCapDecision _ => [.regions, .fns, .recorder, .flt, .msis, .orderNo, .pwr]
  | .dvfsRaiseDecision _ => [.regions, .orderNo, .pwr]
  | .scrubHeartbeatCheck _ _ _ => [.tiles, .bsn, .rf, .pwr]
  | .p1Entry _ | .p1Exit _ => [.tiles, .pwr]
  | .shadowSyncComplete _ _ _ _ => [.tiles, .regions, .ctxs, .pageList, .basin, .poison, .bsn, .scans, .rf]
  | .boundaryScanAccess _ => [.free, .tiles, .sec]
  | .trstNAssert => [.sec]
  | .vfEnableCleared => [.regions, .fns, .idn, .msis, .orderNo]
  | .powerFailAssert => [.tiles, .regions, .fns, .silt, .recorder, .flt, .outbox, .msis, .rep, .pwr]
  | .wellheadPowerOn =>
    [.now, .tiles, .routers, .engines, .ltMap, .absent, .regions, .fns, .ctxs, .pageList, .basin, .poison, .bsn, .scans, .bundles,
      .bundleSeq, .silt, .recorder, .activeEpoch, .v0, .v1, .quiet, .flt, .idn, .secsBase, .orderNo, .rep, .flc, .rf, .fab, .pwr,
      .sec]
  | .wellheadRailFall =>
    [.tiles, .routers, .engines, .ltMap, .absent, .regions, .fns, .ctxs, .pageList, .basin, .poison, .bsn, .scans, .bundles,
      .bundleSeq, .silt, .recorder, .activeEpoch, .v0, .v1, .quiet, .flt, .idn, .orderNo, .rep, .rf, .fab, .pwr, .sec]
  | .pmeTurnOff => [.regions, .fns, .silt, .recorder, .flt, .msis, .orderNo, .rep, .pwr]
  | .declareReady | .managementCoreRestartDone =>
    [.free, .tiles, .routers, .engines, .ltMap, .absent, .regions, .fns, .ctxs, .pageList, .basin, .poison, .bsn, .scans,
      .bundles, .bundleSeq, .silt, .recorder, .activeEpoch, .v0, .v1, .quiet, .flt, .idn, .outbox, .msis, .hostOut, .orderNo,
      .rep, .flc, .rf, .fab, .pwr, .sec]
  | .siltCheckpoint => [.silt]
  | .mcBeatTick => [.outbox, .fab]
  | .castlingComplete => [.tiles, .routers, .ltMap, .absent, .regions, .fns, .bsn, .recorder, .flt, .idn, .msis, .rep, .pwr]
  | .logTrickle => [.recorder]

end Sys2Proof.Machine
end

