-- ==== Sys2Proof/WellFormed.lean ====
section
/-! DEFINITION. Which commands are well formed: each unit that an operand names exists (R4, R7, R72, R303, Table 7.1), and a
mailbox header fits its fields (Table 11.7). -/

namespace Sys2Proof

/-! ## Units -/

/-- A logical tile, 0 to 575. -/
def isTile (lt : Nat) : Bool := decide (lt < 576)
/-- A physical position, 0 to 623. -/
def isPos (pos : Nat) : Bool := decide (pos < 624)
/-- A Tarn port, 0 to 11. -/
def isPort (port : Nat) : Bool := decide (port < 12)
/-- The PF, 0, or a VF, 1 to 16. -/
def isFunc (func : Nat) : Bool := decide (func < 17)
/-- A die, 0 to 3: with it its collective engine, gateway and Basin stack. -/
def isDie (die : Nat) : Bool := decide (die < 4)
/-- A tenant region, 0 to 15, or the firmware region 16. -/
def isRegion (r : Nat) : Bool := decide (r < 17)
/-- A tile's queue, 0 to 63. -/
def isQueue (q : Nat) : Bool := decide (q < 64)
/-- A device number of 12 bits. -/
def isDevice (dev : Nat) : Bool := decide (dev < 4096)
/-- A regulator on PMBus, 0 to 15. -/
def isRegulator (reg : Nat) : Bool := decide (reg < 16)
/-- A Silt channel, 0 to 15. -/
def isChannel (ch : Nat) : Bool := decide (ch < 16)
/-- A router's input port, VC and lane. -/
def isLane (port vc lane : Nat) : Bool := decide (port < 6) && decide (vc < 4) && decide (lane < 2)
/-- A logical tile, or the number under which the collective engine of a die sends. -/
def isEngineOrTile (lt : Nat) : Bool := isTile lt || (decide (0x3F8 ≤ lt) && decide (lt < 0x3FC))
/-- A port of a router with a link to a neighbour: north, east, south, west. -/
def isLink (pos port : Nat) : Bool :=
  (port == 1 && decide (26 ≤ pos)) || (port == 2 && decide (pos % 26 < 25)) || (port == 3 && decide (pos / 26 < 23)) ||
    (port == 4 && decide (0 < pos % 26))

/-! ## Operands with fields of their own -/

/-- A mailbox header: its function exists and each field fits. -/
def headerFits (h : CmdHdr) : Bool :=
  isFunc h.func && decide (h.seq < 2 ^ 16) && decide (h.tag < 2 ^ 16) && decide (h.region < 2 ^ 8) && decide (h.paramLen < 2 ^ 16)

/-- Where a DEBUG_UNLOCK block arrives. -/
def sourceFits : UnlockSrc → Bool
  | .mailbox h => headerFits h
  | .jtag => true

/-- A PLDM request that names a die names one that exists. -/
def pldmFits : PldmReq → Bool
  | .dieHottest d => isDie d
  | .vddTile d => isDie d
  | _ => true

/-- One past the last byte of a tile's address map (R72). -/
def spadBytes : Nat := 0x4000000

/-- A boundary-scan access that names a tile, an address or a die names one that exists. -/
def accessFits : JtagAccess → Bool
  | .writeState lt _ _ => isTile lt
  | .readMem lt addr => isTile lt && decide (addr + 64 ≤ spadBytes)
  | .writeMem lt addr data => isTile lt && decide (addr + data.length ≤ spadBytes)
  | .scan die => isDie die
  | _ => true

/-! ## Commands -/

/-- Whether a command is well formed. -/
def wellFormed : Instr → Bool
  | .nop h => headerFits h
  | .identify h => headerFits h
  | .functionConfig h _ _ _ => headerFits h
  | .vfQuota h _ => headerFits h
  | .functionDisable h _ => headerFits h
  | .functionEnable h _ => headerFits h
  | .deviceReset h _ => headerFits h
  | .systemSet h _ _ => headerFits h
  | .domainsSet h _ => headerFits h
  | .fabricRoutes h _ => headerFits h
  | .linkStateRead h _ => headerFits h
  | .linkStateEnable h _ => headerFits h
  | .linkStateDisable h _ => headerFits h
  | .linkStateRetrain h _ => headerFits h
  | .linkStateWriteCtl h _ _ => headerFits h
  | .telemetry h _ _ _ => headerFits h
  | .firmwareUpdateWrite h _ _ => headerFits h
  | .firmwareUpdatePrefer h => headerFits h
  | .firmwareUpdateAdvanceSvn h => headerFits h
  | .debugUnlockChallenge src => sourceFits src
  | .debugUnlockRaise src _ _ => sourceFits src
  | .debugUnlockLower src _ => sourceFits src
  | .debugUnlockLifecycle src _ _ => sourceFits src
  | .regionCreate h _ => headerFits h
  | .regionDestroy h => headerFits h
  | .imageWrite h _ _ _ _ => headerFits h
  | .loadImage h _ _ => headerFits h
  | .groupSet h _ _ _ _ => headerFits h
  | .run h _ _ => headerFits h
  | .stop h _ => headerFits h
  | .joinShadow h _ _ _ _ => headerFits h
  | .resetInstance h => headerFits h
  | .capture h _ => headerFits h
  | .captureRead h _ _ _ _ _ => headerFits h
  | .admitSequence h _ => headerFits h
  | .releaseSequence h _ => headerFits h
  | .queryProgressSequences h _ _ _ => headerFits h
  | .queryProgressRequest h _ => headerFits h
  | .queryProgressTile h _ => headerFits h
  | .siltOpen h _ => headerFits h
  | .siltDestroy h _ => headerFits h
  | .siltStatus h _ => headerFits h
  | .eventFetch h => headerFits h
  | .requestCompletion func _ => isFunc func
  | .registerWrite func _ _ _ => isFunc func
  | .mbxEvqCtlEnable func _ => isFunc func
  | .mbxEvqHeadWrite func _ => isFunc func
  | .evqModerationTimer func => isFunc func
  | .fltDevResetGo _ => true
  | .mshTelCtlClear pos => isPos pos
  | .trnPortCtlRetrain port => isPort port
  | .trnPortCtlEnSet port => isPort port
  | .spdmNegotiateAlgorithms _ _ => true
  | .spdmGetCertificate _ _ _ => true
  | .spdmChallenge _ _ => true
  | .spdmGetMeasurements _ _ => true
  | .pldmRequest req => pldmFits req
  | .vfFlr func => isFunc func
  | .pfFlrOrLinkDown _ => true
  | .functionDrainLimit func => isFunc func
  | .perstNDeassert _ _ speed width => decide (speed ≤ 6) && decide (width ≤ 16)
  | .pwrOkAssert _ _ => true
  | .powerFailGlitch _ => true
  | .powerFailRelease _ => true
  | .trnRefclkLoss die => isDie die
  | .pmbAlert _ => true
  | .pmbusPoll _ => true
  | .regulatorSilent reg => isRegulator reg
  | .wakeOnSignal port => isPort port
  | .firmwareStart _ _ pages _ => pages.all fun p => decide (p.1 < 128)
  | .selfTestDone _ _ _ _ _ => true
  | .zeroizeTimeout pos => isPos pos
  | .deviceResetEffect _ => true
  | .dieReset die => isDie die
  | .tileRouterReset pos => isPos pos
  | .stepStart r _ => isRegion r
  | .stepDrained r => isRegion r
  | .localConditionsMet r _ => isRegion r
  | .stepReadyRx _ => true
  | .undeliveredResume r => isRegion r
  | .stepFailRx _ => true
  | .stepTimerExpiry r => isRegion r
  | .stepQueryRx _ => true
  | .stepQueryAnswerRx _ _ => true
  | .queryWaitExpiry r => isRegion r
  | .queueStall lt q => isTile lt && isQueue q
  | .engineHang lt q => isTile lt && isQueue q
  | .fetchLine lt q _ => isTile lt && isQueue q
  | .staleInstanceDiscard lt q => isTile lt && isQueue q
  | .matmul lt q _ _ => isTile lt && isQueue q
  | .elementwise lt q _ => isTile lt && isQueue q
  | .reduce lt q _ => isTile lt && isQueue q
  | .attnMerge lt q _ => isTile lt && isQueue q
  | .norm lt q _ => isTile lt && isQueue q
  | .softmax lt q _ => isTile lt && isQueue q
  | .rope lt q _ => isTile lt && isQueue q
  | .activate lt q _ => isTile lt && isQueue q
  | .topk lt q _ => isTile lt && isQueue q
  | .merge lt q _ => isTile lt && isQueue q
  | .draw lt q _ => isTile lt && isQueue q
  | .verify lt q _ => isTile lt && isQueue q
  | .convert lt q _ => isTile lt && isQueue q
  | .gate lt q _ => isTile lt && isQueue q
  | .combine lt q _ => isTile lt && isQueue q
  | .copy lt q _ => isTile lt && isQueue q
  | .put lt q _ => isTile lt && isQueue q
  | .get lt q => isTile lt && isQueue q
  | .basinRead lt q _ _ => isTile lt && isQueue q
  | .basinWrite lt q _ => isTile lt && isQueue q
  | .siltRead lt q _ => isTile lt && isQueue q
  | .siltWrite lt q _ => isTile lt && isQueue q
  | .storeLoad lt q _ => isTile lt && isQueue q
  | .sparsify lt q _ => isTile lt && isQueue q
  | .scatter lt q _ => isTile lt && isQueue q
  | .scatterClose lt q => isTile lt && isQueue q
  | .gather lt q _ => isTile lt && isQueue q
  | .scanOut lt q _ => isTile lt && isQueue q
  | .scanIn lt q => isTile lt && isQueue q
  | .arrive lt q => isTile lt && isQueue q
  | .wait lt q => isTile lt && isQueue q
  | .reset lt q => isTile lt && isQueue q
  | .message lt q _ => isTile lt && isQueue q
  | .contribute lt q _ => isTile lt && isQueue q
  | .controlNop lt q => isTile lt && isQueue q
  | .endDesc lt q => isTile lt && isQueue q
  | .fence lt q => isTile lt && isQueue q
  | .clearValid lt q => isTile lt && isQueue q
  | .zeroize lt q => isTile lt && isQueue q
  | .descriptorRetire lt q _ => isTile lt && isQueue q
  | .scrubRead lt _ => isTile lt
  | .scrubForced lt _ => isTile lt
  | .ceWriteback lt => isTile lt
  | .mergeEvict lt _ _ => isTile lt
  | .shadowWrite lt _ => isTile lt
  | .patrolScrub stack _ _ _ _ => isDie stack
  | .siltDataProgramsDone _ _ _ _ => true
  | .siltTxnCommit _ _ => true
  | .siltRetentionRelocate _ _ => true
  | .siltWearRelocate _ => true
  | .packetForward pos port vc lane _ => isPos pos && isLane port vc lane
  | .ageDrop pos port vc lane => isPos pos && isLane port vc lane
  | .writePacketRx lt _ => isTile lt
  | .readReqRx lt _ => isTile lt
  | .readDataRx lt _ => isTile lt
  | .msgPacketRx lt _ => isTile lt
  | .syncPacketRx lt => isTile lt
  | .ackRx lt => isEngineOrTile lt
  | .nackRx lt => isEngineOrTile lt
  | .nackRbRetry lt _ _ _ => isEngineOrTile lt
  | .messageRetry lt _ => isEngineOrTile lt
  | .retransmitTimeout lt _ _ _ => isEngineOrTile lt
  | .reorderAge lt => isTile lt
  | .flowXoffRx lt => isEngineOrTile lt
  | .flowXonRx lt => isEngineOrTile lt
  | .cfgPacketRx pos _ _ => isPos pos
  | .collPacketRx die lt _ => isDie die && lt.all isTile
  | .localSideOpen die r _ _ => isRegion r && isDie die
  | .foldBlockDone die r _ _ _ => isRegion r && isDie die
  | .resultRelease die r _ _ => isRegion r && isDie die
  | .expertRowRx lt _ => isTile lt
  | .expertCloseRx lt _ => isTile lt
  | .gatewayIngress die => isDie die
  | .gatewayEgress die => isDie die
  | .linkDead pos port => isPos pos && isLink pos port
  | .versionDrained _ => true
  | .plannedFlip regions _ => regions.all isRegion
  | .rippleCfgWrite _ _ => true
  | .rippleOperand _ _ => true
  | .rippleStepStart _ _ => true
  | .rippleEpochFlip _ _ => true
  | .rippleTableWrite _ _ => true
  | .rippleFirmware _ _ => true
  | .flitDataRx port _ _ _ => isPort port
  | .flitIdleRx port _ _ _ => isPort port
  | .replayReqRx port _ _ _ => isPort port
  | .trainRx port _ => isPort port
  | .portIdleTimeout port => isPort port
  | .portDetectTimeout port => isPort port
  | .equaliseDone port _ => isPort port
  | .alignDone port _ _ => isPort port
  | .qualifyDone port _ => isPort port
  | .portLossOfSignal port => isPort port
  | .portErrorLimit port _ => isPort port
  | .portFailedRetry port => isPort port
  | .fabricPortReset port => isPort port
  | .linkEventRx dev _ _ => isDevice dev
  | .peerSilent dev => isDevice dev
  | .mcCoreWatchdog _ => true
  | .hostBeatMissed func => isFunc func
  | .prefixLookupRx r _ => isRegion r
  | .prefixReplyRx r _ _ => isRegion r
  | .pagePushRx r _ _ => isRegion r
  | .pageAckRx r _ _ _ _ => isRegion r
  | .commitNoticeRx r _ _ => isRegion r
  | .seqHandoffRx r _ _ => isRegion r
  | .handoffTimeout r _ _ => isRegion r
  | .handoffActivation r _ _ => isRegion r
  | .sequenceAdmission r _ => isRegion r
  | .sequenceRelease r _ => isRegion r
  | .graphSwitch r _ => isRegion r
  | .stopAtBoundary r => isRegion r
  | .dvfsChange die _ => isDie die
  | .basinHealing r => isRegion r
  | .positionFailed pos => isPos pos
  | .castling pos => isPos pos
  | .castlingCopyDone pos _ _ => isPos pos
  | .rePlacement r lt => isRegion r && isTile lt
  | .refillInPlace r lt => isRegion r && isTile lt
  | .digestBlameRx _ die _ _ => isDie die
  | .digestWalkStart r => isRegion r
  | .digestWalkEnd r => isRegion r
  | .digestReportRx r _ _ _ _ => isRegion r
  | .stepDigestRx r _ _ => isRegion r
  | .boundaryLogRx r _ => isRegion r
  | .shadowGapRx r _ => isRegion r
  | .shadowPromotion r _ => isRegion r
  | .promoteRx r _ _ _ _ => isRegion r
  | .promoteApply r => isRegion r
  | .instanceResetStart r => isRegion r
  | .drainCounterZero r => isRegion r
  | .drainEscalation r => isRegion r
  | .captureAbandon r => isRegion r
  | .wellheadSample _ => true
  | .dvfsCapDecision die => isDie die
  | .dvfsRaiseDecision die => isDie die
  | .scrubHeartbeatCheck basin idx _ => if basin then isDie idx else isPos idx
  | .p1Entry r => isRegion r
  | .p1Exit r => isRegion r
  | .eventPost _ => true
  | .alarmDroppedReport func => isFunc func
  | .portSignalDetect port => isPort port
  | .portStateBoundExpiry port => isPort port
  | .flitCrcFail port _ => isPort port
  | .busMasterEnableChange func _ vfs => isFunc func && decide (vfs.getD 0 ≤ 16)
  | .d3hotChange _ => true
  | .mcBeatRx dev => isDevice dev
  | .shadowSyncComplete r _ _ _ => isRegion r
  | .siltChannelLost ch => isChannel ch
  | .boundaryScanAccess a => accessFits a
  | .spdmGetVersion => true
  | .spdmGetCapabilities => true
  | .spdmGetDigests => true
  | .trstNAssert => true
  | .vfEnableCleared => true
  | .perstNAssert => true
  | .pwrOkFall => true
  | .powerFailAssert => true
  | .wellheadPowerOn => true
  | .wellheadRailFall => true
  | .pcieRefclkLoss => true
  | .coreRefclkLoss => true
  | .crystalLoss => true
  | .pmeTurnOff => true
  | .declareReady => true
  | .siltCheckpoint => true
  | .detourFlip => true
  | .fabricFlip => true
  | .mcBeatTick => true
  | .fwDead => true
  | .castlingComplete => true
  | .emergencyRelease => true
  | .secondsStore => true
  | .p2Entry => true
  | .p2Exit => true
  | .floodWindowEnd => true
  | .extremeTick => true
  | .logTrickle => true
  | .managementCoreRestartDone => true
  | .crystalStable => true

end Sys2Proof
end

