-- ==== Sys2Proof/Certificates/Slice0/Obligations.lean ====
section
/-! DEFINITION. The statements about this block for the provers, one for each group of rows and kind of state. -/

open Sys2Proof Sys2Proof.Machine

/-- A step runs the command at the front of the queue on the state with the queue's rest.
Rests also on the model's choices of assumption 1. -/
def Obligations.CommandsInTurn : Prop :=
  ∀ (c : Instr) (rest : List Instr) (s : State), s.pending = c :: rest → step s = exec c { s with pending := rest }

/-- With no command waiting one mesh cycle passes (the model's choice, assumption 2): time goes on by one, and only what the block
does by its clock alone can differ: the heartbeat of the control firmware among it (R313), what the Tarn ports send at a flit time
(TRAIN flits in training, what waits at an ACTIVE port, an IDLE flit where nothing waits: R244, R250, R253), and the data that
wait at Ripple's root, which issues one in every second cycle (R211).
Rests also on the model's choices of assumptions 2, 3. -/
def Obligations.IdleStepIsOneCycle : Prop :=
  ∀ s : State, s.pending = [] →
    (s.fab.rippleWait = [] → ∃ t, step s = .next t ∧ t.now = s.now + 1 ∧ Only [.now, .tiles, .routers, .engines, .flt, .fab] s t ∧
      t.flt = { s.flt with fwBeat := t.flt.fwBeat, beatAt := t.flt.beatAt } ∧
      (fwRuns s = true → s.flt.beatAt + cyclesPerMs ≤ s.now + 1 → t.flt.fwBeat = (s.flt.fwBeat + 1) % 2 ^ 32 ∧ t.flt.beatAt = s.now + 1) ∧
      (fwRuns s = false ∨ s.now + 1 < s.flt.beatAt + cyclesPerMs → t.flt = s.flt) ∧
      ((∀ e ∈ s.fab.ports, e.2.state ∈ [psOff, psEqualise, psAlign, psFailed]) → t.fab = s.fab) ∧
      (∀ p, (s.fab.ports.map (·.1)).Nodup →
        let a := portOf s p
        let b := portOf t p
        let flitTime := fun (rate : Nat) => flitNo rate (s.now + 1) ≠ flitNo rate s.now
        let sends := fun (typ : Nat) (data : List Byte) => ∃ f, b = { a with wire := a.wire ++ [f] } ∧ f.ftype = typ ∧ f.payload.take data.length = data
        (a.state ∈ [psIdle, psDetect] → (flitTime 0 → sends 3 (leBytes s.idn.deviceId 2 ++ leBytes p 1 ++ leBytes (ratesOf a) 1)) ∧
          (¬ flitTime 0 → b = a)) ∧
        (a.state ∈ [psNegotiate, psRetrain] → flitTime a.rate → sends 3 (leBytes s.idn.deviceId 2 ++ leBytes p 1 ++ leBytes (ratesOf a) 1)) ∧
        (a.state = psQualify → flitTime a.rate → sends 1 []) ∧
        (a.state = psActive → ¬ flitTime a.rate → b = a) ∧
        (a.state = psActive → a.txq = [] → flitTime a.rate → sends 1 []) ∧
        ∀ g, a.state = psActive → a.txq = [g] → flitTime a.rate →
          let st := streamOf g.pkt.vc g.flane
          let age := fageNow { s with now := s.now + 1 } g
          let bytes := fabBytes a.v1 { g with fage := age }
          let n := ceilDiv bytes.length 244
          st < 8 → bitOf a.txXoff st = false → sget (0, 0) a.txHead st = (0, 0) → age ≤ 1000 → a.held.length + n ≤ 1024 →
          b.txq = [] ∧ ∃ new, b.wire = a.wire ++ new ∧ b.held = a.held ++ new ∧ new.length = n ∧
            (new.flatMap (·.payload)).take bytes.length = bytes) ∧
      ∀ lt, (∀ e ∈ (tileOf s lt).expState, e.2.owed = false) → ∀ a, tileByte t lt a = tileByte s lt a) ∧
    ∀ x rest, s.fab.rippleWait = x :: rest → x.2.2 = [] → (∀ e ∈ s.routers, e.2.rippleFifo = 0 ∧ e.2.hold = false) →
      ∃ t, step s = .next t ∧ t.fab.rippleWait = if s.now % 2 = 1 then rest else x :: rest

/-- The invariant of the machine holds in the state right after reset.
Rests also on the model's choices of assumptions 10, 12. -/
def Obligations.InvariantAtReset : Prop :=
  Inv State.reset

/-- Every step keeps the invariant: Basin's canonical form, a device number of 12 bits, legal lifecycle, debug and FLT_STATE values,
and settings in their ranges (Tables 11.9, 11.10, 13.5, 15.5). -/
def Obligations.InvariantKeptByEveryStep : Prop :=
  ∀ s t : State, Inv s → step s = .next t → Inv t

/-- No step takes back what is fused (R392, R399, Table 15.3): from every state whatever, the lifecycle state and the security version
never fall, and keys, revocations, the serial number and the factory repairs never change. -/
def Obligations.FusesNeverTakenBack : Prop :=
  ∀ s t : State, step s = .next t → Fused s t

/-- Every well-formed command completes in every state; what stops a command is only a unit that does not exist (R4, R5, R302), and
for the rows that name a tile, a position, a port, a function or a region it does so beyond the last one.
Rests also on the model's choices of assumption 5. -/
def Obligations.CommandsComplete : Prop :=
  (∀ (c : Instr) (s : State), wellFormed c = true → ∃ t, exec c s = .next t) ∧
  (∀ (c : Instr) (s : State), (∃ t, exec c s = .next t) ∨ exec c s = .fault .noSuchUnit) ∧
  ∀ (s : State) (k : Nat),
    (576 ≤ k → exec (.ceWriteback k) s = .fault .noSuchUnit ∧ exec (.msgPacketRx k) s = .fault .noSuchUnit) ∧
    (624 ≤ k → exec (.positionFailed k) s = .fault .noSuchUnit ∧ exec (.tileRouterReset k) s = .fault .noSuchUnit) ∧
    (12 ≤ k → exec (.portIdleTimeout k) s = .fault .noSuchUnit ∧ exec (.flitCrcFail k) s = .fault .noSuchUnit) ∧
    (17 ≤ k → exec (.vfFlr k) s = .fault .noSuchUnit ∧ exec (.stepStart k) s = .fault .noSuchUnit)

/-- Frames: a command that completes changes no part of the state beyond those listed for it; the queue is in no list. -/
def Obligations.CommandsChangeOnlyTheirParts : Prop :=
  ∀ (c : Instr) (s t : State), exec c s = .next t → Only (mayChange c) s t

/-- R70: the bank of a scratchpad address is the exclusive OR of four of its fields; and for one row the lines map to banks one to
one. -/
def Obligations.BankOfAddress : Prop :=
  (∀ a : BitVec 26, bankOf a.toNat =
    (a.extractLsb' 9 5 ^^^ a.extractLsb' 14 5 ^^^ a.extractLsb' 19 5 ^^^ (0#3 ++ a.extractLsb' 24 2)).toNat) ∧
  ∀ a b : Nat, a < spadEnd → b < spadEnd → rowOf a = rowOf b → bankOf a = bankOf b → a / 512 = b / 512

/-- R4 and the map of R7 with no spare consumed: the die of a position (px, py), the spare columns, and where the logical tiles stand
after reset.
Rests also on the model's choices of assumption 12. -/
def Obligations.PositionsAndDies : Prop :=
  (∀ px py, px < 26 → py < 24 → dieOfPos (26 * py + px) = (if 13 ≤ px then 1 else 0) + (if 12 ≤ py then 2 else 0)) ∧
  (∀ px py, px < 26 → py < 24 → (ltAt State.reset (26 * py + px) = 0x3FF ↔ px = 12 ∨ px = 25)) ∧
  (∀ row ∈ allRows, sparePos row = 26 * row.2 + 12 ∨ sparePos row = 26 * row.2 + 25) ∧
  ∀ x y, x < 24 → y < 24 → posOf State.reset (24 * y + x) = 26 * y + (if x < 12 then x else x + 1)

/-- The scratchpad of a tile (R83, R85 to R92, R271, Table 3.6): a write of any range is read back through the merge buffer and every
other byte reads as before, a drain changes no byte, an invalid word reads zero, a clear and a zeroising write leave zeros in
their lines alone; each keeps the form of the merge buffer, which an empty scratchpad has. A written word of a window joins its
line of the shadow queue, which holds at most 128 lines, or waits in turn for room (R271).
Rests also on the model's choices of assumption 13. -/
def Obligations.ScratchpadReadsBack : Prop :=
  spadWf spadEmpty = true ∧
  (∀ (sp : Spad) (a x : Nat) (l : List Byte), spadWf sp = true → spadWf (spadWrite sp a l) = true ∧
    spadByte (spadWrite sp a l) x = if a ≤ x ∧ x < a + l.length then l.getD (x - a) 0 else spadByte sp x) ∧
  (∀ (sp : Spad) (x : Nat), spadWf sp = true → spadWf (spadDrain sp) = true ∧ spadByte (spadDrain sp) x = spadByte sp x) ∧
  (∀ (sp : Spad) (x : Nat), x / 64 ∉ sp.valid → (∀ e ∈ sp.mb, e.word ≠ x / 64) → spadByte sp x = 0) ∧
  (∀ (sp : Spad) (a n x : Nat), spadWf sp = true → a % 512 = 0 → spadWf (spadClear sp a n) = true ∧
    spadByte (spadClear sp a n) x = if a ≤ x ∧ x < a + 512 * n then 0 else spadByte sp x) ∧
  (∀ (sp : Spad) (a n x : Nat), spadWf sp = true → a % 512 = 0 → spadWf (spadZeroize sp a n) = true ∧
    spadByte (spadZeroize sp a n) x = (if a ≤ x ∧ x < a + 512 * n then 0 else spadByte sp x) ∧
    (a ≤ x → x < a + 512 * n → memRd (spadZeroize sp a n).mem x = 0 ∧ x / 64 ∉ (spadZeroize sp a n).valid)) ∧
  (∀ (sp : Spad) (w x : Nat) (data : List Byte),
    let q := shadowCopy sp w data
    let known := ∃ e ∈ sp.sq, e.line = 512 * (w / 8)
    spadByte q x = spadByte sp x ∧ (sp.sq.length ≤ 128 → q.sq.length ≤ 128) ∧ (shadowWin sp w = none → q = sp) ∧
    (shadowWin sp w ≠ none → sp.sqWait = [] → known ∨ sp.sq.length < 128 →
      q.sqWait = [] ∧ ∃ e ∈ q.sq, e.line = 512 * (w / 8) ∧ (w % 8, data) ∈ e.words) ∧
    (shadowWin sp w ≠ none → sp.sqWait ≠ [] ∨ ¬ known ∧ 128 ≤ sp.sq.length → q.sq = sp.sq ∧ q.sqWait = sp.sqWait ++ [(w, data)]))

/-- Basin as a memory (R89's form apart: every byte nothing has written reads zero, the model's choice, assumption 13): a write is
read back, every other byte stays, zeroising clears, the canonical form is kept, and two memories of that form with equal bytes
are equal.
Rests also on the model's choices of assumption 13. -/
def Obligations.BasinReadsBack : Prop :=
  (∀ (m : List Host.Cell) (a x : Nat) (l : List Byte), memWf m = true → memWf (memWrL m a l) = true ∧
    memRd (memWrL m a l) x = if a ≤ x ∧ x < a + l.length then l.getD (x - a) 0 else memRd m x) ∧
  (∀ (m : List Host.Cell) (a n x : Nat), memWf m = true → memWf (memZero m a n) = true ∧
    memRd (memZero m a n) x = if a ≤ x ∧ x < a + n then 0 else memRd m x) ∧
  (∀ m k : List Host.Cell, memWf m = true → memWf k = true → (∀ x, memRd m x = memRd k x) → m = k) ∧
  memWf State.reset.basin = true

/-- The bytes of a packet on a port are read back (R244, Tables 7.3, 9.4 and 9.5): a stream that starts with the fabric bytes in
front, the header and the payload of a packet whose fields fit their widths gives that packet, with every field, and goes on with
the bytes behind it; and a flit of 256 bytes is read back with every field of its header.
Rests also on the model's choices of assumption 37. -/
def Obligations.PortBytesRoundTrip : Prop :=
  (∀ f : Flit, f.ftype < 8 → f.vc < 4 → f.flane < 2 → f.seq < 4096 → f.ackSeq < 4096 → f.firstOff < 256 → f.xoff < 256 → f.version < 16 →
    f.payload.length = 244 → readFlit (flitBytes f) = some f) ∧
  ∀ (v1 : Bool) (port lane n : Nat) (f : FabPacket) (rest : List Byte),
    f.pver = (if v1 then 1 else 2) → f.destDev < 4096 → f.fage < 1024 → f.fhops < 64 →
    (if v1 then f.destInc = 0 ∧ f.srcInc = 0 else f.destInc < 2 ^ 16 ∧ f.srcInc < 2 ^ 16) →
    f.pkt.typ < 16 → f.pkt.vc < 4 → f.pkt.epoch < 2 → f.pkt.region < 32 → f.pkt.gen < 8 → f.pkt.dstKind < 4 → f.pkt.dst < 1024 →
    f.pkt.srcLt < 1024 → f.pkt.srcDev < 4096 → f.pkt.flow < 16 → f.pkt.transfer < 2 ^ 16 → f.pkt.seq < 2 ^ 16 → f.pkt.chan < 2 →
    f.pkt.len = f.pkt.payload.length → f.pkt.len < 8192 → f.pkt.dstAddr < 2 ^ 26 → f.pkt.injTime < 2 ^ 16 → f.pkt.hops < 64 →
    f.pkt.port = 0 → f.pkt.got = 0 →
      parseStream v1 port lane (n + 1) (fabBytes v1 f ++ rest) =
        ({ f with port := port, flane := lane, epoch := 0, since := 0, at_ := 0 } :: (parseStream v1 port lane n rest).1, (parseStream v1 port lane n rest).2)

/-- R190: a router discards and counts a packet older than 31,250 units of mesh time, and one whose HOPS would exceed 63 (the counters
stand still while MSH_TEL_CTL holds them, Table 7.14); nothing is sent back: no other lane, router, tile inbox or engine changes. -/
def Obligations.RouterDropsOldPackets : Prop :=
  ∀ (s : State) (pos port vc lane : Nat) (p : Packet) (rest : List Packet), pos < 624 → laneOk port vc lane = true →
    sget [] (routerOf s pos).bufs (laneKey port vc lane) = p :: rest →
    p.injTime < 2 ^ 16 →
    let r := routerOf s pos
    let dropped := fun (t : State) (c : RCnt) => 
      (∃ more, sget [] (routerOf t pos).bufs (laneKey port vc lane) = rest ++ more ∧
        ((∀ e ∈ r.outbox, e.1 ≠ laneKey port vc lane) → more = [])) ∧
      sget 0 (routerOf t pos).cnts c.ctorIdx =
        (if bitOf r.telCtl 1 then sget 0 r.cnts c.ctorIdx else satAdd (sget 0 r.cnts c.ctorIdx) 1 32) ∧ (routerOf t pos).inbox = r.inbox ∧
      (∀ k, k ≠ laneKey port vc lane → sget [] (routerOf t pos).bufs k = sget [] r.bufs k) ∧
      (∀ k, k ≠ pos → routerOf t k = routerOf s k) ∧ Only [.routers] s t
    (31250 < ((meshTime s : Int) - p.injTime) % 2 ^ 16 → ∃ t, exec (.ageDrop pos port vc lane) s = .next t ∧ dropped t .ageDrop) ∧
    (((meshTime s : Int) - p.injTime) % 2 ^ 16 ≤ 31250 → exec (.ageDrop pos port vc lane) s = .next s) ∧
    ∀ q l, r.alive = true → regionForeign r p = false → routeHead s pos r p lane = .go [(q, l)] → 1 ≤ q → q ≤ 4 → 63 < p.hops + 1 →
      headGranted s r (readyHeads s pos r) (laneKey port vc lane, p, [(q, l)]) = true → linkTo pos q ≠ none →
      ∃ t, exec (.packetForward pos port vc lane) s = .next t ∧ dropped t .hopDrop

/-- A router's rows (R184 to R196, R205, R209): the head of a lane waits, is dropped and counted, or crosses to the neighbour or to
the tile; the age drop; a link found dead, of which the control firmware holds the report (R205); and a configuration packet, one
that waits or one that the control firmware sends, with the correctable-error counts and threshold it writes (R95).
Rests also on the model's choices of assumptions 3, 4, 33. -/
def Obligations.MeshRowsTakeEffect : Prop :=
  (∀ (s : State) (pos port vc lane : Nat), pos < 624 → laneOk port vc lane = true →
    let r := routerOf s pos
    let k := laneKey port vc lane
    let counted := fun (t : State) (c : RCnt) => sget 0 (routerOf t pos).cnts c.ctorIdx =
      if bitOf r.telCtl 1 then sget 0 r.cnts c.ctorIdx else satAdd (sget 0 r.cnts c.ctorIdx) 1 32
    let left := fun (u : State) (rest : List Packet) => ∃ more, sget [] (routerOf u pos).bufs k = rest ++ more ∧
      ((∀ e ∈ r.outbox, e.1 ≠ k) → more = [])
    let charged := fun (u : State) (c : RCnt) (rest : List Packet) => left u rest ∧ counted u c ∧
      Only [.routers, .recorder, .flt, .fns, .msis] s u ∧ ∀ n, n ≠ pos → routerOf u n = routerOf s n
    (sget [] r.bufs k = [] ∨ r.alive = false → exec (.packetForward pos port vc lane) s = .next s) ∧
    (∀ bit, exec (.packetForward pos port vc lane (some (.ce bit))) s =
      exec (.packetForward pos port vc lane) (updRouter s pos fun r => countR r .flitCe 1)) ∧
    ∀ p rest, sget [] r.bufs k = p :: rest →
      (r.alive = true → ∃ u, exec (.packetForward pos port vc lane (some .ue)) s =
        .next (chargeRouter u pos port 0x05 (port * 2 + lane)) ∧ charged u .flitUe rest) ∧
      (r.alive = true → regionForeign r p = true → regionStale s r p = false → ∃ u, exec (.packetForward pos port vc lane) s =
        .next (chargeRouter u pos port 0x05 (port * 2 + lane)) ∧ charged u .regionDrop rest) ∧
      (r.alive = true → regionForeign r p = true → regionStale s r p = true → ∃ t, exec (.packetForward pos port vc lane) s = .next t ∧
        Only [.routers] s t ∧ left t rest ∧ counted t .regionDrop) ∧
      (r.alive = true → regionForeign r p = false →
        (routeHead s pos r p lane = .wait → exec (.packetForward pos port vc lane) s = .next s) ∧
        (∀ c, c ≠ .noRoute → routeHead s pos r p lane = .drop c → ∃ t, exec (.packetForward pos port vc lane) s = .next t ∧
          Only [.routers] s t ∧ left t rest ∧ counted t c) ∧
        (∀ q l, routeHead s pos r p lane = .go [(q, l)] → headGranted s r (readyHeads s pos r) (k, p, [(q, l)]) = true →
          (q = 0 → p.dstKind = 0 → s.absent.contains p.dst = false) →
          ∃ t, exec (.packetForward pos port vc lane) s = .next t ∧ left t rest ∧
            (∀ n, linkTo pos q = some n → p.hops < 63 → (routerOf s n.1).alive = true →
              sget [] (routerOf t n.1).bufs (laneKey n.2 p.vc l) =
                sget [] (routerOf s n.1).bufs (laneKey n.2 p.vc l) ++ [{ p with hops := p.hops + 1 }]) ∧
            (q = 0 → p.gen = (tileAtPos s pos).gen → (routerOf t pos).inbox = r.inbox ++ [{ p with port := port, got := s.now }]))) ∧
      (31250 < ageOf s p → ∃ t, exec (.ageDrop pos port vc lane) s = .next t ∧ Only [.routers] s t ∧
        left t rest ∧ counted t .ageDrop) ∧
      (ageOf s p ≤ 31250 → exec (.ageDrop pos port vc lane) s = .next s)) ∧
  (∀ (s : State) (pos port : Nat), pos < 624 → linkTo pos port ≠ none → ∃ t, exec (.linkDead pos port) s = .next t ∧
    routerOf t pos = { routerOf s pos with dead := setIns port (routerOf s pos).dead } ∧
    (∀ k, k ≠ pos → routerOf t k = routerOf s k) ∧ Only [.routers, .fab] s t ∧
    t.fab = { s.fab with linkReports := if (pos, port) ∈ s.fab.linkReports then s.fab.linkReports else s.fab.linkReports ++ [(pos, port)] }) ∧
  (∀ (s : State) (pos : Nat), pos < 624 →
    (∀ reg a (l : List Byte), (routerOf s pos).alive = false → exec (.cfgPacketRx pos reg (some (a, l))) s = .next s) ∧
    (∀ a (l : List Byte), a < 2 ^ 26 → l.length < 2 ^ 8 → (routerOf s pos).alive = true → spadWf (tileAtPos s pos).spad = true →
      (∃ t, exec (.cfgPacketRx pos none (some (a, l))) s = .next t ∧ (ctlWindow ≤ a → spadRead (tileAtPos t pos).spad a l.length = l) ∧
        (∀ b, a < ctlWindow ∨ b < a ∨ a + l.length ≤ b → spadByte (tileAtPos t pos).spad b = spadByte (tileAtPos s pos).spad b) ∧
        (∀ k, k ≠ pos → tileAtPos t k = tileAtPos s k) ∧ Only [.tiles] s t) ∧
      (∀ bank, ∃ t, exec (.cfgPacketRx pos (some (.ceCount bank)) (some (a, l))) s = .next t ∧
        tileAtPos t pos = { tileAtPos s pos with ceBank := sset 0 (tileAtPos s pos).ceBank bank 0 } ∧ Only [.tiles] s t) ∧
      ∃ t, exec (.cfgPacketRx pos (some .ceThreshold) (some (a, l))) s = .next t ∧
        tileAtPos t pos = { tileAtPos s pos with ceThreshold := ofLe (l.take 2) % 2 ^ 12 } ∧ Only [.tiles] s t) ∧
    (takeInbox s pos (fun p => p.typ == tCfg) = none → exec (.cfgPacketRx pos) s = .next s) ∧
    ∀ p u, takeInbox s pos (fun p => p.typ == tCfg) = some (p, u) → spadWf (tileAtPos s pos).spad = true →
      let a := fld p.transport.toNat 230 26
      let l := p.payload.take (fld p.transport.toNat 222 8)
      ∃ t, exec (.cfgPacketRx pos) s = .next t ∧ t.routers = u.routers ∧
        (ctlWindow ≤ a → spadRead (tileAtPos t pos).spad a l.length = l) ∧
        (∀ b, a < ctlWindow ∨ b < a ∨ a + l.length ≤ b → spadByte (tileAtPos t pos).spad b = spadByte (tileAtPos s pos).spad b) ∧
        (∀ k, k ≠ pos → tileAtPos t k = tileAtPos s k) ∧
        (∀ v i, v < 2 → i < 640 →
          (verState s v = .writable → ∃ t, exec (.cfgPacketRx pos (some (.entry v i))) s = .next t ∧
            (routeEntry (routerOf t pos) v i).toNat = ofLe (l.take 4) % 2 ^ 32 / 2 ^ 15 * 2 ^ 15) ∧
          (verState s v ≠ .writable → exec (.cfgPacketRx pos (some (.entry v i))) s = .next u)) ∧
        (∃ t, exec (.cfgPacketRx pos (some .telCtl)) s = .next t ∧ (∀ b, b = 1 ∨ b = 2 →
            bitOf (routerOf t pos).telCtl b = bitOf (ofLe (l.take 4)) b) ∧
          (bitOf (ofLe (l.take 4)) 0 = true → ∀ c : RCnt, sget 0 (routerOf t pos).cnts c.ctorIdx = 0)) ∧
        ∃ t, exec (.cfgPacketRx pos (some .inUse)) s = .next t ∧ (tileAtPos t pos).inUse = bitOf (ofLe (l.take 4)) 0)

/-- Route versions and Ripple data (R194, R202 to R204, R211 to R213, Table 7.9): a version drains, a verified version takes over at
once or after a quiet flip, one that fails or of which a table datum still waits is not taken, and entries that lead out of a
tenant's footprint are no longer valid (R209); what each Ripple datum writes, that every working router's FIFO takes it, and that
data wait at a stopped root.
Rests also on the model's choices of assumptions 4, 43, 88. -/
def Obligations.RouteFlipRowsTakeEffect : Prop :=
  (∀ (s : State) (v : Nat), v < 2 → s.quiet = false → verState s v = .draining → inFlight s v = 0 →
    ∃ t, exec (.versionDrained false) s = .next t ∧ verState t v = .writable ∧ t.activeEpoch = s.activeEpoch ∧ Only [.v0, .v1] s t) ∧
  (∀ (s : State) (c : Instr), s.quiet = false →
    (c = .detourFlip ∧ detourOk s = true ∨ (∃ rs, c = .plannedFlip rs true ∧ (∀ r ∈ rs, r < 17) ∧ flipTime s rs = true ∧
      ∀ r ∈ changedRegions s, r ∈ rs)) →
    (verState s (otherVer s) = .writable ∨ verState s (otherVer s) = .ready →
      let w := confineVersion s (otherVer s)
      (∀ x ∈ s.fab.rippleWait, x.1 ≠ .tableWrite) →
      (s.absent = [] → versionBad w (otherVer s) = [] → unionOk w = true → ∃ t, exec c s = .next t ∧ t.activeEpoch = !s.activeEpoch ∧
        t.quiet = false ∧ verState t (otherVer s) = .active ∧ verState t (activeVer s) = .draining ∧ t.routers = w.routers ∧
        t.fab = { s.fab with linkReports := [] }) ∧
      (s.absent = [] → versionBad w (otherVer s) = [] → unionOk w = false → ∃ t, exec c s = .next t ∧ t.activeEpoch = s.activeEpoch ∧
        t.quiet = true ∧ verState t (otherVer s) = .ready ∧ t.routers = w.routers ∧ t = quietEvent { setVer w (otherVer s) .ready with quiet := true }) ∧
      (s.absent = [] → versionBad w (otherVer s) ≠ [] → ∃ t, exec c s = .next t ∧ t.activeEpoch = s.activeEpoch ∧ t.quiet = false ∧
        verState t (otherVer s) = verState s (otherVer s) ∧
        ∀ pos, ∀ i ∈ versionBad w (otherVer s), reValid (routeEntry (routerOf t pos) (otherVer s) i) = false) ∧
      ∃ t, exec c s = .next t ∧ (∀ pos, ∀ i ∈ s.absent, reValid (routeEntry (routerOf t pos) (otherVer s) i) = false) ∧
        ∀ pos i, (routerOf s pos).region < 16 → i < 576 → (routerOf s (posOf s i)).region = (routerOf s pos).region →
          staysInside s pos i (routeEntry (routerOf s pos) (otherVer s) i) = false →
          reValid (routeEntry (routerOf t pos) (otherVer s) i) = false) ∧
    ((∃ x ∈ s.fab.rippleWait, x.1 = .tableWrite) → exec c s = .next s) ∧
    (verState s (otherVer s) = .active ∨ verState s (otherVer s) = .draining → exec c s = .next s)) ∧
  (∀ s : State,
    (s.quiet = true ∨ detourOk s = false → exec .detourFlip s = .next s) ∧
    ∀ rs union, (∀ r ∈ rs, r < 17) → (s.quiet = true ∨ flipTime s rs = false ∨ ∃ r ∈ changedRegions s, r ∉ rs) →
      exec (.plannedFlip rs union) s = .next s) ∧
  (∀ (s : State) (d : Ripple) (ue : List Nat), rootStopped s = true ∨ s.fab.rippleWait ≠ [] →
    ∀ x ∈ [(Instr.rippleCfgWrite d ue, RippleKind.cfgWrite), (.rippleFirmware d ue, .firmware), (.rippleOperand d ue, .operand),
      (.rippleStepStart d ue, .stepStart), (.rippleEpochFlip d ue, .epochFlip), (.rippleTableWrite d ue, .tableWrite)],
      exec x.1 s = .next { s with fab := { s.fab with rippleWait := s.fab.rippleWait ++ [(x.2, d, ue)] } }) ∧
  (∀ (s : State) (d : Ripple), rootStopped s = false → s.fab.rippleWait = [] →
    let u := (rippleTake s d []).2
    (detourOk u = true → exec (.rippleEpochFlip d []) s = exec .detourFlip u) ∧
    (detourOk u = false → (∀ r ∈ changedRegions u, r < 17) →
      exec (.rippleEpochFlip d []) s = exec (.plannedFlip (changedRegions u) true) u)) ∧
  (∀ (s : State) (d : Ripple), d.position < 624 → (routerOf s d.position).alive = true → rootStopped s = false → s.fab.rippleWait = [] →
    spadWf (tileAtPos s d.position).spad = true →
    let r := routerOf s d.position
    let n := r.rippleFifo - (s.now - r.fifoAt) + 1
    let wrote := fun (t : State) => spadRead (tileAtPos t d.position).spad d.addr 64 = padTo d.data 64 ∧
      (∀ k, k ≠ d.position → (tileAtPos t k).spad = (tileAtPos s k).spad) ∧
      ∀ b, b < d.addr ∨ d.addr + 64 ≤ b → spadByte (tileAtPos t d.position).spad b = spadByte (tileAtPos s d.position).spad b
    let held := fun (t : State) => (routerOf t d.position).rippleFifo = n ∧ (routerOf t d.position).fifoAt = s.now ∧
      (64 ≤ n → (routerOf t d.position).hold = true) ∧ (n ≤ 32 → (routerOf t d.position).hold = false) ∧
      ∀ k, k < 624 → k ≠ d.position →
        routerOf t k = if (routerOf s k).alive then ripplePush s.now (routerOf s k) else routerOf s k
    (ctlWindow ≤ d.addr → (∃ t, exec (.rippleCfgWrite d []) s = .next t ∧ wrote t ∧ held t ∧ Only [.tiles, .routers] s t) ∧
      ∃ t, exec (.rippleFirmware d []) s = .next t ∧ wrote t ∧ held t ∧ Only [.tiles, .routers] s t) ∧
    (d.addr < ctlWindow → (∃ t, exec (.rippleCfgWrite d []) s = .next t ∧ held t ∧ Only [.routers] s t) ∧
      ∃ t, exec (.rippleFirmware d []) s = .next t ∧ held t ∧ Only [.routers] s t) ∧
    (d.addr + 64 ≤ 0x3800000 → d.arriveEn = false → ∃ t, exec (.rippleOperand d []) s = .next t ∧ wrote t ∧ held t ∧
      Only [.tiles, .routers] s t) ∧
    (∃ t, exec (.rippleStepStart d []) s = .next t ∧ held t ∧ Only [.routers] s t) ∧
    (∀ g, regionOf s r.region = some g → inStep g = true → s.flc.classify = 0 → ∃ t h,
      exec (.rippleStepStart d [d.position]) s = .next t ∧ regionOf t r.region = some h ∧ h.failed = true ∧
      (∃ c ∈ (rfOf t r.region).charges, c.key = posKey 6 d.position 0 ∧ c.sigClass = 0x06) ∧ routerOf t d.position = r) ∧
    (∃ t, exec (.rippleTableWrite d [d.position]) s = .next t ∧ t.fab.rippleWait = [(.tableWrite, d, [])] ∧ routerOf t d.position = r) ∧
    (verState s (d.version % 2) = .writable → ∀ i, i < 16 → d.addr / 16 + i < 640 → ∃ t, exec (.rippleTableWrite d []) s = .next t ∧
      (routeEntry (routerOf t d.position) (d.version % 2) (d.addr / 16 + i)).toNat =
        ofLe (sliceBytes d.data (4 * i) 4) % 2 ^ 32 / 2 ^ 15 * 2 ^ 15 ∧ held t ∧ Only [.routers] s t) ∧
    (verState s (d.version % 2) ≠ .writable → ∃ t, exec (.rippleTableWrite d []) s = .next t ∧ held t ∧ Only [.routers] s t))

/-- Packets at a tile (R197 to R201, R219 to R226, Tables 7.4, 8.2, 8.3): a whole WRITE lands, is remembered and acknowledged; a
duplicate is answered by what was stored; a landing that is not allowed, a stale and an early packet are refused; READ_REQ,
READ_DATA, messages and SYNC.
Rests also on the model's choices of assumptions 4, 38, 40. -/
def Obligations.PacketRowsTakeEffect : Prop :=
  (∀ (s u : State) (c : Instr) (lt : Nat) (p : Packet), lt < 576 →
    (c = .writePacketRx lt ∧ Takes s lt (fun p => p.typ == tWrite) p u ∨
      c = .readReqRx lt ∧ Takes s lt (fun p => p.typ == tReadReq) p u ∨
      c = .readDataRx lt ∧ Takes s lt (fun p => p.typ == tReadData) p u ∨
      c = .msgPacketRx lt ∧ Takes s lt (fun p => p.typ == tMsg && (expertRecOf (tileOf s lt) p).isNone) p u) →
    (∀ o, stepVerdict s (tileRegion (tileOf s lt)) p = .ok → closedOf (tileOf s lt) (pktKey p) = some o → ∃ t, exec c s = .next t ∧
      Answers u t lt p (if o = 0 then tAck else tNack) o ∧ ∀ a, tileByte t lt a = tileByte s lt a) ∧
    (stepVerdict s (tileRegion (tileOf s lt)) p = .ok → closedOf (tileOf s lt) (pktKey p) = none → rxOf (tileOf s lt) (pktKey p) = none →
      landBad (tileOf s lt) p = true → (p.typ = tMsg → bitOf p.transport.toNat 237 = false) → ∃ t, exec c s = .next t ∧
        Remembers t lt p 0x0D ∧ Answers u t lt p tNack 0x0D ∧ ∀ a, tileByte t lt a = tileByte s lt a) ∧
    (stepVerdict s (tileRegion (tileOf s lt)) p = .stale → ∃ t, exec c s = .next t ∧ Answers u t lt p tNack 0x08 ∧
      ∀ a, tileByte t lt a = tileByte s lt a) ∧
    (stepVerdict s (tileRegion (tileOf s lt)) p = .early false → ∃ t, exec c s = .next t ∧ Answers u t lt p tNack 0x09 ∧
      ∀ a, tileByte t lt a = tileByte s lt a) ∧
    (∀ g, regionOf s (tileRegion (tileOf s lt)) = some g → atBoundary g = false →
      stepVerdict s (tileRegion (tileOf s lt)) p = .early true → ∃ t, exec c s = .next t ∧ Discarded s t (tileRegion (tileOf s lt)) g) ∧
    (FreshWhole s lt p → spadWf (tileOf s lt).spad = true →
      (c = .writePacketRx lt → ∃ t, exec c s = .next t ∧ Remembers t lt p 0 ∧ Answers u t lt p tAck 0 ∧
        (p.payload ≠ [] → spadRead (tileOf t lt).spad p.dstAddr p.payload.length = p.payload) ∧
        (∀ a, a < p.dstAddr ∨ p.dstAddr + p.payload.length ≤ a → tileByte t lt a = tileByte s lt a) ∧
        Only [.tiles, .routers] s t) ∧
      (c = .readReqRx lt → ∃ t, exec c s = .next t ∧ Remembers t lt p 0 ∧
        ∃ y ∈ (tileOf t lt).returns, y.flow = (returnFlow p).flow ∧ y.transfer = (returnFlow p).transfer ∧ y.x = (returnFlow p).x) ∧
      (c = .readDataRx lt → ∃ t, exec c s = .next t ∧ Remembers t lt p 0 ∧
        (p.payload ≠ [] → spadRead (tileOf t lt).spad p.dstAddr p.payload.length = p.payload)) ∧
      (c = .msgPacketRx lt →
        let h := fld p.transport.toNat 248 8
        let y := sget handlerReset (tileOf s lt).handlers h
        (∀ reason, handlerRefusal (tileOf s lt) h p.chan = some reason → ∃ t, exec c s = .next t ∧ Remembers t lt p reason ∧
          Answers u t lt p tNack reason ∧ (tileOf t lt).queues = (tileOf s lt).queues) ∧
        (handlerRefusal (tileOf s lt) h p.chan = none → p.srcDev = s.idn.deviceId → y.argQueue ≠ y.descQueue → ∃ t, exec c s = .next t ∧
          Remembers t lt p 0 ∧ (tileOf t lt).cnt.msgAccepted = satAdd (tileOf s lt).cnt.msgAccepted 1 48 ∧
          (queueOf (tileOf t lt) y.argQueue).slots.length = (queueOf (tileOf s lt) y.argQueue).slots.length + 1 ∧
          (queueOf (tileOf t lt) y.descQueue).slots.length = (queueOf (tileOf s lt) y.descQueue).slots.length + y.chainLen)))) ∧
  (∀ (s u : State) (lt : Nat) (p : Packet), lt < 576 → Takes s lt (fun p => p.typ == tSync) p u →
    let o := fld p.transport.toNat 246 8
    let v := fld p.transport.toNat 214 32
    (p.region < 16 → (objCfgOf (tileOf s lt) o).firmware = true → exec (.syncPacketRx lt) s = .next u) ∧
    (16 ≤ p.region ∨ (objCfgOf (tileOf s lt) o).firmware = false →
      (fld p.transport.toNat 254 2 = 0 → ∃ t, exec (.syncPacketRx lt) s = .next t ∧
        objVal (objOf (tileOf t lt) o) = Nat.min (objVal (objOf (tileOf s lt) o) + v) 0xFFFFFFFF) ∧
      (fld p.transport.toNat 254 2 = 1 → (objOf (tileOf s lt) o).chg ≠ s.now → ∃ t, exec (.syncPacketRx lt) s = .next t ∧
        objVal (objOf (tileOf t lt) o) = v))) ∧
  (∀ (s : State) (lt : Nat), lt < 576 → (routerOf s (posOf s lt)).inbox = [] → exec (.writePacketRx lt) s = .next s ∧
    exec (.readReqRx lt) s = .next s ∧ exec (.readDataRx lt) s = .next s ∧ exec (.msgPacketRx lt) s = .next s ∧
    exec (.syncPacketRx lt) s = .next s)

/-- Answers and retries at the sender of a transfer (R197 to R201, R224, R225, Table 8.4), a tile or a collective engine. A transfer
that fails keeps its flow number while packets of it are unacknowledged (R197); one that was refused whole sends none of its
packets again before its retry (R225), and one under FLOW_XOFF only those that were NACKed (R200).
Rests also on the model's choices of assumptions 4, 38, 39, 40. -/
def Obligations.SenderRowsTakeEffect : Prop :=
  (∀ (s u : State) (lt : Nat) (p : Packet) (e : Nat × TxFlow), lt < 576 → (tileOf s lt).flows.find? (fun e => names e.2 p) = some e →
    ansSeq p < e.2.pkts.length →
    (Takes s lt (fun p => p.typ == tAck) p u → mcMembers e.2.x = [] →
      let fl := markPkt e.2 (ansSeq p) .acked
      (allAcked fl = true → endsByAck fl.x = true → e.2.dead = false → (tileOf s lt).waiting = [] → ∃ t, exec (.ackRx lt) s = .next t ∧
        (∀ y ∈ (tileOf t lt).flows, y.1 ≠ e.1) ∧
        (∀ f ∈ (tileOf s lt).fired, f.fid = e.2.x.fid → partDone f e.2.x.part ∈ (tileOf t lt).fired) ∧ Only [.tiles, .routers] s t) ∧
      (allAcked fl = false → ∃ t, exec (.ackRx lt) s = .next t ∧ Only [.tiles, .routers] s t ∧
        ∃ y ∈ (tileOf t lt).flows, y.1 = e.1 ∧ y.2.transfer = e.2.transfer ∧ y.2.pkts.getD (ansSeq p) .unsent = .acked)) ∧
    (Takes s lt (fun p => p.typ == tNack) p u →
      let d := deadFlow e.2 (ansSeq p) (ansReason p)
      let gives := fun (t : State) => (allAcked d = true → ∀ y ∈ (tileOf t lt).flows, y.1 ≠ e.1) ∧
        (allAcked d = false → ∃ y ∈ (tileOf t lt).flows, y.1 = e.1 ∧ y.2.transfer = e.2.transfer ∧ y.2.dead = true)
      (ansReason p = 0x01 → e.2.dead = false → (mcMembers e.2.x = [] ∨ memberOpen e.2 p.srcLt = true) → ∃ t, exec (.nackRx lt) s = .next t ∧ Only [.tiles, .routers] s t ∧
        sget 0 (tileOf t lt).cnt.nackRx 0x01 = satAdd (sget 0 (tileOf s lt).cnt.nackRx 0x01) 1 32 ∧
        ∃ y ∈ (tileOf t lt).flows, y.1 = e.1 ∧ y.2.lastNack = 0x01 ∧ y.2.pkts.getD (ansSeq p) .unsent = .retryAt (s.now + 512)) ∧
      (ansReason p = 0x05 → isDma e.2.x = false → mcMembers e.2.x = [] →
        (e.2.x.retries < e.2.x.retryMax → ∃ t, exec (.nackRx lt) s = .next t ∧ ∃ y ∈ (tileOf t lt).flows, y.1 = e.1 ∧
          y.2.x.retries = e.2.x.retries + 1 ∧ y.2.retryAt = some (s.now + retryDelay e.2.x 0x05)) ∧
        (e.2.x.retryMax ≤ e.2.x.retries → (tileOf s lt).waiting = [] → ∃ t, exec (.nackRx lt) s = .next t ∧ gives t ∧ ∀ g, regionOf s (tileOf s lt).region = some g → inStep g = true →
            ∃ h, regionOf t (tileOf s lt).region = some h ∧ h.failed = true)) ∧
      (ansReason p = 0x08 ∨ ansReason p = 0x0B ∨ ansReason p = 0x0D → isDma e.2.x = false → mcMembers e.2.x = [] → (tileOf s lt).waiting = [] →
        ∃ t, exec (.nackRx lt) s = .next t ∧ gives t) ∧
      (isDma e.2.x = true → e.2.dead = false → ansReason p = 0x06 ∨ ansReason p = 0x09 → ∃ t, exec (.nackRx lt) s = .next t ∧
        ∃ y ∈ (tileOf t lt).flows, y.1 = e.1 ∧ y.2.pkts.getD (ansSeq p) .unsent = .retryAt (s.now + 512))) ∧
    (Takes s lt (fun p => p.typ == tXoff) p u → ∃ t, exec (.flowXoffRx lt) s = .next t ∧
      ∃ y ∈ (tileOf t lt).flows, y.1 = e.1 ∧ y.2.transfer = e.2.transfer ∧ y.2.xoff = true) ∧
    (Takes s lt (fun p => p.typ == tXon) p u → ∃ t, exec (.flowXonRx lt) s = .next t ∧
      ∃ y ∈ (tileOf t lt).flows, y.1 = e.1 ∧ y.2.transfer = e.2.transfer ∧ y.2.xoff = false)) ∧
  (∀ (s u : State) (lt : Nat) (p : Packet), lt < 576 → Takes s lt (fun p => p.typ == tAck) p u →
    (∀ e ∈ (tileOf s lt).flows, names e.2 p = false) → (tileOf s lt).returns = [] → ∃ t, exec (.ackRx lt) s = .next t ∧
      tileOf t lt = { tileOf s lt with cnt := { (tileOf s lt).cnt with strayAck := satAdd (tileOf s lt).cnt.strayAck 1 32 } }) ∧
  (∀ (s : State) (lt f k : Nat) (e : Nat × TxFlow), lt < 576 → (tileOf s lt).flows.find? (fun e => e.1 == f) = some e →
    (∀ t0, e.2.pkts.getD k .acked = .retryAt t0 →
      (t0 ≤ s.now → e.2.retryAt = none → staleWork (tileOf s lt) e.2.x = false → ∃ t, exec (.nackRbRetry lt f k) s = .next t ∧ Only [.tiles, .routers] s t ∧
        ∃ y ∈ (tileOf t lt).flows, y.1 = f ∧ y.2.pkts.getD k .acked = .sent s.now) ∧
      (s.now < t0 → exec (.nackRbRetry lt f k) s = .next s)) ∧
    (∀ t0, e.2.retryAt = some t0 →
      (t0 ≤ s.now → e.2.x.after = 0 → ∃ t, exec (.messageRetry lt f) s = .next t ∧ ∃ y ∈ (tileOf t lt).flows, y.1 = f ∧ y.2.x = e.2.x ∧
        y.2.retryAt = none ∧ ∀ z, (tileOf s lt).lastXfer.find? (fun z => z.1 == f) = some z → y.2.transfer = (z.2 + 1) % 2 ^ 16) ∧
      (s.now < t0 → exec (.messageRetry lt f) s = .next s)) ∧
    (∀ a, f < 16 → e.2.pkts.getD k .acked = .sent a →
      (a + timeoutCycles e.2.x ≤ s.now → e.2.retryAt = none → e.2.xoff = false → staleWork (tileOf s lt) e.2.x = false →
        ∃ t, exec (.retransmitTimeout lt f k) s = .next t ∧
        (tileOf t lt).cnt.retxTimeout = satAdd (tileOf s lt).cnt.retxTimeout 1 32 ∧
        ∃ y ∈ (tileOf t lt).flows, y.1 = f ∧ y.2.pkts.getD k .acked = .sent s.now) ∧
      (s.now < a + timeoutCycles e.2.x ∨ e.2.xoff = true → exec (.retransmitTimeout lt f k) s = .next s))) ∧
  (∀ (s : State) (die f k : Nat), die < 4 →
    (∀ t0 fl, engPkt s die f k = .retryAt t0 → (engineOf s die).flows[f]? = some fl → fl.retryAt = none → t0 ≤ s.now → ∃ t, exec (.nackRbRetry (engineLt die) f k) s = .next t ∧
      engPkt t die f k = .sent s.now) ∧
    (∀ a fl, engPkt s die f k = .sent a → (engineOf s die).flows[f]? = some fl → fl.retryAt = none → fl.xoff = false → a + timeoutCycles fl.x ≤ s.now →
      ∃ t, exec (.retransmitTimeout (engineLt die) f k) s = .next t ∧ engPkt t die f k = .sent s.now) ∧
    (∀ fl t0, (engineOf s die).flows[f]? = some fl → fl.retryAt = some t0 →
      exec (.nackRbRetry (engineLt die) f k) s = .next s ∧ exec (.retransmitTimeout (engineLt die) f k) s = .next s) ∧
    (∀ fl t0, (engineOf s die).flows[f]? = some fl → fl.retryAt = some t0 → t0 ≤ s.now →
      ∃ t, exec (.messageRetry (engineLt die) f) s = .next t ∧ 
        (engineOf t die).lastXfer = (engineOf s die).lastXfer + (fl.flow % 16 + 16 - (engineOf s die).lastXfer % 16) % 16 + 1 ∧
        (engineOf t die).flows.length = (engineOf s die).flows.length)) ∧
  (∀ (s : State) (lt : Nat), lt < 576 → ((tileOf s lt).rx.map (·.key)).Nodup →
    ∃ t, exec (.reorderAge lt) s = .next t ∧ Only [.tiles, .routers] s t ∧
      (tileOf t lt).rx.map (fun f => (f.key, f.held)) =
        (tileOf s lt).rx.map fun f => (f.key, f.held.filter fun h => decide (s.now - h.1 < cyclesPerMs)))

/-- The firing rule, for every row that fires a descriptor (R115, R116, R120, R439): a head that is not ready, is another op or is not
granted waits; a granted one is taken and reserved, its checks give its status in the order of R439, a failing check moves no data
and fails the step, and otherwise the op acts. A contested grant moves the first place of the points at which it was contested,
among the tile's descriptor queues (R440).
Rests also on the model's choices of assumptions 4, 33, 34, 35. -/
def Obligations.FiringRule : Prop :=
  ∀ (s : State) (c : Instr) (x : DescRow), descRow c = some x → x.lt < 576 → x.q < 64 →
    (fireReady s x.lt x.q = none → exec c s = .next s) ∧
    ∀ p, fireReady s x.lt x.q = some p →
      (x.want p.d = false ∨ granted s x.lt x.q p = false → exec c s = .next s) ∧
      (Fires s x p → ∃ t f, exec c s = .next t ∧ FiredAs s t x p f ∧ (tileOf t x.lt).nextFid = (tileOf s x.lt).nextFid + 1 ∧
        (fireStatus s x p ≠ stOk → f.status = fireStatus s x p ∧ f.bytes = 0 ∧ f.outAddr = primaryOut (atFiring s x p).2 ∧
          f.parts = descParts p.d ∧ f.partFail = List.range (descParts p.d) ∧ f.openParts = [] ∧
          (∀ k, sget 0 (tileOf t x.lt).rotEngine k =
            if k ≠ 80 ∧ ∃ y ∈ contenders s x.lt x.q p, k ∈ y.2 then
              (sget 0 (tileOf s x.lt).rotEngine k + 1) % (descQueues (tileOf s x.lt)).length
            else sget 0 (tileOf s x.lt).rotEngine k) ∧
          (∀ k a, tileByte t k a = tileByte s k a) ∧ Only [.tiles, .routers, .regions, .outbox] s t) ∧
        (fireStatus s x p = stOk → let u := x.act (atFiring s x p).1 (atFiring s x p).2
          f.status = u.status ∧ f.detail = u.detail ∧ f.outAddr = u.outAddr ∧ f.arith = u.arith ∧ f.openParts = u.openParts ∧
            f.partFail = u.partFail ∧ t.basin = u.s.basin ∧ ∀ k, ∃ n, (tileOf t k).spad = { (tileOf u.s k).spad with rd := n }) ∧
        (statusFails f.status = true → ∀ g, regionOf s (tileOf s x.lt).region = some g → inStep g = true →
          ∃ h, regionOf t (tileOf s x.lt).region = some h ∧ h.failed = true))

/-- What a firing descriptor leaves alone, for every row but SCAN_IN: every byte of its tile's scratchpad outside its destination
rows, every byte of every other tile's, its tile's codebook halves but for STORE_LOAD, and Basin but for BASIN_WRITE (Tables 4.6
to 4.12).
Rests also on the model's choices of assumption 35. -/
def Obligations.DescriptorFrame : Prop :=
  ∀ (s : State) (c : Instr) (x : DescRow) (p : FirePlan) (l : List Rng), descRow c = some x → Fires s x p →
    destRngs c (atFiring s x p).1 (atFiring s x p).2 = some l → (∀ k, spadWf (tileOf s k).spad = true) →
    ∃ t, exec c s = .next t ∧
      (∀ a, (∀ r ∈ l, a < r.1 ∨ r.1 + r.2 ≤ a) → tileByte t x.lt a = tileByte s x.lt a) ∧
      (∀ k, posOf s k ≠ posOf s x.lt → ∀ a, tileByte t k a = tileByte s k a) ∧
      ((∀ lt q, c ≠ .storeLoad lt q) → (tileOf t x.lt).halves = (tileOf s x.lt).halves) ∧
      ((∀ lt q, c ≠ .basinWrite lt q) → t.basin = s.basin)

/-- What a COPY, STORE_LOAD, BASIN_READ or BASIN_WRITE of one row does to the bytes it names, CLEAR_VALID and ZEROIZE to their lines,
and SCAN_IN to the parts of its target that its SCOPE and the section name (R45, R91, R92, R113, R133, R134, R267, R279).
Rests also on the model's choices of assumptions 13, 35. -/
def Obligations.DmaRowsMoveTheirBytes : Prop :=
  ∀ (s : State) (c : Instr) (x : DescRow) (p : FirePlan), descRow c = some x → Fires s x p → fireStatus s x p = stOk →
    spadWf (tileOf s x.lt).spad = true →
    let d := (atFiring s x p).2
    let base := (allotOf s (tileOf s x.lt).region).1
    ∃ t, exec c s = .next t ∧
      (mRows d.d = 1 →
        (c = .copy x.lt x.q → spadRead (tileOf t x.lt).spad (copyDst d 0) (mLen d.d) =
          spadRead (tileOf s x.lt).spad (localRow d 0) (mLen d.d)) ∧
        (c = .storeLoad x.lt x.q → mLen d.d ≠ 0 → (sget halfReset (tileOf t x.lt).halves (mHalf2 d.d)).tag = mTagSet d.d ∧
          memRdN (sget halfReset (tileOf t x.lt).halves (mHalf2 d.d)).data 0 (mLen d.d) =
            loadSlot (mTagSet d.d) (spadRead (tileOf s x.lt).spad (localRow d 0) (mLen d.d))) ∧
        (c = .storeLoad x.lt x.q → mLen d.d = 0 → (tileOf t x.lt).halves = (tileOf s x.lt).halves) ∧
        (c = .basinRead x.lt x.q [] [] → poisonIn s (base + mBasinRow d.d 0) (mLen d.d) = [] →
          spadRead (tileOf t x.lt).spad (localRow d 0) (mLen d.d) = basinBytes s (base + mBasinRow d.d 0) (mLen d.d)) ∧
        (c = .basinWrite x.lt x.q → basinBytes t (base + mBasinRow d.d 0) (mLen d.d) =
            spadRead (tileOf s x.lt).spad (localRow d 0) (mLen d.d) ∧
          ∀ a, a < base + mBasinRow d.d 0 ∨ base + mBasinRow d.d 0 + mLen d.d ≤ a → memRd t.basin a = memRd s.basin a)) ∧
      (c = .scanIn x.lt x.q → posOf s (scLt d.d) ≠ posOf s x.lt →
        let v := tileOf s (scLt d.d)
        let u := tileOf t (scLt d.d)
        (scanSource (atFiring s x p).1 (scBundle d.d) (scRegion d.d) (scLt d.d) = none → u = v) ∧
        ∀ y, scanSource (atFiring s x p).1 (scBundle d.d) (scRegion d.d) (scLt d.d) = some y →
          let on := fun (i : Nat) => bitOf (scScope d.d) i && bitOf y.scope i
          u.objs = (if on 2 then y.objs else v.objs) ∧ u.fired = (if on 3 then y.fired else v.fired) ∧
          u.flows = (if on 3 then y.flows else v.flows) ∧ u.waiting = (if on 3 then y.waiting else v.waiting) ∧
          u.returns = (if on 3 then y.returns else v.returns) ∧ u.halves = (if on 4 then y.halves else v.halves) ∧
          u.rx = (if on 6 then y.rx else v.rx) ∧ u.spad.mb = (if on 5 then y.mb else v.spad.mb) ∧
          ∀ q ∈ v.qcfg.map (·.1), let w := sget queueReset y.queues q
            (queueOf u q).slots = (if on 0 then w.slots else (queueOf v q).slots) ∧
            (queueOf u q).fetchIdx = (if on 1 then w.fetchIdx else (queueOf v q).fetchIdx) ∧
            (queueOf u q).loops = (if on 1 then w.loops else (queueOf v q).loops)) ∧
      (c = .clearValid x.lt x.q ∨ c = .zeroize x.lt x.q → ∀ a, ctlAddr d.d / 64 * 64 ≤ a →
        a < ctlAddr d.d / 64 * 64 + 512 * ctlLines d.d → tileByte t x.lt a = 0)

/-- What VECTOR descriptors write (R146, R147, chapter 05): each destination row holds the op's values in DST_FMT, for ELEMENTWISE,
REDUCE, NORM, ACTIVATE and CONVERT, where destination rows do not overlap.
Rests also on the model's choices of assumption 35. -/
def Obligations.VectorRowsHoldTheirResults : Prop :=
  ∀ (s : State) (c : Instr) (x : DescRow) (p : FirePlan), descRow c = some x → Fires s x p → fireStatus s x p = stOk →
    spadWf (tileOf s x.lt).spad = true →
    let u := (atFiring s x p).1
    let d := (atFiring s x p).2
    let rows := vecRowsA u d
    ∀ r, r < vRows d.d → ∃ t, exec c s = .next t ∧
      let Row := fun (vs : List F32) => outRowBytes (vDstFmt d.d) vs.length ≤ vDstStride d.d ∨ vRows d.d = 1 →
        spadRead (tileOf t x.lt).spad (vecDst d + vDstStride d.d * r) (outRowBytes (vDstFmt d.d) vs.length) =
          (packOut (vDstFmt d.d) true (f32s vs)).1
      (c = .elementwise x.lt x.q → Row (List.zipWith (fun (y : F32 × F32) z => elementwiseFn (dFunc d.d) (vImm0 d.d) y.1 y.2 z)
        (List.zip (rows.getD r []) (if ewUsesB (dFunc d.d) then vecRowLine u d (vecB d) r else rows.getD r []))
        (if ewUsesC (dFunc d.d) then vecRowLine u d (vecC d) r else rows.getD r []))) ∧
      (c = .reduce x.lt x.q → Row [reduceRow (redOpOf (dFunc d.d)) (rows.getD r [])]) ∧
      (c = .norm x.lt x.q → Row (normRow (dFunc d.d) (vImm0 d.d) (rows.getD r []) (vecRowLine u d (vecB d) 0)
        (if dFunc d.d = 1 then vecRowLine u d (vecC d) 0 else []))) ∧
      (c = .activate x.lt x.q → Row ((rows.getD r []).map (activateFn (dFunc d.d)))) ∧
      (c = .convert x.lt x.q → Row (rows.getD r []))

/-- The rows around firing (R105 to R107, R114, R117, R119, R125): a fetched END, JUMP or end of stream, a stale descriptor discarded,
the ARRIVE and RESET of a local object, and retirement, after which the control firmware holds the record of what failed.
Rests also on the model's choices of assumptions 4, 35. -/
def Obligations.QueueRowsTakeEffect : Prop :=
  (∀ (s : State) (lt q : Nat), lt < 576 → q < 64 →
    let v := queueOf (tileOf s lt) q
    let c := qcfgOf (tileOf s lt) q
    let d := spadNum (tileOf s lt).spad (c.streamBase + 64 * v.fetchIdx) 64
    (fetchReady s lt q = false → exec (.fetchLine lt q) s = .next s) ∧
    (fetchReady s lt q = true → ∃ t, exec (.fetchLine lt q) s = .next t ∧ Only [.tiles] s t ∧
      (∀ k, posOf s k ≠ posOf s lt → tileOf t k = tileOf s k) ∧
      (∀ k, k ≠ q → queueOf (tileOf t lt) k = queueOf (tileOf s lt) k) ∧
      (c.streamLen ≤ v.fetchIdx → (queueOf (tileOf t lt) q).fetchDone = true ∧ (queueOf (tileOf t lt) q).slots = v.slots) ∧
      (v.fetchIdx < c.streamLen → dClass d = 6 → dOp d = 2 → (queueOf (tileOf t lt) q).fetchIdx = fld d 128 16 ∧
        (queueOf (tileOf t lt) q).slots = v.slots) ∧
      (v.fetchIdx < c.streamLen → dClass d = 6 → dOp d = 1 → (queueOf (tileOf t lt) q).fetchDone = true ∧
        (queueOf (tileOf t lt) q).fetchIdx = v.fetchIdx + 1 ∧ (queueOf (tileOf t lt) q).slots.length = v.slots.length + 1))) ∧
  (∀ (s : State) (lt q pos idx d : Nat), lt < 576 → q < 64 → headDesc (tileOf s lt) q = some (pos, idx, d) →
    (dInstance d ≠ tagOf (tileOf s lt) → ∃ t, exec (.staleInstanceDiscard lt q) s = .next t ∧ Only [.tiles] s t ∧
      (tileOf t lt).cnt.staleInstance = satAdd (tileOf s lt).cnt.staleInstance 1 32 ∧ (tileOf t lt).spad = (tileOf s lt).spad ∧
      (∀ y, y ∈ (queueOf (tileOf t lt) q).slots ↔ y ∈ (queueOf (tileOf s lt) q).slots ∧ y.pos ≠ pos)) ∧
    (dInstance d = tagOf (tileOf s lt) → exec (.staleInstanceDiscard lt q) s = .next s)) ∧
  (∀ (s : State) (c : Instr) (x : DescRow) (p : FirePlan), descRow c = some x → Fires s x p → fireStatus s x p = stOk →
    syncRemote p.d = false → ∃ t, exec c s = .next t ∧
      (c = .arrive x.lt x.q → objVal (objOf (tileOf t x.lt) (syncObjField p.d)) =
        Nat.min (objVal (objOf (tileOf s x.lt) (syncObjField p.d)) + syncValue p.d) 0xFFFFFFFF) ∧
      (c = .reset x.lt x.q → (objOf (tileOf s x.lt) (syncObjField p.d)).chg ≠ s.now →
        objVal (objOf (tileOf t x.lt) (syncObjField p.d)) = syncValue p.d)) ∧
  (∀ (s : State) (lt q idx : Nat), lt < 576 → q < 64 →
    (finishedDesc (tileOf s lt) q idx = none → exec (.descriptorRetire lt q idx) s = .next s) ∧
    (∀ f, finishedDesc (tileOf s lt) q idx = some f → staleTag (tileOf s lt) f = true → ∃ t,
      exec (.descriptorRetire lt q idx) s = .next t ∧ Only [.tiles] s t ∧ (∀ y ∈ (tileOf t lt).fired, y.fid ≠ f.fid) ∧
      (tileOf t lt).objs = (tileOf s lt).objs ∧ (tileOf t lt).spad = (tileOf s lt).spad ∧
      ∀ i ∈ f.ins, ∀ y ∈ (queueOf (tileOf t lt) i.1).slots, y.pos ≠ i.2) ∧
    (∀ f, finishedDesc (tileOf s lt) q idx = some f → staleTag (tileOf s lt) f = false → ∃ t, exec (.descriptorRetire lt q idx) s = .next t ∧
      (∀ y ∈ (tileOf t lt).fired, y.fid ≠ f.fid) ∧ (queueOf (tileOf t lt) q).lastRetired = some idx ∧
      (queueOf (tileOf t lt) q).since = s.now ∧
      (dClass f.desc = 6 → dOp f.desc = 1 → (queueOf (tileOf t lt) q).closed = true) ∧
      (f.status ≠ stOk →
        (∀ g, regionOf s (tileOf s lt).region = some g →
          ∃ h, regionOf t (tileOf s lt).region = some h ∧ firedRecord f g.step lt ∈ h.failRecs) ∧
        (regionOf s (tileOf s lt).region = none → firedRecord f 0 lt ∈ t.flc.fwRecs)) ∧
      (f.status = stOk → ∀ i ∈ f.ins, ∀ y ∈ (queueOf (tileOf t lt) i.1).slots, y.pos ≠ i.2) ∧
      (dArriveEn f.desc = true → f.noArrive = false → dArriveRemote f.desc = false →
        objVal (objOf (tileOf t lt) (dArriveObj f.desc)) =
          Nat.min (objVal (objOf (tileOf s lt) (dArriveObj f.desc)) + dArriveDelta f.desc) 0xFFFFFFFF)))

/-- A region's step as far as its own device takes it (R14, R16, R18, R22, R129, R311): start, drain, local conditions, the step
timer, the query wait, and a held region that runs again. The group messages of a step (R22 to R25): a member commits with the
last STEP_READY, discards on a STEP_FAIL or a higher attempt, answers a query, and settles its doubt by the answers.
Rests also on the model's choices of assumptions 3, 4, 42, 47, 59. -/
def Obligations.StepRowsTakeEffect : Prop :=
  ((∀ (s : State) (r : Nat) (g : Region), r < 17 → regionOf s r = some g →
    (g.boundary = [] → lostRanks s r g = [] →
      (mayStart s r g = true → freeToStart s r = true → shadowMay s r g = true → ∃ t h, exec (.stepStart r) s = .next t ∧
        regionOf t r = some h ∧ h.mstate = .running ∧ h.step = g.step ∧ h.attempt = g.attempt ∧ h.stepStart = s.now ∧ h.failed = false ∧
        (∃ e ∈ h.ledger, e.final = false ∧ e.step = g.step ∧ e.attempt = g.attempt ∧ e.tokens = []) ∧
        ∀ lt ∈ regionTiles s g, ∀ q, (queueOf (tileOf t lt) q).fetchIdx = 0 ∧ (queueOf (tileOf t lt) q).fetchDone = false ∧
          (queueOf (tileOf t lt) q).closed = false) ∧
      (freeToStart s r = false → ∃ t, exec (.stepStart r) s = .next t ∧ regionOf t r = some g ∧ t.tiles = s.tiles)) ∧
    (g.mstate = .running → allTiles s g tileStill = true → enginesStill s r = true →
      (strandedQueues s g = [] → g.failed = false → ∃ t h, exec (.stepDrained r) s = .next t ∧ regionOf t r = some h ∧
        h.mstate = .drained ∧ h.failed = false ∧ Only [.tiles, .regions] s t ∧
        ∀ lt, ∃ sp, tileOf t lt = { tileOf s lt with spad := sp }) ∧
      (strandedQueues s g ≠ [] ∨ g.failed = true → ∃ t, exec (.stepDrained r) s = .next t ∧ Discarded s t r g)) ∧
    (g.mstate = .drained →
      (g.failed = true → ∃ t, exec (.localConditionsMet r) s = .next t ∧ Discarded s t r g) ∧
      (localOk s r g = true → isShadow s r = false →
        (missingReady g = [] → ∃ t, exec (.localConditionsMet r) s = .next t ∧ Committed s t r g) ∧
        (missingReady g ≠ [] → 1 < g.members → ∃ t, exec (.localConditionsMet r) s = .next t ∧
          regionOf t r = some { g with mstate := .readySent } ∧ t.outbox = s.outbox ++ [.stepReady r (stepMsg g)] ∧
          Only [.regions, .outbox] s t))) ∧
    (g.stepStart + g.timeoutUs * cyclesPerUs ≤ s.now →
      (g.mstate = .running ∨ g.mstate = .drained → ∃ t, exec (.stepTimerExpiry r) s = .next t ∧ Discarded s t r g) ∧
      (g.mstate = .readySent → isShadow s r = false → ∃ t, exec (.stepTimerExpiry r) s = .next t ∧
        regionOf t r = some { g with mstate := .inDoubt, queryAt := some s.now, queryStep := g.step, answers := [] } ∧
        t.outbox = s.outbox ++ [.stepQuery r (stepMsg g)] ∧ Only [.regions, .outbox] s t)) ∧
    (s.now < g.stepStart + g.timeoutUs * cyclesPerUs → exec (.stepTimerExpiry r) s = .next s) ∧
    (∀ t0, g.queryAt = some t0 → t0 + cyclesPerMs ≤ s.now → ∃ t h, exec (.queryWaitExpiry r) s = .next t ∧ regionOf t r = some h ∧
      h.queryAt = none ∧ (∀ k ∈ g.leaving, k ∈ h.leaving) ∧
      (∀ k, k < g.members → k ≠ g.rank → k ∉ g.removed → (∀ x ∈ g.answers, x.1 ≠ k) → k ∈ h.leaving) ∧
      (g.mstate = .inDoubt → Discarded s t r g) ∧
      (g.mstate ≠ .inDoubt → h = { g with queryAt := none, leaving := h.leaving } ∧ Only [.regions] s t)) ∧
    (g.held = true → atBoundary g = true → maxUndelivered s g < 8192 → ∃ t h, exec (.undeliveredResume r) s = .next t ∧
      regionOf t r = some h ∧ h = { g with held := false, rstate := .running } ∧ Only [.regions, .fns, .msis] s t))) ∧
  (∀ (s : State) (m : StepMsg) (r : Nat) (g : Region), r ∈ groupRegions s m → regionOf s r = some g →
    (m.step = g.step → m.attempt = g.attempt → g.mstate = .readySent → isShadow s r = false →
      missingReady { g with readyFrom := (m.rank, m.step, m.attempt) :: g.readyFrom } = [] →
      ∃ t, exec (.stepReadyRx m) s = .next t ∧ Committed s t r g) ∧
    (openStep g = true → m.step = g.step → g.attempt < m.attempt → ∃ t, exec (.stepReadyRx m) s = .next t ∧ Discarded s t r g) ∧
    (openStep g = true → m.step = g.step → g.attempt ≤ m.attempt → ∃ t, exec (.stepFailRx m) s = .next t ∧ Discarded s t r g) ∧
    (m.step ≠ g.step → groupRegions s m = [r] → exec (.stepFailRx m) s = .next s) ∧
    (isShadow s r = false →
      (hasCommitted g m.step = true → ∃ t, exec (.stepQueryRx m) s = .next t ∧
        .stepAnswer r { m with rank := g.rank } .committed ∈ t.outbox) ∧
      (hasCommitted g m.step = false → ∃ t, exec (.stepQueryRx m) s = .next t ∧
        .stepAnswer r { m with rank := g.rank } .discarded ∈ t.outbox ∧
        (openStep g = true → m.step = g.step → Discarded s t r g))) ∧
    (g.queryAt.isSome = true → m.step = g.queryStep →
      (g.mstate = .inDoubt → m.step = g.step → (∃ t, exec (.stepQueryAnswerRx m .committed) s = .next t ∧ Committed s t r g) ∧
        ((∀ k, k < g.members → k ≠ g.rank → k ∉ g.removed → k = m.rank ∨ ∃ x ∈ g.answers, x.1 = k) →
          ∃ t, exec (.stepQueryAnswerRx m .discarded) s = .next t ∧ Discarded s t r g)) ∧
      (g.mstate ≠ .inDoubt → groupRegions s m = [r] → ∀ a, ∃ t, exec (.stepQueryAnswerRx m a) s = .next t ∧ Only [.regions] s t ∧
        regionOf t r = some { g with answers := (m.rank, a) :: g.answers.filter fun x => x.1 != m.rank })))

/-- Admission and release of a sequence at the boundary (R17, R138 to R140, Table 5.1): the checks in order with their outcomes, the
context, its page list and pages; what a release frees; and an uncorrectable error in the stores that the scheduler reads, which
resets the device (R97, R135).
Rests also on the model's choices of assumptions 43, 46, 51, 52. -/
def Obligations.SequenceBoundaryRows : Prop :=
  (∀ (s u : State) (r : Nat) (g : Region) (b : BEntry) (blk : AdmitBlock) (tokens : List Nat) (keys : List (BitVec 128)) (im : Image),
    let isAdmit := fun (a : BAct) => match a with | .admitSeq _ _ _ => true | _ => false
    Due s u r 9 g b isAdmit → b.act = .admitSeq blk tokens keys → g.image = some im →
    let noCtx := ∀ c ∈ g.ctxIds, (ctxOf u c).state ≠ 0
    let bad := (ctxByKey u g blk.seqKey).isSome = true ∨ admitRanges g blk = false
    let n := ceilDiv blk.maxPosition 128
    let sh := sharedPages u g im blk keys
    let taken := fun (t : State) => ∃ h, regionOf t r = some h ∧ h.boundary = g.boundary.erase b
    let refused := fun (status : Nat) (res need have_ : Nat) => ∃ t x, exec (.sequenceAdmission r) s = .next t ∧ Ends u t b.req status x ∧
      taken t ∧ t.pageList = u.pageList ∧ t.ctxs = u.ctxs ∧ x = (if status = 0x0004 then shortBytes ⟨res, 0x3FF, 0xFFFF, need, have_, 0⟩ else [])
    (noCtx → refused 0x0004 0x08 1 0) ∧
    (¬ noCtx → bad → refused 0x0003 0 0 0) ∧
    (¬ noCtx → ¬ bad → (∀ id, g.ctxIds.find? (fun c => (ctxOf u c).state == 0) = some id →
      ((freePages g im id).length < n - sh.length → refused 0x0004 0x0C n (freePages g im id).length) ∧
      (n - sh.length ≤ (freePages g im id).length → (∀ k, (listRun u n).1 ≠ some k) → refused 0x0004 0x0D n (listRun u n).2) ∧
      (n - sh.length ≤ (freePages g im id).length → ∀ base, (listRun u n).1 = some base → listFree u base n = true →
        ∃ t own, exec (.sequenceAdmission r) s = .next t ∧ Ends u t b.req 0 (leBytes id 2) ∧ taken t ∧
          own = (freePages g im id).take (n - sh.length) ∧ sh.length + own.length = n ∧
          ctxOf t id = { admitted u r g blk tokens keys sh.length base with lookup := (ctxOf t id).lookup } ∧
          (∀ k, k ≠ id → ctxOf t k = ctxOf u k) ∧
          (∀ i p, (sh ++ own)[i]? = some p → p < 2 ^ 20 → poolPageOf t (ctxOf t id) i = some p) ∧
          ∀ k, k < base ∨ base + n ≤ k → sget 0 t.pageList k = sget 0 u.pageList k ∨
            (sget 0 t.pageList k = setFld (sget 0 u.pageList k) 30 1 1 ∧ fld (sget 0 u.pageList k) 0 20 ∈ sh))))) ∧
  (∀ (s u : State) (r : Nat) (g : Region) (b : BEntry) (key : Nat),
    let isRelease := fun (a : BAct) => match a with | .release _ => true | _ => false
    Due s u r 8 g b isRelease → b.act = .release key →
    (ctxByKey u g key = none → ∃ t, exec (.sequenceRelease r) s = .next t ∧ Ends u t b.req 0x0003 [] ∧ t.ctxs = u.ctxs ∧ t.pageList = u.pageList) ∧
    ∀ id, ctxByKey u g key = some id →
      let c := ctxOf u id
      let own := fun (p : Nat) => ∃ i, i < c.pageCount ∧ poolPageOf u c i = some p
      ∃ t h, exec (.sequenceRelease r) s = .next t ∧ Ends u t b.req 0 (leBytes c.undelivered 4) ∧ regionOf t r = some h ∧
        h.boundary = g.boundary.erase b ∧ ctxOf t id = ctxReset ∧ (∀ k, k ≠ id → ctxOf t k = ctxOf u k) ∧
        (∀ e ∈ u.pageList, e ∈ t.pageList ↔ e.1 < c.pageBase ∨ c.pageBase + c.pageCount ≤ e.1) ∧
        (∀ x ∈ g.pool, (own x.page → 1 < x.refs → { x with refs := x.refs - 1 } ∈ h.pool) ∧ (¬ own x.page → x.refs ≠ 0 → x ∈ h.pool)) ∧
        ∀ y ∈ h.pool, y.refs ≠ 0 ∧ ∃ x ∈ g.pool, y.page = x.page ∧ (own x.page → y.refs + 1 = x.refs) ∧ (¬ own x.page → y = x)) ∧
  (∀ (s u : State) (r : Nat),
    (NotDue s u r 9 (fun a => match a with | .admitSeq _ _ _ => true | _ => false) → exec (.sequenceAdmission r) s = .next u) ∧
    (NotDue s u r 8 (fun a => match a with | .release _ => true | _ => false) → exec (.sequenceRelease r) s = .next u)) ∧
  (∀ (s : State) (c : Instr) (r : Nat) (g : Region), r < 17 → regionOf s r = some g →
    (c = .sequenceAdmission r true ∨ c = .sequenceRelease r true ∨ c = .stepStart r true ∨ c = .localConditionsMet r true ∨
      (∃ m, c = .prefixReplyRx r m true) ∨ (∃ m, c = .pagePushRx r m true) ∨ (∃ m, c = .commitNoticeRx r m true) ∨
      (∃ m, c = .seqHandoffRx r m true) ∨ (∃ k, c = .handoffTimeout r k true) ∨ ∃ k, c = .handoffActivation r k true) →
    ∃ t, exec c s = .next t ∧ t.flt.cause = 5 ∧ t.flt.count = Nat.min (s.flt.count + 1) (2 ^ 24 - 1) ∧ t.tiles = [] ∧ t.ctxs = [])

/-- The switch to a loaded image and the end of a region at its boundary (R17, R132, R319, R320, R326): what a switch is refused for
and what it leaves; a stop, an unload, which leaves a degraded region degraded, and a destruction, which frees contexts, ends
every request, zeroises the allotment and notes the tiles and the peers, whose messages are answered PEER_GONE from then on.
Rests also on the model's choices of assumptions 43, 46, 51, 58. -/
def Obligations.StopBoundaryRows : Prop :=
  (∀ (s u : State) (r : Nat) (g : Region) (b : BEntry) (im : Image),
    let isLoad := fun (a : BAct) => match a with | .load _ => true | _ => false
    Due s u r 7 g b isLoad → b.act = .load im →
    let taken := fun (h : Region) => h.boundary = g.boundary.erase b ∧ h.switching = false
    (∀ x, placeImage u g im = .inl x → ∃ t h, exec (.graphSwitch r) s = .next t ∧ Ends u t b.req 0x0004 (shortBytes x) ∧
      regionOf t r = some h ∧ taken h ∧ h.image = g.image ∧ h.ctxIds = g.ctxIds ∧ t.tiles = u.tiles) ∧
    (∀ map, placeImage u g im = .inr map →
      let avail := (List.range 1024).filter fun c => g.ctxIds.contains c || !u.regions.any fun e => e.2.ctxIds.contains c
      (avail.length < im.contexts → (∀ c ∈ g.ctxIds, c < 1024) → ∃ t h, exec (.graphSwitch r) s = .next t ∧
        Ends u t b.req 0x0004 (shortBytes ⟨0x08, 0x3FF, 0xFFFF, im.contexts, avail.length, 0⟩) ∧ regionOf t r = some h ∧ taken h ∧
        h.image = g.image ∧ t.tiles = u.tiles) ∧
      (im.contexts ≤ avail.length → (∀ c ∈ g.ctxIds, c < 1024) → ∃ t h, exec (.graphSwitch r) s = .next t ∧ Ends u t b.req 0 [] ∧
        regionOf t r = some h ∧ h.switching = false ∧ (∃ n, h.boundary = g.boundary.erase b ++ [⟨.flip, none, n⟩]) ∧ h.ctxIds = avail.take im.contexts ∧ h.loadedMap = map ∧ h.step = 0 ∧ h.attempt = 0 ∧
        h.lastCommitted = none ∧ h.pool = [] ∧ h.image.isSome = true ∧ (displacedOf u g im = [] → h.image = some im) ∧
        h.rstate = (if g.running then .running else .loaded)) ∧
      (im.contexts ≤ avail.length → (∀ c ∈ g.ctxIds, c < 1024) → ∀ bad, ∃ t, exec (.graphSwitch r bad) s = .next t ∧ Ends u t b.req 0 [] ∧
        ∀ lt ∈ bad, lt < 576 → regionOfLt u lt = r → posOf u lt ∈ t.rep.declared ∨ posOf u lt ∈ t.rep.failed))) ∧
  (∀ (s u : State) (r : Nat) (g : Region) (b : BEntry),
    let isEnd := fun (a : BAct) => match a with | .unload => true | .stop _ => true | .destroy => true | _ => false
    Due s u r (actRank b.act) g b isEnd → b.req = none ∨ b.req ≠ g.runReq →
    (∀ st, b.act = .stop st → ∃ t h, exec (.stopAtBoundary r) s = .next t ∧ Ends u t b.req 0 [] ∧ Ends u t g.runReq st (runResult g) ∧
      regionOf t r = some h ∧ h.rstate = .stopped ∧ h.running = false ∧ h.runReq = none ∧ h.boundary = g.boundary.erase b ∧
      h.image = g.image ∧ t.tiles = u.tiles) ∧
    (b.act = .unload → (∃ c ∈ g.ctxIds, (ctxOf u c).state ≠ 0) → ∃ t h, exec (.stopAtBoundary r) s = .next t ∧ Ends u t b.req 0x0006 [] ∧
      regionOf t r = some h ∧ h = { g with boundary := g.boundary.erase b, boundaryLog := h.boundaryLog } ∧ t.tiles = u.tiles) ∧
    (b.act = .unload → (∀ c ∈ g.ctxIds, (ctxOf u c).state = 0) → ∃ t h, exec (.stopAtBoundary r) s = .next t ∧ Ends u t b.req 0 [] ∧
      Ends u t g.runReq 0 (runResult g) ∧ regionOf t r = some h ∧ h.image = none ∧ h.ctxIds = [] ∧ h.pool = [] ∧
      h.degraded = g.degraded ∧ h.rstate = (if g.degraded then .degraded else .empty) ∧
      h.running = false ∧ ∀ lt ∈ rectLts g, (tileOf t lt).qcfg = [] ∧ (tileOf t lt).queues = [] ∧ (tileOf t lt).protects = []) ∧
    (b.act = .destroy → (rfOf u r).shadow = none → ∃ t, exec (.stopAtBoundary r) s = .next t ∧ regionOf t r = none ∧ Ends u t b.req 0 [] ∧
      (u.silt.txns = [] → ∀ k, k ≠ r → regionOf t k = regionOf u k) ∧
      (rectLts g, g.peers.map fun p => (p.device, p.region)) ∈ t.fab.ended ∧ (∀ c ∈ g.ctxIds, ctxOf t c = ctxReset) ∧
      (∀ lt ∈ rectLts g, (tileOf t lt).region = 31 ∧ (tileOf t lt).qcfg = []) ∧
      (∀ f, f < 17 → ∀ q ∈ (fnOf t f).requests, q.region = r → q.finished = true) ∧
      (∀ a, g.basinBase ≤ a → a < g.basinBase + g.basinGib * gib → basinByte t a = 0) ∧
      ∀ a, a < g.basinBase ∨ g.basinBase + g.basinGib * gib ≤ a → memRd t.basin a = memRd u.basin a)) ∧
  (∀ (s u : State) (r : Nat),
    NotDue s u r 7 (fun a => match a with | .load _ => true | _ => false) → exec (.graphSwitch r) s = .next u) ∧
  (∀ (s u : State) (r : Nat), NotDue s u r 0 (fun a => match a with | .unload => true | .stop _ => true | .destroy => true | _ => false) →
    exec (.stopAtBoundary r) s = .next u)

/-- Healing, re-placement and refill at the boundary (R17, R280, R343, R346, R347, R352): poisoned granules with a copy in scratchpad
are rewritten from it, nodes of an absent tile find a tile or the region is degraded, and a reset tile is rebuilt where it stands.
Rests also on the model's choices of assumptions 43, 53, 61. -/
def Obligations.HealBoundaryRows : Prop :=
  (∀ (s u : State) (r : Nat) (g : Region) (b : BEntry) (im : Image), Due s u r 1 g b (fun a => a == .heal) → g.image = some im →
    let inside := fun (k : Nat) => k ∈ u.poison ∧ meets (512 * k, 512) (g.basinBase, g.basinGib * gib) = true ∧
      (inRange im.dir.weightImage (512 * k - g.basinBase) 512 || inRange im.dir.kvShadow (512 * k - g.basinBase) 512) = true
    let copy := fun (k : Nat) => ∀ i, i < 512 → (residentByte u g im (512 * k + i - g.basinBase)).isSome = true
    ∃ t h, exec (.basinHealing r) s = .next t ∧ regionOf t r = some h ∧ h.boundary = g.boundary.erase b ∧ t.tiles = u.tiles ∧
      (∀ k, inside k → copy k → k ∉ t.poison ∧
        ∀ i, i < 512 → residentByte u g im (512 * k + i - g.basinBase) = some (basinByte t (512 * k + i))) ∧
      (∀ k ∈ u.poison, ¬ (inside k ∧ copy k) → k ∈ t.poison) ∧
      ∀ a, ¬ (inside (a / 512) ∧ copy (a / 512)) → memRd t.basin a = memRd u.basin a) ∧
  (∀ (s u : State) (r lt : Nat) (g : Region) (b : BEntry) (im : Image), lt < 576 → Due s u r 3 g b (fun a => a == .rePlace lt) →
    g.image = some im → (g.loadedMap.map (·.1)).Nodup →
    let disp := (nodesOf im).filter fun x => sget 0x3FF g.loadedMap x.1 == lt
    let place := placeNodes im (regionTiles u g) disp (g.loadedMap.filter fun e => e.2 != lt)
    (∀ x, place = .inl x → ∃ t h, exec (.rePlacement r lt) s = .next t ∧ regionOf t r = some h ∧ h.degraded = true ∧
      h.rstate = .degraded ∧ h.running = false ∧ Ends u t g.runReq 0x000E (runResult g) ∧ h.boundary = g.boundary.erase b ∧ t.tiles = u.tiles) ∧
    (∀ map, place = .inr map → ∃ t h, exec (.rePlacement r lt) s = .next t ∧ regionOf t r = some h ∧ h.loadedMap = map ∧
      (∃ e ∈ h.boundary, e.act = .flip) ∧ h.degraded = g.degraded ∧
      (∀ x ∈ disp, sget 0x3FF h.loadedMap x.1 ∈ regionTiles u g) ∧
      ∀ x ∈ nodesOf im, x ∉ disp → sget 0x3FF h.loadedMap x.1 = sget 0x3FF g.loadedMap x.1)) ∧
  (∀ (s u : State) (r lt : Nat) (g : Region) (b : BEntry) (im : Image), lt < 576 → Due s u r 4 g b (fun a => a == .refill lt) →
    g.image = some im →
    (present u lt = false ∨ (tileOf u lt).fenced = true → ∃ t h, exec (.refillInPlace r lt) s = .next t ∧ regionOf t r = some h ∧
      h = { g with boundary := g.boundary.erase b, boundaryLog := h.boundaryLog } ∧ t.tiles = u.tiles) ∧
    (present u lt = true → (tileOf u lt).fenced = false → ∃ t h, exec (.refillInPlace r lt) s = .next t ∧ regionOf t r = some h ∧
      h.boundary = g.boundary.erase b ∧ (tileOf t lt).heldReset = false ∧ queuesEmpty (tileOf t lt) = true ∧ (tileOf t lt).objs = [] ∧
      (∀ k, k ≠ posOf u lt → tileAtPos t k = tileAtPos u k) ∧
      (h.rstate = .stopped ∨ ∀ i ∈ nodeNums g im lt, ∀ n d, im.nodes[i]? = some n → (rfOf u r).refDigests[i]? = some d →
        nodeDigest t lt n = d))) ∧
  (∀ (s u : State) (r lt : Nat), lt < 576 →
    (NotDue s u r 1 (fun a => a == .heal) → exec (.basinHealing r) s = .next u) ∧
    (NotDue s u r 3 (fun a => a == .rePlace lt) → exec (.rePlacement r lt) s = .next u) ∧
    (NotDue s u r 4 (fun a => a == .refill lt) → exec (.refillInPlace r lt) s = .next u))

/-- Castling (R340 to R345, Table 12.8): a position is declared failed; its row shifts east or its tile becomes absent; the copies
arrive; and at the end the map names the new positions, which hold what the old ones held.
Rests also on the model's choices of assumptions 4, 43, 87. -/
def Obligations.CastlingRowsTakeEffect : Prop :=
  (∀ (s : State) (pos : Nat), pos < 624 → s.rep.castle = none →
    (pos ∈ s.rep.declared ∨ pos ∈ s.rep.failed → exec (.positionFailed pos) s = .next s) ∧
    (pos ∉ s.rep.declared → pos ∉ s.rep.failed → ∃ t, exec (.positionFailed pos) s = .next t ∧
      tileAtPos t pos = { tileAtPos s pos with heldReset := true, fenced := true } ∧ (∀ k, k ≠ pos → tileAtPos t k = tileAtPos s k) ∧
      (ltAt s pos = 0x3FF → pos ∈ t.rep.failed ∧ t.regions = s.regions) ∧
      (ltAt s pos ≠ 0x3FF → pos ∈ t.rep.declared ∧ ∀ g, regionOf s (regionOfLt s (ltAt s pos)) = some g →
        ∃ h, regionOf t (regionOfLt s (ltAt s pos)) = some h ∧ (∃ e ∈ h.boundary, e.act = .castle pos) ∧
          (inStep g = true → h.failed = true)))) ∧
  (∀ (s : State) (pos : Nat), pos < 624 →
    let lt := ltAt s pos
    let r := regionOfLt s lt
    let ms := castleMoves s pos lt
    let owners := moveRegions s ms
    let stands := fun (o : Nat) => ∀ g, regionOf s o = some g → boundaryUpTo g 2 = true
    let able := eastDeclared s pos = false ∧ rowFree s pos = true ∧ ∀ o ∈ owners, o ≠ r → ∀ g, regionOf s o = some g → g.repairPause = true
    (pos ∉ s.rep.declared ∨ lt = 0x3FF ∨ s.rep.castle.isSome = true ∨ ¬ stands r → exec (.castling pos) s = .next s) ∧
    (pos ∈ s.rep.declared → lt ≠ 0x3FF → s.rep.castle = none → stands r →
      (¬ able → ∃ t, exec (.castling pos) s = .next t ∧ lt ∈ t.absent ∧ pos ∈ t.rep.failed ∧ pos ∉ t.rep.declared ∧ t.rep.held = [] ∧
        (tileAtPos t pos).fenced = true ∧ (tileAtPos t pos).heldReset = true ∧
        (∀ k v, v < 2 → (verState s v = .writable → reValid (routeEntry (routerOf t k) v lt) = false) ∧
          (verState s v ≠ .writable → routeEntry (routerOf t k) v lt = routeEntry (routerOf s k) v lt)) ∧
        ∀ g, regionOf s r = some g → ∃ h, regionOf t r = some h ∧ (∃ e ∈ h.boundary, e.act = .rePlace lt) ∧ ∀ e ∈ h.boundary, e.act ≠ .castle pos) ∧
      (able → (∀ o ∈ owners, o ≠ r → stands o) → ∃ t c, exec (.castling pos) s = .next t ∧ t.rep.castle = some c ∧ c.failed = pos ∧
        c.lt = lt ∧ c.moves = ms ∧ c.done = [] ∧ (∀ o ∈ owners, o ∈ t.rep.held) ∧ t.ltMap = s.ltMap ∧ t.tiles = s.tiles ∧
        ∀ o ∈ owners, ∃ h, regionOf t o = some h ∧ ∃ e ∈ h.boundary, e.act = .flip) ∧
      (able → ¬ (∀ o ∈ owners, o ≠ r → stands o) → ∃ t, exec (.castling pos) s = .next t ∧ t.rep.castle = none ∧
        (∀ o ∈ owners, o ≠ r → o ∈ t.rep.held) ∧ Only [.rep] s t))) ∧
  (∀ (s : State) (pos lt : Nat) (c : Castle), pos < 624 → s.rep.castle = some c →
    (movingFrom c pos = some lt → lt ≠ c.lt →
      (∃ t d, exec (.castlingCopyDone pos true) s = .next t ∧ t.rep.castle = some d ∧ lt ∈ d.done ∧ d.rebuild = c.rebuild ∧ d.lost = c.lost ∧ Only [.rep] s t) ∧
      ∃ t d, exec (.castlingCopyDone pos false) s = .next t ∧ t.rep.castle = some d ∧ lt ∈ d.done ∧ lt ∈ d.rebuild ∧
        (lt ∈ c.rebuild → lt ∈ d.lost) ∧ (lt ∉ c.rebuild → d.lost = c.lost) ∧ Only [.rep] s t) ∧
    (movingFrom c pos = none → exec (.castlingCopyDone pos true) s = .next s ∧ exec (.castlingCopyDone pos false) s = .next s) ∧
    (movingFrom c pos = some lt → lt ≠ c.lt → ∀ ok found w, eccChecked (tileOf s lt) found = [(w, .ue)] →
      (controlWord (tileOf s lt) w = false → ∃ t d, exec (.castlingCopyDone pos ok found) s = .next t ∧ t.rep.castle = some d ∧
        lt ∈ d.spoiled ∧ lt ∈ d.done ∧ (∀ l, movingTo c pos = some l → l ∈ d.spoiled) ∧ d.lost = c.lost ∧
        (tileOf t lt).queues = [] ∧ (tileOf t lt).fired = []) ∧
      (controlWord (tileOf s lt) w = true → ∃ t, exec (.castlingCopyDone pos ok found) s = .next t ∧ t.flt.cause = 5 ∧ t.tiles = [])) ∧
    (movingTo c pos = some lt → ∃ t d, exec (.positionFailed pos) s = .next t ∧ t.rep.castle = some d ∧ lt ∈ d.lost ∧ lt ∈ d.done ∧ Only [.rep] s t) ∧
    (movingFrom c pos = some lt → lt ≠ c.lt → ∃ t d, exec (.positionFailed pos) s = .next t ∧ t.rep.castle = some d ∧ lt ∈ d.rebuild ∧
      lt ∈ d.done ∧ Only [.rep] s t)) ∧
  (∀ s : State, s.rep.castle = none → exec .castlingComplete s = .next s) ∧
  (∀ (s : State) (c : Castle), s.rep.castle = some c →
    let ready := (∀ m ∈ c.moves, m.1 = c.lt ∨ m.1 ∈ c.done) ∧ ∀ r ∈ c.held, ∀ g, regionOf s r = some g → ∀ e ∈ g.boundary, e.act ≠ .flip
    (¬ ready → exec .castlingComplete s = .next s) ∧
    (ready → (c.moves.map (·.1)).Nodup → (c.moves.map (·.2.2)).Nodup → (∀ m ∈ c.moves, m.2.2 ≠ c.failed) →
      (∀ l ∈ c.rebuild ++ c.lost ++ c.spoiled, ∃ m ∈ c.moves, m.1 = l) →
      ∃ t, exec .castlingComplete s = .next t ∧ t.rep.castle = none ∧ t.rep.held = [] ∧ c.failed ∈ t.rep.failed ∧
        c.failed ∉ t.rep.declared ∧ (∀ l ∈ c.lost, l ∈ t.absent) ∧
        (tileAtPos t c.failed).fenced = true ∧ ∀ m ∈ c.moves, posOf t m.1 = m.2.2 ∧
          (m.1 ≠ c.lt → m.1 ∉ c.rebuild → m.1 ∉ c.lost → m.1 ∉ c.spoiled →
            (tileAtPos t m.2.2).spad = chargeWr (chargeRd (spadDrain (tileAtPos s m.2.1).spad) scrubLines) scrubLines ∧ (tileAtPos t m.2.2).queues = (tileAtPos s m.2.1).queues ∧
            (tileAtPos t m.2.2).objs = (tileAtPos s m.2.1).objs)))

/-- Role hand-off (R159 to R161, Tables 5.11 and 5.12): lookups and replies, commit notices, the hand-off message, its timeout and the
activation of a context that holds everything: every head of every page of it, of a producing group and step that a notice covers.
Rests also on the model's choices of assumptions 4, 48, 49. -/
def Obligations.HandoffRowsTakeEffect : Prop :=
  (∀ (s : State) (r : Nat) (m : PrefixLookup) (g : Region), r < 17 → regionOf s r = some g →
    (g.role = .cache → inStep g = true → ∃ t h n, exec (.prefixLookupRx r m) s = .next t ∧ Only [.regions] s t ∧
      regionOf t r = some h ∧ h = { g with ledger := h.ledger } ∧ n ≤ m.keys.length ∧
      h.ledger = g.ledger.map (fun e => if e.final = false ∧ e.step = g.step then { e with lookups := e.lookups ++ [(m, n)] } else e) ∧
      let piece := fun (k : BitVec 128) (p : CachePage) => p ∈ g.cache ∧ p.prefixKey = k ∧ p.modelKey = m.modelKey ∧ p.committed = true
      let held := fun (k : BitVec 128) => (∃ p, piece k p) ∧ ∃ im, g.image = some im ∧ ∀ x, x < im.heads →
        ∃ p, piece k p ∧ p.headFirst ≤ x ∧ x < p.headFirst + p.heads ∧ im.layers ≤ p.layers
      (∀ k ∈ m.keys.take n, held k) ∧ ∀ k, m.keys[n]? = some k → ¬ held k) ∧
    (g.role ≠ .cache ∨ inStep g = false → exec (.prefixLookupRx r m) s = .next s)) ∧
  (∀ (s : State) (r : Nat) (m : PrefixReply) (g : Region), r < 17 → regionOf s r = some g →
    (ctxByKey s g m.seqKey = none → exec (.prefixReplyRx r m) s = .next s) ∧
    ∀ id, ctxByKey s g m.seqKey = some id →
      let c := ctxOf s id
      let n := Nat.min 64 (c.prefixKeys.length - m.firstKey)
      (g.role = .generation → ∃ t, exec (.prefixReplyRx r m) s = .next t ∧ Only [.ctxs] s t ∧
        ctxOf t id = { c with hits := c.hits + m.hit } ∧ ∀ k, k ≠ id → ctxOf t k = ctxOf s k) ∧
      (g.role = .prompt → c.lookup = .waiting m.firstKey → ∃ t, exec (.prefixReplyRx r m) s = .next t ∧ Only [.ctxs, .outbox] s t ∧
        (∀ k, k ≠ id → ctxOf t k = ctxOf s k) ∧
        (m.hit = n → m.firstKey + n < c.prefixKeys.length →
          ctxOf t id = { c with hits := c.hits + m.hit, lookup := .waiting (m.firstKey + n) } ∧
          (g.rank = 0 → isShadow s r = false → ∃ l, t.outbox = s.outbox ++ [.prefixLookup r l] ∧ l.firstKey = m.firstKey + n ∧
            l.keys = (c.prefixKeys.drop (m.firstKey + n)).take 64 ∧ l.seqKey = c.seqKey)) ∧
        (m.hit ≠ n ∨ c.prefixKeys.length ≤ m.firstKey + n →
          ctxOf t id = { c with hits := c.hits + m.hit, lookup := .ended } ∧ t.outbox = s.outbox))) ∧
  (∀ (s : State) (r : Nat) (m : CommitNotice) (g : Region), r < 17 → regionOf s r = some g →
    (ctxByKey s g m.seqKey = none → exec (.commitNoticeRx r m) s = .next s) ∧
    ∀ id, ctxByKey s g m.seqKey = some id → ∃ t, exec (.commitNoticeRx r m) s = .next t ∧ Only [.ctxs] s t ∧
      ctxOf t id = { ctxOf s id with covered := (ctxOf s id).covered ++ [m] } ∧
      ∀ k, k ≠ id → ctxOf t k = ctxOf s k) ∧
  (∀ (s : State) (r : Nat) (m : SeqHandoff) (g : Region), r < 17 → regionOf s r = some g →
    (ctxByKey s g m.seqKey = none → exec (.seqHandoffRx r m) s = .next s) ∧
    ∀ id, ctxByKey s g m.seqKey = some id →
      ((ctxOf s id).state = 1 → ∃ t, exec (.seqHandoffRx r m) s = .next t ∧ Only [.ctxs] s t ∧
        ctxOf t id = { ctxOf s id with handoff := some m } ∧ ∀ k, k ≠ id → ctxOf t k = ctxOf s k) ∧
      ((ctxOf s id).state ≠ 1 → exec (.seqHandoffRx r m) s = .next s)) ∧
  (∀ (s : State) (r ctx : Nat) (g : Region), r < 17 → regionOf s r = some g → ctx ∈ g.ctxIds → (ctxOf s ctx).state = 1 →
    ((ctxOf s ctx).deadline ≤ s.now → atBoundary g = true → ∃ t, exec (.handoffTimeout r ctx) s = .next t ∧ Only [.ctxs] s t ∧
      ctxOf t ctx = { ctxOf s ctx with state := 4, stopReason := 5 } ∧ ∀ k, k ≠ ctx → ctxOf t k = ctxOf s k) ∧
    (s.now < (ctxOf s ctx).deadline ∨ atBoundary g = false → exec (.handoffTimeout r ctx) s = .next s) ∧
    let piece := fun (i : Nat) (p : PageIn) => p ∈ (ctxOf s ctx).pagesIn ∧ p.page = i ∧ ∃ n ∈ (ctxOf s ctx).covered, n.group = p.group ∧
      n.step = p.step ∧ n.firstPage ≤ i ∧ i ≤ n.lastPage
    let usable := fun (i : Nat) => (∃ p, piece i p) ∧ ∃ im, g.image = some im ∧ ∀ x, x < im.heads →
      ∃ p, piece i p ∧ p.head ≤ x ∧ x < p.head + p.heads ∧ im.layers ≤ p.layers
    let missing := (ctxOf s ctx).handoff = none ∨ ∃ h, (ctxOf s ctx).handoff = some h ∧ ∃ i, i < ceilDiv h.position 128 ∧ ¬ usable i
    (missing → exec (.handoffActivation r ctx) s = .next s) ∧
    (¬ missing → atBoundary g = true → ∃ t h, exec (.handoffActivation r ctx) s = .next t ∧ (ctxOf s ctx).handoff = some h ∧
      Only [.ctxs] s t ∧ (∀ k, k ≠ ctx → ctxOf t k = ctxOf s k) ∧
      ctxOf t ctx = { ctxOf s ctx with state := 2, position := h.position, lastToken := h.lastToken, tokensOut := h.tokensOut }))

/-- Pages pushed between devices (R160, R162, Table 5.11): the CRC, the second copy, the page of a context's page list, the store of a
cache region and its commit with the least recently served page dropped, every stored piece of a page that a lookup hit pushed to
both groups, and the acknowledgement that ends a push. That a page for a cache region in no step gets no answer is the model's
choice (assumption 144).
Rests also on the model's choices of assumptions 4, 50. -/
def Obligations.PageRowsTakeEffect : Prop :=
  (∀ (s : State) (r : Nat) (m : PagePush) (g : Region), r < 17 → regionOf s r = some g →
    let acked := fun (t : State) (st : PageAckStatus) =>
      t.outbox = if isShadow s r then s.outbox else s.outbox ++ [.pageAck r m.srcDev m.seqKey m.pageIndex st]
    (crc64 (m.blocks.flatMap id) ≠ m.crc →
      ∃ t, exec (.pagePushRx r m) s = .next t ∧ acked t .checkFail ∧ Only [.outbox] s t) ∧
    (crc64 (m.blocks.flatMap id) = m.crc → ∀ im, g.image = some im →
      (g.role ≠ .cache → ctxByKey s g m.seqKey = none →
        ∃ t, exec (.pagePushRx r m) s = .next t ∧ acked t .noContext ∧ Only [.outbox] s t) ∧
      (g.role ≠ .cache → ∀ id, ctxByKey s g m.seqKey = some id →
        let got : PageIn := ⟨m.pageIndex, m.step, m.headFirst, m.group, m.heads, m.layers⟩
        let twice := ∃ p ∈ (ctxOf s id).pagesIn, p.page = m.pageIndex ∧ p.step = m.step ∧ p.head = m.headFirst ∧ p.group = m.group
        (twice →
          ∃ t, exec (.pagePushRx r m) s = .next t ∧ acked t .duplicate ∧ Only [.outbox] s t) ∧
        (¬ twice → poolPageOf s (ctxOf s id) m.pageIndex = none →
          ∃ t, exec (.pagePushRx r m) s = .next t ∧ acked t .noRoom ∧ Only [.outbox] s t) ∧
        (¬ twice → ∀ pp, poolPageOf s (ctxOf s id) m.pageIndex = some pp →
          let layer := fun (i : Nat) => i / Nat.max m.heads 1
          let head := fun (i : Nat) => m.headFirst + i % Nat.max m.heads 1
          let put := fun (i : Nat) (e : PageMapEntry) (bytes : List Byte) => ∃ b, m.blocks[i]? = some b ∧ layer i < im.layers ∧
            head i < im.heads ∧ ((blockPlace im pp (layer i) (head i) = some e ∧ bytes = b.take blockBytes) ∨
              (m.tail = true ∧ tailPlace im (ctxRank g id) (layer i) (head i) = some e ∧ bytes = b.drop blockBytes))
          (∀ k, spadWf (tileAtPos s k).spad = true) →
          ∃ t, exec (.pagePushRx r m) s = .next t ∧ acked t .ok ∧ Only [.tiles, .regions, .ctxs, .outbox] s t ∧
            regionOf t r = some (if inStep g then { g with landed := g.landed ++ [(id, m)] } else g) ∧
            ctxOf t id = { ctxOf s id with pagesIn := (ctxOf s id).pagesIn ++ [got] } ∧
            (∀ k, k ≠ id → ctxOf t k = ctxOf s k) ∧
            (∀ i e bytes, put i e bytes →
              (∀ j x bs, put j x bs → (x = e ∧ bs = bytes) ∨ posOf s x.lt ≠ posOf s e.lt ∨ x.addr + bs.length ≤ e.addr ∨
                e.addr + bytes.length ≤ x.addr) →
              spadRead (tileOf t e.lt).spad e.addr bytes.length = bytes) ∧
            ∀ k a, (∀ j x bs, put j x bs → posOf s x.lt ≠ k ∨ a < x.addr ∨ x.addr + bs.length ≤ a) →
              spadByte (tileAtPos t k).spad a = spadByte (tileAtPos s k).spad a)) ∧
      (g.role = .cache → inStep g = false → exec (.pagePushRx r m) s = .next s) ∧
      (g.role = .cache → inStep g = true →
        let twice := ∃ p, (p ∈ g.cache ∨ p ∈ g.cacheIn) ∧ p.seqKey = m.seqKey ∧ p.pageIndex = m.pageIndex ∧ p.step = m.step ∧
          p.headFirst = m.headFirst
        let keep := g.cache.filter (pinned g) ++ g.cacheIn
        let full := (∀ p ∈ keep, p.prefixKey ≠ m.prefixKey ∨ p.modelKey ≠ m.modelKey) ∧
          im.poolPages ≤ (keep.map fun p => (p.prefixKey, p.modelKey)).eraseDups.length
        (twice → ∃ t, exec (.pagePushRx r m) s = .next t ∧ acked t .duplicate ∧ Only [.outbox] s t) ∧
        (¬ twice → m.tail = true ∨ m.tokens ≠ 128 ∨ full → ∃ t, exec (.pagePushRx r m) s = .next t ∧ acked t .noRoom ∧ Only [.outbox] s t) ∧
        (¬ twice → m.tail = false → m.tokens = 128 → ¬ full →
          ∃ t h p, exec (.pagePushRx r m) s = .next t ∧ acked t .ok ∧ Only [.regions, .outbox] s t ∧ regionOf t r = some h ∧
            h = { g with ledger := h.ledger, cacheIn := g.cacheIn ++ [p] } ∧ p.prefixKey = m.prefixKey ∧ p.modelKey = m.modelKey ∧
            p.seqKey = m.seqKey ∧ p.pageIndex = m.pageIndex ∧ p.headFirst = m.headFirst ∧ p.heads = m.heads ∧ p.layers = m.layers ∧
            p.blocks = m.blocks ∧ p.step = m.step ∧ p.committed = false ∧ p.served = s.now ∧
            (∀ e ∈ h.ledger, e.final = false → e.step = g.step → (m.seqKey, m.pageIndex) ∈ e.stored) ∧
            ∀ e ∈ g.ledger, e.final = true ∨ e.step ≠ g.step → e ∈ h.ledger)))) ∧
  (∀ (g : Region) (im : Image) (p : CachePage), g.image = some im →
    let kept := g.cache.filter fun q => !(q.prefixKey == p.prefixKey && q.modelKey == p.modelKey && q.headFirst == p.headFirst)
    let put : CachePage := { p with committed := true }
    let h := cacheStore g p
    let fits := (∃ q ∈ kept, q.prefixKey = p.prefixKey ∧ q.modelKey = p.modelKey) ∨
      (kept.map fun q => (q.prefixKey, q.modelKey)).eraseDups.length < im.poolPages
    (fits → h = { g with cache := kept ++ [put] }) ∧
    (¬ fits → (∀ q ∈ kept, pinned g q = true) → h.cache = g.cache ∧ h.cacheDropped = g.cacheDropped + 1) ∧
    (¬ fits → (∃ q ∈ kept, pinned g q = false) → h.cacheDropped = g.cacheDropped + 1 ∧ ∃ old ∈ kept,
      pinned g old = false ∧ (∀ q ∈ kept, pinned g q = false → old.served ≤ q.served) ∧
      h.cache = (kept.filter fun q => q.prefixKey != old.prefixKey || q.modelKey != old.modelKey) ++ [put])) ∧
  (∀ (s : State) (r : Nat) (g : Region) (step i hit : Nat) (m : PrefixLookup) (k : BitVec 128) (p : CachePage) (d : Nat), r < 17 →
    regionOf s r = some g → isShadow s r = false → m.keys[i]? = some k → i < hit → p ∈ g.cache → p.prefixKey = k →
    p.modelKey = m.modelKey → p.committed = true → d = m.promptGroup ∨ d = m.genGroup →
    ∃ x, OutMsg.pagePush r d x ∈ (cacheOut s r g step (m, hit)).outbox ∧ x.blocks = p.blocks ∧ x.headFirst = p.headFirst ∧
      x.heads = p.heads ∧ x.layers = p.layers ∧ x.step = step ∧ x.seqKey = m.seqKey ∧ x.pageIndex = m.firstKey + i) ∧
  (∀ (s : State) (r : Nat) (g : Region), r < 17 → regionOf s r = some g → g.role = .cache → g.mstate = .drained →
    localOk s r g = true → isShadow s r = false → missingReady g = [] →
    let told := fun (l : List CachePage) => l.map fun p => { p with served := 0 }
    ∃ t h, exec (.localConditionsMet r) s = .next t ∧ regionOf t r = some h ∧ h.cacheIn = [] ∧
      h.cacheDropped = (cacheCommit g).cacheDropped ∧ told h.cache = told (cacheCommit g).cache) ∧
  (∀ (s : State) (r key page : Nat) (st : PageAckStatus) (of : Option Nat) (g : Region), r < 17 → regionOf s r = some g →
    let mine := fun (x : Nat × PagePush) => x.2.seqKey = key ∧ x.2.pageIndex = page ∧ ∀ k, of = some k → x.1 = k
    ((∀ x ∈ g.pushes, ¬ mine x) → exec (.pageAckRx r key page st of) s = .next s) ∧
    ∀ l x rest, g.pushes = l ++ x :: rest → (∀ y ∈ l, ¬ mine y) → mine x →
      (st = .checkFail → exec (.pageAckRx r key page st of) s = .next { s with outbox := s.outbox ++ [.pagePush r x.1 x.2] }) ∧
      (st ≠ .checkFail → ∃ t, exec (.pageAckRx r key page st of) s = .next t ∧ Only [.regions] s t ∧
        regionOf t r = some { g with pushes := l ++ rest }))

/-- The collective engines and expert batches (R179, R180, R230 to R239): what an engine does with a COLL packet, the opening of the
local side, one folded block, the release of a result, a result at its tile, an expert row and a CLOSE, and the CLOSE messages of
a SCATTER (R178).
Rests also on the model's choices of assumptions 4, 100, 108. -/
def Obligations.CollectiveRowsTakeEffect : Prop :=
  (∀ (s u : State) (die : Nat) (p : Packet), die < 4 →
    takeEng s die (fun p => p.typ == tColl && cDestDev p == s.idn.deviceId) = some (p, u) → p.srcDev ≠ s.idn.deviceId →
    cKind p = 2 ∨ cKind p = 3 → stepVerdict s p.region p = .ok → (∀ c ∈ (engineOf s die).closedXfers, c.1 ≠ pktKey p) →
    (∀ q, findQueue (engineOf s die) p.region (cCq p) = some q → pieceHeld (ctxFor q.2 (cSeq p)) p = false) →
    let e := engineOf s die
    let answered := fun (t : State) (typ reason : Nat) => ∃ a ∈ (engineOf t die).inbox, a.typ = typ ∧
      a.transport = ackTransport p.flow p.transfer p.seq reason p.srcDev p.srcLt
    (findQueue e p.region (cCq p) = none → ∃ t, exec (.collPacketRx die none) s = .next t ∧ answered t tNack 0x0A) ∧
    ∀ q, findQueue e p.region (cCq p) = some q → parMismatch (ctxFor q.2 (cSeq p)) p = false →
      (inWindow q.2 (cSeq p) = false → ∃ t, exec (.collPacketRx die none) s = .next t ∧ answered t tNack 0x02 ∧
        (engineOf t die).cnt.ctxNack = satAdd e.cnt.ctxNack 1 32) ∧
      (inWindow q.2 (cSeq p) = true → p.seq = 0 → p.last = true → eRx e (pktKey p) = none →
        let d := pipDigest p.payload (trailerColl (stepOf s p.region) (attemptOf s p.region) (cRank p) (cCq p) (cSeq p) (cPiece p))
        let open_ := (ctxFor q.2 (cSeq p)).localOpen || (ctxFor q.2 (cSeq p)).done
        (d.toNat = cDigest p → ∃ t, exec (.collPacketRx die none) s = .next t ∧
          (engineOf t die).cnt.contribRx = satAdd e.cnt.contribRx 1 48 ∧ (engineOf t die).cnt.digestOk = satAdd e.cnt.digestOk 1 48 ∧
          (open_ = true → answered t tAck 0) ∧
          (open_ = false → ∃ c, ctxAt t die p.region (cCq p) (cSeq p) = some c ∧ ∃ y ∈ c.peers, y.rank = cRank p ∧
            y.result = (cKind p == 3) ∧ y.data = p.payload ∧ y.whole = true ∧ y.checked = true ∧ y.hold = some p)) ∧
        (d.toNat ≠ cDigest p → ∃ t, exec (.collPacketRx die none) s = .next t ∧
          (engineOf t die).cnt.digestFail = satAdd e.cnt.digestFail 1 32 ∧ ∀ g, regionOf s p.region = some g → inStep g = true →
            ∃ h, regionOf t p.region = some h ∧ h.failed = true))) ∧
  (∀ (s u : State) (die lt : Nat) (p : Packet), die < 4 → lt < 576 →
    Takes s lt (fun p => p.typ == tColl && cKind p == 1) p u → FreshWhole s lt p →
    spadWf (tileOf s lt).spad = true → ∃ t, exec (.collPacketRx die (some lt)) s = .next t ∧ Remembers t lt p 0 ∧
      (p.payload ≠ [] → spadRead (tileOf t lt).spad p.dstAddr p.payload.length = p.payload) ∧
      ∀ a, a < p.dstAddr ∨ p.dstAddr + p.payload.length ≤ a → tileByte t lt a = tileByte s lt a) ∧
  (∀ (s : State) (die r cq seq : Nat) (g : Region) (c : CollCtx), die < 4 → r < 17 → regionOf s r = some g →
    ctxAt s die r cq seq = some c →
    let b := ctxBlock c
    let n := collMembers g
    let own := pieceRange b.elements n g.rank
    let k := Nat.min (foldBlockLen b) (own.2 - c.folded)
    (c.localOpen = false → c.done = false → c.contribs ≠ [] → c.contribs.length = b.localParts →
      (openFailure g c = none → ∃ t, exec (.localSideOpen die r cq seq) s = .next t ∧
        (∀ x ∈ openSends die r g c, x ∈ (engineOf t die).flows.map (·.x)) ∧
        (∀ y ∈ c.peers, ∀ l, y.hold = some l → l.srcDev ≠ s.idn.deviceId → ∃ a ∈ (engineOf t die).inbox,
          a.typ = (if y.par = parOf b then tAck else tNack) ∧
          a.transport = ackTransport l.flow l.transfer l.seq (if y.par = parOf b then 0 else 0x0B) l.srcDev l.srcLt) ∧
        (b.op ≤ 1 → c.released = false → ∃ c', ctxAt t die r cq seq = some c' ∧ c'.localOpen = true ∧ c'.contribs = c.contribs)) ∧
      (∀ f, openFailure g c = some f → ∃ t, exec (.localSideOpen die r cq seq) s = .next t ∧ ∀ x ∈ c.contribs, ∀ g',
        regionOf s (tileOf s x.lt).region = some g' → inStep g' = true →
          ∃ h, regionOf t (tileOf s x.lt).region = some h ∧ h.failed = true)) ∧
    (c.localOpen = true ∨ c.done = true ∨ c.contribs.length ≠ b.localParts → exec (.localSideOpen die r cq seq) s = .next s) ∧
    (c.localOpen = true → b.op ≤ 1 → 0 < k → foldReady g b c c.folded k = true → ∃ t, exec (.foldBlockDone die r cq seq) s = .next t ∧
      ctxAt t die r cq seq = some { c with
        folded := c.folded + k
        result := c.result ++ (List.range k).map fun i =>
          foldCanon b ((foldRanks g c).map fun q => rankElem g b c own.1 q (c.folded + i)) } ∧
      (engineOf t die).cnt.foldOps = satAdd (engineOf s die).cnt.foldOps ((n - 1) * k) 48 ∧ Only [.engines] s t) ∧
    (g.arrivalFold = false → foldRanks g c = List.range n) ∧
    (∀ bit, exec (.foldBlockDone die r cq seq (some (.ce bit))) s =
      exec (.foldBlockDone die r cq seq) (countE s die fun m => { m with foldCe := satAdd m.foldCe 1 32 })) ∧
    (inStep g = true → ∃ t h, exec (.foldBlockDone die r cq seq (some .ue)) s = .next t ∧ regionOf t r = some h ∧ h.failed = true ∧
      (engineOf t die).cnt.foldUe = satAdd (engineOf s die).cnt.foldUe 1 32 ∧
      (engineOf t die).queues = (engineOf s die).queues) ∧
    (c.localOpen = false ∨ foldReady g b c c.folded k = false → exec (.foldBlockDone die r cq seq) s = .next s) ∧
    (c.localOpen = true → c.released = false → b.op = 0 → c.folded = own.2 →
      ((otherRanks g).all fun q => (peerPiece c q false).any (·.checked)) = true →
      ∃ t, exec (.resultRelease die r cq seq) s = .next t ∧ ∀ q ∈ otherRanks g, ∀ x,
        peerXfer die r g c b 3 q g.rank own.1 b.outType (c.result.flatMap (collBytes b.outType)) = some x →
          x ∈ (engineOf t die).flows.map (·.x)) ∧
    (c.released = true → exec (.resultRelease die r cq seq) s = .next s)) ∧
  (∀ (s u : State) (lt : Nat) (p : Packet) (k : Nat) (e : ExpertRec), lt < 576 → FreshWhole s lt p →
    expertRecOf (tileOf s lt) p = some (k, e) → sget expertReset (tileOf s lt).experts k = e → p.srcDev = s.idn.deviceId →
    let x := sget expStateReset (tileOf s lt).expState k
    let f := wholeFlow s lt p
    let none_ := storeRow (tileOf s lt) s.now k (stepOf s (tileRegion (tileOf s lt))) s.idn.deviceId lt f.bulk f.inl = none
    let bad := rowBad (tileOf s lt) k f.bulk.length
    (Takes s lt (fun p => (expertRecOf (tileOf s lt) p).isSome && !isClose (tileOf s lt) p) p u →
      (bad = true → ∃ t, exec (.expertRowRx lt) s = .next t ∧ Remembers t lt p 0x0D ∧ Answers u t lt p tNack 0x0D ∧
        ∀ a, tileByte t lt a = tileByte s lt a) ∧
      (bad = false → none_ → ∃ t, exec (.expertRowRx lt) s = .next t ∧ Remembers t lt p 0x02 ∧ Answers u t lt p tNack 0x02) ∧
      (bad = false → x.owed = false → x.cur ∉ x.posted → x.rows < e.batchMinus1 → f.bulk.length ≤ 64 * e.rowPitch →
        spadWf (tileOf s lt).spad = true → ∃ t, exec (.expertRowRx lt) s = .next t ∧ Remembers t lt p 0 ∧
          sget expStateReset (tileOf t lt).expState k = { x with rows := x.rows + 1 } ∧
          spadRead (tileOf t lt).spad (bufAddr e x.cur + 64 * e.rowPitch * x.rows) f.bulk.length = f.bulk)) ∧
    (Takes s lt (fun p => (expertRecOf (tileOf s lt) p).isSome && isClose (tileOf s lt) p) p u →
      ∃ t, exec (.expertCloseRx lt) s = .next t ∧ Remembers t lt p 0 ∧
        (sget expStateReset (tileOf t lt).expState k).closes = x.closes + 1 ∧
        (tileOf t lt).cnt.msgAccepted = satAdd (tileOf s lt).cnt.msgAccepted 1 48)) ∧
  (∀ (s : State) (lt q : Nat), lt < 576 → q < 64 →
    (scatterDone (tileOf s lt) q = none → exec (.scatterClose lt q) s = .next s) ∧
    ∀ f, scatterDone (tileOf s lt) q = some f →
      let n := if f.stage = 0 then (closeDests s lt f.desc).length else 0
      ∃ t, exec (.scatterClose lt q) s = .next t ∧ Only [.tiles, .routers] s t ∧
        (tileOf t lt).cnt.msgSent = satAdd (tileOf s lt).cnt.msgSent n 48 ∧
        { f with closing := true, openParts := if n = 0 then [] else [(mParts f.desc, n)] } ∈ (tileOf t lt).fired)

/-- The link layer of a port (R243, R246 to R249, Table 9.14): every DATA flit in its turn is accepted, a later one asked for again,
an older one dropped as a duplicate; XOFF follows the fill at the marks 96 and 32; an IDLE flit brings acknowledgements; a flit
that fails its CRC is counted, as is what the forward error correction did; a replay request is served from the held flits or
retrains the port. Where a packet that waits at the port has become too old it is dropped as its turn comes (R245).
Rests also on the model's choices of assumptions 4, 98, 99. -/
def Obligations.FlitRowsTakeEffect : Prop :=
  (∀ (s : State) (p : Nat) (f : Flit), p < 12 → (portOf s p).state = psActive → f.ftype = 0 →
    let a := portOf s p
    let d := (f.seq + 4096 - a.expected) % 4096
    let st := streamOf (f.vc % 4) (f.flane % 2)
    ∃ t, exec (.flitDataRx p f) s = .next t ∧ OtherPorts p s t ∧ Only [.engines, .fab] s t ∧
      (d = 0 → HeaderTaken a (portOf t p) f [] ∧ (portOf t p).expected = (a.expected + 1) % 4096 ∧
        sget 0 (portOf t p).rxSeen st = sget 0 a.rxSeen st + 1 ∧
        sget 0 (portOf t p).cnt.flitsRx st = satAdd (sget 0 a.cnt.flitsRx st) 1 48 ∧
        (∃ l, (engineOf t (p / 3)).ingress = (engineOf s (p / 3)).ingress ++ l ∧
          ∀ x ∈ l, x.port = p ∧ x.epoch = b2n s.fab.epoch ∧ x.since = s.now) ∧
        XoffFollows p s t) ∧
      (0 < d → d ≤ 2047 → (portOf t p).expected = a.expected ∧ FageDrops p s t ∧ (portOf t p).reqSeq = a.expected ∧
        (if a.reqSeq = a.expected ∧ (∃ x, a.reqAt = some x ∧ s.now - x < 4000) then
          HeaderTaken a (portOf t p) f [] ∧ (portOf t p).reqAt = a.reqAt ∧ (portOf t p).cnt.replayTx = a.cnt.replayTx
        else ∃ r, HeaderTaken a (portOf t p) f [r] ∧ r.ftype = 2 ∧ r.seq = a.expected ∧ (portOf t p).reqAt = some s.now ∧
          (portOf t p).cnt.replayTx = satAdd a.cnt.replayTx 1 32)) ∧
      (2047 < d → HeaderTaken a (portOf t p) f [] ∧ (portOf t p).expected = a.expected ∧ FageDrops p s t ∧
        (portOf t p).cnt.dupFlit = satAdd a.cnt.dupFlit 1 32)) ∧
  (∀ (s : State) (p : Nat) (f : Flit), p < 12 → (portOf s p).state = psActive → f.ftype = 1 →
    ∃ t, exec (.flitIdleRx p f) s = .next t ∧ OtherPorts p s t ∧ Only [.engines, .fab] s t ∧ FageDrops p s t ∧
      HeaderTaken (portOf s p) (portOf t p) f [] ∧
      (portOf t p).expected = (portOf s p).expected) ∧
  (∀ (s : State) (p : Nat), p < 12 → ∃ t, exec (.flitCrcFail p) s = .next t ∧ OtherPorts p s t ∧ Only [.fab] s t ∧
    portOf t p = { portOf s p with cnt := { (portOf s p).cnt with crcFail := satAdd (portOf s p).cnt.crcFail 1 32 } }) ∧
  (∀ (s : State) (p : Nat) (f : Flit), p < 12 → (portOf s p).state = psActive → f.ftype = 2 →
    let q := { takeAck (portOf s p) f with txXoff := f.xoff }
    let n := if q.gotSeq = f.seq then q.gotCount + 1 else 1
    ((∀ x ∈ q.held, x.seq ≠ f.seq) ∨ 8 ≤ n → ∃ t, exec (.replayReqRx p f) s = .next t ∧
      (portOf t p).failReason = 0x0A ∧ (portOf t p).held = [] ∧ OtherPorts p s t ∧
      ((portOf t p).state = psRetrain ∨ (portOf t p).state = psFailed) ∧
      (portOf t p).cnt.replayRx = satAdd (portOf s p).cnt.replayRx 1 32) ∧
    (∀ l x rest, q.held = l ++ x :: rest → (∀ y ∈ l, y.seq ≠ f.seq) → x.seq = f.seq → n < 8 →
      ∃ t, exec (.replayReqRx p f) s = .next t ∧ OtherPorts p s t ∧ Only [.engines, .fab] s t ∧ FageDrops p s t ∧
        (portOf t p).state = psActive ∧
        (portOf t p).gotCount = n ∧ (portOf t p).gotSeq = f.seq ∧
        (∃ new, (portOf t p).held = q.held ++ new ∧ (∀ y ∈ new, y.ftype = 0 ∧ bitOf f.xoff (streamOf y.vc y.flane) = false) ∧
          (portOf t p).wire = q.wire ++ (x :: rest).map (fun y => { y with ackSeq := (q.expected + 4095) % 4096, xoff := q.rxXoff }) ++ new) ∧
        (portOf t p).cnt.replayRx = satAdd (portOf s p).cnt.replayRx 1 32 ∧
        (portOf t p).cnt.replayed = satAdd (portOf s p).cnt.replayed (rest.length + 1) 48)) ∧
  (∀ (s : State) (p : Nat) (f : Flit), p < 12 → (portOf s p).state = psActive → 4 ≤ f.ftype → ∃ t, exec (.flitDataRx p f) s = .next t ∧
    OtherPorts p s t ∧ Only [.fab] s t ∧
    portOf t p = { portOf s p with cnt := { (portOf s p).cnt with crcFail := satAdd (portOf s p).cnt.crcFail 1 32 } }) ∧
  (∀ (s : State) (p : Nat) (f : Flit) (raw : List Byte), p < 12 → (portOf s p).state = psActive → raw ≠ [] →
    (∀ g, readFlit raw = some g → exec (.flitDataRx p f raw) s = exec (.flitDataRx p g) s ∧
      exec (.flitIdleRx p f raw) s = exec (.flitIdleRx p g) s ∧ exec (.replayReqRx p f raw) s = exec (.replayReqRx p g) s) ∧
    (readFlit raw = none → exec (.flitDataRx p f raw) s = exec (.flitCrcFail p) s ∧ exec (.flitIdleRx p f raw) s = exec (.flitCrcFail p) s ∧
      exec (.replayReqRx p f raw) s = exec (.flitCrcFail p) s)) ∧
  (∀ (s : State) (p : Nat) (f : Flit) (raw : List Byte) (lane n u : Nat), p < 12 → lane < 4 →
    let x : FecSeen := ⟨[(lane, n)], u⟩
    let t := noteFec s p x
    exec (.flitDataRx p f raw x) s = exec (.flitDataRx p f raw) t ∧ exec (.flitIdleRx p f raw x) s = exec (.flitIdleRx p f raw) t ∧
      exec (.replayReqRx p f raw x) s = exec (.replayReqRx p f raw) t ∧ exec (.flitCrcFail p x) s = exec (.flitCrcFail p) t ∧
      (portOf t p).cnt.fecUncorr = satAdd (portOf s p).cnt.fecUncorr u 32 ∧
      (∀ i, sget 0 (portOf t p).cnt.fecCorr i =
        (if i = lane then satAdd (sget 0 (portOf s p).cnt.fecCorr i) n 48 else sget 0 (portOf s p).cnt.fecCorr i)) ∧
      OtherPorts p s t ∧ Only [.fab] s t) ∧
  (∀ (s : State) (p : Nat) (f : Flit), p < 12 → (portOf s p).state ≠ psActive →
    exec (.flitDataRx p f) s = .next s ∧ exec (.flitIdleRx p f) s = .next s ∧ exec (.replayReqRx p f) s = .next s)

/-- Port training (R250 to R255, Tables 9.7 to 9.9): each state's exits on its timers, on the partner's training words and on the
results of equalisation, alignment and qualification.
Rests also on the model's choices of assumptions 3, 4, 98. -/
def Obligations.TrainingRowsTakeEffect : Prop :=
  (∀ (s : State) (p : Nat) (w : TrainWords), p < 12 →
    let a := portOf s p
    (a.state = psActive → ∃ t, exec (.trainRx p w) s = .next t ∧ Leaves s t p psRetrain 0) ∧
    (a.state = psDetect ∨ a.state = psRetrain → ∃ t, exec (.trainRx p w) s = .next t ∧ Enters s t p psNegotiate) ∧
    (a.state ∉ [psActive, psDetect, psRetrain, psNegotiate] → exec (.trainRx p w) s = .next s) ∧
    (a.state = psNegotiate → ∃ t, exec (.trainRx p w) s = .next t ∧ sget 0 t.fab.incs w.dev = w.incarnation ∧
      (portOf t p).peerDev = w.dev ∧ (portOf t p).peerPort = w.port ∧ (portOf t p).peerSerial = w.serial ∧
      ((∀ r, r < 3 → (bitOf (ratesOf a) r && bitOf w.rates r) = false) → Enters s t p psFailed ∧ (portOf t p).failReason = 0x02) ∧
      (∀ r, r < 3 → (bitOf (ratesOf a) r && bitOf w.rates r) = true →
        (∀ k, r < k → k < 3 → (bitOf (ratesOf a) k && bitOf w.rates k) = false) →
        let low := rateRefused r (ratesOf a) = true ∨ rateRefused r w.rates = true
        (low → Enters s t p psFailed ∧ (portOf t p).failReason = 0x02) ∧
        (¬ low → miswired a w = true → Enters s t p psFailed ∧ (portOf t p).failReason = 0x09) ∧
        (¬ low → miswired a w = false → Enters s t p psEqualise ∧ (portOf t p).rate = r ∧
          ((portOf t p).v1 = true ↔ pCompat a = true ∨ bitOf w.framing 1 = false) ∧ (portOf t p).fullOnce = false ∧
          ((portOf t p).savedUsed = true ↔ pSavedEn a = true ∧
            ∃ x, savedFor s p w.serial w.port r (portOf t p).v1 = some x ∧ x.tag = w.savedTag ∧ x.tag ≠ 0))))) ∧
  (∀ (s : State) (p : Nat), p < 12 → (portOf s p).state = psIdle →
    ((portOf s p).since + cyclesPerMs ≤ s.now → ∃ t, exec (.portIdleTimeout p) s = .next t ∧ Enters s t p psDetect) ∧
    (s.now < (portOf s p).since + cyclesPerMs → exec (.portIdleTimeout p) s = .next s)) ∧
  (∀ (s : State) (p : Nat), p < 12 → (portOf s p).state = psDetect →
    ((portOf s p).since + cyclesPerSec ≤ s.now →
      ∃ t, exec (.portDetectTimeout p) s = .next t ∧ Enters s t p psFailed ∧ (portOf t p).failReason = 0x01) ∧
    (s.now < (portOf s p).since + cyclesPerSec → exec (.portDetectTimeout p) s = .next s)) ∧
  (∀ (s : State) (p : Nat), p < 12 → (portOf s p).state = psEqualise →
    (∃ t, exec (.equaliseDone p true) s = .next t ∧ Enters s t p psAlign) ∧
    ((portOf s p).savedUsed = true → ∃ t, exec (.equaliseDone p false) s = .next t ∧ OtherPorts p s t ∧ Only [.fab] s t ∧
      portOf t p = { portOf s p with savedUsed := false, cnt := { (portOf s p).cnt with savedFallback := satAdd (portOf s p).cnt.savedFallback 1 32 } }) ∧
    ((portOf s p).savedUsed = false →
      ∃ t, exec (.equaliseDone p false) s = .next t ∧ Enters s t p psFailed ∧ (portOf t p).failReason = 0x03)) ∧
  (∀ (s : State) (p ns : Nat), p < 12 → (portOf s p).state = psAlign →
    (∃ t, exec (.alignDone p false ns) s = .next t ∧ Enters s t p psFailed ∧ (portOf t p).failReason = 0x04) ∧
    (rttLimit (portOf s p).rate < ns → ∃ t, exec (.alignDone p true ns) s = .next t ∧ Enters s t p psFailed ∧ (portOf t p).failReason = 0x08) ∧
    (ns ≤ rttLimit (portOf s p).rate → ∃ t, exec (.alignDone p true ns) s = .next t ∧ Enters s t p psQualify ∧
      (portOf t p).rtt = ns ∧ (portOf t p).nextSeq = 0 ∧ (portOf t p).expected = 0 ∧ (portOf t p).held = [] ∧
      (portOf t p).partial_ = [] ∧ (portOf t p).txXoff = 0 ∧ (portOf t p).rxXoff = 0)) ∧
  (∀ (s : State) (p fail : Nat), p < 12 → (portOf s p).state = psQualify →
    (∃ t, exec (.qualifyDone p 0) s = .next t ∧ Enters s t p psActive ∧
      t.fab.nextTag = (if s.fab.nextTag = 0xFFFF then 1 else s.fab.nextTag + 1) ∧
      ∃ x ∈ t.fab.saved, x.port = p ∧ x.serial = (portOf s p).peerSerial ∧ x.peerPort = (portOf s p).peerPort ∧
        x.rate = (portOf s p).rate ∧ x.v1 = (portOf s p).v1 ∧ x.tag = s.fab.nextTag) ∧
    (0 < fail → ∃ t, exec (.qualifyDone p fail) s = .next t ∧
      ((portOf s p).fullOnce = false → Enters s t p psEqualise ∧ (portOf t p).savedUsed = false ∧ (portOf t p).fullOnce = true) ∧
      ((portOf s p).fullOnce = true → pDownshift (portOf s p) = true → 0 < (portOf s p).rate →
        Enters s t p psNegotiate ∧ (portOf t p).rateCap = (portOf s p).rate - 1) ∧
      ((portOf s p).fullOnce = true → pDownshift (portOf s p) = false ∨ (portOf s p).rate = 0 →
        Enters s t p psFailed ∧ (portOf t p).failReason = fail))) ∧
  (∀ (s : State) (p st ms reason : Nat), p < 12 → (portOf s p).state = st →
    (st, ms, reason) ∈ [(psNegotiate, 2, 0x02), (psEqualise, if (portOf s p).savedUsed then 20 else 800, 0x03), (psAlign, 2, 0x04)] →
    ((portOf s p).since + ms * cyclesPerMs ≤ s.now →
      ∃ t, exec (.portStateBoundExpiry p) s = .next t ∧ Enters s t p psFailed ∧ (portOf t p).failReason = reason) ∧
    (s.now < (portOf s p).since + ms * cyclesPerMs → exec (.portStateBoundExpiry p) s = .next s))

/-- Loss and return of a port (R250, R255, R256, R258): signal lost, the error limits, the retry of a port that found no signal, and a
fabric port reset, which keeps TRN_PORT_CTL, the counters and the saved settings.
Rests also on the model's choices of assumptions 4, 98. -/
def Obligations.PortLossRowsTakeEffect : Prop :=
  (∀ (s : State) (p : Nat), p < 12 →
    let st := (portOf s p).state
    (st = psActive → ∃ t, exec (.portLossOfSignal p) s = .next t ∧ Leaves s t p psIdle 0x0B) ∧
    (psNegotiate ≤ st → st ≤ psRetrain → st ≠ psActive →
      ∃ t, exec (.portLossOfSignal p) s = .next t ∧ Enters s t p psIdle ∧ (portOf t p).failReason = 0x0B) ∧
    (st < psNegotiate ∨ psRetrain < st →
      exec (.portLossOfSignal p) s = .next (setPort s p { portOf s p with signal := false })) ∧
    ∀ t, exec (.portLossOfSignal p) s = .next t → (portOf t p).signal = false) ∧
  (∀ (s : State) (p reason : Nat), p < 12 →
    ((portOf s p).state = psActive → ∃ t, exec (.portErrorLimit p reason) s = .next t ∧ Leaves s t p psRetrain reason) ∧
    ((portOf s p).state ≠ psActive → exec (.portErrorLimit p reason) s = .next s)) ∧
  (∀ (s : State) (p : Nat), p < 12 → (portOf s p).state = psFailed →
    let silent := (portOf s p).failReason = 0x01 ∧ pEn (portOf s p) = true
    (silent → (∃ t, exec (.portSignalDetect p) s = .next t ∧ Enters s t p psIdle ∧ (portOf t p).signal = true) ∧
      ((portOf s p).since + cyclesPerSec ≤ s.now → ∃ t, exec (.portFailedRetry p) s = .next t ∧ Enters s t p psIdle) ∧
      (s.now < (portOf s p).since + cyclesPerSec → exec (.portFailedRetry p) s = .next s)) ∧
    (¬ silent → exec (.portFailedRetry p) s = .next s)) ∧
  (∀ (s : State) (p : Nat), p < 12 →
    (portOf s p).state ≠ psFailed ∨ (portOf s p).failReason ≠ 0x01 ∨ pEn (portOf s p) = false →
    exec (.portSignalDetect p) s = .next (setPort s p { portOf s p with signal := true })) ∧
  (∀ (s : State) (p : Nat), p < 12 →
    let a := portOf s p
    ∃ t, exec (.fabricPortReset p) s = .next t ∧ OtherPorts p s t ∧ t.fab.saved = s.fab.saved ∧
      (portOf t p).state = (if pEn a then psIdle else psOff) ∧ (portOf t p).failReason = 0 ∧ (portOf t p).settled = a.settled ∧
      t.outbox = s.outbox ++ [.linkEvent s.idn.deviceId s.fab.inc (ownLinks t)] ∧
      (portOf t p).ctl = a.ctl ∧ (portOf t p).since = s.now ∧ (portOf t p).held = [] ∧ (portOf t p).txq = [] ∧
      (portOf t p).expected = 0 ∧ (portOf t p).nextSeq = 0 ∧ (portOf t p).wire = a.wire ∧
      (engineOf t (p / 3)).egress = (engineOf s (p / 3)).egress ++ a.txq ∧
      (a.state ≠ psActive → (portOf t p).cnt = a.cnt ∧ (engineOf t (p / 3)).ingress = (engineOf s (p / 3)).ingress) ∧
      (a.state = psActive → (portOf t p).cnt = { a.cnt with leaveActive := satAdd a.cnt.leaveActive 1 32 } ∧
        (engineOf t (p / 3)).ingress = (engineOf s (p / 3)).ingress.filter fun f => f.port != p))

/-- LINK_STATE's five forms and the two register writes on a Tarn port (R250, R258, Tables 9.12, 9.13): what each leaves in
TRN_PORT_CTL and in the port's state, an enabled port that finds signal going on to DETECT at once, and that ports outside the
mask are as they were. A port that leaves ACTIVE for the third time within an hour fails instead (R255), so RETRAIN is stated for
the other states.
Rests also on the model's choices of assumption 6. -/
def Obligations.LinkCommandsTakeEffect : Prop :=
  (∀ (s : State) (h : CmdHdr) (mask : Nat), Rung s h → h.paramLen = 8 → mask ≤ 0xFFF →
    (∃ t, exec (.linkStateRead h mask) s = .next t ∧
      Answered s t h 0x0A 0 ((maskPorts mask).flatMap (portBytes s)) (fnOf s h.func) ∧ t.fab = s.fab ∧ OtherFns h.func s t) ∧
    (h.func = 0 →
      (∃ t, exec (.linkStateEnable h mask) s = .next t ∧ Replied s t h 0x0A 0 ((maskPorts mask).flatMap (portBytes t)) ∧
        (∀ p ∈ maskPorts mask, pEn (portOf t p) = true ∧
          (portOf t p).state = if pEn (portOf s p) = false ∧ (portOf s p).state = 0 then (if (portOf s p).signal then 2 else 1)
            else (portOf s p).state) ∧
        ∀ p, p ∉ maskPorts mask → portOf t p = portOf s p) ∧
      (∃ t, exec (.linkStateDisable h mask) s = .next t ∧ Replied s t h 0x0A 0 ((maskPorts mask).flatMap (portBytes t)) ∧
        (∀ p ∈ maskPorts mask, pEn (portOf t p) = false ∧ (pEn (portOf s p) = true → (portOf t p).state = 0)) ∧
        ∀ p, p ∉ maskPorts mask → portOf t p = portOf s p) ∧
      (∃ t, exec (.linkStateRetrain h mask) s = .next t ∧ Replied s t h 0x0A 0 ((maskPorts mask).flatMap (portBytes t)) ∧
        (∀ p ∈ maskPorts mask, pEn (portOf s p) = true →
          ((portOf s p).state = 9 → (portOf t p).state = 1) ∧
          (1 ≤ (portOf s p).state → (portOf s p).state ≤ 8 → (portOf s p).state ≠ 7 → (portOf t p).state = 8)) ∧
        ∀ p, p ∉ maskPorts mask → portOf t p = portOf s p) ∧
      ∀ ctl : BitVec 32, ∃ t, exec (.linkStateWriteCtl h mask ctl) s = .next t ∧
        Replied s t h 0x0A 0 ((maskPorts mask).flatMap (portBytes t)) ∧
        (∀ p ∈ maskPorts mask, pEn (portOf t p) = bitOf ctl.toNat 31 ∧ pExpected (portOf t p) = bitOf ctl.toNat 30 ∧
          pMaxRate (portOf t p) = Nat.min (fld ctl.toNat 28 2) 2 ∧ fld (portOf t p).ctl 25 3 = fld ctl.toNat 25 3 ∧
          fld (portOf t p).ctl 20 4 = fld ctl.toNat 20 4 ∧ fld (portOf t p).ctl 0 20 = 0 ∧ bitOf (portOf t p).ctl 24 = false) ∧
        ∀ p, p ∉ maskPorts mask → portOf t p = portOf s p)) ∧
  (∀ (s : State) (p : Nat), p < 12 →
    (pEn (portOf s p) = false → (portOf s p).state = 0 → ∃ t, exec (.trnPortCtlEnSet p) s = .next t ∧ pEn (portOf t p) = true ∧
      (portOf t p).state = (if (portOf s p).signal then 2 else 1) ∧ ∀ k, k ≠ p → portOf t k = portOf s k) ∧
    (pEn (portOf s p) = true → (portOf s p).state = 9 → ∃ t, exec (.trnPortCtlRetrain p) s = .next t ∧ (portOf t p).state = 1 ∧
      (portOf t p).ctl = (portOf s p).ctl ∧ ∀ k, k ≠ p → portOf t k = portOf s k) ∧
    (pEn (portOf s p) = true → 1 ≤ (portOf s p).state → (portOf s p).state ≤ 8 → (portOf s p).state ≠ 7 →
      ∃ t, exec (.trnPortCtlRetrain p) s = .next t ∧ (portOf t p).state = 8 ∧ (portOf t p).ctl = (portOf s p).ctl ∧
        ∀ k, k ≠ p → portOf t k = portOf s k))

/-- The fabric gateways (R244, R245, R249, R251, R257, R260, R319, R371, R404, R440): a packet from a port is stale, passes on, or is
delivered; a packet for another device leaves by a port of its route entry, waits, or is refused, and one whose entry is LOCAL is
delivered; each gateway's choice among equal ports rotates on its own; a shadow's packets are swallowed.
Rests also on the model's choices of assumptions 4, 99. -/
def Obligations.GatewayRowsTakeEffect : Prop :=
  (∀ (s : State) (die : Nat), die < 4 → (engineOf s die).ingress = [] → exec (.gatewayIngress die) s = .next s) ∧
  (∀ (s : State) (die : Nat) (f : FabPacket) (rest : List FabPacket), die < 4 → (engineOf s die).ingress = f :: rest →
    let p := f.pkt
    let own := s.idn.deviceId
    let lt := pktDestLt p
    let wrongDest := f.pver = 2 ∧ f.destDev = own ∧ f.destInc ≠ s.fab.inc
    let wrongSrc := f.pver = 2 ∧ f.srcInc ≠ sget 0 s.fab.incs p.srcDev
    let meant := ¬ wrongDest ∧ ¬ wrongSrc
    let entered := fun (t : State) (pos : Nat) (x : Packet) =>
      let k := laneKey 5 x.vc (injectLane s pos x)
      x ∈ sget [] (routerOf t pos).bufs k ∨ laneHeld s pos k = true ∧ (k, x) ∈ (routerOf t pos).outbox ∨
        (routerOf s pos).outbox.any (fun e => e.1 == k) = true ∧ (k, x) ∈ (routerOf t pos).outbox
    let gone := fun (l : Option Nat) (reg : Nat) =>
      ∃ x ∈ s.fab.ended, (∀ a, l = some a → a ∈ x.1) ∧ (p.srcDev, reg) ∈ x.2
    ∃ t, exec (.gatewayIngress die) s = .next t ∧ (engineOf t die).ingress = rest ∧
      (f.port < 12 → XoffFollows f.port s t) ∧
      let counted := fun (c : Nat) => sget 0 (engineOf t die).gwDrop c = satAdd (sget 0 (engineOf s die).gwDrop c) 1 32
      let nacked := fun (reason : Nat) => answered p.typ = true → p.srcDev ≠ own → ∃ a ∈ (engineOf t die).inbox, a.typ = tNack ∧
        a.dstKind = 1 ∧ a.transport = ackTransport p.flow p.transfer p.seq reason p.srcDev p.srcLt
      (wrongDest → counted 0 ∧ (p.vc = 1 ∨ p.vc = 3 → nacked 0x07) ∧ (p.vc = 0 ∨ p.vc = 2 → (engineOf t die).inbox = (engineOf s die).inbox)) ∧
      (¬ wrongDest → wrongSrc → counted 0 ∧ t.routers = s.routers ∧ (engineOf t die).inbox = (engineOf s die).inbox) ∧
      (meant → f.destDev ≠ own →
        (32 < f.fhops + 1 → counted 2 ∧ (engineOf t die).egress = (engineOf s die).egress) ∧
        (f.fhops + 1 ≤ 32 → ∃ g, (engineOf t die).egress = (engineOf s die).egress ++ [g] ∧
          g.fage = f.fage ∧ g.since = f.since ∧ g.fhops = f.fhops + 1 ∧ g.pkt = p ∧ g.destDev = f.destDev ∧
          (f.pver = 1 → g.destInc = sget 0 s.fab.incs f.destDev ∧ g.srcInc = sget 0 s.fab.incs p.srcDev) ∧
          (f.pver ≠ 1 → g.destInc = f.destInc ∧ g.srcInc = f.srcInc))) ∧
      (meant → f.destDev = own → s.pwr.doze = true →
        (p.vc = 0 → t.pwr.dozeDrop = satAdd s.pwr.dozeDrop 1 32 ∧ t.pwr.doze = true ∧ t.routers = s.routers) ∧
        (p.vc ≠ 0 → nacked 0x09 ∧ t.pwr.doze = false)) ∧
      (meant → f.destDev = own → s.pwr.doze = false → p.typ = tColl →
        (regionOfPeer s p.srcDev p.region = none → (gone none p.region → nacked 0x07) ∧ (¬ gone none p.region → nacked 0x0A)) ∧
        ∀ r g, regionOfPeer s p.srcDev p.region = some (r, g) →
          (engineOf t ((p.srcLt - 0x3F8) % 4)).inbox = (engineOf s ((p.srcLt - 0x3F8) % 4)).inbox ++ [enterMesh s f r 0 p.dst true]) ∧
      (meant → f.destDev = own → s.pwr.doze = false → p.typ = tMsg ∨ p.typ = tWrite ∨ p.typ = tSync →
        (present s lt = false → nacked 0x05) ∧
        (present s lt = true →
          let known := (regionOf s (regionOfLt s lt)).bind fun g => g.peers.find? fun q => q.device == p.srcDev && q.region == pktSrcRegion p
          (known = none → (gone (some lt) (pktSrcRegion p) → nacked 0x07) ∧ (¬ gone (some lt) (pktSrcRegion p) → nacked 0x0A)) ∧
          ∀ q pos, known = some q → spineEntry s (dieOfLt s lt) (regionOfLt s lt) = some pos →
            let x := enterMesh s f (regionOfLt s lt) (tileOf s lt).gen lt q.member
            entered t pos x)) ∧
      (meant → f.destDev = own → s.pwr.doze = false → p.typ = tAck ∨ p.typ = tNack ∨ p.typ = tXoff ∨ p.typ = tXon →
        (∀ d, isEngineLt lt = some d → p ∈ (engineOf t d).inbox) ∧
        ∀ pos, isEngineLt lt = none → present s lt = true → spineEntry s (dieOfLt s lt) (regionOfLt s lt) = some pos →
          let x := enterMesh s f (regionOfLt s lt) (tileOf s lt).gen lt false
          entered t pos x)) ∧
  (∀ (s : State) (die : Nat) (f : FabPacket) (rest : List FabPacket), die < 4 → (engineOf s die).egress = f :: rest →
    f.pkt.vc < 4 → (∀ g ∈ rest, f.pkt.vc ≤ g.pkt.vc) →
    let e := fabEntry s f.epoch f.destDev
    let here := (s.now - f.since) / 2 + portLatency (portOf s f.port).rate
    let age := if f.port = 12 then ceilDiv (ageOf s f.pkt * 32) 1000 else f.fage + ceilDiv here 1000
    let nacked := fun (t : State) (reason : Nat) => answered f.pkt.typ = true → f.pkt.srcDev ≠ s.idn.deviceId →
      ∃ a ∈ (engineOf t die).inbox, a.typ = tNack ∧ a.transport = ackTransport f.pkt.flow f.pkt.transfer f.pkt.seq reason f.pkt.srcDev f.pkt.srcLt
    (1000 < age → ∃ t, exec (.gatewayEgress die) s = .next t ∧ (engineOf t die).egress = rest ∧ Only [.engines] s t ∧
      sget 0 (engineOf t die).gwDrop 1 = satAdd (sget 0 (engineOf s die).gwDrop 1) 1 32) ∧
    (age ≤ 1000 → f.destDev ∈ s.fab.gone → ∃ t, exec (.gatewayEgress die) s = .next t ∧ (engineOf t die).egress = rest ∧ nacked t 0x07) ∧
    (age ≤ 1000 → f.destDev ∉ s.fab.gone → frValid e = false → ∃ t, exec (.gatewayEgress die) s = .next t ∧ (engineOf t die).egress = rest ∧
      nacked t 0x06 ∧ sget 0 (engineOf t die).gwDrop 3 = satAdd (sget 0 (engineOf s die).gwDrop 3) 1 32) ∧
    (age ≤ 1000 → f.destDev ∉ s.fab.gone → frValid e = true →
      (frLocal e = true → exec (.gatewayEgress die) s = .next (deliverHere (updEngine s die fun x => { x with egress := rest }) die f)) ∧
      (∀ o, frLocal e = false → pickFabPort s die e f = (o, false) → ∃ t, exec (.gatewayEgress die) s = .next t ∧ (engineOf t die).egress = rest ∧
        nacked t 0x06) ∧
      (frLocal e = false → pickFabPort s die e f = (none, true) → rest = [] → takeEng s die (outbound s) = none →
        exec (.gatewayEgress die) s = .next s) ∧
      (∀ port, frLocal e = false → pickFabPort s die e f = (some port, true) → ∃ t, exec (.gatewayEgress die) s = .next t ∧
        (engineOf t die).egress = rest ∧ Only [.engines, .fab] s t ∧ Queued s t port { f with flane := fabLane s f port } ∧
        (∀ d, sget 0 t.fab.rot d = if d = die ∧ f.pkt.vc = 3 ∧ 2 ≤ (fabTies s e f).length then (sget 0 s.fab.rot d + 1) % 12
          else sget 0 s.fab.rot d)))) ∧
  (∀ (s : State) (die : Nat) (f g : FabPacket) (rest : List FabPacket) (port : Nat), die < 4 → (engineOf s die).egress = f :: g :: rest →
    g.pkt.vc < f.pkt.vc → g.pkt.vc < 4 → (∀ x ∈ rest, g.pkt.vc ≤ x.pkt.vc) → g.port < 12 → g.fage ≤ 900 → s.now ≤ g.since + 2000 →
    g.destDev ∉ s.fab.gone → frValid (fabEntry s g.epoch g.destDev) = true →
    frLocal (fabEntry s g.epoch g.destDev) = false → pickFabPort s die (fabEntry s g.epoch g.destDev) g = (some port, true) →
    ∃ t, exec (.gatewayEgress die) s = .next t ∧ (engineOf t die).egress = f :: rest) ∧
  (∀ (s : State) (die : Nat), die < 4 → (engineOf s die).egress = [] →
    (takeEng s die (outbound s) = none → exec (.gatewayEgress die) s = .next s) ∧
    ∀ p u, takeEng s die (fun q => outbound s q && q.vc == p.vc) = some (p, u) → p.vc < 4 →
      (∀ q ∈ (engineOf s die).inbox, outbound s q = true → p.vc ≤ q.vc) →
      (shadowSinks s p = true → ∃ t, exec (.gatewayEgress die) s = .next t ∧ t.fab.sink = s.fab.sink + 1 ∧ t.fab.ports = s.fab.ports) ∧
      (shadowSinks s p = false → ceilDiv (ageOf s p * 32) 1000 ≤ 1000 → pktDestDev p ∉ s.fab.gone →
        let e := fabEntry s (fabActive s) (pktDestDev p)
        frValid e = true →
        (frLocal e = true → exec (.gatewayEgress die) s = .next (deliverHere u die (toFabric s p))) ∧
        ∀ port, frLocal e = false → pickFabPort s die e (toFabric s p) = (some port, true) →
        ∃ t g, exec (.gatewayEgress die) s = .next t ∧ g.pkt = p ∧ g.destDev = pktDestDev p ∧ g.srcInc = s.fab.inc ∧
          g.destInc = sget 0 s.fab.incs (pktDestDev p) ∧ g.fhops = 0 ∧ g.fage = ceilDiv (ageOf s p * 32) 1000 ∧
          g.flane = fabLane s (toFabric s p) port ∧ Queued s t port g))

/-- Fabric route versions and what is known of other devices (R251, R257, R259 to R261, R349, R372): a flip writes the computed table
and swaps the versions, a drained version becomes WRITABLE, a LINK_EVENT brings incarnation and port states, a silent peer is
reported. In the computed table the device itself is LOCAL, the host's entries stand over all others, a direct link gives a one-
hop entry of every such port (what counts as one is the model's choice, assumption 152), and any other entry uses torus links in
service of version 2 framing alone.
Rests also on the model's choices of assumptions 3, 4, 67. -/
def Obligations.FabricRowsTakeEffect : Prop :=
  (∀ s : State,
    let v := 1 - fabActive s
    (fabState s v ≠ .writable → exec .fabricFlip s = .next s) ∧
    (fabState s v = .writable → ∃ t, exec .fabricFlip s = .next t ∧ t.fab.epoch = !s.fab.epoch ∧ fabState t v = .active ∧
      fabState t (1 - v) = .draining ∧ fabTable t v = computedTable s ∧ fabTable t (1 - v) = fabTable s (1 - v) ∧
      t.fab.ports = s.fab.ports ∧
      (let own := s.idn.deviceId
       let e := fabEntry t v
       let hosted := fun (d : Nat) => ∃ x ∈ s.fab.hostRoutes, x.1 = d
       let direct := fun (d p : Nat) => p < 12 ∧ isActive s p = true ∧ pDim (portOf s p) = 0 ∧ (portOf s p).peerDev = d ∧
         ∃ l ∈ linksAt s d, l.peerDev = own
       (frValid (e own) = true ∧ frLocal (e own) = true) ∧
       (∀ d x, (s.fab.hostRoutes.map (·.1)).Nodup → (d, x) ∈ s.fab.hostRoutes → d ≠ own → e d = x) ∧
       (∀ d, d ≠ own → ¬ hosted d → (∃ p, direct d p) → frValid (e d) = true ∧ frLocal (e d) = false ∧ (∀ p, p ∈ frPorts (e d) ↔ direct d p) ∧
         direct d (frPrimary (e d)) ∧ ∀ p, direct d p → frPrimary (e d) ≤ p) ∧
       (∀ d, d ≠ own → ¬ hosted d → (∀ p, ¬ direct d p) → ∀ p ∈ frPorts (e d),
         isActive s p = true ∧ 1 ≤ pDim (portOf s p) ∧ (portOf s p).v1 = false) ∧
       ∀ d p, d ≠ own → ¬ hosted d → p < 12 → isActive s p = true → 1 ≤ pDim (portOf s p) → (portOf s p).v1 = false →
         (portOf s p).peerDev = d → (∀ q, q < p → pDim (portOf s q) ≠ pDim (portOf s p) ∨ pDir (portOf s q) ≠ pDir (portOf s p)) →
         frValid (e d) = true) ∧
      (∀ d ∈ peerDevs s, routed t d = false → (∃ e ∈ s.fab.incs, e.1 = d) → d ∈ t.fab.lost) ∧ ∀ d ∈ s.fab.lost, d ∈ t.fab.lost)) ∧
  (∀ s : State, ∃ t, exec (.versionDrained true) s = .next t ∧ Only [.fab] s t ∧ t.fab.epoch = s.fab.epoch ∧ t.fab.t0 = s.fab.t0 ∧
    t.fab.t1 = s.fab.t1 ∧ ∀ v, v < 2 → fabState t v = if fabState s v = .draining ∧ fabInFlight s v = 0 then .writable else fabState s v) ∧
  (∀ (s : State) (dev inc : Nat) (ports : List PortLink), dev < 4096 →
    ∃ t, exec (.linkEventRx dev inc ports) s = .next t ∧ sget 0 t.fab.incs dev = inc ∧ sget [] t.fab.links dev = ports ∧
      (∀ k, k ≠ dev → sget [] t.fab.links k = sget [] s.fab.links k ∧ sget 0 t.fab.incs k = sget 0 s.fab.incs k) ∧
      ((∃ e, s.fab.incs.find? (fun e => e.1 == dev) = some e ∧ e.2 ≠ inc) → dev ∈ t.fab.lost) ∧
      (s.fab.incs.find? (fun e => e.1 == dev) = none ∨ s.fab.incs.find? (fun e => e.1 == dev) = some (dev, inc) →
        t.fab.lost = s.fab.lost ∧ Only [.fab] s t)) ∧
  (∀ (s : State) (dev : Nat), dev < 4096 →
    let quiet := dev ∈ peerDevs s ∧ routed s dev = true ∧ dev ∉ s.fab.silent ∧ sget 0 s.fab.beats dev + 25 * cyclesPerMs ≤ s.now
    (quiet → ∃ t, exec (.peerSilent dev) s = .next t ∧ dev ∈ t.fab.silent ∧ t.fab.lost = s.fab.lost ∧ t.outbox = s.outbox ∧
      Only [.fns, .recorder, .flt, .msis, .fab] s t) ∧
    (¬ quiet → exec (.peerSilent dev) s = .next s))

/-- Shadow writes and the Basin patrol (R271 to R274, R276 to R279, R281): the undo entry of a granule's first write of the attempt,
in UNDO_LOG and held, the write itself, a log that is full and keeps the line waiting, a write that fails, and what the patrol
counts, how far it is and whether it is behind, and what it poisons. Errors of a tile's memory and the merge buffer (R86, R94 to
R99): the scrub reader with nothing found, a correctable and an uncorrectable word, the write-back, an eviction, and the errors
that the reads of MATMUL and BASIN_READ meet (R278, R279).
Rests also on the model's choices of assumptions 4, 8, 36, 60. -/
def Obligations.BasinAndTileMemoryRowsTakeEffect : Prop :=
  ((∀ (s : State) (lt : Nat) (ok : Bool), lt < 576 →
    ((tileOf s lt).spad.sq = [] → exec (.shadowWrite lt ok) s = .next s) ∧
    ∀ x rest g, (tileOf s lt).spad.sq = x :: rest → regionOf s (tileOf s lt).region = some g →
      let r := (tileOf s lt).region
      let a := g.basinBase + x.off
      let room := (g.image.map fun im => im.dir.undoLog.len / 576).getD 0
      let fresh := x.off ∉ g.filt
      let full := fresh ∧ room ≤ g.undo.length
      let log := (g.image.map fun im => g.basinBase + im.dir.undoLog.off + 576 * g.undo.length).getD 0
      let apart := log + 576 ≤ a ∨ a + 512 ≤ log
      let entry : UndoEntry := ⟨x.off, g.step % 2 ^ 16, basinBytes s a 512, r⟩
      (full → g.failed = true → exec (.shadowWrite lt ok) s = .next s) ∧
      (full → g.failed = false → ∃ t h, exec (.shadowWrite lt ok) s = .next t ∧ regionOf t r = some h ∧ t.tiles = s.tiles ∧
        t.basin = s.basin ∧ h.undo = g.undo ∧ (inStep g = true → h.failed = true) ∧
        (bsnOf t (stackOf a)).shadowFail = satAdd (bsnOf s (stackOf a)).shadowFail 1 32) ∧
      (¬ full → ∃ t h, exec (.shadowWrite lt ok) s = .next t ∧ regionOf t r = some h ∧
        (tileOf t lt).spad = sqTake { (tileOf s lt).spad with sq := rest } ∧
        ((tileOf s lt).spad.sqWait = [] → (tileOf t lt).spad.sq = rest) ∧ (∀ b, tileByte t lt b = tileByte s lt b) ∧
        (x.off ∈ g.filt → h.undo = g.undo ∧ h.filt = g.filt ∧ (ok = false → t.basin = s.basin)) ∧
        (fresh → h.undo = g.undo ++ [entry] ∧ (filterFull g (stackOf a) = false → x.off ∈ h.filt) ∧
          (bsnOf t (stackOf a)).undoBytes = satAdd (bsnOf s (stackOf a)).undoBytes 576 48 ∧
          (apart → (ok = false ∨ x.words.length = 8 ∧ (x.words.flatMap (·.2)).length = 512) →
            basinBytes t log 576 = undoBytes entry ∧
              (ok = false → (∀ y ∈ s.scans, meets (y.addr, y.len) (log, 576) = false) → basinBytes t a 512 = basinBytes s a 512))) ∧
        (ok = true → x.words.length = 8 → (x.words.flatMap (·.2)).length = 512 →
          basinBytes t a 512 = x.words.flatMap (·.2) ∧ h.failed = g.failed) ∧
        (ok = false → (inStep g = true → h.failed = true) ∧
          (bsnOf t (stackOf a)).shadowFail = satAdd (bsnOf s (stackOf a)).shadowFail 1 32))) ∧
  (∀ (s : State) (k n ecs : Nat) (ce : List Nat), k < 4 →
    ((bsnOf s k).en = true → s.pwr.doze = false →
      let hit := fun w => patrolled k (bsnOf s k).scrubWord n w
      let next := (bsnOf s k).scrubWord + n
      let start := if next < 0x30000000 then (bsnOf s k).passStart else s.now
      let hours := if (bsnOf s k).periodH = 0 ∨ 168 < (bsnOf s k).periodH then 168 else (bsnOf s k).periodH
      let bad := s.poison.filter fun p => (List.range 8).any fun i => hit (8 * p + i)
      (∃ t, exec (.patrolScrub k n ce [] ecs) s = .next t ∧ Only [.bsn] s t ∧
        (bsnOf t k).passPct = next % 0x30000000 * 100 / 0x30000000 ∧ (bsnOf t k).ecs = satAdd (bsnOf s k).ecs ecs 32 ∧
        (bsnOf t k).poisonRd = satAdd (bsnOf s k).poisonRd bad.length 32 ∧ (bsnOf t k).passStart = start ∧
        ((bsnOf t k).behind = true ↔
          next % 0x30000000 + 0x30000000 / 100 < (s.now - start) * 0x30000000 / (hours * 3600 * cyclesPerSec)) ∧
        (bsnOf t k).scrubWord = ((bsnOf s k).scrubWord + n) % 0x30000000 ∧ (bsnOf t k).ce = satAdd (bsnOf s k).ce (ce.filter hit).length 32 ∧
        (bsnOf t k).scrubPasses = satAdd (bsnOf s k).scrubPasses (((bsnOf s k).scrubWord + n) / 0x30000000) 32 ∧
        ∀ j, j ≠ k → bsnOf t j = bsnOf s j) ∧
      ∀ w, hit w = true → basinCapture ≤ 64 * w / 512 * 512 → 64 * w / 512 ∉ s.poison → ∃ t, exec (.patrolScrub k n ce [w]) s = .next t ∧
        64 * w / 512 ∈ t.poison ∧ (bsnOf t k).ue = satAdd (bsnOf s k).ue 1 32) ∧
    ((bsnOf s k).en = false → ∀ ue, exec (.patrolScrub k n ce ue) s = .next s))) ∧
  ((∀ (s : State) (c : Instr) (lt : Nat) (found : List (Nat × EccFind)), lt < 576 →
    (c = .scrubRead lt found ∨ c = .scrubForced lt found ∧ scrubDue s lt = true) →
    let v := tileOf s lt
    (scrubRuns s lt = false → exec c s = .next s) ∧
    (scrubRuns s lt = true → lineFinds v found = [] → ∃ t, exec c s = .next t ∧ Only [.tiles] s t ∧
      tileOf t lt = { v with spad := chargeRd v.spad 1, scrubSlot := s.now, scrubLine := (v.scrubLine + 1) % 131072 } ∧
      ∀ k, posOf s k ≠ posOf s lt → tileOf t k = tileOf s k) ∧
    (∀ w bit, scrubRuns s lt = true → lineFinds v found = [(w, .ce bit)] → ∃ t, exec c s = .next t ∧
      sget 0 (tileOf t lt).ceBank (bankOf (64 * w)) = satAdd (sget 0 v.ceBank (bankOf (64 * w))) 1 12 ∧
      (tileOf t lt).ceTile = satAdd v.ceTile 1 32 ∧ w ∈ (tileOf t lt).spad.wb ∧ ∀ a, tileByte t lt a = tileByte s lt a) ∧
    (∀ w, scrubRuns s lt = true → lineFinds v found = [(w, .ue)] →
      (controlWord v w = false → ∃ t, exec c s = .next t ∧ (tileOf t lt).queues = [] ∧ (tileOf t lt).fired = [] ∧
        (∀ a, tileByte t lt a = 0) ∧ ∀ g, regionOf s v.region = some g → inStep g = true →
          ∃ h, regionOf t v.region = some h ∧ h.failed = true) ∧
      (controlWord v w = true → ∃ t, exec c s = .next t ∧ t.flt.cause = 5 ∧
        t.flt.count = Nat.min (s.flt.count + 1) (2 ^ 24 - 1) ∧ t.tiles = []))) ∧
  (∀ (s : State) (lt : Nat) (found : List (Nat × EccFind)), lt < 576 → scrubDue s lt = false →
    exec (.scrubForced lt found) s = .next s) ∧
  (∀ (s : State) (lt : Nat), lt < 576 → ∃ t, exec (.ceWriteback lt) s = .next t ∧ Only [.tiles] s t ∧
    (∀ a, tileByte t lt a = tileByte s lt a) ∧
    ∀ w rest, (tileOf s lt).spad.wb = w :: rest → (tileOf t lt).spad.wb.length < (tileOf s lt).spad.wb.length) ∧
  (∀ (s : State) (lt : Nat) (ue : Bool) (found : List (Nat × EccFind)), lt < 576 →
    let v := tileOf s lt
    (v.spad.mb = [] → exec (.mergeEvict lt ue found) s = .next s) ∧
    ∀ e rest, v.spad.mb = e :: rest →
      (v.spad.mb.length ≠ 16 → mergeDrains s lt = false → exec (.mergeEvict lt ue found) s = .next s) ∧
      (v.spad.mb.length = 16 ∨ mergeDrains s lt = true →
        let whole := ∀ x ∈ v.spad.mb, x.word / 8 = e.word / 8 → x.bytes.length = 64
        let fs := evictFinds v e.word ue found
        (whole ∨ fs = [] → spadWf v.spad = true → ∃ t, exec (.mergeEvict lt ue found) s = .next t ∧ Only [.tiles] s t ∧
          (tileOf t lt).spad.mb = v.spad.mb.filter (fun x => x.word / 8 != e.word / 8) ∧
          (∀ a, tileByte t lt a = tileByte s lt a)) ∧
        (∀ w, ¬ whole → fs = [(w, .ue)] →
          (controlWord v w = false → ∃ t, exec (.mergeEvict lt ue found) s = .next t ∧
            (tileOf t lt).queues = [] ∧ (tileOf t lt).spad.mb = [] ∧ ∀ g, regionOf s v.region = some g → inStep g = true →
              ∃ h, regionOf t v.region = some h ∧ h.failed = true) ∧
          (controlWord v w = true → ∃ t, exec (.mergeEvict lt ue found) s = .next t ∧ t.flt.cause = 5 ∧ t.tiles = [])) ∧
        (∀ w bit, ¬ whole → fs = [(w, .ce bit)] → spadWf v.spad = true → ∃ t, exec (.mergeEvict lt ue found) s = .next t ∧
          (tileOf t lt).ceTile = satAdd v.ceTile 1 32 ∧ ∀ a, tileByte t lt a = tileByte s lt a) ∧
        (found = [] → ue = false ∨ v.spad.valid.contains e.word = false → fs = []))) ∧
  (∀ (s : State) (lt q : Nat) (found fs : List (Nat × EccFind)) (who : Reader), matmulErrors s lt q found = some (who, fs) →
    let v := tileOf s lt
    ((∀ f ∈ fs, f.2 ≠ .ue) → EvictsClean (correctAll s lt who fs) (.matmul lt q) lt found →
      exec (.matmul lt q found) s = exec (.matmul lt q []) (correctAll s lt who fs)) ∧
    (∀ w bit, fs = [(w, .ce bit)] → let u := correctAll s lt who fs
      sget 0 (tileOf u lt).ceBank (bankOf (64 * w)) = satAdd (sget 0 v.ceBank (bankOf (64 * w))) 1 12 ∧
        (tileOf u lt).ceTile = satAdd v.ceTile 1 32 ∧ w ∈ (tileOf u lt).spad.wb) ∧
    (∀ w, fs = [(w, .ue)] →
      (controlWord v w = false → ∃ t, exec (.matmul lt q found) s = .next t ∧ (tileOf t lt).queues = [] ∧ (tileOf t lt).fired = [] ∧
        (∀ a, tileByte t lt a = 0) ∧ ∀ g, regionOf s v.region = some g → inStep g = true →
          ∃ h, regionOf t v.region = some h ∧ h.failed = true) ∧
      (controlWord v w = true → ∃ t, exec (.matmul lt q found) s = .next t ∧ t.flt.cause = 5 ∧ t.tiles = []))) ∧
  (∀ (s : State) (lt q : Nat) (ce ue : List Nat) (w : Nat), basinReads s lt q ce = [] → basinReads s lt q ue = [w] →
    s.poison.contains (64 * w / 512) = false →
    (basinCapture ≤ 64 * w → ∃ t, exec (.basinRead lt q ce ue) s = .next t ∧ 64 * w / 512 ∈ t.poison ∧
      (bsnOf t (stackOf (64 * w / 512 * 512))).ue = satAdd (bsnOf s (stackOf (64 * w / 512 * 512))).ue 1 32) ∧
    (64 * w < basinCapture → ∃ t, exec (.basinRead lt q ce ue) s = .next t ∧ t.tiles = [])))

/-- Errors that a row's own reads meet (R48, R67, R94, R96, R97, R98): corrected data and a count, or the action of the word and
nothing written; those of the stores of a matrix engine, of the read behind a READ_REQ and of a scan-out likewise.
Rests also on the model's choices of assumptions 36, 60. -/
def Obligations.ReadErrorRowsTakeEffect : Prop :=
  (∀ (s : State) (c : Instr) (x : ErrRow), errRow c = some x → x.lt < 576 → x.q < 64 →
    (readErrors s x.lt x.q x.row x.found = none → exec c s = exec x.base s) ∧
    ∀ who fs, readErrors s x.lt x.q x.row x.found = some (who, fs) →
      let v := tileOf s x.lt
      let u := correctAll s x.lt who fs
      ((∀ f ∈ fs, f.2 ≠ .ue) → EvictsClean u x.base x.lt x.found → exec c s = exec x.base u) ∧
      (∀ w b, fs = [] → exec x.base s = .next b → evictHits v (tileOf b x.lt) x.found = [w] →
        (∀ bit, w.2 = .ce bit → let e := evictMet s x.lt (8 * (w.1 / 8)) [w]
          exec c s = exec x.base e ∧ (tileOf e x.lt).ceTile = satAdd v.ceTile 1 32) ∧
        (w.2 = .ue → controlWord v w.1 = false → ∃ t, exec c s = .next t ∧ CoreLost s t x.lt)) ∧
      (∀ w bit, fs = [(w, .ce bit)] → sget 0 (tileOf u x.lt).ceBank (bankOf (64 * w)) = satAdd (sget 0 v.ceBank (bankOf (64 * w))) 1 12 ∧
        (tileOf u x.lt).ceTile = satAdd v.ceTile 1 32 ∧ w ∈ (tileOf u x.lt).spad.wb ∧ ∀ a, tileByte u x.lt a = tileByte s x.lt a) ∧
      (∀ w, fs = [(w, .ue)] →
        (controlWord v w = false → ∃ t, exec c s = .next t ∧ CoreLost s t x.lt) ∧
        (controlWord v w = true → ∃ t, exec c s = .next t ∧ t.flt.cause = 5 ∧ t.tiles = []))) ∧
  (∀ (s : State) (c : Instr) (x : MeetRow), meetRowOf s c = some x → x.lt < 576 → ∀ b, exec x.base s = .next b →
    let v := tileOf s x.lt
    let own := rangesHit v x.rs x.found
    let chain := rangesHit v (chainReads v (tileOf b x.lt)) x.found
    let ev := evictHits v (tileOf b x.lt) x.found
    let lost := fun (w : Nat) =>
      (controlWord v w = false → ∃ t, exec c s = .next t ∧ CoreLost s t x.lt) ∧
      (controlWord v w = true → ∃ t, exec c s = .next t ∧ t.flt.cause = 5 ∧ t.tiles = [])
    (own = [] → chain = [] → ev = [] → exec c s = .next b) ∧
    (∀ w, own = [(w, .ue)] → lost w) ∧
    (∀ w, own = [] → chain = [(w, .ue)] → lost w) ∧
    (∀ w, own = [] → chain = [] → ev = [(w, .ue)] → lost w) ∧
    (∀ w bit, own = [(w, .ce bit)] → chain = [] → let u := correctAll s x.lt ⟨x.who, none⟩ own
      (tileOf u x.lt).ceTile = satAdd v.ceTile 1 32 ∧ w ∈ (tileOf u x.lt).spad.wb ∧ (∀ a, tileByte u x.lt a = tileByte s x.lt a) ∧
        (∀ t, exec x.base u = .next t → rangesHit (tileOf u x.lt) (chainReads v (tileOf b x.lt)) x.found = [] →
          EvictsClean u x.base x.lt x.found → exec c s = .next t)) ∧
    (∀ w bit, own = [] → chain = [] → ev = [(w, .ce bit)] → exec c s = exec x.base (evictMet s x.lt (8 * (w / 8)) ev))) ∧
  (∀ (s : State) (lt q : Nat) (stores : List StoreFind), lt < 576 → q < 64 →
    let v := tileOf s lt
    (storeErrors s lt q stores = none → exec (.matmul lt q [] stores) s = exec (.matmul lt q) s) ∧
    ∀ who fs, storeErrors s lt q stores = some (who, fs) →
      (fs = [] → exec (.matmul lt q [] stores) s = exec (.matmul lt q) s) ∧
      (∀ f bit, fs = [f] → f.find = .ce bit → let u := storeCorrectable s lt who f bit
        exec (.matmul lt q [] stores) s = exec (.matmul lt q) u ∧ (tileOf u lt).ceTile = satAdd v.ceTile 1 32 ∧
          (tileOf u lt).spad.wb = v.spad.wb) ∧
      (∀ f, fs = [f] → f.find = .ue →
        (errRegion v ≠ 16 → ∃ t, exec (.matmul lt q [] stores) s = .next t ∧ (tileOf t lt).queues = [] ∧ (tileOf t lt).fired = [] ∧
          ∀ g, regionOf s v.region = some g → inStep g = true → ∃ h, regionOf t v.region = some h ∧ h.failed = true) ∧
        (errRegion v = 16 → ∃ t, exec (.matmul lt q [] stores) s = .next t ∧ t.flt.cause = 5 ∧ t.tiles = []))) ∧
  (∀ (s u : State) (lt : Nat) (p : Packet) (found : List (Nat × EccFind)), lt < 576 → Takes s lt (fun p => p.typ == tReadReq) p u →
    let v := tileOf u lt
    let fs := rangeFinds u lt (fld p.transport.toNat 230 26, fld p.transport.toNat 198 32) found
    ((∀ f ∈ fs, f.2 ≠ .ue) → exec (.readReqRx lt found) s = .next (readReq (correctAll u lt ⟨1, none⟩ fs) lt p)) ∧
    (∀ w, fs = [(w, .ue)] →
      (controlWord v w = false → ∃ t, exec (.readReqRx lt found) s = .next t ∧ CoreLost u t lt ∧ (tileOf t lt).returns = []) ∧
      (controlWord v w = true → ∃ t, exec (.readReqRx lt found) s = .next t ∧ t.flt.cause = 5 ∧ t.tiles = []))) ∧
  (∀ (s : State) (lt q w : Nat) (found : List (Nat × EccFind)) (p : FirePlan), lt < 576 → q < 64 →
    fireReady s lt q = some p → isOp 3 0 p.d = true → granted s lt q p = true →
    fireStatus s ⟨lt, q, isOp 3 0, scanChecks, actScanOut⟩ p = stOk → bitOf (scScope p.d) 0 = true →
    let v := tileOf s (scLt p.d)
    (eccChecked v found).filter (fun f => (ringsOf v).any fun x => meets (64 * f.1, 64) (x.1, 64)) = [(w, .ue)] → controlWord v w = false →
      ∃ t, exec (.scanOut lt q found) s = .next t ∧ (tileOf t (scLt p.d)).queues = [] ∧ (tileOf t (scLt p.d)).fired = [])

/-- SILT_OPEN, SILT_DESTROY and SILT_STATUS (R286, R287, R300, Tables 10.13 and 10.14): the namespace that comes to be, the one that
is gone with its transactions, whose superblocks are erased, and the status that is read; who may open and destroy (R304, R308).
Silt's own rows (R285, R290 to R293, R297 to R300): a transaction's programs done or failed, its commit with the journal record,
the checkpoint, an erase and an erase that fails, the superblock that a zone opens, a channel lost, and relocation, which moves no
unit before its transaction commits. Which program times a mean is taken over at first use is the model's choice (assumption 162).
Rests also on the model's choices of assumptions 4, 8, 63, 64. -/
def Obligations.SiltCommandsAndRowsTakeEffect : Prop :=
  (∀ (s : State) (h : CmdHdr), Rung s h →
    (∀ b : SiltOpenBlock, h.paramLen = 32 → b.zone ≤ 1 → b.owner ≤ 16 → b.units ≠ 0 → mayOwn s h b.owner = true →
      siltShort s h.func b = none → ∀ k, (List.range 64).find? (fun k => !s.silt.nss.any fun n => n.1 == k) = some k →
        ∃ t, exec (.siltOpen h b) s = .next t ∧
        Accepted s t h 0x30 b.owner true 0 (leBytes k 1) ∧
        (∃ n, nsHeld t k = some n ∧ n.opened = true ∧ n.readonly = false ∧ n.stage = 0 ∧ n.pslc = (b.zone == 1) ∧
          n.owner = b.owner ∧ n.persist = b.persist ∧ n.capacity = b.units ∧ n.keyed = true ∧ n.units = [] ∧
          n.endurance = b.endurance) ∧
        (∀ j, j ≠ k → nsHeld t j = nsHeld s j) ∧ OtherFns h.func s t) ∧
    (∀ b x, h.paramLen = 32 → b.zone ≤ 1 → b.owner ≤ 16 → b.units ≠ 0 → mayOwn s h b.owner = true → siltShort s h.func b = some x →
      ∃ t, exec (.siltOpen h b) s = .next t ∧ Answered s t h 0x30 4 (shortBytes x) (fnOf s h.func) ∧ t.silt = s.silt) ∧
    (∀ b : SiltOpenBlock, mayOwn s h b.owner = false →
      ∃ t, exec (.siltOpen h b) s = .next t ∧ Answered s t h 0x30 7 [] (fnOf s h.func) ∧ t.silt = s.silt) ∧
    (∀ k n, nsHeld s k = some n → mayReachNs s h n = false →
      (∃ t, exec (.siltDestroy h k) s = .next t ∧ Answered s t h 0x31 7 [] (fnOf s h.func) ∧ t.silt = s.silt) ∧
      ∃ t, exec (.siltStatus h k) s = .next t ∧ Answered s t h 0x32 7 [] (fnOf s h.func) ∧ t.silt = s.silt) ∧
    (∀ k n, h.paramLen = 4 → nsHeld s k = some n → mayReachNs s h n = true →
      (∃ t, exec (.siltDestroy h k) s = .next t ∧ nsHeld t k = none ∧ (∀ j, j ≠ k → nsHeld t j = nsHeld s j) ∧
        (∀ x ∈ t.silt.txns, x.ns ≠ k) ∧ (∀ x ∈ t.silt.journal, x.ns ≠ k) ∧
        ((s.silt.txns.map (·.no)).Nodup →
          t.silt.txns.map (fun x => (x.no, x.ns)) = (s.silt.txns.filter fun x => x.ns != k).map fun x => (x.no, x.ns)) ∧
        ((∀ x ∈ s.silt.txns, x.ns ≠ k) → Accepted s t h 0x31 n.owner true 0 [] ∧ OtherFns h.func s t ∧ t.silt.txns = s.silt.txns ∧
          ∀ sb b, superOf s.silt sb = some b → b.isOpen = false → b.used ≠ 0 → (∃ u ∈ n.units, u.2.sb = sb) →
            (∀ e ∈ s.silt.nss, e.1 ≠ k → ∀ u ∈ e.2.units, u.2.sb ≠ sb) →
            (∀ x ∈ s.silt.txns, x.stage ≠ .waiting → ∀ u ∈ x.units, u.2.sb ≠ sb) →
            ∃ b', superOf t.silt sb = some b' ∧ b'.used = 0 ∧ b'.erases = b.erases + 1 ∧ b'.no = b.no)) ∧
      (∃ t, exec (.siltStatus h k) s = .next t ∧ Answered s t h 0x32 0 (leBytes (nsStatusWord n) 4 ++ nsCounterBytes s n) (fnOf s h.func) ∧
        OtherFns h.func s t ∧ Only [.fns, .msis, .pwr] s t)) ∧
    (∀ k, h.paramLen = 4 → nsHeld s k = none →
      (∃ t, exec (.siltDestroy h k) s = .next t ∧ Answered s t h 0x31 3 [] (fnOf s h.func) ∧ t.silt = s.silt) ∧
      (∃ t, exec (.siltStatus h k) s = .next t ∧ Answered s t h 0x32 3 [] (fnOf s h.func) ∧ t.silt = s.silt))) ∧
  ((∀ (s : State) (no : Nat) (x : STxn), findTxn s no = some x →
    (x.stage = .programming →
      (∃ t, exec (.siltDataProgramsDone no true []) s = .next t ∧ findTxn t no = some { x with stage := .journal } ∧ Only [.silt] s t ∧
        t.silt.metaPages = s.silt.metaPages + Nat.max 1 (ceilDiv x.units.length 1019)) ∧
      (∀ k, let hit := fun (u : Nat × SUnit) => keyOf u.2 == k
        ∃ t, exec (.siltDataProgramsDone no true [k]) s = .next t ∧ t.silt.badBlocks.count k = s.silt.badBlocks.count k + 1 ∧
          (chanOf t.silt (keyChan k)).progFail = satAdd (chanOf s.silt (keyChan k)).progFail 1 32 ∧ bitOf (nsOf t x.ns).raised 3 = true ∧
          (s.silt.halted = false → ∃ y, findTxn t no = some y ∧ y.stage = .journal ∧
            y.units.map (fun u => (u.1, u.2.data)) =
              (x.units.filter (fun u => !hit u) ++ x.units.filter hit).map fun u => (u.1, u.2.data)) ∧
          (s.silt.halted = true → (∃ u ∈ x.units, hit u = true) → ∀ y ∈ t.silt.txns, y.no ≠ no)) ∧
      (∀ ts, ts ≠ [] → s.silt.progTimes.length = 2 → s.silt.tprogMean.length = 2 → s.silt.tprogBase.length = 2 →
        let p := (nsOf s x.ns).pslc
        let l := (s.silt.progTimes.getD (b2n p) [] ++ ts).drop ((s.silt.progTimes.getD (b2n p) [] ++ ts).length - 1024)
        let mean := l.sum / l.length
        let base := s.silt.tprogBase.getD (b2n p) 0
        ∃ t, exec (.siltDataProgramsDone no true [] ts) s = .next t ∧ t.silt.tprogMean.getD (b2n p) 0 = mean ∧
          (base = 0 → l.length = 1024 → t.silt.tprogBase.getD (b2n p) 0 = mean) ∧
          (base ≠ 0 ∨ l.length < 1024 → t.silt.tprogBase.getD (b2n p) 0 = base) ∧
          (base ≠ 0 → 3 * base < 2 * mean → ∀ e ∈ s.silt.nss, e.2.pslc = p → bitOf (nsOf t e.1).raised 2 = true)) ∧
      (∃ t, exec (.siltDataProgramsDone no false []) s = .next t ∧ (∀ y ∈ t.silt.txns, y.no ≠ no) ∧
        (nsOf t x.ns).units = (nsOf s x.ns).units ∧ (nsOf t x.ns).txnAbort = satAdd (nsOf s x.ns).txnAbort 1 48)) ∧
    (x.stage ≠ .programming → ∀ ok l, exec (.siltDataProgramsDone no ok l) s = .next s) ∧
    (x.stage ≠ .journal → exec (.siltTxnCommit no) s = .next s) ∧
    (x.stage = .journal → x.no = no → ∃ t, exec (.siltTxnCommit no) s = .next t ∧ (∀ y ∈ t.silt.txns, y.no ≠ no) ∧
      (nsOf t x.ns).txnCommit = satAdd (nsOf s x.ns).txnCommit 1 48 ∧
      ((x.units.map (·.1)).Nodup → ∀ u ∈ x.units, u ∈ (nsOf t x.ns).units) ∧
      (∀ u, u.1 ∉ x.units.map (·.1) → (u ∈ (nsOf t x.ns).units ↔ u ∈ (nsOf s x.ns).units)) ∧
      (s.silt.journal.length + 1 < 4096 → ∃ r, t.silt.journal = s.silt.journal ++ [r] ∧ r.txn = no ∧ r.ns = x.ns ∧ r.units = x.units ∧
        r.pages.length = Nat.max 1 (ceilDiv x.units.length 1019) ∧
        (no < 2 ^ 64 → x.units.length < 2 ^ 16 → no ∉ s.silt.unread → recGood t.silt r = true)) ∧
      (4096 ≤ s.silt.journal.length + 1 → t.silt.journal = [] ∧ t.silt.checkpoint = no) ∧
      ∀ g, regionOf s x.region = some g → x.step = g.step → x.attempt = g.attempt →
        ∃ h, regionOf t x.region = some h ∧ h.siltCommits = g.siltCommits + 1)) ∧
  (∀ (s : State) (sb k : Nat) (b : SSuper), superOf s.silt sb = some b → b.isOpen = false → b.used ≠ 0 → k / 512 = sb →
    (∀ e ∈ s.silt.nss, ∀ u ∈ e.2.units, u.2.sb ≠ sb) → (∀ x ∈ s.silt.txns, x.stage ≠ .waiting → ∀ u ∈ x.units, u.2.sb ≠ sb) →
    let t := reclaimSuper [k] s sb
    (∃ b', superOf t.silt sb = some b' ∧ b'.used = 0 ∧ b'.erases = b.erases + 1) ∧ k ∈ t.silt.badBlocks ∧
      (chanOf t.silt (keyChan k)).eraseFail = satAdd (chanOf s.silt (keyChan k)).eraseFail 1 32) ∧
  (∀ (s : State) (pslc : Bool), (∀ e ∈ s.silt.supers, e.2.isOpen = false ∨ e.2.pslc ≠ pslc ∨ superPages s.silt e.2 ≤ e.2.used) →
    let r := openSuper s pslc
    ∃ b, superOf r.1.silt r.2 = some b ∧ b.isOpen = true ∧ b.used = 0 ∧ b.pslc = pslc ∧ b.chans = usableChans s.silt ∧
      ∀ e ∈ s.silt.supers, e.2.isOpen = false → e.2.used = 0 → e.2.pslc = pslc → b.erases ≤ e.2.erases) ∧
  (∀ s : State, ∃ t, exec .siltCheckpoint s = .next t ∧ Only [.silt] s t ∧ t.silt = { s.silt with
      journal := [], checkpoint := (s.silt.journal.getLast?).elim s.silt.checkpoint (·.txn)
      maps := s.silt.nss.map fun e => (e.1, e.2.units), chans := t.silt.chans, metaPages := t.silt.metaPages } ∧
    ((∀ e ∈ s.silt.nss, sget [] s.silt.maps e.1 = e.2.units) → t.silt.chans = s.silt.chans ∧ t.silt.metaPages = s.silt.metaPages)) ∧
  (∀ (s : State) (ch : Nat),
    (ch < 16 → (chanOf s.silt ch).usable = true → ∃ t, exec (.siltChannelLost ch) s = .next t ∧ (chanOf t.silt ch).usable = false ∧
      (∀ k, k ≠ ch → (chanOf t.silt k).usable = (chanOf s.silt k).usable) ∧ ∀ h, (nsOf t h).units = (nsOf s h).units) ∧
    (ch < 16 → (chanOf s.silt ch).usable = false → exec (.siltChannelLost ch) s = .next s)) ∧
  (∀ (s : State) (sb : Nat) (ladder : List Nat) (b : SSuper), superOf s.silt sb = some b →
    (retentionDue s b = true → ∃ t, exec (.siltRetentionRelocate sb ladder) s = .next t ∧ (∀ h, (nsOf t h).units = (nsOf s h).units) ∧
      ((∀ e ∈ s.silt.supers, e.1 = sb → e.2 = b) → ∃ b', superOf t.silt sb = some b' ∧ b'.isOpen = false ∧ b'.no = b.no) ∧
      ∀ h u, (s.silt.nss.flatMap fun n => (n.2.units.filter fun u => u.2.sb == sb).map fun u => (n.1, u)) = [(h, u)] →
        (nsOf s h).units.find? (fun x => x.1 == u.1) = some u → u.2.gen = spareNo s.silt (keyOf u.2) →
        ladderStep s.silt u.2 (ladder.getD 0 0 % 16) = 11 →
        keyOf u.2 ∈ t.silt.badBlocks ∧ (nsOf t h).ue = satAdd (nsOf s h).ue 1 32) ∧
    (retentionDue s b = false → exec (.siltRetentionRelocate sb ladder) s = .next s)) ∧
  (∀ (s : State) (zone : Nat), ∃ t, exec (.siltWearRelocate zone) s = .next t ∧ (∀ h, (nsOf t h).units = (nsOf s h).units) ∧
    ((∀ e ∈ s.silt.supers, e.2.pslc ≠ (zone == 1)) → t = s) ∧
    ((∀ a ∈ s.silt.supers, ∀ b ∈ s.silt.supers, a.2.pslc = (zone == 1) → b.2.pslc = (zone == 1) →
      (a.2.erases - b.2.erases) * 10 ≤ zoneRated s.silt (zone == 1)) → t = s)))

/-- NOP, IDENTIFY, DEVICE_RESET and SYSTEM_SET (R306, R317, Table 11.15): each is answered SUCCESS with the effect given here, and
nothing else differs but the sender's mailbox registers, the messages of its interrupt and the power block's idle time.
FUNCTION_CONFIG, VF_QUOTA, FUNCTION_DISABLE and its ACTION 1 (R304, R316, R326): the named function's registers after each.
Rests also on the model's choices of assumptions 6, 24, 72, 73, 81. -/
def Obligations.DeviceAndFunctionCommandsTakeEffect : Prop :=
  (∀ (s : State) (h : CmdHdr), Rung s h →
    (h.paramLen = 0 → ∃ t, exec (.nop h) s = .next t ∧ Answered s t h 0x01 0 [] (fnOf s h.func) ∧ OtherFns h.func s t ∧
      Only [.fns, .msis, .pwr] s t) ∧
    (h.paramLen = 0 → ∃ t, exec (.identify h) s = .next t ∧
      Answered s t h 0x02 0 (Config.identifyBytes (h.func :: quotaNums (fnOf s h.func).quota ++ quotaNums (useOf s h.func) ++ preserved s))
        (fnOf s h.func) ∧
      t.idn = { s.idn with listed := true } ∧ OtherFns h.func s t ∧ Only [.fns, .msis, .pwr, .idn] s t) ∧
    (h.func = 0 → h.paramLen = 4 → ∀ key,
      (key = 0xD1CE → ∃ t, exec (.deviceReset h key) s = .next t ∧ Answered s t h 0x06 0 [] (fnOf s h.func) ∧
        t.pwr.resetPend = some (.command, s.now + 2000000) ∧ t.rep = { s.rep with cleanStart := s.rep.cleanStart || cleanEligible s } ∧
        OtherFns h.func s t ∧ Only [.fns, .msis, .pwr, .rep] s t) ∧
      (key ≠ 0xD1CE → ∃ t, exec (.deviceReset h key) s = .next t ∧ Answered s t h 0x06 3 [] (fnOf s h.func) ∧
        t.pwr.resetPend = s.pwr.resetPend ∧ OtherFns h.func s t ∧ Only [.fns, .msis, .pwr] s t)) ∧
    (h.func = 0 → h.paramLen = 8 → ∀ key dev,
      (key = 0xD1CE → dev < 4096 → ∃ t, exec (.systemSet h key dev) s = .next t ∧ Answered s t h 0x07 0 [] (fnOf s h.func) ∧
        t.idn = { s.idn with assigned := true, deviceId := dev } ∧ t.fab = { s.fab with savedDev := some dev } ∧
        OtherFns h.func s t ∧ Only [.fns, .msis, .pwr, .idn, .fab] s t) ∧
      (key ≠ 0xD1CE ∨ 4096 ≤ dev → ∃ t, exec (.systemSet h key dev) s = .next t ∧ Answered s t h 0x07 3 [] (fnOf s h.func) ∧
        OtherFns h.func s t ∧ Only [.fns, .msis, .pwr] s t))) ∧
  (∀ (s : State) (h : CmdHdr), Rung s h →
    (∀ beatMs stop disableMs, h.paramLen = 8 → beatMs ≤ 0xFFFF → disableMs ≤ 10000 →
      ∃ t, exec (.functionConfig h beatMs stop disableMs) s = .next t ∧
        Answered s t h 0x03 0 [] { fnOf s h.func with
          beatMs := beatMs, beatStop := stop, disableMs := if disableMs = 0 then 100 else disableMs, beatAt := s.now } ∧
        OtherFns h.func s t ∧ Only [.fns, .msis, .pwr] s t) ∧
    (∀ b : QuotaBlock, h.func = 0 → h.paramLen = 16 → 1 ≤ b.vf → b.vf ≤ 16 →
      ∃ t, exec (.vfQuota h b) s = .next t ∧ Answered s t h 0x04 0 [] (fnOf s 0) ∧
        fnOf t b.vf = { fnOf s b.vf with quota := ⟨b.regions, b.tiles, b.basinGib, b.contexts, b.namespaces, b.siltGib⟩ } ∧
        (∀ k, k ≠ 0 → k ≠ b.vf → fnOf t k = fnOf s k) ∧ Only [.fns, .msis, .pwr] s t) ∧
    (∀ f, h.func = 0 → h.paramLen = 4 → 1 ≤ f → f ≤ 16 → (fnOf s f).disabled = false →
      ∃ t, exec (.functionDisable h f) s = .next t ∧ Accepted s t h 0x05 0xFF false 1 (leBytes f 1) ∧
        (∃ pba, fnOf t f = { fnOf s f with
          disabled := true, drain := some (s.now, .command), pba := pba, w1c := noteSet (fnOf s f).w1c causeDisable s.now
          intCause := if bitOf (fnOf s f).intCause causeDisable then (fnOf s f).intCause else (fnOf s f).intCause + 2 ^ causeDisable }) ∧
        (∀ r g, regionOf s r = some g → g.owner = f → g.running = true →
          ∃ g', regionOf t r = some g' ∧ ∃ e ∈ g'.boundary, e.act = .stop 0x000A) ∧
        Only [.fns, .msis, .pwr, .regions, .orderNo] s t) ∧
    (∀ f, h.func = 0 → h.paramLen = 4 → 1 ≤ f → f ≤ 16 → (fnOf s f).drain = none →
      ∃ t, exec (.functionEnable h f) s = .next t ∧ Accepted s t h 0x05 0xFF true 0 [] ∧ (fnOf t f).disabled = false ∧
        (∀ k, k ≠ 0 → k ≠ f → fnOf t k = fnOf s k) ∧ Only [.fns, .msis, .pwr] s t))

/-- VF FLR, the PF's FLR or link loss, VF Enable cleared, and the end of a drain (R326, Table 11.20): functions are disabled at once
with the drain begun and the DISABLE cause set, requests that need host DMA are aborted and the function's regions wait to be
destroyed; at the end of a drain every request of the function is written out, and a function reset leaves it enabled with its
quota and REQ_ID.
Rests also on the model's choices of assumptions 72, 106. -/
def Obligations.FunctionResetsTakeEffect : Prop :=
  (∀ (s : State) (f : Nat), 1 ≤ f → f < 17 → ∃ t, exec (.vfFlr f) s = .next t ∧
    (fnOf t f).disabled = true ∧ (fnOf t f).drain = some (s.now, .vfReset) ∧
    (fnOf t f).intCause = (if bitOf (fnOf s f).intCause 4 then (fnOf s f).intCause else (fnOf s f).intCause + 16) ∧
    (∀ q ∈ (fnOf s f).requests, (q.finished = true → q ∈ (fnOf t f).requests) ∧
      (q.finished = false → q.hostDma = true → { q with status := 0x000A, finished := true } ∈ (fnOf t f).requests)) ∧
    OtherFns f s t ∧ ∀ r ∈ ownedRegions s f, ∃ g, regionOf t r = some g ∧ ∃ e ∈ g.boundary, e.act = .destroy) ∧
  (∀ (s : State) (kind : PfStop), ∃ t, exec (.pfFlrOrLinkDown kind) s = .next t ∧
    ∀ f, f < 17 → (fnOf t f).disabled = true ∧ (fnOf t f).drain = some (s.now, .pfReset) ∧ bitOf (fnOf t f).intCause 4 = true) ∧
  (∀ s : State, ∃ t, exec .vfEnableCleared s = .next t ∧ t.idn = { s.idn with vfs := 0 } ∧ fnOf t 0 = fnOf s 0 ∧
    ∀ f, 1 ≤ f → f < 17 → (fnOf t f).disabled = true ∧ (fnOf t f).drain = some (s.now, .vfReset)) ∧
  (∀ (s : State) (f since : Nat), f < 17 → (fnOf s f).drain = some (since, .command) →
    since + (fnOf s f).disableMs * 2000000 ≤ s.now → ∃ t, exec (.functionDrainLimit f) s = .next t ∧ (fnOf t f).drain = none ∧
      (fnOf t f).disabled = (fnOf s f).disabled ∧ bitOf (fnOf t f).intCause 4 = true ∧ (fnOf t f).requests = [] ∧
      ∀ q ∈ (fnOf s 0).requests, f ≠ 0 → q.opcode = 0x05 → q.result = leBytes f 1 → q.finished = false →
        ∃ q' ∈ (fnOf t 0).requests, q'.id = q.id ∧ q'.finished = true ∧ q'.status = 0) ∧
  (∀ (s : State) (f since : Nat), 1 ≤ f → f < 17 → (fnOf s f).drain = some (since, .vfReset) → ownedRegions s f = [] →
    since + Nat.min (fnOf s f).disableMs 90 * 2000000 ≤ s.now → ∃ t, exec (.functionDrainLimit f) s = .next t ∧
      (fnOf t f).disabled = false ∧ (fnOf t f).drain = none ∧ (fnOf t f).requests = [] ∧ (fnOf t f).nextReq = (fnOf s f).nextReq ∧
      (fnOf t f).quota = (fnOf s f).quota ∧ (fnOf t f).ready = (s.flt.state == 5) ∧ (fnOf t f).evqEn = false ∧
      bitOf (fnOf t f).intCause 4 = true)

/-- REGION_CREATE, REGION_DESTROY, IMAGE_WRITE, LOAD_IMAGE and GROUP_SET (R318 to R320, R13, R217, Tables 11.14, 4.20): the region
that comes to be, the bytes written to its allotment and no others, and the actions that wait for the region's boundary.
Rests also on the model's choices of assumptions 6, 7, 44, 62, 73, 74, 75. -/
def Obligations.RegionCommandsTakeEffect : Prop :=
  ∀ (s : State) (h : CmdHdr), Rung s h →
    (∀ b r base, h.paramLen = 32 → regionFieldsOk b = true → (b.flags < 2 ∨ s.idn.debugLevel = 2) →
      createCheck s h.func b = .inr (r, base) → ∃ t, exec (.regionCreate h b) s = .next t ∧
        Accepted s t h 0x10 r true 0
          (leBytes r 1 ++ zeros 3 ++ leBytes base 8 ++ leBytes ((blockLts b).filter (present s)).length 2) ∧
        regionOf t r = some (newRegion s h.func base b) ∧ (∀ k, k ≠ r → regionOf t k = regionOf s k) ∧
        (∀ lt ∈ blockLts b, present s lt = true → (tileOf t lt).region = r) ∧ r ∈ t.sec.regionKeys) ∧
    (∀ b x, h.paramLen = 32 → regionFieldsOk b = true → (b.flags < 2 ∨ s.idn.debugLevel = 2) → createCheck s h.func b = .inl x →
      ∃ t, exec (.regionCreate h b) s = .next t ∧ Answered s t h 0x10 4 (shortBytes x) (fnOf s h.func) ∧ t.regions = s.regions) ∧
    (∀ g, OwnRegion s h g →
      (h.paramLen = 0 → ∃ t, exec (.regionDestroy h) s = .next t ∧ Accepted s t h 0x11 h.region false 1 [] ∧ Waits s t h g .destroy) ∧
      (∀ off len parts l, h.paramLen = 32 → g.image = none → g.switching = false → off % 512 = 0 → len % 512 = 0 →
        off + len ≤ g.basinGib * 2 ^ 30 → parts = [some l] → l.length = len →
        ∃ t, exec (.imageWrite h off len 0 parts) s = .next t ∧ Accepted s t h 0x12 h.region true 0 [] ∧
          (∀ k b, l[k]? = some b → memRd t.basin (g.basinBase + off + k) = b) ∧
          ∀ a, a < g.basinBase + off ∨ g.basinBase + off + len ≤ a → memRd t.basin a = memRd s.basin a) ∧
      (∀ off len n parts, h.paramLen = 32 → g.image = none → g.switching = false → off % 512 = 0 → len % 512 = 0 → n ≤ 15 →
        off + len ≤ g.basinGib * 2 ^ 30 → none ∈ (List.range (n + 1)).map (fun i => parts.getD i none) →
        ∃ t, exec (.imageWrite h off len n parts) s = .next t ∧ Accepted s t h 0x12 h.region true 0x000D []) ∧
      (∀ id im, h.paramLen = 32 → g.degraded = false → headerBad g id im = false → regionBusy s g = false →
        loadChecks s h.region g im = none → ∃ t, exec (.loadImage h id (some im)) s = .next t ∧
          Accepted s t h 0x13 h.region false 1 [] ∧ Waits s t h { g with switching := true } (.load im)) ∧
      (∀ id im, h.paramLen = 32 → g.degraded = true →
        ∃ t, exec (.loadImage h id im) s = .next t ∧ Answered s t h 0x13 0x000E [] (fnOf s h.func) ∧ t.regions = s.regions) ∧
      (∀ id im st x, h.paramLen = 32 → g.degraded = false → headerBad g id im = false → regionBusy s g = false →
        loadChecks s h.region g im = some (st, x) → ∃ t, exec (.loadImage h id (some im)) s = .next t ∧
          Answered s t h 0x13 st (shortBytes x) (fnOf s h.func) ∧ t.regions = s.regions) ∧
      (∀ gid n k ps, h.paramLen = 32 → 1 ≤ n → n ≤ 256 → k < n → ps.length ≤ 256 →
        peersOk s h.region n k ps = false ∨ groupTaken s h.func h.region gid n = true →
          ∃ t, exec (.groupSet h gid n k (some ps)) s = .next t ∧ Answered s t h 0x14 3 [] (fnOf s h.func) ∧ t.regions = s.regions) ∧
      (∀ gid n k ps, h.paramLen = 32 → 1 ≤ n → n ≤ 256 → k < n → ps.length ≤ 256 →
        (∃ p ∈ ps, p.member = true ∧ p.device ≠ s.idn.deviceId ∧ p.rank = k) ∨
        (∃ (i j : Nat) (p q : Peer), i < j ∧ ps[i]? = some p ∧ ps[j]? = some q ∧ p.member = true ∧ q.member = true ∧ p.device ≠ s.idn.deviceId ∧
          q.device ≠ s.idn.deviceId ∧ (p.rank = q.rank ∨ p.device = q.device)) ∨
        (1 < n ∧ ∃ e ∈ s.regions, e.1 ≠ h.region ∧ e.2.owner = h.func ∧ ∃ b ∈ e.2.boundary, ∃ m j l, b.act = .member gid m j l ∧ 1 < m) →
          ∃ t, exec (.groupSet h gid n k (some ps)) s = .next t ∧ Answered s t h 0x14 3 [] (fnOf s h.func) ∧ t.regions = s.regions) ∧
      (∀ gid n k ps, h.paramLen = 32 → 1 ≤ n → n ≤ 256 → k < n → ps.length ≤ 256 → peersOk s h.region n k ps = true →
        groupTaken s h.func h.region gid n = false →
        (atBoundary g = false ∨ castleHolds s h.region = true → ∃ t, exec (.groupSet h gid n k (some ps)) s = .next t ∧
          Accepted s t h 0x14 h.region false 1 [] ∧ Waits s t h g (.member gid n k ps)) ∧
        (atBoundary g = true → castleHolds s h.region = false → g.boundary = [] → g.rstate ≠ .running →
          ∃ t, exec (.groupSet h gid n k (some ps)) s = .next t ∧ Accepted s t h 0x14 h.region true 0 [] ∧
            ∃ log, regionOf t h.region = some { g with
              groupId := gid, members := n, rank := k, peers := ps, removed := [], boundaryLog := log })))

/-- RUN, STOP, JOIN_SHADOW, RESET_INSTANCE, CAPTURE and CAPTURE_READ (R311, R320, R322, R357, R369, R353): what each leaves on the
region, and for CAPTURE_READ the bytes written to host memory.
Rests also on the model's choices of assumptions 6, 7, 45, 77. -/
def Obligations.RunCommandsTakeEffect : Prop :=
  ∀ (s : State) (h : CmdHdr) (g : Region), Rung s h → OwnRegion s h g →
    (∀ n deliver, h.paramLen = 16 → g.degraded = false → g.image.isSome = true → g.running = false →
      (rfOf s h.region).reset = none → ∃ t, exec (.run h n deliver) s = .next t ∧ Acknowledged s t h 0x15 false 1 ∧
        ∃ ledger, regionOf t h.region = some { g with
          running := true, runLeft := n, runForever := n == 0, deliver := deliver
          runReq := some (h.func, (fnOf s h.func).nextReq), discards := 0, rstate := .running, ledger := ledger }) ∧
    (∀ unload, h.paramLen = 8 → (unload = true → ∀ c ∈ g.ctxIds, (ctxOf s c).state = 0) →
      ∃ t, exec (.stop h unload) s = .next t ∧ Accepted s t h 0x16 h.region false 1 [] ∧
        Waits s t h g (if unload = true then .unload else .stop 0)) ∧
    (h.paramLen = 8 → (∃ c ∈ g.ctxIds, (ctxOf s c).state ≠ 0) → ∃ t, exec (.stop h true) s = .next t ∧
      Answered s t h 0x16 6 [] (fnOf s h.func) ∧ t.regions = s.regions) ∧
    (∀ wd wr n info, h.paramLen = 16 → joinRefusal s h.region g wd info = 0 →
      ∃ t, exec (.joinShadow h wd wr n info) s = .next t ∧ Accepted s t h 0x17 h.region false 1 [] ∧
        (rfOf t h.region).shadow = some {
          state := .sync, workDev := wd, workRegion := wr, compareSteps := if n = 0 then 1000 else n, compared := 0, c1 := 0
          digests := [], actions := [], req := some (h.func, (fnOf s h.func).nextReq), workLost := false, sink := 0 } ∧
        t.regions = s.regions ∧ ∀ r, r ≠ h.region → rfOf t r = rfOf s r) ∧
    (∀ wd wr n info, h.paramLen = 16 → joinRefusal s h.region g wd info ≠ 0 →
      ∃ t, exec (.joinShadow h wd wr n info) s = .next t ∧
        Answered s t h 0x17 (joinRefusal s h.region g wd info) [] (fnOf s h.func) ∧ t.rf = s.rf) ∧
    (h.paramLen = 8 → ∃ t, exec (.resetInstance h) s = .next t ∧ Accepted s t h 0x18 h.region false 1 [] ∧
      (∃ x, (rfOf t h.region).reset = some x ∧ (h.func, (fnOf s h.func).nextReq) ∈ x.reqs ∧
        ((rfOf s h.region).reset = none → x = ⟨[(h.func, (fnOf s h.func).nextReq)], s.now, none, 0xFF, false, none⟩)) ∧
      t.regions = s.regions ∧ t.tiles = s.tiles) ∧
    (∀ mid, h.paramLen = 8 → mid = false → atBoundary g = false → ∃ t, exec (.capture h mid) s = .next t ∧
      Accepted s t h 0x19 h.region false 1 [] ∧ t.bundles = s.bundles) ∧
    (∀ mid, h.paramLen = 8 → (mid = true ∨ atBoundary g = true) → ∃ t, exec (.capture h mid) s = .next t ∧
      Acknowledged s t h 0x19 true 0 ∧ ∃ b ∈ t.bundles, b.region = h.region ∧ b.committed = true ∧ b.reason = 1 ∧
        b.step = g.step ∧ b.attempt = g.attempt ∧ b.tiles = regionTiles s g) ∧
    (∀ slot addr off len b, h.paramLen = 32 → (s.bundles.find? fun b => b.slot == slot && b.committed) = some b →
      (h.func = 0 ∨ b.region = h.region) → off + len ≤ bundleTotal s b →
      (∃ t, exec (.captureRead h slot addr off len true) s = .next t ∧ Accepted s t h 0x1A h.region true 0 [] ∧
        t.hostOut = s.hostOut ++ [⟨h.func, addr, basinBytes s (b.base + off) len⟩] ∧
        (off + len < bundleTotal s b → t.bundles = s.bundles) ∧
        (off + len = bundleTotal s b → ∀ x ∈ t.bundles, x.slot = slot → x.exported = true)) ∧
      (∃ t, exec (.captureRead h slot addr off len false) s = .next t ∧ Accepted s t h 0x1A h.region true 0x000D [] ∧
        t.hostOut = s.hostOut ∧ t.bundles = s.bundles))

/-- ADMIT_SEQUENCE, RELEASE_SEQUENCE, the three QUERY_PROGRESS forms, EVENT_FETCH and REQUEST_COMPLETION (R138, R140, R321, R309,
R310, Table 11.17, Table 11.22).
Rests also on the model's choices of assumptions 6, 7, 76, 97, 107. -/
def Obligations.SequenceCommandsTakeEffect : Prop :=
  (∀ (s : State) (h : CmdHdr), Rung s h →
    (∀ g, OwnRegion s h g →
      (∀ b, h.paramLen = 128 → g.image.isSome = true → (b.promptTokens = 0 ∧ b.prefixKeys = 0 ∨ b.prompt.isSome = true) →
        ∃ t, exec (.admitSequence h b) s = .next t ∧ Accepted s t h 0x20 h.region false 1 [] ∧
          Waits s t h g (.admitSeq b (((b.prompt.getD ([], [])).1).take b.promptTokens) (((b.prompt.getD ([], [])).2).take b.prefixKeys))) ∧
      (∀ key, h.paramLen = 8 → ∃ t, exec (.releaseSequence h key) s = .next t ∧ Accepted s t h 0x21 h.region false 1 [] ∧
        Waits s t h g (.release key)) ∧
      (∀ keys, keys.length ≤ 122 → h.paramLen = 32 + 8 * keys.length →
        let recs := (queriedCtxs s g keys).map (seqRecord s)
        (∀ ok, ∃ t, exec (.queryProgressSequences h keys 0 ok) s = .next t ∧
          Answered s t h 0x22 0 (regionRecord s h.region g ++ (recs.take (if s.idn.compat = true then 14 else 30)).flatten)
            (fnOf s h.func) ∧
          OtherFns h.func s t ∧ Only [.fns, .msis, .pwr] s t) ∧
        (∀ addr, addr ≠ 0 → ∃ t, exec (.queryProgressSequences h keys addr true) s = .next t ∧
          Answered s t h 0x22 0 (regionRecord s h.region g) (fnOf s h.func) ∧
          t.hostOut = s.hostOut ++ [⟨h.func, addr, regionRecord s h.region g ++ recs.flatten⟩] ∧ OtherFns h.func s t)) ∧
      (∀ lt, h.paramLen = 32 → inRect g lt = true → lt < 576 → ∃ t, exec (.queryProgressTile h lt) s = .next t ∧
        Answered s t h 0x22 0 (tileRecord s h.region lt) (fnOf s h.func) ∧ OtherFns h.func s t ∧ Only [.fns, .msis, .pwr] s t)) ∧
    (∀ id q, h.paramLen = 32 → findReq (fnOf s h.func) id = some q → ∃ t, exec (.queryProgressRequest h id) s = .next t ∧
      Answered s t h 0x22 0 (reqRecord q) (fnOf s h.func) ∧ OtherFns h.func s t ∧ Only [.fns, .msis, .pwr] s t) ∧
    (∀ id, h.paramLen = 32 → findReq (fnOf s h.func) id = none → ∃ t, exec (.queryProgressRequest h id) s = .next t ∧
      Answered s t h 0x22 3 [] (fnOf s h.func) ∧ OtherFns h.func s t ∧ Only [.fns, .msis, .pwr] s t) ∧
    (h.paramLen = 0 → s.idn.compat = true →
      ∃ t l, exec (.eventFetch h) s = .next t ∧ l.length ≤ 448 ∧ Replied s t h 0xFF 0 l ∧
        (fnOf t h.func).backlog = (fnOf s h.func).backlog.drop 7 ∧
        ∀ e rest, (fnOf s h.func).backlog = e :: rest → ∃ u, l = padTo e 64 ++ u) ∧
    (h.paramLen = 0 → s.idn.compat = false → ∃ t, exec (.eventFetch h) s = .next t ∧
      Answered s t h 0xFF 2 [] (fnOf s h.func) ∧ OtherFns h.func s t ∧ Only [.fns, .msis, .pwr] s t)) ∧
  (∀ (s : State) (f id : Nat) (q : Req), f < 17 → (fnOf s f).requests.find? (fun q => q.id == id) = some q → q.finished = true →
    (fnOf s f).drain = none → s.idn.compat = false →
    ∃ t, exec (.requestCompletion f id) s = .next t ∧
      (fnOf t f).requests = (fnOf s f).requests.filter (fun x => x.id != id) ∧ (fnOf t f).reqLog.getLast? = some q ∧
      ((fnOf s f).backlog = [] → ringRoom (fnOf s f) = true → (fnOf t f).evqTail = ringNext (fnOf s f) (fnOf s f).evqTail ∧
        sget [] (fnOf t f).ring (fld (fnOf s f).evqTail 0 16) =
          (completionEntry q).take 1 ++ [BitVec.ofNat 8 ((fnOf s f).evqTail / 2 ^ 16)] ++ (completionEntry q).drop 2) ∧
      (ringRoom (fnOf s f) = false →
        (fnOf t f).backlog = (fnOf s f).backlog ++ [completionEntry q] ∧ (fnOf t f).evqTail = (fnOf s f).evqTail) ∧
      ∀ k, k ≠ f → fnOf t k = fnOf s k)

/-- DOMAINS_SET, FABRIC_ROUTES and TELEMETRY (R262, R360, R261, R214): the settings, the route entries and the exported bytes; a host
buffer that cannot be read or written leaves all of them as they were and ends the request with status 0x000D. While a region is
inside a step the failure-domain table waits for the step boundary (R262).
Rests also on the model's choices of assumptions 6, 7, 25, 75, 77. -/
def Obligations.SettingsCommandsTakeEffect : Prop :=
  (∀ (s : State) (h : CmdHdr), h.func < 17 →
    (∀ b, ∃ t, exec (.domainsSet h b) s = .next t) ∧ (∀ l, ∃ t, exec (.fabricRoutes h l) s = .next t) ∧
    ∀ what addr ok, ∃ t, exec (.telemetry h what addr ok) s = .next t) ∧
  ∀ (s : State) (h : CmdHdr), Rung s h →
    (∀ b : DomainsBlock, h.func = 0 → h.paramLen = 16 → domainsOk b = false → ∃ t, exec (.domainsSet h b) s = .next t ∧
      Answered s t h 0x08 3 [] (fnOf s h.func) ∧ t.flc = s.flc ∧ OtherFns h.func s t) ∧
    (∀ l, h.func = 0 → h.paramLen = 16 →
      (∃ e ∈ l, 4096 ≤ e.1 ∨ (frValid e.2 = true ∧ frLocal e.2 = false ∧ ∃ p ∈ frPrimary e.2 :: frPorts e.2, pEn (portOf s p) = false)) →
      ∃ t, exec (.fabricRoutes h (some l)) s = .next t ∧ Accepted s t h 0x09 0xFF true 3 [] ∧ t.fab = s.fab ∧ OtherFns h.func s t) ∧
    (∀ addr ok, h.func ≠ 0 → h.paramLen = 32 → ∃ t, exec (.telemetry h (.fatalSlots true) addr ok) s = .next t ∧
      Answered s t h 0x0B 7 [] (fnOf s h.func) ∧ t.hostOut = s.hostOut ∧ t.recorder = s.recorder) ∧
    (∀ b : DomainsBlock, h.func = 0 → h.paramLen = 16 → domainsOk b = true →
      let set := fun (table : List (Nat × BitVec 64)) (next : Option (List (Nat × BitVec 64))) => { s.flc with
        classify := if b.classify = 0xFF then s.flc.classify else b.classify
        histEvents := if b.histEvents = 0 then 3 else b.histEvents
        histDays := if b.histDays = 0 then 30 else b.histDays
        digestSteps := if b.digestSteps = 0 then 10000 else b.digestSteps
        domains := table, domainsNext := next }
      (b.hostAddr = 0 → ∃ t, exec (.domainsSet h b) s = .next t ∧ Accepted s t h 0x08 0xFF true 0 [] ∧ t.flc = set s.flc.domains s.flc.domainsNext ∧
        OtherFns h.func s t) ∧
      (∀ tab, b.hostAddr ≠ 0 → b.table = some tab → ∃ t, exec (.domainsSet h b) s = .next t ∧ Accepted s t h 0x08 0xFF true 0 [] ∧
        t.flc = (if ∃ x ∈ s.regions, inStep x.2 = true then set s.flc.domains (some (tab.foldl (fun m e => sset 0 m e.1 e.2) []))
          else set (tab.foldl (fun m e => sset 0 m e.1 e.2) []) none) ∧ OtherFns h.func s t) ∧
      (b.hostAddr ≠ 0 → b.table = none → ∃ t, exec (.domainsSet h b) s = .next t ∧ Accepted s t h 0x08 0xFF true 0x000D [] ∧
        t.flc = s.flc ∧ OtherFns h.func s t)) ∧
    (h.func = 0 → h.paramLen = 16 →
      (∀ l, (∀ e ∈ l, e.1 < 4096 ∧ (frValid e.2 = false ∨ frLocal e.2 = true ∨ ∀ p ∈ frPrimary e.2 :: frPorts e.2, pEn (portOf s p) = true)) →
        ∃ t, exec (.fabricRoutes h (some l)) s = .next t ∧ Accepted s t h 0x09 0xFF true 0 [] ∧
          t.fab = { s.fab with hostRoutes := l.foldl (fun m e => sset 0 m e.1 e.2) s.fab.hostRoutes } ∧ OtherFns h.func s t) ∧
      (∃ t, exec (.fabricRoutes h none) s = .next t ∧ Accepted s t h 0x09 0xFF true 0x000D [] ∧ t.fab = s.fab ∧ OtherFns h.func s t)) ∧
    (∀ addr, h.paramLen = 32 →
      (∃ t, exec (.telemetry h .counters addr true) s = .next t ∧ Accepted s t h 0x0B 0xFF true 0 [] ∧
        t.hostOut = s.hostOut ++ [⟨h.func, addr, Config.counterExport s.free⟩] ∧ t.free = s.free + 1 ∧ t.recorder = s.recorder ∧
        OtherFns h.func s t) ∧
      (∀ no, ∃ t, exec (.telemetry h (.palacy no) addr true) s = .next t ∧ Accepted s t h 0x0B 0xFF true 0 [] ∧
        t.hostOut = s.hostOut ++ [⟨h.func, addr, ((s.recorder.palacy.find? fun p => p.no == no).map (·.bytes)).getD (zeros 256)⟩] ∧
        t.free = s.free ∧ t.recorder = s.recorder ∧ OtherFns h.func s t) ∧
      (∀ clear, (clear = true → h.func = 0) → ∃ t, exec (.telemetry h (.fatalSlots clear) addr true) s = .next t ∧
        Accepted s t h 0x0B 0xFF true 0 [] ∧
        (∃ l, l.length = 1088 ∧ t.hostOut = s.hostOut ++ [⟨h.func, addr, l⟩]) ∧ t.free = s.free ∧
        t.recorder = { s.recorder with fatal0 := if clear = true then none else s.recorder.fatal0 } ∧ OtherFns h.func s t) ∧
      (∃ t, exec (.telemetry h .counters addr false) s = .next t ∧ Accepted s t h 0x0B 0xFF true 0x000D [] ∧ t.hostOut = s.hostOut ∧
        OtherFns h.func s t))

/-- FIRMWARE_UPDATE's three actions (R392 to R394): the slot that does not run, the selection record and the fused SVN after each.
Rests also on the model's choices of assumptions 6, 8, 31, 93. -/
def Obligations.FirmwareCommandsTakeEffect : Prop :=
  ∀ (s : State) (h : CmdHdr), Rung s h → h.func = 0 → h.paramLen = 32 →
    (∀ len im, len ≤ 30 * 2 ^ 20 → imageOk s im = true → ∃ t, exec (.firmwareUpdateWrite h len (some im)) s = .next t ∧
      Accepted s t h 0x0C 0xFF true 0 (leBytes im.fwId 8) ∧ t.sec.wrote = true ∧ slotImage t (1 - s.idn.fwSlot % 2) = some im ∧
      (∀ k, k ≤ 1 → k ≠ 1 - s.idn.fwSlot % 2 → slotImage t k = slotImage s k) ∧ t.sec.svn = s.sec.svn ∧
      t.sec.sel0 = s.sec.sel0 ∧ t.sec.sel1 = s.sec.sel1 ∧ OtherFns h.func s t) ∧
    (∀ len im, len ≤ 30 * 2 ^ 20 → imageOk s im = false → ∃ t, exec (.firmwareUpdateWrite h len (some im)) s = .next t ∧
      (Accepted s t h 0x0C 0xFF true 5 [] ∨ Accepted s t h 0x0C 0xFF true 7 []) ∧ t.sec.wrote = false ∧
      slotImage t (1 - s.idn.fwSlot % 2) = some im ∧ OtherFns h.func s t) ∧
    (∀ len, len ≤ 30 * 2 ^ 20 → ∃ t, exec (.firmwareUpdateWrite h len none) s = .next t ∧
      Accepted s t h 0x0C 0xFF true 0x000D [] ∧ t.sec.wrote = false ∧ slotImage t (1 - s.idn.fwSlot % 2) = none ∧
      OtherFns h.func s t) ∧
    (s.sec.wrote = true → ∃ t, exec (.firmwareUpdatePrefer h) s = .next t ∧ Accepted s t h 0x0C 0xFF true 0 [] ∧
      (∃ k x, selInUse t = some (k, x) ∧ x.preferred = 1 - s.idn.fwSlot % 2 ∧ x.tries = 3 ∧ x.confirmed = false ∧
        ∀ k' x', selInUse s = some (k', x') → x.seq = x'.seq + 1 ∧ (k' ≤ 1 → k = 1 - k')) ∧
      t.sec.slotA = s.sec.slotA ∧ t.sec.slotB = s.sec.slotB ∧ OtherFns h.func s t) ∧
    (s.sec.wrote = false → ∃ t, exec (.firmwareUpdatePrefer h) s = .next t ∧ Answered s t h 0x0C 8 [] (fnOf s h.func) ∧
      t.sec = s.sec ∧ OtherFns h.func s t) ∧
    (∀ im, runningConfirmed s = true → slotImage s s.idn.fwSlot = some im → ∃ t, exec (.firmwareUpdateAdvanceSvn h) s = .next t ∧
      Accepted s t h 0x0C 0xFF true 0 [] ∧ t.sec = { s.sec with svn := Nat.max s.sec.svn im.svn } ∧ OtherFns h.func s t) ∧
    (runningConfirmed s = false → ∃ t, exec (.firmwareUpdateAdvanceSvn h) s = .next t ∧ Answered s t h 0x0C 8 [] (fnOf s h.func) ∧
      t.sec = s.sec ∧ OtherFns h.func s t)

/-- DEBUG_UNLOCK's four phases on both paths (R399, R401, R402): the nonce, the debug level and the lifecycle state after each, the
refusal of a bad token, and the device reset with CAUSE 0x04 and no clean-start record that follows a move of the lifecycle state
or leaves debug level FULL.
Rests also on the model's choices of assumptions 6, 17, 31, 93. -/
def Obligations.DebugUnlockTakesEffect : Prop :=
  ∀ (s : State) (src : UnlockSrc), UnlockOpen s src →
    (∃ t, exec (.debugUnlockChallenge src) s = .next t ∧ UnlockAnswer s t 0 (leBytes (Config.nonce s.free).toNat 48) src ∧
      t.sec.challenge = some (Config.nonce s.free, s.now) ∧ t.free = s.free + 1 ∧ t.idn = s.idn) ∧
    (∀ target tok, s.idn.debugLevel < target → target ≤ 2 → (target = 2 → s.regions = []) → s.sec.blockedTo ≤ s.now →
      (tokenOk s tok = true → ∃ t, exec (.debugUnlockRaise src target tok) s = .next t ∧ UnlockAnswer s t 0 [] src ∧
        t.idn = { s.idn with debugLevel := target } ∧ t.sec.challenge = none ∧
        (target = 2 → ∀ d, d < 4 → d ∈ t.rep.zeroized) ∧ (target = 1 → t.rep = s.rep)) ∧
      (tokenOk s tok = false → ∃ t, exec (.debugUnlockRaise src target tok) s = .next t ∧ UnlockAnswer s t 7 [] src ∧
        t.idn = s.idn ∧ t.sec.challenge = none ∧ t.rep = s.rep)) ∧
    (s.idn.debugLevel = 1 → ∃ t, exec (.debugUnlockLower src 0) s = .next t ∧ UnlockAnswer s t 0 [] src ∧
      t.idn = { s.idn with debugLevel := 0 } ∧ t.flt = s.flt) ∧
    (∀ target, target < 2 → s.idn.debugLevel = 2 → ∃ t, exec (.debugUnlockLower src target) s = .next t ∧ t.idn.debugLevel = 0 ∧
      t.flt.cause = 0x04 ∧ t.rep.cleanStart = false ∧ t.regions = []) ∧
    (∀ target tok, s.idn.lifecycle < target → target ≤ 2 → s.regions = [] → s.sec.blockedTo ≤ s.now → tokenOk s tok = true →
      ∃ t, exec (.debugUnlockLifecycle src target tok) s = .next t ∧ t.idn.lifecycle = target ∧ t.idn.debugLevel = 0 ∧
        t.flt.cause = 0x04 ∧ t.rep.cleanStart = false ∧ t.regions = [])

/-- The SPDM requests over the PF's DOE, PLDM over SMBus, TRST_N and the IEEE 1149.1 port (R398, R400, R425, R429, Tables 15.4, 15.5):
what each is answered with. An SPDM request that comes before its stage is answered UNEXPECTED_REQUEST.
Rests also on the model's choices of assumptions 17, 28, 29, 30, 31, 92. -/
def Obligations.AttestationAnswers : Prop :=
  (∀ s : State, fwUp s = true →
    let ans := fun (t : State) (r : SpdmResp) (stage : Nat) =>
      t.sec = { s.sec with spdm := some r, spdmState := stage } ∧ Only [.pwr, .sec] s t
    (∃ t, exec .spdmGetVersion s = .next t ∧ ans t .version 1) ∧
    (1 ≤ s.sec.spdmState → ∃ t, exec .spdmGetCapabilities s = .next t ∧ ans t .capabilities 2) ∧
    (s.sec.spdmState = 0 → ∃ t, exec .spdmGetCapabilities s = .next t ∧ ans t (.error 0x04) 0) ∧
    (2 ≤ s.sec.spdmState → ∃ t, exec (.spdmNegotiateAlgorithms true true) s = .next t ∧ ans t .algorithms 3) ∧
    (2 ≤ s.sec.spdmState → ∃ t, exec (.spdmNegotiateAlgorithms false true) s = .next t ∧ ans t (.error 0x01) s.sec.spdmState) ∧
    (3 ≤ s.sec.spdmState → ∃ t, exec .spdmGetDigests s = .next t ∧ ans t (.digests 1) s.sec.spdmState) ∧
    (∀ off len, 3 ≤ s.sec.spdmState → off < (Config.chainLength s.sec.aliasNo).toNat →
      ∃ t, exec (.spdmGetCertificate 0 off len) s = .next t ∧
        ans t (.certificate (Nat.min len ((Config.chainLength s.sec.aliasNo).toNat - off))
          ((Config.chainLength s.sec.aliasNo).toNat - off - Nat.min len ((Config.chainLength s.sec.aliasNo).toNat - off)))
          s.sec.spdmState) ∧
    (∀ nonce, 3 ≤ s.sec.spdmState → s.sec.aliasHeld = true →
      ∃ t, exec (.spdmChallenge 0 nonce) s = .next t ∧ ans t (.challenge nonce s.sec.aliasNo) s.sec.spdmState) ∧
    (∀ nonce, 3 ≤ s.sec.spdmState → s.sec.aliasHeld = true → ∃ t, exec (.spdmGetMeasurements 4 nonce) s = .next t ∧
      ans t (.measurements 1 [(4, leBytes s.idn.lifecycle 1 ++ leBytes s.idn.debugLevel 1 ++ leBytes s.sec.svn 1 ++
        leBytes s.idn.fwSlot 1)] nonce s.sec.aliasNo) s.sec.spdmState) ∧
    (∀ nonce, 3 ≤ s.sec.spdmState → s.sec.aliasHeld = true → ∃ t, exec (.spdmGetMeasurements 0 nonce) s = .next t ∧
      ans t (.measurements 21 [] nonce s.sec.aliasNo) s.sec.spdmState) ∧
    ∀ nonce, 3 ≤ s.sec.spdmState → s.sec.aliasHeld = false → ∃ t, exec (.spdmChallenge 0 nonce) s = .next t ∧
      ans t (.error 0x05) s.sec.spdmState) ∧
  (∀ s : State, s.flt.state = 5 →
    let ans := fun (t : State) (r : PldmResp) => t.sec = { s.sec with pldm := some r }
    (∃ t, exec (.pldmRequest .packagePower) s = .next t ∧ ans t (.value s.flt.powerW) ∧ Only [.sec] s t) ∧
    (∃ t, exec (.pldmRequest .hottestSensor) s = .next t ∧ ans t (.value s.flt.tempMax) ∧ Only [.sec] s t) ∧
    (∃ t, exec (.pldmRequest .fltState) s = .next t ∧ ans t (.state 5) ∧ Only [.sec] s t) ∧
    (∀ e rest, s.recorder.board = e :: rest → ∃ t, exec (.pldmRequest .pollEvent) s = .next t ∧ ans t (.event e) ∧
      t.recorder = { s.recorder with board := rest } ∧ Only [.sec, .recorder] s t) ∧
    (s.recorder.board = [] → ∃ t, exec (.pldmRequest .pollEvent) s = .next t ∧ ans t .noEvent ∧ t.recorder = s.recorder) ∧
    ∃ t, exec (.pldmRequest .unsupported) s = .next t ∧ ans t .unsupported ∧ Only [.sec] s t) ∧
  (∀ s : State, exec .trstNAssert s = .next { s with sec := { s.sec with jtag := .none_ } }) ∧
  (∀ s : State, s.pwr.off = false →
    let heard := fun (t : State) (r : JtagResp) => t.sec = { s.sec with jtag := r }
    (∃ t, exec (.boundaryScanAccess .bypass) s = .next t ∧ heard t .bypass ∧ Only [.sec] s t) ∧
    (∃ t, exec (.boundaryScanAccess .idcode) s = .next t ∧
      heard t (.idcode (0x16240000 + Config.makerCode.toNat * 2 + 1)) ∧ Only [.sec] s t) ∧
    (s.idn.debugLevel = 0 → ∃ t, exec (.boundaryScanAccess .readCounters) s = .next t ∧ heard t .refused ∧ Only [.sec] s t) ∧
    (1 ≤ s.idn.debugLevel → ∃ t, exec (.boundaryScanAccess .readCounters) s = .next t ∧ heard t (.data (Config.debugExport s.free)) ∧
      t.free = s.free + 1 ∧ Only [.sec, .free] s t) ∧
    (∀ lt addr, lt < 576 → addr + 64 ≤ spadEnd → s.idn.debugLevel = 2 →
      ∃ t, exec (.boundaryScanAccess (.readMem lt addr)) s = .next t ∧ heard t (.data (spadRead (tileOf s lt).spad addr 64)) ∧
        Only [.sec] s t) ∧
    (∀ lt addr, lt < 576 → addr + 64 ≤ spadEnd → s.idn.debugLevel < 2 →
      ∃ t, exec (.boundaryScanAccess (.readMem lt addr)) s = .next t ∧ heard t .refused ∧ Only [.sec] s t) ∧
    (∀ lt addr (data : List Byte), lt < 576 → addr + data.length ≤ spadEnd → s.idn.debugLevel = 2 →
      ∃ t, exec (.boundaryScanAccess (.writeMem lt addr data)) s = .next t ∧ heard t .done ∧
        tileOf t lt = { tileOf s lt with spad := spadWrite (tileOf s lt).spad addr data } ∧ Only [.sec, .tiles] s t) ∧
    (s.idn.debugLevel = 2 → ∃ t, exec (.boundaryScanAccess .mcHalt) s = .next t ∧
      t.sec = { s.sec with jtag := .done, halted := true } ∧ Only [.sec] s t))

/-- Host writes to the mailbox page, the interrupt controls and the fault block in the IGX-3 layout (R303, R306, R313, R315, R316,
Tables 11.3 to 11.6, 11.10, 11.13): the register written and nothing else. A write to the command area while BUSY sets LOCK_WR, a
ring while BUSY sets OVERRUN, an access of a size that the register does not take is counted, a read too, and one outside BAR0
does nothing. A W1C bit that the hardware sets in the cycle of the write that clears it stays set (R11).
Rests also on the model's choices of assumptions 6, 11, 78, 79, 95, 96. -/
def Obligations.RegisterWritesTakeEffect : Prop :=
  ∀ (s : State) (f w : Nat), f < 17 → w < 2 ^ 32 → s.idn.compat = false →
    let v := fnOf s f
    let wr := fun (off : Nat) => exec (.registerWrite f off (leBytes w 4)) s
    (∀ off (data : List Byte), off + data.length ≤ 0x400 → data.length ∈ [4, 8, 16, 32, 64] → off % data.length = 0 →
      exec (.registerWrite f off data) s =
        .next (setFn s f (if v.busy then { v with lockWr := true, w1c := noteSet v.w1c 26 s.now } else { v with cmd := memWrL v.cmd off data }))) ∧
    (v.busy = true → bitOf w 31 = true → wr 0x840 = .next (setFn s f { v with overrun := true, w1c := noteSet v.w1c 27 s.now })) ∧
    (v.busy = false → v.ready = false → s.pwr.doze = false → bitOf w 31 = true →
      wr 0x840 = .next (setFn s f { v with busy := true, done := false, rungSeq := w % 2 ^ 16, rungNow := s.now })) ∧
    wr 0x844 = .next (setFn s f { v with
      done := w1cBit v.w1c s.now 29 v.done (bitOf w 29), overrun := w1cBit v.w1c s.now 27 v.overrun (bitOf w 27)
      lockWr := w1cBit v.w1c s.now 26 v.lockWr (bitOf w 26), hostLate := w1cBit v.w1c s.now 25 v.hostLate (bitOf w 25) }) ∧
    (∀ t w2, w2 < 2 ^ 32 → v.busy = true → bitOf w 31 = true → wr 0x840 = .next t →
      ∃ u, exec (.registerWrite f 0x844 (leBytes w2 4)) t = .next u ∧ (fnOf u f).overrun = true) ∧
    (∀ t m, wr 0x844 = .next t → v.w1c = [] → bitOf w m = true → m = 25 ∨ m = 26 ∨ m = 27 ∨ m = 29 → bitOf (hostRead t f 0x844) m = false) ∧
    wr 0x848 = .next (setFn s f (if v.hostBeat = w then v else { v with hostBeat := w, beatAt := s.now })) ∧
    (v.evqEn = true → wr 0x800 = .next (setFn s f v)) ∧
    (v.evqEn = false → wr 0x800 = .next (setFn s f { v with evqBase := setFld v.evqBase 0 32 w / 4096 * 4096 })) ∧
    (∃ t, wr 0x3000 = .next t ∧ (∀ c, c < 5 → bitOf (fnOf t f).intCause c = w1cBit v.w1c s.now c (bitOf v.intCause c) (bitOf w c)) ∧
      fnOf t f = { v with intCause := (fnOf t f).intCause } ∧ OtherFns f s t ∧ Only [.fns] s t) ∧
    (∃ t, wr 0x3004 = .next t ∧ (fnOf t f).intMask = w % 32 ∧ (fnOf t f).intCause = v.intCause ∧ OtherFns f s t ∧
      Only [.fns, .msis] s t ∧
      ∀ c, c < 5 → bitOf v.intMask c = true → bitOf w c = false → bitOf v.intCause c = true →
        v.bme = true → v.d3 = false → causeVector false v c < vectorsOf f →
        (memRd v.msix (16 * causeVector false v c + 12)).toNat % 2 = 0 → (f, causeVector false v c) ∈ t.msis) ∧
    wr 0x3008 = .next (setFn s f { v with intVec := w % 2 ^ 24 }) ∧
    wr 0x300C = .next (setFn s f { v with intMod := w }) ∧
    (f = 0 → bitOf w 31 = true → wr 0x200C = .next { s with flt := { s.flt with fatalValid := w1cBit s.flt.w1c s.now 31 s.flt.fatalValid true } }) ∧
    (f = 0 → wr 0x2010 = .next { s with flt := { s.flt with
      powerFail := w1cBit s.flt.w1c s.now 9 s.flt.powerFail (bitOf w 9)
      emergency := w1cBit s.flt.w1c s.now 8 s.flt.emergency (bitOf w 8) } }) ∧
    (f ≠ 0 → ∀ off, 0x2000 ≤ off → off < 0x2100 → off % 4 = 0 → wr off = .next s) ∧
    (∀ off (data : List Byte), 0x400 ≤ off → off < 0x800 → data.length = 2 →
      exec (.registerWrite f off data) s =
        .next { s with flt := { s.flt with badAccess := Nat.min (s.flt.badAccess + 1) (2 ^ 32 - 1) } }) ∧
    (∀ off (data : List Byte), 0x10000 ≤ off → exec (.registerWrite f off data) s = .next s) ∧
    (hostRead s f 0x1000 % 256 = 0xB1 ∧ fld (hostRead s f 0x1004) 8 8 = 3 ∧ bitOf (hostRead s f 0x1004) 7 = false) ∧
    (∀ t, wr 0x3008 = .next t → hostRead t f 0x3008 = w % 2 ^ 24) ∧
    (∀ t, wr 0x3000 = .next t → ∀ c, c < 5 → bitOf (hostRead t f 0x3000) c = w1cBit v.w1c s.now c (bitOf v.intCause c) (bitOf w c)) ∧
    (∀ t, wr 0x844 = .next t → ∀ b, b = 25 ∨ b = 26 ∨ b = 27 ∨ b = 29 →
      bitOf (hostRead t f 0x844) b = w1cBit v.w1c s.now b (bitOf (hostRead s f 0x844) b) (bitOf w b)) ∧
    ∀ off (data : List Byte),
      (off % 4 = 0 → exec (.registerWrite f off data 4) s = exec (.registerWrite f off data) s) ∧
      (inBar f off = true → exec (.registerWrite f off [] 2) s =
        .next { s with flt := { s.flt with badAccess := Nat.min (s.flt.badAccess + 1) (2 ^ 32 - 1) } } ∧ (hostReadAt s f off 2).2 = 0)

/-- The registers with effects of their own (R214, R310, R313, Tables 11.6, 11.10, 11.13): MBX_EVQ_CTL and MBX_EVQ_HEAD, the
moderation timer, FLT_DEV_RESET, MSH_TEL_CTL, and bus mastering and D3hot, which hold vectors back and let them go.
Rests also on the model's choices of assumptions 11, 79, 81, 97, 103, 106. -/
def Obligations.RegisterEffectsHold : Prop :=
  (∀ (s : State) (f : Nat), f < 17 → s.idn.compat = false →
    (∀ w : BitVec 32, (fnOf s f).evqEn = false → bitOf w.toNat 31 = true → 6 ≤ fld w.toNat 0 5 → fld w.toNat 0 5 ≤ 16 →
      (fnOf s f).backlog = [] → (fnOf s f).alarms = [] → ownedRegions s f = [] →
      exec (.mbxEvqCtlEnable f w) s = .next (setFn s f { fnOf s f with
        evqVector := fld w.toNat 16 8, evqSize := fld w.toNat 0 5, evqEn := true, evqHead := 0, evqTail := 0 })) ∧
    (∀ w : BitVec 32, (fnOf s f).evqEn = false → (bitOf w.toNat 31 = false ∨ fld w.toNat 0 5 < 6 ∨ 16 < fld w.toNat 0 5) →
      exec (.mbxEvqCtlEnable f w) s = .next (setFn s f { fnOf s f with
        evqVector := fld w.toNat 16 8, evqSize := fld w.toNat 0 5 })) ∧
    (∀ w : BitVec 32, (fnOf s f).evqEn = true → exec (.mbxEvqCtlEnable f w) s = .next (setFn s f { fnOf s f with
      evqVector := fld w.toNat 16 8, evqEn := bitOf w.toNat 31 })) ∧
    (∀ w, (fnOf s f).backlog = [] → (fnOf s f).alarms = [] → ownedRegions s f = [] →
      exec (.mbxEvqHeadWrite f w) s = .next (setFn s f { fnOf s f with evqHead := w % 2 ^ 17 })) ∧
    (∀ w e rest, (fnOf s f).backlog = e :: rest → ringRoom { fnOf s f with evqHead := w % 2 ^ 17 } = true →
      ∃ t, exec (.mbxEvqHeadWrite f w) s = .next t ∧ (fnOf t f).evqHead = w % 2 ^ 17 ∧
        (fnOf t f).backlog.length ≤ rest.length ∧ ∃ x, sget [] (fnOf t f).ring (fld (fnOf s f).evqTail 0 16) = x ∧ x ≠ [])) ∧
  (∀ (s : State) (f : Nat), f < 17 → (fnOf s f).unsig ≠ 0 → (fnOf s f).unsigAt + fld (fnOf s f).intMod 0 16 * 2000 ≤ s.now →
    ∃ t pba, exec (.evqModerationTimer f) s = .next t ∧
      fnOf t f = { fnOf s f with
        unsig := 0, pba := pba, w1c := noteSet (fnOf s f).w1c 1 s.now
        intCause := if bitOf (fnOf s f).intCause 1 then (fnOf s f).intCause else (fnOf s f).intCause + 2 } ∧
      OtherFns f s t ∧ Only [.fns, .msis] s t) ∧
  (∀ s : State,
    (powered s = true → s.pwr.resetPend = none →
      exec (.fltDevResetGo 0xD1CE) s = .next { s with pwr := { s.pwr with resetPend := some (.fltDevReset, s.now) } }) ∧
    (∀ key, key ≠ 0xD1CE → exec (.fltDevResetGo key) s = .next s)) ∧
  (∀ (s : State) (pos : Nat), pos < 624 → exec (.mshTelCtlClear pos) s = .next (setRouter s pos { routerOf s pos with
    histBase := 0, histFrom := s.now, hist := [], pkts := [], flits := [], stall := [], xoffTime := [], cnts := [] })) ∧
  (∀ (s : State) (f : Nat), f < 17 →
    exec (.busMasterEnableChange f false) s = .next (setFn s f { fnOf s f with bme := false }) ∧
    (∀ n b, ∃ t, exec (.busMasterEnableChange f b (some n)) s = .next t ∧ t.idn = { s.idn with vfs := n } ∧ fld (hostRead t 0 0x1020) 17 5 = n % 32) ∧
    ∃ t, exec (.busMasterEnableChange f true) s = .next t ∧ (fnOf t f).bme = true ∧ (fnOf t f).d3 = (fnOf s f).d3 ∧
      ∀ vec ∈ (fnOf s f).pba, (fnOf s f).d3 = false → (memRd (fnOf s f).msix (16 * vec + 12)).toNat % 2 = 0 → (f, vec) ∈ t.msis) ∧
  (∀ s : State,
    exec (.d3hotChange true) s = .next (setFn s 0 { fnOf s 0 with d3 := true }) ∧
    ∃ t, exec (.d3hotChange false) s = .next t ∧ (fnOf t 0).d3 = false ∧ (fnOf t 0).bme = (fnOf s 0).bme ∧
      ∀ vec ∈ (fnOf s 0).pba, (fnOf s 0).bme = true → (memRd (fnOf s 0).msix (16 * vec + 12)).toNat % 2 = 0 → (0, vec) ∈ t.msis)

/-- The reset of a region's running image by RESET_INSTANCE (R322 to R324, R357, Table 11.18): its start with the capture, the marker
or the capture given up, the generation that goes up by one, the end when the drain counter is 0, and the escalation to the dies.
Rests also on the model's choices of assumptions 3, 67, 68. -/
def Obligations.InstanceResetRows : Prop :=
  (∀ (s : State) (r : Nat) (g : Region) (x : InstReset), r < 17 → regionOf s r = some g → (rfOf s r).reset = some x →
    let due := x.begun = none ∧ (∀ t0, (rfOf s r).lastReset = some t0 → t0 + cyclesPerMs ≤ s.now) ∧ r ∉ s.rep.held
    (due → ∃ t h y, exec (.instanceResetStart r) s = .next t ∧ regionOf t r = some h ∧ h.rstate = .resetting ∧ h.running = false ∧
      Ends s t g.runReq 0x000B (runResult g) ∧ (atBoundary g = false → h.failed = true) ∧
      (rfOf t r).reset = some y ∧ y = { x with begun := some s.now, slot := y.slot, capturing := true } ∧
      ∃ b ∈ t.bundles, b.slot = y.slot ∧ b.region = r ∧ b.committed = false ∧ b.tiles = regionTiles s g ∧ b.reason = 1) ∧
    (¬ due → exec (.instanceResetStart r) s = .next s)) ∧
  (∀ (s : State) (r b : Nat) (g : Region) (x : InstReset), r < 17 → regionOf s r = some g → (rfOf s r).reset = some x →
    x.capturing = true → x.begun = some b → ((regionTiles s g).map (posOf s)).Nodup →
    let newGen := fun (t : State) => ∀ lt ∈ regionTiles s g, (tileOf t lt).gen = ((tileOf s lt).gen + 1) % 8
    (b + cyclesPerMs ≤ s.now → ∃ t, exec (.captureAbandon r) s = .next t ∧ newGen t ∧
      (rfOf t r).reset = some { x with capturing := false, slot := 0xFF, old := some s.now } ∧
      ∀ y ∈ s.bundles, y ∈ t.bundles ↔ ¬ (y.slot = x.slot ∧ y.committed = false)) ∧
    (s.now < b + cyclesPerMs → exec (.captureAbandon r) s = .next s ∧ ∃ t, exec (.drainCounterZero r) s = .next t ∧ newGen t ∧
      (∀ y ∈ s.bundles, y.slot = x.slot → { y with committed := true } ∈ t.bundles) ∧
      ((rfOf t r).reset = none ∨ (rfOf t r).reset = some { x with capturing := false, old := some s.now }))) ∧
  (∀ (s : State) (r o : Nat) (g : Region) (x : InstReset), r < 17 → regionOf s r = some g → (rfOf s r).reset = some x →
    x.capturing = false → x.old = some o →
    (drained s r g = false → exec (.drainCounterZero r) s = .next s) ∧
    ((∀ e ∈ s.regions, ∀ q ∈ x.reqs, e.2.runReq ≠ some q) →
      let us := (s.now - o) / cyclesPerUs
      (drained s r g = true → ∃ t h, exec (.drainCounterZero r) s = .next t ∧ regionOf t r = some h ∧
        h.rstate = (if g.image.isSome then .loaded else .empty) ∧ h.held = false ∧ h.failed = false ∧
        (rfOf t r).reset = none ∧ (rfOf t r).lastReset = some s.now ∧
        (∀ q ∈ x.reqs, Ends s t (some q) 0 (leBytes us 4 ++ leBytes x.slot 1)) ∧
        (atBoundary g = false → Discarded s t r g) ∧
        (atBoundary g = true → h = { g with rstate := h.rstate, held := false, failed := false } ∧ t.tiles = s.tiles)) ∧
      (drained s r g = false → o + 2 * cyclesPerMs ≤ s.now → ∃ t, exec (.drainEscalation r) s = .next t ∧
        (∀ q ∈ x.reqs, Ends s t (some q) 0x0010 (leBytes us 4 ++ leBytes x.slot 1)) ∧
        ∀ pos, pos < 624 → (∃ lt ∈ regionTiles s g, dieOfLt s lt = dieOfPos pos) →
          (routerOf t pos).bufs = [] ∧ (tileAtPos t pos).fired = [])) ∧
    (drained s r g = true ∨ s.now < o + 2 * cyclesPerMs → exec (.drainEscalation r) s = .next s)) ∧
  (∀ (s : State) (r : Nat), r < 17 → (rfOf s r).reset = none → exec (.instanceResetStart r) s = .next s ∧
    exec (.captureAbandon r) s = .next s ∧ exec (.drainCounterZero r) s = .next s ∧ exec (.drainEscalation r) s = .next s)

/-- Heartbeats (R314, R316, R349): of the control firmware, of a host, of the management cores, and between devices. The watchdogs of
queues and engines (R354, R355): a stalled queue is reported once an attempt and fails nothing; a hung engine costs its tile a
capture and a core reset, and fails the step.
Rests also on the model's choices of assumptions 3, 81, 104. -/
def Obligations.HeartbeatsAndWatchdogsTakeEffect : Prop :=
  ((∀ s : State, (fwAlive s = false → ∃ t, exec .fwDead s = .next t ∧ (∀ f, f < 17 → bitOf (fnOf t f).intCause causeFwDead = true) ∧
      Only [.fns, .msis] s t) ∧
    (fwAlive s = true → exec .fwDead s = .next s)) ∧
  (∀ (s : State) (f : Nat), f < 17 →
    ((fnOf s f).beatMs ≠ 0 → (fnOf s f).beatAt + (fnOf s f).beatMs * cyclesPerMs ≤ s.now →
      ∃ t, exec (.hostBeatMissed f) s = .next t ∧ (fnOf t f).hostLate = true ∧ (fnOf t f).beatAt = s.now ∧
        ((fnOf s f).beatStop = false → t.regions = s.regions) ∧
        ((fnOf s f).beatStop = true → ∀ r g, (r, g) ∈ s.regions → regionOf s r = some g → g.owner = f → g.running = true →
          ∃ h, regionOf t r = some h ∧ ∃ e ∈ h.boundary, e.act = .stop 0x0014)) ∧
    ((fnOf s f).beatMs = 0 → exec (.hostBeatMissed f) s = .next s)) ∧
  (∀ s : State,
    (∀ c, s.pwr.coreRestart = none → c < 4 → ∃ t, exec (.mcCoreWatchdog [c]) s = .next t ∧ t.pwr.coreRestart = some s.now ∧
      (∀ f, f < 17 → fnOf t f = { fnOf s f with ready := false }) ∧ Only [.pwr, .fns] s t) ∧
    (∀ c d, s.pwr.coreRestart = none → c < 4 → d < 4 → c ≠ d → ∃ t, exec (.mcCoreWatchdog [c, d]) s = .next t ∧
      t.pwr.resetPend = some (.watchdog, s.now + 80 * cyclesPerMs)) ∧
    (∀ l t0, s.pwr.coreRestart = some t0 → t0 + 50 * cyclesPerMs ≤ s.now → ∃ t, exec (.mcCoreWatchdog l) s = .next t ∧
      t.pwr.resetPend = some (.watchdog, t0 + 80 * cyclesPerMs)) ∧
    (s.pwr.coreRestart = none → exec (.mcCoreWatchdog []) s = .next s)) ∧
  (∀ s : State, (5 * cyclesPerMs ≤ s.now - s.fab.beatAt → exec .mcBeatTick s = .next { s with
      fab := { s.fab with beatAt := s.now }, outbox := if peerDevs s = [] then s.outbox else s.outbox ++ [.mcBeat] }) ∧
    (s.now - s.fab.beatAt < 5 * cyclesPerMs → exec .mcBeatTick s = .next s)) ∧
  (∀ (s : State) (dev : Nat), dev < 4096 → exec (.mcBeatRx dev) s = .next { s with fab := { s.fab with
    beats := sins dev s.now (sdel dev s.fab.beats), silent := setDel dev s.fab.silent } })) ∧
  (∀ (s : State) (lt q : Nat) (b : Blocked) (g : Region), lt < 576 → q < 64 → blockedOf s lt q = some b →
    regionOf s (tileOf s lt).region = some g →
    (inStep g = true → (queueOf (tileOf s lt) q).since + g.timeoutUs * cyclesPerUs / 2 ≤ s.now →
      (lt, q) ∉ (rfOf s (tileOf s lt).region).stalls → ∃ t, exec (.queueStall lt q) s = .next t ∧
        (lt, q) ∈ (rfOf t (tileOf s lt).region).stalls ∧ Only [.rf, .fns, .recorder, .flt, .msis] s t) ∧
    ((lt, q) ∈ (rfOf s (tileOf s lt).region).stalls → exec (.queueStall lt q) s = .next s) ∧
    (∀ f, hungIn s lt q = some f → ∃ t h, exec (.engineHang lt q) s = .next t ∧ (tileOf t lt).fired = [] ∧ (tileOf t lt).queues = [] ∧
      (tileOf t lt).objs = [] ∧ regionOf t (tileOf s lt).region = some h ∧ (∃ e ∈ h.boundary, e.act = .refill lt) ∧
      (inStep g = true → h.failed = true) ∧ ∃ x ∈ t.bundles, x.region = (tileOf s lt).region ∧ x.committed = true ∧ x.tiles = [lt]) ∧
    (hungIn s lt q = none → exec (.engineHang lt q) s = .next s))

/-- Weight digests (R362, R365 to R367, Table 13.7): blame is charged to the sender's send path, a walk starts at a boundary when it
is due, its end compares every node with its reference and reports, and a replica's report is compared.
Rests also on the model's choices of assumptions 3, 58, 65, 66. -/
def Obligations.DigestRowsTakeEffect : Prop :=
  (∀ (s : State) (dev die cq piece : Nat), die < 4 →
    ∃ t, exec (.digestBlameRx dev die cq piece) s = .next t ∧
      (∃ h ∈ t.recorder.history, h.key = dieKey 8 die ∧ wallSecs s ∈ h.times ∧ 0 < h.events) ∧
      (s.flc.classify = 0 → (regionOf s (blamedRegion s dev die cq)).isSome = true → Only [.recorder, .rf] s t ∧
        ∃ c ∈ (rfOf t (blamedRegion s dev die cq)).charges, c.key = dieKey 8 die ∧ c.sigClass = 0x08 ∧ c.old = false)) ∧
  (∀ (s : State) (r : Nat) (g : Region), r < 17 → regionOf s r = some g →
    let due := atBoundary g = true ∧ g.image.isSome = true ∧ (rfOf s r).walk = none ∧ s.flc.digestSteps ≤ (rfOf s r).sinceWalk
    (due → ∃ t, exec (.digestWalkStart r) s = .next t ∧ rfOf t r = { rfOf s r with walk := some g.step, sinceWalk := 0 } ∧
      (∀ k, k ≠ r → rfOf t k = rfOf s k) ∧ Only [.rf] s t) ∧
    (¬ due → exec (.digestWalkStart r) s = .next s)) ∧
  (∀ (s : State) (r : Nat) (g : Region), r < 17 → regionOf s r = some g → (rfOf s r).walk = none ∨ g.image = none →
    exec (.digestWalkEnd r) s = .next s) ∧
  (∀ (s : State) (r st : Nat) (g : Region) (im : Image), r < 17 → regionOf s r = some g → (rfOf s r).walk = some st → g.image = some im →
    let tileAt := fun (i : Nat) => sget 0x3FF g.loadedMap i
    let ds := (nodesOf im).map fun x => nodeDigest s (tileAt x.1) x.2
    let good := ∀ x ∈ nodesOf im, (rfOf s r).refDigests[x.1]? = some (nodeDigest s (tileAt x.1) x.2)
    let report := OutMsg.digestReport r im.imageId g.rank (crc64 (ds.flatMap fun d => leBytes d.toNat 8)) st
    (good → ∃ t, exec (.digestWalkEnd r) s = .next t ∧ Only [.rf, .outbox] s t ∧
      t.outbox = (if g.peers = [] then s.outbox else s.outbox ++ [report]) ∧ (∀ k, k ≠ r → rfOf t k = rfOf s k) ∧
      rfOf t r = { rfOf s r with walk := none, ownOk := true, lastMatch := g.step
                                 ownDigest := some (crc64 (ds.flatMap fun d => leBytes d.toNat 8)) }) ∧
    (¬ good → ∃ t h, exec (.digestWalkEnd r) s = .next t ∧ regionOf t r = some h ∧ (rfOf t r).walk = none ∧ (rfOf t r).ownOk = false ∧
      (g.peers ≠ [] → report ∈ t.outbox) ∧
      ∀ x ∈ nodesOf im, (rfOf s r).refDigests[x.1]? ≠ some (nodeDigest s (tileAt x.1) x.2) →
        ∃ e ∈ h.boundary, e.act = .refill (tileAt x.1))) ∧
  (∀ (s : State) (r imageId rank : Nat) (digest : BitVec 64) (refOk : Bool) (g : Region), r < 17 → regionOf s r = some g →
    let differs := (∃ im, g.image = some im ∧ im.imageId = imageId) ∧ g.rank = rank ∧ (rfOf s r).ownOk = true ∧ refOk = true ∧
      ∃ d, (rfOf s r).ownDigest = some d ∧ d ≠ digest
    (differs → exec (.digestReportRx r imageId rank digest refOk) s = .next (regionEvent s 0x0605 r [])) ∧
    (¬ differs → exec (.digestReportRx r imageId rank digest refOk) s = .next s))

/-- Shadows (R369 to R374, Table 13.8): the streamed state arrives, step digests are compared, a gap, the working member's boundary
actions, promotion, and the PROMOTE that a member applies at its boundary.
Rests also on the model's choices of assumptions 4, 43, 69, 70, 71. -/
def Obligations.ShadowRowsTakeEffect : Prop :=
  (∀ (s : State) (r c1 : Nat) (kv : List (Nat × List Byte)) (g : Region) (sh : Shadow), r < 17 → regionOf s r = some g →
    (rfOf s r).shadow = some sh →
    (sh.state = .sync → atBoundary g = true → kv.Pairwise (fun a b => a.1 + a.2.length ≤ b.1 ∨ b.1 + b.2.length ≤ a.1) →
      (∃ t h x, exec (.shadowSyncComplete r c1 kv []) s = .next t ∧ regionOf t r = some h ∧ h.step = c1 ∧ h.attempt = 0 ∧
        h.mstate = .idle ∧ h.lastCommitted = (if c1 = 0 then none else some (c1 - 1)) ∧ (rfOf t r).shadow = some x ∧
        x.state = .comparing ∧ x.compared = 0 ∧ x.c1 = c1 ∧ x.req = sh.req ∧ t.ctxs = s.ctxs ∧
        ∀ e ∈ kv, basinBytes t (g.basinBase + e.1) e.2.length = e.2) ∧
      ∀ (rec : SyncRecord) (id base : Nat), g.ctxIds[rec.rank]? = some id → (listRun s rec.pages.length).1 = some base →
        ∃ t, exec (.shadowSyncComplete r c1 kv [rec]) s = .next t ∧ ctxOf t id = ctxOfRecord r base rec.record ∧
          ∀ k, k ≠ id → ctxOf t k = ctxOf s k) ∧
    (sh.state ≠ .sync ∨ atBoundary g = false → ∀ recs, exec (.shadowSyncComplete r c1 kv recs) s = .next s)) ∧
  (∀ (s : State) (r step : Nat) (digest : BitVec 64) (g : Region) (sh : Shadow), r < 17 → regionOf s r = some g →
    (rfOf s r).shadow = some sh → sh.state = .comparing ∨ sh.state = .qualified ∨ sh.state = .sync →
    (step < g.step → exec (.stepDigestRx r step digest) s = .next s) ∧
    (g.step ≤ step → g.mstate ≠ .readySent → ∃ t x, exec (.stepDigestRx r step digest) s = .next t ∧ Only [.rf] s t ∧
      (rfOf t r).shadow = some x ∧ (step, digest) ∈ x.digests ∧ x = { sh with digests := x.digests }) ∧
    (g.step = step → g.mstate = .readySent → digest = stepDigest s g → ∃ t x, exec (.stepDigestRx r step digest) s = .next t ∧
      Committed s t r g ∧ (rfOf t r).shadow = some x ∧ x.compared = sh.compared + 1 ∧
      (sh.state = .comparing → sh.compareSteps ≤ sh.compared + 1 → x.state = .qualified ∧ x.req = none) ∧
      (sh.state ≠ .comparing ∨ sh.compared + 1 < sh.compareSteps → x.state = sh.state ∧ x.req = sh.req)) ∧
    (g.step = step → g.mstate = .readySent → digest ≠ stepDigest s g → ∃ t h x, exec (.stepDigestRx r step digest) s = .next t ∧
      Discarded s t r g ∧ (rfOf t r).shadow = some x ∧ x.state = .detached ∧ regionOf t r = some h ∧ h.rstate = .stopped ∧
      Ends s t sh.req 0x0013 (leBytes g.step 8 ++ leBytes (stepDigest s g).toNat 8 ++ leBytes digest.toNat 8))) ∧
  (∀ (s : State) (r : Nat) (actions : List BoundaryKind) (g : Region) (sh : Shadow), r < 17 → regionOf s r = some g →
    (rfOf s r).shadow = some sh →
    (sh.state = .comparing ∨ sh.state = .qualified → ∃ t h, exec (.boundaryLogRx r actions) s = .next t ∧ regionOf t r = some h ∧
      h.boundary.map (·.act) = g.boundary.map (·.act) ++ actions.filterMap actOfKind ∧ h = { g with boundary := h.boundary } ∧
      (rfOf t r).shadow = some { sh with actions := actions } ∧ Only [.regions, .orderNo, .rf] s t) ∧
    (sh.state ≠ .comparing → sh.state ≠ .qualified → exec (.boundaryLogRx r actions) s = .next s)) ∧
  (∀ (s : State) (r step : Nat) (g : Region) (sh : Shadow), r < 17 → regionOf s r = some g → (rfOf s r).shadow = some sh →
    (sh.state = .sync → ∃ t h x, exec (.shadowGapRx r step) s = .next t ∧ (rfOf t r).shadow = some x ∧ x.state = .detached ∧
      regionOf t r = some h ∧ h.rstate = .stopped ∧ Ends s t sh.req 0x0013 (leBytes step 8)) ∧
    (sh.state = .comparing ∨ sh.state = .qualified → g.step ≤ step → ∃ t x, exec (.shadowGapRx r step) s = .next t ∧
      (rfOf t r).shadow = some x ∧ x.state = .sync ∧ x.compared = 0 ∧ x.digests = [] ∧
      (openStep g = true → g.step = step → Discarded s t r g)) ∧
    (sh.state = .comparing ∨ sh.state = .qualified → step < g.step → exec (.shadowGapRx r step) s = .next s)) ∧
  (∀ (s : State) (r : Nat) (yes : Bool) (g : Region) (sh : Shadow), r < 17 → regionOf s r = some g → (rfOf s r).shadow = some sh →
    (sh.state = .qualified → ∃ t h x, exec (.shadowPromotion r yes) s = .next t ∧ (rfOf t r).shadow = some x ∧ x.state = .promoted ∧
      regionOf t r = some h ∧ .promote r h.rank t.idn.deviceId r (lastStep h) ∈ t.outbox ∧
      (g.mstate = .readySent → yes = true → Committed s t r g) ∧
      (inStep g = true ∨ (g.mstate = .readySent ∧ yes = false) → Discarded s t r g) ∧
      (atBoundary g = true → h = g)) ∧
    (sh.state ≠ .qualified → exec (.shadowPromotion r yes) s = .next s)) ∧
  (∀ (s : State) (r rank dev reg lastStep : Nat) (g : Region), r < 17 → regionOf s r = some g →
    (g.rank = rank → isShadow s r = false → exec (.promoteRx r rank dev reg lastStep) s = .next s) ∧
    (g.rank ≠ rank ∨ isShadow s r = true → ∃ t, exec (.promoteRx r rank dev reg lastStep) s = .next t ∧ Only [.regions, .orderNo] s t ∧
      regionOf t r = some { g with boundary := g.boundary ++ [⟨.promote rank dev reg lastStep, none, s.orderNo⟩] })) ∧
  (∀ (s : State) (r : Nat) (g : Region), r < 17 → regionOf s r = some g →
    ((∀ e ∈ g.boundary, ∀ k d x l, e.act ≠ .promote k d x l) → exec (.promoteApply r) s = .next s) ∧
    ∀ b k d x l, nextPromote g = some (b, k, d, x, l) →
      (b ∈ g.boundary ∧ b.act = .promote k d x l ∧ ∀ e ∈ g.boundary, ∀ k' d' x' l', e.act = .promote k' d' x' l' → k ≤ k') ∧
      (boundaryFree s r g 6 = false → exec (.promoteApply r) s = .next s) ∧
      (boundaryFree s r g 6 = true → ∃ t h, exec (.promoteApply r) s = .next t ∧ regionOf t r = some h ∧ h.boundary = g.boundary.erase b ∧
        (lastStep g = l → k ∉ h.removed ∧ (∀ m ∈ (rfOf t r).mirrors, m.1 ≠ k) ∧ h.rstate = g.rstate ∧
          h.peers = g.peers.map fun p => if p.member = true ∧ p.rank = k then { p with device := d, region := x } else p) ∧
        (lastStep g ≠ l → h.peers = g.peers ∧
          (g.rstate = .running → h.rstate = .stopped ∧ h.running = false ∧ Ends s t g.runReq 0x0012 (runResult g)) ∧
          (g.rstate ≠ .running → h.rstate = g.rstate))))

/-- The event recorder (R378 to R387, Tables 14.1 to 14.4): an occurrence becomes a record, is folded into one, or is ignored; a class
0 record sets FLT_FATAL and is never lost; a flood window, an extreme interval and the trickle to the log end as given.
Rests also on the model's choices of assumptions 32, 110. -/
def Obligations.RecorderRowsTakeEffect : Prop :=
  ∀ s : State, s.recorder.buffer.length < 65536 → (s.recorder.buffer.filter fun e => !e.flushed).length < 4096 →
    (∀ o c, codeClass o.code = some c → c ≠ 0 → foldTarget s o = none → (floodCount s o).2 = false →
      ∃ t, exec (.eventPost o) s = .next t ∧ t.recorder.buffer = s.recorder.buffer ++ [recordOf s c o] ∧
        t.recorder.nextSeq = s.recorder.nextSeq + 1 ∧ t.recorder.log = s.recorder.log ∧ t.flt = s.flt) ∧
    (∀ o c e, codeClass o.code = some c → c ≠ 0 → foldTarget s o = some e →
      ∃ t, exec (.eventPost o) s = .next t ∧ t.recorder.nextSeq = s.recorder.nextSeq ∧
        t.recorder.buffer = mapIf (fun x => x.seq == e.seq) (fun x => { x with
          rep := Nat.min (x.rep + 1) 0xFFFF, spanMs := (s.now - x.at_) / 2000000 }) s.recorder.buffer ∧ Only [.recorder] s t) ∧
    (∀ o, codeClass o.code = some 0 → ∃ t, exec (.eventPost o) s = .next t ∧ t.flt.fatalValid = true ∧ t.flt.fatalCode = o.code ∧
      t.recorder.fatal = (recordOf s 0 o :: s.recorder.fatal).take 16 ∧
      t.recorder.fatal0 = some (s.recorder.fatal0.getD (recordOf s 0 o)) ∧
      { recordOf s 0 o with flushed := true } ∈ t.recorder.buffer ∧ bitOf (fnOf t 0).intCause 2 = true) ∧
    (∀ o, codeClass o.code = none → exec (.eventPost o) s = .next s) ∧
    (∀ f o, s.recorder.floods = [f] → f.flooding = true → f.first / 2000000000 < s.now / 2000000000 → f.occ = some o →
      ∃ t, exec .floodWindowEnd s = .next t ∧ t.recorder.floods = [] ∧
        t.recorder.buffer = s.recorder.buffer ++ [floodRecord s f o]) ∧
    (∀ x, s.recorder.extremes = [x] → x.changed = true → s.recorder.floods = [] →
      s.recorder.extremeAt + s.recorder.extremeSecs * 2000000000 ≤ s.now →
      ∃ t, exec .extremeTick s = .next t ∧ t.recorder.extremeAt = s.now ∧ t.recorder.extremes = [{ x with changed := false }] ∧
        t.recorder.buffer = s.recorder.buffer ++ [{ recordOf s 3
          ⟨0x0704, 0xFF, 0x3FF, 0xFF, 0xFF, 0, 0xFF, 0xFF, 0, extremePayload x⟩ with extreme := true }]) ∧
    (∃ t, exec .logTrickle s = .next t ∧ (∀ e ∈ t.recorder.buffer, e.flushed = true) ∧
      t.recorder.buffer.length = s.recorder.buffer.length ∧ Only [.recorder] s t ∧
      (s.recorder.log.length + s.recorder.buffer.length ≤ 65536 →
        t.recorder.log = s.recorder.log ++ s.recorder.buffer.filter fun e => !e.flushed)) ∧
    (∀ f, f < 17 → (fnOf s f).alarms.length ≤ 240 →
      let growth := (List.range 4).map fun c => (fnOf s f).alarmDrop.getD c 0 - (fnOf s f).alarmReported.getD c 0
      (∃ n ∈ growth, n ≠ 0) → ∃ t, exec (.alarmDroppedReport f) s = .next t ∧
        (fnOf t f).alarmReported = (fnOf s f).alarmDrop ∧
        t.recorder.buffer = s.recorder.buffer ++ [recordOf s 2
          ⟨0x0702, 0xFF, 0x3FF, 0xFF, 0xFF, 0, 0xFF, f, 0, growth.flatMap fun n => leBytes n 4⟩])

/-- The start of the control firmware and self-test (R282, R283, R293, R298, R329, R331, R333 to R336): the two paths, what Silt finds
in its channels, one pair of dies that passes or is refused, the end of a run for a start and for a shutdown, and a die that does
not zeroise in time.
Rests also on the model's choices of assumptions 8, 31, 84. -/
def Obligations.StartRowsTakeEffect : Prop :=
  (∀ (s : State) (ok : List Bool) (bad : List Nat),
    (s.flt.state = 2 → s.rep.cleanStart = true → ∃ t, exec (.firmwareStart ok bad) s = .next t ∧ t.flt.state = 4 ∧ t.flt.startPath = 1 ∧
      t.rep.cleanStart = false ∧ t.fab.inc = (s.fab.inc + 1) % 2 ^ 16 ∧ t.silt.txns = [] ∧ t.rep.run = s.rep.run) ∧
    (∀ nand : SiltStart, s.flt.state = 2 → ∃ t, exec (.firmwareStart ok bad [] nand) s = .next t ∧
      (∀ c, c < 16 → bitOf t.silt.trained c = (usableChans s.silt).contains c) ∧
      (∀ k ∈ nand.factoryBad, keyChan k ∈ usableChans s.silt → bitOf s.silt.scanned (keyChan k) = false → k ∈ t.silt.badBlocks) ∧
      (s.rep.cleanStart = true → t.silt.unread = nand.unread ∧
        (∀ r ∈ t.silt.journal, r ∈ s.silt.journal ∧ r.txn ∉ nand.unread) ∧
        ∀ r ∈ s.silt.journal, r.txn ∈ nand.unread → ∀ q ∈ t.silt.journal, q.txn < r.txn)) ∧
    (s.flt.state = 2 → s.rep.cleanStart = false → ∃ t run, exec (.firmwareStart ok bad) s = .next t ∧ t.flt.state = 3 ∧
      t.flt.startPath = 2 ∧ t.fab.inc = (s.fab.inc + 1) % 2 ^ 16 ∧ t.rep.run = some run ∧ run.kind = 1 ∧ run.diesDone = [] ∧
      t.rep.zeroized = []) ∧
    (∀ (k : Nat) (pg : ParamPage), k < 128 → s.flt.state = 2 → ∃ t, exec (.firmwareStart ok bad [(k, pg)]) s = .next t ∧
      bitOf (chanOf t.silt (k / 8)).refused (k % 8) = !pageOk pg ∧
      bitOf (chanOf t.silt (k / 8)).noRetry (k % 8) = (pageOk pg && !pg.retry) ∧
      bitOf (chanOf t.silt (k / 8)).ddr3 (k % 8) = (pageOk pg && !pg.lpddr4) ∧
      ∀ c, c ≠ k / 8 → (chanOf t.silt c).refused = (chanOf s.silt c).refused) ∧
    (s.flt.state ≠ 2 → exec (.firmwareStart ok bad) s = .next s)) ∧
  (∀ (s : State) (pair out mhz mv : Nat) (l : List PosResult),
    (s.rep.run = none → exec (.selfTestDone pair out mhz mv l) s = .next s) ∧
    ∀ run, s.rep.run = some run →
      (pair = 0 → run.diesDone = [] → out = 0 → 1000 ≤ mhz → mhz ≤ 1200 → 700 ≤ mv → mv ≤ 800 →
        ∃ t run', exec (.selfTestDone pair out mhz mv l) s = .next t ∧ t.rep.run = some run' ∧ run'.diesDone = [0, 1] ∧
          0 ∈ t.rep.zeroized ∧ 1 ∈ t.rep.zeroized ∧ t.sec.regionKeys = [] ∧
          (∀ pos, pos < 624 → dieOfPos pos < 2 → (tileAtPos t pos).spad.mem = [] ∧ (tileAtPos t pos).halves = []) ∧
          (∀ x ∈ l, x.pos < 624 → dieOfPos x.pos < 2 → positionFails x = true → x.pos ∈ t.rep.failed) ∧
          ∀ pos ∈ t.rep.failed, pos ∈ s.rep.failed ∨ ∃ x ∈ l, x.pos = pos ∧ positionFails x = true) ∧
      (pair = run.diesDone.length / 2 → mhz < 1000 ∨ 1200 < mhz → run.kind = 1 →
        (s.rep.retried = true → ∃ t, exec (.selfTestDone pair out mhz mv l) s = .next t ∧ t.flt.state = 7 ∧ t.flt.bootError = 0x0301) ∧
        (s.rep.retried = false → ∃ t run', exec (.selfTestDone pair out mhz mv l) s = .next t ∧ t.rep.retried = true ∧
          t.rep.run = some run' ∧ run'.kind = 1 ∧ run'.diesDone = [] ∧ ∀ d, d < 4 → (clockOf t d).mhz = 1100 ∧ (clockOf t d).setMv = 750)) ∧
      (pair = 1 → run.diesDone = [0, 1] → out = 0 → 1000 ≤ mhz → mhz ≤ 1200 → 700 ≤ mv → mv ≤ 800 →
        ∃ t, exec (.selfTestDone pair out mhz mv l) s = .next t ∧ t.rep.run = none ∧ t.rep.runNo = s.rep.runNo + 1 ∧
          (run.kind = 0 → t.flt.state = 6 ∧ t.pwr.p3 = true ∧ t.rep.cleanStart = true) ∧
          (run.kind = 1 → t.flt.state = 4 ∧ t.rep.faultSince = false))) ∧
  (∀ (s : State) (pos : Nat) (run : TestRun), pos < 624 → s.rep.run = some run → dieOfPos pos ∉ s.rep.zeroized →
    pos ∉ s.rep.failed → ∃ t run', exec (.zeroizeTimeout pos) s = .next t ∧ pos ∈ t.rep.failed ∧
      (tileAtPos t pos).heldReset = true ∧ (tileAtPos t pos).fenced = true ∧ t.rep.run = some run' ∧
      run'.tilesFailed = run.tilesFailed + 1 ∧ pos ∈ run'.timeouts)

/-- Resets and readiness (R314, R350, R351, R393, R338, Table 11.10): a device reset that is due, die and router resets, READY after a
start and after a management core's restart, and orderly shutdown.
Rests also on the model's choices of assumptions 10, 65, 81, 82, 85, 86, 91. -/
def Obligations.ResetRowsTakeEffect : Prop :=
  (∀ (s : State) (cause : ResetCause),
    (s.pwr.resetPend = none → exec (.deviceResetEffect cause) s = .next s) ∧
    ∀ due, s.pwr.resetPend = some (cause, due) →
      (s.now < due → exec (.deviceResetEffect cause) s = .next s) ∧
      (due ≤ s.now → (cause = .perst → s.silt.txns = []) → ∃ t, exec (.deviceResetEffect cause) s = .next t ∧
        t.flt.cause = causeCode cause ∧ t.flt.count = Nat.min (s.flt.count + 1) (2 ^ 24 - 1) ∧ t.pwr.resetPend = none ∧
        t.regions = [] ∧ t.tiles = [] ∧ t.routers = [] ∧ t.engines = [] ∧ t.silt.txns = [] ∧ t.idn.debugLevel = 0 ∧
        (cause = .perst ∨ cause = .powerOn ∨ cause = .basinFw ∨ cause = .emergency → t.basin = []) ∧
        (cause = .perst → s.pwr.perstN = false → t.flt.state = 6)) ∧
      (due ≤ s.now → cause = .perst → s.silt.txns ≠ [] → exec (.deviceResetEffect cause) s = .next s)) ∧
  (∀ (s : State) (die : Nat), die < 4 → ∃ t, exec (.dieReset die) s = .next t ∧
    (∀ pos ∈ diePositions die, (tileAtPos t pos).rx = [] ∧ (routerOf t pos).bufs = [] ∧ (routerOf t pos).table0 = [] ∧
      (routerOf t pos).table1 = [] ∧ (routerOf t pos).xoff = []) ∧
    (∀ port, port / 3 = die → (portOf t port).state ≠ psActive ∧ (portOf t port).held = [] ∧ (portOf t port).cnt = portCntReset) ∧
    (∀ k, k < 4 → (bsnOf t k).en = (bsnOf s k).en ∧ (bsnOf t k).periodH = (bsnOf s k).periodH ∧ (bsnOf t k).scrubWord = (bsnOf s k).scrubWord) ∧
    (let b := bsnOf t die; b.ce = 0 ∧ b.ue = 0 ∧ b.poisonRd = 0 ∧ b.healed = 0 ∧ b.shadowFail = 0 ∧ b.undoBytes = 0 ∧ b.scrubPasses = 0 ∧ b.ecs = 0)) ∧
  (∀ (s : State) (pos : Nat), pos < 624 → ∃ t, exec (.tileRouterReset pos) s = .next t ∧
    routerOf t pos = { routerReset with histFrom := s.now } ∧ tileAtPos t pos = { tileAtPos s pos with rx := [] } ∧
    (∀ k, k ≠ pos → routerOf t k = routerOf s k ∧ tileAtPos t k = tileAtPos s k) ∧ Only [.routers, .tiles] s t) ∧
  (∀ s : State, (∀ f, f < 17 → (fnOf s f).busy = false ∧ (fnOf s f).locked = none) →
    (s.flt.state = 4 → portsSettled s = true → ∃ t, exec .declareReady s = .next t ∧ t.flt.state = 5 ∧
      t.idn.incarnation = s.fab.inc ∧ t.idn.factoryRead = s.idn.factory ∧ ∀ f, f < 17 → fnOf t f = { fnOf s f with ready := true }) ∧
    (s.flt.state ≠ 4 → exec .declareReady s = .next s) ∧
    (∀ t0, s.pwr.coreRestart = some t0 → s.now < t0 + 50 * cyclesPerMs → s.flt.state = 5 →
      ∃ t, exec .managementCoreRestartDone s = .next t ∧ t.pwr.coreRestart = none ∧
        ∀ f, f < 17 → fnOf t f = { fnOf s f with ready := true }) ∧
    (∀ t0, s.pwr.coreRestart = some t0 → t0 + 50 * cyclesPerMs ≤ s.now → exec .managementCoreRestartDone s = .next s)) ∧
  (∀ s : State, (fnOf s 0).d3 = true → s.rep.run = none → s.pwr.p3 = false → s.flt.state = 5 →
    (shutdownReady s = true → ∃ t run, exec .pmeTurnOff s = .next t ∧ t.rep.run = some run ∧ run.kind = 0 ∧ t.silt.journal = [] ∧ (∀ e ∈ s.silt.nss, ∃ m ∈ t.silt.maps, m.1 = e.1 ∧ m.2 = e.2.units) ∧
      (∀ d, d < 4 → (clockOf t d).mhz = 1100) ∧ t.regions = s.regions) ∧
    (shutdownReady s = false → ∃ t, exec .pmeTurnOff s = .next t ∧
      ∀ r g, regionOf s r = some g → g.running = true → ∃ h, regionOf t r = some h ∧ ∃ e ∈ h.boundary, e.act = .stop 0))

/-- PERST_N, PWR_OK and POWER_FAIL_N (R293, R385, R411, R412, R423 to R425): what each level change latches and starts.
Rests also on the model's choices of assumptions 81, 83, 91. -/
def Obligations.PinsTakeEffect : Prop :=
  (∀ s : State,
    (powered s = false → exec .perstNAssert s = .next { s with pwr := { s.pwr with perstN := false } }) ∧
    (powered s = true → s.pwr.powerFail = false → ∃ t, exec .perstNAssert s = .next t ∧ t.pwr.perstN = false ∧ t.flt.state = 6 ∧
      t.flt.cause = 0x02 ∧ t.fns = [] ∧ t.regions = [] ∧ t.tiles = [] ∧ t.basin = [] ∧ t.idn.assigned = false ∧ t.idn.factoryRead = 0 ∧ t.idn.speed = 0 ∧
      t.idn.lifecycle = s.idn.lifecycle ∧ t.idn.debugLevel = 0 ∧ t.sec.slotA = s.sec.slotA ∧ t.sec.slotB = s.sec.slotB) ∧
    (powered s = true → s.pwr.powerFail = true → s.silt.txns ≠ [] →
      exec .perstNAssert s = .next { s with pwr := { s.pwr with perstN := false, resetPend := some (.perst, s.now) } }) ∧
    (∀ c l speed width, s.pwr.perstN = false → (s.pwr.pwrOk = false ∨ s.pwr.powerFail = true) →
      exec (.perstNDeassert c l speed width) s = .next { s with
        pwr := { s.pwr with perstN := true, laneRev := l }, idn := { s.idn with compat := c, speed := speed, width := width } }) ∧
    (∀ c l speed width, s.pwr.perstN = false → s.pwr.pwrOk = true → s.pwr.powerFail = false → (s.flt.state = 0 ∨ s.flt.state = 6) →
      s.pwr.coreRef = true → s.pwr.pkgTestN = true → slotOk s ((selInUse s).elim 0 (·.2.preferred) % 2) = true →
      (∀ k x, selInUse s = some (k, x) → x.confirmed = true) →
      ∃ t, exec (.perstNDeassert c l speed width) s = .next t ∧ t.pwr.perstN = true ∧ t.pwr.laneRev = l ∧ t.idn.compat = c ∧
        t.idn.speed = speed ∧ t.idn.width = width ∧ t.flt.state = 2 ∧
        t.flt.bootError = 0 ∧ t.idn.fwSlot = (selInUse s).elim 0 (·.2.preferred) % 2 ∧ t.sec.booted = true) ∧
    (∀ a p, s.pwr.off = false → s.pwr.pwrOk = false → s.pwr.perstN = false → exec (.pwrOkAssert a p) s = .next { s with pwr := { s.pwr with
      pwrOk := true, railsUp := true, coreRef := true, powerFail := false, mgmtAddr := a % 8, pkgTestN := p } }) ∧
    (s.pwr.off = false → s.pwr.powerFail = false → ∃ t, exec .powerFailAssert s = .next t ∧ t.pwr.powerFail = true ∧
      t.flt.powerFail = true ∧ t.silt.halted = true ∧ t.pwr.secsStored = s.secsBase + s.now / 2000000000 ∧ t.rep.run = none ∧
      (∀ e ∈ t.recorder.buffer, e.flushed = true) ∧ (s.silt.txns = [] → t.regions = s.regions)) ∧
    (∀ w, 200 ≤ w → w < 1000 → s.pwr.off = false → ∃ t, exec (.powerFailGlitch w) s = .next t ∧
      t.pwr.powerFail = s.pwr.powerFail ∧ (t.pwr.whLog.getLast?.map (·.what)) = some .glitch ∧ Only [.pwr] s t) ∧
    (∀ w, (w < 200 ∨ 1000 ≤ w) → exec (.powerFailGlitch w) s = .next s) ∧
    (∀ b, s.pwr.powerFail = true → (b = false ∨ powered s = false) →
      exec (.powerFailRelease b) s = .next { s with pwr := { s.pwr with powerFail := false } }) ∧
    (s.pwr.powerFail = true → powered s = true → s.flt.state ≠ 7 → s.flt.state ≠ 8 →
      ∃ t, exec (.powerFailRelease true) s = .next t ∧ t.pwr.powerFail = false ∧ t.flt.emergency = true ∧
        (t.flt.state = 8 ∨ t.flt.state = 7) ∧ t.silt.halted = true) ∧
    (s.pwr.pwrOk = true → s.silt.txns = [] → powered s = true → ∃ t, exec .pwrOkFall s = .next t ∧ t.pwr.pwrOk = false ∧
      t.pwr.powerFail = true ∧ t.flt.state = 6 ∧ t.flt.cause = 0x02 ∧ t.regions = [] ∧ t.fns = [] ∧
      t.idn.compat = (s.pwr.perstN && s.idn.compat)))

/-- P1 and P2 (R403, R404): a region that has stood 10 µs at a boundary with no step pending gates its tiles, and leaves P1 with its
clocks; the device dozes after 100 ms without a RUN or a deferred command, and wakes. Loss of a reference clock, the crystal, the
PMBus, wake, and the Wellhead's own rail (R403, R406, R412, R423, R427, R430).
Rests also on the model's choices of assumptions 3, 4, 91. -/
def Obligations.PowerStatesAndClocksTakeEffect : Prop :=
  ((∀ (s : State) (r : Nat) (g : Region), r < 17 → regionOf s r = some g →
    (atBoundary g = true → (g.running = false ∨ g.held = true) → g.idleAt + 20000 ≤ s.now → r ∉ s.pwr.p1 →
      ∃ t, exec (.p1Entry r) s = .next t ∧ r ∈ t.pwr.p1 ∧ (∀ k, k ≠ r → (k ∈ t.pwr.p1 ↔ k ∈ s.pwr.p1)) ∧
        (∀ lt ∈ regionTiles s g, (tileOf t lt).clockGated = true ∧ (tileOf t lt).spad = (tileOf s lt).spad) ∧
        Only [.pwr, .tiles] s t) ∧
    (atBoundary g = false → exec (.p1Entry r) s = .next s) ∧
    (r ∈ s.pwr.p1 → ∃ t, exec (.p1Exit r) s = .next t ∧ r ∉ t.pwr.p1 ∧
      (∀ lt ∈ regionTiles s g, (tileOf t lt).clockGated = false ∧ (tileOf t lt).spad = (tileOf s lt).spad) ∧
      Only [.pwr, .tiles] s t)) ∧
  (∀ s : State, s.pwr.doze = false →
    (s.flt.state = 5 → s.rep.run = none → s.pwr.busyAt + 200000000 ≤ s.now → (∀ e ∈ s.regions, e.2.running = false) →
      (∀ f, f < 17 → ∀ q ∈ (fnOf s f).requests, q.finished = true) →
      exec .p2Entry s = .next { s with pwr := { s.pwr with doze := true } }) ∧
    (∀ e ∈ s.regions, e.2.running = true → exec .p2Entry s = .next s) ∧ exec .p2Exit s = .next s) ∧
  (∀ s : State, s.pwr.doze = true → exec .p2Exit s = .next { s with pwr := { s.pwr with doze := false, busyAt := s.now } })) ∧
  ((∀ s : State,
    (powered s = true → ∃ t, exec .pcieRefclkLoss s = .next t ∧
      ∀ f, f < 17 → (fnOf t f).disabled = true ∧ (fnOf t f).drain = some (s.now, .pfReset)) ∧
    (∀ die, die < 4 → ∃ t, exec (.trnRefclkLoss die) s = .next t ∧ (clockOf t die).trnRef = false ∧
      ∀ p, p / 3 = die → p < 12 → 3 ≤ (portOf s p).state → (portOf s p).state ≤ 8 → (portOf s p).state ≠ 7 →
        (portOf t p).state = 1 ∧ (portOf t p).failReason = 0x0B) ∧
    (powered s = true → exec .coreRefclkLoss s = .next { s with pwr := { s.pwr with
      coreRef := false, resetPend := some (.watchdog, s.now + 200000000) } }) ∧
    (s.pwr.off = false → ∃ t, exec .crystalLoss s = .next t ∧ t.pwr.crystal = false ∧
      (t.pwr.whLog.getLast?.map (·.what)) = some .crystal ∧ Only [.pwr] s t) ∧
    (s.pwr.off = false → exec .crystalStable s = .next { s with pwr := { s.pwr with crystal := true } }) ∧
    (powered s = true → s.flt.state ≠ 7 → s.flt.state ≠ 8 → ∃ t, exec (.pmbAlert true) s = .next t ∧ t.flt.emergency = true ∧
      (t.flt.state = 8 ∨ t.flt.state = 7) ∧ t.pwr.emerg = some s.now ∧ t.silt.halted = true) ∧
    exec (.pmbAlert false) s = .next s ∧
    (∀ k mv ma mw, k < 16 → ∃ t, exec (.pmbusPoll [(k, mv, ma, mw)]) s = .next t ∧ regOf t k = ⟨mv, ma, mw, s.now, false⟩ ∧
      (∀ j, j ≠ k → regOf t j = regOf s j) ∧ Only [.pwr] s t) ∧
    (∀ k, k < 16 → (regOf s k).silent = false → (regOf s k).at_ + 20000000 ≤ s.now → ∃ t, exec (.regulatorSilent k) s = .next t ∧
      regOf t k = { regOf s k with silent := true } ∧ (∀ j, j ≠ k → regOf t j = regOf s j) ∧ Only [.pwr] s t) ∧
    (∀ p, p < 12 → s.pwr.p3 = true → p ∈ s.pwr.expected → ∃ t, exec (.wakeOnSignal p) s = .next t ∧ t.pwr.wakeN = false ∧
      Only [.pwr] s t) ∧
    (∀ p, p < 12 → s.pwr.p3 = false → exec (.wakeOnSignal p) s = .next s) ∧
    (s.pwr.off = false → ∃ t, exec .wellheadRailFall s = .next t ∧ t.pwr.off = true ∧ t.flt.state = 0 ∧ t.fns = [] ∧ t.regions = [] ∧
      t.tiles = [] ∧ t.basin = [] ∧ t.pwr.railsUp = false ∧ t.recorder.log = s.recorder.log ∧ t.sec.slotA = s.sec.slotA ∧
      t.sec.svn = s.sec.svn) ∧
    (s.pwr.off = true → ∃ t, exec .wellheadPowerOn s = .next t ∧ t.pwr.off = false ∧ t.flt = State.reset.flt ∧
      t.secsBase = s.pwr.secsStored ∧ t.fns = [] ∧ t.tiles = [] ∧ t.basin = [] ∧ t.now = 0 ∧ t.pending = s.pending ∧
      t.recorder.log = s.recorder.log ∧ t.rep.failed = s.rep.failed ∧ t.idn.lifecycle = s.idn.lifecycle ∧ t.sec.svn = s.sec.svn)))

/-- The Wellhead's sample and the rows of DVFS, scrubber heartbeats, the stored seconds and the emergency release (R407 to R414, R421,
R422): filters and bucket, the throttle level by the first rule that holds, and the operating point that a step sets.
Rests also on the model's choices of assumptions 4, 8, 27, 43, 89, 90. -/
def Obligations.WellheadRowsTakeEffect : Prop :=
  (∀ (s : State) (w : WhSample), s.pwr.off = false →
    let u := takeSample s w
    let rule := (throttleRule u).1
    ∃ t, exec (.wellheadSample w) s = .next t ∧
      t.pwr.fast = filtStep 1 (packagePower s w) s.pwr.fast ∧ t.pwr.slow = filtStep 10 (packagePower s w) s.pwr.slow ∧
      t.pwr.temps = filtAll 7 w.temps s.pwr.temps ∧ t.pwr.vdd = filtAll 2 w.vddMv s.pwr.vdd ∧
      t.pwr.rails = filtAll 2 w.rails s.pwr.rails ∧
      (rule = 1 → t.pwr.level = Nat.min 15 (s.pwr.level + 4)) ∧ (rule = 2 → t.pwr.level = 15) ∧
      (rule = 3 ∨ rule = 4 → t.pwr.level = Nat.min 15 (s.pwr.level + 1)) ∧ (rule = 5 → t.pwr.level = s.pwr.level - 1) ∧
      (rule = 0 → t.pwr.level = s.pwr.level) ∧
      t.flt.throttle = (t.pwr.level != 0) ∧ t.flt.powerW = (dyFloor u.pwr.slow.avg / 1000000).toNat ∧
      t.flt.tempMax = (dyFloor (hottest u.pwr.temps) / 10).toNat ∧
      (s.rep.run = none → s.flt.state ≠ 7 → s.flt.state ≠ 8 → (hotCounts u).any (3 ≤ ·) = true → t.flt.emergency = true ∧
        t.silt.halted = true ∧ t.pwr.emerg = some s.now)) ∧
  (∀ (s : State) (die : Nat), die < 4 →
    (capHeld s = true → (clockOf s die).pend = none → 900 < (clockOf s die).mhz →
      ∃ t, exec (.dvfsCapDecision die) s = .next t ∧
        clockOf t die = { clockOf s die with pend := some (Nat.max 900 ((clockOf s die).mhz - 50)) } ∧
        ∀ r ∈ regionsOnDie s die, ∃ g, regionOf t r = some g ∧
          ∃ e ∈ g.boundary, e.act = .dvfs die (Nat.max 900 ((clockOf s die).mhz - 50))) ∧
    (capHeld s = true → (clockOf s die).pend = none → (clockOf s die).mhz = 900 → (clockOf s die).capFloor = none →
      ∃ t, exec (.dvfsCapDecision die) s = .next t ∧ clockOf t die = { clockOf s die with capFloor := some s.now } ∧
        t.regions = s.regions) ∧
    ((clockOf s die).pend = none → (clockOf s die).mhz < 1700 → (clockOf s die).stepAt + 2000000000 ≤ s.now →
      (∃ q, s.pwr.quietFrom = some q ∧ q + 2000000000 ≤ s.now) → ∃ t, exec (.dvfsRaiseDecision die) s = .next t ∧
        clockOf t die = { clockOf s die with pend := some (Nat.min 1700 ((clockOf s die).mhz + 50)) }) ∧
    (∀ f, (clockOf s die).pend = some f → (∀ r ∈ regionsOnDie s die, ∀ g, regionOf s r = some g → boundaryFree s r g 12 = true) →
      (∃ t, exec (.dvfsChange die true) s = .next t ∧ (clockOf t die).mhz = f ∧ (clockOf t die).setMv = setPoint f ∧
        (clockOf t die).oldMv = (clockOf s die).setMv ∧ (clockOf t die).pend = none ∧ (clockOf t die).stepAt = s.now) ∧
      ∃ t, exec (.dvfsChange die false) s = .next t ∧ clockOf t die = { clockOf s die with pend := none })) ∧
  (∀ (s : State) (pos : Nat) (h : Heartbeat), pos < 624 → s.pwr.doze = false → (tileAtPos s pos).clockGated = false →
    (tileAtPos s pos).heldReset = false →
    let x := sget watchReset s.pwr.watches pos
    (h.crc = (Config.scrubCrc false).toNat → h.progress ≠ x.progress → h.alive ≠ x.alive → h.disagree = false →
      ∃ t, exec (.scrubHeartbeatCheck false pos (some h)) s = .next t ∧ sget watchReset t.pwr.watches pos = ⟨h.progress, h.alive⟩ ∧
        t.pwr.restarts = s.pwr.restarts ∧ Only [.pwr] s t) ∧
    ∃ t, exec (.scrubHeartbeatCheck false pos none) s = .next t ∧ t.pwr.restarts = s.pwr.restarts + 1 ∧
      tileAtPos t pos = { tileAtPos s pos with scrubLine := 0 }) ∧
  (∀ (s : State) (die : Nat), die < 4 → s.pwr.doze = false → ∃ t, exec (.scrubHeartbeatCheck true die none) s = .next t ∧
    t.pwr.restarts = s.pwr.restarts + 1 ∧
    bsnOf t die = { bsnOf s die with en := true, periodH := 12, behind := false, scrubWord := 0, passPct := 0 }) ∧
  (∀ s : State, (s.pwr.storedAt + 120000000000 ≤ s.now → exec .secondsStore s = .next { s with pwr := { s.pwr with
      secsStored := s.secsBase + s.now / 2000000000, storedAt := s.now } }) ∧
    (s.now < s.pwr.storedAt + 120000000000 → exec .secondsStore s = .next s)) ∧
  (∀ (s : State) (c : Nat), s.flt.state = 8 → s.pwr.clearFrom = some c → c + 2000000000 ≤ s.now →
    ∃ t, exec .emergencyRelease s = .next t ∧ t.flt.cause = 0x08 ∧ t.pwr.emerg = none ∧ t.regions = [] ∧ t.tiles = [] ∧ t.basin = [])
end

