-- ==== Sys2Proof/Laws/Memory.lean ====
section
/-! SUPPORT. The byte memories keep their canonical form, and a read after a write gives what was written. -/

namespace Sys2Proof.Machine

/-! ## Sorted tables -/

theorem sortedKeys_iff {α : Type} (m : List (Nat × α)) : sortedKeys m = true ↔ m.Pairwise fun a b => a.1 < b.1 := by
  induction m with
  | nil => simp [sortedKeys]
  | cons x t ih =>
    cases t with
    | nil => simp [sortedKeys]
    | cons y r =>
      simp only [sortedKeys, Bool.and_eq_true, decide_eq_true_eq, ih, List.pairwise_cons]
      constructor
      · rintro ⟨h, h1, h2⟩
        refine ⟨?_, h1, h2⟩
        intro z hz
        rcases List.mem_cons.mp hz with rfl | hz
        · exact h
        · exact Nat.lt_trans h (h1 z hz)
      · rintro ⟨h, h1, h2⟩
        exact ⟨h y (List.mem_cons_self ..), h1, h2⟩

theorem sdel_sorted {α : Type} (k : Nat) {m : List (Nat × α)} (h : sortedKeys m = true) : sortedKeys (sdel k m) = true := by
  rw [sortedKeys_iff] at *
  exact h.filter _

theorem sdel_key {α : Type} (k : Nat) (m : List (Nat × α)) : ∀ e ∈ sdel k m, e.1 ≠ k := by
  intro e he
  simpa using (List.mem_filter.mp he).2

theorem mem_sins {α : Type} (k : Nat) (v : α) (m : List (Nat × α)) (e : Nat × α) : e ∈ sins k v m → e = (k, v) ∨ e ∈ m := by
  induction m with
  | nil => simp [sins]
  | cons x t ih =>
    simp only [sins]
    split
    · intro h
      exact List.mem_cons.mp h
    · intro h
      rcases List.mem_cons.mp h with rfl | h
      · exact Or.inr (List.mem_cons_self ..)
      · rcases ih h with h | h
        · exact Or.inl h
        · exact Or.inr (List.mem_cons_of_mem _ h)

theorem sins_sorted {α : Type} (k : Nat) (v : α) {m : List (Nat × α)} (h : sortedKeys m = true) (hk : ∀ e ∈ m, e.1 ≠ k) :
    sortedKeys (sins k v m) = true := by
  rw [sortedKeys_iff] at *
  induction m with
  | nil => simp [sins]
  | cons x t ih =>
    obtain ⟨h1, h2⟩ := List.pairwise_cons.mp h
    simp only [sins]
    split
    next hlt =>
      refine List.pairwise_cons.mpr ⟨?_, h⟩
      intro z hz
      rcases List.mem_cons.mp hz with rfl | hz
      · exact hlt
      · exact Nat.lt_trans hlt (h1 z hz)
    next hge =>
      refine List.pairwise_cons.mpr ⟨?_, ih h2 fun e he => hk e (List.mem_cons_of_mem _ he)⟩
      intro z hz
      rcases mem_sins k v t z hz with rfl | hz
      · have := hk x (List.mem_cons_self ..)
        simp only at *
        omega
      · exact h1 z hz

theorem sset_sorted {α : Type} [DecidableEq α] (d : α) (k : Nat) (v : α) {m : List (Nat × α)} (h : sortedKeys m = true) :
    sortedKeys (sset d m k v) = true := by
  unfold sset
  split
  · exact sdel_sorted k h
  · exact sins_sorted k v (sdel_sorted k h) (sdel_key k m)

/-! ## Reading a table -/

theorem sget_sdel {α : Type} (d : α) (k j : Nat) (m : List (Nat × α)) : sget d (sdel k m) j = if j = k then d else sget d m j := by
  induction m with
  | nil => simp [sdel, sget]
  | cons x t ih =>
    unfold sdel at *
    by_cases hx : x.1 = k
    · rw [List.filter_cons_of_neg (by simp [hx]), ih]
      by_cases hj : j = k
      · simp [hj]
      · simp only [hj, if_false, sget]
        rw [if_neg (by omega)]
    · rw [List.filter_cons_of_pos (by simp [hx])]
      simp only [sget, ih]
      by_cases hj : x.1 = j
      · rw [if_pos hj, if_neg (by omega), if_pos hj]
      · rw [if_neg hj, if_neg hj]

theorem sget_sins {α : Type} (d : α) (k j : Nat) (v : α) {m : List (Nat × α)} (hk : ∀ e ∈ m, e.1 ≠ k) :
    sget d (sins k v m) j = if j = k then v else sget d m j := by
  induction m with
  | nil =>
    simp only [sins, sget]
    by_cases hj : j = k
    · simp [hj]
    · rw [if_neg (by omega), if_neg hj]
  | cons x t ih =>
    have hx : x.1 ≠ k := hk x (List.mem_cons_self ..)
    simp only [sins]
    split
    · simp only [sget]
      by_cases hj : j = k
      · simp [hj]
      · rw [if_neg (by omega), if_neg hj]
    · simp only [sget, ih fun e he => hk e (List.mem_cons_of_mem _ he)]
      by_cases hj : x.1 = j
      · rw [if_pos hj, if_neg (by omega), if_pos hj]
      · rw [if_neg hj, if_neg hj]

/-- A table read after a write. -/
theorem sget_sset {α : Type} [DecidableEq α] (d : α) (m : List (Nat × α)) (k j : Nat) (v : α) :
    sget d (sset d m k v) j = if j = k then v else sget d m j := by
  unfold sset
  split
  next h => rw [sget_sdel, h]
  next => rw [sget_sins d k j v (sdel_key k m), sget_sdel]; split <;> rfl

/-- What was written is read. -/
theorem sget_sset_self {α : Type} [DecidableEq α] (d : α) (m : List (Nat × α)) (k : Nat) (v : α) : sget d (sset d m k v) k = v := by
  rw [sget_sset, if_pos rfl]

/-- A write leaves every other entry alone. -/
theorem sget_sset_other {α : Type} [DecidableEq α] (d : α) (m : List (Nat × α)) {k j : Nat} (v : α) (h : j ≠ k) :
    sget d (sset d m k v) j = sget d m j := by
  rw [sget_sset, if_neg h]

/-! ## Byte memories -/

theorem memWf_iff (m : List Host.Cell) : memWf m = true ↔ sortedKeys m = true ∧ ∀ c ∈ m, c.2 ≠ 0 := by
  simp [memWf]

theorem memWr_wf (m : List Host.Cell) (a : Nat) (b : Byte) (h : memWf m = true) : memWf (memWr m a b) = true := by
  rw [memWf_iff] at *
  refine ⟨sset_sorted 0 a b h.1, ?_⟩
  intro c hc
  unfold memWr sset at hc
  split at hc
  · exact h.2 c (List.mem_filter.mp hc).1
  next hb =>
    rcases mem_sins a b _ c hc with rfl | hc
    · exact hb
    · exact h.2 c (List.mem_filter.mp hc).1

theorem memWrL_wf (m : List Host.Cell) (a : Nat) (l : List Byte) (h : memWf m = true) : memWf (memWrL m a l) = true := by
  induction l generalizing m a with
  | nil => exact h
  | cons b t ih => exact ih _ _ (memWr_wf m a b h)

theorem filter_wf (m : List Host.Cell) (p : Host.Cell → Bool) (h : memWf m = true) : memWf (m.filter p) = true := by
  rw [memWf_iff] at *
  refine ⟨?_, fun c hc => h.2 c (List.mem_filter.mp hc).1⟩
  rw [sortedKeys_iff] at *
  exact h.1.filter _

theorem memZero_wf (m : List Host.Cell) (a n : Nat) (h : memWf m = true) : memWf (memZero m a n) = true := filter_wf m _ h

/-- A byte read after a write of one byte. -/
theorem memRd_memWr (m : List Host.Cell) (a x : Nat) (b : Byte) : memRd (memWr m a b) x = if x = a then b else memRd m x :=
  sget_sset 0 m a x b

/-- A byte read after a write of a list of bytes. -/
theorem memRd_memWrL (m : List Host.Cell) (a x : Nat) (l : List Byte) :
    memRd (memWrL m a l) x = if a ≤ x ∧ x < a + l.length then l.getD (x - a) 0 else memRd m x := by
  induction l generalizing m a with
  | nil =>
    simp only [memWrL, List.length_nil]
    rw [if_neg (by omega)]
  | cons b t ih =>
    rw [memWrL, ih, memRd_memWr]
    by_cases h : x = a
    · subst h
      rw [if_neg (by omega), if_pos rfl, if_pos (by simp)]
      simp
    · by_cases h2 : a + 1 ≤ x ∧ x < a + 1 + t.length
      · rw [if_pos h2, if_pos (by simp only [List.length_cons]; omega), show x - a = (x - (a + 1)) + 1 by omega]
        simp
      · rw [if_neg h2, if_neg h, if_neg (by simp only [List.length_cons]; omega)]

/-- A byte read after a range was made zero. -/
theorem memRd_memZero (m : List Host.Cell) (a n x : Nat) :
    memRd (memZero m a n) x = if a ≤ x ∧ x < a + n then 0 else memRd m x := by
  induction m with
  | nil => simp [memZero, memRd, sget]
  | cons c t ih =>
    unfold memZero memRd at *
    by_cases hc : a ≤ c.1 ∧ c.1 < a + n
    · rw [List.filter_cons_of_neg (by simp [hc]), ih]
      by_cases hx : a ≤ x ∧ x < a + n
      · rw [if_pos hx, if_pos hx]
      · rw [if_neg hx, if_neg hx]
        simp only [sget]
        rw [if_neg (by omega)]
    · rw [List.filter_cons_of_pos (by simp; omega)]
      simp only [sget, ih]
      by_cases hx : c.1 = x
      · rw [if_pos hx, if_pos hx, if_neg (by omega)]
      · rw [if_neg hx, if_neg hx]

end Sys2Proof.Machine
end

