-- ==== Sys2Proof/Laws/Keeps.lean ====
section
/-! SUPPORT. The relation that every operation of the block is proved to stand in: `Keeps L s t` says that `t` differs from `s` in
the parts `L` only, meets the invariant where `s` does, and takes back nothing that is fused. -/

namespace Sys2Proof.Machine

structure Keeps (L : List Part) (s t : State) : Prop where
  only : Only L s t
  inv : Inv s → Inv t
  fused : Fused s t

/-- The same of an outcome's next state. -/
def KeepsOut (L : List Part) (s : State) (o : Out) : Prop := ∀ t, o = .next t → Keeps L s t

/-- Every part of the first list is in the second. -/
def sub (a b : List Part) : Bool := a.all fun p => b.contains p

theorem sub_mem {a b : List Part} (h : sub a b = true) {p : Part} (hp : p ∈ a) : p ∈ b := by
  have := List.all_eq_true.mp h p hp
  simpa using this

theorem sub_refl (a : List Part) : sub a a = true := by simp [sub]

theorem sub_trans {a b c : List Part} (h : sub a b = true) (k : sub b c = true) : sub a c = true := by
  simp only [sub, List.all_eq_true]
  intro p hp
  simpa using sub_mem k (sub_mem h hp)

theorem same_trans {p : Part} {s t u : State} (h : same p s t) (k : same p t u) : same p s u := by
  cases p <;> exact Eq.trans k h

theorem Only.refl (L : List Part) (s : State) : Only L s s := by
  intro p _
  cases p <;> rfl

theorem Only.trans {L : List Part} {s t u : State} (h : Only L s t) (k : Only L t u) : Only L s u :=
  fun p hp => same_trans (h p hp) (k p hp)

theorem Only.mono {K L : List Part} {s t : State} (h : Only K s t) (hs : sub K L = true) : Only L s t :=
  fun p hp => h p fun hk => hp (sub_mem hs hk)

theorem Fused.refl (s : State) : Fused s s := ⟨Nat.le_refl _, Nat.le_refl _, rfl, rfl, rfl, rfl, rfl⟩

theorem Fused.trans {s t u : State} (h : Fused s t) (k : Fused t u) : Fused s u :=
  ⟨Nat.le_trans h.1 k.1, Nat.le_trans h.2 k.2, k.3.trans h.3, k.4.trans h.4, k.5.trans h.5, k.6.trans h.6, k.7.trans h.7⟩

theorem Keeps.refl {L : List Part} (s : State) : Keeps L s s := ⟨Only.refl L s, id, Fused.refl s⟩

theorem Keeps.trans {L : List Part} {s t u : State} (h : Keeps L s t) (k : Keeps L t u) : Keeps L s u :=
  ⟨h.only.trans k.only, fun i => k.inv (h.inv i), h.fused.trans k.fused⟩

theorem Keeps.mono {K L : List Part} {s t : State} (h : Keeps K s t) (hs : sub K L = true) : Keeps L s t :=
  ⟨h.only.mono hs, h.inv, h.fused⟩

/-- One more operation. -/
theorem Keeps.step {K L : List Part} {s t u : State} (h : Keeps L s t) (k : Keeps K t u) (hs : sub K L = true) : Keeps L s u :=
  h.trans (k.mono hs)

theorem KeepsOut.next {L : List Part} {s t : State} (h : Keeps L s t) : KeepsOut L s (.next t) := by
  intro u hu
  cases hu
  exact h

theorem KeepsOut.fault (L : List Part) (s : State) (f : Fault) : KeepsOut L s (.fault f) := by
  intro u hu
  cases hu

theorem KeepsOut.step {K L : List Part} {s t : State} {o : Out} (h : Keeps L s t) (k : KeepsOut K t o) (hs : sub K L = true) :
    KeepsOut L s o :=
  fun u hu => h.step (k u hu) hs

theorem whenB_keeps {L : List Part} {c : Bool} {s t : State} (h : Keeps L s t) : KeepsOut L s (whenB c s t) := by
  cases c
  · exact KeepsOut.next (Keeps.refl s)
  · exact KeepsOut.next h

theorem whenB_keeps2 {L : List Part} {c : Bool} {s0 s t : State} (h : Keeps L s0 s) (k : Keeps L s0 t) : KeepsOut L s0 (whenB c s t) := by
  cases c
  · exact KeepsOut.next h
  · exact KeepsOut.next k

theorem Keeps.getD {L : List Part} {s d : State} {o : Option State} (h : Keeps L s d) (k : ∀ t, o = some t → Keeps L s t) :
    Keeps L s (o.getD d) := by
  cases o with
  | none => exact h
  | some x => exact k x rfl

theorem Keeps.elim {L : List Part} {α : Type} {s a : State} {f : α → State} {o : Option α} (h : Keeps L s a)
    (k : ∀ x, Keeps L s (f x)) : Keeps L s (o.elim a f) := by
  cases o with
  | none => exact h
  | some x => exact k x

theorem stored_getD {o : Option Nat} (h : ∀ d, o = some d → d < 4096) : o.getD 0 < 4096 := by
  cases o with
  | none => decide
  | some x => exact h x rfl

theorem Keeps.of_fst {L : List Part} {α : Type} {s t : State} {p : State × α} {y : α} (h : Keeps L s p.1) (e : p = (t, y)) :
    Keeps L s t := by
  rw [e] at h
  exact h

theorem needUnit_keeps {L : List Part} {s : State} {c : Bool} {o : Out} (h : KeepsOut L s o) : KeepsOut L s (needUnit c o) := by
  cases c
  · exact KeepsOut.fault L s _
  · exact h

theorem Keeps.foldl {L : List Part} {α : Type} {f : State → α → State} {s t : State} {l : List α}
    (h : Keeps L s t) (k : ∀ u x, Keeps L u (f u x)) : Keeps L s (l.foldl f t) := by
  induction l generalizing t with
  | nil => exact h
  | cons x l ih => exact ih (h.trans (k t x))

theorem Keeps.foldl_fst {L : List Part} {α β : Type} {f : State × β → α → State × β} {s : State} {a : State × β} {l : List α}
    (h : Keeps L s a.1) (k : ∀ u x, Keeps L u.1 (f u x).1) : Keeps L s (l.foldl f a).1 := by
  induction l generalizing a with
  | nil => exact h
  | cons x l ih => exact ih (h.trans (k a x))

theorem Keeps.ite {L : List Part} {c : Prop} [Decidable c] {s t u : State} (h : Keeps L s t) (k : Keeps L s u) :
    Keeps L s (if c then t else u) := by
  split
  · exact h
  · exact k

/-! ## One update of fields -/

theorem upd_pending (s : State) (v0 : List Instr) : Keeps [.pending] s { s with pending := v0 } := by
  refine ⟨?_, fun h => ⟨h.1, h.2, h.3, h.4, h.5, h.6, h.7, h.8, h.9, h.10⟩, ⟨Nat.le_refl _, Nat.le_refl _, rfl, rfl, rfl, rfl, rfl⟩⟩
  intro p hp
  cases p <;> first | rfl | exact absurd (by decide) hp

theorem upd_now (s : State) (v0 : Nat) : Keeps [.now] s { s with now := v0 } := by
  refine ⟨?_, fun h => ⟨h.1, h.2, h.3, h.4, h.5, h.6, h.7, h.8, h.9, h.10⟩, ⟨Nat.le_refl _, Nat.le_refl _, rfl, rfl, rfl, rfl, rfl⟩⟩
  intro p hp
  cases p <;> first | rfl | exact absurd (by decide) hp

theorem upd_free (s : State) (v0 : Nat) : Keeps [.free] s { s with free := v0 } := by
  refine ⟨?_, fun h => ⟨h.1, h.2, h.3, h.4, h.5, h.6, h.7, h.8, h.9, h.10⟩, ⟨Nat.le_refl _, Nat.le_refl _, rfl, rfl, rfl, rfl, rfl⟩⟩
  intro p hp
  cases p <;> first | rfl | exact absurd (by decide) hp

theorem upd_tiles (s : State) (v0 : List (Nat × Tile)) : Keeps [.tiles] s { s with tiles := v0 } := by
  refine ⟨?_, fun h => ⟨h.1, h.2, h.3, h.4, h.5, h.6, h.7, h.8, h.9, h.10⟩, ⟨Nat.le_refl _, Nat.le_refl _, rfl, rfl, rfl, rfl, rfl⟩⟩
  intro p hp
  cases p <;> first | rfl | exact absurd (by decide) hp

theorem upd_routers (s : State) (v0 : List (Nat × Router)) : Keeps [.routers] s { s with routers := v0 } := by
  refine ⟨?_, fun h => ⟨h.1, h.2, h.3, h.4, h.5, h.6, h.7, h.8, h.9, h.10⟩, ⟨Nat.le_refl _, Nat.le_refl _, rfl, rfl, rfl, rfl, rfl⟩⟩
  intro p hp
  cases p <;> first | rfl | exact absurd (by decide) hp

theorem upd_engines (s : State) (v0 : List (Nat × Engine)) : Keeps [.engines] s { s with engines := v0 } := by
  refine ⟨?_, fun h => ⟨h.1, h.2, h.3, h.4, h.5, h.6, h.7, h.8, h.9, h.10⟩, ⟨Nat.le_refl _, Nat.le_refl _, rfl, rfl, rfl, rfl, rfl⟩⟩
  intro p hp
  cases p <;> first | rfl | exact absurd (by decide) hp

theorem upd_ltMap (s : State) (v0 : List (Nat × Nat)) : Keeps [.ltMap] s { s with ltMap := v0 } := by
  refine ⟨?_, fun h => ⟨h.1, h.2, h.3, h.4, h.5, h.6, h.7, h.8, h.9, h.10⟩, ⟨Nat.le_refl _, Nat.le_refl _, rfl, rfl, rfl, rfl, rfl⟩⟩
  intro p hp
  cases p <;> first | rfl | exact absurd (by decide) hp

theorem upd_absent (s : State) (v0 : List Nat) : Keeps [.absent] s { s with absent := v0 } := by
  refine ⟨?_, fun h => ⟨h.1, h.2, h.3, h.4, h.5, h.6, h.7, h.8, h.9, h.10⟩, ⟨Nat.le_refl _, Nat.le_refl _, rfl, rfl, rfl, rfl, rfl⟩⟩
  intro p hp
  cases p <;> first | rfl | exact absurd (by decide) hp

theorem upd_regions (s : State) (v0 : List (Nat × Region)) : Keeps [.regions] s { s with regions := v0 } := by
  refine ⟨?_, fun h => ⟨h.1, h.2, h.3, h.4, h.5, h.6, h.7, h.8, h.9, h.10⟩, ⟨Nat.le_refl _, Nat.le_refl _, rfl, rfl, rfl, rfl, rfl⟩⟩
  intro p hp
  cases p <;> first | rfl | exact absurd (by decide) hp

theorem upd_fns (s : State) (v0 : List (Nat × Fn)) : Keeps [.fns] s { s with fns := v0 } := by
  refine ⟨?_, fun h => ⟨h.1, h.2, h.3, h.4, h.5, h.6, h.7, h.8, h.9, h.10⟩, ⟨Nat.le_refl _, Nat.le_refl _, rfl, rfl, rfl, rfl, rfl⟩⟩
  intro p hp
  cases p <;> first | rfl | exact absurd (by decide) hp

theorem upd_ctxs (s : State) (v0 : List (Nat × Ctx)) : Keeps [.ctxs] s { s with ctxs := v0 } := by
  refine ⟨?_, fun h => ⟨h.1, h.2, h.3, h.4, h.5, h.6, h.7, h.8, h.9, h.10⟩, ⟨Nat.le_refl _, Nat.le_refl _, rfl, rfl, rfl, rfl, rfl⟩⟩
  intro p hp
  cases p <;> first | rfl | exact absurd (by decide) hp

theorem upd_pageList (s : State) (v0 : List (Nat × Nat)) : Keeps [.pageList] s { s with pageList := v0 } := by
  refine ⟨?_, fun h => ⟨h.1, h.2, h.3, h.4, h.5, h.6, h.7, h.8, h.9, h.10⟩, ⟨Nat.le_refl _, Nat.le_refl _, rfl, rfl, rfl, rfl, rfl⟩⟩
  intro p hp
  cases p <;> first | rfl | exact absurd (by decide) hp

theorem upd_basin (s : State) (v0 : List Host.Cell) (hi : Inv s → Inv { s with basin := v0 })
    (hf : Fused s { s with basin := v0 }) : Keeps [.basin] s { s with basin := v0 } := by
  refine ⟨?_, hi, hf⟩
  intro p hp
  cases p <;> first | rfl | exact absurd (by decide) hp

theorem upd_poison (s : State) (v0 : List Nat) : Keeps [.poison] s { s with poison := v0 } := by
  refine ⟨?_, fun h => ⟨h.1, h.2, h.3, h.4, h.5, h.6, h.7, h.8, h.9, h.10⟩, ⟨Nat.le_refl _, Nat.le_refl _, rfl, rfl, rfl, rfl, rfl⟩⟩
  intro p hp
  cases p <;> first | rfl | exact absurd (by decide) hp

theorem upd_bsn (s : State) (v0 : List (Nat × BasinCtl)) : Keeps [.bsn] s { s with bsn := v0 } := by
  refine ⟨?_, fun h => ⟨h.1, h.2, h.3, h.4, h.5, h.6, h.7, h.8, h.9, h.10⟩, ⟨Nat.le_refl _, Nat.le_refl _, rfl, rfl, rfl, rfl, rfl⟩⟩
  intro p hp
  cases p <;> first | rfl | exact absurd (by decide) hp

theorem upd_scans (s : State) (v0 : List ScanSec) : Keeps [.scans] s { s with scans := v0 } := by
  refine ⟨?_, fun h => ⟨h.1, h.2, h.3, h.4, h.5, h.6, h.7, h.8, h.9, h.10⟩, ⟨Nat.le_refl _, Nat.le_refl _, rfl, rfl, rfl, rfl, rfl⟩⟩
  intro p hp
  cases p <;> first | rfl | exact absurd (by decide) hp

theorem upd_bundles (s : State) (v0 : List Bundle) : Keeps [.bundles] s { s with bundles := v0 } := by
  refine ⟨?_, fun h => ⟨h.1, h.2, h.3, h.4, h.5, h.6, h.7, h.8, h.9, h.10⟩, ⟨Nat.le_refl _, Nat.le_refl _, rfl, rfl, rfl, rfl, rfl⟩⟩
  intro p hp
  cases p <;> first | rfl | exact absurd (by decide) hp

theorem upd_bundleSeq (s : State) (v0 : List (Nat × Nat)) : Keeps [.bundleSeq] s { s with bundleSeq := v0 } := by
  refine ⟨?_, fun h => ⟨h.1, h.2, h.3, h.4, h.5, h.6, h.7, h.8, h.9, h.10⟩, ⟨Nat.le_refl _, Nat.le_refl _, rfl, rfl, rfl, rfl, rfl⟩⟩
  intro p hp
  cases p <;> first | rfl | exact absurd (by decide) hp

theorem upd_silt (s : State) (v0 : Silt) : Keeps [.silt] s { s with silt := v0 } := by
  refine ⟨?_, fun h => ⟨h.1, h.2, h.3, h.4, h.5, h.6, h.7, h.8, h.9, h.10⟩, ⟨Nat.le_refl _, Nat.le_refl _, rfl, rfl, rfl, rfl, rfl⟩⟩
  intro p hp
  cases p <;> first | rfl | exact absurd (by decide) hp

theorem upd_recorder (s : State) (v0 : Recorder) : Keeps [.recorder] s { s with recorder := v0 } := by
  refine ⟨?_, fun h => ⟨h.1, h.2, h.3, h.4, h.5, h.6, h.7, h.8, h.9, h.10⟩, ⟨Nat.le_refl _, Nat.le_refl _, rfl, rfl, rfl, rfl, rfl⟩⟩
  intro p hp
  cases p <;> first | rfl | exact absurd (by decide) hp

theorem upd_activeEpoch (s : State) (v0 : Bool) : Keeps [.activeEpoch] s { s with activeEpoch := v0 } := by
  refine ⟨?_, fun h => ⟨h.1, h.2, h.3, h.4, h.5, h.6, h.7, h.8, h.9, h.10⟩, ⟨Nat.le_refl _, Nat.le_refl _, rfl, rfl, rfl, rfl, rfl⟩⟩
  intro p hp
  cases p <;> first | rfl | exact absurd (by decide) hp

theorem upd_v0 (s : State) (v0 : VState) : Keeps [.v0] s { s with v0 := v0 } := by
  refine ⟨?_, fun h => ⟨h.1, h.2, h.3, h.4, h.5, h.6, h.7, h.8, h.9, h.10⟩, ⟨Nat.le_refl _, Nat.le_refl _, rfl, rfl, rfl, rfl, rfl⟩⟩
  intro p hp
  cases p <;> first | rfl | exact absurd (by decide) hp

theorem upd_v1 (s : State) (v0 : VState) : Keeps [.v1] s { s with v1 := v0 } := by
  refine ⟨?_, fun h => ⟨h.1, h.2, h.3, h.4, h.5, h.6, h.7, h.8, h.9, h.10⟩, ⟨Nat.le_refl _, Nat.le_refl _, rfl, rfl, rfl, rfl, rfl⟩⟩
  intro p hp
  cases p <;> first | rfl | exact absurd (by decide) hp

theorem upd_quiet (s : State) (v0 : Bool) : Keeps [.quiet] s { s with quiet := v0 } := by
  refine ⟨?_, fun h => ⟨h.1, h.2, h.3, h.4, h.5, h.6, h.7, h.8, h.9, h.10⟩, ⟨Nat.le_refl _, Nat.le_refl _, rfl, rfl, rfl, rfl, rfl⟩⟩
  intro p hp
  cases p <;> first | rfl | exact absurd (by decide) hp

theorem upd_flt (s : State) (v0 : Flt) (hi : Inv s → Inv { s with flt := v0 })
    (hf : Fused s { s with flt := v0 }) : Keeps [.flt] s { s with flt := v0 } := by
  refine ⟨?_, hi, hf⟩
  intro p hp
  cases p <;> first | rfl | exact absurd (by decide) hp

theorem upd_idn (s : State) (v0 : Idn) (hi : Inv s → Inv { s with idn := v0 })
    (hf : Fused s { s with idn := v0 }) : Keeps [.idn] s { s with idn := v0 } := by
  refine ⟨?_, hi, hf⟩
  intro p hp
  cases p <;> first | rfl | exact absurd (by decide) hp

theorem upd_secsBase (s : State) (v0 : Nat) : Keeps [.secsBase] s { s with secsBase := v0 } := by
  refine ⟨?_, fun h => ⟨h.1, h.2, h.3, h.4, h.5, h.6, h.7, h.8, h.9, h.10⟩, ⟨Nat.le_refl _, Nat.le_refl _, rfl, rfl, rfl, rfl, rfl⟩⟩
  intro p hp
  cases p <;> first | rfl | exact absurd (by decide) hp

theorem upd_outbox (s : State) (v0 : List OutMsg) : Keeps [.outbox] s { s with outbox := v0 } := by
  refine ⟨?_, fun h => ⟨h.1, h.2, h.3, h.4, h.5, h.6, h.7, h.8, h.9, h.10⟩, ⟨Nat.le_refl _, Nat.le_refl _, rfl, rfl, rfl, rfl, rfl⟩⟩
  intro p hp
  cases p <;> first | rfl | exact absurd (by decide) hp

theorem upd_msis (s : State) (v0 : List (Nat × Nat)) : Keeps [.msis] s { s with msis := v0 } := by
  refine ⟨?_, fun h => ⟨h.1, h.2, h.3, h.4, h.5, h.6, h.7, h.8, h.9, h.10⟩, ⟨Nat.le_refl _, Nat.le_refl _, rfl, rfl, rfl, rfl, rfl⟩⟩
  intro p hp
  cases p <;> first | rfl | exact absurd (by decide) hp

theorem upd_hostOut (s : State) (v0 : List HostWrite) : Keeps [.hostOut] s { s with hostOut := v0 } := by
  refine ⟨?_, fun h => ⟨h.1, h.2, h.3, h.4, h.5, h.6, h.7, h.8, h.9, h.10⟩, ⟨Nat.le_refl _, Nat.le_refl _, rfl, rfl, rfl, rfl, rfl⟩⟩
  intro p hp
  cases p <;> first | rfl | exact absurd (by decide) hp

theorem upd_orderNo (s : State) (v0 : Nat) : Keeps [.orderNo] s { s with orderNo := v0 } := by
  refine ⟨?_, fun h => ⟨h.1, h.2, h.3, h.4, h.5, h.6, h.7, h.8, h.9, h.10⟩, ⟨Nat.le_refl _, Nat.le_refl _, rfl, rfl, rfl, rfl, rfl⟩⟩
  intro p hp
  cases p <;> first | rfl | exact absurd (by decide) hp

theorem upd_rep (s : State) (v0 : Repair) : Keeps [.rep] s { s with rep := v0 } := by
  refine ⟨?_, fun h => ⟨h.1, h.2, h.3, h.4, h.5, h.6, h.7, h.8, h.9, h.10⟩, ⟨Nat.le_refl _, Nat.le_refl _, rfl, rfl, rfl, rfl, rfl⟩⟩
  intro p hp
  cases p <;> first | rfl | exact absurd (by decide) hp

theorem upd_flc (s : State) (v0 : FaultCtl) (hi : Inv s → Inv { s with flc := v0 })
    (hf : Fused s { s with flc := v0 }) : Keeps [.flc] s { s with flc := v0 } := by
  refine ⟨?_, hi, hf⟩
  intro p hp
  cases p <;> first | rfl | exact absurd (by decide) hp

theorem upd_rf (s : State) (v0 : List (Nat × RegFault)) : Keeps [.rf] s { s with rf := v0 } := by
  refine ⟨?_, fun h => ⟨h.1, h.2, h.3, h.4, h.5, h.6, h.7, h.8, h.9, h.10⟩, ⟨Nat.le_refl _, Nat.le_refl _, rfl, rfl, rfl, rfl, rfl⟩⟩
  intro p hp
  cases p <;> first | rfl | exact absurd (by decide) hp

theorem upd_fab (s : State) (v0 : Fabric) (hi : Inv s → Inv { s with fab := v0 })
    (hf : Fused s { s with fab := v0 }) : Keeps [.fab] s { s with fab := v0 } := by
  refine ⟨?_, hi, hf⟩
  intro p hp
  cases p <;> first | rfl | exact absurd (by decide) hp

theorem upd_pwr (s : State) (v0 : Power) : Keeps [.pwr] s { s with pwr := v0 } := by
  refine ⟨?_, fun h => ⟨h.1, h.2, h.3, h.4, h.5, h.6, h.7, h.8, h.9, h.10⟩, ⟨Nat.le_refl _, Nat.le_refl _, rfl, rfl, rfl, rfl, rfl⟩⟩
  intro p hp
  cases p <;> first | rfl | exact absurd (by decide) hp

theorem upd_sec (s : State) (v0 : Security) (hi : Inv s → Inv { s with sec := v0 })
    (hf : Fused s { s with sec := v0 }) : Keeps [.sec] s { s with sec := v0 } := by
  refine ⟨?_, hi, hf⟩
  intro p hp
  cases p <;> first | rfl | exact absurd (by decide) hp

theorem upd_ltMap_absent (s : State) (v0 : List (Nat × Nat)) (v1 : List Nat) : Keeps [.ltMap, .absent] s { s with ltMap := v0, absent := v1 } := by
  refine ⟨?_, fun h => ⟨h.1, h.2, h.3, h.4, h.5, h.6, h.7, h.8, h.9, h.10⟩, ⟨Nat.le_refl _, Nat.le_refl _, rfl, rfl, rfl, rfl, rfl⟩⟩
  intro p hp
  cases p <;> first | rfl | exact absurd (by decide) hp

theorem upd_ltMap_rep (s : State) (v0 : List (Nat × Nat)) (v1 : Repair) : Keeps [.ltMap, .rep] s { s with ltMap := v0, rep := v1 } := by
  refine ⟨?_, fun h => ⟨h.1, h.2, h.3, h.4, h.5, h.6, h.7, h.8, h.9, h.10⟩, ⟨Nat.le_refl _, Nat.le_refl _, rfl, rfl, rfl, rfl, rfl⟩⟩
  intro p hp
  cases p <;> first | rfl | exact absurd (by decide) hp

theorem upd_absent_rep (s : State) (v0 : List Nat) (v1 : Repair) : Keeps [.absent, .rep] s { s with absent := v0, rep := v1 } := by
  refine ⟨?_, fun h => ⟨h.1, h.2, h.3, h.4, h.5, h.6, h.7, h.8, h.9, h.10⟩, ⟨Nat.le_refl _, Nat.le_refl _, rfl, rfl, rfl, rfl, rfl⟩⟩
  intro p hp
  cases p <;> first | rfl | exact absurd (by decide) hp

theorem upd_silt_sec (s : State) (v0 : Silt) (v1 : Security) (hi : Inv s → Inv { s with silt := v0, sec := v1 })
    (hf : Fused s { s with silt := v0, sec := v1 }) : Keeps [.silt, .sec] s { s with silt := v0, sec := v1 } := by
  refine ⟨?_, hi, hf⟩
  intro p hp
  cases p <;> first | rfl | exact absurd (by decide) hp

theorem upd_recorder_rep (s : State) (v0 : Recorder) (v1 : Repair) : Keeps [.recorder, .rep] s { s with recorder := v0, rep := v1 } := by
  refine ⟨?_, fun h => ⟨h.1, h.2, h.3, h.4, h.5, h.6, h.7, h.8, h.9, h.10⟩, ⟨Nat.le_refl _, Nat.le_refl _, rfl, rfl, rfl, rfl, rfl⟩⟩
  intro p hp
  cases p <;> first | rfl | exact absurd (by decide) hp

theorem upd_recorder_sec (s : State) (v0 : Recorder) (v1 : Security) (hi : Inv s → Inv { s with recorder := v0, sec := v1 })
    (hf : Fused s { s with recorder := v0, sec := v1 }) : Keeps [.recorder, .sec] s { s with recorder := v0, sec := v1 } := by
  refine ⟨?_, hi, hf⟩
  intro p hp
  cases p <;> first | rfl | exact absurd (by decide) hp

theorem upd_activeEpoch_fab (s : State) (v0 : Bool) (v1 : Fabric) (hi : Inv s → Inv { s with activeEpoch := v0, fab := v1 })
    (hf : Fused s { s with activeEpoch := v0, fab := v1 }) : Keeps [.activeEpoch, .fab] s { s with activeEpoch := v0, fab := v1 } := by
  refine ⟨?_, hi, hf⟩
  intro p hp
  cases p <;> first | rfl | exact absurd (by decide) hp

theorem upd_flt_pwr (s : State) (v0 : Flt) (v1 : Power) (hi : Inv s → Inv { s with flt := v0, pwr := v1 })
    (hf : Fused s { s with flt := v0, pwr := v1 }) : Keeps [.flt, .pwr] s { s with flt := v0, pwr := v1 } := by
  refine ⟨?_, hi, hf⟩
  intro p hp
  cases p <;> first | rfl | exact absurd (by decide) hp

theorem upd_flt_sec (s : State) (v0 : Flt) (v1 : Security) (hi : Inv s → Inv { s with flt := v0, sec := v1 })
    (hf : Fused s { s with flt := v0, sec := v1 }) : Keeps [.flt, .sec] s { s with flt := v0, sec := v1 } := by
  refine ⟨?_, hi, hf⟩
  intro p hp
  cases p <;> first | rfl | exact absurd (by decide) hp

theorem upd_idn_fab (s : State) (v0 : Idn) (v1 : Fabric) (hi : Inv s → Inv { s with idn := v0, fab := v1 })
    (hf : Fused s { s with idn := v0, fab := v1 }) : Keeps [.idn, .fab] s { s with idn := v0, fab := v1 } := by
  refine ⟨?_, hi, hf⟩
  intro p hp
  cases p <;> first | rfl | exact absurd (by decide) hp

theorem upd_idn_pwr (s : State) (v0 : Idn) (v1 : Power) (hi : Inv s → Inv { s with idn := v0, pwr := v1 })
    (hf : Fused s { s with idn := v0, pwr := v1 }) : Keeps [.idn, .pwr] s { s with idn := v0, pwr := v1 } := by
  refine ⟨?_, hi, hf⟩
  intro p hp
  cases p <;> first | rfl | exact absurd (by decide) hp

theorem upd_rep_pwr (s : State) (v0 : Repair) (v1 : Power) : Keeps [.rep, .pwr] s { s with rep := v0, pwr := v1 } := by
  refine ⟨?_, fun h => ⟨h.1, h.2, h.3, h.4, h.5, h.6, h.7, h.8, h.9, h.10⟩, ⟨Nat.le_refl _, Nat.le_refl _, rfl, rfl, rfl, rfl, rfl⟩⟩
  intro p hp
  cases p <;> first | rfl | exact absurd (by decide) hp

theorem upd_fns_flt_idn (s : State) (v0 : List (Nat × Fn)) (v1 : Flt) (v2 : Idn) (hi : Inv s → Inv { s with fns := v0, flt := v1, idn := v2 })
    (hf : Fused s { s with fns := v0, flt := v1, idn := v2 }) : Keeps [.fns, .flt, .idn] s { s with fns := v0, flt := v1, idn := v2 } := by
  refine ⟨?_, hi, hf⟩
  intro p hp
  cases p <;> first | rfl | exact absurd (by decide) hp

theorem upd_fns_flt_pwr (s : State) (v0 : List (Nat × Fn)) (v1 : Flt) (v2 : Power) (hi : Inv s → Inv { s with fns := v0, flt := v1, pwr := v2 })
    (hf : Fused s { s with fns := v0, flt := v1, pwr := v2 }) : Keeps [.fns, .flt, .pwr] s { s with fns := v0, flt := v1, pwr := v2 } := by
  refine ⟨?_, hi, hf⟩
  intro p hp
  cases p <;> first | rfl | exact absurd (by decide) hp

theorem upd_basin_poison_scans (s : State) (v0 : List Host.Cell) (v1 : List Nat) (v2 : List ScanSec) (hi : Inv s → Inv { s with basin := v0, poison := v1, scans := v2 })
    (hf : Fused s { s with basin := v0, poison := v1, scans := v2 }) : Keeps [.basin, .poison, .scans] s { s with basin := v0, poison := v1, scans := v2 } := by
  refine ⟨?_, hi, hf⟩
  intro p hp
  cases p <;> first | rfl | exact absurd (by decide) hp

theorem upd_scans_bundles_bundleSeq (s : State) (v0 : List ScanSec) (v1 : List Bundle) (v2 : List (Nat × Nat)) : Keeps [.scans, .bundles, .bundleSeq] s { s with scans := v0, bundles := v1, bundleSeq := v2 } := by
  refine ⟨?_, fun h => ⟨h.1, h.2, h.3, h.4, h.5, h.6, h.7, h.8, h.9, h.10⟩, ⟨Nat.le_refl _, Nat.le_refl _, rfl, rfl, rfl, rfl, rfl⟩⟩
  intro p hp
  cases p <;> first | rfl | exact absurd (by decide) hp

theorem upd_flt_idn_sec (s : State) (v0 : Flt) (v1 : Idn) (v2 : Security) (hi : Inv s → Inv { s with flt := v0, idn := v1, sec := v2 })
    (hf : Fused s { s with flt := v0, idn := v1, sec := v2 }) : Keeps [.flt, .idn, .sec] s { s with flt := v0, idn := v1, sec := v2 } := by
  refine ⟨?_, hi, hf⟩
  intro p hp
  cases p <;> first | rfl | exact absurd (by decide) hp

theorem upd_basin_poison_scans_bundles (s : State) (v0 : List Host.Cell) (v1 : List Nat) (v2 : List ScanSec) (v3 : List Bundle) (hi : Inv s → Inv { s with basin := v0, poison := v1, scans := v2, bundles := v3 })
    (hf : Fused s { s with basin := v0, poison := v1, scans := v2, bundles := v3 }) : Keeps [.basin, .poison, .scans, .bundles] s { s with basin := v0, poison := v1, scans := v2, bundles := v3 } := by
  refine ⟨?_, hi, hf⟩
  intro p hp
  cases p <;> first | rfl | exact absurd (by decide) hp

theorem upd_silt_flt_rep_pwr (s : State) (v0 : Silt) (v1 : Flt) (v2 : Repair) (v3 : Power) (hi : Inv s → Inv { s with silt := v0, flt := v1, rep := v2, pwr := v3 })
    (hf : Fused s { s with silt := v0, flt := v1, rep := v2, pwr := v3 }) : Keeps [.silt, .flt, .rep, .pwr] s { s with silt := v0, flt := v1, rep := v2, pwr := v3 } := by
  refine ⟨?_, hi, hf⟩
  intro p hp
  cases p <;> first | rfl | exact absurd (by decide) hp

theorem upd_basin_poison_scans_bundles_bundleSeq (s : State) (v0 : List Host.Cell) (v1 : List Nat) (v2 : List ScanSec) (v3 : List Bundle) (v4 : List (Nat × Nat)) (hi : Inv s → Inv { s with basin := v0, poison := v1, scans := v2, bundles := v3, bundleSeq := v4 })
    (hf : Fused s { s with basin := v0, poison := v1, scans := v2, bundles := v3, bundleSeq := v4 }) : Keeps [.basin, .poison, .scans, .bundles, .bundleSeq] s { s with basin := v0, poison := v1, scans := v2, bundles := v3, bundleSeq := v4 } := by
  refine ⟨?_, hi, hf⟩
  intro p hp
  cases p <;> first | rfl | exact absurd (by decide) hp

theorem upd_scans_silt_rf_pwr_sec (s : State) (v0 : List ScanSec) (v1 : Silt) (v2 : List (Nat × RegFault)) (v3 : Power) (v4 : Security) (hi : Inv s → Inv { s with scans := v0, silt := v1, rf := v2, pwr := v3, sec := v4 })
    (hf : Fused s { s with scans := v0, silt := v1, rf := v2, pwr := v3, sec := v4 }) : Keeps [.scans, .silt, .rf, .pwr, .sec] s { s with scans := v0, silt := v1, rf := v2, pwr := v3, sec := v4 } := by
  refine ⟨?_, hi, hf⟩
  intro p hp
  cases p <;> first | rfl | exact absurd (by decide) hp

theorem upd_flt_idn_rep_fab_sec (s : State) (v0 : Flt) (v1 : Idn) (v2 : Repair) (v3 : Fabric) (v4 : Security) (hi : Inv s → Inv { s with flt := v0, idn := v1, rep := v2, fab := v3, sec := v4 })
    (hf : Fused s { s with flt := v0, idn := v1, rep := v2, fab := v3, sec := v4 }) : Keeps [.flt, .idn, .rep, .fab, .sec] s { s with flt := v0, idn := v1, rep := v2, fab := v3, sec := v4 } := by
  refine ⟨?_, hi, hf⟩
  intro p hp
  cases p <;> first | rfl | exact absurd (by decide) hp

theorem upd_silt_recorder_idn_secsBase_rep_flc_fab_pwr_sec (s : State) (v0 : Silt) (v1 : Recorder) (v2 : Idn) (v3 : Nat) (v4 : Repair) (v5 : FaultCtl) (v6 : Fabric) (v7 : Power) (v8 : Security) (hi : Inv s → Inv { s with silt := v0, recorder := v1, idn := v2, secsBase := v3, rep := v4, flc := v5, fab := v6, pwr := v7, sec := v8 })
    (hf : Fused s { s with silt := v0, recorder := v1, idn := v2, secsBase := v3, rep := v4, flc := v5, fab := v6, pwr := v7, sec := v8 }) : Keeps [.silt, .recorder, .idn, .secsBase, .rep, .flc, .fab, .pwr, .sec] s { s with silt := v0, recorder := v1, idn := v2, secsBase := v3, rep := v4, flc := v5, fab := v6, pwr := v7, sec := v8 } := by
  refine ⟨?_, hi, hf⟩
  intro p hp
  cases p <;> first | rfl | exact absurd (by decide) hp

theorem upd_tiles_routers_engines_ltMap_absent_regions_fns_ctxs_pageList_bsn_silt_recorder_activeEpoch_v0_v1_quiet_idn_orderNo_rep_rf_fab_pwr_sec (s : State) (v0 : List (Nat × Tile)) (v1 : List (Nat × Router)) (v2 : List (Nat × Engine)) (v3 : List (Nat × Nat)) (v4 : List Nat) (v5 : List (Nat × Region)) (v6 : List (Nat × Fn)) (v7 : List (Nat × Ctx)) (v8 : List (Nat × Nat)) (v9 : List (Nat × BasinCtl)) (v10 : Silt) (v11 : Recorder) (v12 : Bool) (v13 : VState) (v14 : VState) (v15 : Bool) (v16 : Idn) (v17 : Nat) (v18 : Repair) (v19 : List (Nat × RegFault)) (v20 : Fabric) (v21 : Power) (v22 : Security) (hi : Inv s → Inv { s with tiles := v0, routers := v1, engines := v2, ltMap := v3, absent := v4, regions := v5, fns := v6, ctxs := v7, pageList := v8, bsn := v9, silt := v10, recorder := v11, activeEpoch := v12, v0 := v13, v1 := v14, quiet := v15, idn := v16, orderNo := v17, rep := v18, rf := v19, fab := v20, pwr := v21, sec := v22 })
    (hf : Fused s { s with tiles := v0, routers := v1, engines := v2, ltMap := v3, absent := v4, regions := v5, fns := v6, ctxs := v7, pageList := v8, bsn := v9, silt := v10, recorder := v11, activeEpoch := v12, v0 := v13, v1 := v14, quiet := v15, idn := v16, orderNo := v17, rep := v18, rf := v19, fab := v20, pwr := v21, sec := v22 }) : Keeps [.tiles, .routers, .engines, .ltMap, .absent, .regions, .fns, .ctxs, .pageList, .bsn, .silt, .recorder, .activeEpoch, .v0, .v1, .quiet, .idn, .orderNo, .rep, .rf, .fab, .pwr, .sec] s { s with tiles := v0, routers := v1, engines := v2, ltMap := v3, absent := v4, regions := v5, fns := v6, ctxs := v7, pageList := v8, bsn := v9, silt := v10, recorder := v11, activeEpoch := v12, v0 := v13, v1 := v14, quiet := v15, idn := v16, orderNo := v17, rep := v18, rf := v19, fab := v20, pwr := v21, sec := v22 } := by
  refine ⟨?_, hi, hf⟩
  intro p hp
  cases p <;> first | rfl | exact absurd (by decide) hp

theorem Keeps.set_pending {L : List Part} {s0 s : State} {v0 : List Instr} (hs : sub [.pending] L = true) (h : Keeps L s0 s) :
    Keeps L s0 { s with pending := v0 } :=
  h.step (upd_pending _ _) hs

theorem Keeps.set_now {L : List Part} {s0 s : State} {v0 : Nat} (hs : sub [.now] L = true) (h : Keeps L s0 s) :
    Keeps L s0 { s with now := v0 } :=
  h.step (upd_now _ _) hs

theorem Keeps.set_free {L : List Part} {s0 s : State} {v0 : Nat} (hs : sub [.free] L = true) (h : Keeps L s0 s) :
    Keeps L s0 { s with free := v0 } :=
  h.step (upd_free _ _) hs

theorem Keeps.set_tiles {L : List Part} {s0 s : State} {v0 : List (Nat × Tile)} (hs : sub [.tiles] L = true) (h : Keeps L s0 s) :
    Keeps L s0 { s with tiles := v0 } :=
  h.step (upd_tiles _ _) hs

theorem Keeps.set_routers {L : List Part} {s0 s : State} {v0 : List (Nat × Router)} (hs : sub [.routers] L = true) (h : Keeps L s0 s) :
    Keeps L s0 { s with routers := v0 } :=
  h.step (upd_routers _ _) hs

theorem Keeps.set_engines {L : List Part} {s0 s : State} {v0 : List (Nat × Engine)} (hs : sub [.engines] L = true) (h : Keeps L s0 s) :
    Keeps L s0 { s with engines := v0 } :=
  h.step (upd_engines _ _) hs

theorem Keeps.set_ltMap {L : List Part} {s0 s : State} {v0 : List (Nat × Nat)} (hs : sub [.ltMap] L = true) (h : Keeps L s0 s) :
    Keeps L s0 { s with ltMap := v0 } :=
  h.step (upd_ltMap _ _) hs

theorem Keeps.set_absent {L : List Part} {s0 s : State} {v0 : List Nat} (hs : sub [.absent] L = true) (h : Keeps L s0 s) :
    Keeps L s0 { s with absent := v0 } :=
  h.step (upd_absent _ _) hs

theorem Keeps.set_regions {L : List Part} {s0 s : State} {v0 : List (Nat × Region)} (hs : sub [.regions] L = true) (h : Keeps L s0 s) :
    Keeps L s0 { s with regions := v0 } :=
  h.step (upd_regions _ _) hs

theorem Keeps.set_fns {L : List Part} {s0 s : State} {v0 : List (Nat × Fn)} (hs : sub [.fns] L = true) (h : Keeps L s0 s) :
    Keeps L s0 { s with fns := v0 } :=
  h.step (upd_fns _ _) hs

theorem Keeps.set_ctxs {L : List Part} {s0 s : State} {v0 : List (Nat × Ctx)} (hs : sub [.ctxs] L = true) (h : Keeps L s0 s) :
    Keeps L s0 { s with ctxs := v0 } :=
  h.step (upd_ctxs _ _) hs

theorem Keeps.set_pageList {L : List Part} {s0 s : State} {v0 : List (Nat × Nat)} (hs : sub [.pageList] L = true) (h : Keeps L s0 s) :
    Keeps L s0 { s with pageList := v0 } :=
  h.step (upd_pageList _ _) hs

theorem Keeps.set_basin {L : List Part} {s0 s : State} {v0 : List Host.Cell} (hs : sub [.basin] L = true) (hi : Inv s → Inv { s with basin := v0 })
    (hf : Fused s { s with basin := v0 }) (h : Keeps L s0 s) : Keeps L s0 { s with basin := v0 } :=
  h.step (upd_basin _ _ hi hf) hs

theorem Keeps.set_poison {L : List Part} {s0 s : State} {v0 : List Nat} (hs : sub [.poison] L = true) (h : Keeps L s0 s) :
    Keeps L s0 { s with poison := v0 } :=
  h.step (upd_poison _ _) hs

theorem Keeps.set_bsn {L : List Part} {s0 s : State} {v0 : List (Nat × BasinCtl)} (hs : sub [.bsn] L = true) (h : Keeps L s0 s) :
    Keeps L s0 { s with bsn := v0 } :=
  h.step (upd_bsn _ _) hs

theorem Keeps.set_scans {L : List Part} {s0 s : State} {v0 : List ScanSec} (hs : sub [.scans] L = true) (h : Keeps L s0 s) :
    Keeps L s0 { s with scans := v0 } :=
  h.step (upd_scans _ _) hs

theorem Keeps.set_bundles {L : List Part} {s0 s : State} {v0 : List Bundle} (hs : sub [.bundles] L = true) (h : Keeps L s0 s) :
    Keeps L s0 { s with bundles := v0 } :=
  h.step (upd_bundles _ _) hs

theorem Keeps.set_bundleSeq {L : List Part} {s0 s : State} {v0 : List (Nat × Nat)} (hs : sub [.bundleSeq] L = true) (h : Keeps L s0 s) :
    Keeps L s0 { s with bundleSeq := v0 } :=
  h.step (upd_bundleSeq _ _) hs

theorem Keeps.set_silt {L : List Part} {s0 s : State} {v0 : Silt} (hs : sub [.silt] L = true) (h : Keeps L s0 s) :
    Keeps L s0 { s with silt := v0 } :=
  h.step (upd_silt _ _) hs

theorem Keeps.set_recorder {L : List Part} {s0 s : State} {v0 : Recorder} (hs : sub [.recorder] L = true) (h : Keeps L s0 s) :
    Keeps L s0 { s with recorder := v0 } :=
  h.step (upd_recorder _ _) hs

theorem Keeps.set_activeEpoch {L : List Part} {s0 s : State} {v0 : Bool} (hs : sub [.activeEpoch] L = true) (h : Keeps L s0 s) :
    Keeps L s0 { s with activeEpoch := v0 } :=
  h.step (upd_activeEpoch _ _) hs

theorem Keeps.set_v0 {L : List Part} {s0 s : State} {v0 : VState} (hs : sub [.v0] L = true) (h : Keeps L s0 s) :
    Keeps L s0 { s with v0 := v0 } :=
  h.step (upd_v0 _ _) hs

theorem Keeps.set_v1 {L : List Part} {s0 s : State} {v0 : VState} (hs : sub [.v1] L = true) (h : Keeps L s0 s) :
    Keeps L s0 { s with v1 := v0 } :=
  h.step (upd_v1 _ _) hs

theorem Keeps.set_quiet {L : List Part} {s0 s : State} {v0 : Bool} (hs : sub [.quiet] L = true) (h : Keeps L s0 s) :
    Keeps L s0 { s with quiet := v0 } :=
  h.step (upd_quiet _ _) hs

theorem Keeps.set_flt {L : List Part} {s0 s : State} {v0 : Flt} (hs : sub [.flt] L = true) (hi : Inv s → Inv { s with flt := v0 })
    (hf : Fused s { s with flt := v0 }) (h : Keeps L s0 s) : Keeps L s0 { s with flt := v0 } :=
  h.step (upd_flt _ _ hi hf) hs

theorem Keeps.set_idn {L : List Part} {s0 s : State} {v0 : Idn} (hs : sub [.idn] L = true) (hi : Inv s → Inv { s with idn := v0 })
    (hf : Fused s { s with idn := v0 }) (h : Keeps L s0 s) : Keeps L s0 { s with idn := v0 } :=
  h.step (upd_idn _ _ hi hf) hs

theorem Keeps.set_secsBase {L : List Part} {s0 s : State} {v0 : Nat} (hs : sub [.secsBase] L = true) (h : Keeps L s0 s) :
    Keeps L s0 { s with secsBase := v0 } :=
  h.step (upd_secsBase _ _) hs

theorem Keeps.set_outbox {L : List Part} {s0 s : State} {v0 : List OutMsg} (hs : sub [.outbox] L = true) (h : Keeps L s0 s) :
    Keeps L s0 { s with outbox := v0 } :=
  h.step (upd_outbox _ _) hs

theorem Keeps.set_msis {L : List Part} {s0 s : State} {v0 : List (Nat × Nat)} (hs : sub [.msis] L = true) (h : Keeps L s0 s) :
    Keeps L s0 { s with msis := v0 } :=
  h.step (upd_msis _ _) hs

theorem Keeps.set_hostOut {L : List Part} {s0 s : State} {v0 : List HostWrite} (hs : sub [.hostOut] L = true) (h : Keeps L s0 s) :
    Keeps L s0 { s with hostOut := v0 } :=
  h.step (upd_hostOut _ _) hs

theorem Keeps.set_orderNo {L : List Part} {s0 s : State} {v0 : Nat} (hs : sub [.orderNo] L = true) (h : Keeps L s0 s) :
    Keeps L s0 { s with orderNo := v0 } :=
  h.step (upd_orderNo _ _) hs

theorem Keeps.set_rep {L : List Part} {s0 s : State} {v0 : Repair} (hs : sub [.rep] L = true) (h : Keeps L s0 s) :
    Keeps L s0 { s with rep := v0 } :=
  h.step (upd_rep _ _) hs

theorem Keeps.set_flc {L : List Part} {s0 s : State} {v0 : FaultCtl} (hs : sub [.flc] L = true) (hi : Inv s → Inv { s with flc := v0 })
    (hf : Fused s { s with flc := v0 }) (h : Keeps L s0 s) : Keeps L s0 { s with flc := v0 } :=
  h.step (upd_flc _ _ hi hf) hs

theorem Keeps.set_rf {L : List Part} {s0 s : State} {v0 : List (Nat × RegFault)} (hs : sub [.rf] L = true) (h : Keeps L s0 s) :
    Keeps L s0 { s with rf := v0 } :=
  h.step (upd_rf _ _) hs

theorem Keeps.set_fab {L : List Part} {s0 s : State} {v0 : Fabric} (hs : sub [.fab] L = true) (hi : Inv s → Inv { s with fab := v0 })
    (hf : Fused s { s with fab := v0 }) (h : Keeps L s0 s) : Keeps L s0 { s with fab := v0 } :=
  h.step (upd_fab _ _ hi hf) hs

theorem Keeps.set_pwr {L : List Part} {s0 s : State} {v0 : Power} (hs : sub [.pwr] L = true) (h : Keeps L s0 s) :
    Keeps L s0 { s with pwr := v0 } :=
  h.step (upd_pwr _ _) hs

theorem Keeps.set_sec {L : List Part} {s0 s : State} {v0 : Security} (hs : sub [.sec] L = true) (hi : Inv s → Inv { s with sec := v0 })
    (hf : Fused s { s with sec := v0 }) (h : Keeps L s0 s) : Keeps L s0 { s with sec := v0 } :=
  h.step (upd_sec _ _ hi hf) hs

theorem Keeps.set_ltMap_absent {L : List Part} {s0 s : State} {v0 : List (Nat × Nat)} {v1 : List Nat} (hs : sub [.ltMap, .absent] L = true) (h : Keeps L s0 s) :
    Keeps L s0 { s with ltMap := v0, absent := v1 } :=
  h.step (upd_ltMap_absent _ _ _) hs

theorem Keeps.set_ltMap_rep {L : List Part} {s0 s : State} {v0 : List (Nat × Nat)} {v1 : Repair} (hs : sub [.ltMap, .rep] L = true) (h : Keeps L s0 s) :
    Keeps L s0 { s with ltMap := v0, rep := v1 } :=
  h.step (upd_ltMap_rep _ _ _) hs

theorem Keeps.set_absent_rep {L : List Part} {s0 s : State} {v0 : List Nat} {v1 : Repair} (hs : sub [.absent, .rep] L = true) (h : Keeps L s0 s) :
    Keeps L s0 { s with absent := v0, rep := v1 } :=
  h.step (upd_absent_rep _ _ _) hs

theorem Keeps.set_silt_sec {L : List Part} {s0 s : State} {v0 : Silt} {v1 : Security} (hs : sub [.silt, .sec] L = true) (hi : Inv s → Inv { s with silt := v0, sec := v1 })
    (hf : Fused s { s with silt := v0, sec := v1 }) (h : Keeps L s0 s) : Keeps L s0 { s with silt := v0, sec := v1 } :=
  h.step (upd_silt_sec _ _ _ hi hf) hs

theorem Keeps.set_recorder_rep {L : List Part} {s0 s : State} {v0 : Recorder} {v1 : Repair} (hs : sub [.recorder, .rep] L = true) (h : Keeps L s0 s) :
    Keeps L s0 { s with recorder := v0, rep := v1 } :=
  h.step (upd_recorder_rep _ _ _) hs

theorem Keeps.set_recorder_sec {L : List Part} {s0 s : State} {v0 : Recorder} {v1 : Security} (hs : sub [.recorder, .sec] L = true) (hi : Inv s → Inv { s with recorder := v0, sec := v1 })
    (hf : Fused s { s with recorder := v0, sec := v1 }) (h : Keeps L s0 s) : Keeps L s0 { s with recorder := v0, sec := v1 } :=
  h.step (upd_recorder_sec _ _ _ hi hf) hs

theorem Keeps.set_activeEpoch_fab {L : List Part} {s0 s : State} {v0 : Bool} {v1 : Fabric} (hs : sub [.activeEpoch, .fab] L = true) (hi : Inv s → Inv { s with activeEpoch := v0, fab := v1 })
    (hf : Fused s { s with activeEpoch := v0, fab := v1 }) (h : Keeps L s0 s) : Keeps L s0 { s with activeEpoch := v0, fab := v1 } :=
  h.step (upd_activeEpoch_fab _ _ _ hi hf) hs

theorem Keeps.set_flt_pwr {L : List Part} {s0 s : State} {v0 : Flt} {v1 : Power} (hs : sub [.flt, .pwr] L = true) (hi : Inv s → Inv { s with flt := v0, pwr := v1 })
    (hf : Fused s { s with flt := v0, pwr := v1 }) (h : Keeps L s0 s) : Keeps L s0 { s with flt := v0, pwr := v1 } :=
  h.step (upd_flt_pwr _ _ _ hi hf) hs

theorem Keeps.set_flt_sec {L : List Part} {s0 s : State} {v0 : Flt} {v1 : Security} (hs : sub [.flt, .sec] L = true) (hi : Inv s → Inv { s with flt := v0, sec := v1 })
    (hf : Fused s { s with flt := v0, sec := v1 }) (h : Keeps L s0 s) : Keeps L s0 { s with flt := v0, sec := v1 } :=
  h.step (upd_flt_sec _ _ _ hi hf) hs

theorem Keeps.set_idn_fab {L : List Part} {s0 s : State} {v0 : Idn} {v1 : Fabric} (hs : sub [.idn, .fab] L = true) (hi : Inv s → Inv { s with idn := v0, fab := v1 })
    (hf : Fused s { s with idn := v0, fab := v1 }) (h : Keeps L s0 s) : Keeps L s0 { s with idn := v0, fab := v1 } :=
  h.step (upd_idn_fab _ _ _ hi hf) hs

theorem Keeps.set_idn_pwr {L : List Part} {s0 s : State} {v0 : Idn} {v1 : Power} (hs : sub [.idn, .pwr] L = true) (hi : Inv s → Inv { s with idn := v0, pwr := v1 })
    (hf : Fused s { s with idn := v0, pwr := v1 }) (h : Keeps L s0 s) : Keeps L s0 { s with idn := v0, pwr := v1 } :=
  h.step (upd_idn_pwr _ _ _ hi hf) hs

theorem Keeps.set_rep_pwr {L : List Part} {s0 s : State} {v0 : Repair} {v1 : Power} (hs : sub [.rep, .pwr] L = true) (h : Keeps L s0 s) :
    Keeps L s0 { s with rep := v0, pwr := v1 } :=
  h.step (upd_rep_pwr _ _ _) hs

theorem Keeps.set_fns_flt_idn {L : List Part} {s0 s : State} {v0 : List (Nat × Fn)} {v1 : Flt} {v2 : Idn} (hs : sub [.fns, .flt, .idn] L = true) (hi : Inv s → Inv { s with fns := v0, flt := v1, idn := v2 })
    (hf : Fused s { s with fns := v0, flt := v1, idn := v2 }) (h : Keeps L s0 s) : Keeps L s0 { s with fns := v0, flt := v1, idn := v2 } :=
  h.step (upd_fns_flt_idn _ _ _ _ hi hf) hs

theorem Keeps.set_fns_flt_pwr {L : List Part} {s0 s : State} {v0 : List (Nat × Fn)} {v1 : Flt} {v2 : Power} (hs : sub [.fns, .flt, .pwr] L = true) (hi : Inv s → Inv { s with fns := v0, flt := v1, pwr := v2 })
    (hf : Fused s { s with fns := v0, flt := v1, pwr := v2 }) (h : Keeps L s0 s) : Keeps L s0 { s with fns := v0, flt := v1, pwr := v2 } :=
  h.step (upd_fns_flt_pwr _ _ _ _ hi hf) hs

theorem Keeps.set_basin_poison_scans {L : List Part} {s0 s : State} {v0 : List Host.Cell} {v1 : List Nat} {v2 : List ScanSec} (hs : sub [.basin, .poison, .scans] L = true) (hi : Inv s → Inv { s with basin := v0, poison := v1, scans := v2 })
    (hf : Fused s { s with basin := v0, poison := v1, scans := v2 }) (h : Keeps L s0 s) : Keeps L s0 { s with basin := v0, poison := v1, scans := v2 } :=
  h.step (upd_basin_poison_scans _ _ _ _ hi hf) hs

theorem Keeps.set_scans_bundles_bundleSeq {L : List Part} {s0 s : State} {v0 : List ScanSec} {v1 : List Bundle} {v2 : List (Nat × Nat)} (hs : sub [.scans, .bundles, .bundleSeq] L = true) (h : Keeps L s0 s) :
    Keeps L s0 { s with scans := v0, bundles := v1, bundleSeq := v2 } :=
  h.step (upd_scans_bundles_bundleSeq _ _ _ _) hs

theorem Keeps.set_flt_idn_sec {L : List Part} {s0 s : State} {v0 : Flt} {v1 : Idn} {v2 : Security} (hs : sub [.flt, .idn, .sec] L = true) (hi : Inv s → Inv { s with flt := v0, idn := v1, sec := v2 })
    (hf : Fused s { s with flt := v0, idn := v1, sec := v2 }) (h : Keeps L s0 s) : Keeps L s0 { s with flt := v0, idn := v1, sec := v2 } :=
  h.step (upd_flt_idn_sec _ _ _ _ hi hf) hs

theorem Keeps.set_basin_poison_scans_bundles {L : List Part} {s0 s : State} {v0 : List Host.Cell} {v1 : List Nat} {v2 : List ScanSec} {v3 : List Bundle} (hs : sub [.basin, .poison, .scans, .bundles] L = true) (hi : Inv s → Inv { s with basin := v0, poison := v1, scans := v2, bundles := v3 })
    (hf : Fused s { s with basin := v0, poison := v1, scans := v2, bundles := v3 }) (h : Keeps L s0 s) : Keeps L s0 { s with basin := v0, poison := v1, scans := v2, bundles := v3 } :=
  h.step (upd_basin_poison_scans_bundles _ _ _ _ _ hi hf) hs

theorem Keeps.set_silt_flt_rep_pwr {L : List Part} {s0 s : State} {v0 : Silt} {v1 : Flt} {v2 : Repair} {v3 : Power} (hs : sub [.silt, .flt, .rep, .pwr] L = true) (hi : Inv s → Inv { s with silt := v0, flt := v1, rep := v2, pwr := v3 })
    (hf : Fused s { s with silt := v0, flt := v1, rep := v2, pwr := v3 }) (h : Keeps L s0 s) : Keeps L s0 { s with silt := v0, flt := v1, rep := v2, pwr := v3 } :=
  h.step (upd_silt_flt_rep_pwr _ _ _ _ _ hi hf) hs

theorem Keeps.set_basin_poison_scans_bundles_bundleSeq {L : List Part} {s0 s : State} {v0 : List Host.Cell} {v1 : List Nat} {v2 : List ScanSec} {v3 : List Bundle} {v4 : List (Nat × Nat)} (hs : sub [.basin, .poison, .scans, .bundles, .bundleSeq] L = true) (hi : Inv s → Inv { s with basin := v0, poison := v1, scans := v2, bundles := v3, bundleSeq := v4 })
    (hf : Fused s { s with basin := v0, poison := v1, scans := v2, bundles := v3, bundleSeq := v4 }) (h : Keeps L s0 s) : Keeps L s0 { s with basin := v0, poison := v1, scans := v2, bundles := v3, bundleSeq := v4 } :=
  h.step (upd_basin_poison_scans_bundles_bundleSeq _ _ _ _ _ _ hi hf) hs

theorem Keeps.set_scans_silt_rf_pwr_sec {L : List Part} {s0 s : State} {v0 : List ScanSec} {v1 : Silt} {v2 : List (Nat × RegFault)} {v3 : Power} {v4 : Security} (hs : sub [.scans, .silt, .rf, .pwr, .sec] L = true) (hi : Inv s → Inv { s with scans := v0, silt := v1, rf := v2, pwr := v3, sec := v4 })
    (hf : Fused s { s with scans := v0, silt := v1, rf := v2, pwr := v3, sec := v4 }) (h : Keeps L s0 s) : Keeps L s0 { s with scans := v0, silt := v1, rf := v2, pwr := v3, sec := v4 } :=
  h.step (upd_scans_silt_rf_pwr_sec _ _ _ _ _ _ hi hf) hs

theorem Keeps.set_flt_idn_rep_fab_sec {L : List Part} {s0 s : State} {v0 : Flt} {v1 : Idn} {v2 : Repair} {v3 : Fabric} {v4 : Security} (hs : sub [.flt, .idn, .rep, .fab, .sec] L = true) (hi : Inv s → Inv { s with flt := v0, idn := v1, rep := v2, fab := v3, sec := v4 })
    (hf : Fused s { s with flt := v0, idn := v1, rep := v2, fab := v3, sec := v4 }) (h : Keeps L s0 s) : Keeps L s0 { s with flt := v0, idn := v1, rep := v2, fab := v3, sec := v4 } :=
  h.step (upd_flt_idn_rep_fab_sec _ _ _ _ _ _ hi hf) hs

theorem Keeps.set_silt_recorder_idn_secsBase_rep_flc_fab_pwr_sec {L : List Part} {s0 s : State} {v0 : Silt} {v1 : Recorder} {v2 : Idn} {v3 : Nat} {v4 : Repair} {v5 : FaultCtl} {v6 : Fabric} {v7 : Power} {v8 : Security} (hs : sub [.silt, .recorder, .idn, .secsBase, .rep, .flc, .fab, .pwr, .sec] L = true) (hi : Inv s → Inv { s with silt := v0, recorder := v1, idn := v2, secsBase := v3, rep := v4, flc := v5, fab := v6, pwr := v7, sec := v8 })
    (hf : Fused s { s with silt := v0, recorder := v1, idn := v2, secsBase := v3, rep := v4, flc := v5, fab := v6, pwr := v7, sec := v8 }) (h : Keeps L s0 s) : Keeps L s0 { s with silt := v0, recorder := v1, idn := v2, secsBase := v3, rep := v4, flc := v5, fab := v6, pwr := v7, sec := v8 } :=
  h.step (upd_silt_recorder_idn_secsBase_rep_flc_fab_pwr_sec _ _ _ _ _ _ _ _ _ _ hi hf) hs

theorem Keeps.set_tiles_routers_engines_ltMap_absent_regions_fns_ctxs_pageList_bsn_silt_recorder_activeEpoch_v0_v1_quiet_idn_orderNo_rep_rf_fab_pwr_sec {L : List Part} {s0 s : State} {v0 : List (Nat × Tile)} {v1 : List (Nat × Router)} {v2 : List (Nat × Engine)} {v3 : List (Nat × Nat)} {v4 : List Nat} {v5 : List (Nat × Region)} {v6 : List (Nat × Fn)} {v7 : List (Nat × Ctx)} {v8 : List (Nat × Nat)} {v9 : List (Nat × BasinCtl)} {v10 : Silt} {v11 : Recorder} {v12 : Bool} {v13 : VState} {v14 : VState} {v15 : Bool} {v16 : Idn} {v17 : Nat} {v18 : Repair} {v19 : List (Nat × RegFault)} {v20 : Fabric} {v21 : Power} {v22 : Security} (hs : sub [.tiles, .routers, .engines, .ltMap, .absent, .regions, .fns, .ctxs, .pageList, .bsn, .silt, .recorder, .activeEpoch, .v0, .v1, .quiet, .idn, .orderNo, .rep, .rf, .fab, .pwr, .sec] L = true) (hi : Inv s → Inv { s with tiles := v0, routers := v1, engines := v2, ltMap := v3, absent := v4, regions := v5, fns := v6, ctxs := v7, pageList := v8, bsn := v9, silt := v10, recorder := v11, activeEpoch := v12, v0 := v13, v1 := v14, quiet := v15, idn := v16, orderNo := v17, rep := v18, rf := v19, fab := v20, pwr := v21, sec := v22 })
    (hf : Fused s { s with tiles := v0, routers := v1, engines := v2, ltMap := v3, absent := v4, regions := v5, fns := v6, ctxs := v7, pageList := v8, bsn := v9, silt := v10, recorder := v11, activeEpoch := v12, v0 := v13, v1 := v14, quiet := v15, idn := v16, orderNo := v17, rep := v18, rf := v19, fab := v20, pwr := v21, sec := v22 }) (h : Keeps L s0 s) : Keeps L s0 { s with tiles := v0, routers := v1, engines := v2, ltMap := v3, absent := v4, regions := v5, fns := v6, ctxs := v7, pageList := v8, bsn := v9, silt := v10, recorder := v11, activeEpoch := v12, v0 := v13, v1 := v14, quiet := v15, idn := v16, orderNo := v17, rep := v18, rf := v19, fab := v20, pwr := v21, sec := v22 } :=
  h.step (upd_tiles_routers_engines_ltMap_absent_regions_fns_ctxs_pageList_bsn_silt_recorder_activeEpoch_v0_v1_quiet_idn_orderNo_rep_rf_fab_pwr_sec _ _ _ _ _ _ _ _ _ _ _ _ _ _ _ _ _ _ _ _ _ _ _ _ hi hf) hs

end Sys2Proof.Machine
end

