-- ==== Sys2Proof/Laws/Ops.lean ====
section
/-! SUPPORT. What the operations of Machine/Ops.lean may change: for each, the parts of the state. -/

namespace Sys2Proof.Machine

theorem setTilePos_keeps (s : State) (x1 : Nat) (x2 : Tile) :
    Keeps [.tiles] s (setTilePos s x1 x2) := by
  unfold setTilePos
  with_reducible refine Keeps.set_tiles (rfl) ?_
  exact Keeps.refl _

theorem setTile_keeps (s : State) (x1 : Nat) (x2 : Tile) :
    Keeps [.tiles] s (setTile s x1 x2) := by
  unfold setTile
  with_reducible refine Keeps.step ?_ (setTilePos_keeps ..) ?_
  exact Keeps.refl _
  rfl

theorem updTile_keeps (s : State) (x1 : Nat) (x2 : Tile → Tile) :
    Keeps [.tiles] s (updTile s x1 x2) := by
  unfold updTile
  with_reducible refine Keeps.step ?_ (setTile_keeps ..) ?_
  exact Keeps.refl _
  rfl

theorem setRouter_keeps (s : State) (x1 : Nat) (x2 : Router) :
    Keeps [.routers] s (setRouter s x1 x2) := by
  unfold setRouter
  with_reducible refine Keeps.set_routers (rfl) ?_
  exact Keeps.refl _

theorem updRouter_keeps (s : State) (x1 : Nat) (x2 : Router → Router) :
    Keeps [.routers] s (updRouter s x1 x2) := by
  unfold updRouter
  with_reducible refine Keeps.step ?_ (setRouter_keeps ..) ?_
  exact Keeps.refl _
  rfl

theorem setEngine_keeps (s : State) (x1 : Nat) (x2 : Engine) :
    Keeps [.engines] s (setEngine s x1 x2) := by
  unfold setEngine
  with_reducible refine Keeps.set_engines (rfl) ?_
  exact Keeps.refl _

theorem updEngine_keeps (s : State) (x1 : Nat) (x2 : Engine → Engine) :
    Keeps [.engines] s (updEngine s x1 x2) := by
  unfold updEngine
  with_reducible refine Keeps.step ?_ (setEngine_keeps ..) ?_
  exact Keeps.refl _
  rfl

theorem setFn_keeps (s : State) (x1 : Nat) (x2 : Fn) :
    Keeps [.fns] s (setFn s x1 x2) := by
  unfold setFn
  with_reducible refine Keeps.set_fns (rfl) ?_
  exact Keeps.refl _

theorem updFn_keeps (s : State) (x1 : Nat) (x2 : Fn → Fn) :
    Keeps [.fns] s (updFn s x1 x2) := by
  unfold updFn
  with_reducible refine Keeps.step ?_ (setFn_keeps ..) ?_
  exact Keeps.refl _
  rfl

theorem setCtx_keeps (s : State) (x1 : Nat) (x2 : Ctx) :
    Keeps [.ctxs] s (setCtx s x1 x2) := by
  unfold setCtx
  with_reducible refine Keeps.set_ctxs (rfl) ?_
  exact Keeps.refl _

theorem updCtx_keeps (s : State) (x1 : Nat) (x2 : Ctx → Ctx) :
    Keeps [.ctxs] s (updCtx s x1 x2) := by
  unfold updCtx
  with_reducible refine Keeps.step ?_ (setCtx_keeps ..) ?_
  exact Keeps.refl _
  rfl

theorem updRegion_keeps (s : State) (x1 : Nat) (x2 : Region → Region) :
    Keeps [.regions] s (updRegion s x1 x2) := by
  unfold updRegion
  with_reducible refine Keeps.set_regions (rfl) ?_
  exact Keeps.refl _

theorem addRegion_keeps (s : State) (x1 : Nat) (x2 : Region) :
    Keeps [.regions] s (addRegion s x1 x2) := by
  unfold addRegion
  with_reducible refine Keeps.set_regions (rfl) ?_
  exact Keeps.refl _

theorem delRegion_keeps (s : State) (x1 : Nat) :
    Keeps [.regions] s (delRegion s x1) := by
  unfold delRegion
  with_reducible refine Keeps.set_regions (rfl) ?_
  exact Keeps.refl _

theorem withRegion_keeps {L : List Part} (hL : sub [] L = true) (s : State) (x1 : Nat) (x2 : Region → State) (h2 : ∀ a0, Keeps L s (x2 a0)) :
    Keeps L s (withRegion s x1 x2) := by
  unfold withRegion
  split
  with_reducible refine Keeps.step ?_ (h2 ..) (sub_refl _)
  exact Keeps.refl _
  exact Keeps.refl _

theorem send_keeps (s : State) (x1 : OutMsg) :
    Keeps [.outbox] s (send s x1) := by
  unfold send
  with_reducible refine Keeps.set_outbox (rfl) ?_
  exact Keeps.refl _

theorem failStep_keeps (s : State) (x1 : Nat) (x2 : Nat) (x3 : Option (Nat × Nat × Nat)) :
    Keeps [.regions, .outbox] s (failStep s x1 x2 x3) := by
  unfold failStep
  with_reducible refine Keeps.step ?_ (withRegion_keeps (L := [.regions, .outbox]) (rfl) _ _ _ ?_) (sub_refl _)
  exact Keeps.refl _
  intro y2
  with_reducible refine Keeps.ite ?_ ?_
  dsimp only
  with_reducible refine Keeps.ite ?_ ?_
  with_reducible refine Keeps.step ?_ (updRegion_keeps ..) ?_
  exact Keeps.refl _
  rfl
  with_reducible refine Keeps.step ?_ (send_keeps ..) ?_
  with_reducible refine Keeps.step ?_ (updRegion_keeps ..) ?_
  exact Keeps.refl _
  rfl
  rfl
  exact Keeps.refl _

theorem takeFree_keeps (s : State) :
    Keeps [.free] s (takeFree s).2 := by
  unfold takeFree
  dsimp only
  with_reducible refine Keeps.set_free (rfl) ?_
  exact Keeps.refl _

end Sys2Proof.Machine
end

