-- ==== Sys2Proof/Laws/EventRing.lean ====
section
/-! SUPPORT. What the operations of Machine/EventRing.lean may change: for each, the parts of the state. -/

namespace Sys2Proof.Machine

theorem raiseVector_keeps (s : State) (x1 : Nat) (x2 : Nat) :
    Keeps [.fns, .msis] s (raiseVector s x1 x2) := by
  unfold raiseVector
  with_reducible refine Keeps.ite ?_ ?_
  dsimp only
  with_reducible refine Keeps.ite ?_ ?_
  with_reducible refine Keeps.set_msis (rfl) ?_
  exact Keeps.refl _
  with_reducible refine Keeps.step ?_ (setFn_keeps ..) ?_
  exact Keeps.refl _
  rfl
  exact Keeps.refl _

theorem raiseCause_keeps (s : State) (x1 : Nat) (x2 : Nat) :
    Keeps [.fns, .msis] s (raiseCause s x1 x2) := by
  unfold raiseCause
  dsimp only
  with_reducible refine Keeps.ite ?_ ?_
  with_reducible refine Keeps.step ?_ (setFn_keeps ..) ?_
  exact Keeps.refl _
  rfl
  with_reducible refine Keeps.step ?_ (raiseVector_keeps ..) ?_
  with_reducible refine Keeps.step ?_ (setFn_keeps ..) ?_
  exact Keeps.refl _
  rfl
  rfl

theorem ringWrite_keeps (s : State) (x1 : Nat) (x2 : List Byte) :
    Keeps [.fns, .msis] s (ringWrite s x1 x2) := by
  unfold ringWrite
  dsimp only
  with_reducible refine Keeps.ite ?_ ?_
  with_reducible refine Keeps.step ?_ (raiseCause_keeps ..) ?_
  with_reducible refine Keeps.step ?_ (setFn_keeps ..) ?_
  exact Keeps.refl _
  rfl
  rfl
  with_reducible refine Keeps.step ?_ (setFn_keeps ..) ?_
  exact Keeps.refl _
  rfl

theorem ringPost_keeps (s : State) (x1 : Nat) (x2 : List Byte) :
    Keeps [.fns, .msis] s (ringPost s x1 x2) := by
  unfold ringPost
  dsimp only
  with_reducible refine Keeps.ite ?_ ?_
  with_reducible refine Keeps.step ?_ (ringWrite_keeps ..) ?_
  exact Keeps.refl _
  rfl
  with_reducible refine Keeps.step ?_ (setFn_keeps ..) ?_
  exact Keeps.refl _
  rfl

theorem feedRing_keeps (x0 : Nat) (s : State) (x2 : Nat) :
    Keeps [.fns, .msis] s (feedRing x0 s x2) := by
  induction x0 generalizing s x2 with
  | zero => exact Keeps.refl _
  | succ n ih =>
    rw [feedRing]
    with_reducible refine Keeps.ite ?_ ?_
    split
    with_reducible refine Keeps.step ?_ (ih ..) (sub_refl _)
    with_reducible refine Keeps.step ?_ (ringWrite_keeps ..) ?_
    with_reducible refine Keeps.step ?_ (setFn_keeps ..) ?_
    exact Keeps.refl _
    rfl
    rfl
    split
    with_reducible refine Keeps.step ?_ (ih ..) (sub_refl _)
    with_reducible refine Keeps.step ?_ (ringWrite_keeps ..) ?_
    with_reducible refine Keeps.step ?_ (setFn_keeps ..) ?_
    exact Keeps.refl _
    rfl
    rfl
    exact Keeps.refl _
    exact Keeps.refl _

end Sys2Proof.Machine
end

