-- ==== Sys2Proof/Laws/Recorder.lean ====
section
/-! SUPPORT. What the operations of Machine/Recorder.lean may change: for each, the parts of the state. -/

namespace Sys2Proof.Machine

theorem offerAlarm_keeps (s : State) (x1 : Nat) (x2 : EvRec) :
    Keeps [.fns, .msis] s (offerAlarm s x1 x2) := by
  unfold offerAlarm
  dsimp only
  with_reducible refine Keeps.step ?_ (feedRing_keeps ..) ?_
  with_reducible refine Keeps.step ?_ (setFn_keeps ..) ?_
  exact Keeps.refl _
  rfl
  rfl

theorem storeRecord_keeps (s : State) (x1 : EvRec) :
    Keeps [.fns, .recorder, .flt, .msis] s (storeRecord s x1) := by
  unfold storeRecord
  dsimp only
  with_reducible refine Keeps.ite ?_ ?_
  with_reducible refine Keeps.step ?_ (raiseCause_keeps ..) ?_
  with_reducible refine Keeps.set_flt (rfl) ?_ ?_ ?_
  with_reducible exact fun h => ⟨h.1, h.2, h.3, h.4, h.5, h.6, h.7, h.8, h.9, h.10⟩
  exact ⟨Nat.le_refl _, Nat.le_refl _, rfl, rfl, rfl, rfl, rfl⟩
  with_reducible refine Keeps.foldl ?_ ?_
  with_reducible refine Keeps.set_recorder (rfl) ?_
  exact Keeps.refl _
  intro y9
  intro y10
  with_reducible refine Keeps.step ?_ (offerAlarm_keeps ..) ?_
  exact Keeps.refl _
  rfl
  rfl
  with_reducible refine Keeps.step ?_ (offerAlarm_keeps ..) ?_
  with_reducible refine Keeps.set_recorder (rfl) ?_
  exact Keeps.refl _
  rfl

theorem postEvent_keeps (s : State) (x1 : Occurrence) :
    Keeps [.fns, .recorder, .flt, .msis] s (postEvent s x1) := by
  unfold postEvent
  split
  exact Keeps.refl _
  with_reducible refine Keeps.step ?_ (storeRecord_keeps ..) ?_
  exact Keeps.refl _
  rfl
  split
  with_reducible refine Keeps.set_recorder (rfl) ?_
  exact Keeps.refl _
  dsimp only
  with_reducible refine Keeps.ite ?_ ?_
  with_reducible refine Keeps.set_recorder (rfl) ?_
  exact Keeps.refl _
  with_reducible refine Keeps.step ?_ (storeRecord_keeps ..) ?_
  with_reducible refine Keeps.set_recorder (rfl) ?_
  exact Keeps.refl _
  rfl

theorem tileEvent_keeps (s : State) (x1 : Nat) (x2 : Nat) (x3 : Nat) (x4 : Nat) (x5 : Nat) (x6 : List Byte) :
    Keeps [.fns, .recorder, .flt, .msis] s (tileEvent s x1 x2 x3 x4 x5 x6) := by
  unfold tileEvent
  dsimp only
  with_reducible refine Keeps.step ?_ (postEvent_keeps ..) ?_
  exact Keeps.refl _
  rfl

theorem posEvent_keeps (s : State) (x1 : Nat) (x2 : Nat) (x3 : Nat) (x4 : Nat) (x5 : List Byte) :
    Keeps [.fns, .recorder, .flt, .msis] s (posEvent s x1 x2 x3 x4 x5) := by
  unfold posEvent
  with_reducible refine Keeps.step ?_ (postEvent_keeps ..) ?_
  exact Keeps.refl _
  rfl

theorem devEvent_keeps (s : State) (x1 : Nat) (x2 : Nat) (x3 : Nat) (x4 : List Byte) :
    Keeps [.fns, .recorder, .flt, .msis] s (devEvent s x1 x2 x3 x4) := by
  unfold devEvent
  with_reducible refine Keeps.step ?_ (postEvent_keeps ..) ?_
  exact Keeps.refl _
  rfl

theorem regionEvent_keeps (s : State) (x1 : Nat) (x2 : Nat) (x3 : List Byte) :
    Keeps [.fns, .recorder, .flt, .msis] s (regionEvent s x1 x2 x3) := by
  unfold regionEvent
  with_reducible refine Keeps.step ?_ (postEvent_keeps ..) ?_
  exact Keeps.refl _
  rfl

end Sys2Proof.Machine
end

