-- ==== Sys2Proof/Laws/Queues.lean ====
section
/-! SUPPORT. What the operations of Machine/Queues.lean may change: for each, the parts of the state. -/

namespace Sys2Proof.Machine

theorem arriveAt_keeps (s : State) (x1 : Nat) (x2 : Nat) (x3 : Nat) :
    Keeps [.tiles, .fns, .recorder, .flt, .msis] s (arriveAt s x1 x2 x3) := by
  unfold arriveAt
  dsimp only
  with_reducible refine Keeps.ite ?_ ?_
  with_reducible refine Keeps.step ?_ (tileEvent_keeps ..) ?_
  with_reducible refine Keeps.step ?_ (setTile_keeps ..) ?_
  exact Keeps.refl _
  rfl
  rfl
  with_reducible refine Keeps.step ?_ (setTile_keeps ..) ?_
  exact Keeps.refl _
  rfl

end Sys2Proof.Machine
end

