-- ==== Sys2Proof/Laws/Inject.lean ====
section
/-! SUPPORT. What the operations of Machine/Inject.lean may change: for each, the parts of the state. -/

namespace Sys2Proof.Machine

theorem enqueue_keeps (s : State) (x1 : Nat) (x2 : Nat) (x3 : Nat) (x4 : Nat) (x5 : Packet) :
    Keeps [.routers] s (enqueue s x1 x2 x3 x4 x5) := by
  unfold enqueue
  with_reducible refine Keeps.step ?_ (updRouter_keeps ..) ?_
  exact Keeps.refl _
  rfl

theorem enterLane_keeps (s : State) (x1 : Nat) (x2 : Nat) (x3 : Nat) (x4 : Nat) (x5 : Packet) :
    Keeps [.routers] s (enterLane s x1 x2 x3 x4 x5) := by
  unfold enterLane
  with_reducible refine Keeps.step ?_ (updRouter_keeps ..) ?_
  with_reducible refine Keeps.step ?_ (enqueue_keeps ..) ?_
  exact Keeps.refl _
  rfl
  rfl

theorem injectPort_keeps (s : State) (x1 : Nat) (x2 : Nat) (x3 : Packet) :
    Keeps [.routers] s (injectPort s x1 x2 x3) := by
  unfold injectPort
  dsimp only
  with_reducible refine Keeps.ite ?_ ?_
  with_reducible refine Keeps.step ?_ (updRouter_keeps ..) ?_
  exact Keeps.refl _
  rfl
  with_reducible refine Keeps.step ?_ (enterLane_keeps ..) ?_
  exact Keeps.refl _
  rfl

theorem injectAt_keeps (s : State) (x1 : Nat) (x2 : Packet) :
    Keeps [.routers] s (injectAt s x1 x2) := by
  unfold injectAt
  with_reducible refine Keeps.step ?_ (injectPort_keeps ..) ?_
  exact Keeps.refl _
  rfl

theorem drainLane_keeps (x0 : Nat) (s : State) (x2 : Nat) (x3 : Nat) :
    Keeps [.routers] s (drainLane x0 s x2 x3) := by
  induction x0 generalizing s x2 x3 with
  | zero => exact Keeps.refl _
  | succ n ih =>
    rw [drainLane]
    split
    exact Keeps.refl _
    split
    exact Keeps.refl _
    with_reducible refine Keeps.ite ?_ ?_
    exact Keeps.refl _
    with_reducible refine Keeps.step ?_ (ih ..) (sub_refl _)
    with_reducible refine Keeps.step ?_ (enterLane_keeps ..) ?_
    with_reducible refine Keeps.step ?_ (setRouter_keeps ..) ?_
    exact Keeps.refl _
    rfl
    rfl

theorem injectTile_keeps (s : State) (x1 : Nat) (x2 : Packet) :
    Keeps [.routers] s (injectTile s x1 x2) := by
  unfold injectTile
  with_reducible refine Keeps.step ?_ (injectAt_keeps ..) ?_
  exact Keeps.refl _
  rfl

theorem injectFlow_keeps (s : State) (x1 : Nat) (x2 : Nat) (x3 : Nat) (x4 : Bool) :
    Keeps [.tiles, .routers] s (injectFlow s x1 x2 x3 x4) := by
  unfold injectFlow
  dsimp only
  split
  exact Keeps.refl _
  with_reducible refine Keeps.ite ?_ ?_
  exact Keeps.refl _
  with_reducible refine Keeps.step ?_ (updTile_keeps ..) ?_
  with_reducible refine Keeps.step ?_ (injectTile_keeps ..) ?_
  exact Keeps.refl _
  rfl
  rfl

theorem pumpFlow_keeps (x0 : Nat) (s : State) (x2 : Nat) (x3 : Nat) :
    Keeps [.tiles, .routers] s (pumpFlow x0 s x2 x3) := by
  induction x0 generalizing s x2 x3 with
  | zero => exact Keeps.refl _
  | succ n ih =>
    rw [pumpFlow]
    split
    exact Keeps.refl _
    split
    exact Keeps.refl _
    with_reducible refine Keeps.ite ?_ ?_
    with_reducible refine Keeps.step ?_ (ih ..) (sub_refl _)
    with_reducible refine Keeps.step ?_ (injectFlow_keeps ..) ?_
    exact Keeps.refl _
    rfl
    exact Keeps.refl _

theorem pumpReturn_keeps (x0 : Nat) (s : State) (x2 : Nat) (x3 : Nat) :
    Keeps [.tiles, .routers] s (pumpReturn x0 s x2 x3) := by
  induction x0 generalizing s x2 x3 with
  | zero => exact Keeps.refl _
  | succ n ih =>
    rw [pumpReturn]
    split
    exact Keeps.refl _
    split
    exact Keeps.refl _
    dsimp only
    with_reducible refine Keeps.ite ?_ ?_
    with_reducible refine Keeps.step ?_ (ih ..) (sub_refl _)
    with_reducible refine Keeps.step ?_ (updTile_keeps ..) ?_
    with_reducible refine Keeps.step ?_ (injectTile_keeps ..) ?_
    exact Keeps.refl _
    rfl
    rfl
    exact Keeps.refl _

theorem pumpReturns_keeps (s : State) (x1 : Nat) :
    Keeps [.tiles, .routers] s (pumpReturns s x1) := by
  unfold pumpReturns
  with_reducible refine Keeps.foldl ?_ ?_
  exact Keeps.refl _
  intro y2
  intro y3
  with_reducible refine Keeps.step ?_ (pumpReturn_keeps ..) ?_
  exact Keeps.refl _
  rfl

theorem pumpTile_keeps (s : State) (x1 : Nat) :
    Keeps [.tiles, .routers] s (pumpTile s x1) := by
  unfold pumpTile
  dsimp only
  with_reducible refine Keeps.step ?_ (pumpReturns_keeps ..) ?_
  with_reducible refine Keeps.foldl ?_ ?_
  with_reducible refine Keeps.step ?_ (updTile_keeps ..) ?_
  exact Keeps.refl _
  rfl
  intro y6
  intro y7
  with_reducible refine Keeps.step ?_ (pumpFlow_keeps ..) ?_
  exact Keeps.refl _
  rfl
  rfl

theorem queueXfers_keeps (s : State) (x1 : Nat) (x2 : List Xfer) :
    Keeps [.tiles, .routers] s (queueXfers s x1 x2) := by
  unfold queueXfers
  with_reducible refine Keeps.step ?_ (pumpTile_keeps ..) ?_
  with_reducible refine Keeps.step ?_ (updTile_keeps ..) ?_
  exact Keeps.refl _
  rfl
  rfl

end Sys2Proof.Machine
end

