-- ==== Sys2Proof/Laws/Fire.lean ====
section
/-! SUPPORT. What the operations of Machine/Fire.lean may change: for each, the parts of the state. -/

namespace Sys2Proof.Machine

theorem ageQueues_keeps (s : State) (x1 : Nat) :
    Keeps [.tiles] s (ageQueues s x1) := by
  unfold ageQueues
  dsimp only
  with_reducible refine Keeps.step ?_ (setTile_keeps ..) ?_
  exact Keeps.refl _
  rfl

theorem resOk_keeps (s : State) (x1 : Nat) (x2 : Nat) :
    Keeps [] s (resOk s x1 x2).s := by
  unfold resOk
  dsimp only
  exact Keeps.refl _

theorem failDesc_keeps (s : State) (x1 : Nat) (x2 : Nat) (x3 : Nat) (x4 : Nat) :
    Keeps [.regions, .outbox] s (failDesc s x1 x2 x3 x4) := by
  unfold failDesc
  with_reducible refine Keeps.step ?_ (failStep_keeps ..) ?_
  exact Keeps.refl _
  rfl

theorem failFired_keeps (s : State) (x1 : Nat) (x2 : Nat) (x3 : Nat) :
    Keeps [.regions, .outbox] s (failFired s x1 x2 x3) := by
  unfold failFired
  split
  with_reducible refine Keeps.step ?_ (failDesc_keeps ..) ?_
  exact Keeps.refl _
  rfl
  with_reducible refine Keeps.step ?_ (failStep_keeps ..) ?_
  exact Keeps.refl _
  rfl

theorem resFail_keeps (s : State) (x1 : FireCtx) (x2 : Nat) :
    Keeps [] s (resFail s x1 x2).s := by
  unfold resFail
  dsimp only
  exact Keeps.refl _

theorem fireReserve_keeps (s : State) (x1 : Nat) (x2 : Nat) (x3 : FirePlan) :
    Keeps [.tiles] s (fireReserve s x1 x2 x3).1 := by
  unfold fireReserve
  dsimp only
  with_reducible refine Keeps.step ?_ (setTile_keeps ..) ?_
  exact Keeps.refl _
  rfl

theorem fireNow_keeps {L : List Part} (hL : sub [.tiles, .routers, .regions, .outbox] L = true) (s : State) (x1 : Nat) (x2 : Nat) (x3 : FirePlan) (x4 : State → FireCtx → List Nat) (x5 : State → FireCtx → FireRes) (h5 : ∀ a0 a1, Keeps L a0 (x5 a0 a1).s) :
    Keeps L s (fireNow s x1 x2 x3 x4 x5) := by
  unfold fireNow
  dsimp only
  with_reducible refine Keeps.step ?_ (pumpTile_keeps ..) ?_
  with_reducible refine Keeps.ite ?_ ?_
  with_reducible refine Keeps.step ?_ (failDesc_keeps ..) ?_
  with_reducible refine Keeps.step ?_ (updTile_keeps ..) ?_
  split
  with_reducible refine Keeps.step ?_ (h5 ..) (sub_refl _)
  with_reducible refine Keeps.step ?_ (fireReserve_keeps ..) ?_
  exact Keeps.refl _
  exact sub_trans rfl hL
  with_reducible refine Keeps.step ?_ (resFail_keeps ..) ?_
  with_reducible refine Keeps.step ?_ (fireReserve_keeps ..) ?_
  exact Keeps.refl _
  exact sub_trans rfl hL
  exact sub_trans rfl hL
  exact sub_trans rfl hL
  exact sub_trans rfl hL
  with_reducible refine Keeps.step ?_ (updTile_keeps ..) ?_
  split
  with_reducible refine Keeps.step ?_ (h5 ..) (sub_refl _)
  with_reducible refine Keeps.step ?_ (fireReserve_keeps ..) ?_
  exact Keeps.refl _
  exact sub_trans rfl hL
  with_reducible refine Keeps.step ?_ (resFail_keeps ..) ?_
  with_reducible refine Keeps.step ?_ (fireReserve_keeps ..) ?_
  exact Keeps.refl _
  exact sub_trans rfl hL
  exact sub_trans rfl hL
  exact sub_trans rfl hL
  exact sub_trans rfl hL

theorem fireRow_keeps {L : List Part} (hL : sub [.tiles, .routers, .regions, .outbox] L = true) (s : State) (x1 : Nat) (x2 : Nat) (x3 : Nat → Bool) (x4 : State → FireCtx → List Nat) (x5 : State → FireCtx → FireRes) (h5 : ∀ a0 a1, Keeps L a0 (x5 a0 a1).s) :
    KeepsOut L s (fireRow s x1 x2 x3 x4 x5) := by
  unfold fireRow
  refine needUnit_keeps ?_
  split
  refine KeepsOut.next ?_
  exact Keeps.refl _
  refine whenB_keeps2 ?_ ?_
  exact Keeps.refl _
  with_reducible refine Keeps.step ?_ (fireNow_keeps (L := L) (sub_trans rfl hL) _ _ _ _ _ _ ?_) (sub_refl _)
  exact Keeps.refl _
  intro y8
  intro y9
  with_reducible refine Keeps.step ?_ (h5 ..) (sub_refl _)
  exact Keeps.refl _

theorem retireQueues_keeps (s : State) (x1 : Nat) (x2 : Fired) :
    Keeps [.tiles] s (retireQueues s x1 x2) := by
  unfold retireQueues
  dsimp only
  with_reducible refine Keeps.step ?_ (setTile_keeps ..) ?_
  exact Keeps.refl _
  rfl

theorem retireArrive_keeps (s : State) (x1 : Nat) (x2 : Fired) :
    Keeps [.tiles, .routers, .fns, .recorder, .flt, .msis] s (retireArrive s x1 x2) := by
  unfold retireArrive
  with_reducible refine Keeps.ite ?_ ?_
  with_reducible refine Keeps.ite ?_ ?_
  with_reducible refine Keeps.step ?_ (injectTile_keeps ..) ?_
  exact Keeps.refl _
  rfl
  with_reducible refine Keeps.step ?_ (arriveAt_keeps ..) ?_
  exact Keeps.refl _
  rfl
  exact Keeps.refl _

theorem toFirmware_keeps (s : State) (x1 : Nat) (x2 : Fired) :
    Keeps [.regions, .flc] s (toFirmware s x1 x2) := by
  unfold toFirmware
  with_reducible refine Keeps.ite ?_ ?_
  with_reducible refine Keeps.step ?_ (updRegion_keeps ..) ?_
  exact Keeps.refl _
  rfl
  with_reducible refine Keeps.set_flc (rfl) ?_ ?_ ?_
  with_reducible exact fun h => ⟨h.1, h.2, h.3, h.4, h.5, h.6, h.7, h.8, h.9, h.10⟩
  exact ⟨Nat.le_refl _, Nat.le_refl _, rfl, rfl, rfl, rfl, rfl⟩
  exact Keeps.refl _

theorem retireComp_keeps (s : State) (x1 : Nat) (x2 : Fired) :
    Keeps [.tiles, .regions, .flc] s (retireComp s x1 x2) := by
  unfold retireComp
  dsimp only
  with_reducible refine Keeps.ite ?_ ?_
  split
  with_reducible refine Keeps.step ?_ (setTile_keeps ..) ?_
  exact Keeps.refl _
  rfl
  with_reducible refine Keeps.ite ?_ ?_
  exact Keeps.refl _
  with_reducible refine Keeps.ite ?_ ?_
  with_reducible refine Keeps.step ?_ (setTile_keeps ..) ?_
  exact Keeps.refl _
  rfl
  with_reducible refine Keeps.step ?_ (setTile_keeps ..) ?_
  exact Keeps.refl _
  rfl
  with_reducible refine Keeps.step ?_ (toFirmware_keeps ..) ?_
  split
  with_reducible refine Keeps.step ?_ (setTile_keeps ..) ?_
  exact Keeps.refl _
  rfl
  with_reducible refine Keeps.ite ?_ ?_
  exact Keeps.refl _
  with_reducible refine Keeps.ite ?_ ?_
  with_reducible refine Keeps.step ?_ (setTile_keeps ..) ?_
  exact Keeps.refl _
  rfl
  with_reducible refine Keeps.step ?_ (setTile_keeps ..) ?_
  exact Keeps.refl _
  rfl
  rfl

theorem retireClose_keeps (s : State) (x1 : Nat) (x2 : Fired) :
    Keeps [.tiles] s (retireClose s x1 x2) := by
  unfold retireClose
  with_reducible refine Keeps.step ?_ (updTile_keeps ..) ?_
  exact Keeps.refl _
  rfl

theorem retireBuffer_keeps (s : State) (x1 : Nat) (x2 : Fired) :
    Keeps [.tiles] s (retireBuffer s x1 x2) := by
  unfold retireBuffer
  split
  with_reducible refine Keeps.ite ?_ ?_
  with_reducible refine Keeps.step ?_ (updTile_keeps ..) ?_
  exact Keeps.refl _
  rfl
  exact Keeps.refl _
  exact Keeps.refl _

theorem retireStale_keeps (s : State) (x1 : Nat) (x2 : Fired) :
    Keeps [.tiles] s (retireStale s x1 x2) := by
  unfold retireStale
  with_reducible refine Keeps.step ?_ (updTile_keeps ..) ?_
  exact Keeps.refl _
  rfl

theorem retire_keeps (s : State) (x1 : Nat) (x2 : Fired) :
    Keeps [.tiles, .routers, .regions, .fns, .recorder, .flt, .msis, .flc] s (retire s x1 x2) := by
  unfold retire
  with_reducible refine Keeps.ite ?_ ?_
  with_reducible refine Keeps.step ?_ (retireStale_keeps ..) ?_
  exact Keeps.refl _
  rfl
  with_reducible refine Keeps.step ?_ (retireClose_keeps ..) ?_
  with_reducible refine Keeps.step ?_ (retireComp_keeps ..) ?_
  with_reducible refine Keeps.step ?_ (retireArrive_keeps ..) ?_
  with_reducible refine Keeps.step ?_ (retireQueues_keeps ..) ?_
  with_reducible refine Keeps.step ?_ (retireBuffer_keeps ..) ?_
  exact Keeps.refl _
  rfl
  rfl
  rfl
  rfl
  rfl

end Sys2Proof.Machine
end

