-- ==== Sys2Proof/Laws/Basin.lean ====
section
/-! SUPPORT. What the operations of Machine/Basin.lean may change: for each, the parts of the state. -/

namespace Sys2Proof.Machine

theorem updBsn_keeps (s : State) (x1 : Nat) (x2 : BasinCtl → BasinCtl) :
    Keeps [.bsn] s (updBsn s x1 x2) := by
  unfold updBsn
  with_reducible refine Keeps.set_bsn (rfl) ?_
  exact Keeps.refl _

theorem putRaw_keeps (s : State) (x1 : Nat) (x2 : List Byte) :
    Keeps [.scans] s (putRaw s x1 x2) := by
  unfold putRaw
  with_reducible refine Keeps.set_scans (rfl) ?_
  exact Keeps.refl _

theorem basinPut_keeps (s : State) (x1 : Nat) (x2 : List Byte) :
    Keeps [.basin, .poison, .scans] s (basinPut s x1 x2) := by
  unfold basinPut
  dsimp only
  with_reducible refine Keeps.set_basin_poison_scans (rfl) ?_ ?_ ?_
  refine fun h => ⟨?_, ?_, ?_, ?_, ?_, ?_, ?_, ?_, ?_, ?_⟩
  exact memWrL_wf _ _ _ h.1
  with_reducible exact h.2
  with_reducible exact h.3
  with_reducible exact h.4
  with_reducible exact h.5
  with_reducible exact h.6
  with_reducible exact h.7
  with_reducible exact h.8
  with_reducible exact h.9
  with_reducible exact h.10
  exact ⟨Nat.le_refl _, Nat.le_refl _, rfl, rfl, rfl, rfl, rfl⟩
  exact Keeps.refl _

theorem basinZero_keeps (s : State) (x1 : Nat) (x2 : Nat) :
    Keeps [.basin, .poison, .scans] s (basinZero s x1 x2) := by
  unfold basinZero
  dsimp only
  with_reducible refine Keeps.set_basin_poison_scans (rfl) ?_ ?_ ?_
  refine fun h => ⟨?_, ?_, ?_, ?_, ?_, ?_, ?_, ?_, ?_, ?_⟩
  exact memZero_wf _ _ _ h.1
  with_reducible exact h.2
  with_reducible exact h.3
  with_reducible exact h.4
  with_reducible exact h.5
  with_reducible exact h.6
  with_reducible exact h.7
  with_reducible exact h.8
  with_reducible exact h.9
  with_reducible exact h.10
  exact ⟨Nat.le_refl _, Nat.le_refl _, rfl, rfl, rfl, rfl, rfl⟩
  exact Keeps.refl _

theorem countPoison_keeps (s : State) (x1 : Nat) (x2 : Nat) :
    Keeps [.bsn] s (countPoison s x1 x2) := by
  unfold countPoison
  with_reducible refine Keeps.foldl ?_ ?_
  exact Keeps.refl _
  intro y2
  intro y3
  with_reducible refine Keeps.step ?_ (updBsn_keeps ..) ?_
  exact Keeps.refl _
  rfl

theorem queueHeal_keeps (s : State) (x1 : Nat) :
    Keeps [.regions] s (queueHeal s x1) := by
  unfold queueHeal
  with_reducible refine Keeps.step ?_ (updRegion_keeps ..) ?_
  exact Keeps.refl _
  rfl

theorem basinUeEvent_keeps (s : State) (x1 : Nat) :
    Keeps [.fns, .recorder, .flt, .msis] s (basinUeEvent s x1) := by
  unfold basinUeEvent
  with_reducible refine Keeps.step ?_ (postEvent_keeps ..) ?_
  exact Keeps.refl _
  rfl

end Sys2Proof.Machine
end

