-- ==== Sys2Proof/Laws/Control.lean ====
section
/-! SUPPORT. What the operations of Machine/Control.lean may change: for each, the parts of the state. -/

namespace Sys2Proof.Machine

theorem fetchLine_keeps (s : State) (x1 : Nat) (x2 : Nat) :
    Keeps [.tiles] s (fetchLine s x1 x2) := by
  unfold fetchLine
  with_reducible refine Keeps.step ?_ (updTile_keeps ..) ?_
  exact Keeps.refl _
  rfl

theorem fetchRow_keeps (x0 : Nat) (x1 : Nat) (s : State) :
    KeepsOut [.tiles] s (fetchRow x0 x1 s) := by
  unfold fetchRow
  refine needUnit_keeps ?_
  refine whenB_keeps2 ?_ ?_
  exact Keeps.refl _
  with_reducible refine Keeps.step ?_ (fetchLine_keeps ..) ?_
  exact Keeps.refl _
  rfl

theorem execStaleInstanceDiscard_keeps (x0 : Nat) (x1 : Nat) (s : State) :
    KeepsOut [.tiles] s (execStaleInstanceDiscard x0 x1 s) := by
  unfold execStaleInstanceDiscard
  refine needUnit_keeps ?_
  split
  refine KeepsOut.next ?_
  exact Keeps.refl _
  refine whenB_keeps2 ?_ ?_
  exact Keeps.refl _
  with_reducible refine Keeps.step ?_ (updTile_keeps ..) ?_
  exact Keeps.refl _
  rfl

theorem actArrive_keeps (s : State) (x1 : FireCtx) :
    Keeps [.tiles, .routers, .fns, .recorder, .flt, .msis] s (actArrive s x1).s := by
  unfold actArrive
  with_reducible refine Keeps.step ?_ (resOk_keeps ..) ?_
  with_reducible refine Keeps.ite ?_ ?_
  with_reducible refine Keeps.step ?_ (injectTile_keeps ..) ?_
  exact Keeps.refl _
  rfl
  with_reducible refine Keeps.step ?_ (arriveAt_keeps ..) ?_
  exact Keeps.refl _
  rfl
  rfl

theorem actReset_keeps (s : State) (x1 : FireCtx) :
    Keeps [.tiles, .routers] s (actReset s x1).s := by
  unfold actReset
  with_reducible refine Keeps.step ?_ (resOk_keeps ..) ?_
  with_reducible refine Keeps.ite ?_ ?_
  with_reducible refine Keeps.step ?_ (injectTile_keeps ..) ?_
  exact Keeps.refl _
  rfl
  with_reducible refine Keeps.step ?_ (updTile_keeps ..) ?_
  exact Keeps.refl _
  rfl
  rfl

theorem actNone_keeps (s : State) (x1 : FireCtx) :
    Keeps [] s (actNone s x1).s := by
  unfold actNone
  with_reducible refine Keeps.step ?_ (resOk_keeps ..) ?_
  exact Keeps.refl _
  rfl

theorem execArrive_keeps (x0 : Nat) (x1 : Nat) (s : State) :
    KeepsOut [.tiles, .routers, .regions, .fns, .recorder, .flt, .outbox, .msis] s (execArrive x0 x1 s) := by
  unfold execArrive
  with_reducible refine KeepsOut.step ?_ (fireRow_keeps (L := [.tiles, .routers, .regions, .fns, .recorder, .flt, .outbox, .msis]) (rfl) _ _ _ _ _ _ ?_) (sub_refl _)
  exact Keeps.refl _
  intro y2
  intro y3
  with_reducible refine Keeps.step ?_ (actArrive_keeps ..) ?_
  exact Keeps.refl _
  rfl

theorem execWait_keeps (x0 : Nat) (x1 : Nat) (s : State) :
    KeepsOut [.tiles, .routers, .regions, .outbox] s (execWait x0 x1 s) := by
  unfold execWait
  with_reducible refine KeepsOut.step ?_ (fireRow_keeps (L := [.tiles, .routers, .regions, .outbox]) (rfl) _ _ _ _ _ _ ?_) (sub_refl _)
  exact Keeps.refl _
  intro y2
  intro y3
  with_reducible refine Keeps.step ?_ (actNone_keeps ..) ?_
  exact Keeps.refl _
  rfl

theorem execReset_keeps (x0 : Nat) (x1 : Nat) (s : State) :
    KeepsOut [.tiles, .routers, .regions, .outbox] s (execReset x0 x1 s) := by
  unfold execReset
  with_reducible refine KeepsOut.step ?_ (fireRow_keeps (L := [.tiles, .routers, .regions, .outbox]) (rfl) _ _ _ _ _ _ ?_) (sub_refl _)
  exact Keeps.refl _
  intro y2
  intro y3
  with_reducible refine Keeps.step ?_ (actReset_keeps ..) ?_
  exact Keeps.refl _
  rfl

theorem actClearValid_keeps (s : State) (x1 : FireCtx) :
    Keeps [.tiles] s (actClearValid s x1).s := by
  unfold actClearValid
  with_reducible refine Keeps.step ?_ (resOk_keeps ..) ?_
  with_reducible refine Keeps.step ?_ (updTile_keeps ..) ?_
  exact Keeps.refl _
  rfl
  rfl

theorem actZeroize_keeps (s : State) (x1 : FireCtx) :
    Keeps [.tiles] s (actZeroize s x1).s := by
  unfold actZeroize
  with_reducible refine Keeps.step ?_ (resOk_keeps ..) ?_
  with_reducible refine Keeps.step ?_ (updTile_keeps ..) ?_
  exact Keeps.refl _
  rfl
  rfl

theorem execControlNop_keeps (x0 : Nat) (x1 : Nat) (s : State) :
    KeepsOut [.tiles, .routers, .regions, .outbox] s (execControlNop x0 x1 s) := by
  unfold execControlNop
  with_reducible refine KeepsOut.step ?_ (fireRow_keeps (L := [.tiles, .routers, .regions, .outbox]) (rfl) _ _ _ _ _ _ ?_) (sub_refl _)
  exact Keeps.refl _
  intro y2
  intro y3
  with_reducible refine Keeps.step ?_ (actNone_keeps ..) ?_
  exact Keeps.refl _
  rfl

theorem execEndDesc_keeps (x0 : Nat) (x1 : Nat) (s : State) :
    KeepsOut [.tiles, .routers, .regions, .outbox] s (execEndDesc x0 x1 s) := by
  unfold execEndDesc
  with_reducible refine KeepsOut.step ?_ (fireRow_keeps (L := [.tiles, .routers, .regions, .outbox]) (rfl) _ _ _ _ _ _ ?_) (sub_refl _)
  exact Keeps.refl _
  intro y2
  intro y3
  with_reducible refine Keeps.step ?_ (actNone_keeps ..) ?_
  exact Keeps.refl _
  rfl

theorem execFence_keeps (x0 : Nat) (x1 : Nat) (s : State) :
    KeepsOut [.tiles, .routers, .regions, .outbox] s (execFence x0 x1 s) := by
  unfold execFence
  with_reducible refine KeepsOut.step ?_ (fireRow_keeps (L := [.tiles, .routers, .regions, .outbox]) (rfl) _ _ _ _ _ _ ?_) (sub_refl _)
  exact Keeps.refl _
  intro y2
  intro y3
  with_reducible refine Keeps.step ?_ (actNone_keeps ..) ?_
  exact Keeps.refl _
  rfl

theorem execClearValid_keeps (x0 : Nat) (x1 : Nat) (s : State) :
    KeepsOut [.tiles, .routers, .regions, .outbox] s (execClearValid x0 x1 s) := by
  unfold execClearValid
  with_reducible refine KeepsOut.step ?_ (fireRow_keeps (L := [.tiles, .routers, .regions, .outbox]) (rfl) _ _ _ _ _ _ ?_) (sub_refl _)
  exact Keeps.refl _
  intro y2
  intro y3
  with_reducible refine Keeps.step ?_ (actClearValid_keeps ..) ?_
  exact Keeps.refl _
  rfl

theorem execZeroize_keeps (x0 : Nat) (x1 : Nat) (s : State) :
    KeepsOut [.tiles, .routers, .regions, .outbox] s (execZeroize x0 x1 s) := by
  unfold execZeroize
  with_reducible refine KeepsOut.step ?_ (fireRow_keeps (L := [.tiles, .routers, .regions, .outbox]) (rfl) _ _ _ _ _ _ ?_) (sub_refl _)
  exact Keeps.refl _
  intro y2
  intro y3
  with_reducible refine Keeps.step ?_ (actZeroize_keeps ..) ?_
  exact Keeps.refl _
  rfl

theorem execDescriptorRetire_keeps (x0 : Nat) (x1 : Nat) (x2 : Nat) (s : State) :
    KeepsOut [.tiles, .routers, .regions, .fns, .recorder, .flt, .msis, .flc] s (execDescriptorRetire x0 x1 x2 s) := by
  unfold execDescriptorRetire
  refine needUnit_keeps ?_
  split
  refine KeepsOut.next ?_
  exact Keeps.refl _
  refine KeepsOut.next ?_
  with_reducible refine Keeps.step ?_ (retire_keeps ..) ?_
  exact Keeps.refl _
  rfl

end Sys2Proof.Machine
end

