-- ==== Sys2Proof/Laws/Dma.lean ====
section
/-! SUPPORT. What the operations of Machine/Dma.lean may change: for each, the parts of the state. -/

namespace Sys2Proof.Machine

theorem resParts_keeps (s : State) (x1 : FireCtx) (x2 : Nat) (x3 : Nat) (x4 : List Nat) :
    Keeps [] s (resParts s x1 x2 x3 x4).s := by
  unfold resParts
  dsimp only
  exact Keeps.refl _

theorem resOpen_keeps (s : State) (x1 : FireCtx) (x2 : Nat) (x3 : Nat) (x4 : List (Nat × Nat)) :
    Keeps [] s (resOpen s x1 x2 x3 x4).s := by
  unfold resOpen
  dsimp only
  exact Keeps.refl _

theorem actCopy_keeps (s : State) (x1 : FireCtx) :
    Keeps [.tiles] s (actCopy s x1).s := by
  unfold actCopy
  with_reducible refine Keeps.step ?_ (resParts_keeps ..) ?_
  with_reducible refine Keeps.step ?_ (updTile_keeps ..) ?_
  exact Keeps.refl _
  rfl
  rfl

theorem actPut_keeps (s : State) (x1 : FireCtx) :
    Keeps [.tiles, .routers] s (actPut s x1).s := by
  unfold actPut
  dsimp only
  with_reducible refine Keeps.step ?_ (resOpen_keeps ..) ?_
  with_reducible refine Keeps.step ?_ (queueXfers_keeps ..) ?_
  with_reducible refine Keeps.step ?_ (updTile_keeps ..) ?_
  exact Keeps.refl _
  rfl
  rfl
  rfl

theorem actGet_keeps (s : State) (x1 : FireCtx) :
    Keeps [.tiles, .routers] s (actGet s x1).s := by
  unfold actGet
  dsimp only
  with_reducible refine Keeps.step ?_ (resOpen_keeps ..) ?_
  with_reducible refine Keeps.step ?_ (queueXfers_keeps ..) ?_
  exact Keeps.refl _
  rfl
  rfl

theorem actBasinRead_keeps (s : State) (x1 : FireCtx) :
    Keeps [.tiles, .bsn] s (actBasinRead s x1).s := by
  unfold actBasinRead
  dsimp only
  with_reducible refine Keeps.step ?_ (resParts_keeps ..) ?_
  with_reducible refine Keeps.step ?_ (updTile_keeps ..) ?_
  with_reducible refine Keeps.foldl ?_ ?_
  exact Keeps.refl _
  intro y5
  intro y6
  with_reducible refine Keeps.step ?_ (countPoison_keeps ..) ?_
  exact Keeps.refl _
  rfl
  rfl
  rfl

theorem actBasinWrite_keeps (s : State) (x1 : FireCtx) :
    Keeps [.tiles, .basin, .poison, .scans] s (actBasinWrite s x1).s := by
  unfold actBasinWrite
  dsimp only
  with_reducible refine Keeps.step ?_ (resParts_keeps ..) ?_
  with_reducible refine Keeps.step ?_ (updTile_keeps ..) ?_
  with_reducible refine Keeps.foldl ?_ ?_
  exact Keeps.refl _
  intro y5
  intro y6
  with_reducible refine Keeps.step ?_ (basinPut_keeps ..) ?_
  exact Keeps.refl _
  rfl
  rfl
  rfl

theorem actStoreLoad_keeps (s : State) (x1 : FireCtx) :
    Keeps [.tiles] s (actStoreLoad s x1).s := by
  unfold actStoreLoad
  dsimp only
  with_reducible refine Keeps.step ?_ (resParts_keeps ..) ?_
  with_reducible refine Keeps.step ?_ (updTile_keeps ..) ?_
  exact Keeps.refl _
  rfl
  rfl

theorem actSparsify_keeps (s : State) (x1 : FireCtx) :
    Keeps [.free, .tiles] s (actSparsify s x1).s := by
  unfold actSparsify
  dsimp only
  split
  with_reducible refine Keeps.step ?_ (resParts_keeps ..) ?_
  with_reducible refine Keeps.step ?_ (updTile_keeps ..) ?_
  exact Keeps.refl _
  rfl
  rfl
  with_reducible refine Keeps.step ?_ (resParts_keeps ..) ?_
  with_reducible refine Keeps.step ?_ (updTile_keeps ..) ?_
  with_reducible refine Keeps.step ?_ (takeFree_keeps ..) ?_
  exact Keeps.refl _
  rfl
  rfl
  rfl

theorem execGet_keeps (x0 : Nat) (x1 : Nat) (s : State) :
    KeepsOut [.tiles, .routers, .regions, .outbox] s (execGet x0 x1 s) := by
  unfold execGet
  with_reducible refine KeepsOut.step ?_ (fireRow_keeps (L := [.tiles, .routers, .regions, .outbox]) (rfl) _ _ _ _ _ _ ?_) (sub_refl _)
  exact Keeps.refl _
  intro y2
  intro y3
  with_reducible refine Keeps.step ?_ (actGet_keeps ..) ?_
  exact Keeps.refl _
  rfl

end Sys2Proof.Machine
end

