-- ==== Sys2Proof/Laws/Matrix.lean ====
section
/-! SUPPORT. What the operations of Machine/Matrix.lean may change: for each, the parts of the state. -/

namespace Sys2Proof.Machine

theorem actMatmul_keeps (s : State) (x1 : FireCtx) :
    Keeps [.tiles] s (actMatmul s x1).s := by
  unfold actMatmul
  dsimp only
  with_reducible refine Keeps.step ?_ (resOk_keeps ..) ?_
  with_reducible refine Keeps.step ?_ (updTile_keeps ..) ?_
  exact Keeps.refl _
  rfl
  rfl

end Sys2Proof.Machine
end

