-- ==== Sys2Proof/Laws/Silt.lean ====
section
/-! SUPPORT. What the operations of Machine/Silt.lean may change: for each, the parts of the state. -/

namespace Sys2Proof.Machine

theorem updSilt_keeps (s : State) (x1 : Silt → Silt) :
    Keeps [.silt] s (updSilt s x1) := by
  unfold updSilt
  with_reducible refine Keeps.set_silt (rfl) ?_
  exact Keeps.refl _

theorem updNs_keeps (s : State) (x1 : Nat) (x2 : SNs → SNs) :
    Keeps [.silt] s (updNs s x1 x2) := by
  unfold updNs
  with_reducible refine Keeps.step ?_ (updSilt_keeps ..) ?_
  exact Keeps.refl _
  rfl

theorem updChan_keeps (s : State) (x1 : Nat) (x2 : SChan → SChan) :
    Keeps [.silt] s (updChan s x1 x2) := by
  unfold updChan
  with_reducible refine Keeps.step ?_ (updSilt_keeps ..) ?_
  exact Keeps.refl _
  rfl

theorem updSuper_keeps (s : State) (x1 : Nat) (x2 : SSuper → SSuper) :
    Keeps [.silt] s (updSuper s x1 x2) := by
  unfold updSuper
  with_reducible refine Keeps.step ?_ (updSilt_keeps ..) ?_
  exact Keeps.refl _
  rfl

theorem siltEvent_keeps (s : State) (x1 : Nat) (x2 : Nat) (x3 : List Byte) :
    Keeps [.fns, .recorder, .flt, .msis] s (siltEvent s x1 x2 x3) := by
  unfold siltEvent
  with_reducible refine Keeps.step ?_ (devEvent_keeps ..) ?_
  exact Keeps.refl _
  rfl

theorem updBlock_keeps (s : State) (x1 : Nat) (x2 : SBlock → SBlock) :
    Keeps [.silt] s (updBlock s x1 x2) := by
  unfold updBlock
  with_reducible refine Keeps.step ?_ (updSilt_keeps ..) ?_
  exact Keeps.refl _
  rfl

theorem openSuper_keeps (s : State) (x1 : Bool) :
    Keeps [.fns, .silt, .recorder, .flt, .msis] s (openSuper s x1).1 := by
  unfold openSuper
  dsimp only
  split
  dsimp only
  exact Keeps.refl _
  dsimp only
  with_reducible refine Keeps.ite ?_ ?_
  with_reducible refine Keeps.step ?_ (siltEvent_keeps ..) ?_
  with_reducible refine Keeps.step ?_ (updSilt_keeps ..) ?_
  exact Keeps.refl _
  rfl
  rfl
  with_reducible refine Keeps.step ?_ (updSilt_keeps ..) ?_
  exact Keeps.refl _
  rfl

theorem countProgram_keeps (s : State) (x1 : Nat) :
    Keeps [.silt] s (countProgram s x1) := by
  unfold countProgram
  with_reducible refine Keeps.step ?_ (updChan_keeps ..) ?_
  exact Keeps.refl _
  rfl

theorem takePage_keeps (s : State) (x1 : Bool) :
    Keeps [.fns, .silt, .recorder, .flt, .msis] s (takePage s x1).1 := by
  unfold takePage
  dsimp only
  split
  dsimp only
  with_reducible refine Keeps.step ?_ (openSuper_keeps ..) ?_
  exact Keeps.refl _
  rfl
  dsimp only
  with_reducible refine Keeps.step ?_ (updSuper_keeps ..) ?_
  with_reducible refine Keeps.ite ?_ ?_
  with_reducible refine Keeps.step ?_ (countProgram_keeps ..) ?_
  with_reducible refine Keeps.ite ?_ ?_
  with_reducible refine Keeps.step ?_ (countProgram_keeps ..) ?_
  with_reducible refine Keeps.step ?_ (openSuper_keeps ..) ?_
  exact Keeps.refl _
  rfl
  rfl
  with_reducible refine Keeps.step ?_ (openSuper_keeps ..) ?_
  exact Keeps.refl _
  rfl
  rfl
  with_reducible refine Keeps.ite ?_ ?_
  with_reducible refine Keeps.step ?_ (countProgram_keeps ..) ?_
  with_reducible refine Keeps.step ?_ (openSuper_keeps ..) ?_
  exact Keeps.refl _
  rfl
  rfl
  with_reducible refine Keeps.step ?_ (openSuper_keeps ..) ?_
  exact Keeps.refl _
  rfl
  rfl

theorem placeUnits_keeps (s : State) (x1 : Bool) (x2 : Nat) (x3 : List (Nat × List Byte)) :
    Keeps [.fns, .silt, .recorder, .flt, .msis] s (placeUnits s x1 x2 x3).1 := by
  unfold placeUnits
  with_reducible refine Keeps.foldl_fst ?_ ?_
  dsimp only
  exact Keeps.refl _
  intro y3
  intro y4
  dsimp only
  with_reducible refine Keeps.step ?_ (countProgram_keeps ..) ?_
  with_reducible refine Keeps.step ?_ (takePage_keeps ..) ?_
  exact Keeps.refl _
  rfl
  rfl

theorem raiseStage_keeps (s : State) (x1 : Nat) (x2 : Nat) :
    Keeps [.silt] s (raiseStage s x1 x2) := by
  unfold raiseStage
  with_reducible refine Keeps.ite ?_ ?_
  exact Keeps.refl _
  with_reducible refine Keeps.step ?_ (updNs_keeps ..) ?_
  exact Keeps.refl _
  rfl

theorem stageEvent_keeps (s : State) (x1 : Nat) (x2 : Nat) (x3 : Nat) :
    Keeps [.fns, .silt, .recorder, .flt, .msis] s (stageEvent s x1 x2 x3) := by
  unfold stageEvent
  with_reducible refine Keeps.ite ?_ ?_
  exact Keeps.refl _
  with_reducible refine Keeps.step ?_ (siltEvent_keeps ..) ?_
  with_reducible refine Keeps.step ?_ (raiseStage_keeps ..) ?_
  exact Keeps.refl _
  rfl
  rfl

theorem siltStages_keeps (s : State) (x1 : Nat) :
    Keeps [.fns, .silt, .recorder, .flt, .msis] s (siltStages s x1) := by
  unfold siltStages
  dsimp only
  with_reducible refine Keeps.ite ?_ ?_
  exact Keeps.refl _
  with_reducible refine Keeps.ite ?_ ?_
  with_reducible refine Keeps.step ?_ (stageEvent_keeps ..) ?_
  with_reducible refine Keeps.ite ?_ ?_
  with_reducible refine Keeps.step ?_ (stageEvent_keeps ..) ?_
  exact Keeps.refl _
  rfl
  exact Keeps.refl _
  rfl
  with_reducible refine Keeps.ite ?_ ?_
  with_reducible refine Keeps.step ?_ (stageEvent_keeps ..) ?_
  exact Keeps.refl _
  rfl
  exact Keeps.refl _

theorem noteTimes_keeps (s : State) (x1 : Bool) (x2 : List Nat) :
    Keeps [.fns, .silt, .recorder, .flt, .msis] s (noteTimes s x1 x2) := by
  unfold noteTimes
  dsimp only
  with_reducible refine Keeps.ite ?_ ?_
  exact Keeps.refl _
  with_reducible refine Keeps.ite ?_ ?_
  with_reducible refine Keeps.foldl ?_ ?_
  with_reducible refine Keeps.step ?_ (updSilt_keeps ..) ?_
  exact Keeps.refl _
  rfl
  intro y8
  intro y9
  with_reducible refine Keeps.step ?_ (stageEvent_keeps ..) ?_
  exact Keeps.refl _
  rfl
  with_reducible refine Keeps.step ?_ (updSilt_keeps ..) ?_
  exact Keeps.refl _
  rfl

theorem countSuper_keeps (s : State) (x1 : SUnit) (x2 : Nat) (x3 : Nat) :
    Keeps [.silt] s (countSuper s x1 x2 x3) := by
  unfold countSuper
  dsimp only
  with_reducible refine Keeps.step ?_ (updSuper_keeps ..) ?_
  with_reducible refine Keeps.step ?_ (updBlock_keeps ..) ?_
  with_reducible refine Keeps.foldl ?_ ?_
  with_reducible refine Keeps.step ?_ (updChan_keeps ..) ?_
  exact Keeps.refl _
  rfl
  intro y7
  intro y8
  with_reducible refine Keeps.step ?_ (updChan_keeps ..) ?_
  exact Keeps.refl _
  rfl
  rfl
  rfl

theorem countRead_keeps (s : State) (x1 : Nat) (x2 : SUnit) (x3 : Nat) (x4 : Nat) :
    Keeps [.silt] s (countRead s x1 x2 x3 x4) := by
  unfold countRead
  with_reducible refine Keeps.step ?_ (updNs_keeps ..) ?_
  with_reducible refine Keeps.step ?_ (countSuper_keeps ..) ?_
  exact Keeps.refl _
  rfl
  rfl

theorem readParamPages_keeps (s : State) (x1 : List (Nat × ParamPage)) :
    Keeps [.silt] s (readParamPages s x1) := by
  unfold readParamPages
  dsimp only
  split
  with_reducible refine Keeps.foldl ?_ ?_
  exact Keeps.refl _
  intro y4
  intro y5
  with_reducible refine Keeps.step ?_ (updChan_keeps ..) ?_
  exact Keeps.refl _
  rfl
  with_reducible refine Keeps.step ?_ (updSilt_keeps ..) ?_
  with_reducible refine Keeps.foldl ?_ ?_
  exact Keeps.refl _
  intro y12
  intro y13
  with_reducible refine Keeps.step ?_ (updChan_keeps ..) ?_
  exact Keeps.refl _
  rfl
  rfl

theorem startSilt_keeps (s : State) (x1 : SiltStart) :
    Keeps [.silt] s (startSilt s x1) := by
  unfold startSilt
  dsimp only
  with_reducible refine Keeps.foldl ?_ ?_
  with_reducible refine Keeps.step ?_ (updSilt_keeps ..) ?_
  exact Keeps.refl _
  rfl
  intro y5
  intro y6
  with_reducible refine Keeps.step ?_ (countSuper_keeps ..) ?_
  exact Keeps.refl _
  rfl

theorem startTxns_keeps (s : State) :
    Keeps [.fns, .silt, .recorder, .flt, .msis] s (startTxns s) := by
  unfold startTxns
  with_reducible refine Keeps.foldl ?_ ?_
  exact Keeps.refl _
  intro y2
  intro y3
  with_reducible refine Keeps.ite ?_ ?_
  dsimp only
  with_reducible refine Keeps.step ?_ (updSilt_keeps ..) ?_
  with_reducible refine Keeps.step ?_ (placeUnits_keeps ..) ?_
  exact Keeps.refl _
  rfl
  rfl
  exact Keeps.refl _

theorem openTxn_keeps (s : State) (x1 : Nat) (x2 : Nat) (x3 : Option (Nat × Nat)) (x4 : List (Nat × List Byte)) :
    Keeps [.fns, .silt, .recorder, .flt, .msis] s (openTxn s x1 x2 x3 x4) := by
  unfold openTxn
  dsimp only
  with_reducible refine Keeps.step ?_ (startTxns_keeps ..) ?_
  with_reducible refine Keeps.step ?_ (updSilt_keeps ..) ?_
  exact Keeps.refl _
  rfl
  rfl

theorem endIssuer_keeps (s : State) (x1 : STxn) (x2 : Bool) (x3 : Nat) :
    Keeps [.tiles, .regions, .outbox] s (endIssuer s x1 x2 x3) := by
  unfold endIssuer
  split
  exact Keeps.refl _
  split
  exact Keeps.refl _
  dsimp only
  with_reducible refine Keeps.ite ?_ ?_
  with_reducible refine Keeps.step ?_ (updTile_keeps ..) ?_
  exact Keeps.refl _
  rfl
  with_reducible refine Keeps.step ?_ (failDesc_keeps ..) ?_
  with_reducible refine Keeps.step ?_ (updTile_keeps ..) ?_
  exact Keeps.refl _
  rfl
  rfl

theorem retireOnly_keeps (s : State) (x1 : Nat) :
    Keeps [.fns, .silt, .recorder, .flt, .msis] s (retireOnly s x1) := by
  unfold retireOnly
  dsimp only
  with_reducible refine Keeps.step ?_ (siltEvent_keeps ..) ?_
  with_reducible refine Keeps.foldl ?_ ?_
  with_reducible refine Keeps.step ?_ (updSilt_keeps ..) ?_
  exact Keeps.refl _
  rfl
  intro y6
  intro y7
  with_reducible refine Keeps.step ?_ (siltStages_keeps ..) ?_
  with_reducible refine Keeps.step ?_ (updNs_keeps ..) ?_
  exact Keeps.refl _
  rfl
  rfl
  rfl

theorem reclaimSuper_keeps (x0 : List Nat) (s : State) (x2 : Nat) :
    Keeps [.fns, .silt, .recorder, .flt, .msis] s (reclaimSuper x0 s x2) := by
  unfold reclaimSuper
  dsimp only
  split
  exact Keeps.refl _
  with_reducible refine Keeps.ite ?_ ?_
  exact Keeps.refl _
  with_reducible refine Keeps.foldl ?_ ?_
  with_reducible refine Keeps.step ?_ (updSilt_keeps ..) ?_
  with_reducible refine Keeps.step ?_ (updSuper_keeps ..) ?_
  with_reducible refine Keeps.foldl ?_ ?_
  exact Keeps.refl _
  intro y10
  intro y11
  with_reducible refine Keeps.step ?_ (updChan_keeps ..) ?_
  exact Keeps.refl _
  rfl
  rfl
  rfl
  intro y17
  intro y18
  with_reducible refine Keeps.step ?_ (retireOnly_keeps ..) ?_
  with_reducible refine Keeps.step ?_ (updChan_keeps ..) ?_
  exact Keeps.refl _
  rfl
  rfl

theorem failTxn_keeps (s : State) (x1 : STxn) (x2 : Nat) :
    Keeps [.tiles, .regions, .fns, .silt, .recorder, .flt, .outbox, .msis] s (failTxn s x1 x2) := by
  unfold failTxn
  dsimp only
  with_reducible refine Keeps.step ?_ (startTxns_keeps ..) ?_
  with_reducible refine Keeps.foldl ?_ ?_
  with_reducible refine Keeps.step ?_ (endIssuer_keeps ..) ?_
  with_reducible refine Keeps.step ?_ (updNs_keeps ..) ?_
  with_reducible refine Keeps.step ?_ (updSilt_keeps ..) ?_
  exact Keeps.refl _
  rfl
  rfl
  rfl
  intro y10
  intro y11
  with_reducible refine Keeps.step ?_ (reclaimSuper_keeps ..) ?_
  exact Keeps.refl _
  rfl
  rfl

theorem relocate_keeps (s : State) (x1 : Nat) (x2 : List (Nat × SUnit)) :
    Keeps [.fns, .silt, .recorder, .flt, .msis] s (relocate s x1 x2) := by
  unfold relocate
  dsimp only
  with_reducible refine Keeps.ite ?_ ?_
  exact Keeps.refl _
  with_reducible refine Keeps.ite ?_ ?_
  with_reducible refine Keeps.step ?_ (siltEvent_keeps ..) ?_
  exact Keeps.refl _
  rfl
  with_reducible refine Keeps.step ?_ (openTxn_keeps ..) ?_
  exact Keeps.refl _
  rfl

theorem relocateAll_keeps (s : State) (x1 : SUnit → Bool) :
    Keeps [.fns, .silt, .recorder, .flt, .msis] s (relocateAll s x1) := by
  unfold relocateAll
  with_reducible refine Keeps.foldl ?_ ?_
  exact Keeps.refl _
  intro y2
  intro y3
  with_reducible refine Keeps.step ?_ (relocate_keeps ..) ?_
  exact Keeps.refl _
  rfl

theorem retireBlock_keeps (s : State) (x1 : Nat) (x2 : Nat) (x3 : Bool) :
    Keeps [.fns, .silt, .recorder, .flt, .msis] s (retireBlock s x1 x2 x3) := by
  unfold retireBlock
  with_reducible refine Keeps.ite ?_ ?_
  exact Keeps.refl _
  with_reducible refine Keeps.ite ?_ ?_
  with_reducible refine Keeps.step ?_ (relocateAll_keeps ..) ?_
  with_reducible refine Keeps.step ?_ (retireOnly_keeps ..) ?_
  exact Keeps.refl _
  rfl
  rfl
  with_reducible refine Keeps.step ?_ (retireOnly_keeps ..) ?_
  exact Keeps.refl _
  rfl

theorem readWord_keeps (s : State) (x1 : Nat) (x2 : Nat) (x3 : Nat) (x4 : Bool) :
    Keeps [.fns, .silt, .recorder, .flt, .msis] s (readWord s x1 x2 x3 x4).1 := by
  unfold readWord
  split
  dsimp only
  exact Keeps.refl _
  dsimp only
  split
  dsimp only
  with_reducible refine Keeps.step ?_ (retireBlock_keeps ..) ?_
  with_reducible refine Keeps.step ?_ (siltEvent_keeps ..) ?_
  with_reducible refine Keeps.step ?_ (countRead_keeps ..) ?_
  exact Keeps.refl _
  rfl
  rfl
  rfl
  dsimp only
  with_reducible refine Keeps.ite ?_ ?_
  with_reducible refine Keeps.step ?_ (retireBlock_keeps ..) ?_
  with_reducible refine Keeps.step ?_ (countRead_keeps ..) ?_
  exact Keeps.refl _
  rfl
  rfl
  with_reducible refine Keeps.step ?_ (countRead_keeps ..) ?_
  exact Keeps.refl _
  rfl

theorem actSiltRead_keeps (x0 : List Nat) (s : State) (x2 : FireCtx) :
    Keeps [.tiles, .fns, .silt, .recorder, .flt, .msis] s (actSiltRead x0 s x2).s := by
  unfold actSiltRead
  dsimp only
  with_reducible refine Keeps.step ?_ (resParts_keeps ..) ?_
  with_reducible refine Keeps.step ?_ (siltStages_keeps ..) ?_
  with_reducible refine Keeps.step ?_ (updTile_keeps ..) ?_
  with_reducible refine Keeps.foldl_fst ?_ ?_
  dsimp only
  exact Keeps.refl _
  intro y7
  intro y8
  split
  dsimp only
  with_reducible refine Keeps.step ?_ (readWord_keeps ..) ?_
  exact Keeps.refl _
  rfl
  dsimp only
  with_reducible refine Keeps.step ?_ (readWord_keeps ..) ?_
  exact Keeps.refl _
  rfl
  rfl
  rfl
  rfl

theorem execSiltRead_keeps (x0 : Nat) (x1 : Nat) (x2 : List Nat) (s : State) :
    KeepsOut [.tiles, .routers, .regions, .fns, .silt, .recorder, .flt, .outbox, .msis] s (execSiltRead x0 x1 x2 s) := by
  unfold execSiltRead
  with_reducible refine KeepsOut.step ?_ (fireRow_keeps (L := [.tiles, .routers, .regions, .fns, .silt, .recorder, .flt, .outbox, .msis]) (rfl) _ _ _ _ _ _ ?_) (sub_refl _)
  exact Keeps.refl _
  intro y2
  intro y3
  with_reducible refine Keeps.step ?_ (actSiltRead_keeps ..) ?_
  exact Keeps.refl _
  rfl

theorem actSiltWrite_keeps (s : State) (x1 : FireCtx) :
    Keeps [.tiles, .fns, .silt, .recorder, .flt, .msis] s (actSiltWrite s x1).s := by
  unfold actSiltWrite
  dsimp only
  split
  with_reducible refine Keeps.step ?_ (resParts_keeps ..) ?_
  with_reducible refine Keeps.step ?_ (updNs_keeps ..) ?_
  with_reducible refine Keeps.step ?_ (updTile_keeps ..) ?_
  exact Keeps.refl _
  rfl
  rfl
  rfl
  split
  with_reducible refine Keeps.step ?_ (resParts_keeps ..) ?_
  with_reducible refine Keeps.step ?_ (updNs_keeps ..) ?_
  with_reducible refine Keeps.step ?_ (updTile_keeps ..) ?_
  exact Keeps.refl _
  rfl
  rfl
  rfl
  split
  with_reducible refine Keeps.step ?_ (resParts_keeps ..) ?_
  with_reducible refine Keeps.step ?_ (updNs_keeps ..) ?_
  with_reducible refine Keeps.step ?_ (updTile_keeps ..) ?_
  exact Keeps.refl _
  rfl
  rfl
  rfl
  with_reducible refine Keeps.step ?_ (resOpen_keeps ..) ?_
  with_reducible refine Keeps.step ?_ (openTxn_keeps ..) ?_
  with_reducible refine Keeps.step ?_ (updTile_keeps ..) ?_
  exact Keeps.refl _
  rfl
  rfl
  rfl

theorem metaPrograms_keeps (s : State) (x1 : Nat) :
    Keeps [.silt] s (metaPrograms s x1) := by
  unfold metaPrograms
  dsimp only
  with_reducible refine Keeps.step ?_ (updSilt_keeps ..) ?_
  with_reducible refine Keeps.foldl ?_ ?_
  exact Keeps.refl _
  intro y4
  intro y5
  with_reducible refine Keeps.step ?_ (countProgram_keeps ..) ?_
  exact Keeps.refl _
  rfl
  rfl

theorem checkpointNow_keeps (s : State) :
    Keeps [.silt] s (checkpointNow s) := by
  unfold checkpointNow
  dsimp only
  with_reducible refine Keeps.step ?_ (updSilt_keeps ..) ?_
  with_reducible refine Keeps.step ?_ (metaPrograms_keeps ..) ?_
  exact Keeps.refl _
  rfl
  rfl

theorem execSiltDataProgramsDone_keeps (x0 : Nat) (x1 : Bool) (x2 : List Nat) (s : State) (x4 : List Nat) :
    KeepsOut [.free, .tiles, .regions, .fns, .silt, .recorder, .flt, .outbox, .msis] s (execSiltDataProgramsDone x0 x1 x2 s x4) := by
  unfold execSiltDataProgramsDone
  split
  refine KeepsOut.next ?_
  exact Keeps.refl _
  split
  refine KeepsOut.next ?_
  exact Keeps.refl _
  dsimp only
  split
  refine KeepsOut.next ?_
  with_reducible refine Keeps.step ?_ (failTxn_keeps ..) ?_
  with_reducible refine Keeps.step ?_ (takeFree_keeps ..) ?_
  with_reducible refine Keeps.foldl ?_ ?_
  with_reducible refine Keeps.step ?_ (noteTimes_keeps ..) ?_
  exact Keeps.refl _
  rfl
  intro y15
  intro y16
  with_reducible refine Keeps.step ?_ (retireBlock_keeps ..) ?_
  with_reducible refine Keeps.step ?_ (raiseStage_keeps ..) ?_
  with_reducible refine Keeps.step ?_ (updChan_keeps ..) ?_
  exact Keeps.refl _
  rfl
  rfl
  rfl
  rfl
  rfl
  split
  refine KeepsOut.next ?_
  with_reducible refine Keeps.step ?_ (failTxn_keeps ..) ?_
  with_reducible refine Keeps.foldl ?_ ?_
  with_reducible refine Keeps.step ?_ (noteTimes_keeps ..) ?_
  exact Keeps.refl _
  rfl
  intro y33
  intro y34
  with_reducible refine Keeps.step ?_ (retireBlock_keeps ..) ?_
  with_reducible refine Keeps.step ?_ (raiseStage_keeps ..) ?_
  with_reducible refine Keeps.step ?_ (updChan_keeps ..) ?_
  exact Keeps.refl _
  rfl
  rfl
  rfl
  rfl
  refine KeepsOut.next ?_
  with_reducible refine Keeps.step ?_ (updSilt_keeps ..) ?_
  with_reducible refine Keeps.step ?_ (metaPrograms_keeps ..) ?_
  with_reducible refine Keeps.step ?_ (placeUnits_keeps ..) ?_
  with_reducible refine Keeps.foldl ?_ ?_
  with_reducible refine Keeps.step ?_ (noteTimes_keeps ..) ?_
  exact Keeps.refl _
  rfl
  intro y51
  intro y52
  with_reducible refine Keeps.step ?_ (retireBlock_keeps ..) ?_
  with_reducible refine Keeps.step ?_ (raiseStage_keeps ..) ?_
  with_reducible refine Keeps.step ?_ (updChan_keeps ..) ?_
  exact Keeps.refl _
  rfl
  rfl
  rfl
  rfl
  rfl
  rfl

theorem commitTxn_keeps (x0 : List Nat) (s : State) (x2 : STxn) :
    Keeps [.tiles, .regions, .fns, .silt, .recorder, .flt, .outbox, .msis] s (commitTxn x0 s x2) := by
  unfold commitTxn
  dsimp only
  with_reducible refine Keeps.step ?_ (startTxns_keeps ..) ?_
  with_reducible refine Keeps.foldl ?_ ?_
  with_reducible refine Keeps.step ?_ (endIssuer_keeps ..) ?_
  with_reducible refine Keeps.step ?_ (updRegion_keeps ..) ?_
  with_reducible refine Keeps.ite ?_ ?_
  with_reducible refine Keeps.step ?_ (checkpointNow_keeps ..) ?_
  with_reducible refine Keeps.step ?_ (updSilt_keeps ..) ?_
  with_reducible refine Keeps.step ?_ (updNs_keeps ..) ?_
  exact Keeps.refl _
  rfl
  rfl
  rfl
  with_reducible refine Keeps.step ?_ (updSilt_keeps ..) ?_
  with_reducible refine Keeps.step ?_ (updNs_keeps ..) ?_
  exact Keeps.refl _
  rfl
  rfl
  rfl
  rfl
  intro y20
  intro y21
  with_reducible refine Keeps.step ?_ (reclaimSuper_keeps ..) ?_
  exact Keeps.refl _
  rfl
  rfl

theorem execSiltTxnCommit_keeps (x0 : Nat) (s : State) (x2 : List Nat) :
    KeepsOut [.tiles, .regions, .fns, .silt, .recorder, .flt, .outbox, .msis] s (execSiltTxnCommit x0 s x2) := by
  unfold execSiltTxnCommit
  split
  refine KeepsOut.next ?_
  exact Keeps.refl _
  refine whenB_keeps2 ?_ ?_
  exact Keeps.refl _
  with_reducible refine Keeps.step ?_ (commitTxn_keeps ..) ?_
  exact Keeps.refl _
  rfl

theorem execSiltCheckpoint_keeps (s : State) :
    KeepsOut [.silt] s (execSiltCheckpoint s) := by
  unfold execSiltCheckpoint
  refine KeepsOut.next ?_
  with_reducible refine Keeps.step ?_ (checkpointNow_keeps ..) ?_
  exact Keeps.refl _
  rfl

theorem execSiltRetentionRelocate_keeps (x0 : Nat) (x1 : List Nat) (s : State) :
    KeepsOut [.fns, .silt, .recorder, .flt, .msis] s (execSiltRetentionRelocate x0 x1 s) := by
  unfold execSiltRetentionRelocate
  split
  refine KeepsOut.next ?_
  exact Keeps.refl _
  split
  refine KeepsOut.next ?_
  exact Keeps.refl _
  dsimp only
  refine KeepsOut.next ?_
  with_reducible refine Keeps.foldl ?_ ?_
  with_reducible refine Keeps.step ?_ (updSuper_keeps ..) ?_
  with_reducible refine Keeps.foldl_fst ?_ ?_
  dsimp only
  exact Keeps.refl _
  intro y13
  intro y14
  dsimp only
  with_reducible refine Keeps.step ?_ (readWord_keeps ..) ?_
  exact Keeps.refl _
  rfl
  rfl
  intro y20
  intro y21
  with_reducible refine Keeps.step ?_ (relocate_keeps ..) ?_
  exact Keeps.refl _
  rfl

theorem execSiltWearRelocate_keeps (x0 : Nat) (s : State) :
    KeepsOut [.fns, .silt, .recorder, .flt, .msis] s (execSiltWearRelocate x0 s) := by
  unfold execSiltWearRelocate
  dsimp only
  split
  refine KeepsOut.next ?_
  exact Keeps.refl _
  refine whenB_keeps2 ?_ ?_
  exact Keeps.refl _
  with_reducible refine Keeps.step ?_ (relocateAll_keeps ..) ?_
  with_reducible refine Keeps.step ?_ (updSuper_keeps ..) ?_
  exact Keeps.refl _
  rfl
  rfl

theorem execSiltChannelLost_keeps (x0 : Nat) (s : State) :
    KeepsOut [.fns, .silt, .recorder, .flt, .msis] s (execSiltChannelLost x0 s) := by
  unfold execSiltChannelLost
  split
  exact KeepsOut.fault _ _ _
  split
  refine KeepsOut.next ?_
  exact Keeps.refl _
  dsimp only
  refine KeepsOut.next ?_
  with_reducible refine Keeps.step ?_ (relocateAll_keeps ..) ?_
  with_reducible refine Keeps.step ?_ (updSilt_keeps ..) ?_
  with_reducible refine Keeps.step ?_ (updChan_keeps ..) ?_
  exact Keeps.refl _
  rfl
  rfl
  rfl

end Sys2Proof.Machine
end

