-- ==== Sys2Proof/Laws/Experts.lean ====
section
/-! SUPPORT. What the operations of Machine/Experts.lean may change: for each, the parts of the state. -/

namespace Sys2Proof.Machine

theorem actScatter_keeps (s : State) (x1 : FireCtx) :
    Keeps [.tiles, .routers] s (actScatter s x1).s := by
  unfold actScatter
  dsimp only
  with_reducible refine Keeps.step ?_ (resOpen_keeps ..) ?_
  with_reducible refine Keeps.step ?_ (queueXfers_keeps ..) ?_
  with_reducible refine Keeps.step ?_ (updTile_keeps ..) ?_
  exact Keeps.refl _
  rfl
  rfl
  rfl

theorem execScatterClose_keeps (x0 : Nat) (x1 : Nat) (s : State) :
    KeepsOut [.tiles, .routers] s (execScatterClose x0 x1 s) := by
  unfold execScatterClose
  refine needUnit_keeps ?_
  split
  refine KeepsOut.next ?_
  exact Keeps.refl _
  dsimp only
  refine KeepsOut.next ?_
  with_reducible refine Keeps.step ?_ (queueXfers_keeps ..) ?_
  with_reducible refine Keeps.step ?_ (updTile_keeps ..) ?_
  exact Keeps.refl _
  rfl
  rfl

theorem actGather_keeps (s : State) (x1 : FireCtx) :
    Keeps [.tiles, .routers] s (actGather s x1).s := by
  unfold actGather
  dsimp only
  with_reducible refine Keeps.step ?_ (resOpen_keeps ..) ?_
  with_reducible refine Keeps.step ?_ (queueXfers_keeps ..) ?_
  with_reducible refine Keeps.step ?_ (updTile_keeps ..) ?_
  exact Keeps.refl _
  rfl
  rfl
  rfl

end Sys2Proof.Machine
end

