-- ==== Sys2Proof/Laws/Requests.lean ====
section
/-! SUPPORT. What the operations of Machine/Requests.lean may change: for each, the parts of the state. -/

namespace Sys2Proof.Machine

theorem updReq_keeps (s : State) (x1 : Nat) (x2 : Nat) (x3 : Req → Req) :
    Keeps [.fns] s (updReq s x1 x2 x3) := by
  unfold updReq
  with_reducible refine Keeps.step ?_ (updFn_keeps ..) ?_
  exact Keeps.refl _
  rfl

theorem finishReq_keeps (s : State) (x1 : Nat) (x2 : Nat) (x3 : Nat) (x4 : List Byte) :
    Keeps [.fns, .pwr] s (finishReq s x1 x2 x3 x4) := by
  unfold finishReq
  with_reducible refine Keeps.step ?_ (updReq_keeps ..) ?_
  with_reducible refine Keeps.set_pwr (rfl) ?_
  exact Keeps.refl _
  rfl

theorem finishOpt_keeps (s : State) (x1 : Option (Nat × Nat)) (x2 : Nat) (x3 : List Byte) :
    Keeps [.fns, .pwr] s (finishOpt s x1 x2 x3) := by
  unfold finishOpt
  split
  with_reducible refine Keeps.step ?_ (finishReq_keeps ..) ?_
  exact Keeps.refl _
  rfl
  exact Keeps.refl _

theorem ringTry_keeps (s : State) (x1 : Nat) (x2 : List Byte) :
    Keeps [.fns, .msis] s (ringTry s x1 x2).1 := by
  unfold ringTry
  dsimp only
  split
  dsimp only
  with_reducible refine Keeps.step ?_ (ringWrite_keeps ..) ?_
  exact Keeps.refl _
  rfl
  dsimp only
  exact Keeps.refl _

theorem postRunState_keeps (s : State) (x1 : Nat) (x2 : RState) :
    Keeps [.regions, .fns, .msis] s (postRunState s x1 x2) := by
  unfold postRunState
  with_reducible refine Keeps.step ?_ (withRegion_keeps (L := [.regions, .fns, .msis]) (rfl) _ _ _ ?_) (sub_refl _)
  exact Keeps.refl _
  intro y2
  with_reducible refine Keeps.step ?_ (ringPost_keeps ..) ?_
  with_reducible refine Keeps.step ?_ (updRegion_keeps ..) ?_
  exact Keeps.refl _
  rfl
  rfl

theorem endRun_keeps (s : State) (x1 : Nat) (x2 : Nat) :
    Keeps [.regions, .fns, .pwr] s (endRun s x1 x2) := by
  unfold endRun
  with_reducible refine Keeps.step ?_ (withRegion_keeps (L := [.regions, .fns, .pwr]) (rfl) _ _ _ ?_) (sub_refl _)
  exact Keeps.refl _
  intro y2
  with_reducible refine Keeps.step ?_ (updRegion_keeps ..) ?_
  with_reducible refine Keeps.step ?_ (finishOpt_keeps ..) ?_
  exact Keeps.refl _
  rfl
  rfl

theorem stopRegion_keeps (s : State) (x1 : Nat) (x2 : Nat) :
    Keeps [.regions, .fns, .msis, .pwr] s (stopRegion s x1 x2) := by
  unfold stopRegion
  with_reducible refine Keeps.step ?_ (endRun_keeps ..) ?_
  with_reducible refine Keeps.step ?_ (postRunState_keeps ..) ?_
  exact Keeps.refl _
  rfl
  rfl

theorem markDelivered_keeps (s : State) (x1 : Nat) (x2 : Nat) (x3 : Nat) (x4 : Nat) :
    Keeps [.regions, .ctxs] s (markDelivered s x1 x2 x3 x4) := by
  unfold markDelivered
  dsimp only
  with_reducible refine Keeps.step ?_ (updCtx_keeps ..) ?_
  with_reducible refine Keeps.step ?_ (updRegion_keeps ..) ?_
  exact Keeps.refl _
  rfl
  rfl

theorem deliverTokens_keeps (s : State) (x1 : Nat) :
    Keeps [.regions, .fns, .ctxs, .msis] s (deliverTokens s x1) := by
  unfold deliverTokens
  with_reducible refine Keeps.step ?_ (withRegion_keeps (L := [.regions, .fns, .ctxs, .msis]) (rfl) _ _ _ ?_) (sub_refl _)
  exact Keeps.refl _
  intro y2
  with_reducible refine Keeps.ite ?_ ?_
  exact Keeps.refl _
  with_reducible refine Keeps.foldl_fst ?_ ?_
  dsimp only
  exact Keeps.refl _
  intro y8
  intro y9
  split
  dsimp only
  split
  dsimp only
  with_reducible refine Keeps.step ?_ (markDelivered_keeps ..) ?_
  with_reducible refine Keeps.step ?_ (ringTry_keeps ..) ?_
  exact Keeps.refl _
  rfl
  rfl
  dsimp only
  exact Keeps.refl _
  exact Keeps.refl _

end Sys2Proof.Machine
end

