-- ==== Sys2Proof/Laws/Send.lean ====
section
/-! SUPPORT. What the operations of Machine/Send.lean may change: for each, the parts of the state. -/

namespace Sys2Proof.Machine

theorem actMessage_keeps (s : State) (x1 : FireCtx) :
    Keeps [.tiles, .routers] s (actMessage s x1).s := by
  unfold actMessage
  dsimp only
  with_reducible refine Keeps.step ?_ (resOpen_keeps ..) ?_
  with_reducible refine Keeps.step ?_ (queueXfers_keeps ..) ?_
  with_reducible refine Keeps.step ?_ (updTile_keeps ..) ?_
  exact Keeps.refl _
  rfl
  rfl
  rfl

theorem actContribute_keeps (s : State) (x1 : FireCtx) :
    Keeps [.tiles, .routers] s (actContribute s x1).s := by
  unfold actContribute
  dsimp only
  with_reducible refine Keeps.step ?_ (resOpen_keeps ..) ?_
  with_reducible refine Keeps.step ?_ (queueXfers_keeps ..) ?_
  with_reducible refine Keeps.step ?_ (updTile_keeps ..) ?_
  exact Keeps.refl _
  rfl
  rfl
  rfl

theorem scanOut_keeps (s : State) (x1 : Nat) (x2 : Nat) (x3 : Nat) (x4 : Nat) :
    Keeps [.free, .tiles, .scans] s (scanOut s x1 x2 x3 x4) := by
  unfold scanOut
  dsimp only
  with_reducible refine Keeps.set_scans (rfl) ?_
  with_reducible refine Keeps.step ?_ (takeFree_keeps ..) ?_
  with_reducible refine Keeps.step ?_ (updTile_keeps ..) ?_
  exact Keeps.refl _
  rfl
  rfl

theorem actScanOut_keeps (s : State) (x1 : FireCtx) :
    Keeps [.free, .tiles, .scans] s (actScanOut s x1).s := by
  unfold actScanOut
  with_reducible refine Keeps.step ?_ (resOk_keeps ..) ?_
  with_reducible refine Keeps.step ?_ (scanOut_keeps ..) ?_
  exact Keeps.refl _
  rfl
  rfl

theorem actScanIn_keeps (s : State) (x1 : FireCtx) :
    Keeps [.tiles] s (actScanIn s x1).s := by
  unfold actScanIn
  split
  with_reducible refine Keeps.step ?_ (resOk_keeps ..) ?_
  exact Keeps.refl _
  rfl
  with_reducible refine Keeps.step ?_ (resOk_keeps ..) ?_
  with_reducible refine Keeps.step ?_ (updTile_keeps ..) ?_
  exact Keeps.refl _
  rfl
  rfl

theorem execScanIn_keeps (x0 : Nat) (x1 : Nat) (s : State) :
    KeepsOut [.tiles, .routers, .regions, .outbox] s (execScanIn x0 x1 s) := by
  unfold execScanIn
  with_reducible refine KeepsOut.step ?_ (fireRow_keeps (L := [.tiles, .routers, .regions, .outbox]) (rfl) _ _ _ _ _ _ ?_) (sub_refl _)
  exact Keeps.refl _
  intro y2
  intro y3
  with_reducible refine Keeps.step ?_ (actScanIn_keeps ..) ?_
  exact Keeps.refl _
  rfl

end Sys2Proof.Machine
end

