-- ==== Sys2Proof/Laws/Steps.lean ====
section
/-! SUPPORT. What the operations of Machine/Steps.lean may change: for each, the parts of the state. -/

namespace Sys2Proof.Machine

theorem updTiles_keeps (s : State) (x1 : Region) (x2 : Tile → Tile) :
    Keeps [.tiles] s (updTiles s x1 x2) := by
  unfold updTiles
  with_reducible refine Keeps.foldl ?_ ?_
  exact Keeps.refl _
  intro y2
  intro y3
  with_reducible refine Keeps.step ?_ (updTile_keeps ..) ?_
  exact Keeps.refl _
  rfl

theorem writeExchange_keeps (s : State) (x1 : Region) :
    Keeps [.tiles] s (writeExchange s x1) := by
  unfold writeExchange
  with_reducible refine Keeps.foldl ?_ ?_
  exact Keeps.refl _
  intro y2
  intro y3
  dsimp only
  with_reducible refine Keeps.ite ?_ ?_
  with_reducible refine Keeps.step ?_ (updTile_keeps ..) ?_
  exact Keeps.refl _
  rfl
  exact Keeps.refl _

theorem stepStart_keeps (s : State) (x1 : Nat) :
    Keeps [.tiles, .regions] s (stepStart s x1) := by
  unfold stepStart
  with_reducible refine Keeps.step ?_ (withRegion_keeps (L := [.tiles, .regions]) (rfl) _ _ _ ?_) (sub_refl _)
  exact Keeps.refl _
  intro y2
  dsimp only
  with_reducible refine Keeps.step ?_ (updRegion_keeps ..) ?_
  with_reducible refine Keeps.step ?_ (writeExchange_keeps ..) ?_
  with_reducible refine Keeps.step ?_ (updTiles_keeps ..) ?_
  exact Keeps.refl _
  rfl
  rfl
  rfl

theorem closeGroup_keeps (s : State) (x1 : Image) (x2 : Nat) (x3 : Nat) (x4 : Nat) :
    Keeps [.tiles] s (closeGroup s x1 x2 x3 x4) := by
  unfold closeGroup
  with_reducible refine Keeps.ite ?_ ?_
  exact Keeps.refl _
  dsimp only
  with_reducible refine Keeps.foldl ?_ ?_
  exact Keeps.refl _
  intro y5
  intro y6
  with_reducible refine Keeps.step ?_ (updTile_keeps ..) ?_
  exact Keeps.refl _
  rfl

theorem recordPending_keeps (s : State) (x1 : Nat) (x2 : Region) :
    Keeps [.tiles, .regions] s (recordPending s x1 x2) := by
  unfold recordPending
  dsimp only
  with_reducible refine Keeps.step ?_ (updRegion_keeps ..) ?_
  split
  with_reducible refine Keeps.foldl ?_ ?_
  exact Keeps.refl _
  intro y5
  intro y6
  with_reducible refine Keeps.step ?_ (closeGroup_keeps ..) ?_
  exact Keeps.refl _
  rfl
  exact Keeps.refl _
  rfl

theorem commitCtx_keeps (s : State) (x1 : Nat) (x2 : Region) (x3 : Nat × Nat) :
    Keeps [.fns, .ctxs, .recorder, .flt, .msis] s (commitCtx s x1 x2 x3) := by
  unfold commitCtx
  dsimp only
  with_reducible refine Keeps.ite ?_ ?_
  exact Keeps.refl _
  split
  with_reducible refine Keeps.ite ?_ ?_
  with_reducible refine Keeps.step ?_ (regionEvent_keeps ..) ?_
  with_reducible refine Keeps.step ?_ (setCtx_keeps ..) ?_
  exact Keeps.refl _
  rfl
  rfl
  with_reducible refine Keeps.step ?_ (setCtx_keeps ..) ?_
  exact Keeps.refl _
  rfl
  with_reducible refine Keeps.ite ?_ ?_
  exact Keeps.refl _
  with_reducible refine Keeps.step ?_ (setCtx_keeps ..) ?_
  exact Keeps.refl _
  rfl
  exact Keeps.refl _

theorem freeColl_keeps (s : State) (x1 : Nat) :
    Keeps [.engines] s (freeColl s x1) := by
  unfold freeColl
  with_reducible refine Keeps.foldl ?_ ?_
  exact Keeps.refl _
  intro y2
  intro y3
  with_reducible refine Keeps.step ?_ (updEngine_keeps ..) ?_
  exact Keeps.refl _
  rfl

theorem domainsTake_keeps (s : State) :
    Keeps [.flc] s (domainsTake s) := by
  unfold domainsTake
  with_reducible refine Keeps.set_flc (rfl) ?_ ?_ ?_
  refine fun h => ⟨?_, ?_, ?_, ?_, ?_, ?_, ?_, ?_, ?_, ?_⟩
  with_reducible exact h.1
  with_reducible exact h.2
  with_reducible exact h.3
  with_reducible exact h.4
  with_reducible exact h.5
  with_reducible exact h.6
  exact h.7
  exact h.8
  exact h.9
  exact h.10
  exact ⟨Nat.le_refl _, Nat.le_refl _, rfl, rfl, rfl, rfl, rfl⟩
  exact Keeps.refl _

theorem stepCommit_keeps (s : State) (x1 : Nat) :
    Keeps [.tiles, .engines, .regions, .fns, .ctxs, .recorder, .flt, .msis, .flc] s (stepCommit s x1) := by
  unfold stepCommit
  with_reducible refine Keeps.step ?_ (withRegion_keeps (L := [.tiles, .engines, .regions, .fns, .ctxs, .recorder, .flt, .msis, .flc]) (rfl) _ _ _ ?_) (sub_refl _)
  exact Keeps.refl _
  intro y2
  dsimp only
  with_reducible refine Keeps.step ?_ (domainsTake_keeps ..) ?_
  with_reducible refine Keeps.step ?_ (deliverTokens_keeps ..) ?_
  with_reducible refine Keeps.step ?_ (updRegion_keeps ..) ?_
  with_reducible refine Keeps.step ?_ (freeColl_keeps ..) ?_
  with_reducible refine Keeps.step ?_ (updTiles_keeps ..) ?_
  with_reducible refine Keeps.foldl ?_ ?_
  exact Keeps.refl _
  intro y11
  intro y12
  with_reducible refine Keeps.step ?_ (commitCtx_keeps ..) ?_
  exact Keeps.refl _
  rfl
  rfl
  rfl
  rfl
  rfl
  rfl

theorem restoreGranule_keeps (s : State) (x1 : Region) (x2 : Nat) :
    Keeps [.tiles, .bsn] s (restoreGranule s x1 x2) := by
  unfold restoreGranule
  split
  exact Keeps.refl _
  with_reducible refine Keeps.step ?_ (updTile_keeps ..) ?_
  with_reducible refine Keeps.step ?_ (countPoison_keeps ..) ?_
  exact Keeps.refl _
  rfl
  rfl

theorem writeBlock_keeps (s : State) (x1 : Image) (x2 : Nat) (x3 : Nat) (x4 : Nat) (x5 : Nat) (x6 : Bool) (x7 : List Byte) :
    Keeps [.tiles] s (writeBlock s x1 x2 x3 x4 x5 x6 x7) := by
  unfold writeBlock
  dsimp only
  split
  with_reducible refine Keeps.step ?_ (updTile_keeps ..) ?_
  split
  with_reducible refine Keeps.step ?_ (updTile_keeps ..) ?_
  exact Keeps.refl _
  rfl
  exact Keeps.refl _
  rfl
  split
  with_reducible refine Keeps.step ?_ (updTile_keeps ..) ?_
  exact Keeps.refl _
  rfl
  exact Keeps.refl _

theorem writePage_keeps (s : State) (x1 : Image) (x2 : Nat) (x3 : Nat) (x4 : PagePush) :
    Keeps [.tiles] s (writePage s x1 x2 x3 x4) := by
  unfold writePage
  with_reducible refine Keeps.foldl ?_ ?_
  exact Keeps.refl _
  intro y2
  intro y3
  dsimp only
  with_reducible refine Keeps.ite ?_ ?_
  with_reducible refine Keeps.step ?_ (writeBlock_keeps ..) ?_
  exact Keeps.refl _
  rfl
  exact Keeps.refl _

theorem landAgain_keeps (s : State) (x1 : Region) :
    Keeps [.tiles] s (landAgain s x1) := by
  unfold landAgain
  split
  exact Keeps.refl _
  with_reducible refine Keeps.foldl ?_ ?_
  exact Keeps.refl _
  intro y4
  intro y5
  split
  with_reducible refine Keeps.step ?_ (writePage_keeps ..) ?_
  exact Keeps.refl _
  rfl
  exact Keeps.refl _

theorem undoApply_keeps (s : State) (x1 : Nat) (x2 : Region) :
    Keeps [.tiles, .basin, .poison, .bsn, .scans] s (undoApply s x1 x2).1 := by
  unfold undoApply
  dsimp only
  with_reducible refine Keeps.foldl ?_ ?_
  with_reducible refine Keeps.foldl ?_ ?_
  with_reducible refine Keeps.step ?_ (updTiles_keeps ..) ?_
  with_reducible refine Keeps.step ?_ (updTiles_keeps ..) ?_
  exact Keeps.refl _
  rfl
  rfl
  intro y8
  intro y9
  with_reducible refine Keeps.step ?_ (basinPut_keeps ..) ?_
  exact Keeps.refl _
  rfl
  intro y13
  intro y14
  with_reducible refine Keeps.step ?_ (restoreGranule_keeps ..) ?_
  exact Keeps.refl _
  rfl

theorem stepDiscard_keeps (s : State) (x1 : Nat) :
    Keeps [.tiles, .engines, .regions, .fns, .basin, .poison, .bsn, .scans, .recorder, .flt, .msis, .flc, .pwr] s (stepDiscard s x1) := by
  unfold stepDiscard
  with_reducible refine Keeps.step ?_ (withRegion_keeps (L := [.tiles, .engines, .regions, .fns, .basin, .poison, .bsn, .scans, .recorder, .flt, .msis, .flc, .pwr]) (rfl) _ _ _ ?_) (sub_refl _)
  exact Keeps.refl _
  intro y2
  dsimp only
  with_reducible refine Keeps.ite ?_ ?_
  with_reducible refine Keeps.step ?_ (stopRegion_keeps ..) ?_
  with_reducible refine Keeps.step ?_ (regionEvent_keeps ..) ?_
  with_reducible refine Keeps.step ?_ (domainsTake_keeps ..) ?_
  with_reducible refine Keeps.step ?_ (updRegion_keeps ..) ?_
  with_reducible refine Keeps.step ?_ (freeColl_keeps ..) ?_
  with_reducible refine Keeps.step ?_ (updTiles_keeps ..) ?_
  with_reducible refine Keeps.step ?_ (landAgain_keeps ..) ?_
  with_reducible refine Keeps.step ?_ (undoApply_keeps ..) ?_
  exact Keeps.refl _
  rfl
  rfl
  rfl
  rfl
  rfl
  rfl
  rfl
  rfl
  with_reducible refine Keeps.ite ?_ ?_
  with_reducible refine Keeps.ite ?_ ?_
  with_reducible refine Keeps.step ?_ (stopRegion_keeps ..) ?_
  with_reducible refine Keeps.step ?_ (regionEvent_keeps ..) ?_
  with_reducible refine Keeps.step ?_ (domainsTake_keeps ..) ?_
  with_reducible refine Keeps.step ?_ (updRegion_keeps ..) ?_
  with_reducible refine Keeps.step ?_ (freeColl_keeps ..) ?_
  with_reducible refine Keeps.step ?_ (updTiles_keeps ..) ?_
  with_reducible refine Keeps.step ?_ (landAgain_keeps ..) ?_
  with_reducible refine Keeps.step ?_ (undoApply_keeps ..) ?_
  exact Keeps.refl _
  rfl
  rfl
  rfl
  rfl
  rfl
  rfl
  rfl
  rfl
  with_reducible refine Keeps.step ?_ (stopRegion_keeps ..) ?_
  with_reducible refine Keeps.step ?_ (domainsTake_keeps ..) ?_
  with_reducible refine Keeps.step ?_ (updRegion_keeps ..) ?_
  with_reducible refine Keeps.step ?_ (freeColl_keeps ..) ?_
  with_reducible refine Keeps.step ?_ (updTiles_keeps ..) ?_
  with_reducible refine Keeps.step ?_ (landAgain_keeps ..) ?_
  with_reducible refine Keeps.step ?_ (undoApply_keeps ..) ?_
  exact Keeps.refl _
  rfl
  rfl
  rfl
  rfl
  rfl
  rfl
  rfl
  with_reducible refine Keeps.step ?_ (domainsTake_keeps ..) ?_
  with_reducible refine Keeps.step ?_ (updRegion_keeps ..) ?_
  with_reducible refine Keeps.step ?_ (freeColl_keeps ..) ?_
  with_reducible refine Keeps.step ?_ (updTiles_keeps ..) ?_
  with_reducible refine Keeps.step ?_ (landAgain_keeps ..) ?_
  with_reducible refine Keeps.step ?_ (undoApply_keeps ..) ?_
  exact Keeps.refl _
  rfl
  rfl
  rfl
  rfl
  rfl
  rfl

end Sys2Proof.Machine
end

