-- ==== Sys2Proof/Laws/Mesh.lean ====
section
/-! SUPPORT. What the operations of Machine/Mesh.lean may change: for each, the parts of the state. -/

namespace Sys2Proof.Machine

theorem countAt_keeps (s : State) (x1 : Nat) (x2 : RCnt) :
    Keeps [.routers] s (countAt s x1 x2) := by
  unfold countAt
  with_reducible refine Keeps.step ?_ (updRouter_keeps ..) ?_
  exact Keeps.refl _
  rfl

theorem setVer_keeps (s : State) (x1 : Nat) (x2 : VState) :
    Keeps [.v0, .v1] s (setVer s x1 x2) := by
  unfold setVer
  with_reducible refine Keeps.ite ?_ ?_
  with_reducible refine Keeps.set_v0 (rfl) ?_
  exact Keeps.refl _
  with_reducible refine Keeps.set_v1 (rfl) ?_
  exact Keeps.refl _

theorem turnSpine_keeps (s : State) (x1 : Nat) (x2 : Packet) :
    Keeps [.engines] s (turnSpine s x1 x2) := by
  unfold turnSpine
  dsimp only
  with_reducible refine Keeps.ite ?_ ?_
  exact Keeps.refl _
  with_reducible refine Keeps.step ?_ (updEngine_keeps ..) ?_
  exact Keeps.refl _
  rfl

theorem answer_keeps (s : State) (x1 : Nat) (x2 : Packet) (x3 : Nat) (x4 : Nat) :
    Keeps [.routers] s (answer s x1 x2 x3 x4) := by
  unfold answer
  with_reducible refine Keeps.step ?_ (injectAt_keeps ..) ?_
  exact Keeps.refl _
  rfl

theorem unreachable_keeps (s : State) (x1 : Nat) (x2 : Packet) :
    Keeps [.routers] s (unreachable s x1 x2) := by
  unfold unreachable
  dsimp only
  split
  with_reducible refine Keeps.ite ?_ ?_
  with_reducible refine Keeps.step ?_ (injectAt_keeps ..) ?_
  exact Keeps.refl _
  rfl
  exact Keeps.refl _
  exact Keeps.refl _

theorem dequeue_keeps (s : State) (x1 : Nat) (x2 : Nat) (x3 : Nat) (x4 : Nat) :
    Keeps [.routers] s (dequeue s x1 x2 x3 x4) := by
  unfold dequeue
  dsimp only
  with_reducible refine Keeps.step ?_ (drainLane_keeps ..) ?_
  with_reducible refine Keeps.step ?_ (updRouter_keeps ..) ?_
  exact Keeps.refl _
  rfl
  rfl

theorem arriveLane_keeps (s : State) (x1 : Nat) (x2 : Nat) (x3 : Nat) (x4 : Nat) (x5 : Packet) :
    Keeps [.routers] s (arriveLane s x1 x2 x3 x4 x5) := by
  unfold arriveLane
  with_reducible refine Keeps.ite ?_ ?_
  with_reducible refine Keeps.step ?_ (updRouter_keeps ..) ?_
  with_reducible refine Keeps.step ?_ (enqueue_keeps ..) ?_
  exact Keeps.refl _
  rfl
  rfl
  exact Keeps.refl _

theorem deliverLocal_keeps (s : State) (x1 : Nat) (x2 : Packet) :
    Keeps [.routers] s (deliverLocal s x1 x2) := by
  unfold deliverLocal
  with_reducible refine Keeps.ite ?_ ?_
  with_reducible refine Keeps.step ?_ (unreachable_keeps ..) ?_
  with_reducible refine Keeps.step ?_ (countAt_keeps ..) ?_
  exact Keeps.refl _
  rfl
  rfl
  with_reducible refine Keeps.ite ?_ ?_
  with_reducible refine Keeps.step ?_ (countAt_keeps ..) ?_
  exact Keeps.refl _
  rfl
  with_reducible refine Keeps.step ?_ (updRouter_keeps ..) ?_
  exact Keeps.refl _
  rfl

theorem sendOut_keeps (s : State) (x1 : Nat) (x2 : Nat) (x3 : Packet) (x4 : Nat × Nat) :
    Keeps [.routers, .engines] s (sendOut s x1 x2 x3 x4) := by
  unfold sendOut
  dsimp only
  split
  with_reducible refine Keeps.step ?_ (deliverLocal_keeps ..) ?_
  with_reducible refine Keeps.step ?_ (updRouter_keeps ..) ?_
  exact Keeps.refl _
  rfl
  rfl
  with_reducible refine Keeps.ite ?_ ?_
  with_reducible refine Keeps.step ?_ (updEngine_keeps ..) ?_
  with_reducible refine Keeps.step ?_ (updRouter_keeps ..) ?_
  exact Keeps.refl _
  rfl
  rfl
  with_reducible refine Keeps.step ?_ (updRouter_keeps ..) ?_
  exact Keeps.refl _
  rfl
  split
  with_reducible refine Keeps.step ?_ (updRouter_keeps ..) ?_
  exact Keeps.refl _
  rfl
  with_reducible refine Keeps.ite ?_ ?_
  with_reducible refine Keeps.step ?_ (countAt_keeps ..) ?_
  exact Keeps.refl _
  rfl
  with_reducible refine Keeps.step ?_ (arriveLane_keeps ..) ?_
  with_reducible refine Keeps.step ?_ (updRouter_keeps ..) ?_
  exact Keeps.refl _
  rfl
  rfl

theorem packetForward_keeps (s : State) (x1 : Nat) (x2 : Nat) (x3 : Nat) (x4 : Nat) :
    Keeps [.routers, .engines, .fns, .recorder, .flt, .msis] s (packetForward s x1 x2 x3 x4) := by
  unfold packetForward
  dsimp only
  split
  exact Keeps.refl _
  with_reducible refine Keeps.ite ?_ ?_
  exact Keeps.refl _
  with_reducible refine Keeps.ite ?_ ?_
  with_reducible refine Keeps.ite ?_ ?_
  with_reducible refine Keeps.step ?_ (countAt_keeps ..) ?_
  with_reducible refine Keeps.step ?_ (dequeue_keeps ..) ?_
  exact Keeps.refl _
  rfl
  rfl
  with_reducible refine Keeps.step ?_ (posEvent_keeps ..) ?_
  with_reducible refine Keeps.step ?_ (countAt_keeps ..) ?_
  with_reducible refine Keeps.step ?_ (dequeue_keeps ..) ?_
  exact Keeps.refl _
  rfl
  rfl
  rfl
  split
  exact Keeps.refl _
  with_reducible refine Keeps.ite ?_ ?_
  with_reducible refine Keeps.step ?_ (unreachable_keeps ..) ?_
  with_reducible refine Keeps.step ?_ (countAt_keeps ..) ?_
  with_reducible refine Keeps.step ?_ (dequeue_keeps ..) ?_
  exact Keeps.refl _
  rfl
  rfl
  rfl
  with_reducible refine Keeps.step ?_ (countAt_keeps ..) ?_
  with_reducible refine Keeps.step ?_ (dequeue_keeps ..) ?_
  exact Keeps.refl _
  rfl
  rfl
  with_reducible refine Keeps.ite ?_ ?_
  with_reducible refine Keeps.foldl ?_ ?_
  with_reducible refine Keeps.step ?_ (dequeue_keeps ..) ?_
  with_reducible refine Keeps.ite ?_ ?_
  with_reducible refine Keeps.step ?_ (turnSpine_keeps ..) ?_
  with_reducible refine Keeps.step ?_ (updRouter_keeps ..) ?_
  exact Keeps.refl _
  rfl
  rfl
  with_reducible refine Keeps.step ?_ (updRouter_keeps ..) ?_
  exact Keeps.refl _
  rfl
  rfl
  intro y47
  intro y48
  with_reducible refine Keeps.step ?_ (sendOut_keeps ..) ?_
  exact Keeps.refl _
  rfl
  exact Keeps.refl _

theorem execAgeDrop_keeps (x0 : Nat) (x1 : Nat) (x2 : Nat) (x3 : Nat) (s : State) :
    KeepsOut [.routers] s (execAgeDrop x0 x1 x2 x3 s) := by
  unfold execAgeDrop
  refine needUnit_keeps ?_
  split
  refine KeepsOut.next ?_
  exact Keeps.refl _
  refine whenB_keeps2 ?_ ?_
  exact Keeps.refl _
  with_reducible refine Keeps.step ?_ (countAt_keeps ..) ?_
  with_reducible refine Keeps.step ?_ (dequeue_keeps ..) ?_
  exact Keeps.refl _
  rfl
  rfl

theorem takeInbox_keeps (s : State) (pos : Nat) (p : Packet → Bool) (t : Packet × State) (h : takeInbox s pos p = some t) :
    Keeps [.routers] s t.2 := by
  unfold takeInbox at h
  dsimp only at h
  split at h
  · cases h
  · split at h
    · cases h
      exact setRouter_keeps ..
    · cases h

theorem invalidate_keeps (s : State) (x1 : Nat) (x2 : List Nat) :
    Keeps [.routers] s (invalidate s x1 x2) := by
  unfold invalidate
  with_reducible refine Keeps.set_routers (rfl) ?_
  exact Keeps.refl _

theorem applyLeaving_keeps (s : State) :
    Keeps [.regions] s (applyLeaving s) := by
  unfold applyLeaving
  with_reducible refine Keeps.set_regions (rfl) ?_
  exact Keeps.refl _

theorem flipNow_keeps (s : State) :
    Keeps [.regions, .activeEpoch, .v0, .v1, .fab] s (flipNow s) := by
  unfold flipNow
  with_reducible refine Keeps.step ?_ (applyLeaving_keeps ..) ?_
  with_reducible refine Keeps.step ?_ (setVer_keeps ..) ?_
  with_reducible refine Keeps.step ?_ (setVer_keeps ..) ?_
  with_reducible refine Keeps.set_activeEpoch_fab (rfl) ?_ ?_ ?_
  with_reducible exact fun h => ⟨h.1, h.2, h.3, h.4, h.5, h.6, h.7, h.8, h.9, h.10⟩
  exact ⟨Nat.le_refl _, Nat.le_refl _, rfl, rfl, rfl, rfl, rfl⟩
  exact Keeps.refl _
  rfl
  rfl
  rfl

theorem confineVersion_keeps (s : State) (x1 : Nat) :
    Keeps [.routers] s (confineVersion s x1) := by
  unfold confineVersion
  with_reducible refine Keeps.set_routers (rfl) ?_
  exact Keeps.refl _

theorem quietEvent_keeps (s : State) :
    Keeps [.fns, .recorder, .flt, .msis] s (quietEvent s) := by
  unfold quietEvent
  with_reducible refine Keeps.step ?_ (devEvent_keeps ..) ?_
  exact Keeps.refl _
  rfl

theorem tryFlip_keeps (s : State) (x1 : Bool) :
    Keeps [.routers, .regions, .fns, .recorder, .activeEpoch, .v0, .v1, .quiet, .flt, .msis, .fab] s (tryFlip s x1) := by
  unfold tryFlip
  dsimp only
  with_reducible refine Keeps.ite ?_ ?_
  exact Keeps.refl _
  with_reducible refine Keeps.ite ?_ ?_
  exact Keeps.refl _
  split
  with_reducible refine Keeps.ite ?_ ?_
  with_reducible refine Keeps.step ?_ (flipNow_keeps ..) ?_
  with_reducible refine Keeps.ite ?_ ?_
  with_reducible refine Keeps.step ?_ (confineVersion_keeps ..) ?_
  exact Keeps.refl _
  rfl
  with_reducible refine Keeps.step ?_ (invalidate_keeps ..) ?_
  with_reducible refine Keeps.step ?_ (confineVersion_keeps ..) ?_
  exact Keeps.refl _
  rfl
  rfl
  rfl
  with_reducible refine Keeps.step ?_ (quietEvent_keeps ..) ?_
  with_reducible refine Keeps.set_quiet (rfl) ?_
  with_reducible refine Keeps.step ?_ (setVer_keeps ..) ?_
  with_reducible refine Keeps.ite ?_ ?_
  with_reducible refine Keeps.step ?_ (confineVersion_keeps ..) ?_
  exact Keeps.refl _
  rfl
  with_reducible refine Keeps.step ?_ (invalidate_keeps ..) ?_
  with_reducible refine Keeps.step ?_ (confineVersion_keeps ..) ?_
  exact Keeps.refl _
  rfl
  rfl
  rfl
  rfl
  with_reducible refine Keeps.step ?_ (invalidate_keeps ..) ?_
  with_reducible refine Keeps.ite ?_ ?_
  with_reducible refine Keeps.step ?_ (confineVersion_keeps ..) ?_
  exact Keeps.refl _
  rfl
  with_reducible refine Keeps.step ?_ (invalidate_keeps ..) ?_
  with_reducible refine Keeps.step ?_ (confineVersion_keeps ..) ?_
  exact Keeps.refl _
  rfl
  rfl
  rfl

theorem execDetourFlip_keeps (s : State) :
    KeepsOut [.routers, .regions, .fns, .recorder, .activeEpoch, .v0, .v1, .quiet, .flt, .msis, .fab] s (execDetourFlip s) := by
  unfold execDetourFlip
  refine whenB_keeps2 ?_ ?_
  exact Keeps.refl _
  with_reducible refine Keeps.step ?_ (tryFlip_keeps ..) ?_
  exact Keeps.refl _
  rfl

theorem dropAct_keeps (s : State) (x1 : Nat) (x2 : BAct → Bool) :
    Keeps [.regions] s (dropAct s x1 x2) := by
  unfold dropAct
  with_reducible refine Keeps.step ?_ (updRegion_keeps ..) ?_
  exact Keeps.refl _
  rfl

theorem plannedFlip_keeps (s : State) (x1 : List Nat) (x2 : Bool) :
    Keeps [.routers, .regions, .fns, .recorder, .activeEpoch, .v0, .v1, .quiet, .flt, .msis, .fab] s (plannedFlip s x1 x2) := by
  unfold plannedFlip
  dsimp only
  with_reducible refine Keeps.ite ?_ ?_
  with_reducible refine Keeps.foldl ?_ ?_
  with_reducible refine Keeps.step ?_ (tryFlip_keeps ..) ?_
  exact Keeps.refl _
  rfl
  intro y6
  intro y7
  with_reducible refine Keeps.step ?_ (dropAct_keeps ..) ?_
  exact Keeps.refl _
  rfl
  with_reducible refine Keeps.step ?_ (tryFlip_keeps ..) ?_
  exact Keeps.refl _
  rfl

theorem execPlannedFlip_keeps (x0 : List Nat) (x1 : Bool) (s : State) :
    KeepsOut [.routers, .regions, .fns, .recorder, .activeEpoch, .v0, .v1, .quiet, .flt, .msis, .fab] s (execPlannedFlip x0 x1 s) := by
  unfold execPlannedFlip
  refine needUnit_keeps ?_
  refine whenB_keeps2 ?_ ?_
  exact Keeps.refl _
  with_reducible refine Keeps.step ?_ (plannedFlip_keeps ..) ?_
  exact Keeps.refl _
  rfl

end Sys2Proof.Machine
end

