-- ==== Sys2Proof/Laws/Faults.lean ====
section
/-! SUPPORT. What the operations of Machine/Faults.lean may change: for each, the parts of the state. -/

namespace Sys2Proof.Machine

theorem updRf_keeps (s : State) (x1 : Nat) (x2 : RegFault → RegFault) :
    Keeps [.rf] s (updRf s x1 x2) := by
  unfold updRf
  with_reducible refine Keeps.set_rf (rfl) ?_
  exact Keeps.refl _

theorem resetTileCore_keeps (s : State) (x1 : Nat) :
    Keeps [.tiles, .regions] s (resetTileCore s x1) := by
  unfold resetTileCore
  dsimp only
  with_reducible refine Keeps.step ?_ (updRegion_keeps ..) ?_
  with_reducible refine Keeps.step ?_ (updTile_keeps ..) ?_
  exact Keeps.refl _
  rfl
  rfl

theorem resetRouter_keeps (s : State) (x1 : Nat) :
    Keeps [.routers] s (resetRouter s x1) := by
  unfold resetRouter
  with_reducible refine Keeps.step ?_ (setRouter_keeps ..) ?_
  exact Keeps.refl _
  rfl

theorem postHang_keeps (s : State) (x1 : Nat) (x2 : Nat) (x3 : Nat) (x4 : Blocked) :
    Keeps [.fns, .recorder, .flt, .msis] s (postHang s x1 x2 x3 x4) := by
  unfold postHang
  dsimp only
  with_reducible refine Keeps.step ?_ (tileEvent_keeps ..) ?_
  exact Keeps.refl _
  rfl

theorem openCapture_keeps (s : State) (x1 : Nat) (x2 : Nat) (x3 : List Nat) :
    Keeps [.fns, .scans, .bundles, .bundleSeq, .recorder, .flt, .msis] s (openCapture s x1 x2 x3).1 := by
  unfold openCapture
  dsimp only
  with_reducible refine Keeps.step ?_ (putRaw_keeps ..) ?_
  with_reducible refine Keeps.set_scans_bundles_bundleSeq (rfl) ?_
  with_reducible refine Keeps.ite ?_ ?_
  with_reducible refine Keeps.step ?_ (regionEvent_keeps ..) ?_
  exact Keeps.refl _
  rfl
  exact Keeps.refl _
  rfl

theorem captureTiles_keeps (s : State) (x1 : Nat) (x2 : Nat) (x3 : Nat) (x4 : List Nat) :
    Keeps [.free, .tiles, .scans] s (captureTiles s x1 x2 x3 x4) := by
  unfold captureTiles
  with_reducible refine Keeps.foldl_fst ?_ ?_
  dsimp only
  exact Keeps.refl _
  intro y3
  intro y4
  dsimp only
  with_reducible refine Keeps.step ?_ (scanOut_keeps ..) ?_
  exact Keeps.refl _
  rfl

theorem commitCapture_keeps (s : State) (x1 : Nat) :
    Keeps [.scans, .bundles] s (commitCapture s x1) := by
  unfold commitCapture
  split
  exact Keeps.refl _
  dsimp only
  with_reducible refine Keeps.set_bundles (rfl) ?_
  with_reducible refine Keeps.step ?_ (putRaw_keeps ..) ?_
  with_reducible refine Keeps.step ?_ (putRaw_keeps ..) ?_
  exact Keeps.refl _
  rfl
  rfl

theorem captureNow_keeps (s : State) (x1 : Nat) (x2 : Nat) (x3 : List Nat) :
    Keeps [.free, .tiles, .fns, .scans, .bundles, .bundleSeq, .recorder, .flt, .msis] s (captureNow s x1 x2 x3) := by
  unfold captureNow
  dsimp only
  with_reducible refine Keeps.step ?_ (commitCapture_keeps ..) ?_
  with_reducible refine Keeps.step ?_ (captureTiles_keeps ..) ?_
  with_reducible refine Keeps.step ?_ (openCapture_keeps ..) ?_
  exact Keeps.refl _
  rfl
  rfl
  rfl

theorem captureRegion_keeps (s : State) (x1 : Nat) (x2 : Nat) :
    Keeps [.free, .tiles, .fns, .scans, .bundles, .bundleSeq, .recorder, .flt, .msis] s (captureRegion s x1 x2) := by
  unfold captureRegion
  with_reducible refine Keeps.step ?_ (withRegion_keeps (L := [.free, .tiles, .fns, .scans, .bundles, .bundleSeq, .recorder, .flt, .msis]) (rfl) _ _ _ ?_) (sub_refl _)
  exact Keeps.refl _
  intro y2
  with_reducible refine Keeps.step ?_ (captureNow_keeps ..) ?_
  exact Keeps.refl _
  rfl

theorem histCharge_keeps (s : State) (x1 : Nat) (x2 : List Nat) :
    Keeps [.recorder] s (histCharge s x1 x2) := by
  unfold histCharge
  dsimp only
  with_reducible refine Keeps.set_recorder (rfl) ?_
  exact Keeps.refl _

theorem palacy_keeps (s : State) (x1 : Nat) (x2 : Charge) (x3 : Nat) (x4 : Nat) (x5 : Nat) :
    Keeps [.fns, .recorder, .flt, .msis] s (palacy s x1 x2 x3 x4 x5) := by
  unfold palacy
  dsimp only
  with_reducible refine Keeps.step ?_ (devEvent_keeps ..) ?_
  with_reducible refine Keeps.set_recorder (rfl) ?_
  exact Keeps.refl _
  rfl

theorem noteSpares_keeps (s : State) :
    Keeps [.idn] s (noteSpares s) := by
  unfold noteSpares
  with_reducible refine Keeps.set_idn (rfl) ?_ ?_ ?_
  with_reducible exact fun h => ⟨h.1, h.2, h.3, h.4, h.5, h.6, h.7, h.8, h.9, h.10⟩
  exact ⟨Nat.le_refl _, Nat.le_refl _, rfl, rfl, rfl, rfl, rfl⟩
  exact Keeps.refl _

theorem declareFailed_keeps (s : State) (x1 : Nat) :
    Keeps [.tiles, .regions, .idn, .outbox, .rep] s (declareFailed s x1) := by
  unfold declareFailed
  with_reducible refine Keeps.ite ?_ ?_
  exact Keeps.refl _
  dsimp only
  with_reducible refine Keeps.ite ?_ ?_
  with_reducible refine Keeps.step ?_ (noteSpares_keeps ..) ?_
  with_reducible refine Keeps.set_rep (rfl) ?_
  with_reducible refine Keeps.step ?_ (setTilePos_keeps ..) ?_
  exact Keeps.refl _
  rfl
  rfl
  with_reducible refine Keeps.step ?_ (updRegion_keeps ..) ?_
  with_reducible refine Keeps.step ?_ (failStep_keeps ..) ?_
  with_reducible refine Keeps.set_rep (rfl) ?_
  with_reducible refine Keeps.step ?_ (setTilePos_keeps ..) ?_
  exact Keeps.refl _
  rfl
  rfl
  rfl

theorem removeUnit_keeps (s : State) (x1 : Charge) :
    Keeps [.tiles, .routers, .engines, .regions, .fns, .recorder, .flt, .idn, .outbox, .msis, .rep, .flc, .pwr] s (removeUnit s x1).1 := by
  unfold removeUnit
  dsimp only
  split
  dsimp only
  with_reducible refine Keeps.step ?_ (declareFailed_keeps ..) ?_
  exact Keeps.refl _
  rfl
  split
  dsimp only
  with_reducible refine Keeps.step ?_ (declareFailed_keeps ..) ?_
  with_reducible refine Keeps.step ?_ (updRouter_keeps ..) ?_
  exact Keeps.refl _
  rfl
  rfl
  split
  split
  dsimp only
  with_reducible refine Keeps.foldl ?_ ?_
  with_reducible refine Keeps.step ?_ (updEngine_keeps ..) ?_
  exact Keeps.refl _
  rfl
  intro y20
  intro y21
  with_reducible refine Keeps.step ?_ (regionEvent_keeps ..) ?_
  with_reducible refine Keeps.step ?_ (updRegion_keeps ..) ?_
  with_reducible refine Keeps.step ?_ (endRun_keeps ..) ?_
  with_reducible refine Keeps.step ?_ (postRunState_keeps ..) ?_
  exact Keeps.refl _
  rfl
  rfl
  rfl
  rfl
  dsimp only
  with_reducible refine Keeps.set_flc (rfl) ?_ ?_ ?_
  with_reducible exact fun h => ⟨h.1, h.2, h.3, h.4, h.5, h.6, h.7, h.8, h.9, h.10⟩
  exact ⟨Nat.le_refl _, Nat.le_refl _, rfl, rfl, rfl, rfl, rfl⟩
  exact Keeps.refl _
  split
  dsimp only
  with_reducible refine Keeps.step ?_ (devEvent_keeps ..) ?_
  exact Keeps.refl _
  rfl
  dsimp only
  exact Keeps.refl _

theorem makePermanent_keeps (s : State) (x1 : Nat) (x2 : Nat) (x3 : Charge) :
    Keeps [.tiles, .routers, .engines, .regions, .fns, .recorder, .flt, .idn, .outbox, .msis, .rep, .flc, .pwr] s (makePermanent s x1 x2 x3) := by
  unfold makePermanent
  with_reducible refine Keeps.ite ?_ ?_
  exact Keeps.refl _
  dsimp only
  with_reducible refine Keeps.step ?_ (palacy_keeps ..) ?_
  with_reducible refine Keeps.step ?_ (removeUnit_keeps ..) ?_
  with_reducible refine Keeps.set_recorder_rep (rfl) ?_
  exact Keeps.refl _
  rfl
  rfl

theorem charge_keeps (s : State) (x1 : Nat) (x2 : Charge) (x3 : Bool) :
    Keeps [.tiles, .routers, .engines, .regions, .fns, .recorder, .flt, .idn, .outbox, .msis, .rep, .flc, .rf, .pwr] s (charge s x1 x2 x3) := by
  unfold charge
  dsimp only
  with_reducible refine Keeps.ite ?_ ?_
  with_reducible refine Keeps.step ?_ (makePermanent_keeps ..) ?_
  with_reducible refine Keeps.step ?_ (histCharge_keeps ..) ?_
  exact Keeps.refl _
  rfl
  rfl
  with_reducible refine Keeps.ite ?_ ?_
  with_reducible refine Keeps.step ?_ (palacy_keeps ..) ?_
  with_reducible refine Keeps.step ?_ (histCharge_keeps ..) ?_
  exact Keeps.refl _
  rfl
  rfl
  with_reducible refine Keeps.step ?_ (updRf_keeps ..) ?_
  with_reducible refine Keeps.step ?_ (histCharge_keeps ..) ?_
  exact Keeps.refl _
  rfl
  rfl

theorem blameDigests_keeps (s : State) (x1 : Nat) (x2 : List (Nat × Nat × Nat × Nat)) :
    Keeps [.tiles, .routers, .engines, .regions, .fns, .recorder, .flt, .idn, .outbox, .msis, .rep, .flc, .rf, .pwr] s (blameDigests s x1 x2) := by
  unfold blameDigests
  with_reducible refine Keeps.foldl ?_ ?_
  exact Keeps.refl _
  intro y2
  intro y3
  dsimp only
  split
  with_reducible refine Keeps.step ?_ (charge_keeps ..) ?_
  with_reducible refine Keeps.foldl ?_ ?_
  exact Keeps.refl _
  intro y9
  intro y10
  with_reducible refine Keeps.step ?_ (send_keeps ..) ?_
  exact Keeps.refl _
  rfl
  rfl
  with_reducible refine Keeps.foldl ?_ ?_
  exact Keeps.refl _
  intro y17
  intro y18
  with_reducible refine Keeps.step ?_ (send_keeps ..) ?_
  exact Keeps.refl _
  rfl

theorem settleCharges_keeps (s : State) (x1 : Nat) (x2 : Bool) :
    Keeps [.tiles, .routers, .engines, .regions, .fns, .recorder, .flt, .idn, .outbox, .msis, .rep, .flc, .rf, .pwr] s (settleCharges s x1 x2) := by
  unfold settleCharges
  dsimp only
  with_reducible refine Keeps.foldl ?_ ?_
  with_reducible refine Keeps.step ?_ (updRf_keeps ..) ?_
  with_reducible refine Keeps.step ?_ (blameDigests_keeps ..) ?_
  exact Keeps.refl _
  rfl
  rfl
  intro y7
  intro y8
  with_reducible refine Keeps.ite ?_ ?_
  with_reducible refine Keeps.step ?_ (makePermanent_keeps ..) ?_
  exact Keeps.refl _
  rfl
  with_reducible refine Keeps.step ?_ (palacy_keeps ..) ?_
  exact Keeps.refl _
  rfl

theorem commitNow_keeps (s : State) (x1 : Nat) :
    Keeps [.tiles, .routers, .engines, .regions, .fns, .ctxs, .recorder, .flt, .idn, .outbox, .msis, .rep, .flc, .rf, .pwr] s (commitNow s x1) := by
  unfold commitNow
  dsimp only
  with_reducible refine Keeps.step ?_ (updRf_keeps ..) ?_
  with_reducible refine Keeps.step ?_ (settleCharges_keeps ..) ?_
  with_reducible refine Keeps.step ?_ (stepCommit_keeps ..) ?_
  exact Keeps.refl _
  rfl
  rfl
  rfl

theorem discardNow_keeps (s : State) (x1 : Nat) :
    Keeps [.free, .tiles, .routers, .engines, .regions, .fns, .basin, .poison, .bsn, .scans, .bundles, .bundleSeq, .recorder, .flt, .idn, .outbox, .msis, .rep, .flc, .rf, .pwr] s (discardNow s x1) := by
  unfold discardNow
  with_reducible refine Keeps.step ?_ (withRegion_keeps (L := [.free, .tiles, .routers, .engines, .regions, .fns, .basin, .poison, .bsn, .scans, .bundles, .bundleSeq, .recorder, .flt, .idn, .outbox, .msis, .rep, .flc, .rf, .pwr]) (rfl) _ _ _ ?_) (sub_refl _)
  exact Keeps.refl _
  intro y2
  dsimp only
  with_reducible refine Keeps.step ?_ (settleCharges_keeps ..) ?_
  with_reducible refine Keeps.step ?_ (stepDiscard_keeps ..) ?_
  with_reducible refine Keeps.ite ?_ ?_
  with_reducible refine Keeps.step ?_ (captureRegion_keeps ..) ?_
  exact Keeps.refl _
  rfl
  exact Keeps.refl _
  rfl
  rfl

end Sys2Proof.Machine
end

