-- ==== Sys2Proof/Laws/MeshRows.lean ====
section
/-! SUPPORT. What the operations of Machine/MeshRows.lean may change: for each, the parts of the state. -/

namespace Sys2Proof.Machine

theorem chargeRouter_keeps (s : State) (x1 : Nat) (x2 : Nat) (x3 : Nat) (x4 : Nat) :
    Keeps [.tiles, .routers, .engines, .regions, .fns, .recorder, .flt, .idn, .outbox, .msis, .rep, .flc, .rf, .pwr] s (chargeRouter s x1 x2 x3 x4) := by
  unfold chargeRouter
  dsimp only
  with_reducible refine Keeps.step ?_ (charge_keeps ..) ?_
  exact Keeps.refl _
  rfl

theorem flitUe_keeps (s : State) (x1 : Nat) (x2 : Nat) (x3 : Nat) (x4 : Nat) :
    Keeps [.tiles, .routers, .engines, .regions, .fns, .recorder, .flt, .idn, .outbox, .msis, .rep, .flc, .rf, .pwr] s (flitUe s x1 x2 x3 x4) := by
  unfold flitUe
  with_reducible refine Keeps.ite ?_ ?_
  exact Keeps.refl _
  dsimp only
  with_reducible refine Keeps.step ?_ (chargeRouter_keeps ..) ?_
  with_reducible refine Keeps.step ?_ (posEvent_keeps ..) ?_
  with_reducible refine Keeps.step ?_ (countAt_keeps ..) ?_
  with_reducible refine Keeps.step ?_ (dequeue_keeps ..) ?_
  exact Keeps.refl _
  rfl
  rfl
  rfl
  rfl

theorem forwardClean_keeps (s : State) (x1 : Nat) (x2 : Nat) (x3 : Nat) (x4 : Nat) :
    Keeps [.tiles, .routers, .engines, .regions, .fns, .recorder, .flt, .idn, .outbox, .msis, .rep, .flc, .rf, .pwr] s (forwardClean s x1 x2 x3 x4) := by
  unfold forwardClean
  dsimp only
  with_reducible refine Keeps.ite ?_ ?_
  with_reducible refine Keeps.step ?_ (chargeRouter_keeps ..) ?_
  with_reducible refine Keeps.step ?_ (packetForward_keeps ..) ?_
  exact Keeps.refl _
  rfl
  rfl
  with_reducible refine Keeps.step ?_ (packetForward_keeps ..) ?_
  exact Keeps.refl _
  rfl

theorem forwardFound_keeps (s : State) (x1 : Nat) (x2 : Nat) (x3 : Nat) (x4 : Nat) (x5 : Option EccFind) :
    Keeps [.tiles, .routers, .engines, .regions, .fns, .recorder, .flt, .idn, .outbox, .msis, .rep, .flc, .rf, .pwr] s (forwardFound s x1 x2 x3 x4 x5) := by
  unfold forwardFound
  split
  with_reducible refine Keeps.step ?_ (flitUe_keeps ..) ?_
  exact Keeps.refl _
  rfl
  with_reducible refine Keeps.step ?_ (forwardClean_keeps ..) ?_
  with_reducible refine Keeps.step ?_ (countAt_keeps ..) ?_
  exact Keeps.refl _
  rfl
  rfl
  with_reducible refine Keeps.step ?_ (forwardClean_keeps ..) ?_
  exact Keeps.refl _
  rfl

theorem execPacketForward_keeps (x0 : Nat) (x1 : Nat) (x2 : Nat) (x3 : Nat) (s : State) (x5 : Option EccFind) :
    KeepsOut [.tiles, .routers, .engines, .regions, .fns, .recorder, .flt, .idn, .outbox, .msis, .rep, .flc, .rf, .pwr] s (execPacketForward x0 x1 x2 x3 s x5) := by
  unfold execPacketForward
  refine needUnit_keeps ?_
  refine KeepsOut.next ?_
  with_reducible refine Keeps.step ?_ (forwardFound_keeps ..) ?_
  exact Keeps.refl _
  rfl

theorem linkReport_keeps (s : State) (x1 : Nat) (x2 : Nat) :
    Keeps [.fab] s (linkReport s x1 x2) := by
  unfold linkReport
  with_reducible refine Keeps.set_fab (rfl) ?_ ?_ ?_
  with_reducible exact fun h => ⟨h.1, h.2, h.3, h.4, h.5, h.6, h.7, h.8, h.9, h.10⟩
  exact ⟨Nat.le_refl _, Nat.le_refl _, rfl, rfl, rfl, rfl, rfl⟩
  exact Keeps.refl _

theorem execLinkDead_keeps (x0 : Nat) (x1 : Nat) (s : State) :
    KeepsOut [.routers, .fab] s (execLinkDead x0 x1 s) := by
  unfold execLinkDead
  refine needUnit_keeps ?_
  refine KeepsOut.next ?_
  with_reducible refine Keeps.step ?_ (linkReport_keeps ..) ?_
  with_reducible refine Keeps.step ?_ (updRouter_keeps ..) ?_
  exact Keeps.refl _
  rfl
  rfl

theorem writeEntry_keeps (s : State) (x1 : Nat) (x2 : Nat) (x3 : Nat) (x4 : Nat) :
    Keeps [.routers] s (writeEntry s x1 x2 x3 x4) := by
  unfold writeEntry
  with_reducible refine Keeps.ite ?_ ?_
  with_reducible refine Keeps.step ?_ (updRouter_keeps ..) ?_
  exact Keeps.refl _
  rfl
  exact Keeps.refl _

theorem cfgWrite_keeps (s : State) (x1 : Nat) (x2 : Packet) (x3 : Option RouterReg) :
    Keeps [.tiles, .routers] s (cfgWrite s x1 x2 x3) := by
  unfold cfgWrite
  dsimp only
  split
  with_reducible refine Keeps.step ?_ (setTilePos_keeps ..) ?_
  exact Keeps.refl _
  rfl
  with_reducible refine Keeps.step ?_ (setTilePos_keeps ..) ?_
  exact Keeps.refl _
  rfl
  with_reducible refine Keeps.ite ?_ ?_
  with_reducible refine Keeps.step ?_ (setTilePos_keeps ..) ?_
  exact Keeps.refl _
  rfl
  exact Keeps.refl _
  with_reducible refine Keeps.step ?_ (writeEntry_keeps ..) ?_
  exact Keeps.refl _
  rfl
  with_reducible refine Keeps.step ?_ (updRouter_keeps ..) ?_
  exact Keeps.refl _
  rfl
  with_reducible refine Keeps.step ?_ (setTilePos_keeps ..) ?_
  exact Keeps.refl _
  rfl

theorem execCfgPacketRx_keeps (x0 : Nat) (s : State) (x2 : Option RouterReg) (x3 : Option (Nat × List Byte)) :
    KeepsOut [.tiles, .routers] s (execCfgPacketRx x0 s x2 x3) := by
  unfold execCfgPacketRx
  refine needUnit_keeps ?_
  split
  refine KeepsOut.next ?_
  with_reducible refine Keeps.ite ?_ ?_
  with_reducible refine Keeps.step ?_ (cfgWrite_keeps ..) ?_
  exact Keeps.refl _
  rfl
  exact Keeps.refl _
  split
  refine KeepsOut.next ?_
  exact Keeps.refl _
  refine KeepsOut.next ?_
  with_reducible refine Keeps.step ?_ (cfgWrite_keeps ..) ?_
  with_reducible refine Keeps.step ?_ (takeInbox_keeps _ _ _ (_, _) (by assumption)) ?_
  exact Keeps.refl _
  rfl
  rfl

theorem rippleUe_keeps (s : State) (x1 : Nat) :
    Keeps [.tiles, .routers, .engines, .regions, .fns, .recorder, .flt, .idn, .outbox, .msis, .rep, .flc, .rf, .pwr] s (rippleUe s x1) := by
  unfold rippleUe
  with_reducible refine Keeps.step ?_ (chargeRouter_keeps ..) ?_
  with_reducible refine Keeps.step ?_ (posEvent_keeps ..) ?_
  exact Keeps.refl _
  rfl
  rfl

theorem pushRouters_keeps (s : State) (x1 : List Nat) :
    Keeps [.routers] s (pushRouters s x1) := by
  unfold pushRouters
  with_reducible refine Keeps.set_routers (rfl) ?_
  exact Keeps.refl _

theorem rippleTake_keeps (s : State) (x1 : Ripple) (x2 : List Nat) :
    Keeps [.tiles, .routers, .engines, .regions, .fns, .recorder, .flt, .idn, .outbox, .msis, .rep, .flc, .rf, .pwr] s (rippleTake s x1 x2).2 := by
  unfold rippleTake
  dsimp only
  with_reducible refine Keeps.foldl ?_ ?_
  with_reducible refine Keeps.step ?_ (pushRouters_keeps ..) ?_
  exact Keeps.refl _
  rfl
  intro y5
  intro y6
  with_reducible refine Keeps.step ?_ (rippleUe_keeps ..) ?_
  exact Keeps.refl _
  rfl

theorem rippleAgain_keeps (s : State) (x1 : RippleKind) (x2 : Ripple) (x3 : List Nat) :
    Keeps [.fab] s (rippleAgain s x1 x2 x3) := by
  unfold rippleAgain
  dsimp only
  with_reducible refine Keeps.set_fab (rfl) ?_ ?_ ?_
  with_reducible exact fun h => ⟨h.1, h.2, h.3, h.4, h.5, h.6, h.7, h.8, h.9, h.10⟩
  exact ⟨Nat.le_refl _, Nat.le_refl _, rfl, rfl, rfl, rfl, rfl⟩
  exact Keeps.refl _

theorem rippleFail_keeps (s : State) (x1 : List Nat) :
    Keeps [.regions, .outbox] s (rippleFail s x1) := by
  unfold rippleFail
  with_reducible refine Keeps.foldl ?_ ?_
  exact Keeps.refl _
  intro y2
  intro y3
  with_reducible refine Keeps.step ?_ (failStep_keeps ..) ?_
  exact Keeps.refl _
  rfl

theorem rippleWrite_keeps (s : State) (x1 : List Nat) (x2 : Ripple) :
    Keeps [.tiles] s (rippleWrite s x1 x2) := by
  unfold rippleWrite
  with_reducible refine Keeps.foldl ?_ ?_
  exact Keeps.refl _
  intro y2
  intro y3
  with_reducible refine Keeps.step ?_ (setTilePos_keeps ..) ?_
  exact Keeps.refl _
  rfl

theorem rippleCtl_keeps (s : State) (x1 : Ripple) (x2 : List Nat) :
    Keeps [.tiles, .routers, .engines, .regions, .fns, .recorder, .flt, .idn, .outbox, .msis, .rep, .flc, .rf, .pwr] s (rippleCtl s x1 x2) := by
  unfold rippleCtl
  dsimp only
  with_reducible refine Keeps.ite ?_ ?_
  with_reducible refine Keeps.step ?_ (rippleWrite_keeps ..) ?_
  with_reducible refine Keeps.step ?_ (rippleTake_keeps ..) ?_
  exact Keeps.refl _
  rfl
  rfl
  with_reducible refine Keeps.step ?_ (rippleTake_keeps ..) ?_
  exact Keeps.refl _
  rfl

theorem rippleOperand_keeps (s : State) (x1 : Ripple) (x2 : List Nat) :
    Keeps [.tiles, .routers, .engines, .regions, .fns, .recorder, .flt, .idn, .outbox, .msis, .rep, .flc, .rf, .pwr] s (rippleOperand s x1 x2) := by
  unfold rippleOperand
  dsimp only
  with_reducible refine Keeps.step ?_ (rippleFail_keeps ..) ?_
  with_reducible refine Keeps.ite ?_ ?_
  with_reducible refine Keeps.foldl ?_ ?_
  with_reducible refine Keeps.ite ?_ ?_
  with_reducible refine Keeps.step ?_ (rippleWrite_keeps ..) ?_
  with_reducible refine Keeps.step ?_ (rippleTake_keeps ..) ?_
  exact Keeps.refl _
  rfl
  rfl
  with_reducible refine Keeps.step ?_ (rippleTake_keeps ..) ?_
  exact Keeps.refl _
  rfl
  intro y13
  intro y14
  with_reducible refine Keeps.ite ?_ ?_
  with_reducible refine Keeps.step ?_ (arriveAt_keeps ..) ?_
  exact Keeps.refl _
  rfl
  exact Keeps.refl _
  with_reducible refine Keeps.ite ?_ ?_
  with_reducible refine Keeps.step ?_ (rippleWrite_keeps ..) ?_
  with_reducible refine Keeps.step ?_ (rippleTake_keeps ..) ?_
  exact Keeps.refl _
  rfl
  rfl
  with_reducible refine Keeps.step ?_ (rippleTake_keeps ..) ?_
  exact Keeps.refl _
  rfl
  rfl

theorem epochFlip_keeps (s : State) :
    Keeps [.routers, .regions, .fns, .recorder, .activeEpoch, .v0, .v1, .quiet, .flt, .msis, .fab] s (epochFlip s) := by
  unfold epochFlip
  with_reducible refine Keeps.ite ?_ ?_
  exact Keeps.refl _
  with_reducible refine Keeps.ite ?_ ?_
  with_reducible refine Keeps.step ?_ (tryFlip_keeps ..) ?_
  exact Keeps.refl _
  rfl
  with_reducible refine Keeps.ite ?_ ?_
  with_reducible refine Keeps.step ?_ (plannedFlip_keeps ..) ?_
  exact Keeps.refl _
  rfl
  exact Keeps.refl _

theorem rippleTable_keeps (s : State) (x1 : Ripple) (x2 : List Nat) :
    Keeps [.tiles, .routers, .engines, .regions, .fns, .recorder, .flt, .idn, .outbox, .msis, .rep, .flc, .rf, .pwr] s (rippleTable s x1 x2) := by
  unfold rippleTable
  dsimp only
  with_reducible refine Keeps.ite ?_ ?_
  with_reducible refine Keeps.foldl ?_ ?_
  with_reducible refine Keeps.step ?_ (rippleTake_keeps ..) ?_
  exact Keeps.refl _
  rfl
  intro y6
  intro y7
  with_reducible refine Keeps.step ?_ (updRouter_keeps ..) ?_
  exact Keeps.refl _
  rfl
  with_reducible refine Keeps.step ?_ (rippleTake_keeps ..) ?_
  exact Keeps.refl _
  rfl

theorem rippleDo_keeps (s : State) (x1 : RippleKind) (x2 : Ripple) (x3 : List Nat) :
    Keeps [.tiles, .routers, .engines, .regions, .fns, .recorder, .activeEpoch, .v0, .v1, .quiet, .flt, .idn, .outbox, .msis, .rep, .flc, .rf, .fab, .pwr] s (rippleDo s x1 x2 x3) := by
  unfold rippleDo
  split
  with_reducible refine Keeps.step ?_ (rippleAgain_keeps ..) ?_
  with_reducible refine Keeps.step ?_ (rippleCtl_keeps ..) ?_
  exact Keeps.refl _
  rfl
  rfl
  with_reducible refine Keeps.step ?_ (rippleAgain_keeps ..) ?_
  with_reducible refine Keeps.step ?_ (rippleCtl_keeps ..) ?_
  exact Keeps.refl _
  rfl
  rfl
  with_reducible refine Keeps.step ?_ (rippleOperand_keeps ..) ?_
  exact Keeps.refl _
  rfl
  with_reducible refine Keeps.step ?_ (rippleFail_keeps ..) ?_
  with_reducible refine Keeps.step ?_ (rippleTake_keeps ..) ?_
  exact Keeps.refl _
  rfl
  rfl
  with_reducible refine Keeps.step ?_ (epochFlip_keeps ..) ?_
  with_reducible refine Keeps.step ?_ (rippleTake_keeps ..) ?_
  exact Keeps.refl _
  rfl
  rfl
  with_reducible refine Keeps.step ?_ (rippleAgain_keeps ..) ?_
  with_reducible refine Keeps.step ?_ (rippleTable_keeps ..) ?_
  exact Keeps.refl _
  rfl
  rfl

theorem rippleRow_keeps (s : State) (x1 : RippleKind) (x2 : Ripple) (x3 : List Nat) :
    KeepsOut [.tiles, .routers, .engines, .regions, .fns, .recorder, .activeEpoch, .v0, .v1, .quiet, .flt, .idn, .outbox, .msis, .rep, .flc, .rf, .fab, .pwr] s (rippleRow s x1 x2 x3) := by
  unfold rippleRow
  refine KeepsOut.next ?_
  with_reducible refine Keeps.ite ?_ ?_
  with_reducible refine Keeps.step ?_ (rippleDo_keeps ..) ?_
  exact Keeps.refl _
  rfl
  with_reducible refine Keeps.set_fab (rfl) ?_ ?_ ?_
  with_reducible exact fun h => ⟨h.1, h.2, h.3, h.4, h.5, h.6, h.7, h.8, h.9, h.10⟩
  exact ⟨Nat.le_refl _, Nat.le_refl _, rfl, rfl, rfl, rfl, rfl⟩
  exact Keeps.refl _

theorem pumpRipple_keeps (s : State) :
    Keeps [.tiles, .routers, .engines, .regions, .fns, .recorder, .activeEpoch, .v0, .v1, .quiet, .flt, .idn, .outbox, .msis, .rep, .flc, .rf, .fab, .pwr] s (pumpRipple s) := by
  unfold pumpRipple
  split
  exact Keeps.refl _
  with_reducible refine Keeps.ite ?_ ?_
  exact Keeps.refl _
  with_reducible refine Keeps.step ?_ (rippleDo_keeps ..) ?_
  with_reducible refine Keeps.set_fab (rfl) ?_ ?_ ?_
  with_reducible exact fun h => ⟨h.1, h.2, h.3, h.4, h.5, h.6, h.7, h.8, h.9, h.10⟩
  exact ⟨Nat.le_refl _, Nat.le_refl _, rfl, rfl, rfl, rfl, rfl⟩
  exact Keeps.refl _
  rfl

theorem execRippleCfgWrite_keeps (x0 : Ripple) (x1 : List Nat) (s : State) :
    KeepsOut [.tiles, .routers, .engines, .regions, .fns, .recorder, .activeEpoch, .v0, .v1, .quiet, .flt, .idn, .outbox, .msis, .rep, .flc, .rf, .fab, .pwr] s (execRippleCfgWrite x0 x1 s) := by
  unfold execRippleCfgWrite
  with_reducible refine KeepsOut.step ?_ (rippleRow_keeps ..) ?_
  exact Keeps.refl _
  rfl

theorem execRippleFirmware_keeps (x0 : Ripple) (x1 : List Nat) (s : State) :
    KeepsOut [.tiles, .routers, .engines, .regions, .fns, .recorder, .activeEpoch, .v0, .v1, .quiet, .flt, .idn, .outbox, .msis, .rep, .flc, .rf, .fab, .pwr] s (execRippleFirmware x0 x1 s) := by
  unfold execRippleFirmware
  with_reducible refine KeepsOut.step ?_ (rippleRow_keeps ..) ?_
  exact Keeps.refl _
  rfl

theorem execRippleOperand_keeps (x0 : Ripple) (x1 : List Nat) (s : State) :
    KeepsOut [.tiles, .routers, .engines, .regions, .fns, .recorder, .activeEpoch, .v0, .v1, .quiet, .flt, .idn, .outbox, .msis, .rep, .flc, .rf, .fab, .pwr] s (execRippleOperand x0 x1 s) := by
  unfold execRippleOperand
  with_reducible refine KeepsOut.step ?_ (rippleRow_keeps ..) ?_
  exact Keeps.refl _
  rfl

theorem execRippleStepStart_keeps (x0 : Ripple) (x1 : List Nat) (s : State) :
    KeepsOut [.tiles, .routers, .engines, .regions, .fns, .recorder, .activeEpoch, .v0, .v1, .quiet, .flt, .idn, .outbox, .msis, .rep, .flc, .rf, .fab, .pwr] s (execRippleStepStart x0 x1 s) := by
  unfold execRippleStepStart
  with_reducible refine KeepsOut.step ?_ (rippleRow_keeps ..) ?_
  exact Keeps.refl _
  rfl

theorem execRippleEpochFlip_keeps (x0 : Ripple) (x1 : List Nat) (s : State) :
    KeepsOut [.tiles, .routers, .engines, .regions, .fns, .recorder, .activeEpoch, .v0, .v1, .quiet, .flt, .idn, .outbox, .msis, .rep, .flc, .rf, .fab, .pwr] s (execRippleEpochFlip x0 x1 s) := by
  unfold execRippleEpochFlip
  with_reducible refine KeepsOut.step ?_ (rippleRow_keeps ..) ?_
  exact Keeps.refl _
  rfl

theorem execRippleTableWrite_keeps (x0 : Ripple) (x1 : List Nat) (s : State) :
    KeepsOut [.tiles, .routers, .engines, .regions, .fns, .recorder, .activeEpoch, .v0, .v1, .quiet, .flt, .idn, .outbox, .msis, .rep, .flc, .rf, .fab, .pwr] s (execRippleTableWrite x0 x1 s) := by
  unfold execRippleTableWrite
  with_reducible refine KeepsOut.step ?_ (rippleRow_keeps ..) ?_
  exact Keeps.refl _
  rfl

end Sys2Proof.Machine
end

