-- ==== Sys2Proof/Laws/Receive.lean ====
section
/-! SUPPORT. What the operations of Machine/Receive.lean may change: for each, the parts of the state. -/

namespace Sys2Proof.Machine

theorem higherAttempt_keeps (s : State) (x1 : Nat) :
    Keeps [.free, .tiles, .routers, .engines, .regions, .fns, .basin, .poison, .bsn, .scans, .bundles, .bundleSeq, .recorder, .flt, .idn, .outbox, .msis, .rep, .flc, .rf, .pwr] s (higherAttempt s x1) := by
  unfold higherAttempt
  with_reducible refine Keeps.step ?_ (withRegion_keeps (L := [.free, .tiles, .routers, .engines, .regions, .fns, .basin, .poison, .bsn, .scans, .bundles, .bundleSeq, .recorder, .flt, .idn, .outbox, .msis, .rep, .flc, .rf, .pwr]) (rfl) _ _ _ ?_) (sub_refl _)
  exact Keeps.refl _
  intro y2
  with_reducible refine Keeps.ite ?_ ?_
  exact Keeps.refl _
  with_reducible refine Keeps.step ?_ (discardNow_keeps ..) ?_
  exact Keeps.refl _
  rfl

theorem ackTo_keeps (s : State) (x1 : Nat) (x2 : Packet) :
    Keeps [.routers] s (ackTo s x1 x2) := by
  unfold ackTo
  with_reducible refine Keeps.step ?_ (answer_keeps ..) ?_
  exact Keeps.refl _
  rfl

theorem nackTo_keeps (s : State) (x1 : Nat) (x2 : Packet) (x3 : Nat) :
    Keeps [.tiles, .routers] s (nackTo s x1 x2 x3) := by
  unfold nackTo
  dsimp only
  with_reducible refine Keeps.step ?_ (answer_keeps ..) ?_
  with_reducible refine Keeps.step ?_ (updTile_keeps ..) ?_
  exact Keeps.refl _
  rfl
  rfl

theorem answerOutcome_keeps (s : State) (x1 : Nat) (x2 : Packet) (x3 : Nat) :
    Keeps [.tiles, .routers] s (answerOutcome s x1 x2 x3) := by
  unfold answerOutcome
  with_reducible refine Keeps.ite ?_ ?_
  with_reducible refine Keeps.step ?_ (ackTo_keeps ..) ?_
  exact Keeps.refl _
  rfl
  with_reducible refine Keeps.step ?_ (nackTo_keeps ..) ?_
  exact Keeps.refl _
  rfl

theorem countTileR_keeps (s : State) (x1 : Nat) (x2 : RCnt) :
    Keeps [.routers] s (countTileR s x1 x2) := by
  unfold countTileR
  with_reducible refine Keeps.step ?_ (countAt_keeps ..) ?_
  exact Keeps.refl _
  rfl

theorem sendFlowCtl_keeps (s : State) (x1 : Nat) (x2 : Packet) (x3 : Nat) :
    Keeps [.routers] s (sendFlowCtl s x1 x2 x3) := by
  unfold sendFlowCtl
  dsimp only
  with_reducible refine Keeps.step ?_ (answer_keeps ..) ?_
  with_reducible refine Keeps.ite ?_ ?_
  with_reducible refine Keeps.step ?_ (countTileR_keeps ..) ?_
  exact Keeps.refl _
  rfl
  exact Keeps.refl _
  rfl

theorem releaseFrom_keeps (x0 : Nat) (s : State) (x2 : Nat) (x3 : RxFlow) (x4 : Packet) :
    Keeps [.routers] s (releaseFrom x0 s x2 x3 x4).1 := by
  induction x0 generalizing s x2 x3 x4 with
  | zero => exact Keeps.refl _
  | succ n ih =>
    rw [releaseFrom]
    split
    dsimp only
    exact Keeps.refl _
    dsimp only
    split
    with_reducible refine Keeps.step ?_ (ih ..) (sub_refl _)
    with_reducible refine Keeps.step ?_ (ackTo_keeps ..) ?_
    exact Keeps.refl _
    rfl
    dsimp only
    with_reducible refine Keeps.step ?_ (ackTo_keeps ..) ?_
    exact Keeps.refl _
    rfl

theorem noteXon_keeps (s : State) (x1 : Nat) (x2 : RxFlow) (x3 : Packet) :
    Keeps [.routers] s (noteXon s x1 x2 x3).1 := by
  unfold noteXon
  split
  dsimp only
  with_reducible refine Keeps.step ?_ (sendFlowCtl_keeps ..) ?_
  exact Keeps.refl _
  rfl
  dsimp only
  exact Keeps.refl _

theorem flowPacket_keeps (s : State) (x1 : Nat) (x2 : RxFlow) (x3 : Packet) :
    Keeps [.tiles, .routers] s (flowPacket s x1 x2 x3).1 := by
  unfold flowPacket
  dsimp only
  split
  split
  dsimp only
  with_reducible refine Keeps.step ?_ (updTile_keeps ..) ?_
  with_reducible refine Keeps.step ?_ (noteXon_keeps ..) ?_
  with_reducible refine Keeps.step ?_ (releaseFrom_keeps ..) ?_
  with_reducible refine Keeps.step ?_ (updTile_keeps ..) ?_
  exact Keeps.refl _
  rfl
  rfl
  rfl
  rfl
  dsimp only
  with_reducible refine Keeps.step ?_ (updTile_keeps ..) ?_
  with_reducible refine Keeps.step ?_ (noteXon_keeps ..) ?_
  with_reducible refine Keeps.step ?_ (releaseFrom_keeps ..) ?_
  with_reducible refine Keeps.step ?_ (updTile_keeps ..) ?_
  exact Keeps.refl _
  rfl
  rfl
  rfl
  rfl
  split
  split
  dsimp only
  with_reducible refine Keeps.step ?_ (countTileR_keeps ..) ?_
  exact Keeps.refl _
  rfl
  split
  dsimp only
  with_reducible refine Keeps.step ?_ (nackTo_keeps ..) ?_
  with_reducible refine Keeps.step ?_ (countTileR_keeps ..) ?_
  exact Keeps.refl _
  rfl
  rfl
  dsimp only
  with_reducible refine Keeps.ite ?_ ?_
  with_reducible refine Keeps.step ?_ (sendFlowCtl_keeps ..) ?_
  with_reducible refine Keeps.step ?_ (updTile_keeps ..) ?_
  exact Keeps.refl _
  rfl
  rfl
  with_reducible refine Keeps.step ?_ (updTile_keeps ..) ?_
  exact Keeps.refl _
  rfl
  dsimp only
  with_reducible refine Keeps.step ?_ (ackTo_keeps ..) ?_
  with_reducible refine Keeps.step ?_ (countTileR_keeps ..) ?_
  exact Keeps.refl _
  rfl
  rfl

theorem takePacket_keeps (s : State) (x1 : Nat) (x2 : Packet) :
    Keeps [.free, .tiles, .routers, .engines, .regions, .fns, .basin, .poison, .bsn, .scans, .bundles, .bundleSeq, .recorder, .flt, .idn, .outbox, .msis, .rep, .flc, .rf, .pwr] s (takePacket s x1 x2).1 := by
  unfold takePacket
  dsimp only
  split
  dsimp only
  with_reducible refine Keeps.step ?_ (nackTo_keeps ..) ?_
  exact Keeps.refl _
  rfl
  dsimp only
  with_reducible refine Keeps.ite ?_ ?_
  with_reducible refine Keeps.step ?_ (higherAttempt_keeps ..) ?_
  with_reducible refine Keeps.step ?_ (nackTo_keeps ..) ?_
  exact Keeps.refl _
  rfl
  rfl
  with_reducible refine Keeps.step ?_ (nackTo_keeps ..) ?_
  exact Keeps.refl _
  rfl
  split
  dsimp only
  with_reducible refine Keeps.step ?_ (answerOutcome_keeps ..) ?_
  with_reducible refine Keeps.step ?_ (countTileR_keeps ..) ?_
  exact Keeps.refl _
  rfl
  rfl
  split
  split
  dsimp only
  with_reducible refine Keeps.step ?_ (nackTo_keeps ..) ?_
  with_reducible refine Keeps.step ?_ (updTile_keeps ..) ?_
  exact Keeps.refl _
  rfl
  rfl
  with_reducible refine Keeps.step ?_ (flowPacket_keeps ..) ?_
  exact Keeps.refl _
  rfl
  split
  dsimp only
  with_reducible refine Keeps.step ?_ (failStep_keeps ..) ?_
  with_reducible refine Keeps.step ?_ (updTile_keeps ..) ?_
  exact Keeps.refl _
  rfl
  rfl
  split
  dsimp only
  with_reducible refine Keeps.step ?_ (nackTo_keeps ..) ?_
  with_reducible refine Keeps.step ?_ (updTile_keeps ..) ?_
  exact Keeps.refl _
  rfl
  rfl
  split
  dsimp only
  with_reducible refine Keeps.step ?_ (nackTo_keeps ..) ?_
  with_reducible refine Keeps.step ?_ (countTileR_keeps ..) ?_
  exact Keeps.refl _
  rfl
  rfl
  with_reducible refine Keeps.step ?_ (flowPacket_keeps ..) ?_
  with_reducible refine Keeps.step ?_ (updTile_keeps ..) ?_
  exact Keeps.refl _
  rfl
  rfl

theorem withInbox_keeps {L : List Part} (hL : sub [.tiles, .routers] L = true) (s : State) (x1 : Nat) (x2 : Packet → Bool) (x3 : State → Packet → State) (h3 : ∀ a0 a1, Keeps L a0 (x3 a0 a1)) :
    KeepsOut L s (withInbox s x1 x2 x3) := by
  unfold withInbox
  refine needUnit_keeps ?_
  dsimp only
  split
  refine KeepsOut.next ?_
  exact Keeps.refl _
  split
  split
  refine KeepsOut.next ?_
  exact Keeps.refl _
  refine KeepsOut.next ?_
  with_reducible refine Keeps.step ?_ (h3 ..) (sub_refl _)
  with_reducible refine Keeps.step ?_ (updTile_keeps ..) ?_
  with_reducible refine Keeps.step ?_ (takeInbox_keeps _ _ _ _ (by assumption)) ?_
  exact Keeps.refl _
  exact sub_trans rfl hL
  exact sub_trans rfl hL
  refine KeepsOut.next ?_
  exact Keeps.refl _

theorem acceptXfer_keeps (s : State) (x1 : Nat) (x2 : RxFlow) (x3 : Packet) :
    Keeps [.tiles, .routers] s (acceptXfer s x1 x2 x3) := by
  unfold acceptXfer
  with_reducible refine Keeps.step ?_ (ackTo_keeps ..) ?_
  with_reducible refine Keeps.step ?_ (updTile_keeps ..) ?_
  exact Keeps.refl _
  rfl
  rfl

theorem refuseXfer_keeps (s : State) (x1 : Nat) (x2 : RxFlow) (x3 : Packet) (x4 : Nat) :
    Keeps [.tiles, .routers] s (refuseXfer s x1 x2 x3 x4) := by
  unfold refuseXfer
  with_reducible refine Keeps.step ?_ (nackTo_keeps ..) ?_
  with_reducible refine Keeps.step ?_ (updTile_keeps ..) ?_
  exact Keeps.refl _
  rfl
  rfl

theorem writePacket_keeps (s : State) (x1 : Nat) (x2 : Packet) :
    Keeps [.free, .tiles, .routers, .engines, .regions, .fns, .basin, .poison, .bsn, .scans, .bundles, .bundleSeq, .recorder, .flt, .idn, .outbox, .msis, .rep, .flc, .rf, .pwr] s (writePacket s x1 x2) := by
  unfold writePacket
  dsimp only
  split
  with_reducible refine Keeps.step ?_ (acceptXfer_keeps ..) ?_
  with_reducible refine Keeps.step ?_ (takePacket_keeps ..) ?_
  exact Keeps.refl _
  rfl
  rfl
  with_reducible refine Keeps.step ?_ (takePacket_keeps ..) ?_
  exact Keeps.refl _
  rfl

theorem writePacketRow_keeps (x0 : Nat) (s : State) :
    KeepsOut [.free, .tiles, .routers, .engines, .regions, .fns, .basin, .poison, .bsn, .scans, .bundles, .bundleSeq, .recorder, .flt, .idn, .outbox, .msis, .rep, .flc, .rf, .pwr] s (writePacketRow x0 s) := by
  unfold writePacketRow
  with_reducible refine KeepsOut.step ?_ (withInbox_keeps (L := [.free, .tiles, .routers, .engines, .regions, .fns, .basin, .poison, .bsn, .scans, .bundles, .bundleSeq, .recorder, .flt, .idn, .outbox, .msis, .rep, .flc, .rf, .pwr]) (rfl) _ _ _ _ ?_) (sub_refl _)
  exact Keeps.refl _
  intro y2
  intro y3
  with_reducible refine Keeps.step ?_ (writePacket_keeps ..) ?_
  exact Keeps.refl _
  rfl

theorem readReq_keeps (s : State) (x1 : Nat) (x2 : Packet) :
    Keeps [.free, .tiles, .routers, .engines, .regions, .fns, .basin, .poison, .bsn, .scans, .bundles, .bundleSeq, .recorder, .flt, .idn, .outbox, .msis, .rep, .flc, .rf, .pwr] s (readReq s x1 x2) := by
  unfold readReq
  dsimp only
  split
  with_reducible refine Keeps.step ?_ (pumpTile_keeps ..) ?_
  with_reducible refine Keeps.step ?_ (updTile_keeps ..) ?_
  with_reducible refine Keeps.step ?_ (acceptXfer_keeps ..) ?_
  with_reducible refine Keeps.step ?_ (takePacket_keeps ..) ?_
  exact Keeps.refl _
  rfl
  rfl
  rfl
  rfl
  with_reducible refine Keeps.step ?_ (takePacket_keeps ..) ?_
  exact Keeps.refl _
  rfl

theorem endPart_keeps (s : State) (x1 : Nat) (x2 : Nat) (x3 : Nat) :
    Keeps [.tiles] s (endPart s x1 x2 x3) := by
  unfold endPart
  with_reducible refine Keeps.step ?_ (updTile_keeps ..) ?_
  exact Keeps.refl _
  rfl

theorem xferDone_keeps (s : State) (x1 : Nat) (x2 : Xfer) :
    Keeps [.tiles, .routers] s (xferDone s x1 x2) := by
  unfold xferDone
  dsimp only
  with_reducible refine Keeps.step ?_ (pumpTile_keeps ..) ?_
  with_reducible refine Keeps.step ?_ (endPart_keeps ..) ?_
  split
  with_reducible refine Keeps.ite ?_ ?_
  with_reducible refine Keeps.step ?_ (injectTile_keeps ..) ?_
  exact Keeps.refl _
  rfl
  with_reducible refine Keeps.step ?_ (injectTile_keeps ..) ?_
  exact Keeps.refl _
  rfl
  exact Keeps.refl _
  rfl
  rfl

theorem xferFailed_keeps (s : State) (x1 : Nat) (x2 : Xfer) (x3 : Nat) (x4 : Nat) :
    Keeps [.tiles, .routers, .regions, .outbox] s (xferFailed s x1 x2 x3 x4) := by
  unfold xferFailed
  dsimp only
  with_reducible refine Keeps.step ?_ (pumpTile_keeps ..) ?_
  with_reducible refine Keeps.step ?_ (failFired_keeps ..) ?_
  with_reducible refine Keeps.step ?_ (updTile_keeps ..) ?_
  exact Keeps.refl _
  rfl
  rfl
  rfl

theorem readData_keeps (s : State) (x1 : Nat) (x2 : Packet) :
    Keeps [.free, .tiles, .routers, .engines, .regions, .fns, .basin, .poison, .bsn, .scans, .bundles, .bundleSeq, .recorder, .flt, .idn, .outbox, .msis, .rep, .flc, .rf, .pwr] s (readData s x1 x2) := by
  unfold readData
  dsimp only
  split
  with_reducible refine Keeps.step ?_ (takePacket_keeps ..) ?_
  exact Keeps.refl _
  rfl
  split
  with_reducible refine Keeps.step ?_ (acceptXfer_keeps ..) ?_
  with_reducible refine Keeps.step ?_ (takePacket_keeps ..) ?_
  exact Keeps.refl _
  rfl
  rfl
  with_reducible refine Keeps.step ?_ (xferDone_keeps ..) ?_
  with_reducible refine Keeps.step ?_ (updTile_keeps ..) ?_
  with_reducible refine Keeps.step ?_ (acceptXfer_keeps ..) ?_
  with_reducible refine Keeps.step ?_ (takePacket_keeps ..) ?_
  exact Keeps.refl _
  rfl
  rfl
  rfl
  rfl

theorem readDataRow_keeps (x0 : Nat) (s : State) :
    KeepsOut [.free, .tiles, .routers, .engines, .regions, .fns, .basin, .poison, .bsn, .scans, .bundles, .bundleSeq, .recorder, .flt, .idn, .outbox, .msis, .rep, .flc, .rf, .pwr] s (readDataRow x0 s) := by
  unfold readDataRow
  with_reducible refine KeepsOut.step ?_ (withInbox_keeps (L := [.free, .tiles, .routers, .engines, .regions, .fns, .basin, .poison, .bsn, .scans, .bundles, .bundleSeq, .recorder, .flt, .idn, .outbox, .msis, .rep, .flc, .rf, .pwr]) (rfl) _ _ _ _ ?_) (sub_refl _)
  exact Keeps.refl _
  intro y2
  intro y3
  with_reducible refine Keeps.step ?_ (readData_keeps ..) ?_
  exact Keeps.refl _
  rfl

theorem syncPacketIn_keeps (s : State) (x1 : Nat) (x2 : Packet) :
    Keeps [.tiles, .fns, .recorder, .flt, .msis] s (syncPacketIn s x1 x2) := by
  unfold syncPacketIn
  dsimp only
  with_reducible refine Keeps.ite ?_ ?_
  exact Keeps.refl _
  with_reducible refine Keeps.ite ?_ ?_
  with_reducible refine Keeps.step ?_ (arriveAt_keeps ..) ?_
  exact Keeps.refl _
  rfl
  with_reducible refine Keeps.ite ?_ ?_
  with_reducible refine Keeps.step ?_ (updTile_keeps ..) ?_
  exact Keeps.refl _
  rfl
  exact Keeps.refl _

theorem execSyncPacketRx_keeps (x0 : Nat) (s : State) :
    KeepsOut [.tiles, .routers, .fns, .recorder, .flt, .msis] s (execSyncPacketRx x0 s) := by
  unfold execSyncPacketRx
  with_reducible refine KeepsOut.step ?_ (withInbox_keeps (L := [.tiles, .routers, .fns, .recorder, .flt, .msis]) (rfl) _ _ _ _ ?_) (sub_refl _)
  exact Keeps.refl _
  intro y2
  intro y3
  with_reducible refine Keeps.step ?_ (syncPacketIn_keeps ..) ?_
  exact Keeps.refl _
  rfl

theorem digestFailed_keeps (s : State) (x1 : Nat) (x2 : Nat) (x3 : Nat) (x4 : Nat) (x5 : Nat) (x6 : Nat) (x7 : Nat) (x8 : Nat) (x9 : Nat) (x10 : Nat) (x11 : Nat) :
    Keeps [.regions, .fns, .recorder, .flt, .outbox, .msis, .rf] s (digestFailed s x1 x2 x3 x4 x5 x6 x7 x8 x9 x10 x11) := by
  unfold digestFailed
  dsimp only
  with_reducible refine Keeps.step ?_ (updRf_keeps ..) ?_
  with_reducible refine Keeps.step ?_ (failStep_keeps ..) ?_
  with_reducible refine Keeps.ite ?_ ?_
  with_reducible refine Keeps.step ?_ (tileEvent_keeps ..) ?_
  exact Keeps.refl _
  rfl
  with_reducible refine Keeps.step ?_ (postEvent_keeps ..) ?_
  exact Keeps.refl _
  rfl
  rfl
  rfl

theorem acceptMessage_keeps (s : State) (x1 : Nat) (x2 : RxFlow) (x3 : Packet) :
    Keeps [.tiles, .routers] s (acceptMessage s x1 x2 x3) := by
  unfold acceptMessage
  dsimp only
  with_reducible refine Keeps.step ?_ (acceptXfer_keeps ..) ?_
  with_reducible refine Keeps.step ?_ (updTile_keeps ..) ?_
  exact Keeps.refl _
  rfl
  rfl

theorem judgeMessage_keeps (s : State) (x1 : Nat) (x2 : RxFlow) (x3 : Packet) :
    Keeps [.tiles, .routers, .regions, .fns, .recorder, .flt, .outbox, .msis, .rf] s (judgeMessage s x1 x2 x3) := by
  unfold judgeMessage
  dsimp only
  split
  with_reducible refine Keeps.step ?_ (refuseXfer_keeps ..) ?_
  exact Keeps.refl _
  rfl
  split
  with_reducible refine Keeps.step ?_ (acceptMessage_keeps ..) ?_
  exact Keeps.refl _
  rfl
  with_reducible refine Keeps.step ?_ (refuseXfer_keeps ..) ?_
  exact Keeps.refl _
  rfl
  with_reducible refine Keeps.step ?_ (acceptMessage_keeps ..) ?_
  with_reducible refine Keeps.step ?_ (digestFailed_keeps ..) ?_
  exact Keeps.refl _
  rfl
  rfl

theorem messagePacket_keeps (s : State) (x1 : Nat) (x2 : Packet) :
    Keeps [.free, .tiles, .routers, .engines, .regions, .fns, .basin, .poison, .bsn, .scans, .bundles, .bundleSeq, .recorder, .flt, .idn, .outbox, .msis, .rep, .flc, .rf, .pwr] s (messagePacket s x1 x2) := by
  unfold messagePacket
  dsimp only
  split
  with_reducible refine Keeps.step ?_ (judgeMessage_keeps ..) ?_
  with_reducible refine Keeps.step ?_ (takePacket_keeps ..) ?_
  exact Keeps.refl _
  rfl
  rfl
  with_reducible refine Keeps.step ?_ (takePacket_keeps ..) ?_
  exact Keeps.refl _
  rfl

theorem msgPacketRow_keeps (x0 : Nat) (s : State) :
    KeepsOut [.free, .tiles, .routers, .engines, .regions, .fns, .basin, .poison, .bsn, .scans, .bundles, .bundleSeq, .recorder, .flt, .idn, .outbox, .msis, .rep, .flc, .rf, .pwr] s (msgPacketRow x0 s) := by
  unfold msgPacketRow
  with_reducible refine KeepsOut.step ?_ (withInbox_keeps (L := [.free, .tiles, .routers, .engines, .regions, .fns, .basin, .poison, .bsn, .scans, .bundles, .bundleSeq, .recorder, .flt, .idn, .outbox, .msis, .rep, .flc, .rf, .pwr]) (rfl) _ _ _ _ ?_) (sub_refl _)
  exact Keeps.refl _
  intro y2
  intro y3
  with_reducible refine Keeps.step ?_ (messagePacket_keeps ..) ?_
  exact Keeps.refl _
  rfl

theorem tryOwed_keeps (s : State) (x1 : Nat) :
    Keeps [.tiles] s (tryOwed s x1) := by
  unfold tryOwed
  with_reducible refine Keeps.step ?_ (updTile_keeps ..) ?_
  exact Keeps.refl _
  rfl

theorem expertDigest_keeps (s : State) (x1 : Nat) (x2 : RxFlow) (x3 : Packet) :
    Keeps [.regions, .fns, .recorder, .flt, .outbox, .msis, .rf] s (expertDigest s x1 x2 x3) := by
  unfold expertDigest
  dsimp only
  split
  with_reducible refine Keeps.step ?_ (digestFailed_keeps ..) ?_
  exact Keeps.refl _
  rfl
  exact Keeps.refl _

theorem expertAccept_keeps (s : State) (x1 : Nat) (x2 : RxFlow) (x3 : Packet) :
    Keeps [.tiles, .routers] s (expertAccept s x1 x2 x3) := by
  unfold expertAccept
  with_reducible refine Keeps.step ?_ (acceptXfer_keeps ..) ?_
  with_reducible refine Keeps.step ?_ (updTile_keeps ..) ?_
  exact Keeps.refl _
  rfl
  rfl

theorem expertRow_keeps (s : State) (x1 : Nat) (x2 : RxFlow) (x3 : Packet) (x4 : Nat) :
    Keeps [.tiles, .routers, .regions, .fns, .recorder, .flt, .outbox, .msis, .rf] s (expertRow s x1 x2 x3 x4) := by
  unfold expertRow
  with_reducible refine Keeps.ite ?_ ?_
  with_reducible refine Keeps.step ?_ (refuseXfer_keeps ..) ?_
  exact Keeps.refl _
  rfl
  split
  with_reducible refine Keeps.step ?_ (refuseXfer_keeps ..) ?_
  exact Keeps.refl _
  rfl
  with_reducible refine Keeps.step ?_ (expertAccept_keeps ..) ?_
  with_reducible refine Keeps.step ?_ (setTile_keeps ..) ?_
  with_reducible refine Keeps.step ?_ (expertDigest_keeps ..) ?_
  exact Keeps.refl _
  rfl
  rfl
  rfl

theorem expertClose_keeps (s : State) (x1 : Nat) (x2 : RxFlow) (x3 : Packet) (x4 : Nat) :
    Keeps [.tiles, .routers, .regions, .fns, .recorder, .flt, .outbox, .msis, .rf] s (expertClose s x1 x2 x3 x4) := by
  unfold expertClose
  with_reducible refine Keeps.step ?_ (expertAccept_keeps ..) ?_
  with_reducible refine Keeps.step ?_ (updTile_keeps ..) ?_
  with_reducible refine Keeps.step ?_ (expertDigest_keeps ..) ?_
  exact Keeps.refl _
  rfl
  rfl
  rfl

theorem expertPacket_keeps {L : List Part} (hL : sub [.free, .tiles, .routers, .engines, .regions, .fns, .basin, .poison, .bsn, .scans, .bundles, .bundleSeq, .recorder, .flt, .idn, .outbox, .msis, .rep, .flc, .rf, .pwr] L = true) (s : State) (x1 : Nat) (x2 : Packet) (x3 : State → Nat → RxFlow → Packet → Nat → State) (h3 : ∀ a0 a1 a2 a3 a4, Keeps L a0 (x3 a0 a1 a2 a3 a4)) :
    Keeps L s (expertPacket s x1 x2 x3) := by
  unfold expertPacket
  dsimp only
  split
  with_reducible refine Keeps.step ?_ (h3 ..) (sub_refl _)
  with_reducible refine Keeps.step ?_ (takePacket_keeps ..) ?_
  exact Keeps.refl _
  exact hL
  with_reducible refine Keeps.step ?_ (takePacket_keeps ..) ?_
  exact Keeps.refl _
  exact hL

theorem expertRowRow_keeps (x0 : Nat) (s : State) :
    KeepsOut [.free, .tiles, .routers, .engines, .regions, .fns, .basin, .poison, .bsn, .scans, .bundles, .bundleSeq, .recorder, .flt, .idn, .outbox, .msis, .rep, .flc, .rf, .pwr] s (expertRowRow x0 s) := by
  unfold expertRowRow
  with_reducible refine KeepsOut.step ?_ (withInbox_keeps (L := [.free, .tiles, .routers, .engines, .regions, .fns, .basin, .poison, .bsn, .scans, .bundles, .bundleSeq, .recorder, .flt, .idn, .outbox, .msis, .rep, .flc, .rf, .pwr]) (rfl) _ _ _ _ ?_) (sub_refl _)
  exact Keeps.refl _
  intro y2
  intro y3
  with_reducible refine Keeps.step ?_ (expertPacket_keeps (L := [.free, .tiles, .routers, .engines, .regions, .fns, .basin, .poison, .bsn, .scans, .bundles, .bundleSeq, .recorder, .flt, .idn, .outbox, .msis, .rep, .flc, .rf, .pwr]) (rfl) _ _ _ _ ?_) (sub_refl _)
  exact Keeps.refl _
  intro y6
  intro y7
  intro y8
  intro y9
  intro y10
  with_reducible refine Keeps.step ?_ (expertRow_keeps ..) ?_
  exact Keeps.refl _
  rfl

theorem expertCloseRow_keeps (x0 : Nat) (s : State) :
    KeepsOut [.free, .tiles, .routers, .engines, .regions, .fns, .basin, .poison, .bsn, .scans, .bundles, .bundleSeq, .recorder, .flt, .idn, .outbox, .msis, .rep, .flc, .rf, .pwr] s (expertCloseRow x0 s) := by
  unfold expertCloseRow
  with_reducible refine KeepsOut.step ?_ (withInbox_keeps (L := [.free, .tiles, .routers, .engines, .regions, .fns, .basin, .poison, .bsn, .scans, .bundles, .bundleSeq, .recorder, .flt, .idn, .outbox, .msis, .rep, .flc, .rf, .pwr]) (rfl) _ _ _ _ ?_) (sub_refl _)
  exact Keeps.refl _
  intro y2
  intro y3
  with_reducible refine Keeps.step ?_ (expertPacket_keeps (L := [.free, .tiles, .routers, .engines, .regions, .fns, .basin, .poison, .bsn, .scans, .bundles, .bundleSeq, .recorder, .flt, .idn, .outbox, .msis, .rep, .flc, .rf, .pwr]) (rfl) _ _ _ _ ?_) (sub_refl _)
  exact Keeps.refl _
  intro y6
  intro y7
  intro y8
  intro y9
  intro y10
  with_reducible refine Keeps.step ?_ (expertClose_keeps ..) ?_
  exact Keeps.refl _
  rfl

theorem putFlow_keeps (s : State) (x1 : Nat) (x2 : Nat) (x3 : TxFlow) :
    Keeps [.tiles] s (putFlow s x1 x2 x3) := by
  unfold putFlow
  with_reducible refine Keeps.step ?_ (updTile_keeps ..) ?_
  exact Keeps.refl _
  rfl

theorem settleFlow_keeps (s : State) (x1 : Nat) (x2 : Nat) (x3 : TxFlow) :
    Keeps [.tiles, .routers] s (settleFlow s x1 x2 x3) := by
  unfold settleFlow
  with_reducible refine Keeps.ite ?_ ?_
  with_reducible refine Keeps.step ?_ (pumpTile_keeps ..) ?_
  with_reducible refine Keeps.step ?_ (updTile_keeps ..) ?_
  exact Keeps.refl _
  rfl
  rfl
  with_reducible refine Keeps.ite ?_ ?_
  with_reducible refine Keeps.step ?_ (xferDone_keeps ..) ?_
  with_reducible refine Keeps.step ?_ (updTile_keeps ..) ?_
  exact Keeps.refl _
  rfl
  rfl
  with_reducible refine Keeps.step ?_ (pumpTile_keeps ..) ?_
  with_reducible refine Keeps.step ?_ (putFlow_keeps ..) ?_
  exact Keeps.refl _
  rfl
  rfl

theorem strayAck_keeps (s : State) (x1 : Nat) :
    Keeps [.tiles] s (strayAck s x1) := by
  unfold strayAck
  with_reducible refine Keeps.step ?_ (updTile_keeps ..) ?_
  exact Keeps.refl _
  rfl

theorem returnAnswer_keeps (s : State) (x1 : Nat) (x2 : Packet) (x3 : PktState) :
    Keeps [.tiles, .routers] s (returnAnswer s x1 x2 x3) := by
  unfold returnAnswer
  dsimp only
  split
  with_reducible refine Keeps.step ?_ (strayAck_keeps ..) ?_
  exact Keeps.refl _
  rfl
  with_reducible refine Keeps.step ?_ (pumpTile_keeps ..) ?_
  with_reducible refine Keeps.step ?_ (setTile_keeps ..) ?_
  exact Keeps.refl _
  rfl
  rfl

theorem tileAck_keeps (s : State) (x1 : Nat) (x2 : Packet) :
    Keeps [.tiles, .routers] s (tileAck s x1 x2) := by
  unfold tileAck
  split
  dsimp only
  with_reducible refine Keeps.step ?_ (settleFlow_keeps ..) ?_
  exact Keeps.refl _
  rfl
  with_reducible refine Keeps.step ?_ (returnAnswer_keeps ..) ?_
  exact Keeps.refl _
  rfl

theorem refused_keeps (s : State) (x1 : Nat) (x2 : Nat) (x3 : TxFlow) (x4 : Packet) (x5 : Nat) :
    Keeps [.tiles, .routers, .regions, .outbox] s (refused s x1 x2 x3 x4 x5) := by
  unfold refused
  dsimp only
  with_reducible refine Keeps.ite ?_ ?_
  with_reducible refine Keeps.ite ?_ ?_
  with_reducible refine Keeps.step ?_ (xferFailed_keeps ..) ?_
  with_reducible refine Keeps.step ?_ (settleFlow_keeps ..) ?_
  exact Keeps.refl _
  rfl
  rfl
  with_reducible refine Keeps.step ?_ (putFlow_keeps ..) ?_
  exact Keeps.refl _
  rfl
  with_reducible refine Keeps.step ?_ (settleFlow_keeps ..) ?_
  with_reducible refine Keeps.ite ?_ ?_
  with_reducible refine Keeps.step ?_ (xferFailed_keeps ..) ?_
  exact Keeps.refl _
  rfl
  with_reducible refine Keeps.step ?_ (updTile_keeps ..) ?_
  exact Keeps.refl _
  rfl
  rfl

theorem dmaNack_keeps (s : State) (x1 : Nat) (x2 : Nat) (x3 : TxFlow) (x4 : Nat) (x5 : Nat) :
    Keeps [.tiles, .routers, .regions, .outbox] s (dmaNack s x1 x2 x3 x4 x5) := by
  unfold dmaNack
  with_reducible refine Keeps.ite ?_ ?_
  with_reducible refine Keeps.step ?_ (settleFlow_keeps ..) ?_
  exact Keeps.refl _
  rfl
  with_reducible refine Keeps.ite ?_ ?_
  with_reducible refine Keeps.step ?_ (putFlow_keeps ..) ?_
  exact Keeps.refl _
  rfl
  with_reducible refine Keeps.step ?_ (xferFailed_keeps ..) ?_
  with_reducible refine Keeps.step ?_ (settleFlow_keeps ..) ?_
  exact Keeps.refl _
  rfl
  rfl

theorem flowNack_keeps (s : State) (x1 : Nat) (x2 : Nat) (x3 : TxFlow) (x4 : Packet) :
    Keeps [.tiles, .routers, .regions, .outbox] s (flowNack s x1 x2 x3 x4) := by
  unfold flowNack
  dsimp only
  with_reducible refine Keeps.ite ?_ ?_
  with_reducible refine Keeps.step ?_ (dmaNack_keeps ..) ?_
  exact Keeps.refl _
  rfl
  with_reducible refine Keeps.ite ?_ ?_
  with_reducible refine Keeps.step ?_ (strayAck_keeps ..) ?_
  exact Keeps.refl _
  rfl
  split
  with_reducible refine Keeps.step ?_ (putFlow_keeps ..) ?_
  exact Keeps.refl _
  rfl
  with_reducible refine Keeps.ite ?_ ?_
  with_reducible refine Keeps.step ?_ (putFlow_keeps ..) ?_
  exact Keeps.refl _
  rfl
  with_reducible refine Keeps.step ?_ (refused_keeps ..) ?_
  exact Keeps.refl _
  rfl
  with_reducible refine Keeps.step ?_ (pumpTile_keeps ..) ?_
  with_reducible refine Keeps.step ?_ (endPart_keeps ..) ?_
  with_reducible refine Keeps.ite ?_ ?_
  with_reducible refine Keeps.step ?_ (settleFlow_keeps ..) ?_
  exact Keeps.refl _
  rfl
  with_reducible refine Keeps.step ?_ (updTile_keeps ..) ?_
  exact Keeps.refl _
  rfl
  rfl
  rfl
  with_reducible refine Keeps.step ?_ (xferFailed_keeps ..) ?_
  with_reducible refine Keeps.ite ?_ ?_
  with_reducible refine Keeps.step ?_ (settleFlow_keeps ..) ?_
  exact Keeps.refl _
  rfl
  with_reducible refine Keeps.step ?_ (updTile_keeps ..) ?_
  exact Keeps.refl _
  rfl
  rfl
  with_reducible refine Keeps.step ?_ (xferFailed_keeps ..) ?_
  with_reducible refine Keeps.ite ?_ ?_
  with_reducible refine Keeps.step ?_ (settleFlow_keeps ..) ?_
  exact Keeps.refl _
  rfl
  with_reducible refine Keeps.step ?_ (updTile_keeps ..) ?_
  exact Keeps.refl _
  rfl
  rfl
  with_reducible refine Keeps.step ?_ (refused_keeps ..) ?_
  exact Keeps.refl _
  rfl
  with_reducible refine Keeps.step ?_ (refused_keeps ..) ?_
  exact Keeps.refl _
  rfl
  with_reducible refine Keeps.step ?_ (refused_keeps ..) ?_
  exact Keeps.refl _
  rfl
  with_reducible refine Keeps.step ?_ (refused_keeps ..) ?_
  exact Keeps.refl _
  rfl
  with_reducible refine Keeps.ite ?_ ?_
  with_reducible refine Keeps.step ?_ (xferFailed_keeps ..) ?_
  with_reducible refine Keeps.ite ?_ ?_
  with_reducible refine Keeps.step ?_ (settleFlow_keeps ..) ?_
  exact Keeps.refl _
  rfl
  with_reducible refine Keeps.step ?_ (updTile_keeps ..) ?_
  exact Keeps.refl _
  rfl
  rfl
  with_reducible refine Keeps.step ?_ (refused_keeps ..) ?_
  exact Keeps.refl _
  rfl

theorem tileNack_keeps (s : State) (x1 : Nat) (x2 : Packet) :
    Keeps [.tiles, .routers, .regions, .outbox] s (tileNack s x1 x2) := by
  unfold tileNack
  dsimp only
  split
  with_reducible refine Keeps.step ?_ (flowNack_keeps ..) ?_
  with_reducible refine Keeps.step ?_ (updTile_keeps ..) ?_
  exact Keeps.refl _
  rfl
  rfl
  with_reducible refine Keeps.step ?_ (returnAnswer_keeps ..) ?_
  with_reducible refine Keeps.step ?_ (updTile_keeps ..) ?_
  exact Keeps.refl _
  rfl
  rfl

theorem resendReturn_keeps (s : State) (x1 : Nat) (x2 : Nat) (x3 : Nat) (x4 : TxFlow) :
    Keeps [.tiles, .routers] s (resendReturn s x1 x2 x3 x4) := by
  unfold resendReturn
  with_reducible refine Keeps.step ?_ (updTile_keeps ..) ?_
  with_reducible refine Keeps.step ?_ (injectTile_keeps ..) ?_
  exact Keeps.refl _
  rfl
  rfl

theorem tileRbRetry_keeps (s : State) (x1 : Nat) (x2 : Nat) (x3 : Nat) :
    KeepsOut [.tiles, .routers] s (tileRbRetry s x1 x2 x3) := by
  unfold tileRbRetry
  split
  refine KeepsOut.next ?_
  exact Keeps.refl _
  split
  refine whenB_keeps2 ?_ ?_
  exact Keeps.refl _
  with_reducible refine Keeps.step ?_ (injectFlow_keeps ..) ?_
  exact Keeps.refl _
  rfl
  refine KeepsOut.next ?_
  exact Keeps.refl _

theorem tileMessageRetry_keeps (s : State) (x1 : Nat) (x2 : Nat) :
    KeepsOut [.tiles, .routers] s (tileMessageRetry s x1 x2) := by
  unfold tileMessageRetry
  split
  refine KeepsOut.next ?_
  exact Keeps.refl _
  split
  refine KeepsOut.next ?_
  exact Keeps.refl _
  refine whenB_keeps2 ?_ ?_
  exact Keeps.refl _
  with_reducible refine Keeps.step ?_ (pumpTile_keeps ..) ?_
  with_reducible refine Keeps.step ?_ (updTile_keeps ..) ?_
  exact Keeps.refl _
  rfl
  rfl

theorem tileTimeout_keeps (s : State) (x1 : Nat) (x2 : Nat) (x3 : Nat) :
    KeepsOut [.tiles, .routers] s (tileTimeout s x1 x2 x3) := by
  unfold tileTimeout
  dsimp only
  split
  split
  refine KeepsOut.next ?_
  exact Keeps.refl _
  split
  refine whenB_keeps2 ?_ ?_
  exact Keeps.refl _
  with_reducible refine Keeps.step ?_ (updTile_keeps ..) ?_
  with_reducible refine Keeps.step ?_ (injectFlow_keeps ..) ?_
  exact Keeps.refl _
  rfl
  rfl
  refine KeepsOut.next ?_
  exact Keeps.refl _
  split
  refine KeepsOut.next ?_
  exact Keeps.refl _
  split
  refine whenB_keeps2 ?_ ?_
  exact Keeps.refl _
  with_reducible refine Keeps.step ?_ (updTile_keeps ..) ?_
  with_reducible refine Keeps.step ?_ (resendReturn_keeps ..) ?_
  exact Keeps.refl _
  rfl
  rfl
  refine whenB_keeps2 ?_ ?_
  exact Keeps.refl _
  with_reducible refine Keeps.step ?_ (resendReturn_keeps ..) ?_
  exact Keeps.refl _
  rfl
  refine KeepsOut.next ?_
  exact Keeps.refl _

theorem ageXon_keeps (s : State) (x1 : Nat) (x2 : XKey) (x3 : Packet) :
    Keeps [.tiles, .routers] s (ageXon s x1 x2 x3) := by
  unfold ageXon
  split
  exact Keeps.refl _
  dsimp only
  with_reducible refine Keeps.step ?_ (updTile_keeps ..) ?_
  with_reducible refine Keeps.step ?_ (noteXon_keeps ..) ?_
  exact Keeps.refl _
  rfl
  rfl

theorem execReorderAge_keeps (x0 : Nat) (s : State) :
    KeepsOut [.tiles, .routers] s (execReorderAge x0 s) := by
  unfold execReorderAge
  refine needUnit_keeps ?_
  dsimp only
  refine KeepsOut.next ?_
  with_reducible refine Keeps.foldl ?_ ?_
  with_reducible refine Keeps.step ?_ (updRouter_keeps ..) ?_
  with_reducible refine Keeps.step ?_ (updTile_keeps ..) ?_
  exact Keeps.refl _
  rfl
  rfl
  intro y9
  intro y10
  with_reducible refine Keeps.step ?_ (ageXon_keeps ..) ?_
  exact Keeps.refl _
  rfl

theorem flowCtl_keeps (s : State) (x1 : Nat) (x2 : Packet) (x3 : Bool) :
    Keeps [.tiles, .routers] s (flowCtl s x1 x2 x3) := by
  unfold flowCtl
  with_reducible refine Keeps.step ?_ (pumpTile_keeps ..) ?_
  with_reducible refine Keeps.step ?_ (updTile_keeps ..) ?_
  exact Keeps.refl _
  rfl
  rfl

end Sys2Proof.Machine
end

