-- ==== Sys2Proof/Laws/Engine.lean ====
section
/-! SUPPORT. What the operations of Machine/Engine.lean may change: for each, the parts of the state. -/

namespace Sys2Proof.Machine

theorem injectSpine_keeps (s : State) (x1 : Nat) (x2 : Packet) :
    Keeps [.routers] s (injectSpine s x1 x2) := by
  unfold injectSpine
  split
  exact Keeps.refl _
  with_reducible refine Keeps.step ?_ (injectPort_keeps ..) ?_
  exact Keeps.refl _
  rfl

theorem engSend_keeps (s : State) (x1 : Nat) (x2 : Packet) :
    Keeps [.routers, .engines] s (engSend s x1 x2) := by
  unfold engSend
  with_reducible refine Keeps.ite ?_ ?_
  with_reducible refine Keeps.step ?_ (injectSpine_keeps ..) ?_
  exact Keeps.refl _
  rfl
  with_reducible refine Keeps.step ?_ (updEngine_keeps ..) ?_
  exact Keeps.refl _
  rfl

theorem engAnswer_keeps (s : State) (x1 : Nat) (x2 : Packet) (x3 : Nat) (x4 : Nat) :
    Keeps [.routers, .engines] s (engAnswer s x1 x2 x3 x4) := by
  unfold engAnswer
  dsimp only
  with_reducible refine Keeps.step ?_ (engSend_keeps ..) ?_
  exact Keeps.refl _
  rfl

theorem updCtxC_keeps (s : State) (x1 : Nat) (x2 : Nat) (x3 : Nat) (x4 : Nat) (x5 : CollCtx → CollCtx) :
    Keeps [.engines] s (updCtxC s x1 x2 x3 x4 x5) := by
  unfold updCtxC
  with_reducible refine Keeps.step ?_ (updEngine_keeps ..) ?_
  exact Keeps.refl _
  rfl

theorem countE_keeps (s : State) (x1 : Nat) (x2 : EngCounters → EngCounters) :
    Keeps [.engines] s (countE s x1 x2) := by
  unfold countE
  with_reducible refine Keeps.step ?_ (updEngine_keeps ..) ?_
  exact Keeps.refl _
  rfl

theorem failContrib_keeps (s : State) (x1 : Contribution) (x2 : Nat) (x3 : Nat) :
    Keeps [.tiles, .regions, .outbox] s (failContrib s x1 x2 x3) := by
  unfold failContrib
  with_reducible refine Keeps.step ?_ (failDesc_keeps ..) ?_
  with_reducible refine Keeps.step ?_ (updTile_keeps ..) ?_
  exact Keeps.refl _
  rfl
  rfl

theorem failColl_keeps (s : State) (x1 : Nat) (x2 : Nat) (x3 : Nat) (x4 : Nat) (x5 : Nat) (x6 : Nat) :
    Keeps [.tiles, .engines, .regions, .outbox] s (failColl s x1 x2 x3 x4 x5 x6) := by
  unfold failColl
  split
  exact Keeps.refl _
  with_reducible refine Keeps.step ?_ (updCtxC_keeps ..) ?_
  with_reducible refine Keeps.foldl ?_ ?_
  exact Keeps.refl _
  intro y5
  intro y6
  with_reducible refine Keeps.step ?_ (failContrib_keeps ..) ?_
  exact Keeps.refl _
  rfl
  rfl

theorem pumpEngFlow_keeps (x0 : Nat) (s : State) (x2 : Nat) (x3 : Nat) :
    Keeps [.routers, .engines] s (pumpEngFlow x0 s x2 x3) := by
  induction x0 generalizing s x2 x3 with
  | zero => exact Keeps.refl _
  | succ n ih =>
    rw [pumpEngFlow]
    split
    exact Keeps.refl _
    split
    exact Keeps.refl _
    dsimp only
    with_reducible refine Keeps.step ?_ (ih ..) (sub_refl _)
    with_reducible refine Keeps.step ?_ (updEngine_keeps ..) ?_
    with_reducible refine Keeps.step ?_ (engSend_keeps ..) ?_
    exact Keeps.refl _
    rfl
    rfl

theorem pumpEngine_keeps (s : State) (x1 : Nat) :
    Keeps [.routers, .engines] s (pumpEngine s x1) := by
  unfold pumpEngine
  with_reducible refine Keeps.foldl ?_ ?_
  exact Keeps.refl _
  intro y2
  intro y3
  with_reducible refine Keeps.step ?_ (pumpEngFlow_keeps ..) ?_
  exact Keeps.refl _
  rfl

theorem engOpenAt_keeps (s : State) (x1 : Nat) (x2 : Nat) (x3 : Xfer) :
    Keeps [.engines] s (engOpenAt s x1 x2 x3) := by
  unfold engOpenAt
  with_reducible refine Keeps.step ?_ (updEngine_keeps ..) ?_
  exact Keeps.refl _
  rfl

theorem engOpen_keeps (s : State) (x1 : Nat) (x2 : Xfer) :
    Keeps [.engines] s (engOpen s x1 x2) := by
  unfold engOpen
  with_reducible refine Keeps.step ?_ (engOpenAt_keeps ..) ?_
  exact Keeps.refl _
  rfl

theorem engReopen_keeps (s : State) (x1 : Nat) (x2 : Nat) (x3 : Xfer) :
    Keeps [.engines] s (engReopen s x1 x2 x3) := by
  unfold engReopen
  dsimp only
  with_reducible refine Keeps.step ?_ (engOpenAt_keeps ..) ?_
  exact Keeps.refl _
  rfl

theorem deliverLocalResults_keeps (s : State) (x1 : Nat) (x2 : Nat) (x3 : Nat) (x4 : Nat) :
    Keeps [.engines] s (deliverLocalResults s x1 x2 x3 x4) := by
  unfold deliverLocalResults
  split
  with_reducible refine Keeps.ite ?_ ?_
  exact Keeps.refl _
  with_reducible refine Keeps.foldl ?_ ?_
  exact Keeps.refl _
  intro y5
  intro y6
  with_reducible refine Keeps.ite ?_ ?_
  exact Keeps.refl _
  split
  exact Keeps.refl _
  with_reducible refine Keeps.step ?_ (updCtxC_keeps ..) ?_
  with_reducible refine Keeps.step ?_ (engOpen_keeps ..) ?_
  exact Keeps.refl _
  rfl
  rfl
  exact Keeps.refl _

theorem settleColl_keeps (s : State) (x1 : Nat) (x2 : Nat) (x3 : Nat) :
    Keeps [.engines] s (settleColl s x1 x2 x3) := by
  unfold settleColl
  split
  exact Keeps.refl _
  with_reducible refine Keeps.step ?_ (updEngine_keeps ..) ?_
  exact Keeps.refl _
  rfl

theorem workColl_keeps (s : State) (x1 : Nat) (x2 : Nat) (x3 : Nat) (x4 : Nat) :
    Keeps [.routers, .engines] s (workColl s x1 x2 x3 x4) := by
  unfold workColl
  with_reducible refine Keeps.step ?_ (settleColl_keeps ..) ?_
  with_reducible refine Keeps.step ?_ (pumpEngine_keeps ..) ?_
  with_reducible refine Keeps.step ?_ (deliverLocalResults_keeps ..) ?_
  exact Keeps.refl _
  rfl
  rfl
  rfl

theorem engRelease_keeps (x0 : Nat) (s : State) (x2 : Nat) (x3 : RxFlow) (x4 : Packet) :
    Keeps [.routers, .engines] s (engRelease x0 s x2 x3 x4).1 := by
  induction x0 generalizing s x2 x3 x4 with
  | zero => exact Keeps.refl _
  | succ n ih =>
    rw [engRelease]
    split
    dsimp only
    exact Keeps.refl _
    dsimp only
    split
    with_reducible refine Keeps.step ?_ (ih ..) (sub_refl _)
    with_reducible refine Keeps.step ?_ (engAnswer_keeps ..) ?_
    exact Keeps.refl _
    rfl
    dsimp only
    with_reducible refine Keeps.step ?_ (engAnswer_keeps ..) ?_
    exact Keeps.refl _
    rfl

theorem nackE_keeps (s : State) (x1 : Nat) (x2 : Packet) (x3 : Nat) :
    Keeps [.routers, .engines] s (nackE s x1 x2 x3) := by
  unfold nackE
  with_reducible refine Keeps.step ?_ (engAnswer_keeps ..) ?_
  exact Keeps.refl _
  rfl

theorem notePeer_keeps (s : State) (x1 : Nat) (x2 : Nat) (x3 : Packet) (x4 : List Byte) (x5 : Bool) (x6 : Bool) :
    Keeps [.engines] s (notePeer s x1 x2 x3 x4 x5 x6) := by
  unfold notePeer
  dsimp only
  with_reducible refine Keeps.step ?_ (updCtxC_keeps ..) ?_
  exact Keeps.refl _
  rfl

theorem holdPeer_keeps (s : State) (x1 : Nat) (x2 : Nat) (x3 : Packet) :
    Keeps [.engines] s (holdPeer s x1 x2 x3) := by
  unfold holdPeer
  with_reducible refine Keeps.step ?_ (updCtxC_keeps ..) ?_
  exact Keeps.refl _
  rfl

theorem peerEnd_keeps (s : State) (x1 : Nat) (x2 : Nat) (x3 : RxFlow) (x4 : Packet) :
    Keeps [.routers, .engines, .regions, .fns, .recorder, .flt, .outbox, .msis, .rf] s (peerEnd s x1 x2 x3 x4) := by
  unfold peerEnd
  dsimp only
  with_reducible refine Keeps.ite ?_ ?_
  with_reducible refine Keeps.step ?_ (workColl_keeps ..) ?_
  with_reducible refine Keeps.step ?_ (engAnswer_keeps ..) ?_
  with_reducible refine Keeps.step ?_ (updEngine_keeps ..) ?_
  with_reducible refine Keeps.ite ?_ ?_
  with_reducible refine Keeps.step ?_ (countE_keeps ..) ?_
  with_reducible refine Keeps.step ?_ (notePeer_keeps ..) ?_
  exact Keeps.refl _
  rfl
  rfl
  with_reducible refine Keeps.step ?_ (digestFailed_keeps ..) ?_
  with_reducible refine Keeps.step ?_ (countE_keeps ..) ?_
  with_reducible refine Keeps.step ?_ (notePeer_keeps ..) ?_
  exact Keeps.refl _
  rfl
  rfl
  rfl
  rfl
  rfl
  rfl
  with_reducible refine Keeps.step ?_ (holdPeer_keeps ..) ?_
  with_reducible refine Keeps.step ?_ (updEngine_keeps ..) ?_
  with_reducible refine Keeps.ite ?_ ?_
  with_reducible refine Keeps.step ?_ (countE_keeps ..) ?_
  with_reducible refine Keeps.step ?_ (notePeer_keeps ..) ?_
  exact Keeps.refl _
  rfl
  rfl
  with_reducible refine Keeps.step ?_ (digestFailed_keeps ..) ?_
  with_reducible refine Keeps.step ?_ (countE_keeps ..) ?_
  with_reducible refine Keeps.step ?_ (notePeer_keeps ..) ?_
  exact Keeps.refl _
  rfl
  rfl
  rfl
  rfl
  rfl

theorem contribEnd_keeps (s : State) (x1 : Nat) (x2 : Nat) (x3 : RxFlow) (x4 : Packet) :
    Keeps [.tiles, .routers, .engines, .regions, .outbox] s (contribEnd s x1 x2 x3 x4) := by
  unfold contribEnd
  dsimp only
  split
  with_reducible refine Keeps.step ?_ (engAnswer_keeps ..) ?_
  with_reducible refine Keeps.step ?_ (updEngine_keeps ..) ?_
  exact Keeps.refl _
  rfl
  rfl
  split
  with_reducible refine Keeps.step ?_ (failContrib_keeps ..) ?_
  with_reducible refine Keeps.step ?_ (engAnswer_keeps ..) ?_
  with_reducible refine Keeps.step ?_ (updEngine_keeps ..) ?_
  exact Keeps.refl _
  rfl
  rfl
  rfl
  with_reducible refine Keeps.ite ?_ ?_
  with_reducible refine Keeps.step ?_ (failContrib_keeps ..) ?_
  with_reducible refine Keeps.step ?_ (engAnswer_keeps ..) ?_
  with_reducible refine Keeps.step ?_ (updEngine_keeps ..) ?_
  exact Keeps.refl _
  rfl
  rfl
  rfl
  with_reducible refine Keeps.step ?_ (updCtxC_keeps ..) ?_
  with_reducible refine Keeps.step ?_ (engAnswer_keeps ..) ?_
  with_reducible refine Keeps.step ?_ (updEngine_keeps ..) ?_
  exact Keeps.refl _
  rfl
  rfl
  rfl

theorem engFlow_keeps (s : State) (x1 : Nat) (x2 : Nat) (x3 : RxFlow) (x4 : Packet) :
    Keeps [.tiles, .routers, .engines, .regions, .fns, .recorder, .flt, .outbox, .msis, .rf] s (engFlow s x1 x2 x3 x4) := by
  unfold engFlow
  dsimp only
  with_reducible refine Keeps.ite ?_ ?_
  split
  with_reducible refine Keeps.ite ?_ ?_
  with_reducible refine Keeps.step ?_ (contribEnd_keeps ..) ?_
  with_reducible refine Keeps.step ?_ (engRelease_keeps ..) ?_
  exact Keeps.refl _
  rfl
  rfl
  with_reducible refine Keeps.step ?_ (peerEnd_keeps ..) ?_
  with_reducible refine Keeps.step ?_ (engRelease_keeps ..) ?_
  exact Keeps.refl _
  rfl
  rfl
  with_reducible refine Keeps.ite ?_ ?_
  with_reducible refine Keeps.step ?_ (updEngine_keeps ..) ?_
  with_reducible refine Keeps.step ?_ (engRelease_keeps ..) ?_
  exact Keeps.refl _
  rfl
  rfl
  with_reducible refine Keeps.step ?_ (notePeer_keeps ..) ?_
  with_reducible refine Keeps.step ?_ (updEngine_keeps ..) ?_
  with_reducible refine Keeps.step ?_ (engRelease_keeps ..) ?_
  exact Keeps.refl _
  rfl
  rfl
  rfl
  with_reducible refine Keeps.ite ?_ ?_
  with_reducible refine Keeps.ite ?_ ?_
  exact Keeps.refl _
  with_reducible refine Keeps.step ?_ (updEngine_keeps ..) ?_
  exact Keeps.refl _
  rfl
  with_reducible refine Keeps.step ?_ (engAnswer_keeps ..) ?_
  exact Keeps.refl _
  rfl

theorem spineDrop_keeps (s : State) (x1 : Nat) :
    Keeps [.engines, .fns, .recorder, .flt, .msis] s (spineDrop s x1) := by
  unfold spineDrop
  with_reducible refine Keeps.step ?_ (devEvent_keeps ..) ?_
  with_reducible refine Keeps.step ?_ (countE_keeps ..) ?_
  exact Keeps.refl _
  rfl
  rfl

theorem collAtEngine_keeps (s : State) (x1 : Nat) (x2 : Packet) :
    Keeps [.free, .tiles, .routers, .engines, .regions, .fns, .basin, .poison, .bsn, .scans, .bundles, .bundleSeq, .recorder, .flt, .idn, .outbox, .msis, .rep, .flc, .rf, .pwr] s (collAtEngine s x1 x2) := by
  unfold collAtEngine
  dsimp only
  with_reducible refine Keeps.ite ?_ ?_
  exact Keeps.refl _
  split
  with_reducible refine Keeps.step ?_ (nackE_keeps ..) ?_
  exact Keeps.refl _
  rfl
  with_reducible refine Keeps.ite ?_ ?_
  with_reducible refine Keeps.step ?_ (higherAttempt_keeps ..) ?_
  with_reducible refine Keeps.step ?_ (nackE_keeps ..) ?_
  exact Keeps.refl _
  rfl
  rfl
  with_reducible refine Keeps.step ?_ (nackE_keeps ..) ?_
  exact Keeps.refl _
  rfl
  split
  with_reducible refine Keeps.ite ?_ ?_
  with_reducible refine Keeps.step ?_ (engAnswer_keeps ..) ?_
  exact Keeps.refl _
  rfl
  with_reducible refine Keeps.step ?_ (nackE_keeps ..) ?_
  exact Keeps.refl _
  rfl
  split
  with_reducible refine Keeps.ite ?_ ?_
  with_reducible refine Keeps.step ?_ (spineDrop_keeps ..) ?_
  exact Keeps.refl _
  rfl
  with_reducible refine Keeps.step ?_ (nackE_keeps ..) ?_
  exact Keeps.refl _
  rfl
  with_reducible refine Keeps.ite ?_ ?_
  exact Keeps.refl _
  with_reducible refine Keeps.ite ?_ ?_
  with_reducible refine Keeps.step ?_ (nackE_keeps ..) ?_
  with_reducible refine Keeps.step ?_ (countE_keeps ..) ?_
  with_reducible refine Keeps.step ?_ (updEngine_keeps ..) ?_
  exact Keeps.refl _
  rfl
  rfl
  rfl
  with_reducible refine Keeps.ite ?_ ?_
  with_reducible refine Keeps.step ?_ (nackE_keeps ..) ?_
  with_reducible refine Keeps.step ?_ (countE_keeps ..) ?_
  exact Keeps.refl _
  rfl
  rfl
  split
  with_reducible refine Keeps.step ?_ (engFlow_keeps ..) ?_
  exact Keeps.refl _
  rfl
  with_reducible refine Keeps.step ?_ (engFlow_keeps ..) ?_
  with_reducible refine Keeps.step ?_ (updEngine_keeps ..) ?_
  exact Keeps.refl _
  rfl
  rfl

theorem takeEng_keeps (s : State) (die : Nat) (p : Packet → Bool) (t : Packet × State) (h : takeEng s die p = some t) :
    Keeps [.engines] s t.2 := by
  unfold takeEng at h
  dsimp only at h
  split at h
  · cases h
    exact setEngine_keeps ..
  · cases h

theorem collAtTile_keeps (s : State) (x1 : Nat) (x2 : Nat) (x3 : Packet) :
    Keeps [.free, .tiles, .routers, .engines, .regions, .fns, .basin, .poison, .bsn, .scans, .bundles, .bundleSeq, .recorder, .flt, .idn, .outbox, .msis, .rep, .flc, .rf, .pwr] s (collAtTile s x1 x2 x3) := by
  unfold collAtTile
  dsimp only
  split
  with_reducible refine Keeps.step ?_ (takePacket_keeps ..) ?_
  exact Keeps.refl _
  rfl
  split
  with_reducible refine Keeps.step ?_ (acceptXfer_keeps ..) ?_
  with_reducible refine Keeps.step ?_ (takePacket_keeps ..) ?_
  exact Keeps.refl _
  rfl
  rfl
  with_reducible refine Keeps.step ?_ (endPart_keeps ..) ?_
  with_reducible refine Keeps.step ?_ (acceptXfer_keeps ..) ?_
  with_reducible refine Keeps.step ?_ (takePacket_keeps ..) ?_
  exact Keeps.refl _
  rfl
  rfl
  rfl

theorem collPacketRow_keeps (x0 : Nat) (x1 : Option Nat) (s : State) :
    KeepsOut [.free, .tiles, .routers, .engines, .regions, .fns, .basin, .poison, .bsn, .scans, .bundles, .bundleSeq, .recorder, .flt, .idn, .outbox, .msis, .rep, .flc, .rf, .pwr] s (collPacketRow x0 x1 s) := by
  unfold collPacketRow
  refine needUnit_keeps ?_
  split
  with_reducible refine KeepsOut.step ?_ (withInbox_keeps (L := [.free, .tiles, .routers, .engines, .regions, .fns, .basin, .poison, .bsn, .scans, .bundles, .bundleSeq, .recorder, .flt, .idn, .outbox, .msis, .rep, .flc, .rf, .pwr]) (rfl) _ _ _ _ ?_) (sub_refl _)
  exact Keeps.refl _
  intro y4
  intro y5
  with_reducible refine Keeps.step ?_ (collAtTile_keeps ..) ?_
  exact Keeps.refl _
  rfl
  split
  refine KeepsOut.next ?_
  exact Keeps.refl _
  refine KeepsOut.next ?_
  with_reducible refine Keeps.step ?_ (collAtEngine_keeps ..) ?_
  with_reducible refine Keeps.step ?_ (takeEng_keeps _ _ _ _ (by assumption)) ?_
  exact Keeps.refl _
  rfl
  rfl

theorem answerHeld_keeps (s : State) (x1 : Nat) (x2 : Nat) (x3 : PeerPiece) (x4 : Nat) :
    Keeps [.routers, .engines] s (answerHeld s x1 x2 x3 x4) := by
  unfold answerHeld
  split
  exact Keeps.refl _
  dsimp only
  with_reducible refine Keeps.ite ?_ ?_
  with_reducible refine Keeps.step ?_ (engAnswer_keeps ..) ?_
  with_reducible refine Keeps.step ?_ (updEngine_keeps ..) ?_
  exact Keeps.refl _
  rfl
  rfl
  with_reducible refine Keeps.step ?_ (nackE_keeps ..) ?_
  with_reducible refine Keeps.step ?_ (updEngine_keeps ..) ?_
  exact Keeps.refl _
  rfl
  rfl

theorem localSideOpen_keeps (s : State) (x1 : Nat) (x2 : Nat) (x3 : Nat) (x4 : Nat) :
    Keeps [.tiles, .routers, .engines, .regions, .outbox] s (localSideOpen s x1 x2 x3 x4) := by
  unfold localSideOpen
  split
  with_reducible refine Keeps.ite ?_ ?_
  exact Keeps.refl _
  split
  with_reducible refine Keeps.step ?_ (settleColl_keeps ..) ?_
  with_reducible refine Keeps.step ?_ (failColl_keeps ..) ?_
  exact Keeps.refl _
  rfl
  rfl
  dsimp only
  with_reducible refine Keeps.step ?_ (workColl_keeps ..) ?_
  with_reducible refine Keeps.foldl ?_ ?_
  with_reducible refine Keeps.step ?_ (countE_keeps ..) ?_
  with_reducible refine Keeps.step ?_ (updCtxC_keeps ..) ?_
  with_reducible refine Keeps.foldl ?_ ?_
  exact Keeps.refl _
  intro y16
  intro y17
  with_reducible refine Keeps.step ?_ (answerHeld_keeps ..) ?_
  exact Keeps.refl _
  rfl
  rfl
  rfl
  intro y23
  intro y24
  with_reducible refine Keeps.step ?_ (engOpen_keeps ..) ?_
  exact Keeps.refl _
  rfl
  rfl
  exact Keeps.refl _

theorem execLocalSideOpen_keeps (x0 : Nat) (x1 : Nat) (x2 : Nat) (x3 : Nat) (s : State) :
    KeepsOut [.tiles, .routers, .engines, .regions, .outbox] s (execLocalSideOpen x0 x1 x2 x3 s) := by
  unfold execLocalSideOpen
  refine needUnit_keeps ?_
  refine KeepsOut.next ?_
  with_reducible refine Keeps.step ?_ (localSideOpen_keeps ..) ?_
  exact Keeps.refl _
  rfl

theorem foldBlock_keeps (s : State) (x1 : Nat) (x2 : Nat) (x3 : Nat) (x4 : Nat) :
    Keeps [.engines] s (foldBlock s x1 x2 x3 x4) := by
  unfold foldBlock
  split
  dsimp only
  with_reducible refine Keeps.ite ?_ ?_
  exact Keeps.refl _
  with_reducible refine Keeps.step ?_ (countE_keeps ..) ?_
  with_reducible refine Keeps.step ?_ (updCtxC_keeps ..) ?_
  exact Keeps.refl _
  rfl
  rfl
  exact Keeps.refl _

theorem foldBlockFound_keeps (s : State) (x1 : Nat) (x2 : Nat) (x3 : Nat) (x4 : Nat) (x5 : Option EccFind) :
    Keeps [.tiles, .routers, .engines, .regions, .fns, .recorder, .flt, .idn, .outbox, .msis, .rep, .flc, .rf, .pwr] s (foldBlockFound s x1 x2 x3 x4 x5) := by
  unfold foldBlockFound
  split
  with_reducible refine Keeps.step ?_ (foldBlock_keeps ..) ?_
  exact Keeps.refl _
  rfl
  with_reducible refine Keeps.step ?_ (foldBlock_keeps ..) ?_
  with_reducible refine Keeps.step ?_ (countE_keeps ..) ?_
  exact Keeps.refl _
  rfl
  rfl
  dsimp only
  with_reducible refine Keeps.step ?_ (charge_keeps ..) ?_
  with_reducible refine Keeps.step ?_ (failStep_keeps ..) ?_
  with_reducible refine Keeps.step ?_ (countE_keeps ..) ?_
  exact Keeps.refl _
  rfl
  rfl
  rfl

theorem execFoldBlockDone_keeps (x0 : Nat) (x1 : Nat) (x2 : Nat) (x3 : Nat) (s : State) (x5 : Option EccFind) :
    KeepsOut [.tiles, .routers, .engines, .regions, .fns, .recorder, .flt, .idn, .outbox, .msis, .rep, .flc, .rf, .pwr] s (execFoldBlockDone x0 x1 x2 x3 s x5) := by
  unfold execFoldBlockDone
  refine needUnit_keeps ?_
  refine KeepsOut.next ?_
  with_reducible refine Keeps.step ?_ (foldBlockFound_keeps ..) ?_
  exact Keeps.refl _
  rfl

theorem resultRelease_keeps (s : State) (x1 : Nat) (x2 : Nat) (x3 : Nat) (x4 : Nat) :
    Keeps [.routers, .engines] s (resultRelease s x1 x2 x3 x4) := by
  unfold resultRelease
  split
  dsimp only
  with_reducible refine Keeps.ite ?_ ?_
  exact Keeps.refl _
  with_reducible refine Keeps.step ?_ (workColl_keeps ..) ?_
  with_reducible refine Keeps.foldl ?_ ?_
  with_reducible refine Keeps.step ?_ (updCtxC_keeps ..) ?_
  exact Keeps.refl _
  rfl
  intro y9
  intro y10
  with_reducible refine Keeps.step ?_ (engOpen_keeps ..) ?_
  exact Keeps.refl _
  rfl
  rfl
  exact Keeps.refl _

theorem execResultRelease_keeps (x0 : Nat) (x1 : Nat) (x2 : Nat) (x3 : Nat) (s : State) :
    KeepsOut [.routers, .engines] s (execResultRelease x0 x1 x2 x3 s) := by
  unfold execResultRelease
  refine needUnit_keeps ?_
  refine KeepsOut.next ?_
  with_reducible refine Keeps.step ?_ (resultRelease_keeps ..) ?_
  exact Keeps.refl _
  rfl

theorem engUpd_keeps (s : State) (x1 : Nat) (x2 : Nat) (x3 : TxFlow → TxFlow) :
    Keeps [.engines] s (engUpd s x1 x2 x3) := by
  unfold engUpd
  with_reducible refine Keeps.step ?_ (updEngine_keeps ..) ?_
  exact Keeps.refl _
  rfl

theorem engDrop_keeps (s : State) (x1 : Nat) (x2 : Nat) :
    Keeps [.engines] s (engDrop s x1 x2) := by
  unfold engDrop
  with_reducible refine Keeps.step ?_ (updEngine_keeps ..) ?_
  exact Keeps.refl _
  rfl

theorem engAck_keeps (s : State) (x1 : Nat) (x2 : Packet) :
    Keeps [.routers, .engines] s (engAck s x1 x2) := by
  unfold engAck
  split
  exact Keeps.refl _
  split
  exact Keeps.refl _
  dsimp only
  with_reducible refine Keeps.step ?_ (workColl_keeps ..) ?_
  with_reducible refine Keeps.ite ?_ ?_
  with_reducible refine Keeps.step ?_ (engDrop_keeps ..) ?_
  exact Keeps.refl _
  rfl
  with_reducible refine Keeps.step ?_ (engUpd_keeps ..) ?_
  exact Keeps.refl _
  rfl
  rfl

theorem engNack_keeps (s : State) (x1 : Nat) (x2 : Packet) :
    Keeps [.tiles, .engines, .regions, .outbox] s (engNack s x1 x2) := by
  unfold engNack
  split
  exact Keeps.refl _
  split
  exact Keeps.refl _
  dsimp only
  with_reducible refine Keeps.ite ?_ ?_
  with_reducible refine Keeps.step ?_ (engUpd_keeps ..) ?_
  exact Keeps.refl _
  rfl
  with_reducible refine Keeps.ite ?_ ?_
  with_reducible refine Keeps.step ?_ (engUpd_keeps ..) ?_
  exact Keeps.refl _
  rfl
  with_reducible refine Keeps.ite ?_ ?_
  with_reducible refine Keeps.step ?_ (settleColl_keeps ..) ?_
  with_reducible refine Keeps.step ?_ (engDrop_keeps ..) ?_
  exact Keeps.refl _
  rfl
  rfl
  with_reducible refine Keeps.ite ?_ ?_
  with_reducible refine Keeps.step ?_ (settleColl_keeps ..) ?_
  with_reducible refine Keeps.step ?_ (failColl_keeps ..) ?_
  with_reducible refine Keeps.step ?_ (engDrop_keeps ..) ?_
  exact Keeps.refl _
  rfl
  rfl
  rfl
  with_reducible refine Keeps.ite ?_ ?_
  with_reducible refine Keeps.step ?_ (settleColl_keeps ..) ?_
  with_reducible refine Keeps.step ?_ (failColl_keeps ..) ?_
  with_reducible refine Keeps.step ?_ (engDrop_keeps ..) ?_
  exact Keeps.refl _
  rfl
  rfl
  rfl
  with_reducible refine Keeps.ite ?_ ?_
  with_reducible refine Keeps.step ?_ (engUpd_keeps ..) ?_
  exact Keeps.refl _
  rfl
  with_reducible refine Keeps.ite ?_ ?_
  with_reducible refine Keeps.ite ?_ ?_
  with_reducible refine Keeps.step ?_ (settleColl_keeps ..) ?_
  with_reducible refine Keeps.step ?_ (failColl_keeps ..) ?_
  with_reducible refine Keeps.step ?_ (engDrop_keeps ..) ?_
  exact Keeps.refl _
  rfl
  rfl
  rfl
  with_reducible refine Keeps.step ?_ (engUpd_keeps ..) ?_
  exact Keeps.refl _
  rfl
  with_reducible refine Keeps.step ?_ (settleColl_keeps ..) ?_
  with_reducible refine Keeps.step ?_ (failColl_keeps ..) ?_
  with_reducible refine Keeps.step ?_ (engDrop_keeps ..) ?_
  exact Keeps.refl _
  rfl
  rfl
  rfl

theorem answerRow_keeps {L : List Part} (hL : sub [.tiles, .routers, .engines] L = true) (x0 : Nat) (x1 : Nat) (s : State) (x3 : State → Nat → Packet → State) (x4 : State → Nat → Packet → State) (h3 : ∀ a0 a1 a2, Keeps L a0 (x3 a0 a1 a2)) (h4 : ∀ a0 a1 a2, Keeps L a0 (x4 a0 a1 a2)) :
    KeepsOut L s (answerRow x0 x1 s x3 x4) := by
  unfold answerRow
  split
  split
  refine KeepsOut.next ?_
  exact Keeps.refl _
  refine KeepsOut.next ?_
  with_reducible refine Keeps.step ?_ (h4 ..) (sub_refl _)
  with_reducible refine Keeps.step ?_ (takeEng_keeps _ _ _ _ (by assumption)) ?_
  exact Keeps.refl _
  exact sub_trans rfl hL
  with_reducible refine KeepsOut.step ?_ (withInbox_keeps (L := L) (sub_trans rfl hL) _ _ _ _ ?_) (sub_refl _)
  exact Keeps.refl _
  intro y11
  intro y12
  with_reducible refine Keeps.step ?_ (h3 ..) (sub_refl _)
  exact Keeps.refl _

theorem execAckRx_keeps (x0 : Nat) (s : State) :
    KeepsOut [.tiles, .routers, .engines] s (execAckRx x0 s) := by
  unfold execAckRx
  with_reducible refine KeepsOut.step ?_ (answerRow_keeps (L := [.tiles, .routers, .engines]) (rfl) _ _ _ _ _ ?_ ?_) (sub_refl _)
  exact Keeps.refl _
  intro y2
  intro y3
  intro y4
  with_reducible refine Keeps.step ?_ (tileAck_keeps ..) ?_
  exact Keeps.refl _
  rfl
  intro y8
  intro y9
  intro y10
  with_reducible refine Keeps.step ?_ (engAck_keeps ..) ?_
  exact Keeps.refl _
  rfl

theorem execNackRx_keeps (x0 : Nat) (s : State) :
    KeepsOut [.tiles, .routers, .engines, .regions, .outbox] s (execNackRx x0 s) := by
  unfold execNackRx
  with_reducible refine KeepsOut.step ?_ (answerRow_keeps (L := [.tiles, .routers, .engines, .regions, .outbox]) (rfl) _ _ _ _ _ ?_ ?_) (sub_refl _)
  exact Keeps.refl _
  intro y2
  intro y3
  intro y4
  with_reducible refine Keeps.step ?_ (tileNack_keeps ..) ?_
  exact Keeps.refl _
  rfl
  intro y8
  intro y9
  intro y10
  with_reducible refine Keeps.step ?_ (engNack_keeps ..) ?_
  exact Keeps.refl _
  rfl

theorem engFlowCtl_keeps (x0 : Bool) (s : State) (x2 : Nat) (x3 : Packet) :
    Keeps [.routers, .engines] s (engFlowCtl x0 s x2 x3) := by
  unfold engFlowCtl
  with_reducible refine Keeps.step ?_ (pumpEngine_keeps ..) ?_
  with_reducible refine Keeps.step ?_ (updEngine_keeps ..) ?_
  exact Keeps.refl _
  rfl
  rfl

theorem execFlowXoffRx_keeps (x0 : Nat) (s : State) :
    KeepsOut [.tiles, .routers, .engines] s (execFlowXoffRx x0 s) := by
  unfold execFlowXoffRx
  with_reducible refine KeepsOut.step ?_ (answerRow_keeps (L := [.tiles, .routers, .engines]) (rfl) _ _ _ _ _ ?_ ?_) (sub_refl _)
  exact Keeps.refl _
  intro y2
  intro y3
  intro y4
  with_reducible refine Keeps.step ?_ (flowCtl_keeps ..) ?_
  exact Keeps.refl _
  rfl
  intro y8
  intro y9
  intro y10
  with_reducible refine Keeps.step ?_ (engFlowCtl_keeps ..) ?_
  exact Keeps.refl _
  rfl

theorem execFlowXonRx_keeps (x0 : Nat) (s : State) :
    KeepsOut [.tiles, .routers, .engines] s (execFlowXonRx x0 s) := by
  unfold execFlowXonRx
  with_reducible refine KeepsOut.step ?_ (answerRow_keeps (L := [.tiles, .routers, .engines]) (rfl) _ _ _ _ _ ?_ ?_) (sub_refl _)
  exact Keeps.refl _
  intro y2
  intro y3
  intro y4
  with_reducible refine Keeps.step ?_ (flowCtl_keeps ..) ?_
  exact Keeps.refl _
  rfl
  intro y8
  intro y9
  intro y10
  with_reducible refine Keeps.step ?_ (engFlowCtl_keeps ..) ?_
  exact Keeps.refl _
  rfl

theorem engResend_keeps (s : State) (x1 : Nat) (x2 : Nat) (x3 : Nat) :
    Keeps [.routers, .engines] s (engResend s x1 x2 x3) := by
  unfold engResend
  split
  exact Keeps.refl _
  with_reducible refine Keeps.step ?_ (engUpd_keeps ..) ?_
  with_reducible refine Keeps.step ?_ (engSend_keeps ..) ?_
  exact Keeps.refl _
  rfl
  rfl

theorem nackRbRetryRow_keeps (x0 : Nat) (x1 : Nat) (x2 : Nat) (s : State) :
    KeepsOut [.tiles, .routers, .engines] s (nackRbRetryRow x0 x1 x2 s) := by
  unfold nackRbRetryRow
  split
  split
  refine whenB_keeps2 ?_ ?_
  exact Keeps.refl _
  with_reducible refine Keeps.step ?_ (engResend_keeps ..) ?_
  exact Keeps.refl _
  rfl
  refine KeepsOut.next ?_
  exact Keeps.refl _
  refine needUnit_keeps ?_
  with_reducible refine KeepsOut.step ?_ (tileRbRetry_keeps ..) ?_
  exact Keeps.refl _
  rfl

theorem engRetry_keeps (s : State) (x1 : Nat) (x2 : Nat) :
    KeepsOut [.routers, .engines] s (engRetry s x1 x2) := by
  unfold engRetry
  split
  refine KeepsOut.next ?_
  exact Keeps.refl _
  split
  refine KeepsOut.next ?_
  exact Keeps.refl _
  refine whenB_keeps2 ?_ ?_
  exact Keeps.refl _
  with_reducible refine Keeps.step ?_ (pumpEngine_keeps ..) ?_
  with_reducible refine Keeps.step ?_ (engReopen_keeps ..) ?_
  with_reducible refine Keeps.step ?_ (engDrop_keeps ..) ?_
  exact Keeps.refl _
  rfl
  rfl
  rfl

theorem execMessageRetry_keeps (x0 : Nat) (x1 : Nat) (s : State) :
    KeepsOut [.tiles, .routers, .engines] s (execMessageRetry x0 x1 s) := by
  unfold execMessageRetry
  split
  with_reducible refine KeepsOut.step ?_ (engRetry_keeps ..) ?_
  exact Keeps.refl _
  rfl
  refine needUnit_keeps ?_
  with_reducible refine KeepsOut.step ?_ (tileMessageRetry_keeps ..) ?_
  exact Keeps.refl _
  rfl

theorem retransmitRow_keeps (x0 : Nat) (x1 : Nat) (x2 : Nat) (s : State) :
    KeepsOut [.tiles, .routers, .engines] s (retransmitRow x0 x1 x2 s) := by
  unfold retransmitRow
  split
  split
  refine whenB_keeps2 ?_ ?_
  exact Keeps.refl _
  with_reducible refine Keeps.step ?_ (engResend_keeps ..) ?_
  exact Keeps.refl _
  rfl
  refine KeepsOut.next ?_
  exact Keeps.refl _
  refine needUnit_keeps ?_
  with_reducible refine KeepsOut.step ?_ (tileTimeout_keeps ..) ?_
  exact Keeps.refl _
  rfl

end Sys2Proof.Machine
end

