-- ==== Sys2Proof/Laws/Tarn.lean ====
section
/-! SUPPORT. What the operations of Machine/Tarn.lean may change: for each, the parts of the state. -/

namespace Sys2Proof.Machine

theorem setPort_keeps (s : State) (x1 : Nat) (x2 : Port) :
    Keeps [.fab] s (setPort s x1 x2) := by
  unfold setPort
  with_reducible refine Keeps.set_fab (rfl) ?_ ?_ ?_
  with_reducible exact fun h => ⟨h.1, h.2, h.3, h.4, h.5, h.6, h.7, h.8, h.9, h.10⟩
  exact ⟨Nat.le_refl _, Nat.le_refl _, rfl, rfl, rfl, rfl, rfl⟩
  exact Keeps.refl _

theorem updPort_keeps (s : State) (x1 : Nat) (x2 : Port → Port) :
    Keeps [.fab] s (updPort s x1 x2) := by
  unfold updPort
  with_reducible refine Keeps.step ?_ (setPort_keeps ..) ?_
  exact Keeps.refl _
  rfl

theorem countGw_keeps (s : State) (x1 : Nat) (x2 : Nat) (x3 : Nat) :
    Keeps [.engines] s (countGw s x1 x2 x3) := by
  unfold countGw
  with_reducible refine Keeps.step ?_ (updEngine_keeps ..) ?_
  exact Keeps.refl _
  rfl

theorem sendStream_keeps (s : State) (x1 : Nat) (x2 : Nat) (x3 : Bool) :
    Keeps [.engines, .fab] s (sendStream s x1 x2 x3) := by
  unfold sendStream
  dsimp only
  with_reducible refine Keeps.ite ?_ ?_
  exact Keeps.refl _
  with_reducible refine Keeps.step ?_ (setPort_keeps ..) ?_
  with_reducible refine Keeps.ite ?_ ?_
  exact Keeps.refl _
  with_reducible refine Keeps.step ?_ (countGw_keeps ..) ?_
  exact Keeps.refl _
  rfl
  rfl

theorem pumpStreams_keeps (s : State) (x1 : Nat) (x2 : Bool) :
    Keeps [.engines, .fab] s (pumpStreams s x1 x2) := by
  unfold pumpStreams
  with_reducible refine Keeps.ite ?_ ?_
  with_reducible refine Keeps.foldl ?_ ?_
  exact Keeps.refl _
  intro y3
  intro y4
  with_reducible refine Keeps.ite ?_ ?_
  exact Keeps.refl _
  with_reducible refine Keeps.step ?_ (sendStream_keeps ..) ?_
  exact Keeps.refl _
  rfl
  exact Keeps.refl _

theorem pumpPort_keeps (s : State) (x1 : Nat) :
    Keeps [.engines, .fab] s (pumpPort s x1) := by
  unfold pumpPort
  with_reducible refine Keeps.step ?_ (pumpStreams_keeps ..) ?_
  exact Keeps.refl _
  rfl

theorem portChanged_keeps (s : State) (x1 : Nat) :
    Keeps [.fns, .recorder, .flt, .outbox, .msis] s (portChanged s x1) := by
  unfold portChanged
  with_reducible refine Keeps.step ?_ (send_keeps ..) ?_
  with_reducible refine Keeps.step ?_ (devEvent_keeps ..) ?_
  exact Keeps.refl _
  rfl
  rfl

theorem enterState_keeps (s : State) (x1 : Nat) (x2 : Nat) :
    Keeps [.fns, .recorder, .flt, .outbox, .msis, .fab] s (enterState s x1 x2) := by
  unfold enterState
  with_reducible refine Keeps.step ?_ (portChanged_keeps ..) ?_
  with_reducible refine Keeps.step ?_ (updPort_keeps ..) ?_
  exact Keeps.refl _
  rfl
  rfl

theorem failPort_keeps (s : State) (x1 : Nat) (x2 : Nat) :
    Keeps [.fns, .recorder, .flt, .outbox, .msis, .fab] s (failPort s x1 x2) := by
  unfold failPort
  dsimp only
  with_reducible refine Keeps.step ?_ (devEvent_keeps ..) ?_
  with_reducible refine Keeps.step ?_ (enterState_keeps ..) ?_
  with_reducible refine Keeps.step ?_ (updPort_keeps ..) ?_
  exact Keeps.refl _
  rfl
  rfl
  rfl

theorem unqueue_keeps (s : State) (x1 : Nat) :
    Keeps [.engines, .fab] s (unqueue s x1) := by
  unfold unqueue
  dsimp only
  with_reducible refine Keeps.step ?_ (updEngine_keeps ..) ?_
  with_reducible refine Keeps.step ?_ (updPort_keeps ..) ?_
  exact Keeps.refl _
  rfl
  rfl

theorem departPort_keeps (s : State) (x1 : Nat) (x2 : Nat) :
    Keeps [.engines, .fab] s (departPort s x1 x2) := by
  unfold departPort
  dsimp only
  with_reducible refine Keeps.step ?_ (unqueue_keeps ..) ?_
  with_reducible refine Keeps.step ?_ (updPort_keeps ..) ?_
  with_reducible refine Keeps.step ?_ (updEngine_keeps ..) ?_
  exact Keeps.refl _
  rfl
  rfl
  rfl

theorem leaveActive_keeps (s : State) (x1 : Nat) (x2 : Nat) (x3 : Nat) :
    Keeps [.engines, .fns, .recorder, .flt, .outbox, .msis, .fab] s (leaveActive s x1 x2 x3) := by
  unfold leaveActive
  dsimp only
  with_reducible refine Keeps.ite ?_ ?_
  with_reducible refine Keeps.step ?_ (failPort_keeps ..) ?_
  with_reducible refine Keeps.step ?_ (departPort_keeps ..) ?_
  exact Keeps.refl _
  rfl
  rfl
  with_reducible refine Keeps.step ?_ (enterState_keeps ..) ?_
  with_reducible refine Keeps.step ?_ (departPort_keeps ..) ?_
  exact Keeps.refl _
  rfl
  rfl

theorem moveTo_keeps (s : State) (x1 : Nat) (x2 : Nat) (x3 : Nat) :
    Keeps [.engines, .fns, .recorder, .flt, .outbox, .msis, .fab] s (moveTo s x1 x2 x3) := by
  unfold moveTo
  with_reducible refine Keeps.ite ?_ ?_
  with_reducible refine Keeps.step ?_ (leaveActive_keeps ..) ?_
  exact Keeps.refl _
  rfl
  with_reducible refine Keeps.step ?_ (enterState_keeps ..) ?_
  with_reducible refine Keeps.step ?_ (updPort_keeps ..) ?_
  exact Keeps.refl _
  rfl
  rfl

theorem takeHeader_keeps (s : State) (x1 : Nat) (x2 : Flit) :
    Keeps [.engines, .fab] s (takeHeader s x1 x2) := by
  unfold takeHeader
  with_reducible refine Keeps.step ?_ (pumpPort_keeps ..) ?_
  with_reducible refine Keeps.step ?_ (updPort_keeps ..) ?_
  exact Keeps.refl _
  rfl
  rfl

theorem noteRxXoff_keeps (s : State) (x1 : Nat) :
    Keeps [.fab] s (noteRxXoff s x1) := by
  unfold noteRxXoff
  dsimp only
  with_reducible refine Keeps.step ?_ (updPort_keeps ..) ?_
  exact Keeps.refl _
  rfl

theorem acceptData_keeps (s : State) (x1 : Nat) (x2 : Flit) :
    Keeps [.engines, .fab] s (acceptData s x1 x2) := by
  unfold acceptData
  dsimp only
  with_reducible refine Keeps.step ?_ (noteRxXoff_keeps ..) ?_
  with_reducible refine Keeps.step ?_ (updEngine_keeps ..) ?_
  with_reducible refine Keeps.step ?_ (updPort_keeps ..) ?_
  exact Keeps.refl _
  rfl
  rfl
  rfl

theorem requestReplay_keeps (s : State) (x1 : Nat) :
    Keeps [.fab] s (requestReplay s x1) := by
  unfold requestReplay
  with_reducible refine Keeps.step ?_ (updPort_keeps ..) ?_
  exact Keeps.refl _
  rfl

theorem flitData_keeps (s : State) (x1 : Nat) (x2 : Flit) :
    Keeps [.engines, .fab] s (flitData s x1 x2) := by
  unfold flitData
  dsimp only
  with_reducible refine Keeps.ite ?_ ?_
  with_reducible refine Keeps.step ?_ (acceptData_keeps ..) ?_
  with_reducible refine Keeps.step ?_ (takeHeader_keeps ..) ?_
  exact Keeps.refl _
  rfl
  rfl
  with_reducible refine Keeps.ite ?_ ?_
  with_reducible refine Keeps.step ?_ (requestReplay_keeps ..) ?_
  with_reducible refine Keeps.step ?_ (takeHeader_keeps ..) ?_
  exact Keeps.refl _
  rfl
  rfl
  with_reducible refine Keeps.step ?_ (updPort_keeps ..) ?_
  with_reducible refine Keeps.step ?_ (takeHeader_keeps ..) ?_
  exact Keeps.refl _
  rfl
  rfl

theorem crcFail_keeps (s : State) (x1 : Nat) :
    Keeps [.fab] s (crcFail s x1) := by
  unfold crcFail
  with_reducible refine Keeps.step ?_ (updPort_keeps ..) ?_
  exact Keeps.refl _
  rfl

theorem noteFec_keeps (s : State) (x1 : Nat) (x2 : FecSeen) :
    Keeps [.fab] s (noteFec s x1 x2) := by
  unfold noteFec
  with_reducible refine Keeps.ite ?_ ?_
  exact Keeps.refl _
  with_reducible refine Keeps.step ?_ (updPort_keeps ..) ?_
  exact Keeps.refl _
  rfl

theorem execFlitCrcFail_keeps (x0 : Nat) (s : State) (x2 : optParam FecSeen { corr := [], uncorr := 0 }) :
    KeepsOut [.fab] s (execFlitCrcFail x0 s x2) := by
  unfold execFlitCrcFail
  refine needUnit_keeps ?_
  refine KeepsOut.next ?_
  with_reducible refine Keeps.step ?_ (crcFail_keeps ..) ?_
  with_reducible refine Keeps.step ?_ (noteFec_keeps ..) ?_
  exact Keeps.refl _
  rfl
  rfl

theorem flitRx_keeps {L : List Part} (hL : sub [.fab] L = true) (s : State) (x1 : Nat) (x2 : Nat) (x3 : Flit) (x4 : State → Flit → State) (h4 : ∀ a0 a1, Keeps L a0 (x4 a0 a1)) :
    Keeps L s (flitRx s x1 x2 x3 x4) := by
  unfold flitRx
  with_reducible refine Keeps.ite ?_ ?_
  exact Keeps.refl _
  with_reducible refine Keeps.ite ?_ ?_
  with_reducible refine Keeps.step ?_ (crcFail_keeps ..) ?_
  exact Keeps.refl _
  exact hL
  with_reducible refine Keeps.ite ?_ ?_
  with_reducible refine Keeps.step ?_ (h4 ..) (sub_refl _)
  exact Keeps.refl _
  exact Keeps.refl _

theorem flitIn_keeps {L : List Part} (hL : sub [.fab] L = true) (s : State) (x1 : Nat) (x2 : Nat) (x3 : Flit) (x4 : List Byte) (x5 : State → Flit → State) (h5 : ∀ a0 a1, Keeps L a0 (x5 a0 a1)) :
    Keeps L s (flitIn s x1 x2 x3 x4 x5) := by
  unfold flitIn
  split
  with_reducible refine Keeps.step ?_ (flitRx_keeps (L := L) (sub_trans rfl hL) _ _ _ _ _ ?_) (sub_refl _)
  exact Keeps.refl _
  intro y3
  intro y4
  with_reducible refine Keeps.step ?_ (h5 ..) (sub_refl _)
  exact Keeps.refl _
  split
  with_reducible refine Keeps.ite ?_ ?_
  with_reducible refine Keeps.step ?_ (crcFail_keeps ..) ?_
  exact Keeps.refl _
  exact hL
  exact Keeps.refl _
  with_reducible refine Keeps.step ?_ (flitRx_keeps (L := L) (sub_trans rfl hL) _ _ _ _ _ ?_) (sub_refl _)
  exact Keeps.refl _
  intro y15
  intro y16
  with_reducible refine Keeps.step ?_ (h5 ..) (sub_refl _)
  exact Keeps.refl _

theorem execFlitDataRx_keeps (x0 : Nat) (x1 : Flit) (s : State) (x3 : List Byte) (x4 : optParam FecSeen { corr := [], uncorr := 0 }) :
    KeepsOut [.engines, .fab] s (execFlitDataRx x0 x1 s x3 x4) := by
  unfold execFlitDataRx
  refine needUnit_keeps ?_
  refine KeepsOut.next ?_
  with_reducible refine Keeps.step ?_ (flitIn_keeps (L := [.engines, .fab]) (rfl) _ _ _ _ _ _ ?_) (sub_refl _)
  with_reducible refine Keeps.step ?_ (noteFec_keeps ..) ?_
  exact Keeps.refl _
  rfl
  intro y6
  intro y7
  with_reducible refine Keeps.step ?_ (flitData_keeps ..) ?_
  exact Keeps.refl _
  rfl

theorem execFlitIdleRx_keeps (x0 : Nat) (x1 : Flit) (s : State) (x3 : List Byte) (x4 : optParam FecSeen { corr := [], uncorr := 0 }) :
    KeepsOut [.engines, .fab] s (execFlitIdleRx x0 x1 s x3 x4) := by
  unfold execFlitIdleRx
  refine needUnit_keeps ?_
  refine KeepsOut.next ?_
  with_reducible refine Keeps.step ?_ (flitIn_keeps (L := [.engines, .fab]) (rfl) _ _ _ _ _ _ ?_) (sub_refl _)
  with_reducible refine Keeps.step ?_ (noteFec_keeps ..) ?_
  exact Keeps.refl _
  rfl
  intro y6
  intro y7
  with_reducible refine Keeps.step ?_ (takeHeader_keeps ..) ?_
  exact Keeps.refl _
  rfl

theorem replayReq_keeps (s : State) (x1 : Nat) (x2 : Flit) :
    Keeps [.engines, .fns, .recorder, .flt, .outbox, .msis, .fab] s (replayReq s x1 x2) := by
  unfold replayReq
  dsimp only
  split
  with_reducible refine Keeps.step ?_ (leaveActive_keeps ..) ?_
  with_reducible refine Keeps.step ?_ (updPort_keeps ..) ?_
  exact Keeps.refl _
  rfl
  rfl
  with_reducible refine Keeps.ite ?_ ?_
  with_reducible refine Keeps.step ?_ (leaveActive_keeps ..) ?_
  with_reducible refine Keeps.step ?_ (updPort_keeps ..) ?_
  exact Keeps.refl _
  rfl
  rfl
  with_reducible refine Keeps.step ?_ (pumpPort_keeps ..) ?_
  with_reducible refine Keeps.step ?_ (updPort_keeps ..) ?_
  with_reducible refine Keeps.step ?_ (updPort_keeps ..) ?_
  exact Keeps.refl _
  rfl
  rfl
  rfl

theorem execReplayReqRx_keeps (x0 : Nat) (x1 : Flit) (s : State) (x3 : List Byte) (x4 : optParam FecSeen { corr := [], uncorr := 0 }) :
    KeepsOut [.engines, .fns, .recorder, .flt, .outbox, .msis, .fab] s (execReplayReqRx x0 x1 s x3 x4) := by
  unfold execReplayReqRx
  refine needUnit_keeps ?_
  refine KeepsOut.next ?_
  with_reducible refine Keeps.step ?_ (flitIn_keeps (L := [.engines, .fns, .recorder, .flt, .outbox, .msis, .fab]) (rfl) _ _ _ _ _ _ ?_) (sub_refl _)
  with_reducible refine Keeps.step ?_ (noteFec_keeps ..) ?_
  exact Keeps.refl _
  rfl
  intro y6
  intro y7
  with_reducible refine Keeps.step ?_ (replayReq_keeps ..) ?_
  exact Keeps.refl _
  rfl

theorem negotiate_keeps (s : State) (x1 : Nat) (x2 : TrainWords) :
    Keeps [.fns, .recorder, .flt, .outbox, .msis, .fab] s (negotiate s x1 x2) := by
  unfold negotiate
  dsimp only
  split
  with_reducible refine Keeps.step ?_ (failPort_keeps ..) ?_
  with_reducible refine Keeps.step ?_ (setPort_keeps ..) ?_
  with_reducible refine Keeps.set_fab (rfl) ?_ ?_ ?_
  with_reducible exact fun h => ⟨h.1, h.2, h.3, h.4, h.5, h.6, h.7, h.8, h.9, h.10⟩
  exact ⟨Nat.le_refl _, Nat.le_refl _, rfl, rfl, rfl, rfl, rfl⟩
  exact Keeps.refl _
  rfl
  rfl
  with_reducible refine Keeps.ite ?_ ?_
  with_reducible refine Keeps.step ?_ (failPort_keeps ..) ?_
  with_reducible refine Keeps.step ?_ (setPort_keeps ..) ?_
  with_reducible refine Keeps.set_fab (rfl) ?_ ?_ ?_
  with_reducible exact fun h => ⟨h.1, h.2, h.3, h.4, h.5, h.6, h.7, h.8, h.9, h.10⟩
  exact ⟨Nat.le_refl _, Nat.le_refl _, rfl, rfl, rfl, rfl, rfl⟩
  exact Keeps.refl _
  rfl
  rfl
  with_reducible refine Keeps.ite ?_ ?_
  with_reducible refine Keeps.step ?_ (failPort_keeps ..) ?_
  with_reducible refine Keeps.step ?_ (setPort_keeps ..) ?_
  with_reducible refine Keeps.set_fab (rfl) ?_ ?_ ?_
  with_reducible exact fun h => ⟨h.1, h.2, h.3, h.4, h.5, h.6, h.7, h.8, h.9, h.10⟩
  exact ⟨Nat.le_refl _, Nat.le_refl _, rfl, rfl, rfl, rfl, rfl⟩
  exact Keeps.refl _
  rfl
  rfl
  with_reducible refine Keeps.step ?_ (enterState_keeps ..) ?_
  with_reducible refine Keeps.step ?_ (updPort_keeps ..) ?_
  with_reducible refine Keeps.step ?_ (setPort_keeps ..) ?_
  with_reducible refine Keeps.set_fab (rfl) ?_ ?_ ?_
  with_reducible exact fun h => ⟨h.1, h.2, h.3, h.4, h.5, h.6, h.7, h.8, h.9, h.10⟩
  exact ⟨Nat.le_refl _, Nat.le_refl _, rfl, rfl, rfl, rfl, rfl⟩
  exact Keeps.refl _
  rfl
  rfl
  rfl

theorem execTrainRx_keeps (x0 : Nat) (x1 : TrainWords) (s : State) :
    KeepsOut [.engines, .fns, .recorder, .flt, .outbox, .msis, .fab] s (execTrainRx x0 x1 s) := by
  unfold execTrainRx
  refine needUnit_keeps ?_
  dsimp only
  refine KeepsOut.next ?_
  with_reducible refine Keeps.ite ?_ ?_
  with_reducible refine Keeps.step ?_ (leaveActive_keeps ..) ?_
  exact Keeps.refl _
  rfl
  with_reducible refine Keeps.ite ?_ ?_
  with_reducible refine Keeps.step ?_ (enterState_keeps ..) ?_
  exact Keeps.refl _
  rfl
  with_reducible refine Keeps.ite ?_ ?_
  with_reducible refine Keeps.step ?_ (negotiate_keeps ..) ?_
  exact Keeps.refl _
  rfl
  exact Keeps.refl _

theorem execPortIdleTimeout_keeps (x0 : Nat) (s : State) :
    KeepsOut [.fns, .recorder, .flt, .outbox, .msis, .fab] s (execPortIdleTimeout x0 s) := by
  unfold execPortIdleTimeout
  refine needUnit_keeps ?_
  dsimp only
  refine whenB_keeps2 ?_ ?_
  exact Keeps.refl _
  with_reducible refine Keeps.step ?_ (enterState_keeps ..) ?_
  exact Keeps.refl _
  rfl

theorem execPortDetectTimeout_keeps (x0 : Nat) (s : State) :
    KeepsOut [.fns, .recorder, .flt, .outbox, .msis, .fab] s (execPortDetectTimeout x0 s) := by
  unfold execPortDetectTimeout
  refine needUnit_keeps ?_
  dsimp only
  refine whenB_keeps2 ?_ ?_
  exact Keeps.refl _
  with_reducible refine Keeps.step ?_ (failPort_keeps ..) ?_
  exact Keeps.refl _
  rfl

theorem execEqualiseDone_keeps (x0 : Nat) (x1 : Bool) (s : State) :
    KeepsOut [.fns, .recorder, .flt, .outbox, .msis, .fab] s (execEqualiseDone x0 x1 s) := by
  unfold execEqualiseDone
  refine needUnit_keeps ?_
  dsimp only
  refine whenB_keeps2 ?_ ?_
  exact Keeps.refl _
  with_reducible refine Keeps.ite ?_ ?_
  with_reducible refine Keeps.step ?_ (enterState_keeps ..) ?_
  exact Keeps.refl _
  rfl
  with_reducible refine Keeps.ite ?_ ?_
  with_reducible refine Keeps.step ?_ (updPort_keeps ..) ?_
  exact Keeps.refl _
  rfl
  with_reducible refine Keeps.step ?_ (failPort_keeps ..) ?_
  exact Keeps.refl _
  rfl

theorem execAlignDone_keeps (x0 : Nat) (x1 : Bool) (x2 : Nat) (s : State) :
    KeepsOut [.fns, .recorder, .flt, .outbox, .msis, .fab] s (execAlignDone x0 x1 x2 s) := by
  unfold execAlignDone
  refine needUnit_keeps ?_
  dsimp only
  refine whenB_keeps2 ?_ ?_
  exact Keeps.refl _
  with_reducible refine Keeps.ite ?_ ?_
  with_reducible refine Keeps.step ?_ (failPort_keeps ..) ?_
  exact Keeps.refl _
  rfl
  with_reducible refine Keeps.ite ?_ ?_
  with_reducible refine Keeps.step ?_ (failPort_keeps ..) ?_
  with_reducible refine Keeps.step ?_ (updPort_keeps ..) ?_
  exact Keeps.refl _
  rfl
  rfl
  with_reducible refine Keeps.step ?_ (enterState_keeps ..) ?_
  with_reducible refine Keeps.step ?_ (updPort_keeps ..) ?_
  exact Keeps.refl _
  rfl
  rfl

theorem saveLink_keeps (s : State) (x1 : Nat) :
    Keeps [.fab] s (saveLink s x1) := by
  unfold saveLink
  dsimp only
  with_reducible refine Keeps.set_fab (rfl) ?_ ?_ ?_
  with_reducible exact fun h => ⟨h.1, h.2, h.3, h.4, h.5, h.6, h.7, h.8, h.9, h.10⟩
  exact ⟨Nat.le_refl _, Nat.le_refl _, rfl, rfl, rfl, rfl, rfl⟩
  exact Keeps.refl _

theorem execQualifyDone_keeps (x0 : Nat) (x1 : Nat) (s : State) :
    KeepsOut [.fns, .recorder, .flt, .outbox, .msis, .fab] s (execQualifyDone x0 x1 s) := by
  unfold execQualifyDone
  refine needUnit_keeps ?_
  dsimp only
  refine whenB_keeps2 ?_ ?_
  exact Keeps.refl _
  with_reducible refine Keeps.ite ?_ ?_
  with_reducible refine Keeps.step ?_ (enterState_keeps ..) ?_
  with_reducible refine Keeps.step ?_ (saveLink_keeps ..) ?_
  with_reducible refine Keeps.step ?_ (updPort_keeps ..) ?_
  exact Keeps.refl _
  rfl
  rfl
  rfl
  with_reducible refine Keeps.ite ?_ ?_
  with_reducible refine Keeps.step ?_ (enterState_keeps ..) ?_
  with_reducible refine Keeps.step ?_ (updPort_keeps ..) ?_
  exact Keeps.refl _
  rfl
  rfl
  with_reducible refine Keeps.ite ?_ ?_
  with_reducible refine Keeps.step ?_ (enterState_keeps ..) ?_
  with_reducible refine Keeps.step ?_ (updPort_keeps ..) ?_
  exact Keeps.refl _
  rfl
  rfl
  with_reducible refine Keeps.step ?_ (failPort_keeps ..) ?_
  with_reducible refine Keeps.step ?_ (updPort_keeps ..) ?_
  exact Keeps.refl _
  rfl
  rfl

theorem execPortStateBoundExpiry_keeps (x0 : Nat) (s : State) :
    KeepsOut [.fns, .recorder, .flt, .outbox, .msis, .fab] s (execPortStateBoundExpiry x0 s) := by
  unfold execPortStateBoundExpiry
  refine needUnit_keeps ?_
  dsimp only
  refine KeepsOut.next ?_
  with_reducible refine Keeps.ite ?_ ?_
  with_reducible refine Keeps.step ?_ (failPort_keeps ..) ?_
  exact Keeps.refl _
  rfl
  with_reducible refine Keeps.ite ?_ ?_
  with_reducible refine Keeps.step ?_ (failPort_keeps ..) ?_
  exact Keeps.refl _
  rfl
  with_reducible refine Keeps.ite ?_ ?_
  with_reducible refine Keeps.step ?_ (failPort_keeps ..) ?_
  exact Keeps.refl _
  rfl
  exact Keeps.refl _

theorem lossOfSignal_keeps (s : State) (x1 : Nat) :
    Keeps [.engines, .fns, .recorder, .flt, .outbox, .msis, .fab] s (lossOfSignal s x1) := by
  unfold lossOfSignal
  dsimp only
  with_reducible refine Keeps.ite ?_ ?_
  with_reducible refine Keeps.step ?_ (moveTo_keeps ..) ?_
  exact Keeps.refl _
  rfl
  exact Keeps.refl _

theorem execPortLossOfSignal_keeps (x0 : Nat) (s : State) :
    KeepsOut [.engines, .fns, .recorder, .flt, .outbox, .msis, .fab] s (execPortLossOfSignal x0 s) := by
  unfold execPortLossOfSignal
  refine needUnit_keeps ?_
  refine KeepsOut.next ?_
  with_reducible refine Keeps.step ?_ (lossOfSignal_keeps ..) ?_
  with_reducible refine Keeps.step ?_ (updPort_keeps ..) ?_
  exact Keeps.refl _
  rfl
  rfl

theorem execPortErrorLimit_keeps (x0 : Nat) (x1 : Nat) (s : State) :
    KeepsOut [.engines, .fns, .recorder, .flt, .outbox, .msis, .fab] s (execPortErrorLimit x0 x1 s) := by
  unfold execPortErrorLimit
  refine needUnit_keeps ?_
  refine whenB_keeps2 ?_ ?_
  exact Keeps.refl _
  with_reducible refine Keeps.step ?_ (leaveActive_keeps ..) ?_
  exact Keeps.refl _
  rfl

theorem execPortFailedRetry_keeps (x0 : Nat) (s : State) :
    KeepsOut [.fns, .recorder, .flt, .outbox, .msis, .fab] s (execPortFailedRetry x0 s) := by
  unfold execPortFailedRetry
  refine needUnit_keeps ?_
  dsimp only
  refine whenB_keeps2 ?_ ?_
  exact Keeps.refl _
  with_reducible refine Keeps.step ?_ (enterState_keeps ..) ?_
  exact Keeps.refl _
  rfl

theorem execPortSignalDetect_keeps (x0 : Nat) (s : State) :
    KeepsOut [.fns, .recorder, .flt, .outbox, .msis, .fab] s (execPortSignalDetect x0 s) := by
  unfold execPortSignalDetect
  refine needUnit_keeps ?_
  dsimp only
  refine whenB_keeps2 ?_ ?_
  with_reducible refine Keeps.step ?_ (setPort_keeps ..) ?_
  exact Keeps.refl _
  rfl
  with_reducible refine Keeps.step ?_ (enterState_keeps ..) ?_
  with_reducible refine Keeps.step ?_ (setPort_keeps ..) ?_
  exact Keeps.refl _
  rfl
  rfl

theorem resetPort_keeps (s : State) (x1 : Nat) :
    Keeps [.engines, .fns, .recorder, .flt, .outbox, .msis, .fab] s (resetPort s x1) := by
  unfold resetPort
  dsimp only
  with_reducible refine Keeps.step ?_ (portChanged_keeps ..) ?_
  with_reducible refine Keeps.step ?_ (setPort_keeps ..) ?_
  with_reducible refine Keeps.ite ?_ ?_
  with_reducible refine Keeps.step ?_ (departPort_keeps ..) ?_
  exact Keeps.refl _
  rfl
  with_reducible refine Keeps.step ?_ (unqueue_keeps ..) ?_
  exact Keeps.refl _
  rfl
  rfl
  rfl

theorem execFabricPortReset_keeps (x0 : Nat) (s : State) :
    KeepsOut [.engines, .fns, .recorder, .flt, .outbox, .msis, .fab] s (execFabricPortReset x0 s) := by
  unfold execFabricPortReset
  refine needUnit_keeps ?_
  refine KeepsOut.next ?_
  with_reducible refine Keeps.step ?_ (resetPort_keeps ..) ?_
  exact Keeps.refl _
  rfl

theorem retrainPort_keeps (s : State) (x1 : Nat) :
    Keeps [.engines, .fns, .recorder, .flt, .outbox, .msis, .fab] s (retrainPort s x1) := by
  unfold retrainPort
  dsimp only
  with_reducible refine Keeps.ite ?_ ?_
  exact Keeps.refl _
  with_reducible refine Keeps.ite ?_ ?_
  with_reducible refine Keeps.step ?_ (enterState_keeps ..) ?_
  exact Keeps.refl _
  rfl
  with_reducible refine Keeps.ite ?_ ?_
  exact Keeps.refl _
  with_reducible refine Keeps.step ?_ (moveTo_keeps ..) ?_
  exact Keeps.refl _
  rfl

theorem execTrnPortCtlRetrain_keeps (x0 : Nat) (s : State) :
    KeepsOut [.engines, .fns, .recorder, .flt, .outbox, .msis, .fab] s (execTrnPortCtlRetrain x0 s) := by
  unfold execTrnPortCtlRetrain
  refine needUnit_keeps ?_
  refine KeepsOut.next ?_
  with_reducible refine Keeps.step ?_ (retrainPort_keeps ..) ?_
  exact Keeps.refl _
  rfl

theorem keepCtl_keeps (s : State) (x1 : Nat) :
    Keeps [.fab] s (keepCtl s x1) := by
  unfold keepCtl
  with_reducible refine Keeps.set_fab (rfl) ?_ ?_ ?_
  with_reducible exact fun h => ⟨h.1, h.2, h.3, h.4, h.5, h.6, h.7, h.8, h.9, h.10⟩
  exact ⟨Nat.le_refl _, Nat.le_refl _, rfl, rfl, rfl, rfl, rfl⟩
  exact Keeps.refl _

theorem enablePort_keeps (s : State) (x1 : Nat) :
    Keeps [.fns, .recorder, .flt, .outbox, .msis, .fab] s (enablePort s x1) := by
  unfold enablePort
  dsimp only
  with_reducible refine Keeps.ite ?_ ?_
  with_reducible refine Keeps.ite ?_ ?_
  with_reducible refine Keeps.step ?_ (enterState_keeps ..) ?_
  with_reducible refine Keeps.step ?_ (enterState_keeps ..) ?_
  with_reducible refine Keeps.step ?_ (keepCtl_keeps ..) ?_
  with_reducible refine Keeps.step ?_ (updPort_keeps ..) ?_
  exact Keeps.refl _
  rfl
  rfl
  rfl
  rfl
  with_reducible refine Keeps.step ?_ (enterState_keeps ..) ?_
  with_reducible refine Keeps.step ?_ (keepCtl_keeps ..) ?_
  with_reducible refine Keeps.step ?_ (updPort_keeps ..) ?_
  exact Keeps.refl _
  rfl
  rfl
  rfl
  with_reducible refine Keeps.step ?_ (keepCtl_keeps ..) ?_
  with_reducible refine Keeps.step ?_ (updPort_keeps ..) ?_
  exact Keeps.refl _
  rfl
  rfl

theorem execTrnPortCtlEnSet_keeps (x0 : Nat) (s : State) :
    KeepsOut [.fns, .recorder, .flt, .outbox, .msis, .fab] s (execTrnPortCtlEnSet x0 s) := by
  unfold execTrnPortCtlEnSet
  refine needUnit_keeps ?_
  refine whenB_keeps2 ?_ ?_
  exact Keeps.refl _
  with_reducible refine Keeps.step ?_ (enablePort_keeps ..) ?_
  exact Keeps.refl _
  rfl

theorem disablePort_keeps (s : State) (x1 : Nat) :
    Keeps [.engines, .fns, .recorder, .flt, .outbox, .msis, .fab] s (disablePort s x1) := by
  unfold disablePort
  dsimp only
  with_reducible refine Keeps.step ?_ (enterState_keeps ..) ?_
  with_reducible refine Keeps.step ?_ (keepCtl_keeps ..) ?_
  with_reducible refine Keeps.step ?_ (updPort_keeps ..) ?_
  with_reducible refine Keeps.ite ?_ ?_
  with_reducible refine Keeps.step ?_ (leaveActive_keeps ..) ?_
  exact Keeps.refl _
  rfl
  with_reducible refine Keeps.step ?_ (unqueue_keeps ..) ?_
  exact Keeps.refl _
  rfl
  rfl
  rfl
  rfl

theorem writePortCtl_keeps (s : State) (x1 : Nat) (x2 : Nat) :
    Keeps [.engines, .fns, .recorder, .flt, .outbox, .msis, .fab] s (writePortCtl s x1 x2) := by
  unfold writePortCtl
  dsimp only
  with_reducible refine Keeps.ite ?_ ?_
  with_reducible refine Keeps.step ?_ (retrainPort_keeps ..) ?_
  with_reducible refine Keeps.ite ?_ ?_
  with_reducible refine Keeps.step ?_ (enablePort_keeps ..) ?_
  with_reducible refine Keeps.step ?_ (keepCtl_keeps ..) ?_
  with_reducible refine Keeps.step ?_ (updPort_keeps ..) ?_
  exact Keeps.refl _
  rfl
  rfl
  rfl
  with_reducible refine Keeps.ite ?_ ?_
  with_reducible refine Keeps.step ?_ (disablePort_keeps ..) ?_
  with_reducible refine Keeps.step ?_ (keepCtl_keeps ..) ?_
  with_reducible refine Keeps.step ?_ (updPort_keeps ..) ?_
  exact Keeps.refl _
  rfl
  rfl
  rfl
  with_reducible refine Keeps.step ?_ (keepCtl_keeps ..) ?_
  with_reducible refine Keeps.step ?_ (updPort_keeps ..) ?_
  exact Keeps.refl _
  rfl
  rfl
  rfl
  with_reducible refine Keeps.ite ?_ ?_
  with_reducible refine Keeps.step ?_ (enablePort_keeps ..) ?_
  with_reducible refine Keeps.step ?_ (keepCtl_keeps ..) ?_
  with_reducible refine Keeps.step ?_ (updPort_keeps ..) ?_
  exact Keeps.refl _
  rfl
  rfl
  rfl
  with_reducible refine Keeps.ite ?_ ?_
  with_reducible refine Keeps.step ?_ (disablePort_keeps ..) ?_
  with_reducible refine Keeps.step ?_ (keepCtl_keeps ..) ?_
  with_reducible refine Keeps.step ?_ (updPort_keeps ..) ?_
  exact Keeps.refl _
  rfl
  rfl
  rfl
  with_reducible refine Keeps.step ?_ (keepCtl_keeps ..) ?_
  with_reducible refine Keeps.step ?_ (updPort_keeps ..) ?_
  exact Keeps.refl _
  rfl
  rfl

theorem sendTrain_keeps (s : State) (x1 : Nat) :
    Keeps [.fab] s (sendTrain s x1) := by
  unfold sendTrain
  with_reducible refine Keeps.step ?_ (updPort_keeps ..) ?_
  exact Keeps.refl _
  rfl

theorem sendIdle_keeps (s : State) (x1 : Nat) :
    Keeps [.fab] s (sendIdle s x1) := by
  unfold sendIdle
  with_reducible refine Keeps.step ?_ (updPort_keeps ..) ?_
  exact Keeps.refl _
  rfl

theorem activeFlit_keeps (s : State) (x1 : Nat) :
    Keeps [.engines, .fab] s (activeFlit s x1) := by
  unfold activeFlit
  dsimp only
  with_reducible refine Keeps.ite ?_ ?_
  with_reducible refine Keeps.ite ?_ ?_
  with_reducible refine Keeps.step ?_ (sendIdle_keeps ..) ?_
  with_reducible refine Keeps.step ?_ (pumpStreams_keeps ..) ?_
  exact Keeps.refl _
  rfl
  rfl
  with_reducible refine Keeps.step ?_ (pumpStreams_keeps ..) ?_
  exact Keeps.refl _
  rfl
  with_reducible refine Keeps.step ?_ (updPort_keeps ..) ?_
  with_reducible refine Keeps.ite ?_ ?_
  with_reducible refine Keeps.step ?_ (sendIdle_keeps ..) ?_
  with_reducible refine Keeps.step ?_ (pumpStreams_keeps ..) ?_
  exact Keeps.refl _
  rfl
  rfl
  with_reducible refine Keeps.step ?_ (pumpStreams_keeps ..) ?_
  exact Keeps.refl _
  rfl
  rfl

theorem tickPort_keeps (s : State) (x1 : Nat) :
    Keeps [.engines, .fab] s (tickPort s x1) := by
  unfold tickPort
  dsimp only
  with_reducible refine Keeps.ite ?_ ?_
  exact Keeps.refl _
  with_reducible refine Keeps.ite ?_ ?_
  with_reducible refine Keeps.step ?_ (sendTrain_keeps ..) ?_
  exact Keeps.refl _
  rfl
  with_reducible refine Keeps.ite ?_ ?_
  with_reducible refine Keeps.step ?_ (sendIdle_keeps ..) ?_
  exact Keeps.refl _
  rfl
  with_reducible refine Keeps.ite ?_ ?_
  with_reducible refine Keeps.step ?_ (activeFlit_keeps ..) ?_
  exact Keeps.refl _
  rfl
  exact Keeps.refl _

end Sys2Proof.Machine
end

