-- ==== Sys2Proof/Laws/Gateway.lean ====
section
/-! SUPPORT. What the operations of Machine/Gateway.lean may change: for each, the parts of the state. -/

namespace Sys2Proof.Machine

theorem setFabState_keeps (s : State) (x1 : Nat) (x2 : VState) :
    Keeps [.fab] s (setFabState s x1 x2) := by
  unfold setFabState
  with_reducible refine Keeps.set_fab (rfl) ?_ ?_ ?_
  refine fun h => ⟨?_, ?_, ?_, ?_, ?_, ?_, ?_, ?_, ?_, ?_⟩
  with_reducible exact h.1
  with_reducible exact h.2
  (dsimp only; split <;> exact h.3)
  with_reducible exact h.4
  with_reducible exact h.5
  with_reducible exact h.6
  with_reducible exact h.7
  with_reducible exact h.8
  with_reducible exact h.9
  with_reducible exact h.10
  exact ⟨Nat.le_refl _, Nat.le_refl _, rfl, rfl, rfl, rfl, rfl⟩
  exact Keeps.refl _

theorem gwNack_keeps (s : State) (x1 : Nat) (x2 : Packet) (x3 : Nat) :
    Keeps [.routers, .engines] s (gwNack s x1 x2 x3) := by
  unfold gwNack
  with_reducible refine Keeps.ite ?_ ?_
  with_reducible refine Keeps.step ?_ (engAnswer_keeps ..) ?_
  exact Keeps.refl _
  rfl
  exact Keeps.refl _

theorem deliverTile_keeps (s : State) (x1 : Nat) (x2 : FabPacket) :
    Keeps [.routers, .engines] s (deliverTile s x1 x2) := by
  unfold deliverTile
  dsimp only
  with_reducible refine Keeps.ite ?_ ?_
  with_reducible refine Keeps.step ?_ (gwNack_keeps ..) ?_
  exact Keeps.refl _
  rfl
  split
  with_reducible refine Keeps.step ?_ (gwNack_keeps ..) ?_
  exact Keeps.refl _
  rfl
  with_reducible refine Keeps.step ?_ (injectSpine_keeps ..) ?_
  exact Keeps.refl _
  rfl

theorem deliverAnswer_keeps (s : State) (x1 : FabPacket) :
    Keeps [.routers, .engines] s (deliverAnswer s x1) := by
  unfold deliverAnswer
  dsimp only
  split
  with_reducible refine Keeps.step ?_ (updEngine_keeps ..) ?_
  exact Keeps.refl _
  rfl
  with_reducible refine Keeps.ite ?_ ?_
  with_reducible refine Keeps.step ?_ (injectSpine_keeps ..) ?_
  exact Keeps.refl _
  rfl
  exact Keeps.refl _

theorem deliverColl_keeps (s : State) (x1 : Nat) (x2 : FabPacket) :
    Keeps [.routers, .engines] s (deliverColl s x1 x2) := by
  unfold deliverColl
  split
  with_reducible refine Keeps.step ?_ (gwNack_keeps ..) ?_
  exact Keeps.refl _
  rfl
  with_reducible refine Keeps.step ?_ (updEngine_keeps ..) ?_
  exact Keeps.refl _
  rfl

theorem dozePacket_keeps (s : State) (x1 : Nat) (x2 : Packet) :
    Keeps [.routers, .engines, .pwr] s (dozePacket s x1 x2) := by
  unfold dozePacket
  with_reducible refine Keeps.ite ?_ ?_
  with_reducible refine Keeps.set_pwr (rfl) ?_
  exact Keeps.refl _
  dsimp only
  with_reducible refine Keeps.set_pwr (rfl) ?_
  with_reducible refine Keeps.step ?_ (gwNack_keeps ..) ?_
  exact Keeps.refl _
  rfl

theorem deliverHere_keeps (s : State) (x1 : Nat) (x2 : FabPacket) :
    Keeps [.routers, .engines, .pwr] s (deliverHere s x1 x2) := by
  unfold deliverHere
  dsimp only
  with_reducible refine Keeps.ite ?_ ?_
  with_reducible refine Keeps.step ?_ (dozePacket_keeps ..) ?_
  exact Keeps.refl _
  rfl
  with_reducible refine Keeps.ite ?_ ?_
  with_reducible refine Keeps.step ?_ (deliverColl_keeps ..) ?_
  exact Keeps.refl _
  rfl
  with_reducible refine Keeps.ite ?_ ?_
  with_reducible refine Keeps.step ?_ (deliverAnswer_keeps ..) ?_
  exact Keeps.refl _
  rfl
  with_reducible refine Keeps.ite ?_ ?_
  with_reducible refine Keeps.step ?_ (deliverTile_keeps ..) ?_
  exact Keeps.refl _
  rfl
  exact Keeps.refl _

theorem routeOut_keeps (s : State) (x1 : Nat) (x2 : FabPacket) :
    Keeps [.routers, .engines, .fab, .pwr] s (routeOut s x1 x2).1 := by
  unfold routeOut
  split
  dsimp only
  with_reducible refine Keeps.step ?_ (countGw_keeps ..) ?_
  exact Keeps.refl _
  rfl
  dsimp only
  with_reducible refine Keeps.step ?_ (gwNack_keeps ..) ?_
  with_reducible refine Keeps.ite ?_ ?_
  with_reducible refine Keeps.step ?_ (countGw_keeps ..) ?_
  exact Keeps.refl _
  rfl
  exact Keeps.refl _
  rfl
  dsimp only
  with_reducible refine Keeps.step ?_ (deliverHere_keeps ..) ?_
  exact Keeps.refl _
  rfl
  dsimp only
  exact Keeps.refl _
  dsimp only
  with_reducible refine Keeps.step ?_ (pumpPort_keeps ..) ?_
  with_reducible refine Keeps.step ?_ (updPort_keeps ..) ?_
  with_reducible refine Keeps.ite ?_ ?_
  with_reducible refine Keeps.set_fab (rfl) ?_ ?_ ?_
  with_reducible exact fun h => ⟨h.1, h.2, h.3, h.4, h.5, h.6, h.7, h.8, h.9, h.10⟩
  exact ⟨Nat.le_refl _, Nat.le_refl _, rfl, rfl, rfl, rfl, rfl⟩
  exact Keeps.refl _
  exact Keeps.refl _
  rfl
  rfl

theorem sinkPacket_keeps (s : State) (x1 : Nat) (x2 : Packet) :
    Keeps [.routers, .engines, .fab] s (sinkPacket s x1 x2) := by
  unfold sinkPacket
  dsimp only
  with_reducible refine Keeps.ite ?_ ?_
  with_reducible refine Keeps.step ?_ (engAnswer_keeps ..) ?_
  with_reducible refine Keeps.set_fab (rfl) ?_ ?_ ?_
  with_reducible exact fun h => ⟨h.1, h.2, h.3, h.4, h.5, h.6, h.7, h.8, h.9, h.10⟩
  exact ⟨Nat.le_refl _, Nat.le_refl _, rfl, rfl, rfl, rfl, rfl⟩
  exact Keeps.refl _
  rfl
  with_reducible refine Keeps.set_fab (rfl) ?_ ?_ ?_
  with_reducible exact fun h => ⟨h.1, h.2, h.3, h.4, h.5, h.6, h.7, h.8, h.9, h.10⟩
  exact ⟨Nat.le_refl _, Nat.le_refl _, rfl, rfl, rfl, rfl, rfl⟩
  exact Keeps.refl _

theorem egressVc_keeps (s : State) (die vc : Nat) (t : State) (h : egressVc s die vc = some t) : Keeps [.routers, .engines, .fab, .pwr] s t := by
  unfold egressVc at h
  dsimp only at h
  split at h
  · cases h
  · split at h
    · cases h
    · split at h
      · cases h
      · cases h
        exact ((updEngine_keeps ..).mono rfl).step ((routeOut_keeps ..).mono rfl) (sub_refl _)

theorem outboundVc_keeps (s : State) (die vc : Nat) (t : State) (h : outboundVc s die vc = some t) : Keeps [.routers, .engines, .fab, .pwr] s t := by
  unfold outboundVc at h
  split at h
  · cases h
  · next p s1 e =>
    have k := (takeEng_keeps _ _ _ _ e).mono (show sub [.engines] [.routers, .engines, .fab, .pwr] = true from rfl)
    split at h
    · cases h
      exact k.step ((sinkPacket_keeps ..).mono rfl) (sub_refl _)
    · dsimp only at h
      split at h
      · cases h
      · cases h
        exact k.step ((routeOut_keeps ..).mono rfl) (sub_refl _)

theorem gatewayEgress_keeps (s : State) (x1 : Nat) : Keeps [.routers, .engines, .fab, .pwr] s (gatewayEgress s x1) := by
  unfold gatewayEgress
  split
  · next t e =>
    obtain ⟨_, _, h⟩ := List.exists_of_findSome?_eq_some e
    exact egressVc_keeps _ _ _ _ h
  · cases e : (List.range 4).findSome? (outboundVc s x1) with
    | none => exact Keeps.refl _
    | some t =>
      obtain ⟨_, _, h⟩ := List.exists_of_findSome?_eq_some e
      exact outboundVc_keeps _ _ _ _ h

theorem execGatewayEgress_keeps (x0 : Nat) (s : State) :
    KeepsOut [.routers, .engines, .fab, .pwr] s (execGatewayEgress x0 s) := by
  unfold execGatewayEgress
  refine needUnit_keeps ?_
  refine KeepsOut.next ?_
  with_reducible refine Keeps.step ?_ (gatewayEgress_keeps ..) ?_
  exact Keeps.refl _
  rfl

theorem transit_keeps (s : State) (x1 : Nat) (x2 : FabPacket) :
    Keeps [.engines] s (transit s x1 x2) := by
  unfold transit
  with_reducible refine Keeps.ite ?_ ?_
  with_reducible refine Keeps.step ?_ (countGw_keeps ..) ?_
  exact Keeps.refl _
  rfl
  with_reducible refine Keeps.step ?_ (updEngine_keeps ..) ?_
  exact Keeps.refl _
  rfl

theorem ingressPacket_keeps (s : State) (x1 : Nat) (x2 : FabPacket) :
    Keeps [.routers, .engines, .pwr] s (ingressPacket s x1 x2) := by
  unfold ingressPacket
  dsimp only
  with_reducible refine Keeps.ite ?_ ?_
  with_reducible refine Keeps.ite ?_ ?_
  with_reducible refine Keeps.step ?_ (gwNack_keeps ..) ?_
  with_reducible refine Keeps.step ?_ (countGw_keeps ..) ?_
  exact Keeps.refl _
  rfl
  rfl
  with_reducible refine Keeps.step ?_ (countGw_keeps ..) ?_
  exact Keeps.refl _
  rfl
  with_reducible refine Keeps.ite ?_ ?_
  with_reducible refine Keeps.step ?_ (countGw_keeps ..) ?_
  exact Keeps.refl _
  rfl
  with_reducible refine Keeps.ite ?_ ?_
  with_reducible refine Keeps.step ?_ (transit_keeps ..) ?_
  exact Keeps.refl _
  rfl
  with_reducible refine Keeps.step ?_ (deliverHere_keeps ..) ?_
  exact Keeps.refl _
  rfl

theorem gatewayIngress_keeps (s : State) (x1 : Nat) :
    Keeps [.routers, .engines, .fab, .pwr] s (gatewayIngress s x1) := by
  unfold gatewayIngress
  split
  exact Keeps.refl _
  dsimp only
  with_reducible refine Keeps.ite ?_ ?_
  with_reducible refine Keeps.step ?_ (noteRxXoff_keeps ..) ?_
  with_reducible refine Keeps.step ?_ (ingressPacket_keeps ..) ?_
  with_reducible refine Keeps.step ?_ (updEngine_keeps ..) ?_
  exact Keeps.refl _
  rfl
  rfl
  rfl
  with_reducible refine Keeps.step ?_ (ingressPacket_keeps ..) ?_
  with_reducible refine Keeps.step ?_ (updEngine_keeps ..) ?_
  exact Keeps.refl _
  rfl
  rfl

theorem execGatewayIngress_keeps (x0 : Nat) (s : State) :
    KeepsOut [.routers, .engines, .fab, .pwr] s (execGatewayIngress x0 s) := by
  unfold execGatewayIngress
  refine needUnit_keeps ?_
  refine KeepsOut.next ?_
  with_reducible refine Keeps.step ?_ (gatewayIngress_keeps ..) ?_
  exact Keeps.refl _
  rfl

theorem loseDevice_keeps (s : State) (x1 : Nat) :
    Keeps [.fns, .rf, .fab, .pwr] s (loseDevice s x1) := by
  unfold loseDevice
  dsimp only
  with_reducible refine Keeps.foldl ?_ ?_
  with_reducible refine Keeps.set_fab (rfl) ?_ ?_ ?_
  with_reducible exact fun h => ⟨h.1, h.2, h.3, h.4, h.5, h.6, h.7, h.8, h.9, h.10⟩
  exact ⟨Nat.le_refl _, Nat.le_refl _, rfl, rfl, rfl, rfl, rfl⟩
  exact Keeps.refl _
  intro y6
  intro y7
  split
  exact Keeps.refl _
  with_reducible refine Keeps.ite ?_ ?_
  exact Keeps.refl _
  with_reducible refine Keeps.ite ?_ ?_
  with_reducible refine Keeps.step ?_ (updRf_keeps ..) ?_
  exact Keeps.refl _
  rfl
  with_reducible refine Keeps.ite ?_ ?_
  with_reducible refine Keeps.step ?_ (finishOpt_keeps ..) ?_
  with_reducible refine Keeps.step ?_ (updRf_keeps ..) ?_
  exact Keeps.refl _
  rfl
  rfl
  exact Keeps.refl _

theorem noteLost_keeps (s : State) :
    Keeps [.fns, .rf, .fab, .pwr] s (noteLost s) := by
  unfold noteLost
  with_reducible refine Keeps.foldl ?_ ?_
  exact Keeps.refl _
  intro y2
  intro y3
  with_reducible refine Keeps.step ?_ (loseDevice_keeps ..) ?_
  exact Keeps.refl _
  rfl

theorem fabricFlip_keeps (s : State) :
    Keeps [.regions, .fns, .rf, .fab, .pwr] s (fabricFlip s) := by
  unfold fabricFlip
  dsimp only
  with_reducible refine Keeps.ite ?_ ?_
  exact Keeps.refl _
  with_reducible refine Keeps.step ?_ (noteLost_keeps ..) ?_
  with_reducible refine Keeps.step ?_ (applyLeaving_keeps ..) ?_
  with_reducible refine Keeps.step ?_ (setFabState_keeps ..) ?_
  with_reducible refine Keeps.step ?_ (setFabState_keeps ..) ?_
  with_reducible refine Keeps.set_fab (rfl) ?_ ?_ ?_
  refine fun h => ⟨?_, ?_, ?_, ?_, ?_, ?_, ?_, ?_, ?_, ?_⟩
  with_reducible exact h.1
  with_reducible exact h.2
  (dsimp only; split <;> exact h.3)
  with_reducible exact h.4
  with_reducible exact h.5
  with_reducible exact h.6
  with_reducible exact h.7
  with_reducible exact h.8
  with_reducible exact h.9
  with_reducible exact h.10
  exact ⟨Nat.le_refl _, Nat.le_refl _, rfl, rfl, rfl, rfl, rfl⟩
  exact Keeps.refl _
  rfl
  rfl
  rfl
  rfl

theorem execFabricFlip_keeps (s : State) :
    KeepsOut [.regions, .fns, .rf, .fab, .pwr] s (execFabricFlip s) := by
  unfold execFabricFlip
  refine KeepsOut.next ?_
  with_reducible refine Keeps.step ?_ (fabricFlip_keeps ..) ?_
  exact Keeps.refl _
  rfl

theorem releaseLanes_keeps (s : State) :
    Keeps [.routers] s (releaseLanes s) := by
  unfold releaseLanes
  with_reducible refine Keeps.foldl ?_ ?_
  exact Keeps.refl _
  intro y2
  intro y3
  with_reducible refine Keeps.foldl ?_ ?_
  exact Keeps.refl _
  intro y6
  intro y7
  with_reducible refine Keeps.step ?_ (drainLane_keeps ..) ?_
  exact Keeps.refl _
  rfl

theorem versionDrained_keeps (s : State) (x1 : Bool) :
    Keeps [.routers, .regions, .activeEpoch, .v0, .v1, .quiet, .fab] s (versionDrained s x1) := by
  unfold versionDrained
  with_reducible refine Keeps.ite ?_ ?_
  with_reducible refine Keeps.foldl ?_ ?_
  exact Keeps.refl _
  intro y3
  intro y4
  with_reducible refine Keeps.ite ?_ ?_
  with_reducible refine Keeps.step ?_ (setFabState_keeps ..) ?_
  exact Keeps.refl _
  rfl
  exact Keeps.refl _
  dsimp only
  with_reducible refine Keeps.ite ?_ ?_
  with_reducible refine Keeps.step ?_ (releaseLanes_keeps ..) ?_
  with_reducible refine Keeps.set_quiet (rfl) ?_
  with_reducible refine Keeps.step ?_ (flipNow_keeps ..) ?_
  with_reducible refine Keeps.foldl ?_ ?_
  exact Keeps.refl _
  intro y17
  intro y18
  with_reducible refine Keeps.ite ?_ ?_
  with_reducible refine Keeps.step ?_ (setVer_keeps ..) ?_
  exact Keeps.refl _
  rfl
  exact Keeps.refl _
  rfl
  rfl
  with_reducible refine Keeps.foldl ?_ ?_
  exact Keeps.refl _
  intro y28
  intro y29
  with_reducible refine Keeps.ite ?_ ?_
  with_reducible refine Keeps.step ?_ (setVer_keeps ..) ?_
  exact Keeps.refl _
  rfl
  exact Keeps.refl _

theorem execVersionDrained_keeps (x0 : Bool) (s : State) :
    KeepsOut [.routers, .regions, .activeEpoch, .v0, .v1, .quiet, .fab] s (execVersionDrained x0 s) := by
  unfold execVersionDrained
  refine KeepsOut.next ?_
  with_reducible refine Keeps.step ?_ (versionDrained_keeps ..) ?_
  exact Keeps.refl _
  rfl

theorem linkEvent_keeps (s : State) (x1 : Nat) (x2 : Nat) (x3 : List PortLink) :
    Keeps [.fns, .rf, .fab, .pwr] s (linkEvent s x1 x2 x3) := by
  unfold linkEvent
  dsimp only
  split
  with_reducible refine Keeps.ite ?_ ?_
  with_reducible refine Keeps.step ?_ (loseDevice_keeps ..) ?_
  with_reducible refine Keeps.set_fab (rfl) ?_ ?_ ?_
  with_reducible exact fun h => ⟨h.1, h.2, h.3, h.4, h.5, h.6, h.7, h.8, h.9, h.10⟩
  exact ⟨Nat.le_refl _, Nat.le_refl _, rfl, rfl, rfl, rfl, rfl⟩
  exact Keeps.refl _
  rfl
  with_reducible refine Keeps.set_fab (rfl) ?_ ?_ ?_
  with_reducible exact fun h => ⟨h.1, h.2, h.3, h.4, h.5, h.6, h.7, h.8, h.9, h.10⟩
  exact ⟨Nat.le_refl _, Nat.le_refl _, rfl, rfl, rfl, rfl, rfl⟩
  exact Keeps.refl _
  with_reducible refine Keeps.set_fab (rfl) ?_ ?_ ?_
  with_reducible exact fun h => ⟨h.1, h.2, h.3, h.4, h.5, h.6, h.7, h.8, h.9, h.10⟩
  exact ⟨Nat.le_refl _, Nat.le_refl _, rfl, rfl, rfl, rfl, rfl⟩
  exact Keeps.refl _

theorem execLinkEventRx_keeps (x0 : Nat) (x1 : Nat) (x2 : List PortLink) (s : State) :
    KeepsOut [.fns, .rf, .fab, .pwr] s (execLinkEventRx x0 x1 x2 s) := by
  unfold execLinkEventRx
  refine needUnit_keeps ?_
  refine KeepsOut.next ?_
  with_reducible refine Keeps.step ?_ (linkEvent_keeps ..) ?_
  exact Keeps.refl _
  rfl

theorem execMcBeatTick_keeps (s : State) :
    KeepsOut [.outbox, .fab] s (execMcBeatTick s) := by
  unfold execMcBeatTick
  refine whenB_keeps2 ?_ ?_
  exact Keeps.refl _
  dsimp only
  with_reducible refine Keeps.ite ?_ ?_
  with_reducible refine Keeps.set_fab (rfl) ?_ ?_ ?_
  with_reducible exact fun h => ⟨h.1, h.2, h.3, h.4, h.5, h.6, h.7, h.8, h.9, h.10⟩
  exact ⟨Nat.le_refl _, Nat.le_refl _, rfl, rfl, rfl, rfl, rfl⟩
  exact Keeps.refl _
  with_reducible refine Keeps.step ?_ (send_keeps ..) ?_
  with_reducible refine Keeps.set_fab (rfl) ?_ ?_ ?_
  with_reducible exact fun h => ⟨h.1, h.2, h.3, h.4, h.5, h.6, h.7, h.8, h.9, h.10⟩
  exact ⟨Nat.le_refl _, Nat.le_refl _, rfl, rfl, rfl, rfl, rfl⟩
  exact Keeps.refl _
  rfl

theorem execMcBeatRx_keeps (x0 : Nat) (s : State) :
    KeepsOut [.fab] s (execMcBeatRx x0 s) := by
  unfold execMcBeatRx
  refine needUnit_keeps ?_
  refine KeepsOut.next ?_
  with_reducible refine Keeps.set_fab (rfl) ?_ ?_ ?_
  with_reducible exact fun h => ⟨h.1, h.2, h.3, h.4, h.5, h.6, h.7, h.8, h.9, h.10⟩
  exact ⟨Nat.le_refl _, Nat.le_refl _, rfl, rfl, rfl, rfl, rfl⟩
  exact Keeps.refl _

theorem execPeerSilent_keeps (x0 : Nat) (s : State) :
    KeepsOut [.fns, .recorder, .flt, .msis, .fab] s (execPeerSilent x0 s) := by
  unfold execPeerSilent
  refine needUnit_keeps ?_
  refine whenB_keeps2 ?_ ?_
  exact Keeps.refl _
  with_reducible refine Keeps.step ?_ (devEvent_keeps ..) ?_
  with_reducible refine Keeps.set_fab (rfl) ?_ ?_ ?_
  with_reducible exact fun h => ⟨h.1, h.2, h.3, h.4, h.5, h.6, h.7, h.8, h.9, h.10⟩
  exact ⟨Nat.le_refl _, Nat.le_refl _, rfl, rfl, rfl, rfl, rfl⟩
  exact Keeps.refl _
  rfl

end Sys2Proof.Machine
end

