-- ==== Sys2Proof/Laws/Handoff.lean ====
section
/-! SUPPORT. What the operations of Machine/Handoff.lean may change: for each, the parts of the state. -/

namespace Sys2Proof.Machine

theorem pushPage_keeps (s : State) (x1 : Nat) (x2 : Nat) (x3 : PagePush) :
    Keeps [.regions, .outbox] s (pushPage s x1 x2 x3) := by
  unfold pushPage
  with_reducible refine Keeps.step ?_ (send_keeps ..) ?_
  with_reducible refine Keeps.step ?_ (updRegion_keeps ..) ?_
  exact Keeps.refl _
  rfl
  rfl

theorem startLookup_keeps (s : State) (x1 : Nat) (x2 : Nat) (x3 : Nat) :
    Keeps [.ctxs, .outbox] s (startLookup s x1 x2 x3) := by
  unfold startLookup
  with_reducible refine Keeps.step ?_ (withRegion_keeps (L := [.ctxs, .outbox]) (rfl) _ _ _ ?_) (sub_refl _)
  exact Keeps.refl _
  intro y2
  dsimp only
  with_reducible refine Keeps.ite ?_ ?_
  with_reducible refine Keeps.step ?_ (send_keeps ..) ?_
  with_reducible refine Keeps.step ?_ (setCtx_keeps ..) ?_
  exact Keeps.refl _
  rfl
  rfl
  with_reducible refine Keeps.step ?_ (setCtx_keeps ..) ?_
  exact Keeps.refl _
  rfl

theorem promptPage_keeps (s : State) (x1 : Nat) (x2 : Nat) (x3 : Ctx) (x4 : Image) (x5 : Nat) (x6 : Nat) :
    Keeps [.free] s (promptPage s x1 x2 x3 x4 x5 x6).1 := by
  unfold promptPage
  dsimp only
  with_reducible refine Keeps.step ?_ (takeFree_keeps ..) ?_
  exact Keeps.refl _
  rfl

theorem pushPromptPage_keeps (s : State) (x1 : Nat) (x2 : Nat) (x3 : Nat) (x4 : Ctx) (x5 : Image) (x6 : Nat) (x7 : Nat) :
    Keeps [.free, .regions, .outbox] s (pushPromptPage s x1 x2 x3 x4 x5 x6 x7) := by
  unfold pushPromptPage
  dsimp only
  with_reducible refine Keeps.ite ?_ ?_
  with_reducible refine Keeps.step ?_ (pushPage_keeps ..) ?_
  with_reducible refine Keeps.step ?_ (pushPage_keeps ..) ?_
  with_reducible refine Keeps.step ?_ (promptPage_keeps ..) ?_
  exact Keeps.refl _
  rfl
  rfl
  rfl
  with_reducible refine Keeps.step ?_ (pushPage_keeps ..) ?_
  with_reducible refine Keeps.step ?_ (promptPage_keeps ..) ?_
  exact Keeps.refl _
  rfl
  rfl

theorem sharedOut_keeps (s : State) (x1 : Nat) (x2 : Region) (x3 : Nat) (x4 : Nat) :
    Keeps [.free, .regions, .outbox] s (sharedOut s x1 x2 x3 x4) := by
  unfold sharedOut
  split
  with_reducible refine Keeps.ite ?_ ?_
  exact Keeps.refl _
  dsimp only
  with_reducible refine Keeps.ite ?_ ?_
  with_reducible refine Keeps.step ?_ (send_keeps ..) ?_
  with_reducible refine Keeps.foldl ?_ ?_
  exact Keeps.refl _
  intro y8
  intro y9
  with_reducible refine Keeps.step ?_ (pushPromptPage_keeps ..) ?_
  exact Keeps.refl _
  rfl
  rfl
  with_reducible refine Keeps.foldl ?_ ?_
  exact Keeps.refl _
  intro y16
  intro y17
  with_reducible refine Keeps.step ?_ (pushPromptPage_keeps ..) ?_
  exact Keeps.refl _
  rfl
  exact Keeps.refl _

theorem promptOut_keeps (s : State) (x1 : Nat) (x2 : Region) (x3 : Image) (x4 : LedgerEntry) (x5 : Nat × Nat) :
    Keeps [.free, .regions, .outbox] s (promptOut s x1 x2 x3 x4 x5) := by
  unfold promptOut
  dsimp only
  with_reducible refine Keeps.ite ?_ ?_
  with_reducible refine Keeps.step ?_ (send_keeps ..) ?_
  with_reducible refine Keeps.ite ?_ ?_
  with_reducible refine Keeps.ite ?_ ?_
  with_reducible refine Keeps.step ?_ (send_keeps ..) ?_
  with_reducible refine Keeps.step ?_ (send_keeps ..) ?_
  with_reducible refine Keeps.foldl ?_ ?_
  exact Keeps.refl _
  intro y9
  intro y10
  with_reducible refine Keeps.step ?_ (pushPromptPage_keeps ..) ?_
  exact Keeps.refl _
  rfl
  rfl
  rfl
  with_reducible refine Keeps.step ?_ (send_keeps ..) ?_
  with_reducible refine Keeps.foldl ?_ ?_
  exact Keeps.refl _
  intro y19
  intro y20
  with_reducible refine Keeps.step ?_ (pushPromptPage_keeps ..) ?_
  exact Keeps.refl _
  rfl
  rfl
  with_reducible refine Keeps.foldl ?_ ?_
  exact Keeps.refl _
  intro y27
  intro y28
  with_reducible refine Keeps.step ?_ (pushPromptPage_keeps ..) ?_
  exact Keeps.refl _
  rfl
  rfl
  with_reducible refine Keeps.ite ?_ ?_
  with_reducible refine Keeps.ite ?_ ?_
  with_reducible refine Keeps.step ?_ (send_keeps ..) ?_
  with_reducible refine Keeps.step ?_ (send_keeps ..) ?_
  with_reducible refine Keeps.foldl ?_ ?_
  exact Keeps.refl _
  intro y39
  intro y40
  with_reducible refine Keeps.step ?_ (pushPromptPage_keeps ..) ?_
  exact Keeps.refl _
  rfl
  rfl
  rfl
  with_reducible refine Keeps.step ?_ (send_keeps ..) ?_
  with_reducible refine Keeps.foldl ?_ ?_
  exact Keeps.refl _
  intro y49
  intro y50
  with_reducible refine Keeps.step ?_ (pushPromptPage_keeps ..) ?_
  exact Keeps.refl _
  rfl
  rfl
  with_reducible refine Keeps.foldl ?_ ?_
  exact Keeps.refl _
  intro y57
  intro y58
  with_reducible refine Keeps.step ?_ (pushPromptPage_keeps ..) ?_
  exact Keeps.refl _
  rfl

theorem cacheOut_keeps (s : State) (x1 : Nat) (x2 : Region) (x3 : Nat) (x4 : PrefixLookup × Nat) :
    Keeps [.regions, .outbox] s (cacheOut s x1 x2 x3 x4) := by
  unfold cacheOut
  dsimp only
  with_reducible refine Keeps.ite ?_ ?_
  with_reducible refine Keeps.foldl ?_ ?_
  with_reducible refine Keeps.step ?_ (updRegion_keeps ..) ?_
  with_reducible refine Keeps.foldl ?_ ?_
  with_reducible refine Keeps.ite ?_ ?_
  with_reducible refine Keeps.foldl ?_ ?_
  exact Keeps.refl _
  intro y8
  intro y9
  with_reducible refine Keeps.step ?_ (send_keeps ..) ?_
  exact Keeps.refl _
  rfl
  exact Keeps.refl _
  intro y14
  intro y15
  with_reducible refine Keeps.foldl ?_ ?_
  exact Keeps.refl _
  intro y18
  intro y19
  with_reducible refine Keeps.foldl ?_ ?_
  exact Keeps.refl _
  intro y22
  intro y23
  with_reducible refine Keeps.step ?_ (pushPage_keeps ..) ?_
  exact Keeps.refl _
  rfl
  rfl
  intro y28
  intro y29
  with_reducible refine Keeps.step ?_ (send_keeps ..) ?_
  exact Keeps.refl _
  rfl
  with_reducible refine Keeps.step ?_ (updRegion_keeps ..) ?_
  with_reducible refine Keeps.foldl ?_ ?_
  with_reducible refine Keeps.ite ?_ ?_
  with_reducible refine Keeps.foldl ?_ ?_
  exact Keeps.refl _
  intro y38
  intro y39
  with_reducible refine Keeps.step ?_ (send_keeps ..) ?_
  exact Keeps.refl _
  rfl
  exact Keeps.refl _
  intro y44
  intro y45
  with_reducible refine Keeps.foldl ?_ ?_
  exact Keeps.refl _
  intro y48
  intro y49
  with_reducible refine Keeps.foldl ?_ ?_
  exact Keeps.refl _
  intro y52
  intro y53
  with_reducible refine Keeps.step ?_ (pushPage_keeps ..) ?_
  exact Keeps.refl _
  rfl
  rfl

theorem handOffOut_keeps (s : State) (x1 : Nat) (x2 : Nat) :
    Keeps [.free, .regions, .outbox] s (handOffOut s x1 x2) := by
  unfold handOffOut
  with_reducible refine Keeps.step ?_ (withRegion_keeps (L := [.free, .regions, .outbox]) (rfl) _ _ _ ?_) (sub_refl _)
  exact Keeps.refl _
  intro y2
  split
  with_reducible refine Keeps.ite ?_ ?_
  exact Keeps.refl _
  split
  with_reducible refine Keeps.foldl ?_ ?_
  exact Keeps.refl _
  intro y9
  intro y10
  with_reducible refine Keeps.step ?_ (promptOut_keeps ..) ?_
  exact Keeps.refl _
  rfl
  with_reducible refine Keeps.foldl ?_ ?_
  exact Keeps.refl _
  intro y16
  intro y17
  with_reducible refine Keeps.step ?_ (cacheOut_keeps ..) ?_
  exact Keeps.refl _
  rfl
  exact Keeps.refl _
  exact Keeps.refl _

theorem onRegion_keeps {L : List Part} (hL : sub [] L = true) (x0 : Nat) (s : State) (x2 : Region → State) (h2 : ∀ a0, Keeps L s (x2 a0)) :
    KeepsOut L s (onRegion x0 s x2) := by
  unfold onRegion
  refine needUnit_keeps ?_
  refine KeepsOut.next ?_
  with_reducible refine Keeps.step ?_ (withRegion_keeps (L := L) (sub_trans rfl hL) _ _ _ ?_) (sub_refl _)
  exact Keeps.refl _
  intro y4
  with_reducible refine Keeps.step ?_ (h2 ..) (sub_refl _)
  exact Keeps.refl _

theorem updPending_keeps (s : State) (x1 : Nat) (x2 : LedgerEntry → LedgerEntry) :
    Keeps [.regions] s (updPending s x1 x2) := by
  unfold updPending
  with_reducible refine Keeps.step ?_ (updRegion_keeps ..) ?_
  exact Keeps.refl _
  rfl

theorem execPrefixLookupRx_keeps (x0 : Nat) (x1 : PrefixLookup) (s : State) :
    KeepsOut [.regions] s (execPrefixLookupRx x0 x1 s) := by
  unfold execPrefixLookupRx
  with_reducible refine KeepsOut.step ?_ (onRegion_keeps (L := [.regions]) (rfl) _ _ _ ?_) (sub_refl _)
  exact Keeps.refl _
  intro y2
  with_reducible refine Keeps.ite ?_ ?_
  with_reducible refine Keeps.step ?_ (updPending_keeps ..) ?_
  exact Keeps.refl _
  rfl
  exact Keeps.refl _

theorem prefixReplyRow_keeps (x0 : Nat) (x1 : PrefixReply) (s : State) :
    KeepsOut [.ctxs, .outbox] s (prefixReplyRow x0 x1 s) := by
  unfold prefixReplyRow
  with_reducible refine KeepsOut.step ?_ (onRegion_keeps (L := [.ctxs, .outbox]) (rfl) _ _ _ ?_) (sub_refl _)
  exact Keeps.refl _
  intro y2
  split
  exact Keeps.refl _
  dsimp only
  split
  with_reducible refine Keeps.ite ?_ ?_
  exact Keeps.refl _
  with_reducible refine Keeps.ite ?_ ?_
  with_reducible refine Keeps.step ?_ (startLookup_keeps ..) ?_
  with_reducible refine Keeps.step ?_ (setCtx_keeps ..) ?_
  exact Keeps.refl _
  rfl
  rfl
  with_reducible refine Keeps.step ?_ (setCtx_keeps ..) ?_
  exact Keeps.refl _
  rfl
  with_reducible refine Keeps.step ?_ (setCtx_keeps ..) ?_
  exact Keeps.refl _
  rfl
  exact Keeps.refl _

theorem ackPage_keeps (s : State) (x1 : Nat) (x2 : PagePush) (x3 : PageAckStatus) :
    Keeps [.outbox] s (ackPage s x1 x2 x3) := by
  unfold ackPage
  with_reducible refine Keeps.ite ?_ ?_
  exact Keeps.refl _
  with_reducible refine Keeps.step ?_ (send_keeps ..) ?_
  exact Keeps.refl _
  rfl

theorem storePage_keeps (s : State) (x1 : Nat) (x2 : Region) (x3 : PagePush) :
    Keeps [.regions, .outbox] s (storePage s x1 x2 x3) := by
  unfold storePage
  with_reducible refine Keeps.ite ?_ ?_
  exact Keeps.refl _
  with_reducible refine Keeps.ite ?_ ?_
  with_reducible refine Keeps.step ?_ (ackPage_keeps ..) ?_
  exact Keeps.refl _
  rfl
  with_reducible refine Keeps.ite ?_ ?_
  with_reducible refine Keeps.step ?_ (ackPage_keeps ..) ?_
  exact Keeps.refl _
  rfl
  dsimp only
  with_reducible refine Keeps.step ?_ (ackPage_keeps ..) ?_
  with_reducible refine Keeps.step ?_ (updPending_keeps ..) ?_
  with_reducible refine Keeps.step ?_ (updRegion_keeps ..) ?_
  exact Keeps.refl _
  rfl
  rfl
  rfl

theorem landPage_keeps (s : State) (x1 : Nat) (x2 : Region) (x3 : Image) (x4 : PagePush) :
    Keeps [.tiles, .regions, .ctxs, .outbox] s (landPage s x1 x2 x3 x4) := by
  unfold landPage
  split
  with_reducible refine Keeps.step ?_ (ackPage_keeps ..) ?_
  exact Keeps.refl _
  rfl
  dsimp only
  with_reducible refine Keeps.ite ?_ ?_
  with_reducible refine Keeps.step ?_ (ackPage_keeps ..) ?_
  exact Keeps.refl _
  rfl
  split
  with_reducible refine Keeps.step ?_ (ackPage_keeps ..) ?_
  exact Keeps.refl _
  rfl
  with_reducible refine Keeps.step ?_ (ackPage_keeps ..) ?_
  with_reducible refine Keeps.ite ?_ ?_
  with_reducible refine Keeps.step ?_ (updRegion_keeps ..) ?_
  with_reducible refine Keeps.step ?_ (setCtx_keeps ..) ?_
  with_reducible refine Keeps.step ?_ (writePage_keeps ..) ?_
  exact Keeps.refl _
  rfl
  rfl
  rfl
  with_reducible refine Keeps.step ?_ (setCtx_keeps ..) ?_
  with_reducible refine Keeps.step ?_ (writePage_keeps ..) ?_
  exact Keeps.refl _
  rfl
  rfl
  rfl

theorem pagePushRow_keeps (x0 : Nat) (x1 : PagePush) (s : State) :
    KeepsOut [.tiles, .regions, .ctxs, .outbox] s (pagePushRow x0 x1 s) := by
  unfold pagePushRow
  with_reducible refine KeepsOut.step ?_ (onRegion_keeps (L := [.tiles, .regions, .ctxs, .outbox]) (rfl) _ _ _ ?_) (sub_refl _)
  exact Keeps.refl _
  intro y2
  with_reducible refine Keeps.ite ?_ ?_
  with_reducible refine Keeps.step ?_ (ackPage_keeps ..) ?_
  exact Keeps.refl _
  rfl
  split
  with_reducible refine Keeps.step ?_ (ackPage_keeps ..) ?_
  exact Keeps.refl _
  rfl
  with_reducible refine Keeps.ite ?_ ?_
  with_reducible refine Keeps.step ?_ (storePage_keeps ..) ?_
  exact Keeps.refl _
  rfl
  with_reducible refine Keeps.step ?_ (landPage_keeps ..) ?_
  exact Keeps.refl _
  rfl

theorem execPageAckRx_keeps (x0 : Nat) (x1 : Nat) (x2 : Nat) (x3 : PageAckStatus) (s : State) (x5 : Option Nat) :
    KeepsOut [.regions, .outbox] s (execPageAckRx x0 x1 x2 x3 s x5) := by
  unfold execPageAckRx
  with_reducible refine KeepsOut.step ?_ (onRegion_keeps (L := [.regions, .outbox]) (rfl) _ _ _ ?_) (sub_refl _)
  exact Keeps.refl _
  intro y2
  dsimp only
  split
  exact Keeps.refl _
  split
  with_reducible refine Keeps.step ?_ (send_keeps ..) ?_
  exact Keeps.refl _
  rfl
  with_reducible refine Keeps.step ?_ (updRegion_keeps ..) ?_
  exact Keeps.refl _
  rfl

theorem commitNoticeRow_keeps (x0 : Nat) (x1 : CommitNotice) (s : State) :
    KeepsOut [.ctxs] s (commitNoticeRow x0 x1 s) := by
  unfold commitNoticeRow
  with_reducible refine KeepsOut.step ?_ (onRegion_keeps (L := [.ctxs]) (rfl) _ _ _ ?_) (sub_refl _)
  exact Keeps.refl _
  intro y2
  split
  exact Keeps.refl _
  with_reducible refine Keeps.step ?_ (updCtx_keeps ..) ?_
  exact Keeps.refl _
  rfl

theorem seqHandoffRow_keeps (x0 : Nat) (x1 : SeqHandoff) (s : State) :
    KeepsOut [.ctxs] s (seqHandoffRow x0 x1 s) := by
  unfold seqHandoffRow
  with_reducible refine KeepsOut.step ?_ (onRegion_keeps (L := [.ctxs]) (rfl) _ _ _ ?_) (sub_refl _)
  exact Keeps.refl _
  intro y2
  split
  exact Keeps.refl _
  with_reducible refine Keeps.ite ?_ ?_
  with_reducible refine Keeps.step ?_ (updCtx_keeps ..) ?_
  exact Keeps.refl _
  rfl
  exact Keeps.refl _

theorem handoffTimeoutRow_keeps (x0 : Nat) (x1 : Nat) (s : State) :
    KeepsOut [.ctxs] s (handoffTimeoutRow x0 x1 s) := by
  unfold handoffTimeoutRow
  with_reducible refine KeepsOut.step ?_ (onRegion_keeps (L := [.ctxs]) (rfl) _ _ _ ?_) (sub_refl _)
  exact Keeps.refl _
  intro y2
  dsimp only
  with_reducible refine Keeps.ite ?_ ?_
  with_reducible refine Keeps.step ?_ (setCtx_keeps ..) ?_
  exact Keeps.refl _
  rfl
  exact Keeps.refl _

theorem handoffActivationRow_keeps (x0 : Nat) (x1 : Nat) (s : State) :
    KeepsOut [.ctxs] s (handoffActivationRow x0 x1 s) := by
  unfold handoffActivationRow
  with_reducible refine KeepsOut.step ?_ (onRegion_keeps (L := [.ctxs]) (rfl) _ _ _ ?_) (sub_refl _)
  exact Keeps.refl _
  intro y2
  dsimp only
  split
  exact Keeps.refl _
  with_reducible refine Keeps.ite ?_ ?_
  with_reducible refine Keeps.step ?_ (setCtx_keeps ..) ?_
  exact Keeps.refl _
  rfl
  exact Keeps.refl _

theorem settleLookup_keeps (x0 : Region) (s : State) (x2 : Nat) :
    Keeps [.ctxs] s (settleLookup x0 s x2) := by
  unfold settleLookup
  dsimp only
  with_reducible refine Keeps.ite ?_ ?_
  with_reducible refine Keeps.step ?_ (setCtx_keeps ..) ?_
  exact Keeps.refl _
  rfl
  exact Keeps.refl _

end Sys2Proof.Machine
end

