-- ==== Sys2Proof/Laws/Commit.lean ====
section
/-! SUPPORT. What the operations of Machine/Commit.lean may change: for each, the parts of the state. -/

namespace Sys2Proof.Machine

theorem noteExtreme_keeps (s : State) (x1 : Nat) (x2 : Int) :
    Keeps [.recorder] s (noteExtreme s x1 x2) := by
  unfold noteExtreme
  dsimp only
  with_reducible refine Keeps.set_recorder (rfl) ?_
  exact Keeps.refl _

theorem afterCommit_keeps (s : State) (x1 : Nat) :
    Keeps [.regions, .fns, .msis, .pwr] s (afterCommit s x1) := by
  unfold afterCommit
  with_reducible refine Keeps.step ?_ (withRegion_keeps (L := [.regions, .fns, .msis, .pwr]) (rfl) _ _ _ ?_) (sub_refl _)
  exact Keeps.refl _
  intro y2
  dsimp only
  with_reducible refine Keeps.ite ?_ ?_
  with_reducible refine Keeps.step ?_ (postRunState_keeps ..) ?_
  with_reducible refine Keeps.step ?_ (updRegion_keeps ..) ?_
  with_reducible refine Keeps.ite ?_ ?_
  with_reducible refine Keeps.step ?_ (updRegion_keeps ..) ?_
  with_reducible refine Keeps.step ?_ (endRun_keeps ..) ?_
  exact Keeps.refl _
  rfl
  rfl
  exact Keeps.refl _
  rfl
  rfl
  with_reducible refine Keeps.ite ?_ ?_
  with_reducible refine Keeps.step ?_ (updRegion_keeps ..) ?_
  with_reducible refine Keeps.step ?_ (endRun_keeps ..) ?_
  exact Keeps.refl _
  rfl
  rfl
  exact Keeps.refl _

theorem commitStep_keeps (s : State) (x1 : Nat) :
    Keeps [.free, .tiles, .routers, .engines, .regions, .fns, .ctxs, .recorder, .flt, .idn, .outbox, .msis, .rep, .flc, .rf, .pwr] s (commitStep s x1) := by
  unfold commitStep
  with_reducible refine Keeps.step ?_ (withRegion_keeps (L := [.free, .tiles, .routers, .engines, .regions, .fns, .ctxs, .recorder, .flt, .idn, .outbox, .msis, .rep, .flc, .rf, .pwr]) (rfl) _ _ _ ?_) (sub_refl _)
  exact Keeps.refl _
  intro y2
  dsimp only
  with_reducible refine Keeps.step ?_ (afterCommit_keeps ..) ?_
  with_reducible refine Keeps.ite ?_ ?_
  with_reducible refine Keeps.step ?_ (send_keeps ..) ?_
  with_reducible refine Keeps.step ?_ (handOffOut_keeps ..) ?_
  with_reducible refine Keeps.step ?_ (commitNow_keeps ..) ?_
  with_reducible refine Keeps.step ?_ (noteExtreme_keeps ..) ?_
  exact Keeps.refl _
  rfl
  rfl
  rfl
  rfl
  with_reducible refine Keeps.step ?_ (handOffOut_keeps ..) ?_
  with_reducible refine Keeps.step ?_ (commitNow_keeps ..) ?_
  with_reducible refine Keeps.step ?_ (noteExtreme_keeps ..) ?_
  exact Keeps.refl _
  rfl
  rfl
  rfl
  rfl

theorem groupStop_keeps (s : State) (x1 : Nat) :
    Keeps [.regions, .fns, .msis, .pwr] s (groupStop s x1) := by
  unfold groupStop
  with_reducible refine Keeps.step ?_ (withRegion_keeps (L := [.regions, .fns, .msis, .pwr]) (rfl) _ _ _ ?_) (sub_refl _)
  exact Keeps.refl _
  intro y2
  with_reducible refine Keeps.ite ?_ ?_
  with_reducible refine Keeps.step ?_ (stopRegion_keeps ..) ?_
  exact Keeps.refl _
  rfl
  exact Keeps.refl _

theorem discardStep_keeps (s : State) (x1 : Nat) :
    Keeps [.free, .tiles, .routers, .engines, .regions, .fns, .basin, .poison, .bsn, .scans, .bundles, .bundleSeq, .recorder, .flt, .idn, .outbox, .msis, .rep, .flc, .rf, .pwr] s (discardStep s x1) := by
  unfold discardStep
  with_reducible refine Keeps.step ?_ (groupStop_keeps ..) ?_
  with_reducible refine Keeps.step ?_ (discardNow_keeps ..) ?_
  exact Keeps.refl _
  rfl
  rfl

theorem updShadow_keeps (s : State) (x1 : Nat) (x2 : Shadow → Shadow) :
    Keeps [.rf] s (updShadow s x1 x2) := by
  unfold updShadow
  with_reducible refine Keeps.step ?_ (updRf_keeps ..) ?_
  exact Keeps.refl _
  rfl

theorem detach_keeps (s : State) (x1 : Nat) (x2 : Nat) (x3 : List Byte) :
    Keeps [.free, .tiles, .routers, .engines, .regions, .fns, .basin, .poison, .bsn, .scans, .bundles, .bundleSeq, .recorder, .flt, .idn, .outbox, .msis, .rep, .flc, .rf, .pwr] s (detach s x1 x2 x3) := by
  unfold detach
  split
  exact Keeps.refl _
  dsimp only
  with_reducible refine Keeps.step ?_ (stopRegion_keeps ..) ?_
  with_reducible refine Keeps.ite ?_ ?_
  with_reducible refine Keeps.step ?_ (discardNow_keeps ..) ?_
  with_reducible refine Keeps.step ?_ (updShadow_keeps ..) ?_
  with_reducible refine Keeps.step ?_ (finishOpt_keeps ..) ?_
  exact Keeps.refl _
  rfl
  rfl
  rfl
  with_reducible refine Keeps.step ?_ (updShadow_keeps ..) ?_
  with_reducible refine Keeps.step ?_ (finishOpt_keeps ..) ?_
  exact Keeps.refl _
  rfl
  rfl
  rfl

theorem shadowSettle_keeps (s : State) (x1 : Nat) :
    Keeps [.free, .tiles, .routers, .engines, .regions, .fns, .ctxs, .basin, .poison, .bsn, .scans, .bundles, .bundleSeq, .recorder, .flt, .idn, .outbox, .msis, .rep, .flc, .rf, .pwr] s (shadowSettle s x1) := by
  unfold shadowSettle
  with_reducible refine Keeps.step ?_ (withRegion_keeps (L := [.free, .tiles, .routers, .engines, .regions, .fns, .ctxs, .basin, .poison, .bsn, .scans, .bundles, .bundleSeq, .recorder, .flt, .idn, .outbox, .msis, .rep, .flc, .rf, .pwr]) (rfl) _ _ _ ?_) (sub_refl _)
  exact Keeps.refl _
  intro y2
  split
  exact Keeps.refl _
  split
  exact Keeps.refl _
  dsimp only
  with_reducible refine Keeps.ite ?_ ?_
  exact Keeps.refl _
  with_reducible refine Keeps.ite ?_ ?_
  with_reducible refine Keeps.ite ?_ ?_
  with_reducible refine Keeps.step ?_ (updShadow_keeps ..) ?_
  with_reducible refine Keeps.step ?_ (finishOpt_keeps ..) ?_
  with_reducible refine Keeps.step ?_ (updShadow_keeps ..) ?_
  with_reducible refine Keeps.step ?_ (commitStep_keeps ..) ?_
  exact Keeps.refl _
  rfl
  rfl
  rfl
  rfl
  with_reducible refine Keeps.step ?_ (updShadow_keeps ..) ?_
  with_reducible refine Keeps.step ?_ (commitStep_keeps ..) ?_
  exact Keeps.refl _
  rfl
  rfl
  with_reducible refine Keeps.step ?_ (detach_keeps ..) ?_
  with_reducible refine Keeps.ite ?_ ?_
  with_reducible refine Keeps.step ?_ (regionEvent_keeps ..) ?_
  exact Keeps.refl _
  rfl
  exact Keeps.refl _
  rfl

end Sys2Proof.Machine
end

