-- ==== Sys2Proof/Laws/StepRows.lean ====
section
/-! SUPPORT. What the operations of Machine/StepRows.lean may change: for each, the parts of the state. -/

namespace Sys2Proof.Machine

theorem settleMembers_keeps (s : State) (x1 : Nat) :
    Keeps [.regions, .fns, .msis, .pwr] s (settleMembers s x1) := by
  unfold settleMembers
  with_reducible refine Keeps.step ?_ (withRegion_keeps (L := [.regions, .fns, .msis, .pwr]) (rfl) _ _ _ ?_) (sub_refl _)
  exact Keeps.refl _
  intro y2
  with_reducible refine Keeps.ite ?_ ?_
  dsimp only
  with_reducible refine Keeps.step ?_ (groupStop_keeps ..) ?_
  with_reducible refine Keeps.step ?_ (dropAct_keeps ..) ?_
  with_reducible refine Keeps.foldl ?_ ?_
  exact Keeps.refl _
  intro y9
  intro y10
  split
  with_reducible refine Keeps.step ?_ (finishOpt_keeps ..) ?_
  with_reducible refine Keeps.step ?_ (updRegion_keeps ..) ?_
  exact Keeps.refl _
  rfl
  rfl
  with_reducible refine Keeps.step ?_ (updRegion_keeps ..) ?_
  exact Keeps.refl _
  rfl
  exact Keeps.refl _
  rfl
  rfl
  exact Keeps.refl _

theorem stepStartRow_keeps (x0 : Nat) (s : State) :
    KeepsOut [.tiles, .regions, .fns, .ctxs, .outbox, .msis, .pwr] s (stepStartRow x0 s) := by
  unfold stepStartRow
  with_reducible refine KeepsOut.step ?_ (onRegion_keeps (L := [.tiles, .regions, .fns, .ctxs, .outbox, .msis, .pwr]) (rfl) _ _ _ ?_) (sub_refl _)
  exact Keeps.refl _
  intro y2
  dsimp only
  with_reducible refine Keeps.step ?_ (withRegion_keeps (L := [.tiles, .regions, .fns, .ctxs, .outbox, .msis, .pwr]) (rfl) _ _ _ ?_) (sub_refl _)
  with_reducible refine Keeps.step ?_ (settleMembers_keeps ..) ?_
  exact Keeps.refl _
  rfl
  intro y8
  with_reducible refine Keeps.ite ?_ ?_
  with_reducible refine Keeps.step ?_ (stepStart_keeps ..) ?_
  with_reducible refine Keeps.ite ?_ ?_
  with_reducible refine Keeps.step ?_ (send_keeps ..) ?_
  with_reducible refine Keeps.foldl ?_ ?_
  exact Keeps.refl _
  intro y15
  intro y16
  with_reducible refine Keeps.step ?_ (settleLookup_keeps ..) ?_
  exact Keeps.refl _
  rfl
  rfl
  with_reducible refine Keeps.foldl ?_ ?_
  exact Keeps.refl _
  intro y23
  intro y24
  with_reducible refine Keeps.step ?_ (settleLookup_keeps ..) ?_
  exact Keeps.refl _
  rfl
  rfl
  exact Keeps.refl _

theorem strand_keeps (s : State) (x1 : Nat) (x2 : Nat) :
    Keeps [.regions] s (strand s x1 x2) := by
  unfold strand
  with_reducible refine Keeps.step ?_ (updRegion_keeps ..) ?_
  exact Keeps.refl _
  rfl

theorem execStepDrained_keeps (x0 : Nat) (s : State) :
    KeepsOut [.free, .tiles, .routers, .engines, .regions, .fns, .basin, .poison, .bsn, .scans, .bundles, .bundleSeq, .recorder, .flt, .idn, .outbox, .msis, .rep, .flc, .rf, .pwr] s (execStepDrained x0 s) := by
  unfold execStepDrained
  with_reducible refine KeepsOut.step ?_ (onRegion_keeps (L := [.free, .tiles, .routers, .engines, .regions, .fns, .basin, .poison, .bsn, .scans, .bundles, .bundleSeq, .recorder, .flt, .idn, .outbox, .msis, .rep, .flc, .rf, .pwr]) (rfl) _ _ _ ?_) (sub_refl _)
  exact Keeps.refl _
  intro y2
  with_reducible refine Keeps.ite ?_ ?_
  dsimp only
  with_reducible refine Keeps.step ?_ (withRegion_keeps (L := [.free, .tiles, .routers, .engines, .regions, .fns, .basin, .poison, .bsn, .scans, .bundles, .bundleSeq, .recorder, .flt, .idn, .outbox, .msis, .rep, .flc, .rf, .pwr]) (rfl) _ _ _ ?_) (sub_refl _)
  with_reducible refine Keeps.step ?_ (updRegion_keeps ..) ?_
  with_reducible refine Keeps.ite ?_ ?_
  exact Keeps.refl _
  with_reducible refine Keeps.step ?_ (failStep_keeps ..) ?_
  with_reducible refine Keeps.foldl ?_ ?_
  exact Keeps.refl _
  intro y12
  intro y13
  with_reducible refine Keeps.step ?_ (strand_keeps ..) ?_
  exact Keeps.refl _
  rfl
  rfl
  rfl
  intro y19
  with_reducible refine Keeps.ite ?_ ?_
  with_reducible refine Keeps.step ?_ (discardStep_keeps ..) ?_
  exact Keeps.refl _
  rfl
  with_reducible refine Keeps.step ?_ (recordPending_keeps ..) ?_
  exact Keeps.refl _
  rfl
  exact Keeps.refl _

theorem localConditionsMetRow_keeps (x0 : Nat) (s : State) :
    KeepsOut [.free, .tiles, .routers, .engines, .regions, .fns, .ctxs, .basin, .poison, .bsn, .scans, .bundles, .bundleSeq, .recorder, .flt, .idn, .outbox, .msis, .rep, .flc, .rf, .pwr] s (localConditionsMetRow x0 s) := by
  unfold localConditionsMetRow
  with_reducible refine KeepsOut.step ?_ (onRegion_keeps (L := [.free, .tiles, .routers, .engines, .regions, .fns, .ctxs, .basin, .poison, .bsn, .scans, .bundles, .bundleSeq, .recorder, .flt, .idn, .outbox, .msis, .rep, .flc, .rf, .pwr]) (rfl) _ _ _ ?_) (sub_refl _)
  exact Keeps.refl _
  intro y2
  with_reducible refine Keeps.ite ?_ ?_
  with_reducible refine Keeps.step ?_ (discardStep_keeps ..) ?_
  exact Keeps.refl _
  rfl
  with_reducible refine Keeps.ite ?_ ?_
  dsimp only
  with_reducible refine Keeps.ite ?_ ?_
  with_reducible refine Keeps.step ?_ (shadowSettle_keeps ..) ?_
  with_reducible refine Keeps.step ?_ (updRegion_keeps ..) ?_
  exact Keeps.refl _
  rfl
  rfl
  with_reducible refine Keeps.ite ?_ ?_
  with_reducible refine Keeps.step ?_ (commitStep_keeps ..) ?_
  with_reducible refine Keeps.ite ?_ ?_
  with_reducible refine Keeps.step ?_ (send_keeps ..) ?_
  with_reducible refine Keeps.step ?_ (updRegion_keeps ..) ?_
  exact Keeps.refl _
  rfl
  rfl
  with_reducible refine Keeps.step ?_ (updRegion_keeps ..) ?_
  exact Keeps.refl _
  rfl
  rfl
  with_reducible refine Keeps.ite ?_ ?_
  with_reducible refine Keeps.step ?_ (send_keeps ..) ?_
  with_reducible refine Keeps.step ?_ (updRegion_keeps ..) ?_
  exact Keeps.refl _
  rfl
  rfl
  with_reducible refine Keeps.step ?_ (updRegion_keeps ..) ?_
  exact Keeps.refl _
  rfl
  exact Keeps.refl _

theorem eachRegion_keeps {L : List Part} (hL : sub [] L = true) (s : State) (x1 : StepMsg) (x2 : State → Nat → Region → State) (h2 : ∀ a0 a1 a2, Keeps L a0 (x2 a0 a1 a2)) :
    Keeps L s (eachRegion s x1 x2) := by
  unfold eachRegion
  with_reducible refine Keeps.foldl ?_ ?_
  exact Keeps.refl _
  intro y2
  intro y3
  with_reducible refine Keeps.step ?_ (withRegion_keeps (L := L) (sub_trans rfl hL) _ _ _ ?_) (sub_refl _)
  exact Keeps.refl _
  intro y6
  with_reducible refine Keeps.step ?_ (h2 ..) (sub_refl _)
  exact Keeps.refl _

theorem stepMsgAttempt_keeps (s : State) (x1 : Nat) (x2 : Region) (x3 : StepMsg) :
    Keeps [.free, .tiles, .routers, .engines, .regions, .fns, .basin, .poison, .bsn, .scans, .bundles, .bundleSeq, .recorder, .flt, .idn, .outbox, .msis, .rep, .flc, .rf, .pwr] s (stepMsgAttempt s x1 x2 x3) := by
  unfold stepMsgAttempt
  with_reducible refine Keeps.ite ?_ ?_
  with_reducible refine Keeps.step ?_ (discardStep_keeps ..) ?_
  exact Keeps.refl _
  rfl
  exact Keeps.refl _

theorem execStepReadyRx_keeps (x0 : StepMsg) (s : State) :
    KeepsOut [.free, .tiles, .routers, .engines, .regions, .fns, .ctxs, .basin, .poison, .bsn, .scans, .bundles, .bundleSeq, .recorder, .flt, .idn, .outbox, .msis, .rep, .flc, .rf, .pwr] s (execStepReadyRx x0 s) := by
  unfold execStepReadyRx
  refine KeepsOut.next ?_
  with_reducible refine Keeps.step ?_ (eachRegion_keeps (L := [.free, .tiles, .routers, .engines, .regions, .fns, .ctxs, .basin, .poison, .bsn, .scans, .bundles, .bundleSeq, .recorder, .flt, .idn, .outbox, .msis, .rep, .flc, .rf, .pwr]) (rfl) _ _ _ ?_) (sub_refl _)
  exact Keeps.refl _
  intro y3
  intro y4
  intro y5
  with_reducible refine Keeps.ite ?_ ?_
  exact Keeps.refl _
  dsimp only
  with_reducible refine Keeps.step ?_ (withRegion_keeps (L := [.free, .tiles, .routers, .engines, .regions, .fns, .ctxs, .basin, .poison, .bsn, .scans, .bundles, .bundleSeq, .recorder, .flt, .idn, .outbox, .msis, .rep, .flc, .rf, .pwr]) (rfl) _ _ _ ?_) (sub_refl _)
  with_reducible refine Keeps.step ?_ (stepMsgAttempt_keeps ..) ?_
  with_reducible refine Keeps.step ?_ (updRegion_keeps ..) ?_
  exact Keeps.refl _
  rfl
  rfl
  intro y15
  with_reducible refine Keeps.ite ?_ ?_
  with_reducible refine Keeps.step ?_ (commitStep_keeps ..) ?_
  exact Keeps.refl _
  rfl
  exact Keeps.refl _

theorem execStepFailRx_keeps (x0 : StepMsg) (s : State) :
    KeepsOut [.free, .tiles, .routers, .engines, .regions, .fns, .basin, .poison, .bsn, .scans, .bundles, .bundleSeq, .recorder, .flt, .idn, .outbox, .msis, .rep, .flc, .rf, .pwr] s (execStepFailRx x0 s) := by
  unfold execStepFailRx
  refine KeepsOut.next ?_
  with_reducible refine Keeps.step ?_ (eachRegion_keeps (L := [.free, .tiles, .routers, .engines, .regions, .fns, .basin, .poison, .bsn, .scans, .bundles, .bundleSeq, .recorder, .flt, .idn, .outbox, .msis, .rep, .flc, .rf, .pwr]) (rfl) _ _ _ ?_) (sub_refl _)
  exact Keeps.refl _
  intro y3
  intro y4
  intro y5
  with_reducible refine Keeps.ite ?_ ?_
  with_reducible refine Keeps.step ?_ (discardStep_keeps ..) ?_
  exact Keeps.refl _
  rfl
  exact Keeps.refl _

theorem execStepQueryRx_keeps (x0 : StepMsg) (s : State) :
    KeepsOut [.free, .tiles, .routers, .engines, .regions, .fns, .basin, .poison, .bsn, .scans, .bundles, .bundleSeq, .recorder, .flt, .idn, .outbox, .msis, .rep, .flc, .rf, .pwr] s (execStepQueryRx x0 s) := by
  unfold execStepQueryRx
  refine KeepsOut.next ?_
  with_reducible refine Keeps.step ?_ (eachRegion_keeps (L := [.free, .tiles, .routers, .engines, .regions, .fns, .basin, .poison, .bsn, .scans, .bundles, .bundleSeq, .recorder, .flt, .idn, .outbox, .msis, .rep, .flc, .rf, .pwr]) (rfl) _ _ _ ?_) (sub_refl _)
  exact Keeps.refl _
  intro y3
  intro y4
  intro y5
  with_reducible refine Keeps.ite ?_ ?_
  exact Keeps.refl _
  with_reducible refine Keeps.ite ?_ ?_
  with_reducible refine Keeps.step ?_ (send_keeps ..) ?_
  exact Keeps.refl _
  rfl
  dsimp only
  with_reducible refine Keeps.step ?_ (send_keeps ..) ?_
  with_reducible refine Keeps.ite ?_ ?_
  with_reducible refine Keeps.step ?_ (discardStep_keeps ..) ?_
  exact Keeps.refl _
  rfl
  exact Keeps.refl _
  rfl

theorem execStepQueryAnswerRx_keeps (x0 : StepMsg) (x1 : QueryAnswer) (s : State) :
    KeepsOut [.free, .tiles, .routers, .engines, .regions, .fns, .ctxs, .basin, .poison, .bsn, .scans, .bundles, .bundleSeq, .recorder, .flt, .idn, .outbox, .msis, .rep, .flc, .rf, .pwr] s (execStepQueryAnswerRx x0 x1 s) := by
  unfold execStepQueryAnswerRx
  refine KeepsOut.next ?_
  with_reducible refine Keeps.step ?_ (eachRegion_keeps (L := [.free, .tiles, .routers, .engines, .regions, .fns, .ctxs, .basin, .poison, .bsn, .scans, .bundles, .bundleSeq, .recorder, .flt, .idn, .outbox, .msis, .rep, .flc, .rf, .pwr]) (rfl) _ _ _ ?_) (sub_refl _)
  exact Keeps.refl _
  intro y3
  intro y4
  intro y5
  with_reducible refine Keeps.ite ?_ ?_
  dsimp only
  with_reducible refine Keeps.step ?_ (withRegion_keeps (L := [.free, .tiles, .routers, .engines, .regions, .fns, .ctxs, .basin, .poison, .bsn, .scans, .bundles, .bundleSeq, .recorder, .flt, .idn, .outbox, .msis, .rep, .flc, .rf, .pwr]) (rfl) _ _ _ ?_) (sub_refl _)
  with_reducible refine Keeps.step ?_ (updRegion_keeps ..) ?_
  exact Keeps.refl _
  rfl
  intro y12
  with_reducible refine Keeps.ite ?_ ?_
  exact Keeps.refl _
  with_reducible refine Keeps.ite ?_ ?_
  with_reducible refine Keeps.step ?_ (commitStep_keeps ..) ?_
  exact Keeps.refl _
  rfl
  with_reducible refine Keeps.ite ?_ ?_
  with_reducible refine Keeps.step ?_ (discardStep_keeps ..) ?_
  exact Keeps.refl _
  rfl
  exact Keeps.refl _
  exact Keeps.refl _

theorem execStepTimerExpiry_keeps (x0 : Nat) (s : State) :
    KeepsOut [.free, .tiles, .routers, .engines, .regions, .fns, .basin, .poison, .bsn, .scans, .bundles, .bundleSeq, .recorder, .flt, .idn, .outbox, .msis, .rep, .flc, .rf, .pwr] s (execStepTimerExpiry x0 s) := by
  unfold execStepTimerExpiry
  with_reducible refine KeepsOut.step ?_ (onRegion_keeps (L := [.free, .tiles, .routers, .engines, .regions, .fns, .basin, .poison, .bsn, .scans, .bundles, .bundleSeq, .recorder, .flt, .idn, .outbox, .msis, .rep, .flc, .rf, .pwr]) (rfl) _ _ _ ?_) (sub_refl _)
  exact Keeps.refl _
  intro y2
  with_reducible refine Keeps.ite ?_ ?_
  exact Keeps.refl _
  split
  dsimp only
  with_reducible refine Keeps.step ?_ (discardStep_keeps ..) ?_
  split
  with_reducible refine Keeps.step ?_ (postHang_keeps ..) ?_
  exact Keeps.refl _
  rfl
  exact Keeps.refl _
  rfl
  with_reducible refine Keeps.step ?_ (discardStep_keeps ..) ?_
  exact Keeps.refl _
  rfl
  with_reducible refine Keeps.ite ?_ ?_
  exact Keeps.refl _
  with_reducible refine Keeps.step ?_ (send_keeps ..) ?_
  with_reducible refine Keeps.step ?_ (updRegion_keeps ..) ?_
  exact Keeps.refl _
  rfl
  rfl
  exact Keeps.refl _

theorem execQueryWaitExpiry_keeps (x0 : Nat) (s : State) :
    KeepsOut [.free, .tiles, .routers, .engines, .regions, .fns, .basin, .poison, .bsn, .scans, .bundles, .bundleSeq, .recorder, .flt, .idn, .outbox, .msis, .rep, .flc, .rf, .pwr] s (execQueryWaitExpiry x0 s) := by
  unfold execQueryWaitExpiry
  with_reducible refine KeepsOut.step ?_ (onRegion_keeps (L := [.free, .tiles, .routers, .engines, .regions, .fns, .basin, .poison, .bsn, .scans, .bundles, .bundleSeq, .recorder, .flt, .idn, .outbox, .msis, .rep, .flc, .rf, .pwr]) (rfl) _ _ _ ?_) (sub_refl _)
  exact Keeps.refl _
  intro y2
  split
  with_reducible refine Keeps.ite ?_ ?_
  exact Keeps.refl _
  dsimp only
  with_reducible refine Keeps.ite ?_ ?_
  with_reducible refine Keeps.step ?_ (discardStep_keeps ..) ?_
  with_reducible refine Keeps.step ?_ (updRegion_keeps ..) ?_
  exact Keeps.refl _
  rfl
  rfl
  with_reducible refine Keeps.step ?_ (updRegion_keeps ..) ?_
  exact Keeps.refl _
  rfl
  exact Keeps.refl _

theorem execUndeliveredResume_keeps (x0 : Nat) (s : State) :
    KeepsOut [.regions, .fns, .msis] s (execUndeliveredResume x0 s) := by
  unfold execUndeliveredResume
  with_reducible refine KeepsOut.step ?_ (onRegion_keeps (L := [.regions, .fns, .msis]) (rfl) _ _ _ ?_) (sub_refl _)
  exact Keeps.refl _
  intro y2
  with_reducible refine Keeps.ite ?_ ?_
  with_reducible refine Keeps.step ?_ (postRunState_keeps ..) ?_
  with_reducible refine Keeps.step ?_ (updRegion_keeps ..) ?_
  exact Keeps.refl _
  rfl
  rfl
  exact Keeps.refl _

theorem execQueueStall_keeps (x0 : Nat) (x1 : Nat) (s : State) :
    KeepsOut [.fns, .recorder, .flt, .msis, .rf] s (execQueueStall x0 x1 s) := by
  unfold execQueueStall
  refine needUnit_keeps ?_
  dsimp only
  refine KeepsOut.next ?_
  with_reducible refine Keeps.step ?_ (withRegion_keeps (L := [.fns, .recorder, .flt, .msis, .rf]) (rfl) _ _ _ ?_) (sub_refl _)
  exact Keeps.refl _
  intro y5
  split
  with_reducible refine Keeps.ite ?_ ?_
  with_reducible refine Keeps.step ?_ (postHang_keeps ..) ?_
  with_reducible refine Keeps.step ?_ (updRf_keeps ..) ?_
  exact Keeps.refl _
  rfl
  rfl
  exact Keeps.refl _
  exact Keeps.refl _

theorem execEngineHang_keeps (x0 : Nat) (x1 : Nat) (s : State) :
    KeepsOut [.free, .tiles, .routers, .engines, .regions, .fns, .scans, .bundles, .bundleSeq, .recorder, .flt, .idn, .outbox, .msis, .rep, .flc, .rf, .pwr] s (execEngineHang x0 x1 s) := by
  unfold execEngineHang
  refine needUnit_keeps ?_
  split
  dsimp only
  refine KeepsOut.next ?_
  with_reducible refine Keeps.step ?_ (charge_keeps ..) ?_
  with_reducible refine Keeps.step ?_ (failStep_keeps ..) ?_
  with_reducible refine Keeps.step ?_ (resetTileCore_keeps ..) ?_
  with_reducible refine Keeps.step ?_ (postHang_keeps ..) ?_
  with_reducible refine Keeps.step ?_ (captureNow_keeps ..) ?_
  exact Keeps.refl _
  rfl
  rfl
  rfl
  rfl
  rfl
  refine KeepsOut.next ?_
  exact Keeps.refl _

end Sys2Proof.Machine
end

