-- ==== Sys2Proof/Laws/Placement.lean ====
section
/-! SUPPORT. What the operations of Machine/Placement.lean may change: for each, the parts of the state. -/

namespace Sys2Proof.Machine

theorem fixMaps_keeps (s : State) (x1 : Region) (x2 : Image) (x3 : List Rename) (x4 : Nat) :
    Keeps [.tiles] s (fixMaps s x1 x2 x3 x4) := by
  unfold fixMaps
  dsimp only
  with_reducible refine Keeps.foldl ?_ ?_
  exact Keeps.refl _
  intro y3
  intro y4
  with_reducible refine Keeps.step ?_ (updTile_keeps ..) ?_
  exact Keeps.refl _
  rfl

theorem refillRange_keeps (s : State) (x1 : Region) (x2 : Nat) (x3 : Nat) (x4 : Nat) (x5 : Nat) :
    Keeps [.tiles, .bsn] s (refillRange s x1 x2 x3 x4 x5) := by
  unfold refillRange
  with_reducible refine Keeps.foldl ?_ ?_
  with_reducible refine Keeps.step ?_ (countPoison_keeps ..) ?_
  exact Keeps.refl _
  rfl
  intro y4
  intro y5
  with_reducible refine Keeps.step ?_ (updTile_keeps ..) ?_
  exact Keeps.refl _
  rfl

theorem fillResident_keeps (s : State) (x1 : Region) (x2 : Image) (x3 : Nat) (x4 : Node) :
    Keeps [.tiles, .bsn] s (fillResident s x1 x2 x3 x4) := by
  unfold fillResident
  with_reducible refine Keeps.foldl ?_ ?_
  exact Keeps.refl _
  intro y2
  intro y3
  with_reducible refine Keeps.step ?_ (refillRange_keeps ..) ?_
  exact Keeps.refl _
  rfl

theorem fillShadow_keeps (s : State) (x1 : Region) (x2 : Nat) (x3 : Node) :
    Keeps [.tiles, .bsn] s (fillShadow s x1 x2 x3) := by
  unfold fillShadow
  with_reducible refine Keeps.foldl ?_ ?_
  exact Keeps.refl _
  intro y2
  intro y3
  with_reducible refine Keeps.step ?_ (refillRange_keeps ..) ?_
  exact Keeps.refl _
  rfl

theorem rebuildTile_keeps (s : State) (x1 : Nat) (x2 : Nat) :
    Keeps [.tiles, .regions, .fns, .bsn, .recorder, .flt, .msis, .pwr] s (rebuildTile s x1 x2) := by
  unfold rebuildTile
  with_reducible refine Keeps.step ?_ (withRegion_keeps (L := [.tiles, .regions, .fns, .bsn, .recorder, .flt, .msis, .pwr]) (rfl) _ _ _ ?_) (sub_refl _)
  exact Keeps.refl _
  intro y2
  split
  with_reducible refine Keeps.step ?_ (updTile_keeps ..) ?_
  exact Keeps.refl _
  rfl
  dsimp only
  with_reducible refine Keeps.ite ?_ ?_
  with_reducible refine Keeps.step ?_ (stopRegion_keeps ..) ?_
  with_reducible refine Keeps.step ?_ (regionEvent_keeps ..) ?_
  with_reducible refine Keeps.foldl ?_ ?_
  with_reducible refine Keeps.step ?_ (fixMaps_keeps ..) ?_
  with_reducible refine Keeps.foldl ?_ ?_
  with_reducible refine Keeps.step ?_ (updTile_keeps ..) ?_
  exact Keeps.refl _
  rfl
  intro y17
  intro y18
  with_reducible refine Keeps.step ?_ (fillShadow_keeps ..) ?_
  with_reducible refine Keeps.step ?_ (fillResident_keeps ..) ?_
  exact Keeps.refl _
  rfl
  rfl
  rfl
  intro y25
  intro y26
  with_reducible refine Keeps.step ?_ (basinUeEvent_keeps ..) ?_
  exact Keeps.refl _
  rfl
  rfl
  rfl
  with_reducible refine Keeps.ite ?_ ?_
  with_reducible refine Keeps.step ?_ (stopRegion_keeps ..) ?_
  with_reducible refine Keeps.foldl ?_ ?_
  with_reducible refine Keeps.step ?_ (fixMaps_keeps ..) ?_
  with_reducible refine Keeps.foldl ?_ ?_
  with_reducible refine Keeps.step ?_ (updTile_keeps ..) ?_
  exact Keeps.refl _
  rfl
  intro y40
  intro y41
  with_reducible refine Keeps.step ?_ (fillShadow_keeps ..) ?_
  with_reducible refine Keeps.step ?_ (fillResident_keeps ..) ?_
  exact Keeps.refl _
  rfl
  rfl
  rfl
  intro y48
  intro y49
  with_reducible refine Keeps.step ?_ (basinUeEvent_keeps ..) ?_
  exact Keeps.refl _
  rfl
  rfl
  with_reducible refine Keeps.step ?_ (fixMaps_keeps ..) ?_
  with_reducible refine Keeps.foldl ?_ ?_
  with_reducible refine Keeps.step ?_ (updTile_keeps ..) ?_
  exact Keeps.refl _
  rfl
  intro y59
  intro y60
  with_reducible refine Keeps.step ?_ (fillShadow_keeps ..) ?_
  with_reducible refine Keeps.step ?_ (fillResident_keeps ..) ?_
  exact Keeps.refl _
  rfl
  rfl
  rfl

theorem switchTo_keeps (s : State) (x1 : Nat) (x2 : Region) (x3 : Image) (x4 : List (Nat × Nat)) :
    Keeps [.tiles, .regions, .bsn, .rf] s (switchTo s x1 x2 x3 x4) := by
  unfold switchTo
  dsimp only
  with_reducible refine Keeps.step ?_ (updRf_keeps ..) ?_
  with_reducible refine Keeps.foldl ?_ ?_
  with_reducible refine Keeps.foldl ?_ ?_
  with_reducible refine Keeps.foldl ?_ ?_
  with_reducible refine Keeps.step ?_ (updRegion_keeps ..) ?_
  exact Keeps.refl _
  rfl
  intro y8
  intro y9
  with_reducible refine Keeps.step ?_ (updTile_keeps ..) ?_
  exact Keeps.refl _
  rfl
  intro y13
  intro y14
  with_reducible refine Keeps.step ?_ (fillResident_keeps ..) ?_
  exact Keeps.refl _
  rfl
  intro y18
  intro y19
  with_reducible refine Keeps.step ?_ (fixMaps_keeps ..) ?_
  exact Keeps.refl _
  rfl
  rfl

end Sys2Proof.Machine
end

