-- ==== Sys2Proof/Laws/Boundary.lean ====
section
/-! SUPPORT. What the operations of Machine/Boundary.lean may change: for each, the parts of the state. -/

namespace Sys2Proof.Machine

theorem takeAct_keeps (s : State) (x1 : Nat) (x2 : BEntry) :
    Keeps [.regions] s (takeAct s x1 x2) := by
  unfold takeAct
  with_reducible refine Keeps.step ?_ (updRegion_keeps ..) ?_
  exact Keeps.refl _
  rfl

theorem runAct_keeps {L : List Part} (hL : sub [.regions, .fns, .msis, .pwr] L = true) (s : State) (x1 : Nat) (x2 : Nat) (x3 : BAct → Bool) (x4 : State → Region → BEntry → State) (h4 : ∀ a0 a1 a2, Keeps L a0 (x4 a0 a1 a2)) :
    Keeps L s (runAct s x1 x2 x3 x4) := by
  unfold runAct
  dsimp only
  with_reducible refine Keeps.step ?_ (withRegion_keeps (L := L) (sub_trans rfl hL) _ _ _ ?_) (sub_refl _)
  with_reducible refine Keeps.step ?_ (settleMembers_keeps ..) ?_
  exact Keeps.refl _
  exact hL
  intro y5
  split
  with_reducible refine Keeps.ite ?_ ?_
  with_reducible refine Keeps.step ?_ (h4 ..) (sub_refl _)
  exact Keeps.refl _
  exact Keeps.refl _
  exact Keeps.refl _

theorem markShared_keeps (s : State) (x1 : Region) (x2 : List Nat) :
    Keeps [.pageList] s (markShared s x1 x2) := by
  unfold markShared
  dsimp only
  with_reducible refine Keeps.set_pageList (rfl) ?_
  exact Keeps.refl _

theorem admitNow_keeps (s : State) (x1 : Nat) (x2 : Region) (x3 : AdmitBlock) (x4 : List Nat) (x5 : List (BitVec 128)) (x6 : Nat) (x7 : List Nat) (x8 : List Nat) (x9 : Nat) :
    Keeps [.free, .regions, .ctxs, .pageList, .outbox] s (admitNow s x1 x2 x3 x4 x5 x6 x7 x8 x9) := by
  unfold admitNow
  dsimp only
  with_reducible refine Keeps.ite ?_ ?_
  with_reducible refine Keeps.step ?_ (startLookup_keeps ..) ?_
  with_reducible refine Keeps.ite ?_ ?_
  with_reducible refine Keeps.step ?_ (sharedOut_keeps ..) ?_
  with_reducible refine Keeps.step ?_ (setCtx_keeps ..) ?_
  with_reducible refine Keeps.step ?_ (updRegion_keeps ..) ?_
  with_reducible refine Keeps.set_pageList (rfl) ?_
  with_reducible refine Keeps.step ?_ (markShared_keeps ..) ?_
  exact Keeps.refl _
  rfl
  rfl
  rfl
  rfl
  with_reducible refine Keeps.step ?_ (setCtx_keeps ..) ?_
  with_reducible refine Keeps.step ?_ (updRegion_keeps ..) ?_
  with_reducible refine Keeps.set_pageList (rfl) ?_
  with_reducible refine Keeps.step ?_ (markShared_keeps ..) ?_
  exact Keeps.refl _
  rfl
  rfl
  rfl
  rfl
  with_reducible refine Keeps.ite ?_ ?_
  with_reducible refine Keeps.step ?_ (sharedOut_keeps ..) ?_
  with_reducible refine Keeps.step ?_ (setCtx_keeps ..) ?_
  with_reducible refine Keeps.step ?_ (updRegion_keeps ..) ?_
  with_reducible refine Keeps.set_pageList (rfl) ?_
  with_reducible refine Keeps.step ?_ (markShared_keeps ..) ?_
  exact Keeps.refl _
  rfl
  rfl
  rfl
  rfl
  with_reducible refine Keeps.step ?_ (setCtx_keeps ..) ?_
  with_reducible refine Keeps.step ?_ (updRegion_keeps ..) ?_
  with_reducible refine Keeps.set_pageList (rfl) ?_
  with_reducible refine Keeps.step ?_ (markShared_keeps ..) ?_
  exact Keeps.refl _
  rfl
  rfl
  rfl

theorem nextAdmission_keeps (s : State) (x1 : Nat) :
    Keeps [.free, .regions, .fns, .ctxs, .pageList, .outbox, .msis, .pwr] s (nextAdmission s x1) := by
  unfold nextAdmission
  with_reducible refine Keeps.step ?_ (runAct_keeps (L := [.free, .regions, .fns, .ctxs, .pageList, .outbox, .msis, .pwr]) (rfl) _ _ _ _ _ ?_) (sub_refl _)
  exact Keeps.refl _
  intro y2
  intro y3
  intro y4
  split
  dsimp only
  split
  with_reducible refine Keeps.step ?_ (finishOpt_keeps ..) ?_
  with_reducible refine Keeps.step ?_ (takeAct_keeps ..) ?_
  exact Keeps.refl _
  rfl
  rfl
  with_reducible refine Keeps.step ?_ (finishOpt_keeps ..) ?_
  with_reducible refine Keeps.step ?_ (admitNow_keeps ..) ?_
  with_reducible refine Keeps.step ?_ (takeAct_keeps ..) ?_
  exact Keeps.refl _
  rfl
  rfl
  rfl
  with_reducible refine Keeps.step ?_ (finishOpt_keeps ..) ?_
  with_reducible refine Keeps.step ?_ (takeAct_keeps ..) ?_
  exact Keeps.refl _
  rfl
  rfl

theorem freeCtx_keeps (s : State) (x1 : Nat) (x2 : Nat) :
    Keeps [.regions, .ctxs, .pageList] s (freeCtx s x1 x2) := by
  unfold freeCtx
  dsimp only
  with_reducible refine Keeps.step ?_ (setCtx_keeps ..) ?_
  with_reducible refine Keeps.step ?_ (updRegion_keeps ..) ?_
  with_reducible refine Keeps.set_pageList (rfl) ?_
  exact Keeps.refl _
  rfl
  rfl

theorem nextRelease_keeps (s : State) (x1 : Nat) :
    Keeps [.regions, .fns, .ctxs, .pageList, .msis, .pwr] s (nextRelease s x1) := by
  unfold nextRelease
  with_reducible refine Keeps.step ?_ (runAct_keeps (L := [.regions, .fns, .ctxs, .pageList, .msis, .pwr]) (rfl) _ _ _ _ _ ?_) (sub_refl _)
  exact Keeps.refl _
  intro y2
  intro y3
  intro y4
  dsimp only
  split
  split
  with_reducible refine Keeps.step ?_ (finishOpt_keeps ..) ?_
  with_reducible refine Keeps.step ?_ (takeAct_keeps ..) ?_
  exact Keeps.refl _
  rfl
  rfl
  with_reducible refine Keeps.step ?_ (finishOpt_keeps ..) ?_
  with_reducible refine Keeps.step ?_ (freeCtx_keeps ..) ?_
  with_reducible refine Keeps.step ?_ (takeAct_keeps ..) ?_
  exact Keeps.refl _
  rfl
  rfl
  rfl
  with_reducible refine Keeps.step ?_ (takeAct_keeps ..) ?_
  exact Keeps.refl _
  rfl

theorem unloadImage_keeps (s : State) (x1 : Nat) (x2 : Region) :
    Keeps [.tiles, .regions, .rf] s (unloadImage s x1 x2) := by
  unfold unloadImage
  dsimp only
  with_reducible refine Keeps.step ?_ (updRf_keeps ..) ?_
  with_reducible refine Keeps.step ?_ (updRegion_keeps ..) ?_
  with_reducible refine Keeps.foldl ?_ ?_
  exact Keeps.refl _
  intro y5
  intro y6
  with_reducible refine Keeps.step ?_ (updTile_keeps ..) ?_
  exact Keeps.refl _
  rfl
  rfl
  rfl

theorem failConfigs_keeps (s : State) (x1 : Nat) (x2 : List Nat) :
    Keeps [.tiles, .regions, .fns, .recorder, .flt, .idn, .outbox, .msis, .rep] s (failConfigs s x1 x2) := by
  unfold failConfigs
  with_reducible refine Keeps.foldl ?_ ?_
  exact Keeps.refl _
  intro y2
  intro y3
  dsimp only
  with_reducible refine Keeps.step ?_ (palacy_keeps ..) ?_
  with_reducible refine Keeps.step ?_ (declareFailed_keeps ..) ?_
  with_reducible refine Keeps.step ?_ (posEvent_keeps ..) ?_
  exact Keeps.refl _
  rfl
  rfl
  rfl

theorem awaitFlip_keeps (s : State) (x1 : Nat) :
    Keeps [.regions] s (awaitFlip s x1) := by
  unfold awaitFlip
  with_reducible refine Keeps.step ?_ (updRegion_keeps ..) ?_
  exact Keeps.refl _
  rfl

theorem execGraphSwitch_keeps (x0 : Nat) (s : State) (x2 : List Nat) :
    KeepsOut [.tiles, .regions, .fns, .bsn, .recorder, .flt, .idn, .outbox, .msis, .rep, .rf, .pwr] s (execGraphSwitch x0 s x2) := by
  unfold execGraphSwitch
  with_reducible refine KeepsOut.step ?_ (onRegion_keeps (L := [.tiles, .regions, .fns, .bsn, .recorder, .flt, .idn, .outbox, .msis, .rep, .rf, .pwr]) (rfl) _ _ _ ?_) (sub_refl _)
  exact Keeps.refl _
  intro y2
  with_reducible refine Keeps.step ?_ (runAct_keeps (L := [.tiles, .regions, .fns, .bsn, .recorder, .flt, .idn, .outbox, .msis, .rep, .rf, .pwr]) (rfl) _ _ _ _ _ ?_) (sub_refl _)
  exact Keeps.refl _
  intro y5
  intro y6
  intro y7
  dsimp only
  split
  split
  with_reducible refine Keeps.step ?_ (finishOpt_keeps ..) ?_
  with_reducible refine Keeps.step ?_ (updRegion_keeps ..) ?_
  with_reducible refine Keeps.step ?_ (takeAct_keeps ..) ?_
  exact Keeps.refl _
  rfl
  rfl
  rfl
  with_reducible refine Keeps.ite ?_ ?_
  with_reducible refine Keeps.step ?_ (finishOpt_keeps ..) ?_
  with_reducible refine Keeps.step ?_ (updRegion_keeps ..) ?_
  with_reducible refine Keeps.step ?_ (takeAct_keeps ..) ?_
  exact Keeps.refl _
  rfl
  rfl
  rfl
  with_reducible refine Keeps.step ?_ (failConfigs_keeps ..) ?_
  with_reducible refine Keeps.step ?_ (finishOpt_keeps ..) ?_
  with_reducible refine Keeps.step ?_ (awaitFlip_keeps ..) ?_
  with_reducible refine Keeps.step ?_ (switchTo_keeps ..) ?_
  with_reducible refine Keeps.step ?_ (updRegion_keeps ..) ?_
  with_reducible refine Keeps.step ?_ (unloadImage_keeps ..) ?_
  with_reducible refine Keeps.step ?_ (updRegion_keeps ..) ?_
  with_reducible refine Keeps.step ?_ (takeAct_keeps ..) ?_
  exact Keeps.refl _
  rfl
  rfl
  rfl
  rfl
  rfl
  rfl
  rfl
  rfl
  with_reducible refine Keeps.step ?_ (updRegion_keeps ..) ?_
  with_reducible refine Keeps.step ?_ (takeAct_keeps ..) ?_
  exact Keeps.refl _
  rfl
  rfl

theorem destroyNs_keeps (s : State) (x1 : Nat) :
    Keeps [.tiles, .regions, .fns, .silt, .recorder, .flt, .outbox, .msis] s (destroyNs s x1) := by
  unfold destroyNs
  dsimp only
  with_reducible refine Keeps.foldl ?_ ?_
  with_reducible refine Keeps.step ?_ (updSilt_keeps ..) ?_
  with_reducible refine Keeps.foldl ?_ ?_
  exact Keeps.refl _
  intro y5
  intro y6
  with_reducible refine Keeps.step ?_ (failTxn_keeps ..) ?_
  exact Keeps.refl _
  rfl
  rfl
  intro y11
  intro y12
  with_reducible refine Keeps.step ?_ (reclaimSuper_keeps ..) ?_
  exact Keeps.refl _
  rfl

theorem dropNamespaces_keeps (s : State) (x1 : Nat) :
    Keeps [.tiles, .regions, .fns, .silt, .recorder, .flt, .outbox, .msis] s (dropNamespaces s x1) := by
  unfold dropNamespaces
  with_reducible refine Keeps.foldl ?_ ?_
  exact Keeps.refl _
  intro y2
  intro y3
  with_reducible refine Keeps.ite ?_ ?_
  with_reducible refine Keeps.step ?_ (updNs_keeps ..) ?_
  exact Keeps.refl _
  rfl
  with_reducible refine Keeps.step ?_ (destroyNs_keeps ..) ?_
  exact Keeps.refl _
  rfl

theorem setFootprints_keeps (s : State) :
    Keeps [.routers] s (setFootprints s) := by
  unfold setFootprints
  with_reducible refine Keeps.foldl ?_ ?_
  exact Keeps.refl _
  intro y2
  intro y3
  dsimp only
  with_reducible refine Keeps.ite ?_ ?_
  exact Keeps.refl _
  with_reducible refine Keeps.step ?_ (updRouter_keeps ..) ?_
  exact Keeps.refl _
  rfl

theorem endRequests_keeps (s : State) (x1 : Nat) (x2 : Nat) (x3 : Option (Nat × Nat)) :
    Keeps [.fns, .pwr] s (endRequests s x1 x2 x3) := by
  unfold endRequests
  with_reducible refine Keeps.foldl ?_ ?_
  exact Keeps.refl _
  intro y2
  intro y3
  with_reducible refine Keeps.foldl ?_ ?_
  exact Keeps.refl _
  intro y6
  intro y7
  with_reducible refine Keeps.step ?_ (finishReq_keeps ..) ?_
  exact Keeps.refl _
  rfl

theorem forgetRegion_keeps (s : State) (x1 : Nat) (x2 : Region) :
    Keeps [.regions, .scans, .silt, .rf, .fab, .pwr, .sec] s (forgetRegion s x1 x2) := by
  unfold forgetRegion
  dsimp only
  with_reducible refine Keeps.set_fab (rfl) ?_ ?_ ?_
  refine fun h => ⟨?_, ?_, ?_, ?_, ?_, ?_, ?_, ?_, ?_, ?_⟩
  with_reducible exact h.1
  with_reducible exact h.2
  exact h.3
  with_reducible exact h.4
  with_reducible exact h.5
  with_reducible exact h.6
  with_reducible exact h.7
  with_reducible exact h.8
  with_reducible exact h.9
  with_reducible exact h.10
  exact ⟨Nat.le_refl _, Nat.le_refl _, rfl, rfl, rfl, rfl, rfl⟩
  with_reducible refine Keeps.step ?_ (delRegion_keeps ..) ?_
  with_reducible refine Keeps.set_scans_silt_rf_pwr_sec (rfl) ?_ ?_ ?_
  with_reducible exact fun h => ⟨h.1, h.2, h.3, h.4, h.5, h.6, h.7, h.8, h.9, h.10⟩
  exact ⟨Nat.le_refl _, Nat.le_refl _, rfl, rfl, rfl, rfl, rfl⟩
  exact Keeps.refl _
  rfl

theorem destroyRegion_keeps (s : State) (x1 : Nat) (x2 : Region) (x3 : Option (Nat × Nat)) :
    Keeps [.free, .tiles, .routers, .engines, .regions, .fns, .ctxs, .pageList, .basin, .poison, .bsn, .scans, .bundles, .bundleSeq, .silt, .recorder, .flt, .idn, .outbox, .msis, .rep, .flc, .rf, .fab, .pwr, .sec] s (destroyRegion s x1 x2 x3) := by
  unfold destroyRegion
  dsimp only
  with_reducible refine Keeps.step ?_ (setFootprints_keeps ..) ?_
  with_reducible refine Keeps.step ?_ (forgetRegion_keeps ..) ?_
  with_reducible refine Keeps.step ?_ (basinZero_keeps ..) ?_
  with_reducible refine Keeps.step ?_ (dropNamespaces_keeps ..) ?_
  with_reducible refine Keeps.foldl ?_ ?_
  with_reducible refine Keeps.foldl ?_ ?_
  with_reducible refine Keeps.foldl ?_ ?_
  with_reducible refine Keeps.step ?_ (endRequests_keeps ..) ?_
  split
  with_reducible refine Keeps.step ?_ (detach_keeps ..) ?_
  exact Keeps.refl _
  rfl
  exact Keeps.refl _
  rfl
  intro y15
  intro y16
  with_reducible refine Keeps.step ?_ (freeCtx_keeps ..) ?_
  exact Keeps.refl _
  rfl
  intro y20
  intro y21
  with_reducible refine Keeps.step ?_ (updTile_keeps ..) ?_
  exact Keeps.refl _
  rfl
  intro y25
  intro y26
  with_reducible refine Keeps.step ?_ (updEngine_keeps ..) ?_
  exact Keeps.refl _
  rfl
  rfl
  rfl
  rfl
  rfl

theorem execStopAtBoundary_keeps (x0 : Nat) (s : State) :
    KeepsOut [.free, .tiles, .routers, .engines, .regions, .fns, .ctxs, .pageList, .basin, .poison, .bsn, .scans, .bundles, .bundleSeq, .silt, .recorder, .flt, .idn, .outbox, .msis, .rep, .flc, .rf, .fab, .pwr, .sec] s (execStopAtBoundary x0 s) := by
  unfold execStopAtBoundary
  with_reducible refine KeepsOut.step ?_ (onRegion_keeps (L := [.free, .tiles, .routers, .engines, .regions, .fns, .ctxs, .pageList, .basin, .poison, .bsn, .scans, .bundles, .bundleSeq, .silt, .recorder, .flt, .idn, .outbox, .msis, .rep, .flc, .rf, .fab, .pwr, .sec]) (rfl) _ _ _ ?_) (sub_refl _)
  exact Keeps.refl _
  intro y2
  dsimp only
  with_reducible refine Keeps.step ?_ (withRegion_keeps (L := [.free, .tiles, .routers, .engines, .regions, .fns, .ctxs, .pageList, .basin, .poison, .bsn, .scans, .bundles, .bundleSeq, .silt, .recorder, .flt, .idn, .outbox, .msis, .rep, .flc, .rf, .fab, .pwr, .sec]) (rfl) _ _ _ ?_) (sub_refl _)
  with_reducible refine Keeps.step ?_ (settleMembers_keeps ..) ?_
  exact Keeps.refl _
  rfl
  intro y8
  split
  exact Keeps.refl _
  with_reducible refine Keeps.ite ?_ ?_
  split
  with_reducible refine Keeps.step ?_ (finishOpt_keeps ..) ?_
  with_reducible refine Keeps.step ?_ (stopRegion_keeps ..) ?_
  with_reducible refine Keeps.step ?_ (takeAct_keeps ..) ?_
  exact Keeps.refl _
  rfl
  rfl
  rfl
  with_reducible refine Keeps.ite ?_ ?_
  with_reducible refine Keeps.step ?_ (finishOpt_keeps ..) ?_
  with_reducible refine Keeps.step ?_ (takeAct_keeps ..) ?_
  exact Keeps.refl _
  rfl
  rfl
  with_reducible refine Keeps.step ?_ (finishOpt_keeps ..) ?_
  with_reducible refine Keeps.step ?_ (unloadImage_keeps ..) ?_
  with_reducible refine Keeps.step ?_ (stopRegion_keeps ..) ?_
  with_reducible refine Keeps.step ?_ (takeAct_keeps ..) ?_
  exact Keeps.refl _
  rfl
  rfl
  rfl
  rfl
  with_reducible refine Keeps.step ?_ (finishOpt_keeps ..) ?_
  with_reducible refine Keeps.step ?_ (destroyRegion_keeps ..) ?_
  with_reducible refine Keeps.step ?_ (stopRegion_keeps ..) ?_
  with_reducible refine Keeps.step ?_ (takeAct_keeps ..) ?_
  exact Keeps.refl _
  rfl
  rfl
  rfl
  rfl
  exact Keeps.refl _
  exact Keeps.refl _

theorem healGranule_keeps (s : State) (x1 : Region) (x2 : Image) (x3 : Nat) :
    Keeps [.basin, .poison, .bsn, .scans] s (healGranule s x1 x2 x3) := by
  unfold healGranule
  dsimp only
  with_reducible refine Keeps.ite ?_ ?_
  with_reducible refine Keeps.step ?_ (updBsn_keeps ..) ?_
  with_reducible refine Keeps.step ?_ (basinPut_keeps ..) ?_
  exact Keeps.refl _
  rfl
  rfl
  exact Keeps.refl _

theorem execBasinHealing_keeps (x0 : Nat) (s : State) :
    KeepsOut [.regions, .fns, .basin, .poison, .bsn, .scans, .msis, .pwr] s (execBasinHealing x0 s) := by
  unfold execBasinHealing
  with_reducible refine KeepsOut.step ?_ (onRegion_keeps (L := [.regions, .fns, .basin, .poison, .bsn, .scans, .msis, .pwr]) (rfl) _ _ _ ?_) (sub_refl _)
  exact Keeps.refl _
  intro y2
  with_reducible refine Keeps.step ?_ (runAct_keeps (L := [.regions, .fns, .basin, .poison, .bsn, .scans, .msis, .pwr]) (rfl) _ _ _ _ _ ?_) (sub_refl _)
  exact Keeps.refl _
  intro y5
  intro y6
  intro y7
  dsimp only
  split
  with_reducible refine Keeps.step ?_ (takeAct_keeps ..) ?_
  exact Keeps.refl _
  rfl
  with_reducible refine Keeps.foldl ?_ ?_
  with_reducible refine Keeps.step ?_ (takeAct_keeps ..) ?_
  exact Keeps.refl _
  rfl
  intro y17
  intro y18
  with_reducible refine Keeps.ite ?_ ?_
  with_reducible refine Keeps.step ?_ (healGranule_keeps ..) ?_
  exact Keeps.refl _
  rfl
  exact Keeps.refl _

end Sys2Proof.Machine
end

