-- ==== Sys2Proof/Laws/Castling.lean ====
section
/-! SUPPORT. What the operations of Machine/Castling.lean may change: for each, the parts of the state. -/

namespace Sys2Proof.Machine

theorem absentEvent_keeps (s : State) (x1 : Nat) (x2 : Nat) (x3 : Nat) :
    Keeps [.regions, .fns, .recorder, .flt, .msis] s (absentEvent s x1 x2 x3) := by
  unfold absentEvent
  dsimp only
  with_reducible refine Keeps.step ?_ (updRegion_keeps ..) ?_
  with_reducible refine Keeps.step ?_ (postEvent_keeps ..) ?_
  exact Keeps.refl _
  rfl
  rfl

theorem makeAbsent_keeps (s : State) (x1 : Nat) :
    Keeps [.tiles, .routers, .absent, .regions, .fns, .recorder, .flt, .idn, .msis, .rep] s (makeAbsent s x1) := by
  unfold makeAbsent
  dsimp only
  with_reducible refine Keeps.ite ?_ ?_
  with_reducible refine Keeps.step ?_ (absentEvent_keeps ..) ?_
  with_reducible refine Keeps.step ?_ (noteSpares_keeps ..) ?_
  with_reducible refine Keeps.set_absent_rep (rfl) ?_
  with_reducible refine Keeps.foldl ?_ ?_
  with_reducible refine Keeps.step ?_ (setTilePos_keeps ..) ?_
  exact Keeps.refl _
  rfl
  intro y9
  intro y10
  with_reducible refine Keeps.ite ?_ ?_
  with_reducible refine Keeps.step ?_ (invalidate_keeps ..) ?_
  exact Keeps.refl _
  rfl
  exact Keeps.refl _
  rfl
  rfl
  with_reducible refine Keeps.step ?_ (noteSpares_keeps ..) ?_
  with_reducible refine Keeps.set_absent_rep (rfl) ?_
  with_reducible refine Keeps.foldl ?_ ?_
  with_reducible refine Keeps.step ?_ (setTilePos_keeps ..) ?_
  exact Keeps.refl _
  rfl
  intro y24
  intro y25
  with_reducible refine Keeps.ite ?_ ?_
  with_reducible refine Keeps.step ?_ (invalidate_keeps ..) ?_
  exact Keeps.refl _
  rfl
  exact Keeps.refl _
  rfl

theorem startCastle_keeps (s : State) (x1 : Nat) (x2 : Nat) (x3 : List (Nat × Nat × Nat)) (x4 : List Nat) :
    Keeps [.regions, .rep] s (startCastle s x1 x2 x3 x4) := by
  unfold startCastle
  dsimp only
  with_reducible refine Keeps.foldl ?_ ?_
  with_reducible refine Keeps.set_rep (rfl) ?_
  exact Keeps.refl _
  intro y4
  intro y5
  with_reducible refine Keeps.step ?_ (updRegion_keeps ..) ?_
  with_reducible refine Keeps.step ?_ (dropAct_keeps ..) ?_
  exact Keeps.refl _
  rfl
  rfl

theorem absentInstead_keeps (s : State) (x1 : Nat) (x2 : Nat) :
    Keeps [.tiles, .routers, .absent, .regions, .fns, .recorder, .flt, .idn, .msis, .rep] s (absentInstead s x1 x2) := by
  unfold absentInstead
  dsimp only
  with_reducible refine Keeps.step ?_ (makeAbsent_keeps ..) ?_
  with_reducible refine Keeps.foldl ?_ ?_
  with_reducible refine Keeps.set_rep (rfl) ?_
  exact Keeps.refl _
  intro y5
  intro y6
  with_reducible refine Keeps.step ?_ (updRegion_keeps ..) ?_
  exact Keeps.refl _
  rfl
  rfl

theorem execCastling_keeps (x0 : Nat) (s : State) :
    KeepsOut [.tiles, .routers, .absent, .regions, .fns, .recorder, .flt, .idn, .msis, .rep] s (execCastling x0 s) := by
  unfold execCastling
  refine needUnit_keeps ?_
  dsimp only
  split
  refine KeepsOut.next ?_
  exact Keeps.refl _
  split
  refine KeepsOut.next ?_
  with_reducible refine Keeps.step ?_ (absentInstead_keeps ..) ?_
  exact Keeps.refl _
  rfl
  split
  refine KeepsOut.next ?_
  with_reducible refine Keeps.step ?_ (startCastle_keeps ..) ?_
  exact Keeps.refl _
  rfl
  refine KeepsOut.next ?_
  with_reducible refine Keeps.set_rep (rfl) ?_
  exact Keeps.refl _

theorem execPositionFailed_keeps (x0 : Nat) (s : State) :
    KeepsOut [.tiles, .regions, .idn, .outbox, .rep] s (execPositionFailed x0 s) := by
  unfold execPositionFailed
  refine needUnit_keeps ?_
  split
  refine KeepsOut.next ?_
  with_reducible refine Keeps.step ?_ (declareFailed_keeps ..) ?_
  exact Keeps.refl _
  rfl
  dsimp only
  split
  refine KeepsOut.next ?_
  with_reducible refine Keeps.set_rep (rfl) ?_
  exact Keeps.refl _
  refine KeepsOut.next ?_
  with_reducible refine Keeps.step ?_ (declareFailed_keeps ..) ?_
  exact Keeps.refl _
  rfl

theorem execCastlingComplete_keeps (s : State) :
    KeepsOut [.tiles, .routers, .ltMap, .absent, .regions, .fns, .bsn, .recorder, .flt, .idn, .msis, .rep, .pwr] s (execCastlingComplete s) := by
  unfold execCastlingComplete
  split
  refine KeepsOut.next ?_
  exact Keeps.refl _
  dsimp only
  split
  refine KeepsOut.next ?_
  exact Keeps.refl _
  refine KeepsOut.next ?_
  with_reducible refine Keeps.step ?_ (postEvent_keeps ..) ?_
  with_reducible refine Keeps.step ?_ (setFootprints_keeps ..) ?_
  with_reducible refine Keeps.step ?_ (noteSpares_keeps ..) ?_
  with_reducible refine Keeps.foldl ?_ ?_
  with_reducible refine Keeps.foldl ?_ ?_
  with_reducible refine Keeps.set_ltMap_rep (rfl) ?_
  with_reducible refine Keeps.step ?_ (setTilePos_keeps ..) ?_
  with_reducible refine Keeps.set_tiles (rfl) ?_
  exact Keeps.refl _
  rfl
  intro y18
  intro y19
  with_reducible refine Keeps.ite ?_ ?_
  with_reducible refine Keeps.step ?_ (rebuildTile_keeps ..) ?_
  exact Keeps.refl _
  rfl
  with_reducible refine Keeps.step ?_ (updTile_keeps ..) ?_
  exact Keeps.refl _
  rfl
  intro y27
  intro y28
  with_reducible refine Keeps.step ?_ (makeAbsent_keeps ..) ?_
  exact Keeps.refl _
  rfl
  rfl
  rfl
  rfl

theorem degradeRegion_keeps (s : State) (x1 : Nat) (x2 : List Byte) :
    Keeps [.regions, .fns, .recorder, .flt, .msis, .pwr] s (degradeRegion s x1 x2) := by
  unfold degradeRegion
  dsimp only
  with_reducible refine Keeps.step ?_ (regionEvent_keeps ..) ?_
  with_reducible refine Keeps.step ?_ (updRegion_keeps ..) ?_
  with_reducible refine Keeps.step ?_ (endRun_keeps ..) ?_
  with_reducible refine Keeps.step ?_ (postRunState_keeps ..) ?_
  exact Keeps.refl _
  rfl
  rfl
  rfl
  rfl

theorem replaceNodes_keeps (s : State) (x1 : Nat) (x2 : Region) (x3 : Image) (x4 : List (Nat × Nat)) (x5 : List (Nat × Nat)) :
    Keeps [.tiles, .regions, .fns, .bsn, .recorder, .flt, .msis, .rf, .pwr] s (replaceNodes s x1 x2 x3 x4 x5) := by
  unfold replaceNodes
  dsimp only
  with_reducible refine Keeps.ite ?_ ?_
  with_reducible refine Keeps.step ?_ (stopRegion_keeps ..) ?_
  with_reducible refine Keeps.step ?_ (regionEvent_keeps ..) ?_
  with_reducible refine Keeps.foldl ?_ ?_
  with_reducible refine Keeps.step ?_ (updRf_keeps ..) ?_
  with_reducible refine Keeps.foldl ?_ ?_
  with_reducible refine Keeps.foldl ?_ ?_
  with_reducible refine Keeps.foldl ?_ ?_
  with_reducible refine Keeps.step ?_ (updRegion_keeps ..) ?_
  exact Keeps.refl _
  rfl
  intro y12
  intro y13
  with_reducible refine Keeps.step ?_ (updTile_keeps ..) ?_
  exact Keeps.refl _
  rfl
  intro y17
  intro y18
  with_reducible refine Keeps.step ?_ (fillShadow_keeps ..) ?_
  with_reducible refine Keeps.step ?_ (fillResident_keeps ..) ?_
  exact Keeps.refl _
  rfl
  rfl
  intro y24
  intro y25
  with_reducible refine Keeps.step ?_ (fixMaps_keeps ..) ?_
  exact Keeps.refl _
  rfl
  rfl
  intro y30
  intro y31
  with_reducible refine Keeps.step ?_ (basinUeEvent_keeps ..) ?_
  exact Keeps.refl _
  rfl
  rfl
  rfl
  with_reducible refine Keeps.ite ?_ ?_
  with_reducible refine Keeps.step ?_ (stopRegion_keeps ..) ?_
  with_reducible refine Keeps.foldl ?_ ?_
  with_reducible refine Keeps.step ?_ (updRf_keeps ..) ?_
  with_reducible refine Keeps.foldl ?_ ?_
  with_reducible refine Keeps.foldl ?_ ?_
  with_reducible refine Keeps.foldl ?_ ?_
  with_reducible refine Keeps.step ?_ (updRegion_keeps ..) ?_
  exact Keeps.refl _
  rfl
  intro y47
  intro y48
  with_reducible refine Keeps.step ?_ (updTile_keeps ..) ?_
  exact Keeps.refl _
  rfl
  intro y52
  intro y53
  with_reducible refine Keeps.step ?_ (fillShadow_keeps ..) ?_
  with_reducible refine Keeps.step ?_ (fillResident_keeps ..) ?_
  exact Keeps.refl _
  rfl
  rfl
  intro y59
  intro y60
  with_reducible refine Keeps.step ?_ (fixMaps_keeps ..) ?_
  exact Keeps.refl _
  rfl
  rfl
  intro y65
  intro y66
  with_reducible refine Keeps.step ?_ (basinUeEvent_keeps ..) ?_
  exact Keeps.refl _
  rfl
  rfl
  with_reducible refine Keeps.step ?_ (updRf_keeps ..) ?_
  with_reducible refine Keeps.foldl ?_ ?_
  with_reducible refine Keeps.foldl ?_ ?_
  with_reducible refine Keeps.foldl ?_ ?_
  with_reducible refine Keeps.step ?_ (updRegion_keeps ..) ?_
  exact Keeps.refl _
  rfl
  intro y78
  intro y79
  with_reducible refine Keeps.step ?_ (updTile_keeps ..) ?_
  exact Keeps.refl _
  rfl
  intro y83
  intro y84
  with_reducible refine Keeps.step ?_ (fillShadow_keeps ..) ?_
  with_reducible refine Keeps.step ?_ (fillResident_keeps ..) ?_
  exact Keeps.refl _
  rfl
  rfl
  intro y90
  intro y91
  with_reducible refine Keeps.step ?_ (fixMaps_keeps ..) ?_
  exact Keeps.refl _
  rfl
  rfl

theorem execRePlacement_keeps (x0 : Nat) (x1 : Nat) (s : State) :
    KeepsOut [.tiles, .regions, .fns, .bsn, .recorder, .flt, .msis, .rf, .pwr] s (execRePlacement x0 x1 s) := by
  unfold execRePlacement
  refine needUnit_keeps ?_
  with_reducible refine KeepsOut.step ?_ (onRegion_keeps (L := [.tiles, .regions, .fns, .bsn, .recorder, .flt, .msis, .rf, .pwr]) (rfl) _ _ _ ?_) (sub_refl _)
  exact Keeps.refl _
  intro y3
  with_reducible refine Keeps.step ?_ (runAct_keeps (L := [.tiles, .regions, .fns, .bsn, .recorder, .flt, .msis, .rf, .pwr]) (rfl) _ _ _ _ _ ?_) (sub_refl _)
  exact Keeps.refl _
  intro y6
  intro y7
  intro y8
  dsimp only
  split
  with_reducible refine Keeps.step ?_ (takeAct_keeps ..) ?_
  exact Keeps.refl _
  rfl
  split
  with_reducible refine Keeps.step ?_ (degradeRegion_keeps ..) ?_
  with_reducible refine Keeps.step ?_ (takeAct_keeps ..) ?_
  exact Keeps.refl _
  rfl
  rfl
  with_reducible refine Keeps.step ?_ (replaceNodes_keeps ..) ?_
  with_reducible refine Keeps.step ?_ (takeAct_keeps ..) ?_
  exact Keeps.refl _
  rfl
  rfl

theorem execRefillInPlace_keeps (x0 : Nat) (x1 : Nat) (s : State) :
    KeepsOut [.tiles, .regions, .fns, .bsn, .recorder, .flt, .msis, .pwr] s (execRefillInPlace x0 x1 s) := by
  unfold execRefillInPlace
  refine needUnit_keeps ?_
  with_reducible refine KeepsOut.step ?_ (onRegion_keeps (L := [.tiles, .regions, .fns, .bsn, .recorder, .flt, .msis, .pwr]) (rfl) _ _ _ ?_) (sub_refl _)
  exact Keeps.refl _
  intro y3
  with_reducible refine Keeps.step ?_ (runAct_keeps (L := [.tiles, .regions, .fns, .bsn, .recorder, .flt, .msis, .pwr]) (rfl) _ _ _ _ _ ?_) (sub_refl _)
  exact Keeps.refl _
  intro y6
  intro y7
  intro y8
  dsimp only
  with_reducible refine Keeps.ite ?_ ?_
  with_reducible refine Keeps.step ?_ (rebuildTile_keeps ..) ?_
  with_reducible refine Keeps.step ?_ (takeAct_keeps ..) ?_
  exact Keeps.refl _
  rfl
  rfl
  with_reducible refine Keeps.step ?_ (takeAct_keeps ..) ?_
  exact Keeps.refl _
  rfl

end Sys2Proof.Machine
end

