-- ==== Sys2Proof/Laws/RecorderRows.lean ====
section
/-! SUPPORT. What the operations of Machine/RecorderRows.lean may change: for each, the parts of the state. -/

namespace Sys2Proof.Machine

theorem storeCounted_keeps (s : State) (x1 : Occurrence) (x2 : EvRec → EvRec) :
    Keeps [.fns, .recorder, .flt, .msis] s (storeCounted s x1 x2) := by
  unfold storeCounted
  split
  exact Keeps.refl _
  dsimp only
  with_reducible refine Keeps.ite ?_ ?_
  with_reducible refine Keeps.set_recorder (rfl) ?_
  exact Keeps.refl _
  with_reducible refine Keeps.step ?_ (storeRecord_keeps ..) ?_
  with_reducible refine Keeps.set_recorder (rfl) ?_
  exact Keeps.refl _
  rfl

theorem postExtremes_keeps (s : State) :
    Keeps [.fns, .recorder, .flt, .msis] s (postExtremes s) := by
  unfold postExtremes
  dsimp only
  with_reducible refine Keeps.set_recorder (rfl) ?_
  with_reducible refine Keeps.foldl ?_ ?_
  exact Keeps.refl _
  intro y4
  intro y5
  with_reducible refine Keeps.step ?_ (storeCounted_keeps ..) ?_
  exact Keeps.refl _
  rfl

theorem flushRecords_keeps (s : State) :
    Keeps [.fns, .recorder, .flt, .msis] s (flushRecords s) := by
  unfold flushRecords
  dsimp only
  with_reducible refine Keeps.set_recorder (rfl) ?_
  with_reducible refine Keeps.step ?_ (postExtremes_keeps ..) ?_
  exact Keeps.refl _
  rfl

theorem execEventPost_keeps (x0 : Occurrence) (s : State) :
    KeepsOut [.fns, .recorder, .flt, .msis] s (execEventPost x0 s) := by
  unfold execEventPost
  refine KeepsOut.next ?_
  with_reducible refine Keeps.step ?_ (postEvent_keeps ..) ?_
  exact Keeps.refl _
  rfl

theorem execFloodWindowEnd_keeps (s : State) :
    KeepsOut [.fns, .recorder, .flt, .msis] s (execFloodWindowEnd s) := by
  unfold execFloodWindowEnd
  dsimp only
  refine KeepsOut.next ?_
  with_reducible refine Keeps.set_recorder (rfl) ?_
  with_reducible refine Keeps.foldl ?_ ?_
  exact Keeps.refl _
  intro y5
  intro y6
  refine Keeps.elim ?_ fun y7 => ?_
  exact Keeps.refl _
  with_reducible refine Keeps.step ?_ (storeRecord_keeps ..) ?_
  exact Keeps.refl _
  rfl

theorem execExtremeTick_keeps (s : State) :
    KeepsOut [.fns, .recorder, .flt, .msis] s (execExtremeTick s) := by
  unfold execExtremeTick
  refine whenB_keeps2 ?_ ?_
  exact Keeps.refl _
  dsimp only
  with_reducible refine Keeps.set_recorder (rfl) ?_
  with_reducible refine Keeps.step ?_ (postExtremes_keeps ..) ?_
  exact Keeps.refl _
  rfl

theorem execLogTrickle_keeps (s : State) :
    KeepsOut [.recorder] s (execLogTrickle s) := by
  unfold execLogTrickle
  refine KeepsOut.next ?_
  with_reducible refine Keeps.set_recorder (rfl) ?_
  exact Keeps.refl _

theorem execAlarmDroppedReport_keeps (x0 : Nat) (s : State) :
    KeepsOut [.fns, .recorder, .flt, .msis] s (execAlarmDroppedReport x0 s) := by
  unfold execAlarmDroppedReport
  refine needUnit_keeps ?_
  dsimp only
  refine whenB_keeps2 ?_ ?_
  exact Keeps.refl _
  with_reducible refine Keeps.step ?_ (storeRecord_keeps ..) ?_
  with_reducible refine Keeps.step ?_ (setFn_keeps ..) ?_
  exact Keeps.refl _
  rfl
  rfl

end Sys2Proof.Machine
end

