-- ==== Sys2Proof/Laws/Resets.lean ====
section
/-! SUPPORT. What the operations of Machine/Resets.lean may change: for each, the parts of the state. -/

namespace Sys2Proof.Machine

theorem resetBegin_keeps (s : State) (x1 : Nat) (x2 : Region) (x3 : InstReset) :
    Keeps [.free, .tiles, .regions, .fns, .scans, .bundles, .bundleSeq, .recorder, .flt, .outbox, .msis, .rf, .pwr] s (resetBegin s x1 x2 x3) := by
  unfold resetBegin
  dsimp only
  with_reducible refine Keeps.step ?_ (updRf_keeps ..) ?_
  with_reducible refine Keeps.step ?_ (captureTiles_keeps ..) ?_
  with_reducible refine Keeps.step ?_ (openCapture_keeps ..) ?_
  with_reducible refine Keeps.ite ?_ ?_
  with_reducible refine Keeps.step ?_ (postRunState_keeps ..) ?_
  with_reducible refine Keeps.step ?_ (endRun_keeps ..) ?_
  exact Keeps.refl _
  rfl
  rfl
  with_reducible refine Keeps.ite ?_ ?_
  with_reducible refine Keeps.step ?_ (updRegion_keeps ..) ?_
  with_reducible refine Keeps.step ?_ (postRunState_keeps ..) ?_
  with_reducible refine Keeps.step ?_ (endRun_keeps ..) ?_
  exact Keeps.refl _
  rfl
  rfl
  rfl
  with_reducible refine Keeps.step ?_ (send_keeps ..) ?_
  with_reducible refine Keeps.step ?_ (updRegion_keeps ..) ?_
  with_reducible refine Keeps.step ?_ (postRunState_keeps ..) ?_
  with_reducible refine Keeps.step ?_ (endRun_keeps ..) ?_
  exact Keeps.refl _
  rfl
  rfl
  rfl
  rfl
  rfl
  rfl
  rfl

theorem captureGiveUp_keeps (s : State) (x1 : Nat) (x2 : Nat) :
    Keeps [.fns, .bundles, .recorder, .flt, .msis] s (captureGiveUp s x1 x2) := by
  unfold captureGiveUp
  with_reducible refine Keeps.step ?_ (regionEvent_keeps ..) ?_
  with_reducible refine Keeps.set_bundles (rfl) ?_
  exact Keeps.refl _
  rfl

theorem resetRenew_keeps (s : State) (x1 : Nat) (x2 : Region) (x3 : InstReset) (x4 : Bool) :
    Keeps [.tiles, .regions, .fns, .scans, .bundles, .silt, .recorder, .flt, .outbox, .msis, .rf] s (resetRenew s x1 x2 x3 x4) := by
  unfold resetRenew
  dsimp only
  with_reducible refine Keeps.step ?_ (updRf_keeps ..) ?_
  with_reducible refine Keeps.foldl ?_ ?_
  with_reducible refine Keeps.step ?_ (updTiles_keeps ..) ?_
  with_reducible refine Keeps.ite ?_ ?_
  with_reducible refine Keeps.step ?_ (commitCapture_keeps ..) ?_
  exact Keeps.refl _
  rfl
  with_reducible refine Keeps.step ?_ (captureGiveUp_keeps ..) ?_
  exact Keeps.refl _
  rfl
  rfl
  intro y12
  intro y13
  with_reducible refine Keeps.step ?_ (failTxn_keeps ..) ?_
  exact Keeps.refl _
  rfl
  rfl

theorem resetFinish_keeps (s : State) (x1 : Nat) (x2 : Region) (x3 : InstReset) (x4 : Nat) :
    Keeps [.tiles, .routers, .engines, .regions, .fns, .basin, .poison, .bsn, .scans, .recorder, .flt, .idn, .outbox, .msis, .rep, .flc, .rf, .pwr] s (resetFinish s x1 x2 x3 x4) := by
  unfold resetFinish
  dsimp only
  with_reducible refine Keeps.foldl ?_ ?_
  with_reducible refine Keeps.step ?_ (updRf_keeps ..) ?_
  with_reducible refine Keeps.step ?_ (updRegion_keeps ..) ?_
  with_reducible refine Keeps.ite ?_ ?_
  exact Keeps.refl _
  with_reducible refine Keeps.step ?_ (settleCharges_keeps ..) ?_
  with_reducible refine Keeps.step ?_ (stepDiscard_keeps ..) ?_
  exact Keeps.refl _
  rfl
  rfl
  rfl
  rfl
  intro y13
  intro y14
  with_reducible refine Keeps.step ?_ (finishReq_keeps ..) ?_
  exact Keeps.refl _
  rfl

theorem execInstanceResetStart_keeps (x0 : Nat) (s : State) :
    KeepsOut [.free, .tiles, .regions, .fns, .scans, .bundles, .bundleSeq, .recorder, .flt, .outbox, .msis, .rf, .pwr] s (execInstanceResetStart x0 s) := by
  unfold execInstanceResetStart
  with_reducible refine KeepsOut.step ?_ (onRegion_keeps (L := [.free, .tiles, .regions, .fns, .scans, .bundles, .bundleSeq, .recorder, .flt, .outbox, .msis, .rf, .pwr]) (rfl) _ _ _ ?_) (sub_refl _)
  exact Keeps.refl _
  intro y2
  split
  with_reducible refine Keeps.ite ?_ ?_
  with_reducible refine Keeps.step ?_ (resetBegin_keeps ..) ?_
  exact Keeps.refl _
  rfl
  exact Keeps.refl _
  exact Keeps.refl _

theorem resetUpTo5_keeps (s : State) (x1 : Nat) (x2 : Region) :
    Keeps [.tiles, .regions, .fns, .scans, .bundles, .silt, .recorder, .flt, .outbox, .msis, .rf] s (resetUpTo5 s x1 x2) := by
  unfold resetUpTo5
  split
  with_reducible refine Keeps.ite ?_ ?_
  with_reducible refine Keeps.step ?_ (resetRenew_keeps ..) ?_
  exact Keeps.refl _
  rfl
  exact Keeps.refl _
  exact Keeps.refl _

theorem execDrainCounterZero_keeps (x0 : Nat) (s : State) :
    KeepsOut [.tiles, .routers, .engines, .regions, .fns, .basin, .poison, .bsn, .scans, .bundles, .silt, .recorder, .flt, .idn, .outbox, .msis, .rep, .flc, .rf, .pwr] s (execDrainCounterZero x0 s) := by
  unfold execDrainCounterZero
  with_reducible refine KeepsOut.step ?_ (onRegion_keeps (L := [.tiles, .routers, .engines, .regions, .fns, .basin, .poison, .bsn, .scans, .bundles, .silt, .recorder, .flt, .idn, .outbox, .msis, .rep, .flc, .rf, .pwr]) (rfl) _ _ _ ?_) (sub_refl _)
  exact Keeps.refl _
  intro y2
  dsimp only
  split
  with_reducible refine Keeps.ite ?_ ?_
  with_reducible refine Keeps.step ?_ (resetFinish_keeps ..) ?_
  with_reducible refine Keeps.step ?_ (resetUpTo5_keeps ..) ?_
  exact Keeps.refl _
  rfl
  rfl
  with_reducible refine Keeps.step ?_ (resetUpTo5_keeps ..) ?_
  exact Keeps.refl _
  rfl
  exact Keeps.refl _

theorem execCaptureAbandon_keeps (x0 : Nat) (s : State) :
    KeepsOut [.tiles, .regions, .fns, .scans, .bundles, .silt, .recorder, .flt, .outbox, .msis, .rf] s (execCaptureAbandon x0 s) := by
  unfold execCaptureAbandon
  with_reducible refine KeepsOut.step ?_ (onRegion_keeps (L := [.tiles, .regions, .fns, .scans, .bundles, .silt, .recorder, .flt, .outbox, .msis, .rf]) (rfl) _ _ _ ?_) (sub_refl _)
  exact Keeps.refl _
  intro y2
  split
  with_reducible refine Keeps.ite ?_ ?_
  with_reducible refine Keeps.step ?_ (resetRenew_keeps ..) ?_
  exact Keeps.refl _
  rfl
  exact Keeps.refl _
  exact Keeps.refl _

theorem instanceNow_keeps (s : State) (x1 : Nat) (x2 : Nat) :
    Keeps [.free, .tiles, .routers, .engines, .regions, .fns, .basin, .poison, .bsn, .scans, .bundles, .bundleSeq, .silt, .recorder, .flt, .idn, .outbox, .msis, .rep, .flc, .rf, .pwr] s (instanceNow s x1 x2) := by
  unfold instanceNow
  with_reducible refine Keeps.step ?_ (withRegion_keeps (L := [.free, .tiles, .routers, .engines, .regions, .fns, .basin, .poison, .bsn, .scans, .bundles, .bundleSeq, .silt, .recorder, .flt, .idn, .outbox, .msis, .rep, .flc, .rf, .pwr]) (rfl) _ _ _ ?_) (sub_refl _)
  exact Keeps.refl _
  intro y2
  dsimp only
  split
  with_reducible refine Keeps.step ?_ (resetFinish_keeps ..) ?_
  with_reducible refine Keeps.step ?_ (resetUpTo5_keeps ..) ?_
  with_reducible refine Keeps.ite ?_ ?_
  with_reducible refine Keeps.step ?_ (resetBegin_keeps ..) ?_
  exact Keeps.refl _
  rfl
  exact Keeps.refl _
  rfl
  rfl
  with_reducible refine Keeps.step ?_ (resetUpTo5_keeps ..) ?_
  with_reducible refine Keeps.ite ?_ ?_
  with_reducible refine Keeps.step ?_ (resetBegin_keeps ..) ?_
  exact Keeps.refl _
  rfl
  exact Keeps.refl _
  rfl

theorem tileRouterReset_keeps (s : State) (x1 : Nat) :
    Keeps [.tiles, .routers] s (tileRouterReset s x1) := by
  unfold tileRouterReset
  dsimp only
  with_reducible refine Keeps.step ?_ (setTilePos_keeps ..) ?_
  with_reducible refine Keeps.step ?_ (resetRouter_keeps ..) ?_
  exact Keeps.refl _
  rfl
  rfl

theorem execTileRouterReset_keeps (x0 : Nat) (s : State) :
    KeepsOut [.tiles, .routers] s (execTileRouterReset x0 s) := by
  unfold execTileRouterReset
  refine needUnit_keeps ?_
  refine KeepsOut.next ?_
  with_reducible refine Keeps.step ?_ (tileRouterReset_keeps ..) ?_
  exact Keeps.refl _
  rfl

theorem resetPosition_keeps (s : State) (x1 : Nat) :
    Keeps [.tiles, .routers, .regions] s (resetPosition s x1) := by
  unfold resetPosition
  dsimp only
  with_reducible refine Keeps.step ?_ (tileRouterReset_keeps ..) ?_
  with_reducible refine Keeps.ite ?_ ?_
  with_reducible refine Keeps.step ?_ (setTilePos_keeps ..) ?_
  exact Keeps.refl _
  rfl
  with_reducible refine Keeps.step ?_ (resetTileCore_keeps ..) ?_
  exact Keeps.refl _
  rfl
  rfl

theorem dieReset_keeps (s : State) (x1 : Nat) (x2 : Nat) :
    Keeps [.free, .tiles, .routers, .engines, .regions, .fns, .basin, .poison, .bsn, .scans, .bundles, .bundleSeq, .silt, .recorder, .flt, .idn, .outbox, .msis, .rep, .flc, .rf, .fab, .pwr] s (dieReset s x1 x2) := by
  unfold dieReset
  dsimp only
  with_reducible refine Keeps.step ?_ (setFootprints_keeps ..) ?_
  with_reducible refine Keeps.step ?_ (updBsn_keeps ..) ?_
  with_reducible refine Keeps.foldl ?_ ?_
  with_reducible refine Keeps.step ?_ (updEngine_keeps ..) ?_
  with_reducible refine Keeps.foldl ?_ ?_
  with_reducible refine Keeps.foldl ?_ ?_
  exact Keeps.refl _
  intro y8
  intro y9
  with_reducible refine Keeps.step ?_ (instanceNow_keeps ..) ?_
  exact Keeps.refl _
  rfl
  intro y13
  intro y14
  with_reducible refine Keeps.step ?_ (resetPosition_keeps ..) ?_
  exact Keeps.refl _
  rfl
  rfl
  intro y19
  intro y20
  with_reducible refine Keeps.step ?_ (resetPort_keeps ..) ?_
  with_reducible refine Keeps.step ?_ (updPort_keeps ..) ?_
  exact Keeps.refl _
  rfl
  rfl
  rfl
  rfl

theorem execDieReset_keeps (x0 : Nat) (s : State) :
    KeepsOut [.free, .tiles, .routers, .engines, .regions, .fns, .basin, .poison, .bsn, .scans, .bundles, .bundleSeq, .silt, .recorder, .flt, .idn, .outbox, .msis, .rep, .flc, .rf, .fab, .pwr] s (execDieReset x0 s) := by
  unfold execDieReset
  refine needUnit_keeps ?_
  refine KeepsOut.next ?_
  with_reducible refine Keeps.step ?_ (dieReset_keeps ..) ?_
  exact Keeps.refl _
  rfl

theorem execDrainEscalation_keeps (x0 : Nat) (s : State) :
    KeepsOut [.free, .tiles, .routers, .engines, .regions, .fns, .basin, .poison, .bsn, .scans, .bundles, .bundleSeq, .silt, .recorder, .flt, .idn, .outbox, .msis, .rep, .flc, .rf, .fab, .pwr] s (execDrainEscalation x0 s) := by
  unfold execDrainEscalation
  with_reducible refine KeepsOut.step ?_ (onRegion_keeps (L := [.free, .tiles, .routers, .engines, .regions, .fns, .basin, .poison, .bsn, .scans, .bundles, .bundleSeq, .silt, .recorder, .flt, .idn, .outbox, .msis, .rep, .flc, .rf, .fab, .pwr]) (rfl) _ _ _ ?_) (sub_refl _)
  exact Keeps.refl _
  intro y2
  split
  with_reducible refine Keeps.ite ?_ ?_
  dsimp only
  with_reducible refine Keeps.foldl ?_ ?_
  with_reducible refine Keeps.step ?_ (resetFinish_keeps ..) ?_
  exact Keeps.refl _
  rfl
  intro y10
  intro y11
  with_reducible refine Keeps.step ?_ (dieReset_keeps ..) ?_
  exact Keeps.refl _
  rfl
  exact Keeps.refl _
  exact Keeps.refl _

theorem putSel_keeps (s : State) (x1 : Nat) (x2 : SelRec) :
    Keeps [.sec] s (putSel s x1 x2) := by
  unfold putSel
  with_reducible refine Keeps.ite ?_ ?_
  with_reducible refine Keeps.set_sec (rfl) ?_ ?_ ?_
  with_reducible exact fun h => ⟨h.1, h.2, h.3, h.4, h.5, h.6, h.7, h.8, h.9, h.10⟩
  exact ⟨Nat.le_refl _, Nat.le_refl _, rfl, rfl, rfl, rfl, rfl⟩
  exact Keeps.refl _
  with_reducible refine Keeps.set_sec (rfl) ?_ ?_ ?_
  with_reducible exact fun h => ⟨h.1, h.2, h.3, h.4, h.5, h.6, h.7, h.8, h.9, h.10⟩
  exact ⟨Nat.le_refl _, Nat.le_refl _, rfl, rfl, rfl, rfl, rfl⟩
  exact Keeps.refl _

theorem newSel_keeps (s : State) (x1 : Nat) (x2 : Nat) (x3 : Bool) :
    Keeps [.sec] s (newSel s x1 x2 x3) := by
  unfold newSel
  split
  with_reducible refine Keeps.step ?_ (putSel_keeps ..) ?_
  exact Keeps.refl _
  rfl
  with_reducible refine Keeps.step ?_ (putSel_keeps ..) ?_
  exact Keeps.refl _
  rfl

theorem setBootError_keeps (s : State) (x1 : Nat) :
    Keeps [.flt] s (setBootError s x1) := by
  unfold setBootError
  with_reducible refine Keeps.set_flt (rfl) ?_ ?_ ?_
  with_reducible exact fun h => ⟨h.1, h.2, h.3, h.4, h.5, h.6, h.7, h.8, h.9, h.10⟩
  exact ⟨Nat.le_refl _, Nat.le_refl _, rfl, rfl, rfl, rfl, rfl⟩
  exact Keeps.refl _

theorem haltStart_keeps (s : State) (x1 : Nat) :
    Keeps [.fns, .recorder, .flt, .msis] s (haltStart s x1) := by
  unfold haltStart
  dsimp only
  with_reducible refine Keeps.step ?_ (devEvent_keeps ..) ?_
  with_reducible refine Keeps.set_flt (rfl) ?_ ?_ ?_
  refine fun h => ⟨?_, ?_, ?_, ?_, ?_, ?_, ?_, ?_, ?_, ?_⟩
  with_reducible exact h.1
  with_reducible exact h.2
  with_reducible exact h.3
  with_reducible exact h.4
  with_reducible exact h.5
  exact Nat.le_of_ble_eq_true rfl
  with_reducible exact h.7
  with_reducible exact h.8
  with_reducible exact h.9
  with_reducible exact h.10
  exact ⟨Nat.le_refl _, Nat.le_refl _, rfl, rfl, rfl, rfl, rfl⟩
  exact Keeps.refl _
  rfl

theorem runSlot_keeps (s : State) (x1 : Nat) :
    Keeps [.flt, .idn, .sec] s (runSlot s x1) := by
  unfold runSlot
  with_reducible refine Keeps.set_flt_idn_sec (rfl) ?_ ?_ ?_
  refine fun h => ⟨?_, ?_, ?_, ?_, ?_, ?_, ?_, ?_, ?_, ?_⟩
  with_reducible exact h.1
  with_reducible exact h.2
  with_reducible exact h.3
  with_reducible exact h.4
  with_reducible exact h.5
  exact Nat.le_of_ble_eq_true rfl
  with_reducible exact h.7
  with_reducible exact h.8
  with_reducible exact h.9
  with_reducible exact h.10
  exact ⟨Nat.le_refl _, Nat.le_refl _, rfl, rfl, rfl, rfl, rfl⟩
  exact Keeps.refl _

theorem bootSelect_keeps (s : State) :
    Keeps [.fns, .recorder, .flt, .idn, .msis, .sec] s (bootSelect s) := by
  unfold bootSelect
  dsimp only
  with_reducible refine Keeps.ite ?_ ?_
  with_reducible refine Keeps.step ?_ (runSlot_keeps ..) ?_
  with_reducible refine Keeps.ite ?_ ?_
  with_reducible refine Keeps.step ?_ (setBootError_keeps ..) ?_
  with_reducible refine Keeps.ite ?_ ?_
  with_reducible refine Keeps.step ?_ (newSel_keeps ..) ?_
  exact Keeps.refl _
  rfl
  exact Keeps.refl _
  rfl
  with_reducible refine Keeps.ite ?_ ?_
  with_reducible refine Keeps.step ?_ (newSel_keeps ..) ?_
  exact Keeps.refl _
  rfl
  exact Keeps.refl _
  rfl
  with_reducible refine Keeps.ite ?_ ?_
  with_reducible refine Keeps.step ?_ (runSlot_keeps ..) ?_
  with_reducible refine Keeps.step ?_ (setBootError_keeps ..) ?_
  with_reducible refine Keeps.ite ?_ ?_
  with_reducible refine Keeps.step ?_ (setBootError_keeps ..) ?_
  with_reducible refine Keeps.ite ?_ ?_
  with_reducible refine Keeps.step ?_ (newSel_keeps ..) ?_
  exact Keeps.refl _
  rfl
  exact Keeps.refl _
  rfl
  with_reducible refine Keeps.ite ?_ ?_
  with_reducible refine Keeps.step ?_ (newSel_keeps ..) ?_
  exact Keeps.refl _
  rfl
  exact Keeps.refl _
  rfl
  rfl
  with_reducible refine Keeps.step ?_ (haltStart_keeps ..) ?_
  with_reducible refine Keeps.ite ?_ ?_
  with_reducible refine Keeps.step ?_ (newSel_keeps ..) ?_
  exact Keeps.refl _
  rfl
  exact Keeps.refl _
  rfl

theorem bootRom_keeps (s : State) :
    Keeps [.fns, .recorder, .flt, .idn, .msis, .sec] s (bootRom s) := by
  unfold bootRom
  dsimp only
  with_reducible refine Keeps.ite ?_ ?_
  with_reducible refine Keeps.set_flt (rfl) ?_ ?_ ?_
  refine fun h => ⟨?_, ?_, ?_, ?_, ?_, ?_, ?_, ?_, ?_, ?_⟩
  with_reducible exact h.1
  with_reducible exact h.2
  with_reducible exact h.3
  with_reducible exact h.4
  with_reducible exact h.5
  exact Nat.le_of_ble_eq_true rfl
  with_reducible exact h.7
  with_reducible exact h.8
  with_reducible exact h.9
  with_reducible exact h.10
  exact ⟨Nat.le_refl _, Nat.le_refl _, rfl, rfl, rfl, rfl, rfl⟩
  exact Keeps.refl _
  with_reducible refine Keeps.ite ?_ ?_
  with_reducible refine Keeps.step ?_ (bootSelect_keeps ..) ?_
  with_reducible refine Keeps.set_flt (rfl) ?_ ?_ ?_
  refine fun h => ⟨?_, ?_, ?_, ?_, ?_, ?_, ?_, ?_, ?_, ?_⟩
  with_reducible exact h.1
  with_reducible exact h.2
  with_reducible exact h.3
  with_reducible exact h.4
  with_reducible exact h.5
  exact Nat.le_of_ble_eq_true rfl
  with_reducible exact h.7
  with_reducible exact h.8
  with_reducible exact h.9
  with_reducible exact h.10
  exact ⟨Nat.le_refl _, Nat.le_refl _, rfl, rfl, rfl, rfl, rfl⟩
  exact Keeps.refl _
  rfl
  with_reducible refine Keeps.ite ?_ ?_
  with_reducible refine Keeps.step ?_ (setBootError_keeps ..) ?_
  with_reducible refine Keeps.set_flt (rfl) ?_ ?_ ?_
  refine fun h => ⟨?_, ?_, ?_, ?_, ?_, ?_, ?_, ?_, ?_, ?_⟩
  with_reducible exact h.1
  with_reducible exact h.2
  with_reducible exact h.3
  with_reducible exact h.4
  with_reducible exact h.5
  exact Nat.le_of_ble_eq_true rfl
  with_reducible exact h.7
  with_reducible exact h.8
  with_reducible exact h.9
  with_reducible exact h.10
  exact ⟨Nat.le_refl _, Nat.le_refl _, rfl, rfl, rfl, rfl, rfl⟩
  exact Keeps.refl _
  rfl
  with_reducible refine Keeps.step ?_ (bootSelect_keeps ..) ?_
  with_reducible refine Keeps.step ?_ (storeRecord_keeps ..) ?_
  with_reducible refine Keeps.set_flt (rfl) ?_ ?_ ?_
  refine fun h => ⟨?_, ?_, ?_, ?_, ?_, ?_, ?_, ?_, ?_, ?_⟩
  with_reducible exact h.1
  with_reducible exact h.2
  with_reducible exact h.3
  with_reducible exact h.4
  with_reducible exact h.5
  exact Nat.le_of_ble_eq_true rfl
  with_reducible exact h.7
  with_reducible exact h.8
  with_reducible exact h.9
  with_reducible exact h.10
  exact ⟨Nat.le_refl _, Nat.le_refl _, rfl, rfl, rfl, rfl, rfl⟩
  exact Keeps.refl _
  rfl
  rfl

theorem basinAfterReset_keeps (x0 : Bool) (s : State) :
    Keeps [.basin, .poison, .scans, .bundles, .bundleSeq] s (basinAfterReset x0 s) := by
  unfold basinAfterReset
  with_reducible refine Keeps.ite ?_ ?_
  with_reducible refine Keeps.set_basin_poison_scans_bundles (rfl) ?_ ?_ ?_
  refine fun h => ⟨?_, ?_, ?_, ?_, ?_, ?_, ?_, ?_, ?_, ?_⟩
  exact filter_wf _ _ h.1
  with_reducible exact h.2
  with_reducible exact h.3
  with_reducible exact h.4
  with_reducible exact h.5
  with_reducible exact h.6
  with_reducible exact h.7
  with_reducible exact h.8
  with_reducible exact h.9
  with_reducible exact h.10
  exact ⟨Nat.le_refl _, Nat.le_refl _, rfl, rfl, rfl, rfl, rfl⟩
  exact Keeps.refl _
  with_reducible refine Keeps.set_basin_poison_scans_bundles_bundleSeq (rfl) ?_ ?_ ?_
  refine fun h => ⟨?_, ?_, ?_, ?_, ?_, ?_, ?_, ?_, ?_, ?_⟩
  rfl
  with_reducible exact h.2
  with_reducible exact h.3
  with_reducible exact h.4
  with_reducible exact h.5
  with_reducible exact h.6
  with_reducible exact h.7
  with_reducible exact h.8
  with_reducible exact h.9
  with_reducible exact h.10
  exact ⟨Nat.le_refl _, Nat.le_refl _, rfl, rfl, rfl, rfl, rfl⟩
  exact Keeps.refl _

theorem clearDevice_keeps (s : State) (x1 : Bool) :
    Keeps [.tiles, .routers, .engines, .ltMap, .absent, .regions, .fns, .ctxs, .pageList, .basin, .poison, .bsn, .scans, .bundles, .bundleSeq, .silt, .recorder, .activeEpoch, .v0, .v1, .quiet, .idn, .orderNo, .rep, .rf, .fab, .pwr, .sec] s (clearDevice s x1) := by
  unfold clearDevice
  dsimp only
  with_reducible refine Keeps.set_tiles_routers_engines_ltMap_absent_regions_fns_ctxs_pageList_bsn_silt_recorder_activeEpoch_v0_v1_quiet_idn_orderNo_rep_rf_fab_pwr_sec (rfl) ?_ ?_ ?_
  refine fun h => ⟨?_, ?_, ?_, ?_, ?_, ?_, ?_, ?_, ?_, ?_⟩
  with_reducible exact h.1
  with_reducible exact h.2
  with_reducible exact h.3
  with_reducible exact h.4
  exact Nat.le_of_ble_eq_true rfl
  with_reducible exact h.6
  with_reducible exact h.7
  with_reducible exact h.8
  with_reducible exact h.9
  with_reducible exact h.10
  exact ⟨Nat.le_refl _, Nat.le_refl _, rfl, rfl, rfl, rfl, rfl⟩
  with_reducible refine Keeps.step ?_ (basinAfterReset_keeps ..) ?_
  exact Keeps.refl _
  rfl

theorem resetDevice_keeps (s : State) (x1 : ResetCause) :
    Keeps [.tiles, .routers, .engines, .ltMap, .absent, .regions, .fns, .ctxs, .pageList, .basin, .poison, .bsn, .scans, .bundles, .bundleSeq, .silt, .recorder, .activeEpoch, .v0, .v1, .quiet, .flt, .idn, .msis, .orderNo, .rep, .rf, .fab, .pwr, .sec] s (resetDevice s x1) := by
  unfold resetDevice
  dsimp only
  with_reducible refine Keeps.step ?_ (bootRom_keeps ..) ?_
  with_reducible refine Keeps.set_flt (rfl) ?_ ?_ ?_
  with_reducible exact fun h => ⟨h.1, h.2, h.3, h.4, h.5, h.6, h.7, h.8, h.9, h.10⟩
  exact ⟨Nat.le_refl _, Nat.le_refl _, rfl, rfl, rfl, rfl, rfl⟩
  with_reducible refine Keeps.step ?_ (clearDevice_keeps ..) ?_
  with_reducible refine Keeps.step ?_ (flushRecords_keeps ..) ?_
  exact Keeps.refl _
  rfl
  rfl
  rfl

theorem pinReset_keeps (s : State) (x1 : ResetCause) :
    Keeps [.tiles, .routers, .engines, .ltMap, .absent, .regions, .fns, .ctxs, .pageList, .basin, .poison, .bsn, .scans, .bundles, .bundleSeq, .silt, .recorder, .activeEpoch, .v0, .v1, .quiet, .flt, .idn, .msis, .orderNo, .rep, .rf, .fab, .pwr, .sec] s (pinReset s x1) := by
  unfold pinReset
  dsimp only
  with_reducible refine Keeps.set_fns_flt_idn (rfl) ?_ ?_ ?_
  refine fun h => ⟨?_, ?_, ?_, ?_, ?_, ?_, ?_, ?_, ?_, ?_⟩
  with_reducible exact h.1
  exact Nat.le_of_ble_eq_true rfl
  with_reducible exact h.3
  with_reducible exact h.4
  exact Nat.le_of_ble_eq_true rfl
  exact Nat.le_of_ble_eq_true rfl
  with_reducible exact h.7
  with_reducible exact h.8
  with_reducible exact h.9
  with_reducible exact h.10
  exact ⟨Nat.le_refl _, Nat.le_refl _, rfl, rfl, rfl, rfl, rfl⟩
  with_reducible refine Keeps.step ?_ (clearDevice_keeps ..) ?_
  with_reducible refine Keeps.step ?_ (flushRecords_keeps ..) ?_
  exact Keeps.refl _
  rfl
  rfl

theorem captureAndReset_keeps (s : State) (x1 : ResetCause) :
    Keeps [.free, .tiles, .routers, .engines, .ltMap, .absent, .regions, .fns, .ctxs, .pageList, .basin, .poison, .bsn, .scans, .bundles, .bundleSeq, .silt, .recorder, .activeEpoch, .v0, .v1, .quiet, .flt, .idn, .msis, .orderNo, .rep, .rf, .fab, .pwr, .sec] s (captureAndReset s x1) := by
  unfold captureAndReset
  dsimp only
  with_reducible refine Keeps.step ?_ (resetDevice_keeps ..) ?_
  with_reducible refine Keeps.ite ?_ ?_
  with_reducible refine Keeps.foldl ?_ ?_
  exact Keeps.refl _
  intro y5
  intro y6
  with_reducible refine Keeps.step ?_ (captureRegion_keeps ..) ?_
  exact Keeps.refl _
  rfl
  exact Keeps.refl _
  rfl

theorem execDeviceResetEffect_keeps (x0 : ResetCause) (s : State) :
    KeepsOut [.free, .tiles, .routers, .engines, .ltMap, .absent, .regions, .fns, .ctxs, .pageList, .basin, .poison, .bsn, .scans, .bundles, .bundleSeq, .silt, .recorder, .activeEpoch, .v0, .v1, .quiet, .flt, .idn, .msis, .orderNo, .rep, .rf, .fab, .pwr, .sec] s (execDeviceResetEffect x0 s) := by
  unfold execDeviceResetEffect
  split
  split
  split
  dsimp only
  refine whenB_keeps2 ?_ ?_
  exact Keeps.refl _
  with_reducible refine Keeps.ite ?_ ?_
  with_reducible refine Keeps.step ?_ (bootRom_keeps ..) ?_
  with_reducible refine Keeps.step ?_ (pinReset_keeps ..) ?_
  exact Keeps.refl _
  rfl
  rfl
  with_reducible refine Keeps.step ?_ (pinReset_keeps ..) ?_
  exact Keeps.refl _
  rfl
  refine KeepsOut.next ?_
  with_reducible refine Keeps.step ?_ (captureAndReset_keeps ..) ?_
  exact Keeps.refl _
  rfl
  refine KeepsOut.next ?_
  with_reducible refine Keeps.step ?_ (captureAndReset_keeps ..) ?_
  exact Keeps.refl _
  rfl
  refine KeepsOut.next ?_
  with_reducible refine Keeps.step ?_ (resetDevice_keeps ..) ?_
  exact Keeps.refl _
  rfl
  refine KeepsOut.next ?_
  exact Keeps.refl _
  refine KeepsOut.next ?_
  exact Keeps.refl _

end Sys2Proof.Machine
end

