-- ==== Sys2Proof/Laws/Scrub.lean ====
section
/-! SUPPORT. What the operations of Machine/Scrub.lean may change: for each, the parts of the state. -/

namespace Sys2Proof.Machine

theorem correctable_keeps (s : State) (x1 : Nat) (x2 : Reader) (x3 : Nat) (x4 : Nat) :
    Keeps [.tiles, .routers, .engines, .regions, .fns, .recorder, .flt, .idn, .outbox, .msis, .rep, .flc, .rf, .pwr] s (correctable s x1 x2 x3 x4) := by
  unfold correctable
  dsimp only
  with_reducible refine Keeps.foldl ?_ ?_
  with_reducible refine Keeps.step ?_ (setTile_keeps ..) ?_
  exact Keeps.refl _
  rfl
  intro y5
  intro y6
  with_reducible refine Keeps.ite ?_ ?_
  with_reducible refine Keeps.step ?_ (charge_keeps ..) ?_
  with_reducible refine Keeps.step ?_ (tileEvent_keeps ..) ?_
  exact Keeps.refl _
  rfl
  rfl
  with_reducible refine Keeps.step ?_ (tileEvent_keeps ..) ?_
  exact Keeps.refl _
  rfl

theorem uncorrectable_keeps (s : State) (x1 : Nat) (x2 : Reader) (x3 : Nat) :
    Keeps [.tiles, .routers, .engines, .ltMap, .absent, .regions, .fns, .ctxs, .pageList, .basin, .poison, .bsn, .scans, .bundles, .bundleSeq, .silt, .recorder, .activeEpoch, .v0, .v1, .quiet, .flt, .idn, .outbox, .msis, .orderNo, .rep, .flc, .rf, .fab, .pwr, .sec] s (uncorrectable s x1 x2 x3) := by
  unfold uncorrectable
  dsimp only
  with_reducible refine Keeps.ite ?_ ?_
  with_reducible refine Keeps.step ?_ (resetDevice_keeps ..) ?_
  with_reducible refine Keeps.ite ?_ ?_
  with_reducible refine Keeps.set_rep (rfl) ?_
  with_reducible refine Keeps.step ?_ (tileEvent_keeps ..) ?_
  with_reducible refine Keeps.set_rep (rfl) ?_
  exact Keeps.refl _
  rfl
  with_reducible refine Keeps.step ?_ (tileEvent_keeps ..) ?_
  with_reducible refine Keeps.set_rep (rfl) ?_
  exact Keeps.refl _
  rfl
  rfl
  with_reducible refine Keeps.step ?_ (charge_keeps ..) ?_
  with_reducible refine Keeps.step ?_ (resetTileCore_keeps ..) ?_
  with_reducible refine Keeps.step ?_ (failStep_keeps ..) ?_
  with_reducible refine Keeps.step ?_ (tileEvent_keeps ..) ?_
  with_reducible refine Keeps.set_rep (rfl) ?_
  exact Keeps.refl _
  rfl
  rfl
  rfl
  rfl

theorem correctAll_keeps (s : State) (x1 : Nat) (x2 : Reader) (x3 : List (Nat × EccFind)) :
    Keeps [.tiles, .routers, .engines, .regions, .fns, .recorder, .flt, .idn, .outbox, .msis, .rep, .flc, .rf, .pwr] s (correctAll s x1 x2 x3) := by
  unfold correctAll
  with_reducible refine Keeps.foldl ?_ ?_
  exact Keeps.refl _
  intro y2
  intro y3
  split
  with_reducible refine Keeps.step ?_ (correctable_keeps ..) ?_
  exact Keeps.refl _
  rfl
  exact Keeps.refl _

theorem meetErrors_keeps (s : State) (x1 : Nat) (x2 : Reader) (x3 : List (Nat × EccFind)) :
    Keeps [.tiles, .routers, .engines, .ltMap, .absent, .regions, .fns, .ctxs, .pageList, .basin, .poison, .bsn, .scans, .bundles, .bundleSeq, .silt, .recorder, .activeEpoch, .v0, .v1, .quiet, .flt, .idn, .outbox, .msis, .orderNo, .rep, .flc, .rf, .fab, .pwr, .sec] s (meetErrors s x1 x2 x3).1 := by
  unfold meetErrors
  dsimp only
  split
  dsimp only
  with_reducible refine Keeps.step ?_ (uncorrectable_keeps ..) ?_
  with_reducible refine Keeps.step ?_ (correctAll_keeps ..) ?_
  exact Keeps.refl _
  rfl
  rfl
  dsimp only
  with_reducible refine Keeps.step ?_ (correctAll_keeps ..) ?_
  exact Keeps.refl _
  rfl

theorem scrubLine_keeps (s : State) (x1 : Nat) (x2 : List (Nat × EccFind)) :
    Keeps [.tiles, .routers, .engines, .ltMap, .absent, .regions, .fns, .ctxs, .pageList, .basin, .poison, .bsn, .scans, .bundles, .bundleSeq, .silt, .recorder, .activeEpoch, .v0, .v1, .quiet, .flt, .idn, .outbox, .msis, .orderNo, .rep, .flc, .rf, .fab, .pwr, .sec] s (scrubLine s x1 x2) := by
  unfold scrubLine
  dsimp only
  with_reducible refine Keeps.step ?_ (meetErrors_keeps ..) ?_
  with_reducible refine Keeps.step ?_ (setTile_keeps ..) ?_
  exact Keeps.refl _
  rfl
  rfl

theorem execScrubRead_keeps (x0 : Nat) (x1 : List (Nat × EccFind)) (s : State) :
    KeepsOut [.tiles, .routers, .engines, .ltMap, .absent, .regions, .fns, .ctxs, .pageList, .basin, .poison, .bsn, .scans, .bundles, .bundleSeq, .silt, .recorder, .activeEpoch, .v0, .v1, .quiet, .flt, .idn, .outbox, .msis, .orderNo, .rep, .flc, .rf, .fab, .pwr, .sec] s (execScrubRead x0 x1 s) := by
  unfold execScrubRead
  refine needUnit_keeps ?_
  refine whenB_keeps2 ?_ ?_
  exact Keeps.refl _
  with_reducible refine Keeps.step ?_ (scrubLine_keeps ..) ?_
  exact Keeps.refl _
  rfl

theorem execScrubForced_keeps (x0 : Nat) (x1 : List (Nat × EccFind)) (s : State) :
    KeepsOut [.tiles, .routers, .engines, .ltMap, .absent, .regions, .fns, .ctxs, .pageList, .basin, .poison, .bsn, .scans, .bundles, .bundleSeq, .silt, .recorder, .activeEpoch, .v0, .v1, .quiet, .flt, .idn, .outbox, .msis, .orderNo, .rep, .flc, .rf, .fab, .pwr, .sec] s (execScrubForced x0 x1 s) := by
  unfold execScrubForced
  refine needUnit_keeps ?_
  refine whenB_keeps2 ?_ ?_
  exact Keeps.refl _
  with_reducible refine Keeps.step ?_ (scrubLine_keeps ..) ?_
  exact Keeps.refl _
  rfl

theorem execCeWriteback_keeps (x0 : Nat) (s : State) :
    KeepsOut [.tiles] s (execCeWriteback x0 s) := by
  unfold execCeWriteback
  refine needUnit_keeps ?_
  refine KeepsOut.next ?_
  with_reducible refine Keeps.step ?_ (updTile_keeps ..) ?_
  exact Keeps.refl _
  rfl

theorem shadowFail_keeps (s : State) (x1 : Nat) (x2 : Nat) :
    Keeps [.regions, .bsn, .outbox] s (shadowFail s x1 x2) := by
  unfold shadowFail
  with_reducible refine Keeps.step ?_ (failStep_keeps ..) ?_
  with_reducible refine Keeps.step ?_ (updBsn_keeps ..) ?_
  exact Keeps.refl _
  rfl
  rfl

theorem logUndo_keeps (s : State) (x1 : Nat) (x2 : Region) (x3 : Nat) :
    Keeps [.regions, .basin, .poison, .bsn, .scans] s (logUndo s x1 x2 x3) := by
  unfold logUndo
  dsimp only
  with_reducible refine Keeps.step ?_ (updBsn_keeps ..) ?_
  with_reducible refine Keeps.step ?_ (countPoison_keeps ..) ?_
  with_reducible refine Keeps.step ?_ (updRegion_keeps ..) ?_
  split
  with_reducible refine Keeps.step ?_ (basinPut_keeps ..) ?_
  exact Keeps.refl _
  rfl
  exact Keeps.refl _
  rfl
  rfl
  rfl

theorem shadowPut_keeps (s : State) (x1 : Nat) (x2 : ShadowLine) :
    Keeps [.basin, .poison, .scans] s (shadowPut s x1 x2) := by
  unfold shadowPut
  with_reducible refine Keeps.ite ?_ ?_
  with_reducible refine Keeps.step ?_ (basinPut_keeps ..) ?_
  exact Keeps.refl _
  rfl
  with_reducible refine Keeps.foldl ?_ ?_
  exact Keeps.refl _
  intro y6
  intro y7
  with_reducible refine Keeps.step ?_ (basinPut_keeps ..) ?_
  exact Keeps.refl _
  rfl

theorem shadowWrite_keeps (s : State) (x1 : Nat) (x2 : Bool) :
    Keeps [.tiles, .regions, .basin, .poison, .bsn, .scans, .outbox] s (shadowWrite s x1 x2) := by
  unfold shadowWrite
  dsimp only
  split
  exact Keeps.refl _
  split
  with_reducible refine Keeps.step ?_ (setTile_keeps ..) ?_
  exact Keeps.refl _
  rfl
  with_reducible refine Keeps.ite ?_ ?_
  with_reducible refine Keeps.ite ?_ ?_
  exact Keeps.refl _
  with_reducible refine Keeps.step ?_ (shadowFail_keeps ..) ?_
  exact Keeps.refl _
  rfl
  with_reducible refine Keeps.ite ?_ ?_
  with_reducible refine Keeps.step ?_ (shadowPut_keeps ..) ?_
  with_reducible refine Keeps.ite ?_ ?_
  with_reducible refine Keeps.step ?_ (logUndo_keeps ..) ?_
  with_reducible refine Keeps.step ?_ (setTile_keeps ..) ?_
  exact Keeps.refl _
  rfl
  rfl
  with_reducible refine Keeps.step ?_ (setTile_keeps ..) ?_
  exact Keeps.refl _
  rfl
  rfl
  with_reducible refine Keeps.step ?_ (shadowFail_keeps ..) ?_
  with_reducible refine Keeps.ite ?_ ?_
  with_reducible refine Keeps.step ?_ (logUndo_keeps ..) ?_
  with_reducible refine Keeps.step ?_ (setTile_keeps ..) ?_
  exact Keeps.refl _
  rfl
  rfl
  with_reducible refine Keeps.step ?_ (setTile_keeps ..) ?_
  exact Keeps.refl _
  rfl
  rfl

theorem execShadowWrite_keeps (x0 : Nat) (x1 : Bool) (s : State) :
    KeepsOut [.tiles, .regions, .basin, .poison, .bsn, .scans, .outbox] s (execShadowWrite x0 x1 s) := by
  unfold execShadowWrite
  refine needUnit_keeps ?_
  refine KeepsOut.next ?_
  with_reducible refine Keeps.step ?_ (shadowWrite_keeps ..) ?_
  exact Keeps.refl _
  rfl

theorem loseBundle_keeps (s : State) (x1 : Nat) :
    Keeps [.fns, .bundles, .recorder, .flt, .msis] s (loseBundle s x1) := by
  unfold loseBundle
  dsimp only
  split
  with_reducible refine Keeps.step ?_ (regionEvent_keeps ..) ?_
  with_reducible refine Keeps.set_bundles (rfl) ?_
  exact Keeps.refl _
  rfl
  exact Keeps.refl _

theorem ueAction_keeps (s : State) (x1 : Nat) :
    Keeps [.tiles, .routers, .engines, .ltMap, .absent, .regions, .fns, .ctxs, .pageList, .basin, .poison, .bsn, .scans, .bundles, .bundleSeq, .silt, .recorder, .activeEpoch, .v0, .v1, .quiet, .flt, .idn, .msis, .orderNo, .rep, .rf, .fab, .pwr, .sec] s (ueAction s x1) := by
  unfold ueAction
  with_reducible refine Keeps.ite ?_ ?_
  with_reducible refine Keeps.step ?_ (resetDevice_keeps ..) ?_
  with_reducible refine Keeps.step ?_ (devEvent_keeps ..) ?_
  exact Keeps.refl _
  rfl
  rfl
  with_reducible refine Keeps.ite ?_ ?_
  with_reducible refine Keeps.step ?_ (loseBundle_keeps ..) ?_
  exact Keeps.refl _
  rfl
  split
  exact Keeps.refl _
  split
  exact Keeps.refl _
  dsimp only
  with_reducible refine Keeps.ite ?_ ?_
  with_reducible refine Keeps.step ?_ (queueHeal_keeps ..) ?_
  exact Keeps.refl _
  rfl
  exact Keeps.refl _

theorem basinUe_keeps (s : State) (x1 : Nat) :
    Keeps [.tiles, .routers, .engines, .ltMap, .absent, .regions, .fns, .ctxs, .pageList, .basin, .poison, .bsn, .scans, .bundles, .bundleSeq, .silt, .recorder, .activeEpoch, .v0, .v1, .quiet, .flt, .idn, .outbox, .msis, .orderNo, .rep, .flc, .rf, .fab, .pwr, .sec] s (basinUe s x1) := by
  unfold basinUe
  dsimp only
  with_reducible refine Keeps.ite ?_ ?_
  with_reducible refine Keeps.step ?_ (countPoison_keeps ..) ?_
  exact Keeps.refl _
  rfl
  with_reducible refine Keeps.step ?_ (ueAction_keeps ..) ?_
  with_reducible refine Keeps.step ?_ (charge_keeps ..) ?_
  with_reducible refine Keeps.step ?_ (basinUeEvent_keeps ..) ?_
  with_reducible refine Keeps.step ?_ (updBsn_keeps ..) ?_
  with_reducible refine Keeps.set_poison (rfl) ?_
  exact Keeps.refl _
  rfl
  rfl
  rfl
  rfl

theorem patrolScrub_keeps (s : State) (x1 : Nat) (x2 : Nat) (x3 : List Nat) (x4 : List Nat) (x5 : Nat) :
    Keeps [.tiles, .routers, .engines, .ltMap, .absent, .regions, .fns, .ctxs, .pageList, .basin, .poison, .bsn, .scans, .bundles, .bundleSeq, .silt, .recorder, .activeEpoch, .v0, .v1, .quiet, .flt, .idn, .outbox, .msis, .orderNo, .rep, .flc, .rf, .fab, .pwr, .sec] s (patrolScrub s x1 x2 x3 x4 x5) := by
  unfold patrolScrub
  dsimp only
  with_reducible refine Keeps.foldl ?_ ?_
  with_reducible refine Keeps.step ?_ (updBsn_keeps ..) ?_
  exact Keeps.refl _
  rfl
  intro y5
  intro y6
  with_reducible refine Keeps.ite ?_ ?_
  with_reducible refine Keeps.step ?_ (basinUe_keeps ..) ?_
  exact Keeps.refl _
  rfl
  exact Keeps.refl _

theorem execPatrolScrub_keeps (x0 : Nat) (x1 : Nat) (x2 : List Nat) (x3 : List Nat) (s : State) (x5 : Nat) :
    KeepsOut [.tiles, .routers, .engines, .ltMap, .absent, .regions, .fns, .ctxs, .pageList, .basin, .poison, .bsn, .scans, .bundles, .bundleSeq, .silt, .recorder, .activeEpoch, .v0, .v1, .quiet, .flt, .idn, .outbox, .msis, .orderNo, .rep, .flc, .rf, .fab, .pwr, .sec] s (execPatrolScrub x0 x1 x2 x3 s x5) := by
  unfold execPatrolScrub
  refine needUnit_keeps ?_
  refine whenB_keeps2 ?_ ?_
  exact Keeps.refl _
  with_reducible refine Keeps.step ?_ (patrolScrub_keeps ..) ?_
  exact Keeps.refl _
  rfl

theorem actBasinReadMet_keeps (p : List Nat) (s : State) (c : FireCtx) :
    Keeps [.tiles, .routers, .regions, .bsn, .outbox] s (actBasinReadMet p s c).s := by
  unfold actBasinReadMet
  exact Keeps.step (Keeps.mono (actBasinRead_keeps ..) rfl) (upd_bsn _ _) rfl

theorem execBasinRead_keeps (x0 : Nat) (x1 : Nat) (x2 x3 : List Nat) (s : State) :
    KeepsOut [.tiles, .routers, .engines, .ltMap, .absent, .regions, .fns, .ctxs, .pageList, .basin, .poison, .bsn, .scans, .bundles, .bundleSeq, .silt, .recorder, .activeEpoch, .v0, .v1, .quiet, .flt, .idn, .outbox, .msis, .orderNo, .rep, .flc, .rf, .fab, .pwr, .sec] s (execBasinRead x0 x1 s x2 x3) := by
  have hc : ∀ l : List Nat, Keeps [.tiles, .routers, .engines, .ltMap, .absent, .regions, .fns, .ctxs, .pageList, .basin, .poison, .bsn, .scans, .bundles, .bundleSeq, .silt, .recorder, .activeEpoch, .v0, .v1, .quiet, .flt, .idn, .outbox, .msis, .orderNo, .rep, .flc, .rf, .fab, .pwr, .sec] s
      (l.foldl (fun s w => updBsn s (stackOf (64 * w)) fun c => { c with ce := satAdd c.ce 1 32 }) s) := fun l =>
    Keeps.foldl (Keeps.refl _) fun _ _ => Keeps.mono (updBsn_keeps ..) rfl
  have hr : ∀ (p : List Nat) (t : State), KeepsOut [.tiles, .routers, .regions, .bsn, .outbox] t
      (fireRow t x0 x1 (isOp 2 3) basinReadChecks (actBasinReadMet p)) := fun p t =>
    fireRow_keeps rfl _ _ _ _ _ _ fun _ _ => actBasinReadMet_keeps ..
  unfold execBasinRead
  split
  · exact KeepsOut.step (Keeps.refl _)
      (fireRow_keeps (L := [.tiles, .routers, .regions, .bsn, .outbox]) rfl _ _ _ _ _ _ fun _ _ => Keeps.mono (actBasinRead_keeps ..) rfl) rfl
  · dsimp only
    split
    · exact KeepsOut.next (Keeps.step (hc _) (basinUe_keeps ..) rfl)
    · exact KeepsOut.step (Keeps.trans (hc _) (Keeps.foldl (Keeps.refl _) fun _ _ => basinUe_keeps ..)) (hr _ _) rfl

theorem basinReads_nil (s : State) (lt q : Nat) : basinReads s lt q [] = [] := by
  unfold basinReads
  split
  · rfl
  · dsimp only
    split <;> rfl

/-- With no word in error a BASIN_READ is a plain descriptor row. -/
theorem execBasinRead_plain (lt q : Nat) (s : State) :
    execBasinRead lt q s [] [] = fireRow s lt q (isOp 2 3) basinReadChecks actBasinRead := by
  unfold execBasinRead
  simp only [basinReads_nil]

end Sys2Proof.Machine
end

