-- ==== Sys2Proof/Laws/Vector.lean ====
section
/-! SUPPORT. What the operations of Machine/Vector.lean may change: for each, the parts of the state. -/

namespace Sys2Proof.Machine

theorem vecPut_keeps (s : State) (x1 : FireCtx) (x2 : Nat) (x3 : List (Nat × List Byte)) :
    Keeps [.tiles] s (vecPut s x1 x2 x3) := by
  unfold vecPut
  with_reducible refine Keeps.step ?_ (updTile_keeps ..) ?_
  exact Keeps.refl _
  rfl

theorem vecRes_keeps (s : State) (x1 : FireCtx) (x2 : Nat) (x3 : List (Nat × List Byte)) :
    Keeps [.tiles] s (vecRes s x1 x2 x3).s := by
  unfold vecRes
  with_reducible refine Keeps.step ?_ (resOk_keeps ..) ?_
  with_reducible refine Keeps.step ?_ (vecPut_keeps ..) ?_
  exact Keeps.refl _
  rfl
  rfl

theorem actElementwise_keeps (s : State) (x1 : FireCtx) :
    Keeps [.tiles] s (actElementwise s x1).s := by
  unfold actElementwise
  dsimp only
  with_reducible refine Keeps.step ?_ (vecRes_keeps ..) ?_
  exact Keeps.refl _
  rfl

theorem actReduce_keeps (s : State) (x1 : FireCtx) :
    Keeps [.tiles] s (actReduce s x1).s := by
  unfold actReduce
  with_reducible refine Keeps.step ?_ (vecRes_keeps ..) ?_
  exact Keeps.refl _
  rfl

theorem actNorm_keeps (s : State) (x1 : FireCtx) :
    Keeps [.tiles] s (actNorm s x1).s := by
  unfold actNorm
  dsimp only
  with_reducible refine Keeps.step ?_ (vecRes_keeps ..) ?_
  exact Keeps.refl _
  rfl

theorem actActivate_keeps (s : State) (x1 : FireCtx) :
    Keeps [.tiles] s (actActivate s x1).s := by
  unfold actActivate
  with_reducible refine Keeps.step ?_ (vecRes_keeps ..) ?_
  exact Keeps.refl _
  rfl

theorem actConvert_keeps (s : State) (x1 : FireCtx) :
    Keeps [.tiles] s (actConvert s x1).s := by
  unfold actConvert
  with_reducible refine Keeps.step ?_ (vecRes_keeps ..) ?_
  exact Keeps.refl _
  rfl

theorem actSoftmax_keeps (s : State) (x1 : FireCtx) :
    Keeps [.tiles] s (actSoftmax s x1).s := by
  unfold actSoftmax
  dsimp only
  with_reducible refine Keeps.step ?_ (vecRes_keeps ..) ?_
  exact Keeps.refl _
  rfl

theorem actRope_keeps (s : State) (x1 : FireCtx) :
    Keeps [.tiles] s (actRope s x1).s := by
  unfold actRope
  dsimp only
  with_reducible refine Keeps.step ?_ (vecRes_keeps ..) ?_
  exact Keeps.refl _
  rfl

theorem actAttnMerge_keeps (s : State) (x1 : FireCtx) :
    Keeps [.tiles] s (actAttnMerge s x1).s := by
  unfold actAttnMerge
  dsimp only
  with_reducible refine Keeps.step ?_ (vecRes_keeps ..) ?_
  exact Keeps.refl _
  rfl

theorem actTopk_keeps (s : State) (x1 : FireCtx) :
    Keeps [.tiles] s (actTopk s x1).s := by
  unfold actTopk
  dsimp only
  with_reducible refine Keeps.step ?_ (vecRes_keeps ..) ?_
  exact Keeps.refl _
  rfl

theorem actMerge_keeps (s : State) (x1 : FireCtx) :
    Keeps [.tiles] s (actMerge s x1).s := by
  unfold actMerge
  dsimp only
  with_reducible refine Keeps.step ?_ (vecRes_keeps ..) ?_
  exact Keeps.refl _
  rfl

theorem actDraw_keeps (s : State) (x1 : FireCtx) :
    Keeps [.tiles] s (actDraw s x1).s := by
  unfold actDraw
  dsimp only
  with_reducible refine Keeps.step ?_ (vecRes_keeps ..) ?_
  exact Keeps.refl _
  rfl

theorem actVerify_keeps (s : State) (x1 : FireCtx) :
    Keeps [.tiles, .fns, .recorder, .flt, .msis] s (actVerify s x1).s := by
  unfold actVerify
  dsimp only
  with_reducible refine Keeps.foldl ?_ ?_
  with_reducible refine Keeps.step ?_ (vecRes_keeps ..) ?_
  exact Keeps.refl _
  rfl
  intro y5
  intro y6
  with_reducible refine Keeps.step ?_ (regionEvent_keeps ..) ?_
  exact Keeps.refl _
  rfl

theorem actGate_keeps (s : State) (x1 : FireCtx) :
    Keeps [.tiles] s (actGate s x1).s := by
  unfold actGate
  dsimp only
  with_reducible refine Keeps.step ?_ (vecRes_keeps ..) ?_
  exact Keeps.refl _
  rfl

theorem actCombine_keeps (s : State) (x1 : FireCtx) :
    Keeps [.tiles] s (actCombine s x1).s := by
  unfold actCombine
  dsimp only
  with_reducible refine Keeps.step ?_ (vecRes_keeps ..) ?_
  exact Keeps.refl _
  rfl

end Sys2Proof.Machine
end

