-- ==== Sys2Proof/Laws/ReadErrors.lean ====
section
/-! SUPPORT. What the operations of Machine/ReadErrors.lean may change: for each, the parts of the state. -/

namespace Sys2Proof.Machine

theorem evictMet_keeps (s : State) (x1 : Nat) (x2 : Nat) (x3 : List (Nat × EccFind)) :
    Keeps [.tiles, .routers, .engines, .ltMap, .absent, .regions, .fns, .ctxs, .pageList, .basin, .poison, .bsn, .scans, .bundles, .bundleSeq, .silt, .recorder, .activeEpoch, .v0, .v1, .quiet, .flt, .idn, .outbox, .msis, .orderNo, .rep, .flc, .rf, .fab, .pwr, .sec] s (evictMet s x1 x2 x3) := by
  unfold evictMet
  with_reducible refine Keeps.ite ?_ ?_
  with_reducible refine Keeps.step ?_ (meetErrors_keeps ..) ?_
  with_reducible refine Keeps.step ?_ (updTile_keeps ..) ?_
  exact Keeps.refl _
  rfl
  rfl
  with_reducible refine Keeps.step ?_ (updTile_keeps ..) ?_
  with_reducible refine Keeps.step ?_ (correctAll_keeps ..) ?_
  exact Keeps.refl _
  rfl
  rfl

theorem execMergeEvict_keeps (x0 : Nat) (x1 : Bool) (s : State) (x3 : List (Nat × EccFind)) :
    KeepsOut [.tiles, .routers, .engines, .ltMap, .absent, .regions, .fns, .ctxs, .pageList, .basin, .poison, .bsn, .scans, .bundles, .bundleSeq, .silt, .recorder, .activeEpoch, .v0, .v1, .quiet, .flt, .idn, .outbox, .msis, .orderNo, .rep, .flc, .rf, .fab, .pwr, .sec] s (execMergeEvict x0 x1 s x3) := by
  unfold execMergeEvict
  refine needUnit_keeps ?_
  dsimp only
  split
  refine KeepsOut.next ?_
  exact Keeps.refl _
  split
  refine KeepsOut.next ?_
  exact Keeps.refl _
  refine KeepsOut.next ?_
  with_reducible refine Keeps.step ?_ (evictMet_keeps ..) ?_
  exact Keeps.refl _
  rfl

/-- `withEvictions` may change what the row may and what an eviction's error may. -/
theorem withEvictions_keeps {L : List Part} (hL : sub [.tiles, .routers, .engines, .ltMap, .absent, .regions, .fns, .ctxs, .pageList, .basin, .poison, .bsn, .scans, .bundles, .bundleSeq, .silt, .recorder, .activeEpoch, .v0, .v1, .quiet, .flt, .idn, .outbox, .msis, .orderNo, .rep, .flc, .rf, .fab, .pwr, .sec] L = true) (s : State) (x1 : Nat) (x2 : List (Nat × EccFind)) (x3 : State → Out)
    (h3 : ∀ a, KeepsOut L a (x3 a)) : KeepsOut L s (withEvictions s x1 x2 x3) := by
  unfold withEvictions
  split
  · next u e =>
    dsimp only
    split
    · exact e ▸ h3 s
    · next hn =>
      clear hn
      generalize ((eccChecked (tileOf s x1) x2).filter fun f => (evictedLines (tileOf s x1) (tileOf u x1)).contains (f.1 / 8)) = fs
      have k : Keeps L s (((fs.map fun f => f.1 / 8).eraseDups).foldl (fun s l => evictMet s x1 (8 * l) (fs.filter fun f => f.1 / 8 == l)) s) :=
        Keeps.foldl (Keeps.refl _) fun a _ => (evictMet_keeps ..).mono hL
      split
      · exact KeepsOut.next k
      · exact KeepsOut.step k (h3 _) (sub_refl _)
  · exact h3 s

/-- With no word in error nothing is met by an eviction. -/
theorem withEvictions_nil (s : State) (lt : Nat) (row : State → Out) : withEvictions s lt [] row = row s := by
  unfold withEvictions
  cases row s <;> rfl

/-- `meetRow` may change what the row may and what a word in error may. -/
theorem meetRow_keeps {L : List Part} (hL : sub [.tiles, .routers, .engines, .ltMap, .absent, .regions, .fns, .ctxs, .pageList, .basin, .poison, .bsn, .scans, .bundles, .bundleSeq, .silt, .recorder, .activeEpoch, .v0, .v1, .quiet, .flt, .idn, .outbox, .msis, .orderNo, .rep, .flc, .rf, .fab, .pwr, .sec] L = true) (s : State) (x1 x2 : Nat) (x3 : List Rng) (x4 : List (Nat × EccFind)) (x5 : State → Out)
    (h5 : ∀ a, KeepsOut L a (x5 a)) : KeepsOut L s (meetRow s x1 x2 x3 x4 x5) := by
  have hm : ∀ a who fs, Keeps L a (meetErrors a x1 who fs).1 := fun _ _ _ => (meetErrors_keeps ..).mono hL
  have k2 : ∀ a who fs, KeepsOut L a (if (meetErrors a x1 who fs).2 then .next (meetErrors a x1 who fs).1
      else withEvictions (meetErrors a x1 who fs).1 x1 x4 x5) := by
    intro a who fs
    split
    · exact KeepsOut.next (hm ..)
    · exact KeepsOut.step (hm ..) (withEvictions_keeps hL _ _ _ _ h5) (sub_refl _)
  unfold meetRow
  split
  · dsimp only
    split
    · exact KeepsOut.next (hm ..)
    · exact KeepsOut.step (hm s _ _) (k2 _ _ _) (sub_refl _)
  · exact h5 s

/-- With no word in error the row alone counts. -/
theorem meetRow_nil (s : State) (lt who : Nat) (rs : List Rng) (row : State → Out) : meetRow s lt who rs [] row = row s := by
  unfold meetRow
  cases row s <;> rfl

theorem errorRow_keeps {L : List Part} (hL : sub [.tiles, .routers, .engines, .ltMap, .absent, .regions, .fns, .ctxs, .pageList, .basin, .poison, .bsn, .scans, .bundles, .bundleSeq, .silt, .recorder, .activeEpoch, .v0, .v1, .quiet, .flt, .idn, .outbox, .msis, .orderNo, .rep, .flc, .rf, .fab, .pwr, .sec] L = true) (s : State) (lt q : Nat) (x : ReadRow) (found : List (Nat × EccFind))
    (hx : ∀ s c, Keeps L s (x.act s c).s) : KeepsOut L s (errorRow s lt q x found) := by
  have hf : ∀ t, KeepsOut L t (fireRow t lt q x.want x.checks x.act) := fun t =>
    fireRow_keeps (sub_trans (by decide) hL) _ _ _ _ _ _ hx
  unfold errorRow
  split
  · exact hf s
  · next who fs _ =>
    have k := (meetErrors_keeps s lt who fs).mono hL
    dsimp only
    split
    · exact KeepsOut.next k
    · exact KeepsOut.step k (withEvictions_keeps hL _ _ _ _ hf) (sub_refl _)

/-- With no word in error a row that reads is a plain descriptor row. -/
theorem errorRow_nil (s : State) (lt q : Nat) (x : ReadRow) : errorRow s lt q x [] = fireRow s lt q x.want x.checks x.act := by
  have h : ∀ who fs, readErrors s lt q x [] = some (who, fs) → fs = [] := by
    intro who fs h
    unfold readErrors at h
    split at h
    · cases h
    · dsimp only at h
      split at h
      · cases h
        rfl
      · cases h
  unfold errorRow
  cases e : readErrors s lt q x [] with
  | none => rfl
  | some p =>
    obtain ⟨who, fs⟩ := p
    cases h who fs e
    exact withEvictions_nil s lt fun s => fireRow s lt q x.want x.checks x.act

theorem storeCorrectable_keeps (s : State) (x1 : Nat) (x2 : Reader) (x3 : StoreFind) (x4 : Nat) :
    Keeps [.tiles, .routers, .engines, .regions, .fns, .recorder, .flt, .idn, .outbox, .msis, .rep, .flc, .rf, .pwr] s (storeCorrectable s x1 x2 x3 x4) := by
  unfold storeCorrectable
  dsimp only
  with_reducible refine Keeps.step ?_ (updTile_keeps ..) ?_
  with_reducible refine Keeps.step ?_ (correctable_keeps ..) ?_
  exact Keeps.refl _
  rfl
  rfl

theorem storeUncorrectable_keeps (s : State) (x1 : Nat) (x2 : Reader) (x3 : StoreFind) :
    Keeps [.tiles, .routers, .engines, .ltMap, .absent, .regions, .fns, .ctxs, .pageList, .basin, .poison, .bsn, .scans, .bundles, .bundleSeq, .silt, .recorder, .activeEpoch, .v0, .v1, .quiet, .flt, .idn, .outbox, .msis, .orderNo, .rep, .flc, .rf, .fab, .pwr, .sec] s (storeUncorrectable s x1 x2 x3) := by
  unfold storeUncorrectable
  dsimp only
  with_reducible refine Keeps.ite ?_ ?_
  with_reducible refine Keeps.step ?_ (resetDevice_keeps ..) ?_
  with_reducible refine Keeps.step ?_ (tileEvent_keeps ..) ?_
  with_reducible refine Keeps.set_rep (rfl) ?_
  exact Keeps.refl _
  rfl
  rfl
  with_reducible refine Keeps.step ?_ (charge_keeps ..) ?_
  with_reducible refine Keeps.step ?_ (resetTileCore_keeps ..) ?_
  with_reducible refine Keeps.step ?_ (failStep_keeps ..) ?_
  with_reducible refine Keeps.step ?_ (tileEvent_keeps ..) ?_
  with_reducible refine Keeps.set_rep (rfl) ?_
  exact Keeps.refl _
  rfl
  rfl
  rfl
  rfl

theorem meetStores_keeps (s : State) (x1 : Nat) (x2 : Reader) (x3 : List StoreFind) :
    Keeps [.tiles, .routers, .engines, .ltMap, .absent, .regions, .fns, .ctxs, .pageList, .basin, .poison, .bsn, .scans, .bundles, .bundleSeq, .silt, .recorder, .activeEpoch, .v0, .v1, .quiet, .flt, .idn, .outbox, .msis, .orderNo, .rep, .flc, .rf, .fab, .pwr, .sec] s (meetStores s x1 x2 x3).1 := by
  unfold meetStores
  dsimp only
  split
  dsimp only
  with_reducible refine Keeps.step ?_ (storeUncorrectable_keeps ..) ?_
  with_reducible refine Keeps.foldl ?_ ?_
  exact Keeps.refl _
  intro y6
  intro y7
  split
  with_reducible refine Keeps.step ?_ (storeCorrectable_keeps ..) ?_
  exact Keeps.refl _
  rfl
  exact Keeps.refl _
  rfl
  dsimp only
  with_reducible refine Keeps.foldl ?_ ?_
  exact Keeps.refl _
  intro y17
  intro y18
  split
  with_reducible refine Keeps.step ?_ (storeCorrectable_keeps ..) ?_
  exact Keeps.refl _
  rfl
  exact Keeps.refl _

theorem execMatmul_keeps (lt q : Nat) (s : State) (found : List (Nat × EccFind)) (stores : List StoreFind) :
    KeepsOut [.tiles, .routers, .engines, .ltMap, .absent, .regions, .fns, .ctxs, .pageList, .basin, .poison, .bsn, .scans, .bundles, .bundleSeq, .silt, .recorder, .activeEpoch, .v0, .v1, .quiet, .flt, .idn, .outbox, .msis, .orderNo, .rep, .flc, .rf, .fab, .pwr, .sec] s (execMatmul lt q s found stores) := by
  have hr : ∀ t, KeepsOut [.tiles, .routers, .engines, .ltMap, .absent, .regions, .fns, .ctxs, .pageList, .basin, .poison, .bsn, .scans, .bundles, .bundleSeq, .silt, .recorder, .activeEpoch, .v0, .v1, .quiet, .flt, .idn, .outbox, .msis, .orderNo, .rep, .flc, .rf, .fab, .pwr, .sec] t (errorRow t lt q matmulRow found) := fun t =>
    errorRow_keeps rfl _ _ _ matmulRow _ fun _ _ => (actMatmul_keeps ..).mono rfl
  unfold execMatmul
  split
  · exact hr s
  · skip
    dsimp only
    split
    · exact KeepsOut.next ((meetStores_keeps s lt _ _).mono rfl)
    · exact KeepsOut.step ((meetStores_keeps s lt _ _).mono rfl) (hr _) (sub_refl _)

/-- With no word in error a MATMUL is a plain descriptor row. -/
theorem execMatmul_plain (lt q : Nat) (s : State) : execMatmul lt q s [] [] = fireRow s lt q isMatmul matChecks actMatmul := by
  unfold execMatmul storeErrors
  split
  · exact errorRow_nil ..
  · next who fs e =>
    split at e
    · cases e
      exact errorRow_nil ..
    · cases e

theorem execElementwise_keeps (lt q : Nat) (s : State) (found : List (Nat × EccFind)) :
    KeepsOut [.tiles, .routers, .engines, .ltMap, .absent, .regions, .fns, .ctxs, .pageList, .basin, .poison, .bsn, .scans, .bundles, .bundleSeq, .silt, .recorder, .activeEpoch, .v0, .v1, .quiet, .flt, .idn, .outbox, .msis, .orderNo, .rep, .flc, .rf, .fab, .pwr, .sec] s (execElementwise lt q s found) :=
  errorRow_keeps rfl _ _ _ ewRow _ fun _ _ => (actElementwise_keeps ..).mono rfl

theorem execReduce_keeps (lt q : Nat) (s : State) (found : List (Nat × EccFind)) :
    KeepsOut [.tiles, .routers, .engines, .ltMap, .absent, .regions, .fns, .ctxs, .pageList, .basin, .poison, .bsn, .scans, .bundles, .bundleSeq, .silt, .recorder, .activeEpoch, .v0, .v1, .quiet, .flt, .idn, .outbox, .msis, .orderNo, .rep, .flc, .rf, .fab, .pwr, .sec] s (execReduce lt q s found) :=
  errorRow_keeps rfl _ _ _ reduceRow_ _ fun _ _ => (actReduce_keeps ..).mono rfl

theorem execAttnMerge_keeps (lt q : Nat) (s : State) (found : List (Nat × EccFind)) :
    KeepsOut [.tiles, .routers, .engines, .ltMap, .absent, .regions, .fns, .ctxs, .pageList, .basin, .poison, .bsn, .scans, .bundles, .bundleSeq, .silt, .recorder, .activeEpoch, .v0, .v1, .quiet, .flt, .idn, .outbox, .msis, .orderNo, .rep, .flc, .rf, .fab, .pwr, .sec] s (execAttnMerge lt q s found) :=
  errorRow_keeps rfl _ _ _ attnRow _ fun _ _ => (actAttnMerge_keeps ..).mono rfl

theorem execNorm_keeps (lt q : Nat) (s : State) (found : List (Nat × EccFind)) :
    KeepsOut [.tiles, .routers, .engines, .ltMap, .absent, .regions, .fns, .ctxs, .pageList, .basin, .poison, .bsn, .scans, .bundles, .bundleSeq, .silt, .recorder, .activeEpoch, .v0, .v1, .quiet, .flt, .idn, .outbox, .msis, .orderNo, .rep, .flc, .rf, .fab, .pwr, .sec] s (execNorm lt q s found) :=
  errorRow_keeps rfl _ _ _ normRow_ _ fun _ _ => (actNorm_keeps ..).mono rfl

theorem execSoftmax_keeps (lt q : Nat) (s : State) (found : List (Nat × EccFind)) :
    KeepsOut [.tiles, .routers, .engines, .ltMap, .absent, .regions, .fns, .ctxs, .pageList, .basin, .poison, .bsn, .scans, .bundles, .bundleSeq, .silt, .recorder, .activeEpoch, .v0, .v1, .quiet, .flt, .idn, .outbox, .msis, .orderNo, .rep, .flc, .rf, .fab, .pwr, .sec] s (execSoftmax lt q s found) :=
  errorRow_keeps rfl _ _ _ softRow _ fun _ _ => (actSoftmax_keeps ..).mono rfl

theorem execRope_keeps (lt q : Nat) (s : State) (found : List (Nat × EccFind)) :
    KeepsOut [.tiles, .routers, .engines, .ltMap, .absent, .regions, .fns, .ctxs, .pageList, .basin, .poison, .bsn, .scans, .bundles, .bundleSeq, .silt, .recorder, .activeEpoch, .v0, .v1, .quiet, .flt, .idn, .outbox, .msis, .orderNo, .rep, .flc, .rf, .fab, .pwr, .sec] s (execRope lt q s found) :=
  errorRow_keeps rfl _ _ _ ropeRow_ _ fun _ _ => (actRope_keeps ..).mono rfl

theorem execActivate_keeps (lt q : Nat) (s : State) (found : List (Nat × EccFind)) :
    KeepsOut [.tiles, .routers, .engines, .ltMap, .absent, .regions, .fns, .ctxs, .pageList, .basin, .poison, .bsn, .scans, .bundles, .bundleSeq, .silt, .recorder, .activeEpoch, .v0, .v1, .quiet, .flt, .idn, .outbox, .msis, .orderNo, .rep, .flc, .rf, .fab, .pwr, .sec] s (execActivate lt q s found) :=
  errorRow_keeps rfl _ _ _ activateRow _ fun _ _ => (actActivate_keeps ..).mono rfl

theorem execTopk_keeps (lt q : Nat) (s : State) (found : List (Nat × EccFind)) :
    KeepsOut [.tiles, .routers, .engines, .ltMap, .absent, .regions, .fns, .ctxs, .pageList, .basin, .poison, .bsn, .scans, .bundles, .bundleSeq, .silt, .recorder, .activeEpoch, .v0, .v1, .quiet, .flt, .idn, .outbox, .msis, .orderNo, .rep, .flc, .rf, .fab, .pwr, .sec] s (execTopk lt q s found) :=
  errorRow_keeps rfl _ _ _ topkRow_ _ fun _ _ => (actTopk_keeps ..).mono rfl

theorem execMerge_keeps (lt q : Nat) (s : State) (found : List (Nat × EccFind)) :
    KeepsOut [.tiles, .routers, .engines, .ltMap, .absent, .regions, .fns, .ctxs, .pageList, .basin, .poison, .bsn, .scans, .bundles, .bundleSeq, .silt, .recorder, .activeEpoch, .v0, .v1, .quiet, .flt, .idn, .outbox, .msis, .orderNo, .rep, .flc, .rf, .fab, .pwr, .sec] s (execMerge lt q s found) :=
  errorRow_keeps rfl _ _ _ mergeRow_ _ fun _ _ => (actMerge_keeps ..).mono rfl

theorem execDraw_keeps (lt q : Nat) (s : State) (found : List (Nat × EccFind)) :
    KeepsOut [.tiles, .routers, .engines, .ltMap, .absent, .regions, .fns, .ctxs, .pageList, .basin, .poison, .bsn, .scans, .bundles, .bundleSeq, .silt, .recorder, .activeEpoch, .v0, .v1, .quiet, .flt, .idn, .outbox, .msis, .orderNo, .rep, .flc, .rf, .fab, .pwr, .sec] s (execDraw lt q s found) :=
  errorRow_keeps rfl _ _ _ drawRow _ fun _ _ => (actDraw_keeps ..).mono rfl

theorem execVerify_keeps (lt q : Nat) (s : State) (found : List (Nat × EccFind)) :
    KeepsOut [.tiles, .routers, .engines, .ltMap, .absent, .regions, .fns, .ctxs, .pageList, .basin, .poison, .bsn, .scans, .bundles, .bundleSeq, .silt, .recorder, .activeEpoch, .v0, .v1, .quiet, .flt, .idn, .outbox, .msis, .orderNo, .rep, .flc, .rf, .fab, .pwr, .sec] s (execVerify lt q s found) :=
  errorRow_keeps rfl _ _ _ verifyRow _ fun _ _ => (actVerify_keeps ..).mono rfl

theorem execConvert_keeps (lt q : Nat) (s : State) (found : List (Nat × EccFind)) :
    KeepsOut [.tiles, .routers, .engines, .ltMap, .absent, .regions, .fns, .ctxs, .pageList, .basin, .poison, .bsn, .scans, .bundles, .bundleSeq, .silt, .recorder, .activeEpoch, .v0, .v1, .quiet, .flt, .idn, .outbox, .msis, .orderNo, .rep, .flc, .rf, .fab, .pwr, .sec] s (execConvert lt q s found) :=
  errorRow_keeps rfl _ _ _ convertRow _ fun _ _ => (actConvert_keeps ..).mono rfl

theorem execGate_keeps (lt q : Nat) (s : State) (found : List (Nat × EccFind)) :
    KeepsOut [.tiles, .routers, .engines, .ltMap, .absent, .regions, .fns, .ctxs, .pageList, .basin, .poison, .bsn, .scans, .bundles, .bundleSeq, .silt, .recorder, .activeEpoch, .v0, .v1, .quiet, .flt, .idn, .outbox, .msis, .orderNo, .rep, .flc, .rf, .fab, .pwr, .sec] s (execGate lt q s found) :=
  errorRow_keeps rfl _ _ _ gateRow_ _ fun _ _ => (actGate_keeps ..).mono rfl

theorem execCombine_keeps (lt q : Nat) (s : State) (found : List (Nat × EccFind)) :
    KeepsOut [.tiles, .routers, .engines, .ltMap, .absent, .regions, .fns, .ctxs, .pageList, .basin, .poison, .bsn, .scans, .bundles, .bundleSeq, .silt, .recorder, .activeEpoch, .v0, .v1, .quiet, .flt, .idn, .outbox, .msis, .orderNo, .rep, .flc, .rf, .fab, .pwr, .sec] s (execCombine lt q s found) :=
  errorRow_keeps rfl _ _ _ combineRow _ fun _ _ => (actCombine_keeps ..).mono rfl

theorem execCopy_keeps (lt q : Nat) (s : State) (found : List (Nat × EccFind)) :
    KeepsOut [.tiles, .routers, .engines, .ltMap, .absent, .regions, .fns, .ctxs, .pageList, .basin, .poison, .bsn, .scans, .bundles, .bundleSeq, .silt, .recorder, .activeEpoch, .v0, .v1, .quiet, .flt, .idn, .outbox, .msis, .orderNo, .rep, .flc, .rf, .fab, .pwr, .sec] s (execCopy lt q s found) :=
  errorRow_keeps rfl _ _ _ copyRow_ _ fun _ _ => (actCopy_keeps ..).mono rfl

theorem execPut_keeps (lt q : Nat) (s : State) (found : List (Nat × EccFind)) :
    KeepsOut [.tiles, .routers, .engines, .ltMap, .absent, .regions, .fns, .ctxs, .pageList, .basin, .poison, .bsn, .scans, .bundles, .bundleSeq, .silt, .recorder, .activeEpoch, .v0, .v1, .quiet, .flt, .idn, .outbox, .msis, .orderNo, .rep, .flc, .rf, .fab, .pwr, .sec] s (execPut lt q s found) :=
  errorRow_keeps rfl _ _ _ putRow _ fun _ _ => (actPut_keeps ..).mono rfl

theorem execBasinWrite_keeps (lt q : Nat) (s : State) (found : List (Nat × EccFind)) :
    KeepsOut [.tiles, .routers, .engines, .ltMap, .absent, .regions, .fns, .ctxs, .pageList, .basin, .poison, .bsn, .scans, .bundles, .bundleSeq, .silt, .recorder, .activeEpoch, .v0, .v1, .quiet, .flt, .idn, .outbox, .msis, .orderNo, .rep, .flc, .rf, .fab, .pwr, .sec] s (execBasinWrite lt q s found) :=
  errorRow_keeps rfl _ _ _ basinWriteRow _ fun _ _ => (actBasinWrite_keeps ..).mono rfl

theorem execSiltWrite_keeps (lt q : Nat) (s : State) (found : List (Nat × EccFind)) :
    KeepsOut [.tiles, .routers, .engines, .ltMap, .absent, .regions, .fns, .ctxs, .pageList, .basin, .poison, .bsn, .scans, .bundles, .bundleSeq, .silt, .recorder, .activeEpoch, .v0, .v1, .quiet, .flt, .idn, .outbox, .msis, .orderNo, .rep, .flc, .rf, .fab, .pwr, .sec] s (execSiltWrite lt q s found) :=
  errorRow_keeps rfl _ _ _ siltWriteRow _ fun _ _ => (actSiltWrite_keeps ..).mono rfl

theorem execStoreLoad_keeps (lt q : Nat) (s : State) (found : List (Nat × EccFind)) :
    KeepsOut [.tiles, .routers, .engines, .ltMap, .absent, .regions, .fns, .ctxs, .pageList, .basin, .poison, .bsn, .scans, .bundles, .bundleSeq, .silt, .recorder, .activeEpoch, .v0, .v1, .quiet, .flt, .idn, .outbox, .msis, .orderNo, .rep, .flc, .rf, .fab, .pwr, .sec] s (execStoreLoad lt q s found) :=
  errorRow_keeps rfl _ _ _ storeLoadRow _ fun _ _ => (actStoreLoad_keeps ..).mono rfl

theorem execSparsify_keeps (lt q : Nat) (s : State) (found : List (Nat × EccFind)) :
    KeepsOut [.free, .tiles, .routers, .engines, .ltMap, .absent, .regions, .fns, .ctxs, .pageList, .basin, .poison, .bsn, .scans, .bundles, .bundleSeq, .silt, .recorder, .activeEpoch, .v0, .v1, .quiet, .flt, .idn, .outbox, .msis, .orderNo, .rep, .flc, .rf, .fab, .pwr, .sec] s (execSparsify lt q s found) :=
  errorRow_keeps rfl _ _ _ sparsifyRow _ fun _ _ => (actSparsify_keeps ..).mono rfl

theorem execScatter_keeps (lt q : Nat) (s : State) (found : List (Nat × EccFind)) :
    KeepsOut [.tiles, .routers, .engines, .ltMap, .absent, .regions, .fns, .ctxs, .pageList, .basin, .poison, .bsn, .scans, .bundles, .bundleSeq, .silt, .recorder, .activeEpoch, .v0, .v1, .quiet, .flt, .idn, .outbox, .msis, .orderNo, .rep, .flc, .rf, .fab, .pwr, .sec] s (execScatter lt q s found) :=
  errorRow_keeps rfl _ _ _ scatterRow_ _ fun _ _ => (actScatter_keeps ..).mono rfl

theorem execGather_keeps (lt q : Nat) (s : State) (found : List (Nat × EccFind)) :
    KeepsOut [.tiles, .routers, .engines, .ltMap, .absent, .regions, .fns, .ctxs, .pageList, .basin, .poison, .bsn, .scans, .bundles, .bundleSeq, .silt, .recorder, .activeEpoch, .v0, .v1, .quiet, .flt, .idn, .outbox, .msis, .orderNo, .rep, .flc, .rf, .fab, .pwr, .sec] s (execGather lt q s found) :=
  errorRow_keeps rfl _ _ _ gatherRow _ fun _ _ => (actGather_keeps ..).mono rfl

theorem execMessage_keeps (lt q : Nat) (s : State) (found : List (Nat × EccFind)) :
    KeepsOut [.tiles, .routers, .engines, .ltMap, .absent, .regions, .fns, .ctxs, .pageList, .basin, .poison, .bsn, .scans, .bundles, .bundleSeq, .silt, .recorder, .activeEpoch, .v0, .v1, .quiet, .flt, .idn, .outbox, .msis, .orderNo, .rep, .flc, .rf, .fab, .pwr, .sec] s (execMessage lt q s found) :=
  errorRow_keeps rfl _ _ _ messageRow _ fun _ _ => (actMessage_keeps ..).mono rfl

theorem execContribute_keeps (lt q : Nat) (s : State) (found : List (Nat × EccFind)) :
    KeepsOut [.tiles, .routers, .engines, .ltMap, .absent, .regions, .fns, .ctxs, .pageList, .basin, .poison, .bsn, .scans, .bundles, .bundleSeq, .silt, .recorder, .activeEpoch, .v0, .v1, .quiet, .flt, .idn, .outbox, .msis, .orderNo, .rep, .flc, .rf, .fab, .pwr, .sec] s (execContribute lt q s found) :=
  errorRow_keeps rfl _ _ _ contributeRow _ fun _ _ => (actContribute_keeps ..).mono rfl

theorem readReqMet_keeps (s : State) (x1 : Nat) (x2 : Packet) (x3 : List (Nat × EccFind)) :
    Keeps [.free, .tiles, .routers, .engines, .ltMap, .absent, .regions, .fns, .ctxs, .pageList, .basin, .poison, .bsn, .scans, .bundles, .bundleSeq, .silt, .recorder, .activeEpoch, .v0, .v1, .quiet, .flt, .idn, .outbox, .msis, .orderNo, .rep, .flc, .rf, .fab, .pwr, .sec] s (readReqMet s x1 x2 x3) := by
  unfold readReqMet
  dsimp only
  with_reducible refine Keeps.ite ?_ ?_
  with_reducible refine Keeps.step ?_ (meetErrors_keeps ..) ?_
  exact Keeps.refl _
  rfl
  with_reducible refine Keeps.step ?_ (readReq_keeps ..) ?_
  with_reducible refine Keeps.step ?_ (meetErrors_keeps ..) ?_
  exact Keeps.refl _
  rfl
  rfl

theorem execReadReqRx_keeps (x0 : Nat) (s : State) (x2 : List (Nat × EccFind)) :
    KeepsOut [.free, .tiles, .routers, .engines, .ltMap, .absent, .regions, .fns, .ctxs, .pageList, .basin, .poison, .bsn, .scans, .bundles, .bundleSeq, .silt, .recorder, .activeEpoch, .v0, .v1, .quiet, .flt, .idn, .outbox, .msis, .orderNo, .rep, .flc, .rf, .fab, .pwr, .sec] s (execReadReqRx x0 s x2) := by
  unfold execReadReqRx
  with_reducible refine KeepsOut.step ?_ (withInbox_keeps (L := [.free, .tiles, .routers, .engines, .ltMap, .absent, .regions, .fns, .ctxs, .pageList, .basin, .poison, .bsn, .scans, .bundles, .bundleSeq, .silt, .recorder, .activeEpoch, .v0, .v1, .quiet, .flt, .idn, .outbox, .msis, .orderNo, .rep, .flc, .rf, .fab, .pwr, .sec]) (rfl) _ _ _ _ ?_) (sub_refl _)
  exact Keeps.refl _
  intro y2
  intro y3
  with_reducible refine Keeps.step ?_ (readReqMet_keeps ..) ?_
  exact Keeps.refl _
  rfl

theorem execScanOut_keeps (x0 : Nat) (x1 : Nat) (s : State) (x3 : List (Nat × EccFind)) :
    KeepsOut [.free, .tiles, .routers, .engines, .ltMap, .absent, .regions, .fns, .ctxs, .pageList, .basin, .poison, .bsn, .scans, .bundles, .bundleSeq, .silt, .recorder, .activeEpoch, .v0, .v1, .quiet, .flt, .idn, .outbox, .msis, .orderNo, .rep, .flc, .rf, .fab, .pwr, .sec] s (execScanOut x0 x1 s x3) := by
  unfold execScanOut
  split
  dsimp only
  split
  split
  refine KeepsOut.next ?_
  with_reducible refine Keeps.step ?_ (meetErrors_keeps ..) ?_
  exact Keeps.refl _
  rfl
  with_reducible refine KeepsOut.step ?_ (fireRow_keeps (L := [.free, .tiles, .routers, .engines, .ltMap, .absent, .regions, .fns, .ctxs, .pageList, .basin, .poison, .bsn, .scans, .bundles, .bundleSeq, .silt, .recorder, .activeEpoch, .v0, .v1, .quiet, .flt, .idn, .outbox, .msis, .orderNo, .rep, .flc, .rf, .fab, .pwr, .sec]) (rfl) _ _ _ _ _ _ ?_) (sub_refl _)
  with_reducible refine Keeps.step ?_ (meetErrors_keeps ..) ?_
  exact Keeps.refl _
  rfl
  intro y12
  intro y13
  with_reducible refine Keeps.step ?_ (actScanOut_keeps ..) ?_
  exact Keeps.refl _
  rfl
  split
  refine KeepsOut.next ?_
  with_reducible refine Keeps.step ?_ (meetErrors_keeps ..) ?_
  exact Keeps.refl _
  rfl
  with_reducible refine KeepsOut.step ?_ (fireRow_keeps (L := [.free, .tiles, .routers, .engines, .ltMap, .absent, .regions, .fns, .ctxs, .pageList, .basin, .poison, .bsn, .scans, .bundles, .bundleSeq, .silt, .recorder, .activeEpoch, .v0, .v1, .quiet, .flt, .idn, .outbox, .msis, .orderNo, .rep, .flc, .rf, .fab, .pwr, .sec]) (rfl) _ _ _ _ _ _ ?_) (sub_refl _)
  with_reducible refine Keeps.step ?_ (meetErrors_keeps ..) ?_
  exact Keeps.refl _
  rfl
  intro y26
  intro y27
  with_reducible refine Keeps.step ?_ (actScanOut_keeps ..) ?_
  exact Keeps.refl _
  rfl
  with_reducible refine KeepsOut.step ?_ (fireRow_keeps (L := [.free, .tiles, .routers, .engines, .ltMap, .absent, .regions, .fns, .ctxs, .pageList, .basin, .poison, .bsn, .scans, .bundles, .bundleSeq, .silt, .recorder, .activeEpoch, .v0, .v1, .quiet, .flt, .idn, .outbox, .msis, .orderNo, .rep, .flc, .rf, .fab, .pwr, .sec]) (rfl) _ _ _ _ _ _ ?_) (sub_refl _)
  exact Keeps.refl _
  intro y33
  intro y34
  with_reducible refine Keeps.step ?_ (actScanOut_keeps ..) ?_
  exact Keeps.refl _
  rfl

theorem execFetchLine_keeps (x0 : Nat) (x1 : Nat) (s : State) (x3 : List (Nat × EccFind)) :
    KeepsOut [.tiles, .routers, .engines, .ltMap, .absent, .regions, .fns, .ctxs, .pageList, .basin, .poison, .bsn, .scans, .bundles, .bundleSeq, .silt, .recorder, .activeEpoch, .v0, .v1, .quiet, .flt, .idn, .outbox, .msis, .orderNo, .rep, .flc, .rf, .fab, .pwr, .sec] s (execFetchLine x0 x1 s x3) := by
  unfold execFetchLine
  dsimp only
  with_reducible refine KeepsOut.step ?_ (meetRow_keeps (L := [.tiles, .routers, .engines, .ltMap, .absent, .regions, .fns, .ctxs, .pageList, .basin, .poison, .bsn, .scans, .bundles, .bundleSeq, .silt, .recorder, .activeEpoch, .v0, .v1, .quiet, .flt, .idn, .outbox, .msis, .orderNo, .rep, .flc, .rf, .fab, .pwr, .sec]) (rfl) _ _ _ _ _ _ ?_) (sub_refl _)
  exact Keeps.refl _
  intro y3
  with_reducible refine KeepsOut.step ?_ (fetchRow_keeps ..) ?_
  exact Keeps.refl _
  rfl

theorem execWritePacketRx_keeps (x0 : Nat) (s : State) (x2 : List (Nat × EccFind)) :
    KeepsOut [.free, .tiles, .routers, .engines, .ltMap, .absent, .regions, .fns, .ctxs, .pageList, .basin, .poison, .bsn, .scans, .bundles, .bundleSeq, .silt, .recorder, .activeEpoch, .v0, .v1, .quiet, .flt, .idn, .outbox, .msis, .orderNo, .rep, .flc, .rf, .fab, .pwr, .sec] s (execWritePacketRx x0 s x2) := by
  unfold execWritePacketRx
  with_reducible refine KeepsOut.step ?_ (meetRow_keeps (L := [.free, .tiles, .routers, .engines, .ltMap, .absent, .regions, .fns, .ctxs, .pageList, .basin, .poison, .bsn, .scans, .bundles, .bundleSeq, .silt, .recorder, .activeEpoch, .v0, .v1, .quiet, .flt, .idn, .outbox, .msis, .orderNo, .rep, .flc, .rf, .fab, .pwr, .sec]) (rfl) _ _ _ _ _ _ ?_) (sub_refl _)
  exact Keeps.refl _
  intro y2
  with_reducible refine KeepsOut.step ?_ (writePacketRow_keeps ..) ?_
  exact Keeps.refl _
  rfl

theorem execReadDataRx_keeps (x0 : Nat) (s : State) (x2 : List (Nat × EccFind)) :
    KeepsOut [.free, .tiles, .routers, .engines, .ltMap, .absent, .regions, .fns, .ctxs, .pageList, .basin, .poison, .bsn, .scans, .bundles, .bundleSeq, .silt, .recorder, .activeEpoch, .v0, .v1, .quiet, .flt, .idn, .outbox, .msis, .orderNo, .rep, .flc, .rf, .fab, .pwr, .sec] s (execReadDataRx x0 s x2) := by
  unfold execReadDataRx
  with_reducible refine KeepsOut.step ?_ (meetRow_keeps (L := [.free, .tiles, .routers, .engines, .ltMap, .absent, .regions, .fns, .ctxs, .pageList, .basin, .poison, .bsn, .scans, .bundles, .bundleSeq, .silt, .recorder, .activeEpoch, .v0, .v1, .quiet, .flt, .idn, .outbox, .msis, .orderNo, .rep, .flc, .rf, .fab, .pwr, .sec]) (rfl) _ _ _ _ _ _ ?_) (sub_refl _)
  exact Keeps.refl _
  intro y2
  with_reducible refine KeepsOut.step ?_ (readDataRow_keeps ..) ?_
  exact Keeps.refl _
  rfl

theorem execMsgPacketRx_keeps (x0 : Nat) (s : State) (x2 : List (Nat × EccFind)) :
    KeepsOut [.free, .tiles, .routers, .engines, .ltMap, .absent, .regions, .fns, .ctxs, .pageList, .basin, .poison, .bsn, .scans, .bundles, .bundleSeq, .silt, .recorder, .activeEpoch, .v0, .v1, .quiet, .flt, .idn, .outbox, .msis, .orderNo, .rep, .flc, .rf, .fab, .pwr, .sec] s (execMsgPacketRx x0 s x2) := by
  unfold execMsgPacketRx
  with_reducible refine KeepsOut.step ?_ (meetRow_keeps (L := [.free, .tiles, .routers, .engines, .ltMap, .absent, .regions, .fns, .ctxs, .pageList, .basin, .poison, .bsn, .scans, .bundles, .bundleSeq, .silt, .recorder, .activeEpoch, .v0, .v1, .quiet, .flt, .idn, .outbox, .msis, .orderNo, .rep, .flc, .rf, .fab, .pwr, .sec]) (rfl) _ _ _ _ _ _ ?_) (sub_refl _)
  exact Keeps.refl _
  intro y2
  with_reducible refine KeepsOut.step ?_ (msgPacketRow_keeps ..) ?_
  exact Keeps.refl _
  rfl

theorem execExpertRowRx_keeps (x0 : Nat) (s : State) (x2 : List (Nat × EccFind)) :
    KeepsOut [.free, .tiles, .routers, .engines, .ltMap, .absent, .regions, .fns, .ctxs, .pageList, .basin, .poison, .bsn, .scans, .bundles, .bundleSeq, .silt, .recorder, .activeEpoch, .v0, .v1, .quiet, .flt, .idn, .outbox, .msis, .orderNo, .rep, .flc, .rf, .fab, .pwr, .sec] s (execExpertRowRx x0 s x2) := by
  unfold execExpertRowRx
  with_reducible refine KeepsOut.step ?_ (meetRow_keeps (L := [.free, .tiles, .routers, .engines, .ltMap, .absent, .regions, .fns, .ctxs, .pageList, .basin, .poison, .bsn, .scans, .bundles, .bundleSeq, .silt, .recorder, .activeEpoch, .v0, .v1, .quiet, .flt, .idn, .outbox, .msis, .orderNo, .rep, .flc, .rf, .fab, .pwr, .sec]) (rfl) _ _ _ _ _ _ ?_) (sub_refl _)
  exact Keeps.refl _
  intro y2
  with_reducible refine KeepsOut.step ?_ (expertRowRow_keeps ..) ?_
  exact Keeps.refl _
  rfl

theorem execExpertCloseRx_keeps (x0 : Nat) (s : State) (x2 : List (Nat × EccFind)) :
    KeepsOut [.free, .tiles, .routers, .engines, .ltMap, .absent, .regions, .fns, .ctxs, .pageList, .basin, .poison, .bsn, .scans, .bundles, .bundleSeq, .silt, .recorder, .activeEpoch, .v0, .v1, .quiet, .flt, .idn, .outbox, .msis, .orderNo, .rep, .flc, .rf, .fab, .pwr, .sec] s (execExpertCloseRx x0 s x2) := by
  unfold execExpertCloseRx
  with_reducible refine KeepsOut.step ?_ (meetRow_keeps (L := [.free, .tiles, .routers, .engines, .ltMap, .absent, .regions, .fns, .ctxs, .pageList, .basin, .poison, .bsn, .scans, .bundles, .bundleSeq, .silt, .recorder, .activeEpoch, .v0, .v1, .quiet, .flt, .idn, .outbox, .msis, .orderNo, .rep, .flc, .rf, .fab, .pwr, .sec]) (rfl) _ _ _ _ _ _ ?_) (sub_refl _)
  exact Keeps.refl _
  intro y2
  with_reducible refine KeepsOut.step ?_ (expertCloseRow_keeps ..) ?_
  exact Keeps.refl _
  rfl

theorem execCollPacketRx_keeps (x0 : Nat) (x1 : Option Nat) (s : State) (x3 : List (Nat × EccFind)) :
    KeepsOut [.free, .tiles, .routers, .engines, .ltMap, .absent, .regions, .fns, .ctxs, .pageList, .basin, .poison, .bsn, .scans, .bundles, .bundleSeq, .silt, .recorder, .activeEpoch, .v0, .v1, .quiet, .flt, .idn, .outbox, .msis, .orderNo, .rep, .flc, .rf, .fab, .pwr, .sec] s (execCollPacketRx x0 x1 s x3) := by
  unfold execCollPacketRx
  split
  with_reducible refine KeepsOut.step ?_ (meetRow_keeps (L := [.free, .tiles, .routers, .engines, .ltMap, .absent, .regions, .fns, .ctxs, .pageList, .basin, .poison, .bsn, .scans, .bundles, .bundleSeq, .silt, .recorder, .activeEpoch, .v0, .v1, .quiet, .flt, .idn, .outbox, .msis, .orderNo, .rep, .flc, .rf, .fab, .pwr, .sec]) (rfl) _ _ _ _ _ _ ?_) (sub_refl _)
  exact Keeps.refl _
  intro y3
  with_reducible refine KeepsOut.step ?_ (collPacketRow_keeps ..) ?_
  exact Keeps.refl _
  rfl
  with_reducible refine KeepsOut.step ?_ (collPacketRow_keeps ..) ?_
  exact Keeps.refl _
  rfl

theorem resendRow_keeps {L : List Part} (hL : sub [.tiles, .routers, .engines, .ltMap, .absent, .regions, .fns, .ctxs, .pageList, .basin, .poison, .bsn, .scans, .bundles, .bundleSeq, .silt, .recorder, .activeEpoch, .v0, .v1, .quiet, .flt, .idn, .outbox, .msis, .orderNo, .rep, .flc, .rf, .fab, .pwr, .sec] L = true) (x0 : Nat) (x1 : Nat) (x2 : Nat) (s : State) (x4 : List (Nat × EccFind)) (x5 : State → Out) (h5 : ∀ a0, KeepsOut L a0 (x5 a0)) :
    KeepsOut L s (resendRow x0 x1 x2 s x4 x5) := by
  unfold resendRow
  dsimp only
  with_reducible refine KeepsOut.step ?_ (meetRow_keeps (L := L) (sub_trans rfl hL) _ _ _ _ _ _ ?_) (sub_refl _)
  exact Keeps.refl _
  intro y3
  with_reducible refine KeepsOut.step ?_ (h5 ..) (sub_refl _)
  exact Keeps.refl _

theorem execNackRbRetry_keeps (x0 : Nat) (x1 : Nat) (x2 : Nat) (s : State) (x4 : List (Nat × EccFind)) :
    KeepsOut [.tiles, .routers, .engines, .ltMap, .absent, .regions, .fns, .ctxs, .pageList, .basin, .poison, .bsn, .scans, .bundles, .bundleSeq, .silt, .recorder, .activeEpoch, .v0, .v1, .quiet, .flt, .idn, .outbox, .msis, .orderNo, .rep, .flc, .rf, .fab, .pwr, .sec] s (execNackRbRetry x0 x1 x2 s x4) := by
  unfold execNackRbRetry
  with_reducible refine KeepsOut.step ?_ (resendRow_keeps (L := [.tiles, .routers, .engines, .ltMap, .absent, .regions, .fns, .ctxs, .pageList, .basin, .poison, .bsn, .scans, .bundles, .bundleSeq, .silt, .recorder, .activeEpoch, .v0, .v1, .quiet, .flt, .idn, .outbox, .msis, .orderNo, .rep, .flc, .rf, .fab, .pwr, .sec]) (rfl) _ _ _ _ _ _ ?_) (sub_refl _)
  exact Keeps.refl _
  intro y2
  with_reducible refine KeepsOut.step ?_ (nackRbRetryRow_keeps ..) ?_
  exact Keeps.refl _
  rfl

theorem execRetransmitTimeout_keeps (x0 : Nat) (x1 : Nat) (x2 : Nat) (s : State) (x4 : List (Nat × EccFind)) :
    KeepsOut [.tiles, .routers, .engines, .ltMap, .absent, .regions, .fns, .ctxs, .pageList, .basin, .poison, .bsn, .scans, .bundles, .bundleSeq, .silt, .recorder, .activeEpoch, .v0, .v1, .quiet, .flt, .idn, .outbox, .msis, .orderNo, .rep, .flc, .rf, .fab, .pwr, .sec] s (execRetransmitTimeout x0 x1 x2 s x4) := by
  unfold execRetransmitTimeout
  with_reducible refine KeepsOut.step ?_ (resendRow_keeps (L := [.tiles, .routers, .engines, .ltMap, .absent, .regions, .fns, .ctxs, .pageList, .basin, .poison, .bsn, .scans, .bundles, .bundleSeq, .silt, .recorder, .activeEpoch, .v0, .v1, .quiet, .flt, .idn, .outbox, .msis, .orderNo, .rep, .flc, .rf, .fab, .pwr, .sec]) (rfl) _ _ _ _ _ _ ?_) (sub_refl _)
  exact Keeps.refl _
  intro y2
  with_reducible refine KeepsOut.step ?_ (retransmitRow_keeps ..) ?_
  exact Keeps.refl _
  rfl

theorem spoilCopy_keeps (s : State) (x1 : Castle) (x2 : Nat) (x3 : Nat) :
    Keeps [.rep] s (spoilCopy s x1 x2 x3) := by
  unfold spoilCopy
  with_reducible refine Keeps.set_rep (rfl) ?_
  exact Keeps.refl _

theorem copyDone_keeps (s : State) (x1 : Castle) (x2 : Nat) (x3 : Bool) :
    Keeps [.rep] s (copyDone s x1 x2 x3) := by
  unfold copyDone
  dsimp only
  with_reducible refine Keeps.set_rep (rfl) ?_
  exact Keeps.refl _

theorem execCastlingCopyDone_keeps (x0 : Nat) (x1 : Bool) (s : State) (x3 : List (Nat × EccFind)) :
    KeepsOut [.tiles, .routers, .engines, .ltMap, .absent, .regions, .fns, .ctxs, .pageList, .basin, .poison, .bsn, .scans, .bundles, .bundleSeq, .silt, .recorder, .activeEpoch, .v0, .v1, .quiet, .flt, .idn, .outbox, .msis, .orderNo, .rep, .flc, .rf, .fab, .pwr, .sec] s (execCastlingCopyDone x0 x1 s x3) := by
  unfold execCastlingCopyDone
  refine needUnit_keeps ?_
  split
  refine KeepsOut.next ?_
  exact Keeps.refl _
  split
  refine KeepsOut.next ?_
  exact Keeps.refl _
  split
  refine KeepsOut.next ?_
  exact Keeps.refl _
  dsimp only
  split
  refine KeepsOut.next ?_
  with_reducible refine Keeps.step ?_ (copyDone_keeps ..) ?_
  with_reducible refine Keeps.step ?_ (meetErrors_keeps ..) ?_
  exact Keeps.refl _
  rfl
  rfl
  split
  refine KeepsOut.next ?_
  with_reducible refine Keeps.step ?_ (spoilCopy_keeps ..) ?_
  with_reducible refine Keeps.step ?_ (meetErrors_keeps ..) ?_
  exact Keeps.refl _
  rfl
  rfl
  refine KeepsOut.next ?_
  with_reducible refine Keeps.step ?_ (meetErrors_keeps ..) ?_
  exact Keeps.refl _
  rfl

theorem ctxStoreUe_keeps (s : State) :
    Keeps [.free, .tiles, .routers, .engines, .ltMap, .absent, .regions, .fns, .ctxs, .pageList, .basin, .poison, .bsn, .scans, .bundles, .bundleSeq, .silt, .recorder, .activeEpoch, .v0, .v1, .quiet, .flt, .idn, .msis, .orderNo, .rep, .rf, .fab, .pwr, .sec] s (ctxStoreUe s) := by
  unfold ctxStoreUe
  dsimp only
  with_reducible refine Keeps.step ?_ (resetDevice_keeps ..) ?_
  with_reducible refine Keeps.step ?_ (devEvent_keeps ..) ?_
  with_reducible refine Keeps.step ?_ (takeFree_keeps ..) ?_
  with_reducible refine Keeps.set_rep (rfl) ?_
  exact Keeps.refl _
  rfl
  rfl
  rfl

theorem execSequenceAdmission_keeps (x0 : Nat) (s : State) (x2 : Bool) :
    KeepsOut [.free, .tiles, .routers, .engines, .ltMap, .absent, .regions, .fns, .ctxs, .pageList, .basin, .poison, .bsn, .scans, .bundles, .bundleSeq, .silt, .recorder, .activeEpoch, .v0, .v1, .quiet, .flt, .idn, .outbox, .msis, .orderNo, .rep, .rf, .fab, .pwr, .sec] s (execSequenceAdmission x0 s x2) := by
  unfold execSequenceAdmission
  with_reducible refine KeepsOut.step ?_ (onRegion_keeps (L := [.free, .tiles, .routers, .engines, .ltMap, .absent, .regions, .fns, .ctxs, .pageList, .basin, .poison, .bsn, .scans, .bundles, .bundleSeq, .silt, .recorder, .activeEpoch, .v0, .v1, .quiet, .flt, .idn, .outbox, .msis, .orderNo, .rep, .rf, .fab, .pwr, .sec]) (rfl) _ _ _ ?_) (sub_refl _)
  exact Keeps.refl _
  intro y2
  with_reducible refine Keeps.ite ?_ ?_
  with_reducible refine Keeps.step ?_ (ctxStoreUe_keeps ..) ?_
  exact Keeps.refl _
  rfl
  with_reducible refine Keeps.step ?_ (nextAdmission_keeps ..) ?_
  exact Keeps.refl _
  rfl

theorem execSequenceRelease_keeps (x0 : Nat) (s : State) (x2 : Bool) :
    KeepsOut [.free, .tiles, .routers, .engines, .ltMap, .absent, .regions, .fns, .ctxs, .pageList, .basin, .poison, .bsn, .scans, .bundles, .bundleSeq, .silt, .recorder, .activeEpoch, .v0, .v1, .quiet, .flt, .idn, .msis, .orderNo, .rep, .rf, .fab, .pwr, .sec] s (execSequenceRelease x0 s x2) := by
  unfold execSequenceRelease
  with_reducible refine KeepsOut.step ?_ (onRegion_keeps (L := [.free, .tiles, .routers, .engines, .ltMap, .absent, .regions, .fns, .ctxs, .pageList, .basin, .poison, .bsn, .scans, .bundles, .bundleSeq, .silt, .recorder, .activeEpoch, .v0, .v1, .quiet, .flt, .idn, .msis, .orderNo, .rep, .rf, .fab, .pwr, .sec]) (rfl) _ _ _ ?_) (sub_refl _)
  exact Keeps.refl _
  intro y2
  with_reducible refine Keeps.ite ?_ ?_
  with_reducible refine Keeps.step ?_ (ctxStoreUe_keeps ..) ?_
  exact Keeps.refl _
  rfl
  with_reducible refine Keeps.step ?_ (nextRelease_keeps ..) ?_
  exact Keeps.refl _
  rfl

theorem ctxRow_keeps {L : List Part} (hL : sub [.free, .tiles, .routers, .engines, .ltMap, .absent, .regions, .fns, .ctxs, .pageList, .basin, .poison, .bsn, .scans, .bundles, .bundleSeq, .silt, .recorder, .activeEpoch, .v0, .v1, .quiet, .flt, .idn, .msis, .orderNo, .rep, .rf, .fab, .pwr, .sec] L = true) (x0 : Nat) (x1 : Bool) (s : State) (x3 : State → Out) (h3 : ∀ a0, KeepsOut L a0 (x3 a0)) :
    KeepsOut L s (ctxRow x0 x1 s x3) := by
  unfold ctxRow
  split
  with_reducible refine KeepsOut.step ?_ (onRegion_keeps (L := L) (sub_trans rfl hL) _ _ _ ?_) (sub_refl _)
  exact Keeps.refl _
  intro y3
  with_reducible refine Keeps.step ?_ (ctxStoreUe_keeps ..) ?_
  exact Keeps.refl _
  exact hL
  with_reducible refine KeepsOut.step ?_ (h3 ..) (sub_refl _)
  exact Keeps.refl _

theorem execStepStart_keeps (x0 : Nat) (s : State) (x2 : Bool) :
    KeepsOut [.free, .tiles, .routers, .engines, .ltMap, .absent, .regions, .fns, .ctxs, .pageList, .basin, .poison, .bsn, .scans, .bundles, .bundleSeq, .silt, .recorder, .activeEpoch, .v0, .v1, .quiet, .flt, .idn, .outbox, .msis, .orderNo, .rep, .rf, .fab, .pwr, .sec] s (execStepStart x0 s x2) := by
  unfold execStepStart
  with_reducible refine KeepsOut.step ?_ (ctxRow_keeps (L := [.free, .tiles, .routers, .engines, .ltMap, .absent, .regions, .fns, .ctxs, .pageList, .basin, .poison, .bsn, .scans, .bundles, .bundleSeq, .silt, .recorder, .activeEpoch, .v0, .v1, .quiet, .flt, .idn, .outbox, .msis, .orderNo, .rep, .rf, .fab, .pwr, .sec]) (rfl) _ _ _ _ ?_) (sub_refl _)
  exact Keeps.refl _
  intro y2
  with_reducible refine KeepsOut.step ?_ (stepStartRow_keeps ..) ?_
  exact Keeps.refl _
  rfl

theorem execLocalConditionsMet_keeps (x0 : Nat) (s : State) (x2 : Bool) :
    KeepsOut [.free, .tiles, .routers, .engines, .ltMap, .absent, .regions, .fns, .ctxs, .pageList, .basin, .poison, .bsn, .scans, .bundles, .bundleSeq, .silt, .recorder, .activeEpoch, .v0, .v1, .quiet, .flt, .idn, .outbox, .msis, .orderNo, .rep, .flc, .rf, .fab, .pwr, .sec] s (execLocalConditionsMet x0 s x2) := by
  unfold execLocalConditionsMet
  with_reducible refine KeepsOut.step ?_ (ctxRow_keeps (L := [.free, .tiles, .routers, .engines, .ltMap, .absent, .regions, .fns, .ctxs, .pageList, .basin, .poison, .bsn, .scans, .bundles, .bundleSeq, .silt, .recorder, .activeEpoch, .v0, .v1, .quiet, .flt, .idn, .outbox, .msis, .orderNo, .rep, .flc, .rf, .fab, .pwr, .sec]) (rfl) _ _ _ _ ?_) (sub_refl _)
  exact Keeps.refl _
  intro y2
  with_reducible refine KeepsOut.step ?_ (localConditionsMetRow_keeps ..) ?_
  exact Keeps.refl _
  rfl

theorem execPrefixReplyRx_keeps (x0 : Nat) (x1 : PrefixReply) (s : State) (x3 : Bool) :
    KeepsOut [.free, .tiles, .routers, .engines, .ltMap, .absent, .regions, .fns, .ctxs, .pageList, .basin, .poison, .bsn, .scans, .bundles, .bundleSeq, .silt, .recorder, .activeEpoch, .v0, .v1, .quiet, .flt, .idn, .outbox, .msis, .orderNo, .rep, .rf, .fab, .pwr, .sec] s (execPrefixReplyRx x0 x1 s x3) := by
  unfold execPrefixReplyRx
  with_reducible refine KeepsOut.step ?_ (ctxRow_keeps (L := [.free, .tiles, .routers, .engines, .ltMap, .absent, .regions, .fns, .ctxs, .pageList, .basin, .poison, .bsn, .scans, .bundles, .bundleSeq, .silt, .recorder, .activeEpoch, .v0, .v1, .quiet, .flt, .idn, .outbox, .msis, .orderNo, .rep, .rf, .fab, .pwr, .sec]) (rfl) _ _ _ _ ?_) (sub_refl _)
  exact Keeps.refl _
  intro y2
  with_reducible refine KeepsOut.step ?_ (prefixReplyRow_keeps ..) ?_
  exact Keeps.refl _
  rfl

theorem execPagePushRx_keeps (x0 : Nat) (x1 : PagePush) (s : State) (x3 : Bool) :
    KeepsOut [.free, .tiles, .routers, .engines, .ltMap, .absent, .regions, .fns, .ctxs, .pageList, .basin, .poison, .bsn, .scans, .bundles, .bundleSeq, .silt, .recorder, .activeEpoch, .v0, .v1, .quiet, .flt, .idn, .outbox, .msis, .orderNo, .rep, .rf, .fab, .pwr, .sec] s (execPagePushRx x0 x1 s x3) := by
  unfold execPagePushRx
  with_reducible refine KeepsOut.step ?_ (ctxRow_keeps (L := [.free, .tiles, .routers, .engines, .ltMap, .absent, .regions, .fns, .ctxs, .pageList, .basin, .poison, .bsn, .scans, .bundles, .bundleSeq, .silt, .recorder, .activeEpoch, .v0, .v1, .quiet, .flt, .idn, .outbox, .msis, .orderNo, .rep, .rf, .fab, .pwr, .sec]) (rfl) _ _ _ _ ?_) (sub_refl _)
  exact Keeps.refl _
  intro y2
  with_reducible refine KeepsOut.step ?_ (pagePushRow_keeps ..) ?_
  exact Keeps.refl _
  rfl

theorem execCommitNoticeRx_keeps (x0 : Nat) (x1 : CommitNotice) (s : State) (x3 : Bool) :
    KeepsOut [.free, .tiles, .routers, .engines, .ltMap, .absent, .regions, .fns, .ctxs, .pageList, .basin, .poison, .bsn, .scans, .bundles, .bundleSeq, .silt, .recorder, .activeEpoch, .v0, .v1, .quiet, .flt, .idn, .msis, .orderNo, .rep, .rf, .fab, .pwr, .sec] s (execCommitNoticeRx x0 x1 s x3) := by
  unfold execCommitNoticeRx
  with_reducible refine KeepsOut.step ?_ (ctxRow_keeps (L := [.free, .tiles, .routers, .engines, .ltMap, .absent, .regions, .fns, .ctxs, .pageList, .basin, .poison, .bsn, .scans, .bundles, .bundleSeq, .silt, .recorder, .activeEpoch, .v0, .v1, .quiet, .flt, .idn, .msis, .orderNo, .rep, .rf, .fab, .pwr, .sec]) (rfl) _ _ _ _ ?_) (sub_refl _)
  exact Keeps.refl _
  intro y2
  with_reducible refine KeepsOut.step ?_ (commitNoticeRow_keeps ..) ?_
  exact Keeps.refl _
  rfl

theorem execSeqHandoffRx_keeps (x0 : Nat) (x1 : SeqHandoff) (s : State) (x3 : Bool) :
    KeepsOut [.free, .tiles, .routers, .engines, .ltMap, .absent, .regions, .fns, .ctxs, .pageList, .basin, .poison, .bsn, .scans, .bundles, .bundleSeq, .silt, .recorder, .activeEpoch, .v0, .v1, .quiet, .flt, .idn, .msis, .orderNo, .rep, .rf, .fab, .pwr, .sec] s (execSeqHandoffRx x0 x1 s x3) := by
  unfold execSeqHandoffRx
  with_reducible refine KeepsOut.step ?_ (ctxRow_keeps (L := [.free, .tiles, .routers, .engines, .ltMap, .absent, .regions, .fns, .ctxs, .pageList, .basin, .poison, .bsn, .scans, .bundles, .bundleSeq, .silt, .recorder, .activeEpoch, .v0, .v1, .quiet, .flt, .idn, .msis, .orderNo, .rep, .rf, .fab, .pwr, .sec]) (rfl) _ _ _ _ ?_) (sub_refl _)
  exact Keeps.refl _
  intro y2
  with_reducible refine KeepsOut.step ?_ (seqHandoffRow_keeps ..) ?_
  exact Keeps.refl _
  rfl

theorem execHandoffTimeout_keeps (x0 : Nat) (x1 : Nat) (s : State) (x3 : Bool) :
    KeepsOut [.free, .tiles, .routers, .engines, .ltMap, .absent, .regions, .fns, .ctxs, .pageList, .basin, .poison, .bsn, .scans, .bundles, .bundleSeq, .silt, .recorder, .activeEpoch, .v0, .v1, .quiet, .flt, .idn, .msis, .orderNo, .rep, .rf, .fab, .pwr, .sec] s (execHandoffTimeout x0 x1 s x3) := by
  unfold execHandoffTimeout
  with_reducible refine KeepsOut.step ?_ (ctxRow_keeps (L := [.free, .tiles, .routers, .engines, .ltMap, .absent, .regions, .fns, .ctxs, .pageList, .basin, .poison, .bsn, .scans, .bundles, .bundleSeq, .silt, .recorder, .activeEpoch, .v0, .v1, .quiet, .flt, .idn, .msis, .orderNo, .rep, .rf, .fab, .pwr, .sec]) (rfl) _ _ _ _ ?_) (sub_refl _)
  exact Keeps.refl _
  intro y2
  with_reducible refine KeepsOut.step ?_ (handoffTimeoutRow_keeps ..) ?_
  exact Keeps.refl _
  rfl

theorem execHandoffActivation_keeps (x0 : Nat) (x1 : Nat) (s : State) (x3 : Bool) :
    KeepsOut [.free, .tiles, .routers, .engines, .ltMap, .absent, .regions, .fns, .ctxs, .pageList, .basin, .poison, .bsn, .scans, .bundles, .bundleSeq, .silt, .recorder, .activeEpoch, .v0, .v1, .quiet, .flt, .idn, .msis, .orderNo, .rep, .rf, .fab, .pwr, .sec] s (execHandoffActivation x0 x1 s x3) := by
  unfold execHandoffActivation
  with_reducible refine KeepsOut.step ?_ (ctxRow_keeps (L := [.free, .tiles, .routers, .engines, .ltMap, .absent, .regions, .fns, .ctxs, .pageList, .basin, .poison, .bsn, .scans, .bundles, .bundleSeq, .silt, .recorder, .activeEpoch, .v0, .v1, .quiet, .flt, .idn, .msis, .orderNo, .rep, .rf, .fab, .pwr, .sec]) (rfl) _ _ _ _ ?_) (sub_refl _)
  exact Keeps.refl _
  intro y2
  with_reducible refine KeepsOut.step ?_ (handoffActivationRow_keeps ..) ?_
  exact Keeps.refl _
  rfl

end Sys2Proof.Machine
end

