-- ==== Sys2Proof/Laws/Functions.lean ====
section
/-! SUPPORT. What the operations of Machine/Functions.lean may change: for each, the parts of the state. -/

namespace Sys2Proof.Machine

theorem publishReq_keeps (s : State) (x1 : Nat) (x2 : Req) :
    Keeps [.fns, .msis] s (publishReq s x1 x2) := by
  unfold publishReq
  dsimp only
  split
  with_reducible refine Keeps.step ?_ (ringPost_keeps ..) ?_
  with_reducible refine Keeps.step ?_ (updFn_keeps ..) ?_
  exact Keeps.refl _
  rfl
  rfl
  with_reducible refine Keeps.step ?_ (ringPost_keeps ..) ?_
  with_reducible refine Keeps.step ?_ (updFn_keeps ..) ?_
  exact Keeps.refl _
  rfl
  rfl
  with_reducible refine Keeps.step ?_ (ringPost_keeps ..) ?_
  with_reducible refine Keeps.step ?_ (updFn_keeps ..) ?_
  exact Keeps.refl _
  rfl
  rfl
  with_reducible refine Keeps.step ?_ (updFn_keeps ..) ?_
  exact Keeps.refl _
  rfl

theorem abortReqs_keeps (s : State) (x1 : Nat) (x2 : Req → Bool) :
    Keeps [.fns] s (abortReqs s x1 x2) := by
  unfold abortReqs
  with_reducible refine Keeps.foldl ?_ ?_
  exact Keeps.refl _
  intro y2
  intro y3
  with_reducible refine Keeps.step ?_ (updReq_keeps ..) ?_
  exact Keeps.refl _
  rfl

theorem publishAll_keeps (s : State) (x1 : Nat) :
    Keeps [.fns, .msis] s (publishAll s x1) := by
  unfold publishAll
  with_reducible refine Keeps.foldl ?_ ?_
  exact Keeps.refl _
  intro y2
  intro y3
  with_reducible refine Keeps.step ?_ (publishReq_keeps ..) ?_
  exact Keeps.refl _
  rfl

theorem addAct_keeps (s : State) (x1 : Nat) (x2 : BAct) (x3 : Option (Nat × Nat)) :
    Keeps [.regions, .orderNo] s (addAct s x1 x2 x3) := by
  unfold addAct
  with_reducible refine Keeps.step ?_ (updRegion_keeps ..) ?_
  with_reducible refine Keeps.set_orderNo (rfl) ?_
  exact Keeps.refl _
  rfl

theorem startDisable_keeps (s : State) (x1 : Nat) (x2 : DisableKind) :
    Keeps [.regions, .fns, .msis, .orderNo] s (startDisable s x1 x2) := by
  unfold startDisable
  dsimp only
  with_reducible refine Keeps.ite ?_ ?_
  with_reducible refine Keeps.foldl ?_ ?_
  with_reducible refine Keeps.step ?_ (raiseCause_keeps ..) ?_
  with_reducible refine Keeps.step ?_ (setFn_keeps ..) ?_
  exact Keeps.refl _
  rfl
  rfl
  intro y8
  intro y9
  with_reducible refine Keeps.ite ?_ ?_
  with_reducible refine Keeps.ite ?_ ?_
  with_reducible refine Keeps.step ?_ (addAct_keeps ..) ?_
  exact Keeps.refl _
  rfl
  exact Keeps.refl _
  with_reducible refine Keeps.step ?_ (addAct_keeps ..) ?_
  with_reducible refine Keeps.ite ?_ ?_
  with_reducible refine Keeps.step ?_ (addAct_keeps ..) ?_
  exact Keeps.refl _
  rfl
  exact Keeps.refl _
  rfl
  with_reducible refine Keeps.step ?_ (abortReqs_keeps ..) ?_
  with_reducible refine Keeps.foldl ?_ ?_
  with_reducible refine Keeps.step ?_ (raiseCause_keeps ..) ?_
  with_reducible refine Keeps.step ?_ (setFn_keeps ..) ?_
  exact Keeps.refl _
  rfl
  rfl
  intro y30
  intro y31
  with_reducible refine Keeps.ite ?_ ?_
  with_reducible refine Keeps.ite ?_ ?_
  with_reducible refine Keeps.step ?_ (addAct_keeps ..) ?_
  exact Keeps.refl _
  rfl
  exact Keeps.refl _
  with_reducible refine Keeps.step ?_ (addAct_keeps ..) ?_
  with_reducible refine Keeps.ite ?_ ?_
  with_reducible refine Keeps.step ?_ (addAct_keeps ..) ?_
  exact Keeps.refl _
  rfl
  exact Keeps.refl _
  rfl
  rfl

theorem destroyNow_keeps (s : State) (x1 : Nat) :
    Keeps [.free, .tiles, .routers, .engines, .regions, .fns, .ctxs, .pageList, .basin, .poison, .bsn, .scans, .bundles, .bundleSeq, .silt, .recorder, .flt, .idn, .outbox, .msis, .rep, .flc, .rf, .fab, .pwr, .sec] s (destroyNow s x1) := by
  unfold destroyNow
  with_reducible refine Keeps.step ?_ (withRegion_keeps (L := [.free, .tiles, .routers, .engines, .regions, .fns, .ctxs, .pageList, .basin, .poison, .bsn, .scans, .bundles, .bundleSeq, .silt, .recorder, .flt, .idn, .outbox, .msis, .rep, .flc, .rf, .fab, .pwr, .sec]) (rfl) _ _ _ ?_) (sub_refl _)
  exact Keeps.refl _
  intro y2
  dsimp only
  with_reducible refine Keeps.step ?_ (destroyRegion_keeps ..) ?_
  with_reducible refine Keeps.step ?_ (stopRegion_keeps ..) ?_
  with_reducible refine Keeps.ite ?_ ?_
  exact Keeps.refl _
  with_reducible refine Keeps.step ?_ (settleCharges_keeps ..) ?_
  with_reducible refine Keeps.step ?_ (stepDiscard_keeps ..) ?_
  exact Keeps.refl _
  rfl
  rfl
  rfl
  rfl

theorem endDrain_keeps (s : State) (x1 : Nat) (x2 : DisableKind) :
    Keeps [.free, .tiles, .routers, .engines, .regions, .fns, .ctxs, .pageList, .basin, .poison, .bsn, .scans, .bundles, .bundleSeq, .silt, .recorder, .flt, .idn, .outbox, .msis, .rep, .flc, .rf, .fab, .pwr, .sec] s (endDrain s x1 x2) := by
  unfold endDrain
  dsimp only
  with_reducible refine Keeps.ite ?_ ?_
  with_reducible refine Keeps.step ?_ (raiseCause_keeps ..) ?_
  with_reducible refine Keeps.foldl ?_ ?_
  with_reducible refine Keeps.step ?_ (updFn_keeps ..) ?_
  with_reducible refine Keeps.step ?_ (publishAll_keeps ..) ?_
  with_reducible refine Keeps.step ?_ (abortReqs_keeps ..) ?_
  with_reducible refine Keeps.ite ?_ ?_
  exact Keeps.refl _
  with_reducible refine Keeps.foldl ?_ ?_
  exact Keeps.refl _
  intro y11
  intro y12
  with_reducible refine Keeps.step ?_ (destroyNow_keeps ..) ?_
  exact Keeps.refl _
  rfl
  rfl
  rfl
  rfl
  intro y19
  intro y20
  with_reducible refine Keeps.step ?_ (finishReq_keeps ..) ?_
  exact Keeps.refl _
  rfl
  rfl
  with_reducible refine Keeps.step ?_ (raiseCause_keeps ..) ?_
  with_reducible refine Keeps.step ?_ (setFn_keeps ..) ?_
  with_reducible refine Keeps.step ?_ (publishAll_keeps ..) ?_
  with_reducible refine Keeps.step ?_ (abortReqs_keeps ..) ?_
  with_reducible refine Keeps.ite ?_ ?_
  exact Keeps.refl _
  with_reducible refine Keeps.foldl ?_ ?_
  exact Keeps.refl _
  intro y33
  intro y34
  with_reducible refine Keeps.step ?_ (destroyNow_keeps ..) ?_
  exact Keeps.refl _
  rfl
  rfl
  rfl
  rfl
  rfl

theorem execFunctionDrainLimit_keeps (x0 : Nat) (s : State) :
    KeepsOut [.free, .tiles, .routers, .engines, .regions, .fns, .ctxs, .pageList, .basin, .poison, .bsn, .scans, .bundles, .bundleSeq, .silt, .recorder, .flt, .idn, .outbox, .msis, .rep, .flc, .rf, .fab, .pwr, .sec] s (execFunctionDrainLimit x0 s) := by
  unfold execFunctionDrainLimit
  refine needUnit_keeps ?_
  split
  refine whenB_keeps2 ?_ ?_
  exact Keeps.refl _
  with_reducible refine Keeps.step ?_ (endDrain_keeps ..) ?_
  exact Keeps.refl _
  rfl
  refine KeepsOut.next ?_
  exact Keeps.refl _

theorem execVfFlr_keeps (x0 : Nat) (s : State) :
    KeepsOut [.regions, .fns, .msis, .orderNo] s (execVfFlr x0 s) := by
  unfold execVfFlr
  refine needUnit_keeps ?_
  refine whenB_keeps2 ?_ ?_
  exact Keeps.refl _
  with_reducible refine Keeps.step ?_ (startDisable_keeps ..) ?_
  exact Keeps.refl _
  rfl

theorem execVfEnableCleared_keeps (s : State) :
    KeepsOut [.regions, .fns, .idn, .msis, .orderNo] s (execVfEnableCleared s) := by
  unfold execVfEnableCleared
  refine KeepsOut.next ?_
  with_reducible refine Keeps.foldl ?_ ?_
  with_reducible refine Keeps.set_idn (rfl) ?_ ?_ ?_
  with_reducible exact fun h => ⟨h.1, h.2, h.3, h.4, h.5, h.6, h.7, h.8, h.9, h.10⟩
  exact ⟨Nat.le_refl _, Nat.le_refl _, rfl, rfl, rfl, rfl, rfl⟩
  exact Keeps.refl _
  intro y6
  intro y7
  with_reducible refine Keeps.step ?_ (startDisable_keeps ..) ?_
  exact Keeps.refl _
  rfl

theorem stopFunctions_keeps (s : State) :
    Keeps [.regions, .fns, .msis, .orderNo] s (stopFunctions s) := by
  unfold stopFunctions
  with_reducible refine Keeps.foldl ?_ ?_
  exact Keeps.refl _
  intro y2
  intro y3
  with_reducible refine Keeps.step ?_ (startDisable_keeps ..) ?_
  exact Keeps.refl _
  rfl

theorem execPfFlrOrLinkDown_keeps (x0 : PfStop) (s : State) :
    KeepsOut [.regions, .fns, .msis, .orderNo] s (execPfFlrOrLinkDown x0 s) := by
  unfold execPfFlrOrLinkDown
  refine KeepsOut.next ?_
  with_reducible refine Keeps.step ?_ (stopFunctions_keeps ..) ?_
  exact Keeps.refl _
  rfl

theorem execFwDead_keeps (s : State) :
    KeepsOut [.fns, .msis] s (execFwDead s) := by
  unfold execFwDead
  refine whenB_keeps2 ?_ ?_
  exact Keeps.refl _
  with_reducible refine Keeps.foldl ?_ ?_
  exact Keeps.refl _
  intro y4
  intro y5
  with_reducible refine Keeps.step ?_ (raiseCause_keeps ..) ?_
  exact Keeps.refl _
  rfl

theorem execHostBeatMissed_keeps (x0 : Nat) (s : State) :
    KeepsOut [.regions, .fns, .recorder, .flt, .msis, .orderNo] s (execHostBeatMissed x0 s) := by
  unfold execHostBeatMissed
  refine needUnit_keeps ?_
  dsimp only
  split
  refine KeepsOut.next ?_
  exact Keeps.refl _
  refine KeepsOut.next ?_
  with_reducible refine Keeps.ite ?_ ?_
  with_reducible refine Keeps.foldl ?_ ?_
  with_reducible refine Keeps.step ?_ (postEvent_keeps ..) ?_
  with_reducible refine Keeps.step ?_ (setFn_keeps ..) ?_
  exact Keeps.refl _
  rfl
  rfl
  intro y13
  intro y14
  with_reducible refine Keeps.ite ?_ ?_
  with_reducible refine Keeps.step ?_ (addAct_keeps ..) ?_
  exact Keeps.refl _
  rfl
  exact Keeps.refl _
  with_reducible refine Keeps.step ?_ (postEvent_keeps ..) ?_
  with_reducible refine Keeps.step ?_ (setFn_keeps ..) ?_
  exact Keeps.refl _
  rfl
  rfl

theorem watchdogReset_keeps (s : State) (x1 : Nat) :
    Keeps [.fns, .recorder, .flt, .msis, .pwr] s (watchdogReset s x1) := by
  unfold watchdogReset
  dsimp only
  with_reducible refine Keeps.set_pwr (rfl) ?_
  with_reducible refine Keeps.step ?_ (devEvent_keeps ..) ?_
  exact Keeps.refl _
  rfl

theorem execMcCoreWatchdog_keeps (x0 : List Nat) (s : State) :
    KeepsOut [.fns, .recorder, .flt, .msis, .pwr] s (execMcCoreWatchdog x0 s) := by
  unfold execMcCoreWatchdog
  dsimp only
  split
  split
  refine KeepsOut.next ?_
  with_reducible refine Keeps.step ?_ (watchdogReset_keeps ..) ?_
  exact Keeps.refl _
  rfl
  refine KeepsOut.next ?_
  exact Keeps.refl _
  split
  refine KeepsOut.next ?_
  exact Keeps.refl _
  refine KeepsOut.next ?_
  with_reducible refine Keeps.foldl ?_ ?_
  with_reducible refine Keeps.set_pwr (rfl) ?_
  exact Keeps.refl _
  intro y16
  intro y17
  with_reducible refine Keeps.step ?_ (updFn_keeps ..) ?_
  exact Keeps.refl _
  rfl
  refine KeepsOut.next ?_
  with_reducible refine Keeps.step ?_ (watchdogReset_keeps ..) ?_
  exact Keeps.refl _
  rfl

end Sys2Proof.Machine
end

