-- ==== Sys2Proof/Laws/Bringup.lean ====
section
/-! SUPPORT. What the operations of Machine/Bringup.lean may change: for each, the parts of the state. -/

namespace Sys2Proof.Machine

theorem buildMap_keeps (s : State) :
    Keeps [.tiles, .ltMap, .absent] s (buildMap s) := by
  unfold buildMap
  dsimp only
  with_reducible refine Keeps.foldl ?_ ?_
  with_reducible refine Keeps.set_ltMap_absent (rfl) ?_
  exact Keeps.refl _
  intro y4
  intro y5
  with_reducible refine Keeps.step ?_ (setTilePos_keeps ..) ?_
  exact Keeps.refl _
  rfl

theorem unwrapNs_keeps (s : State) :
    Keeps [.silt] s (unwrapNs s) := by
  unfold unwrapNs
  with_reducible refine Keeps.step ?_ (updSilt_keeps ..) ?_
  exact Keeps.refl _
  rfl

theorem journalReplay_keeps (s : State) :
    Keeps [.silt] s (journalReplay s) := by
  unfold journalReplay
  with_reducible refine Keeps.step ?_ (unwrapNs_keeps ..) ?_
  with_reducible refine Keeps.step ?_ (updSilt_keeps ..) ?_
  exact Keeps.refl _
  rfl
  rfl

theorem updDieTiles_keeps (s : State) (x1 : Nat) (x2 : Tile → Tile) :
    Keeps [.tiles] s (updDieTiles s x1 x2) := by
  unfold updDieTiles
  with_reducible refine Keeps.foldl ?_ ?_
  exact Keeps.refl _
  intro y2
  intro y3
  with_reducible refine Keeps.step ?_ (setTilePos_keeps ..) ?_
  exact Keeps.refl _
  rfl

theorem zeroizeDie_keeps (s : State) (x1 : Nat) :
    Keeps [.tiles, .silt, .rep, .sec] s (zeroizeDie s x1) := by
  unfold zeroizeDie
  dsimp only
  with_reducible refine Keeps.ite ?_ ?_
  with_reducible refine Keeps.set_silt_sec (rfl) ?_ ?_ ?_
  with_reducible exact fun h => ⟨h.1, h.2, h.3, h.4, h.5, h.6, h.7, h.8, h.9, h.10⟩
  exact ⟨Nat.le_refl _, Nat.le_refl _, rfl, rfl, rfl, rfl, rfl⟩
  with_reducible refine Keeps.step ?_ (updDieTiles_keeps ..) ?_
  with_reducible refine Keeps.set_rep (rfl) ?_
  exact Keeps.refl _
  rfl
  with_reducible refine Keeps.step ?_ (updDieTiles_keeps ..) ?_
  with_reducible refine Keeps.set_rep (rfl) ?_
  exact Keeps.refl _
  rfl

theorem startRun_keeps (s : State) (x1 : Nat) :
    Keeps [.rep, .pwr] s (startRun s x1) := by
  unfold startRun
  dsimp only
  with_reducible refine Keeps.set_rep_pwr (rfl) ?_
  exact Keeps.refl _

theorem serviceClocks_keeps (s : State) :
    Keeps [.pwr] s (serviceClocks s) := by
  unfold serviceClocks
  with_reducible refine Keeps.set_pwr (rfl) ?_
  exact Keeps.refl _

theorem testPalacy_keeps (s : State) (x1 : Nat) (x2 : Nat) (x3 : Nat) (x4 : Nat) (x5 : Charge → Charge) :
    Keeps [.fns, .recorder, .flt, .msis] s (testPalacy s x1 x2 x3 x4 x5) := by
  unfold testPalacy
  with_reducible refine Keeps.step ?_ (palacy_keeps ..) ?_
  exact Keeps.refl _
  rfl

theorem failPosition_keeps (s : State) (x1 : Nat) :
    Keeps [.rep] s (failPosition s x1) := by
  unfold failPosition
  with_reducible refine Keeps.set_rep (rfl) ?_
  exact Keeps.refl _

theorem noteMacros_keeps (s : State) (x1 : PosResult) :
    Keeps [.fns, .recorder, .flt, .msis, .rep] s (noteMacros s x1) := by
  unfold noteMacros
  with_reducible refine Keeps.foldl ?_ ?_
  exact Keeps.refl _
  intro y2
  intro y3
  split
  dsimp only
  with_reducible refine Keeps.step ?_ (testPalacy_keeps ..) ?_
  with_reducible refine Keeps.ite ?_ ?_
  with_reducible refine Keeps.set_rep (rfl) ?_
  exact Keeps.refl _
  exact Keeps.refl _
  rfl

theorem notePosition_keeps (s : State) (x1 : PosResult) :
    Keeps [.routers, .fns, .recorder, .flt, .msis, .rep] s (notePosition s x1) := by
  unfold notePosition
  with_reducible refine Keeps.ite ?_ ?_
  exact Keeps.refl _
  dsimp only
  with_reducible refine Keeps.ite ?_ ?_
  with_reducible refine Keeps.ite ?_ ?_
  with_reducible refine Keeps.step ?_ (testPalacy_keeps ..) ?_
  with_reducible refine Keeps.step ?_ (failPosition_keeps ..) ?_
  with_reducible refine Keeps.ite ?_ ?_
  with_reducible refine Keeps.step ?_ (updRouter_keeps ..) ?_
  with_reducible refine Keeps.step ?_ (noteMacros_keeps ..) ?_
  exact Keeps.refl _
  rfl
  rfl
  with_reducible refine Keeps.step ?_ (noteMacros_keeps ..) ?_
  exact Keeps.refl _
  rfl
  rfl
  rfl
  with_reducible refine Keeps.ite ?_ ?_
  with_reducible refine Keeps.step ?_ (testPalacy_keeps ..) ?_
  with_reducible refine Keeps.step ?_ (failPosition_keeps ..) ?_
  with_reducible refine Keeps.ite ?_ ?_
  with_reducible refine Keeps.step ?_ (updRouter_keeps ..) ?_
  with_reducible refine Keeps.step ?_ (noteMacros_keeps ..) ?_
  exact Keeps.refl _
  rfl
  rfl
  with_reducible refine Keeps.step ?_ (noteMacros_keeps ..) ?_
  exact Keeps.refl _
  rfl
  rfl
  rfl
  with_reducible refine Keeps.step ?_ (failPosition_keeps ..) ?_
  with_reducible refine Keeps.ite ?_ ?_
  with_reducible refine Keeps.step ?_ (updRouter_keeps ..) ?_
  with_reducible refine Keeps.step ?_ (noteMacros_keeps ..) ?_
  exact Keeps.refl _
  rfl
  rfl
  with_reducible refine Keeps.step ?_ (noteMacros_keeps ..) ?_
  exact Keeps.refl _
  rfl
  rfl
  with_reducible refine Keeps.ite ?_ ?_
  with_reducible refine Keeps.step ?_ (updRouter_keeps ..) ?_
  with_reducible refine Keeps.step ?_ (noteMacros_keeps ..) ?_
  exact Keeps.refl _
  rfl
  rfl
  with_reducible refine Keeps.step ?_ (noteMacros_keeps ..) ?_
  exact Keeps.refl _
  rfl

theorem enterP3_keeps (s : State) :
    Keeps [.tiles, .routers, .engines, .ltMap, .absent, .regions, .fns, .ctxs, .pageList, .basin, .poison, .bsn, .scans, .bundles, .bundleSeq, .silt, .recorder, .activeEpoch, .v0, .v1, .quiet, .flt, .idn, .orderNo, .rep, .rf, .fab, .pwr, .sec] s (enterP3 s) := by
  unfold enterP3
  dsimp only
  with_reducible refine Keeps.set_fns_flt_pwr (rfl) ?_ ?_ ?_
  refine fun h => ⟨?_, ?_, ?_, ?_, ?_, ?_, ?_, ?_, ?_, ?_⟩
  with_reducible exact h.1
  with_reducible exact h.2
  with_reducible exact h.3
  with_reducible exact h.4
  with_reducible exact h.5
  exact Nat.le_of_ble_eq_true rfl
  with_reducible exact h.7
  with_reducible exact h.8
  with_reducible exact h.9
  with_reducible exact h.10
  exact ⟨Nat.le_refl _, Nat.le_refl _, rfl, rfl, rfl, rfl, rfl⟩
  with_reducible refine Keeps.step ?_ (clearDevice_keeps ..) ?_
  exact Keeps.refl _
  rfl

theorem finishStart_keeps (s : State) : Keeps [.tiles, .routers, .ltMap, .absent, .silt, .flt, .sec] s (finishStart s) := by
  have h : Keeps [.tiles, .routers, .ltMap, .absent, .silt, .flt, .sec] s (journalReplay (setFootprints (buildMap s))) :=
    (((buildMap_keeps s).mono rfl).step (setFootprints_keeps ..) rfl).step (journalReplay_keeps ..) rfl
  unfold finishStart
  generalize journalReplay (setFootprints (buildMap s)) = u at h ⊢
  refine Keeps.set_flt_sec rfl (fun h => ⟨h.1, h.2, h.3, h.4, h.5, Nat.le_of_ble_eq_true rfl, h.7, h.8, h.9, h.10⟩) ?_ h
  exact ⟨Nat.le_refl _, Nat.le_refl _, rfl, rfl, rfl, rfl, rfl⟩

theorem endTest_keeps (s : State) (x1 : TestRun) :
    Keeps [.tiles, .routers, .engines, .ltMap, .absent, .regions, .fns, .ctxs, .pageList, .basin, .poison, .bsn, .scans, .bundles, .bundleSeq, .silt, .recorder, .activeEpoch, .v0, .v1, .quiet, .flt, .idn, .msis, .orderNo, .rep, .rf, .fab, .pwr, .sec] s (endTest s x1) := by
  unfold endTest
  dsimp only
  with_reducible refine Keeps.ite ?_ ?_
  with_reducible refine Keeps.step ?_ (enterP3_keeps ..) ?_
  with_reducible refine Keeps.set_rep (rfl) ?_
  with_reducible refine Keeps.step ?_ (serviceClocks_keeps ..) ?_
  with_reducible refine Keeps.set_rep (rfl) ?_
  exact Keeps.refl _
  rfl
  rfl
  with_reducible refine Keeps.ite ?_ ?_
  with_reducible refine Keeps.step ?_ (serviceClocks_keeps ..) ?_
  with_reducible refine Keeps.set_rep (rfl) ?_
  exact Keeps.refl _
  rfl
  with_reducible refine Keeps.ite ?_ ?_
  with_reducible refine Keeps.ite ?_ ?_
  with_reducible refine Keeps.step ?_ (haltStart_keeps ..) ?_
  with_reducible refine Keeps.step ?_ (serviceClocks_keeps ..) ?_
  with_reducible refine Keeps.set_rep (rfl) ?_
  exact Keeps.refl _
  rfl
  rfl
  with_reducible refine Keeps.step ?_ (startRun_keeps ..) ?_
  with_reducible refine Keeps.set_rep (rfl) ?_
  with_reducible refine Keeps.step ?_ (serviceClocks_keeps ..) ?_
  with_reducible refine Keeps.set_rep (rfl) ?_
  exact Keeps.refl _
  rfl
  rfl
  with_reducible refine Keeps.step ?_ (finishStart_keeps ..) ?_
  with_reducible refine Keeps.step ?_ (serviceClocks_keeps ..) ?_
  with_reducible refine Keeps.set_rep (rfl) ?_
  exact Keeps.refl _
  rfl
  rfl

theorem execSelfTestDone_keeps (x0 : Nat) (x1 : Nat) (x2 : Nat) (x3 : Nat) (x4 : List PosResult) (s : State) :
    KeepsOut [.tiles, .routers, .engines, .ltMap, .absent, .regions, .fns, .ctxs, .pageList, .basin, .poison, .bsn, .scans, .bundles, .bundleSeq, .silt, .recorder, .activeEpoch, .v0, .v1, .quiet, .flt, .idn, .msis, .orderNo, .rep, .rf, .fab, .pwr, .sec] s (execSelfTestDone x0 x1 x2 x3 x4 s) := by
  unfold execSelfTestDone
  split
  refine KeepsOut.next ?_
  exact Keeps.refl _
  dsimp only
  split
  refine KeepsOut.next ?_
  exact Keeps.refl _
  split
  refine KeepsOut.next ?_
  with_reducible refine Keeps.step ?_ (endTest_keeps ..) ?_
  exact Keeps.refl _
  rfl
  refine KeepsOut.next ?_
  with_reducible refine Keeps.ite ?_ ?_
  with_reducible refine Keeps.step ?_ (endTest_keeps ..) ?_
  with_reducible refine Keeps.foldl ?_ ?_
  with_reducible refine Keeps.step ?_ (zeroizeDie_keeps ..) ?_
  with_reducible refine Keeps.step ?_ (zeroizeDie_keeps ..) ?_
  exact Keeps.refl _
  rfl
  rfl
  intro y21
  intro y22
  with_reducible refine Keeps.step ?_ (notePosition_keeps ..) ?_
  exact Keeps.refl _
  rfl
  rfl
  with_reducible refine Keeps.set_rep (rfl) ?_
  with_reducible refine Keeps.foldl ?_ ?_
  with_reducible refine Keeps.step ?_ (zeroizeDie_keeps ..) ?_
  with_reducible refine Keeps.step ?_ (zeroizeDie_keeps ..) ?_
  exact Keeps.refl _
  rfl
  rfl
  intro y34
  intro y35
  with_reducible refine Keeps.step ?_ (notePosition_keeps ..) ?_
  exact Keeps.refl _
  rfl

theorem execZeroizeTimeout_keeps (x0 : Nat) (s : State) :
    KeepsOut [.tiles, .fns, .recorder, .flt, .msis, .rep] s (execZeroizeTimeout x0 s) := by
  unfold execZeroizeTimeout
  refine needUnit_keeps ?_
  split
  refine KeepsOut.next ?_
  exact Keeps.refl _
  split
  refine KeepsOut.next ?_
  exact Keeps.refl _
  dsimp only
  refine KeepsOut.next ?_
  with_reducible refine Keeps.step ?_ (testPalacy_keeps ..) ?_
  with_reducible refine Keeps.set_rep (rfl) ?_
  with_reducible refine Keeps.step ?_ (failPosition_keeps ..) ?_
  with_reducible refine Keeps.step ?_ (setTilePos_keeps ..) ?_
  exact Keeps.refl _
  rfl
  rfl
  rfl

theorem broadcast_keeps (s : State) (x1 : List Nat) :
    Keeps [.fns, .recorder, .flt, .msis, .rep] s (broadcast s x1) := by
  unfold broadcast
  with_reducible refine Keeps.foldl ?_ ?_
  exact Keeps.refl _
  intro y2
  intro y3
  with_reducible refine Keeps.step ?_ (posEvent_keeps ..) ?_
  with_reducible refine Keeps.step ?_ (failPosition_keeps ..) ?_
  exact Keeps.refl _
  rfl
  rfl

theorem enableSaved_keeps (s : State) :
    Keeps [.fns, .recorder, .flt, .outbox, .msis, .fab] s (enableSaved s) := by
  unfold enableSaved
  with_reducible refine Keeps.foldl ?_ ?_
  exact Keeps.refl _
  intro y2
  intro y3
  with_reducible refine Keeps.ite ?_ ?_
  with_reducible refine Keeps.step ?_ (enablePort_keeps ..) ?_
  with_reducible refine Keeps.step ?_ (updPort_keeps ..) ?_
  exact Keeps.refl _
  rfl
  rfl
  exact Keeps.refl _

theorem basinStart_keeps (s : State) (x1 : List Bool) :
    Keeps [.fns, .recorder, .flt, .msis, .rep] s (basinStart s x1) := by
  unfold basinStart
  dsimp only
  with_reducible refine Keeps.ite ?_ ?_
  with_reducible refine Keeps.set_rep (rfl) ?_
  exact Keeps.refl _
  with_reducible refine Keeps.foldl ?_ ?_
  with_reducible refine Keeps.step ?_ (setBootError_keeps ..) ?_
  with_reducible refine Keeps.set_rep (rfl) ?_
  exact Keeps.refl _
  rfl
  intro y9
  intro y10
  with_reducible refine Keeps.step ?_ (devEvent_keeps ..) ?_
  exact Keeps.refl _
  rfl

theorem execFirmwareStart_keeps (x0 : List Bool) (x1 : List Nat) (s : State) (x3 : List (Nat × ParamPage)) (x4 : optParam SiltStart { }) :
    KeepsOut [.tiles, .routers, .ltMap, .absent, .fns, .silt, .recorder, .flt, .idn, .outbox, .msis, .rep, .fab, .pwr, .sec] s (execFirmwareStart x0 x1 s x3 x4) := by
  unfold execFirmwareStart
  split
  refine KeepsOut.next ?_
  exact Keeps.refl _
  dsimp only
  refine KeepsOut.next ?_
  with_reducible refine Keeps.ite ?_ ?_
  with_reducible refine Keeps.step ?_ (finishStart_keeps ..) ?_
  with_reducible refine Keeps.step ?_ (enableSaved_keeps ..) ?_
  with_reducible refine Keeps.step ?_ (broadcast_keeps ..) ?_
  with_reducible refine Keeps.step ?_ (startSilt_keeps ..) ?_
  with_reducible refine Keeps.step ?_ (readParamPages_keeps ..) ?_
  with_reducible refine Keeps.step ?_ (basinStart_keeps ..) ?_
  with_reducible refine Keeps.set_flt_idn_rep_fab_sec (rfl) ?_ ?_ ?_
  refine fun h => ⟨?_, ?_, ?_, ?_, ?_, ?_, ?_, ?_, ?_, ?_⟩
  with_reducible exact h.1
  exact stored_getD h.3
  with_reducible exact h.3
  with_reducible exact h.4
  with_reducible exact h.5
  with_reducible exact h.6
  with_reducible exact h.7
  with_reducible exact h.8
  with_reducible exact h.9
  with_reducible exact h.10
  exact ⟨Nat.le_refl _, Nat.le_refl _, rfl, rfl, rfl, rfl, rfl⟩
  exact Keeps.refl _
  rfl
  rfl
  rfl
  rfl
  rfl
  rfl
  with_reducible refine Keeps.step ?_ (startRun_keeps ..) ?_
  with_reducible refine Keeps.set_flt (rfl) ?_ ?_ ?_
  refine fun h => ⟨?_, ?_, ?_, ?_, ?_, ?_, ?_, ?_, ?_, ?_⟩
  with_reducible exact h.1
  with_reducible exact h.2
  with_reducible exact h.3
  with_reducible exact h.4
  with_reducible exact h.5
  exact Nat.le_of_ble_eq_true rfl
  with_reducible exact h.7
  with_reducible exact h.8
  with_reducible exact h.9
  with_reducible exact h.10
  exact ⟨Nat.le_refl _, Nat.le_refl _, rfl, rfl, rfl, rfl, rfl⟩
  with_reducible refine Keeps.step ?_ (enableSaved_keeps ..) ?_
  with_reducible refine Keeps.step ?_ (broadcast_keeps ..) ?_
  with_reducible refine Keeps.step ?_ (startSilt_keeps ..) ?_
  with_reducible refine Keeps.step ?_ (readParamPages_keeps ..) ?_
  with_reducible refine Keeps.step ?_ (basinStart_keeps ..) ?_
  with_reducible refine Keeps.set_flt_idn_rep_fab_sec (rfl) ?_ ?_ ?_
  refine fun h => ⟨?_, ?_, ?_, ?_, ?_, ?_, ?_, ?_, ?_, ?_⟩
  with_reducible exact h.1
  exact stored_getD h.3
  with_reducible exact h.3
  with_reducible exact h.4
  with_reducible exact h.5
  with_reducible exact h.6
  with_reducible exact h.7
  with_reducible exact h.8
  with_reducible exact h.9
  with_reducible exact h.10
  exact ⟨Nat.le_refl _, Nat.le_refl _, rfl, rfl, rfl, rfl, rfl⟩
  exact Keeps.refl _
  rfl
  rfl
  rfl
  rfl
  rfl
  rfl

theorem execPmeTurnOff_keeps (s : State) :
    KeepsOut [.regions, .fns, .silt, .recorder, .flt, .msis, .orderNo, .rep, .pwr] s (execPmeTurnOff s) := by
  unfold execPmeTurnOff
  split
  refine KeepsOut.next ?_
  exact Keeps.refl _
  split
  dsimp only
  refine KeepsOut.next ?_
  with_reducible refine Keeps.step ?_ (startRun_keeps ..) ?_
  with_reducible refine Keeps.step ?_ (checkpointNow_keeps ..) ?_
  with_reducible refine Keeps.step ?_ (flushRecords_keeps ..) ?_
  with_reducible refine Keeps.foldl ?_ ?_
  exact Keeps.refl _
  intro y11
  intro y12
  with_reducible refine Keeps.step ?_ (publishAll_keeps ..) ?_
  exact Keeps.refl _
  rfl
  rfl
  rfl
  rfl
  dsimp only
  refine KeepsOut.next ?_
  with_reducible refine Keeps.foldl ?_ ?_
  exact Keeps.refl _
  intro y23
  intro y24
  with_reducible refine Keeps.step ?_ (addAct_keeps ..) ?_
  exact Keeps.refl _
  rfl

end Sys2Proof.Machine
end

