-- ==== Sys2Proof/Laws/Shadows.lean ====
section
/-! SUPPORT. What the operations of Machine/Shadows.lean may change: for each, the parts of the state. -/

namespace Sys2Proof.Machine

theorem execDigestBlameRx_keeps (x0 : Nat) (x1 : Nat) (x2 : Nat) (x3 : Nat) (s : State) :
    KeepsOut [.tiles, .routers, .engines, .regions, .fns, .recorder, .flt, .idn, .outbox, .msis, .rep, .flc, .rf, .pwr] s (execDigestBlameRx x0 x1 x2 x3 s) := by
  unfold execDigestBlameRx
  refine needUnit_keeps ?_
  dsimp only
  refine KeepsOut.next ?_
  with_reducible refine Keeps.step ?_ (charge_keeps ..) ?_
  exact Keeps.refl _
  rfl

theorem execDigestWalkStart_keeps (x0 : Nat) (s : State) :
    KeepsOut [.rf] s (execDigestWalkStart x0 s) := by
  unfold execDigestWalkStart
  with_reducible refine KeepsOut.step ?_ (onRegion_keeps (L := [.rf]) (rfl) _ _ _ ?_) (sub_refl _)
  exact Keeps.refl _
  intro y2
  with_reducible refine Keeps.ite ?_ ?_
  with_reducible refine Keeps.step ?_ (updRf_keeps ..) ?_
  exact Keeps.refl _
  rfl
  exact Keeps.refl _

theorem addRefill_keeps (s : State) (x1 : Nat) (x2 : Nat) :
    Keeps [.regions, .orderNo] s (addRefill s x1 x2) := by
  unfold addRefill
  with_reducible refine Keeps.ite ?_ ?_
  exact Keeps.refl _
  with_reducible refine Keeps.step ?_ (addAct_keeps ..) ?_
  exact Keeps.refl _
  rfl

theorem corrupt_keeps (s : State) (x1 : Nat) (x2 : Region) (x3 : Image) (x4 : Nat) (x5 : Nat) (x6 : Node) :
    Keeps [.tiles, .routers, .engines, .regions, .fns, .recorder, .flt, .idn, .outbox, .msis, .orderNo, .rep, .flc, .rf, .pwr] s (corrupt s x1 x2 x3 x4 x5 x6) := by
  unfold corrupt
  dsimp only
  with_reducible refine Keeps.foldl ?_ ?_
  with_reducible refine Keeps.step ?_ (addRefill_keeps ..) ?_
  with_reducible refine Keeps.step ?_ (tileEvent_keeps ..) ?_
  exact Keeps.refl _
  rfl
  rfl
  intro y7
  intro y8
  with_reducible refine Keeps.step ?_ (charge_keeps ..) ?_
  with_reducible refine Keeps.step ?_ (palacy_keeps ..) ?_
  exact Keeps.refl _
  rfl
  rfl

theorem execDigestWalkEnd_keeps (x0 : Nat) (s : State) :
    KeepsOut [.tiles, .routers, .engines, .regions, .fns, .recorder, .flt, .idn, .outbox, .msis, .orderNo, .rep, .flc, .rf, .pwr] s (execDigestWalkEnd x0 s) := by
  unfold execDigestWalkEnd
  with_reducible refine KeepsOut.step ?_ (onRegion_keeps (L := [.tiles, .routers, .engines, .regions, .fns, .recorder, .flt, .idn, .outbox, .msis, .orderNo, .rep, .flc, .rf, .pwr]) (rfl) _ _ _ ?_) (sub_refl _)
  exact Keeps.refl _
  intro y2
  split
  dsimp only
  with_reducible refine Keeps.ite ?_ ?_
  with_reducible refine Keeps.step ?_ (updRf_keeps ..) ?_
  with_reducible refine Keeps.foldl ?_ ?_
  exact Keeps.refl _
  intro y9
  intro y10
  with_reducible refine Keeps.step ?_ (corrupt_keeps ..) ?_
  exact Keeps.refl _
  rfl
  rfl
  with_reducible refine Keeps.step ?_ (send_keeps ..) ?_
  with_reducible refine Keeps.step ?_ (updRf_keeps ..) ?_
  with_reducible refine Keeps.foldl ?_ ?_
  exact Keeps.refl _
  intro y19
  intro y20
  with_reducible refine Keeps.step ?_ (corrupt_keeps ..) ?_
  exact Keeps.refl _
  rfl
  rfl
  rfl
  exact Keeps.refl _

theorem execDigestReportRx_keeps (x0 : Nat) (x1 : Nat) (x2 : Nat) (x3 : BitVec 64) (x4 : Bool) (s : State) :
    KeepsOut [.fns, .recorder, .flt, .msis] s (execDigestReportRx x0 x1 x2 x3 x4 s) := by
  unfold execDigestReportRx
  with_reducible refine KeepsOut.step ?_ (onRegion_keeps (L := [.fns, .recorder, .flt, .msis]) (rfl) _ _ _ ?_) (sub_refl _)
  exact Keeps.refl _
  intro y2
  dsimp only
  with_reducible refine Keeps.ite ?_ ?_
  with_reducible refine Keeps.step ?_ (regionEvent_keeps ..) ?_
  exact Keeps.refl _
  rfl
  exact Keeps.refl _

theorem syncContext_keeps (s : State) (x1 : Nat) (x2 : SyncRecord) :
    Keeps [.regions, .ctxs, .pageList] s (syncContext s x1 x2) := by
  unfold syncContext
  with_reducible refine Keeps.step ?_ (withRegion_keeps (L := [.regions, .ctxs, .pageList]) (rfl) _ _ _ ?_) (sub_refl _)
  exact Keeps.refl _
  intro y2
  split
  dsimp only
  with_reducible refine Keeps.step ?_ (setCtx_keeps ..) ?_
  with_reducible refine Keeps.step ?_ (updRegion_keeps ..) ?_
  with_reducible refine Keeps.set_pageList (rfl) ?_
  with_reducible refine Keeps.step ?_ (freeCtx_keeps ..) ?_
  exact Keeps.refl _
  rfl
  rfl
  rfl
  exact Keeps.refl _

theorem execShadowSyncComplete_keeps (x0 : Nat) (x1 : Nat) (x2 : List (Nat × List Byte)) (x3 : List SyncRecord) (s : State) :
    KeepsOut [.tiles, .regions, .ctxs, .pageList, .basin, .poison, .bsn, .scans, .rf] s (execShadowSyncComplete x0 x1 x2 x3 s) := by
  unfold execShadowSyncComplete
  with_reducible refine KeepsOut.step ?_ (onRegion_keeps (L := [.tiles, .regions, .ctxs, .pageList, .basin, .poison, .bsn, .scans, .rf]) (rfl) _ _ _ ?_) (sub_refl _)
  exact Keeps.refl _
  intro y2
  split
  with_reducible refine Keeps.ite ?_ ?_
  dsimp only
  with_reducible refine Keeps.step ?_ (updShadow_keeps ..) ?_
  with_reducible refine Keeps.step ?_ (updRegion_keeps ..) ?_
  with_reducible refine Keeps.foldl ?_ ?_
  with_reducible refine Keeps.foldl ?_ ?_
  exact Keeps.refl _
  intro y11
  intro y12
  with_reducible refine Keeps.foldl ?_ ?_
  with_reducible refine Keeps.step ?_ (basinPut_keeps ..) ?_
  exact Keeps.refl _
  rfl
  intro y17
  intro y18
  with_reducible refine Keeps.step ?_ (restoreGranule_keeps ..) ?_
  exact Keeps.refl _
  rfl
  intro y22
  intro y23
  with_reducible refine Keeps.step ?_ (syncContext_keeps ..) ?_
  exact Keeps.refl _
  rfl
  rfl
  rfl
  exact Keeps.refl _
  exact Keeps.refl _

theorem execStepDigestRx_keeps (x0 : Nat) (x1 : Nat) (x2 : BitVec 64) (s : State) :
    KeepsOut [.free, .tiles, .routers, .engines, .regions, .fns, .ctxs, .basin, .poison, .bsn, .scans, .bundles, .bundleSeq, .recorder, .flt, .idn, .outbox, .msis, .rep, .flc, .rf, .pwr] s (execStepDigestRx x0 x1 x2 s) := by
  unfold execStepDigestRx
  with_reducible refine KeepsOut.step ?_ (onRegion_keeps (L := [.free, .tiles, .routers, .engines, .regions, .fns, .ctxs, .basin, .poison, .bsn, .scans, .bundles, .bundleSeq, .recorder, .flt, .idn, .outbox, .msis, .rep, .flc, .rf, .pwr]) (rfl) _ _ _ ?_) (sub_refl _)
  exact Keeps.refl _
  intro y2
  split
  with_reducible refine Keeps.ite ?_ ?_
  with_reducible refine Keeps.step ?_ (shadowSettle_keeps ..) ?_
  with_reducible refine Keeps.step ?_ (updShadow_keeps ..) ?_
  exact Keeps.refl _
  rfl
  rfl
  exact Keeps.refl _
  exact Keeps.refl _

theorem execBoundaryLogRx_keeps (x0 : Nat) (x1 : List BoundaryKind) (s : State) :
    KeepsOut [.regions, .orderNo, .rf] s (execBoundaryLogRx x0 x1 s) := by
  unfold execBoundaryLogRx
  with_reducible refine KeepsOut.step ?_ (onRegion_keeps (L := [.regions, .orderNo, .rf]) (rfl) _ _ _ ?_) (sub_refl _)
  exact Keeps.refl _
  intro y2
  split
  with_reducible refine Keeps.ite ?_ ?_
  with_reducible refine Keeps.foldl ?_ ?_
  with_reducible refine Keeps.step ?_ (updShadow_keeps ..) ?_
  exact Keeps.refl _
  rfl
  intro y9
  intro y10
  with_reducible refine Keeps.step ?_ (addAct_keeps ..) ?_
  exact Keeps.refl _
  rfl
  exact Keeps.refl _
  exact Keeps.refl _

theorem execShadowGapRx_keeps (x0 : Nat) (x1 : Nat) (s : State) :
    KeepsOut [.free, .tiles, .routers, .engines, .regions, .fns, .basin, .poison, .bsn, .scans, .bundles, .bundleSeq, .recorder, .flt, .idn, .outbox, .msis, .rep, .flc, .rf, .pwr] s (execShadowGapRx x0 x1 s) := by
  unfold execShadowGapRx
  with_reducible refine KeepsOut.step ?_ (onRegion_keeps (L := [.free, .tiles, .routers, .engines, .regions, .fns, .basin, .poison, .bsn, .scans, .bundles, .bundleSeq, .recorder, .flt, .idn, .outbox, .msis, .rep, .flc, .rf, .pwr]) (rfl) _ _ _ ?_) (sub_refl _)
  exact Keeps.refl _
  intro y2
  split
  with_reducible refine Keeps.ite ?_ ?_
  with_reducible refine Keeps.step ?_ (detach_keeps ..) ?_
  exact Keeps.refl _
  rfl
  with_reducible refine Keeps.ite ?_ ?_
  dsimp only
  with_reducible refine Keeps.step ?_ (updShadow_keeps ..) ?_
  with_reducible refine Keeps.ite ?_ ?_
  with_reducible refine Keeps.step ?_ (discardNow_keeps ..) ?_
  exact Keeps.refl _
  rfl
  exact Keeps.refl _
  rfl
  exact Keeps.refl _
  exact Keeps.refl _

theorem execShadowPromotion_keeps (x0 : Nat) (x1 : Bool) (s : State) :
    KeepsOut [.free, .tiles, .routers, .engines, .regions, .fns, .ctxs, .basin, .poison, .bsn, .scans, .bundles, .bundleSeq, .recorder, .flt, .idn, .outbox, .msis, .rep, .flc, .rf, .pwr] s (execShadowPromotion x0 x1 s) := by
  unfold execShadowPromotion
  with_reducible refine KeepsOut.step ?_ (onRegion_keeps (L := [.free, .tiles, .routers, .engines, .regions, .fns, .ctxs, .basin, .poison, .bsn, .scans, .bundles, .bundleSeq, .recorder, .flt, .idn, .outbox, .msis, .rep, .flc, .rf, .pwr]) (rfl) _ _ _ ?_) (sub_refl _)
  exact Keeps.refl _
  intro y2
  split
  with_reducible refine Keeps.ite ?_ ?_
  dsimp only
  with_reducible refine Keeps.step ?_ (withRegion_keeps (L := [.free, .tiles, .routers, .engines, .regions, .fns, .ctxs, .basin, .poison, .bsn, .scans, .bundles, .bundleSeq, .recorder, .flt, .idn, .outbox, .msis, .rep, .flc, .rf, .pwr]) (rfl) _ _ _ ?_) (sub_refl _)
  with_reducible refine Keeps.step ?_ (updShadow_keeps ..) ?_
  with_reducible refine Keeps.ite ?_ ?_
  with_reducible refine Keeps.ite ?_ ?_
  with_reducible refine Keeps.step ?_ (commitStep_keeps ..) ?_
  exact Keeps.refl _
  rfl
  with_reducible refine Keeps.step ?_ (discardNow_keeps ..) ?_
  exact Keeps.refl _
  rfl
  with_reducible refine Keeps.ite ?_ ?_
  with_reducible refine Keeps.step ?_ (discardNow_keeps ..) ?_
  exact Keeps.refl _
  rfl
  exact Keeps.refl _
  rfl
  intro y22
  with_reducible refine Keeps.step ?_ (send_keeps ..) ?_
  exact Keeps.refl _
  rfl
  exact Keeps.refl _
  exact Keeps.refl _

theorem execPromoteRx_keeps (x0 : Nat) (x1 : Nat) (x2 : Nat) (x3 : Nat) (x4 : Nat) (s : State) :
    KeepsOut [.regions, .orderNo] s (execPromoteRx x0 x1 x2 x3 x4 s) := by
  unfold execPromoteRx
  with_reducible refine KeepsOut.step ?_ (onRegion_keeps (L := [.regions, .orderNo]) (rfl) _ _ _ ?_) (sub_refl _)
  exact Keeps.refl _
  intro y2
  with_reducible refine Keeps.ite ?_ ?_
  exact Keeps.refl _
  with_reducible refine Keeps.step ?_ (addAct_keeps ..) ?_
  exact Keeps.refl _
  rfl

theorem execPromoteApply_keeps (x0 : Nat) (s : State) :
    KeepsOut [.regions, .fns, .msis, .rf, .pwr] s (execPromoteApply x0 s) := by
  unfold execPromoteApply
  with_reducible refine KeepsOut.step ?_ (onRegion_keeps (L := [.regions, .fns, .msis, .rf, .pwr]) (rfl) _ _ _ ?_) (sub_refl _)
  exact Keeps.refl _
  intro y2
  split
  exact Keeps.refl _
  with_reducible refine Keeps.ite ?_ ?_
  dsimp only
  with_reducible refine Keeps.ite ?_ ?_
  with_reducible refine Keeps.step ?_ (updRf_keeps ..) ?_
  with_reducible refine Keeps.step ?_ (updRegion_keeps ..) ?_
  with_reducible refine Keeps.step ?_ (takeAct_keeps ..) ?_
  exact Keeps.refl _
  rfl
  rfl
  rfl
  with_reducible refine Keeps.ite ?_ ?_
  with_reducible refine Keeps.step ?_ (stopRegion_keeps ..) ?_
  with_reducible refine Keeps.step ?_ (takeAct_keeps ..) ?_
  exact Keeps.refl _
  rfl
  rfl
  with_reducible refine Keeps.step ?_ (takeAct_keeps ..) ?_
  exact Keeps.refl _
  rfl
  exact Keeps.refl _

end Sys2Proof.Machine
end

