-- ==== Sys2Proof/Laws/Wellhead.lean ====
section
/-! SUPPORT. What the operations of Machine/Wellhead.lean may change: for each, the parts of the state. -/

namespace Sys2Proof.Machine

theorem whNote_keeps (s : State) (x1 : WhDecision) (x2 : Nat) (x3 : List Int) :
    Keeps [.pwr] s (whNote s x1 x2 x3) := by
  unfold whNote
  dsimp only
  with_reducible refine Keeps.set_pwr (rfl) ?_
  exact Keeps.refl _

theorem takeSample_keeps (s : State) (x1 : WhSample) :
    Keeps [.pwr] s (takeSample s x1) := by
  unfold takeSample
  dsimp only
  with_reducible refine Keeps.set_pwr (rfl) ?_
  exact Keeps.refl _

theorem throttle_keeps (s : State) :
    Keeps [.flt, .pwr] s (throttle s) := by
  unfold throttle
  dsimp only
  with_reducible refine Keeps.ite ?_ ?_
  with_reducible refine Keeps.set_flt_pwr (rfl) ?_ ?_ ?_
  with_reducible exact fun h => ⟨h.1, h.2, h.3, h.4, h.5, h.6, h.7, h.8, h.9, h.10⟩
  exact ⟨Nat.le_refl _, Nat.le_refl _, rfl, rfl, rfl, rfl, rfl⟩
  exact Keeps.refl _
  with_reducible refine Keeps.step ?_ (whNote_keeps ..) ?_
  with_reducible refine Keeps.set_flt_pwr (rfl) ?_ ?_ ?_
  with_reducible exact fun h => ⟨h.1, h.2, h.3, h.4, h.5, h.6, h.7, h.8, h.9, h.10⟩
  exact ⟨Nat.le_refl _, Nat.le_refl _, rfl, rfl, rfl, rfl, rfl⟩
  exact Keeps.refl _
  rfl

theorem sampleExtremes_keeps (s : State) :
    Keeps [.recorder] s (sampleExtremes s) := by
  unfold sampleExtremes
  dsimp only
  with_reducible refine Keeps.foldl ?_ ?_
  with_reducible refine Keeps.step ?_ (noteExtreme_keeps ..) ?_
  with_reducible refine Keeps.step ?_ (noteExtreme_keeps ..) ?_
  exact Keeps.refl _
  rfl
  rfl
  intro y7
  intro y8
  with_reducible refine Keeps.step ?_ (noteExtreme_keeps ..) ?_
  exact Keeps.refl _
  rfl

theorem idlePorts_keeps (s : State) :
    Keeps [.engines, .fns, .recorder, .flt, .outbox, .msis, .fab] s (idlePorts s) := by
  unfold idlePorts
  with_reducible refine Keeps.foldl ?_ ?_
  exact Keeps.refl _
  intro y2
  intro y3
  with_reducible refine Keeps.ite ?_ ?_
  exact Keeps.refl _
  with_reducible refine Keeps.step ?_ (moveTo_keeps ..) ?_
  exact Keeps.refl _
  rfl

theorem emergencyStop_keeps (s : State) (x1 : Nat) :
    Keeps [.engines, .fns, .silt, .recorder, .flt, .outbox, .msis, .rep, .fab, .pwr] s (emergencyStop s x1) := by
  unfold emergencyStop
  with_reducible refine Keeps.ite ?_ ?_
  exact Keeps.refl _
  dsimp only
  with_reducible refine Keeps.step ?_ (flushRecords_keeps ..) ?_
  with_reducible refine Keeps.step ?_ (devEvent_keeps ..) ?_
  with_reducible refine Keeps.step ?_ (whNote_keeps ..) ?_
  with_reducible refine Keeps.step ?_ (idlePorts_keeps ..) ?_
  with_reducible refine Keeps.set_silt_flt_rep_pwr (rfl) ?_ ?_ ?_
  refine fun h => ⟨?_, ?_, ?_, ?_, ?_, ?_, ?_, ?_, ?_, ?_⟩
  with_reducible exact h.1
  with_reducible exact h.2
  with_reducible exact h.3
  with_reducible exact h.4
  with_reducible exact h.5
  (dsimp only; split <;> first | exact h.6 | exact Nat.le_of_ble_eq_true rfl)
  with_reducible exact h.7
  with_reducible exact h.8
  with_reducible exact h.9
  with_reducible exact h.10
  exact ⟨Nat.le_refl _, Nat.le_refl _, rfl, rfl, rfl, rfl, rfl⟩
  exact Keeps.refl _
  rfl
  rfl
  rfl
  rfl

theorem emergencyRules_keeps (s : State) :
    Keeps [.engines, .fns, .silt, .recorder, .flt, .outbox, .msis, .rep, .fab, .pwr] s (emergencyRules s) := by
  unfold emergencyRules
  dsimp only
  with_reducible refine Keeps.ite ?_ ?_
  with_reducible refine Keeps.step ?_ (emergencyStop_keeps ..) ?_
  with_reducible refine Keeps.set_pwr (rfl) ?_
  exact Keeps.refl _
  rfl
  with_reducible refine Keeps.ite ?_ ?_
  with_reducible refine Keeps.step ?_ (emergencyStop_keeps ..) ?_
  with_reducible refine Keeps.set_pwr (rfl) ?_
  exact Keeps.refl _
  rfl
  with_reducible refine Keeps.set_pwr (rfl) ?_
  exact Keeps.refl _

theorem bistWatch_keeps (s : State) (x1 : WhSample) :
    Keeps [.tiles, .routers, .engines, .ltMap, .absent, .regions, .fns, .ctxs, .pageList, .basin, .poison, .bsn, .scans, .bundles, .bundleSeq, .silt, .recorder, .activeEpoch, .v0, .v1, .quiet, .flt, .idn, .msis, .orderNo, .rep, .rf, .fab, .pwr, .sec] s (bistWatch s x1) := by
  unfold bistWatch
  split
  exact Keeps.refl _
  dsimp only
  with_reducible refine Keeps.ite ?_ ?_
  with_reducible refine Keeps.step ?_ (endTest_keeps ..) ?_
  exact Keeps.refl _
  rfl
  exact Keeps.refl _

theorem execWellheadSample_keeps (x0 : WhSample) (s : State) :
    KeepsOut [.tiles, .routers, .engines, .ltMap, .absent, .regions, .fns, .ctxs, .pageList, .basin, .poison, .bsn, .scans, .bundles, .bundleSeq, .silt, .recorder, .activeEpoch, .v0, .v1, .quiet, .flt, .idn, .outbox, .msis, .orderNo, .rep, .rf, .fab, .pwr, .sec] s (execWellheadSample x0 s) := by
  unfold execWellheadSample
  split
  refine KeepsOut.next ?_
  exact Keeps.refl _
  refine KeepsOut.next ?_
  with_reducible refine Keeps.step ?_ (emergencyRules_keeps ..) ?_
  with_reducible refine Keeps.step ?_ (bistWatch_keeps ..) ?_
  with_reducible refine Keeps.step ?_ (sampleExtremes_keeps ..) ?_
  with_reducible refine Keeps.step ?_ (throttle_keeps ..) ?_
  with_reducible refine Keeps.step ?_ (takeSample_keeps ..) ?_
  exact Keeps.refl _
  rfl
  rfl
  rfl
  rfl
  rfl

theorem execEmergencyRelease_keeps (s : State) :
    KeepsOut [.tiles, .routers, .engines, .ltMap, .absent, .regions, .fns, .ctxs, .pageList, .basin, .poison, .bsn, .scans, .bundles, .bundleSeq, .silt, .recorder, .activeEpoch, .v0, .v1, .quiet, .flt, .idn, .msis, .orderNo, .rep, .rf, .fab, .pwr, .sec] s (execEmergencyRelease s) := by
  unfold execEmergencyRelease
  split
  refine KeepsOut.next ?_
  with_reducible refine Keeps.step ?_ (resetDevice_keeps ..) ?_
  with_reducible refine Keeps.set_pwr (rfl) ?_
  exact Keeps.refl _
  rfl
  refine KeepsOut.next ?_
  exact Keeps.refl _

theorem updDie_keeps (s : State) (x1 : Nat) (x2 : DieClock → DieClock) :
    Keeps [.pwr] s (updDie s x1 x2) := by
  unfold updDie
  with_reducible refine Keeps.set_pwr (rfl) ?_
  exact Keeps.refl _

theorem decideStep_keeps (s : State) (x1 : Nat) (x2 : Nat) :
    Keeps [.regions, .orderNo, .pwr] s (decideStep s x1 x2) := by
  unfold decideStep
  with_reducible refine Keeps.foldl ?_ ?_
  with_reducible refine Keeps.step ?_ (updDie_keeps ..) ?_
  exact Keeps.refl _
  rfl
  intro y4
  intro y5
  with_reducible refine Keeps.step ?_ (addAct_keeps ..) ?_
  exact Keeps.refl _
  rfl

theorem execDvfsCapDecision_keeps (x0 : Nat) (s : State) :
    KeepsOut [.regions, .fns, .recorder, .flt, .msis, .orderNo, .pwr] s (execDvfsCapDecision x0 s) := by
  unfold execDvfsCapDecision
  refine needUnit_keeps ?_
  dsimp only
  split
  refine KeepsOut.next ?_
  exact Keeps.refl _
  split
  refine KeepsOut.next ?_
  with_reducible refine Keeps.step ?_ (decideStep_keeps ..) ?_
  exact Keeps.refl _
  rfl
  split
  refine KeepsOut.next ?_
  with_reducible refine Keeps.step ?_ (devEvent_keeps ..) ?_
  with_reducible refine Keeps.step ?_ (updDie_keeps ..) ?_
  exact Keeps.refl _
  rfl
  rfl
  refine KeepsOut.next ?_
  exact Keeps.refl _

theorem execDvfsRaiseDecision_keeps (x0 : Nat) (s : State) :
    KeepsOut [.regions, .orderNo, .pwr] s (execDvfsRaiseDecision x0 s) := by
  unfold execDvfsRaiseDecision
  refine needUnit_keeps ?_
  dsimp only
  refine whenB_keeps2 ?_ ?_
  exact Keeps.refl _
  with_reducible refine Keeps.step ?_ (decideStep_keeps ..) ?_
  exact Keeps.refl _
  rfl

theorem execDvfsChange_keeps (x0 : Nat) (x1 : Bool) (s : State) :
    KeepsOut [.regions, .pwr] s (execDvfsChange x0 x1 s) := by
  unfold execDvfsChange
  refine needUnit_keeps ?_
  dsimp only
  split
  refine KeepsOut.next ?_
  exact Keeps.refl _
  split
  refine KeepsOut.next ?_
  with_reducible refine Keeps.foldl ?_ ?_
  with_reducible refine Keeps.step ?_ (updDie_keeps ..) ?_
  exact Keeps.refl _
  rfl
  intro y11
  intro y12
  with_reducible refine Keeps.step ?_ (dropAct_keeps ..) ?_
  exact Keeps.refl _
  rfl
  refine KeepsOut.next ?_
  exact Keeps.refl _

theorem scrubRestart_keeps (s : State) (x1 : Bool) (x2 : Nat) :
    Keeps [.tiles, .bsn, .rf, .pwr] s (scrubRestart s x1 x2) := by
  unfold scrubRestart
  dsimp only
  with_reducible refine Keeps.ite ?_ ?_
  with_reducible refine Keeps.step ?_ (updBsn_keeps ..) ?_
  with_reducible refine Keeps.step ?_ (whNote_keeps ..) ?_
  with_reducible refine Keeps.set_pwr (rfl) ?_
  exact Keeps.refl _
  rfl
  rfl
  with_reducible refine Keeps.ite ?_ ?_
  with_reducible refine Keeps.step ?_ (updRf_keeps ..) ?_
  with_reducible refine Keeps.step ?_ (setTilePos_keeps ..) ?_
  with_reducible refine Keeps.step ?_ (whNote_keeps ..) ?_
  with_reducible refine Keeps.set_pwr (rfl) ?_
  exact Keeps.refl _
  rfl
  rfl
  rfl
  with_reducible refine Keeps.step ?_ (setTilePos_keeps ..) ?_
  with_reducible refine Keeps.step ?_ (whNote_keeps ..) ?_
  with_reducible refine Keeps.set_pwr (rfl) ?_
  exact Keeps.refl _
  rfl
  rfl

theorem execScrubHeartbeatCheck_keeps (x0 : Bool) (x1 : Nat) (x2 : Option Heartbeat) (s : State) :
    KeepsOut [.tiles, .bsn, .rf, .pwr] s (execScrubHeartbeatCheck x0 x1 x2 s) := by
  unfold execScrubHeartbeatCheck
  refine needUnit_keeps ?_
  split
  refine KeepsOut.next ?_
  exact Keeps.refl _
  dsimp only
  split
  refine KeepsOut.next ?_
  with_reducible refine Keeps.step ?_ (scrubRestart_keeps ..) ?_
  with_reducible refine Keeps.set_pwr (rfl) ?_
  exact Keeps.refl _
  rfl
  split
  refine KeepsOut.next ?_
  with_reducible refine Keeps.set_pwr (rfl) ?_
  exact Keeps.refl _
  refine KeepsOut.next ?_
  with_reducible refine Keeps.set_pwr (rfl) ?_
  exact Keeps.refl _

theorem storeSeconds_keeps (s : State) :
    Keeps [.pwr] s (storeSeconds s) := by
  unfold storeSeconds
  with_reducible refine Keeps.set_pwr (rfl) ?_
  exact Keeps.refl _

theorem execSecondsStore_keeps (s : State) :
    KeepsOut [.pwr] s (execSecondsStore s) := by
  unfold execSecondsStore
  refine whenB_keeps2 ?_ ?_
  exact Keeps.refl _
  with_reducible refine Keeps.step ?_ (storeSeconds_keeps ..) ?_
  exact Keeps.refl _
  rfl

theorem gateRegion_keeps (s : State) (x1 : Region) (x2 : Bool) :
    Keeps [.tiles] s (gateRegion s x1 x2) := by
  unfold gateRegion
  with_reducible refine Keeps.step ?_ (updTiles_keeps ..) ?_
  exact Keeps.refl _
  rfl

theorem execP1Entry_keeps (x0 : Nat) (s : State) :
    KeepsOut [.tiles, .pwr] s (execP1Entry x0 s) := by
  unfold execP1Entry
  with_reducible refine KeepsOut.step ?_ (onRegion_keeps (L := [.tiles, .pwr]) (rfl) _ _ _ ?_) (sub_refl _)
  exact Keeps.refl _
  intro y2
  with_reducible refine Keeps.ite ?_ ?_
  with_reducible refine Keeps.step ?_ (gateRegion_keeps ..) ?_
  with_reducible refine Keeps.set_pwr (rfl) ?_
  exact Keeps.refl _
  rfl
  exact Keeps.refl _

theorem leaveP1_keeps (s : State) (x1 : Nat) :
    Keeps [.tiles, .pwr] s (leaveP1 s x1) := by
  unfold leaveP1
  with_reducible refine Keeps.step ?_ (withRegion_keeps (L := [.tiles, .pwr]) (rfl) _ _ _ ?_) (sub_refl _)
  exact Keeps.refl _
  intro y2
  with_reducible refine Keeps.ite ?_ ?_
  with_reducible refine Keeps.step ?_ (gateRegion_keeps ..) ?_
  with_reducible refine Keeps.set_pwr (rfl) ?_
  exact Keeps.refl _
  rfl
  exact Keeps.refl _

theorem execP1Exit_keeps (x0 : Nat) (s : State) :
    KeepsOut [.tiles, .pwr] s (execP1Exit x0 s) := by
  unfold execP1Exit
  with_reducible refine KeepsOut.step ?_ (onRegion_keeps (L := [.tiles, .pwr]) (rfl) _ _ _ ?_) (sub_refl _)
  exact Keeps.refl _
  intro y2
  with_reducible refine Keeps.step ?_ (leaveP1_keeps ..) ?_
  exact Keeps.refl _
  rfl

theorem execP2Entry_keeps (s : State) :
    KeepsOut [.pwr] s (execP2Entry s) := by
  unfold execP2Entry
  refine whenB_keeps2 ?_ ?_
  exact Keeps.refl _
  with_reducible refine Keeps.set_pwr (rfl) ?_
  exact Keeps.refl _

theorem wake_keeps (s : State) :
    Keeps [.pwr] s (wake s) := by
  unfold wake
  with_reducible refine Keeps.ite ?_ ?_
  with_reducible refine Keeps.set_pwr (rfl) ?_
  exact Keeps.refl _
  exact Keeps.refl _

theorem execP2Exit_keeps (s : State) :
    KeepsOut [.pwr] s (execP2Exit s) := by
  unfold execP2Exit
  refine KeepsOut.next ?_
  with_reducible refine Keeps.step ?_ (wake_keeps ..) ?_
  exact Keeps.refl _
  rfl

end Sys2Proof.Machine
end

