-- ==== Sys2Proof/Laws/Mailbox.lean ====
section
/-! SUPPORT. What the operations of Machine/Mailbox.lean may change: for each, the parts of the state. -/

namespace Sys2Proof.Machine

theorem respondId_keeps (s : State) (x1 : CmdHdr) (x2 : Nat) (x3 : Nat) (x4 : Nat) (x5 : List Byte) :
    Keeps [.fns, .msis] s (respondId s x1 x2 x3 x4 x5) := by
  unfold respondId
  dsimp only
  with_reducible refine Keeps.step ?_ (raiseCause_keeps ..) ?_
  with_reducible refine Keeps.step ?_ (setFn_keeps ..) ?_
  exact Keeps.refl _
  rfl
  rfl

theorem respond_keeps (s : State) (x1 : CmdHdr) (x2 : Nat) (x3 : Nat) (x4 : List Byte) :
    Keeps [.fns, .msis] s (respond s x1 x2 x3 x4) := by
  unfold respond
  with_reducible refine Keeps.step ?_ (respondId_keeps ..) ?_
  exact Keeps.refl _
  rfl

theorem doorbell_keeps {L : List Part} (hL : sub [.fns, .pwr] L = true) (x0 : CmdHdr) (x1 : Nat) (x2 : Instr) (x3 : State → State) (s : State) (h3 : ∀ a0, Keeps L a0 (x3 a0)) :
    KeepsOut L s (doorbell x0 x1 x2 x3 s) := by
  unfold doorbell
  refine needUnit_keeps ?_
  dsimp only
  split
  refine KeepsOut.next ?_
  with_reducible refine Keeps.step ?_ (setFn_keeps ..) ?_
  exact Keeps.refl _
  exact sub_trans rfl hL
  split
  refine KeepsOut.next ?_
  with_reducible refine Keeps.step ?_ (h3 ..) (sub_refl _)
  with_reducible refine Keeps.set_pwr (sub_trans rfl hL) ?_
  with_reducible refine Keeps.step ?_ (wake_keeps ..) ?_
  with_reducible refine Keeps.step ?_ (setFn_keeps ..) ?_
  exact Keeps.refl _
  exact sub_trans rfl hL
  exact sub_trans rfl hL
  refine KeepsOut.next ?_
  with_reducible refine Keeps.step ?_ (updFn_keeps ..) ?_
  with_reducible refine Keeps.step ?_ (wake_keeps ..) ?_
  with_reducible refine Keeps.step ?_ (setFn_keeps ..) ?_
  exact Keeps.refl _
  exact sub_trans rfl hL
  exact sub_trans rfl hL
  exact sub_trans rfl hL

theorem checked_keeps {L : List Part} (hL : sub [.fns, .msis] L = true) (s : State) (x1 : CmdHdr) (x2 : Nat) (x3 : Option Nat) (x4 : State → State) (h4 : ∀ a0, Keeps L a0 (x4 a0)) :
    Keeps L s (checked s x1 x2 x3 x4) := by
  unfold checked
  split
  with_reducible refine Keeps.step ?_ (respond_keeps ..) ?_
  exact Keeps.refl _
  exact hL
  with_reducible refine Keeps.step ?_ (h4 ..) (sub_refl _)
  exact Keeps.refl _

theorem immediate_keeps {L : List Part} (hL : sub [.fns, .msis] L = true) (x0 : CmdHdr) (x1 : Nat) (x2 : Bool) (x3 : Issuer) (x4 : Nat) (x5 : State → State) (s : State) (h5 : ∀ a0, Keeps L a0 (x5 a0)) :
    Keeps L s (immediate x0 x1 x2 x3 x4 x5 s) := by
  unfold immediate
  with_reducible refine Keeps.step ?_ (checked_keeps (L := L) (sub_trans rfl hL) _ _ _ _ _ ?_) (sub_refl _)
  exact Keeps.refl _
  intro y2
  with_reducible refine Keeps.step ?_ (h5 ..) (sub_refl _)
  exact Keeps.refl _

theorem deferred_keeps {L : List Part} (hL : sub [.fns, .msis] L = true) (x0 : CmdHdr) (x1 : Nat) (x2 : Issuer) (x3 : Nat) (x4 : Nat) (x5 : State → State) (s : State) (h5 : ∀ a0, Keeps L a0 (x5 a0)) :
    Keeps L s (deferred x0 x1 x2 x3 x4 x5 s) := by
  unfold deferred
  with_reducible refine Keeps.step ?_ (checked_keeps (L := L) (sub_trans rfl hL) _ _ _ _ _ ?_) (sub_refl _)
  exact Keeps.refl _
  intro y2
  with_reducible refine Keeps.step ?_ (h5 ..) (sub_refl _)
  exact Keeps.refl _

theorem deferredBy_keeps {L : List Part} (hL : sub [.fns, .msis] L = true) (x0 : CmdHdr) (x1 : Nat) (x2 : Bool) (x3 : Nat) (x4 : State → State) (s : State) (h4 : ∀ a0, Keeps L a0 (x4 a0)) :
    Keeps L s (deferredBy x0 x1 x2 x3 x4 s) := by
  unfold deferredBy
  with_reducible refine Keeps.step ?_ (checked_keeps (L := L) (sub_trans rfl hL) _ _ _ _ _ ?_) (sub_refl _)
  exact Keeps.refl _
  intro y2
  with_reducible refine Keeps.step ?_ (h4 ..) (sub_refl _)
  exact Keeps.refl _

theorem accept_keeps (s : State) (x1 : CmdHdr) (x2 : Nat) (x3 : Nat) (x4 : Nat) (x5 : Bool) :
    Keeps [.fns, .msis] s (accept s x1 x2 x3 x4 x5).1 := by
  unfold accept
  dsimp only
  with_reducible refine Keeps.step ?_ (respondId_keeps ..) ?_
  with_reducible refine Keeps.step ?_ (setFn_keeps ..) ?_
  exact Keeps.refl _
  rfl
  rfl

theorem acceptDone_keeps (s : State) (x1 : CmdHdr) (x2 : Nat) (x3 : Nat) (x4 : Nat) (x5 : List Byte) :
    Keeps [.fns, .msis, .pwr] s (acceptDone s x1 x2 x3 x4 x5) := by
  unfold acceptDone
  dsimp only
  with_reducible refine Keeps.step ?_ (finishReq_keeps ..) ?_
  with_reducible refine Keeps.step ?_ (accept_keeps ..) ?_
  exact Keeps.refl _
  rfl
  rfl

theorem shortfall_keeps (s : State) (x1 : CmdHdr) (x2 : Nat) (x3 : Shortfall) :
    Keeps [.fns, .msis] s (shortfall s x1 x2 x3) := by
  unfold shortfall
  with_reducible refine Keeps.step ?_ (respond_keeps ..) ?_
  exact Keeps.refl _
  rfl

theorem doNop_keeps (x0 : CmdHdr) (s : State) :
    Keeps [.fns, .msis] s (doNop x0 s) := by
  unfold doNop
  with_reducible refine Keeps.step ?_ (immediate_keeps (L := [.fns, .msis]) (rfl) _ _ _ _ _ _ _ ?_) (sub_refl _)
  exact Keeps.refl _
  intro y2
  with_reducible refine Keeps.step ?_ (respond_keeps ..) ?_
  exact Keeps.refl _
  rfl

theorem execNop_keeps (x0 : CmdHdr) (s : State) :
    KeepsOut [.fns, .msis, .pwr] s (execNop x0 s) := by
  unfold execNop
  with_reducible refine KeepsOut.step ?_ (doorbell_keeps (L := [.fns, .msis, .pwr]) (rfl) _ _ _ _ _ ?_) (sub_refl _)
  exact Keeps.refl _
  intro y2
  with_reducible refine Keeps.step ?_ (doNop_keeps ..) ?_
  exact Keeps.refl _
  rfl

theorem doIdentify_keeps (x0 : CmdHdr) (s : State) :
    Keeps [.fns, .idn, .msis] s (doIdentify x0 s) := by
  unfold doIdentify
  with_reducible refine Keeps.step ?_ (immediate_keeps (L := [.fns, .idn, .msis]) (rfl) _ _ _ _ _ _ _ ?_) (sub_refl _)
  exact Keeps.refl _
  intro y2
  dsimp only
  with_reducible refine Keeps.step ?_ (respond_keeps ..) ?_
  with_reducible refine Keeps.set_idn (rfl) ?_ ?_ ?_
  with_reducible exact fun h => ⟨h.1, h.2, h.3, h.4, h.5, h.6, h.7, h.8, h.9, h.10⟩
  exact ⟨Nat.le_refl _, Nat.le_refl _, rfl, rfl, rfl, rfl, rfl⟩
  exact Keeps.refl _
  rfl

theorem execIdentify_keeps (x0 : CmdHdr) (s : State) :
    KeepsOut [.fns, .idn, .msis, .pwr] s (execIdentify x0 s) := by
  unfold execIdentify
  with_reducible refine KeepsOut.step ?_ (doorbell_keeps (L := [.fns, .idn, .msis, .pwr]) (rfl) _ _ _ _ _ ?_) (sub_refl _)
  exact Keeps.refl _
  intro y2
  with_reducible refine Keeps.step ?_ (doIdentify_keeps ..) ?_
  exact Keeps.refl _
  rfl

theorem doFunctionConfig_keeps (x0 : CmdHdr) (x1 : Nat) (x2 : Bool) (x3 : Nat) (s : State) :
    Keeps [.fns, .msis] s (doFunctionConfig x0 x1 x2 x3 s) := by
  unfold doFunctionConfig
  with_reducible refine Keeps.step ?_ (immediate_keeps (L := [.fns, .msis]) (rfl) _ _ _ _ _ _ _ ?_) (sub_refl _)
  exact Keeps.refl _
  intro y2
  with_reducible refine Keeps.ite ?_ ?_
  with_reducible refine Keeps.step ?_ (respond_keeps ..) ?_
  exact Keeps.refl _
  rfl
  with_reducible refine Keeps.step ?_ (respond_keeps ..) ?_
  with_reducible refine Keeps.step ?_ (updFn_keeps ..) ?_
  exact Keeps.refl _
  rfl
  rfl

theorem execFunctionConfig_keeps (x0 : CmdHdr) (x1 : Nat) (x2 : Bool) (x3 : Nat) (s : State) :
    KeepsOut [.fns, .msis, .pwr] s (execFunctionConfig x0 x1 x2 x3 s) := by
  unfold execFunctionConfig
  with_reducible refine KeepsOut.step ?_ (doorbell_keeps (L := [.fns, .msis, .pwr]) (rfl) _ _ _ _ _ ?_) (sub_refl _)
  exact Keeps.refl _
  intro y2
  with_reducible refine Keeps.step ?_ (doFunctionConfig_keeps ..) ?_
  exact Keeps.refl _
  rfl

theorem doVfQuota_keeps (x0 : CmdHdr) (x1 : QuotaBlock) (s : State) :
    Keeps [.fns, .msis] s (doVfQuota x0 x1 s) := by
  unfold doVfQuota
  with_reducible refine Keeps.step ?_ (immediate_keeps (L := [.fns, .msis]) (rfl) _ _ _ _ _ _ _ ?_) (sub_refl _)
  exact Keeps.refl _
  intro y2
  with_reducible refine Keeps.ite ?_ ?_
  with_reducible refine Keeps.step ?_ (respond_keeps ..) ?_
  exact Keeps.refl _
  rfl
  with_reducible refine Keeps.step ?_ (respond_keeps ..) ?_
  with_reducible refine Keeps.step ?_ (updFn_keeps ..) ?_
  exact Keeps.refl _
  rfl
  rfl

theorem execVfQuota_keeps (x0 : CmdHdr) (x1 : QuotaBlock) (s : State) :
    KeepsOut [.fns, .msis, .pwr] s (execVfQuota x0 x1 s) := by
  unfold execVfQuota
  with_reducible refine KeepsOut.step ?_ (doorbell_keeps (L := [.fns, .msis, .pwr]) (rfl) _ _ _ _ _ ?_) (sub_refl _)
  exact Keeps.refl _
  intro y2
  with_reducible refine Keeps.step ?_ (doVfQuota_keeps ..) ?_
  exact Keeps.refl _
  rfl

theorem doFunctionDisable_keeps (x0 : CmdHdr) (x1 : Nat) (s : State) :
    Keeps [.regions, .fns, .msis, .orderNo, .pwr] s (doFunctionDisable x0 x1 s) := by
  unfold doFunctionDisable
  with_reducible refine Keeps.step ?_ (deferred_keeps (L := [.regions, .fns, .msis, .orderNo, .pwr]) (rfl) _ _ _ _ _ _ _ ?_) (sub_refl _)
  exact Keeps.refl _
  intro y2
  with_reducible refine Keeps.ite ?_ ?_
  with_reducible refine Keeps.step ?_ (respond_keeps ..) ?_
  exact Keeps.refl _
  rfl
  dsimp only
  split
  with_reducible refine Keeps.step ?_ (updReq_keeps ..) ?_
  with_reducible refine Keeps.step ?_ (accept_keeps ..) ?_
  exact Keeps.refl _
  rfl
  rfl
  with_reducible refine Keeps.step ?_ (finishReq_keeps ..) ?_
  with_reducible refine Keeps.step ?_ (accept_keeps ..) ?_
  exact Keeps.refl _
  rfl
  rfl
  with_reducible refine Keeps.step ?_ (startDisable_keeps ..) ?_
  with_reducible refine Keeps.step ?_ (updReq_keeps ..) ?_
  with_reducible refine Keeps.step ?_ (accept_keeps ..) ?_
  exact Keeps.refl _
  rfl
  rfl
  rfl

theorem execFunctionDisable_keeps (x0 : CmdHdr) (x1 : Nat) (s : State) :
    KeepsOut [.regions, .fns, .msis, .orderNo, .pwr] s (execFunctionDisable x0 x1 s) := by
  unfold execFunctionDisable
  with_reducible refine KeepsOut.step ?_ (doorbell_keeps (L := [.regions, .fns, .msis, .orderNo, .pwr]) (rfl) _ _ _ _ _ ?_) (sub_refl _)
  exact Keeps.refl _
  intro y2
  with_reducible refine Keeps.step ?_ (doFunctionDisable_keeps ..) ?_
  exact Keeps.refl _
  rfl

theorem doFunctionEnable_keeps (x0 : CmdHdr) (x1 : Nat) (s : State) :
    Keeps [.fns, .msis, .pwr] s (doFunctionEnable x0 x1 s) := by
  unfold doFunctionEnable
  with_reducible refine Keeps.step ?_ (deferred_keeps (L := [.fns, .msis, .pwr]) (rfl) _ _ _ _ _ _ _ ?_) (sub_refl _)
  exact Keeps.refl _
  intro y2
  with_reducible refine Keeps.ite ?_ ?_
  with_reducible refine Keeps.step ?_ (respond_keeps ..) ?_
  exact Keeps.refl _
  rfl
  with_reducible refine Keeps.ite ?_ ?_
  with_reducible refine Keeps.step ?_ (respond_keeps ..) ?_
  exact Keeps.refl _
  rfl
  dsimp only
  with_reducible refine Keeps.ite ?_ ?_
  with_reducible refine Keeps.step ?_ (raiseCause_keeps ..) ?_
  with_reducible refine Keeps.step ?_ (updFn_keeps ..) ?_
  with_reducible refine Keeps.step ?_ (acceptDone_keeps ..) ?_
  exact Keeps.refl _
  rfl
  rfl
  rfl
  with_reducible refine Keeps.step ?_ (updFn_keeps ..) ?_
  with_reducible refine Keeps.step ?_ (acceptDone_keeps ..) ?_
  exact Keeps.refl _
  rfl
  rfl

theorem execFunctionEnable_keeps (x0 : CmdHdr) (x1 : Nat) (s : State) :
    KeepsOut [.fns, .msis, .pwr] s (execFunctionEnable x0 x1 s) := by
  unfold execFunctionEnable
  with_reducible refine KeepsOut.step ?_ (doorbell_keeps (L := [.fns, .msis, .pwr]) (rfl) _ _ _ _ _ ?_) (sub_refl _)
  exact Keeps.refl _
  intro y2
  with_reducible refine Keeps.step ?_ (doFunctionEnable_keeps ..) ?_
  exact Keeps.refl _
  rfl

theorem doDeviceReset_keeps (x0 : CmdHdr) (x1 : Nat) (s : State) :
    Keeps [.fns, .msis, .rep, .pwr] s (doDeviceReset x0 x1 s) := by
  unfold doDeviceReset
  with_reducible refine Keeps.step ?_ (immediate_keeps (L := [.fns, .msis, .rep, .pwr]) (rfl) _ _ _ _ _ _ _ ?_) (sub_refl _)
  exact Keeps.refl _
  intro y2
  with_reducible refine Keeps.ite ?_ ?_
  with_reducible refine Keeps.step ?_ (respond_keeps ..) ?_
  exact Keeps.refl _
  rfl
  with_reducible refine Keeps.step ?_ (respond_keeps ..) ?_
  with_reducible refine Keeps.set_rep_pwr (rfl) ?_
  exact Keeps.refl _
  rfl

theorem execDeviceReset_keeps (x0 : CmdHdr) (x1 : Nat) (s : State) :
    KeepsOut [.fns, .msis, .rep, .pwr] s (execDeviceReset x0 x1 s) := by
  unfold execDeviceReset
  with_reducible refine KeepsOut.step ?_ (doorbell_keeps (L := [.fns, .msis, .rep, .pwr]) (rfl) _ _ _ _ _ ?_) (sub_refl _)
  exact Keeps.refl _
  intro y2
  with_reducible refine Keeps.step ?_ (doDeviceReset_keeps ..) ?_
  exact Keeps.refl _
  rfl

theorem doSystemSet_keeps (x0 : CmdHdr) (x1 : Nat) (x2 : Nat) (s : State) :
    Keeps [.fns, .idn, .msis, .fab] s (doSystemSet x0 x1 x2 s) := by
  unfold doSystemSet
  refine immediate_keeps rfl _ _ _ _ _ _ _ ?_
  intro y
  dsimp only
  split
  · exact (respond_keeps ..).mono rfl
  next hc =>
    have hx : x2 < 4096 := by omega
    refine Keeps.step ?_ (respond_keeps ..) rfl
    refine Keeps.set_idn_fab rfl ?_ ?_ (Keeps.refl _)
    · intro h
      refine ⟨h.1, hx, ?_, h.4, h.5, h.6, h.7, h.8, h.9, h.10⟩
      intro d hd
      cases hd
      exact hx
    · exact ⟨Nat.le_refl _, Nat.le_refl _, rfl, rfl, rfl, rfl, rfl⟩

theorem execSystemSet_keeps (x0 : CmdHdr) (x1 : Nat) (x2 : Nat) (s : State) :
    KeepsOut [.fns, .idn, .msis, .fab, .pwr] s (execSystemSet x0 x1 x2 s) := by
  unfold execSystemSet
  with_reducible refine KeepsOut.step ?_ (doorbell_keeps (L := [.fns, .idn, .msis, .fab, .pwr]) (rfl) _ _ _ _ _ ?_) (sub_refl _)
  exact Keeps.refl _
  intro y2
  with_reducible refine Keeps.step ?_ (doSystemSet_keeps ..) ?_
  exact Keeps.refl _
  rfl

theorem domainsFree_keeps (s : State) :
    Keeps [.flc] s (domainsFree s) := by
  unfold domainsFree
  with_reducible refine Keeps.ite ?_ ?_
  exact Keeps.refl _
  with_reducible refine Keeps.step ?_ (domainsTake_keeps ..) ?_
  exact Keeps.refl _
  rfl

theorem domains_inv {s : State} {b : DomainsBlock} (hb : domainsOk b = true) (t : Option (List (Nat × BitVec 64))) (h : Inv s) :
    Inv { s with flc := { s.flc with
      classify := if b.classify = 0xFF then s.flc.classify else b.classify
      histEvents := if b.histEvents = 0 then 3 else b.histEvents
      histDays := if b.histDays = 0 then 30 else b.histDays
      digestSteps := if b.digestSteps = 0 then 10000 else b.digestSteps
      domainsNext := t } } := by
  simp only [domainsOk, Bool.and_eq_true, Bool.or_eq_true, beq_iff_eq, decide_eq_true_eq] at hb
  obtain ⟨⟨⟨h1, h2⟩, h3⟩, h4⟩ := hb
  have h7 := h.7
  refine ⟨h.1, h.2, h.3, h.4, h.5, h.6, ?_, ?_, ?_, ?_⟩
  · show (if b.classify = 0xFF then s.flc.classify else b.classify) ≤ 2
    split <;> omega
  · show 2 ≤ (if b.histEvents = 0 then 3 else b.histEvents) ∧ (if b.histEvents = 0 then 3 else b.histEvents) ≤ 15
    split <;> omega
  · show 1 ≤ (if b.histDays = 0 then 30 else b.histDays) ∧ (if b.histDays = 0 then 30 else b.histDays) ≤ 255
    split <;> omega
  · show 100 ≤ (if b.digestSteps = 0 then 10000 else b.digestSteps) ∧ (if b.digestSteps = 0 then 10000 else b.digestSteps) ≤ 100000000
    split <;> omega

theorem doDomainsSet_keeps (x0 : CmdHdr) (x1 : DomainsBlock) (s : State) :
    Keeps [.fns, .msis, .flc, .pwr] s (doDomainsSet x0 x1 s) := by
  unfold doDomainsSet
  refine deferred_keeps rfl _ _ _ _ _ _ _ ?_
  intro y
  dsimp only
  split
  · exact (respond_keeps ..).mono rfl
  next hb =>
    have hb : domainsOk x1 = true := by simpa using hb
    split
    · refine Keeps.step ?_ (acceptDone_keeps ..) rfl
      exact Keeps.set_flc rfl (domains_inv hb _) ⟨Nat.le_refl _, Nat.le_refl _, rfl, rfl, rfl, rfl, rfl⟩ (Keeps.refl _)
    · split
      · exact (acceptDone_keeps ..).mono rfl
      · refine Keeps.step ?_ (acceptDone_keeps ..) rfl
        refine Keeps.step ?_ (domainsFree_keeps ..) rfl
        exact Keeps.set_flc rfl (domains_inv hb _) ⟨Nat.le_refl _, Nat.le_refl _, rfl, rfl, rfl, rfl, rfl⟩ (Keeps.refl _)

theorem execDomainsSet_keeps (x0 : CmdHdr) (x1 : DomainsBlock) (s : State) :
    KeepsOut [.fns, .msis, .flc, .pwr] s (execDomainsSet x0 x1 s) := by
  unfold execDomainsSet
  with_reducible refine KeepsOut.step ?_ (doorbell_keeps (L := [.fns, .msis, .flc, .pwr]) (rfl) _ _ _ _ _ ?_) (sub_refl _)
  exact Keeps.refl _
  intro y2
  with_reducible refine Keeps.step ?_ (doDomainsSet_keeps ..) ?_
  exact Keeps.refl _
  rfl

theorem doFabricRoutes_keeps (x0 : CmdHdr) (x1 : Option (List (Nat × BitVec 32))) (s : State) :
    Keeps [.fns, .msis, .fab, .pwr] s (doFabricRoutes x0 x1 s) := by
  unfold doFabricRoutes
  with_reducible refine Keeps.step ?_ (deferred_keeps (L := [.fns, .msis, .fab, .pwr]) (rfl) _ _ _ _ _ _ _ ?_) (sub_refl _)
  exact Keeps.refl _
  intro y2
  split
  with_reducible refine Keeps.step ?_ (acceptDone_keeps ..) ?_
  exact Keeps.refl _
  rfl
  with_reducible refine Keeps.ite ?_ ?_
  with_reducible refine Keeps.step ?_ (acceptDone_keeps ..) ?_
  with_reducible refine Keeps.set_fab (rfl) ?_ ?_ ?_
  with_reducible exact fun h => ⟨h.1, h.2, h.3, h.4, h.5, h.6, h.7, h.8, h.9, h.10⟩
  exact ⟨Nat.le_refl _, Nat.le_refl _, rfl, rfl, rfl, rfl, rfl⟩
  exact Keeps.refl _
  rfl
  with_reducible refine Keeps.step ?_ (acceptDone_keeps ..) ?_
  exact Keeps.refl _
  rfl

theorem execFabricRoutes_keeps (x0 : CmdHdr) (x1 : Option (List (Nat × BitVec 32))) (s : State) :
    KeepsOut [.fns, .msis, .fab, .pwr] s (execFabricRoutes x0 x1 s) := by
  unfold execFabricRoutes
  with_reducible refine KeepsOut.step ?_ (doorbell_keeps (L := [.fns, .msis, .fab, .pwr]) (rfl) _ _ _ _ _ ?_) (sub_refl _)
  exact Keeps.refl _
  intro y2
  with_reducible refine Keeps.step ?_ (doFabricRoutes_keeps ..) ?_
  exact Keeps.refl _
  rfl

theorem linkCommand_keeps {L : List Part} (hL : sub [.fns, .msis] L = true) (x0 : CmdHdr) (x1 : Nat) (x2 : Bool) (x3 : State → Nat → State) (s : State) (h3 : ∀ a0 a1, Keeps L a0 (x3 a0 a1)) :
    Keeps L s (linkCommand x0 x1 x2 x3 s) := by
  unfold linkCommand
  with_reducible refine Keeps.step ?_ (checked_keeps (L := L) (sub_trans rfl hL) _ _ _ _ _ ?_) (sub_refl _)
  exact Keeps.refl _
  intro y2
  with_reducible refine Keeps.ite ?_ ?_
  with_reducible refine Keeps.step ?_ (respond_keeps ..) ?_
  exact Keeps.refl _
  exact hL
  dsimp only
  with_reducible refine Keeps.step ?_ (respond_keeps ..) ?_
  with_reducible refine Keeps.foldl ?_ ?_
  exact Keeps.refl _
  intro y11
  intro y12
  with_reducible refine Keeps.step ?_ (h3 ..) (sub_refl _)
  exact Keeps.refl _
  exact hL

theorem doLinkStateRead_keeps (x0 : CmdHdr) (x1 : Nat) (s : State) :
    Keeps [.fns, .msis] s (doLinkStateRead x0 x1 s) := by
  unfold doLinkStateRead
  with_reducible refine Keeps.step ?_ (linkCommand_keeps (L := [.fns, .msis]) (rfl) _ _ _ _ _ ?_) (sub_refl _)
  exact Keeps.refl _
  intro y2
  intro y3
  exact Keeps.refl _

theorem execLinkStateRead_keeps (x0 : CmdHdr) (x1 : Nat) (s : State) :
    KeepsOut [.fns, .msis, .pwr] s (execLinkStateRead x0 x1 s) := by
  unfold execLinkStateRead
  with_reducible refine KeepsOut.step ?_ (doorbell_keeps (L := [.fns, .msis, .pwr]) (rfl) _ _ _ _ _ ?_) (sub_refl _)
  exact Keeps.refl _
  intro y2
  with_reducible refine Keeps.step ?_ (doLinkStateRead_keeps ..) ?_
  exact Keeps.refl _
  rfl

theorem doLinkStateEnable_keeps (x0 : CmdHdr) (x1 : Nat) (s : State) :
    Keeps [.fns, .recorder, .flt, .outbox, .msis, .fab] s (doLinkStateEnable x0 x1 s) := by
  unfold doLinkStateEnable
  with_reducible refine Keeps.step ?_ (linkCommand_keeps (L := [.fns, .recorder, .flt, .outbox, .msis, .fab]) (rfl) _ _ _ _ _ ?_) (sub_refl _)
  exact Keeps.refl _
  intro y2
  intro y3
  with_reducible refine Keeps.ite ?_ ?_
  exact Keeps.refl _
  with_reducible refine Keeps.step ?_ (enablePort_keeps ..) ?_
  exact Keeps.refl _
  rfl

theorem execLinkStateEnable_keeps (x0 : CmdHdr) (x1 : Nat) (s : State) :
    KeepsOut [.fns, .recorder, .flt, .outbox, .msis, .fab, .pwr] s (execLinkStateEnable x0 x1 s) := by
  unfold execLinkStateEnable
  with_reducible refine KeepsOut.step ?_ (doorbell_keeps (L := [.fns, .recorder, .flt, .outbox, .msis, .fab, .pwr]) (rfl) _ _ _ _ _ ?_) (sub_refl _)
  exact Keeps.refl _
  intro y2
  with_reducible refine Keeps.step ?_ (doLinkStateEnable_keeps ..) ?_
  exact Keeps.refl _
  rfl

theorem doLinkStateDisable_keeps (x0 : CmdHdr) (x1 : Nat) (s : State) :
    Keeps [.engines, .fns, .recorder, .flt, .outbox, .msis, .fab] s (doLinkStateDisable x0 x1 s) := by
  unfold doLinkStateDisable
  with_reducible refine Keeps.step ?_ (linkCommand_keeps (L := [.engines, .fns, .recorder, .flt, .outbox, .msis, .fab]) (rfl) _ _ _ _ _ ?_) (sub_refl _)
  exact Keeps.refl _
  intro y2
  intro y3
  with_reducible refine Keeps.ite ?_ ?_
  with_reducible refine Keeps.step ?_ (disablePort_keeps ..) ?_
  exact Keeps.refl _
  rfl
  exact Keeps.refl _

theorem execLinkStateDisable_keeps (x0 : CmdHdr) (x1 : Nat) (s : State) :
    KeepsOut [.engines, .fns, .recorder, .flt, .outbox, .msis, .fab, .pwr] s (execLinkStateDisable x0 x1 s) := by
  unfold execLinkStateDisable
  with_reducible refine KeepsOut.step ?_ (doorbell_keeps (L := [.engines, .fns, .recorder, .flt, .outbox, .msis, .fab, .pwr]) (rfl) _ _ _ _ _ ?_) (sub_refl _)
  exact Keeps.refl _
  intro y2
  with_reducible refine Keeps.step ?_ (doLinkStateDisable_keeps ..) ?_
  exact Keeps.refl _
  rfl

theorem doLinkStateRetrain_keeps (x0 : CmdHdr) (x1 : Nat) (s : State) :
    Keeps [.engines, .fns, .recorder, .flt, .outbox, .msis, .fab] s (doLinkStateRetrain x0 x1 s) := by
  unfold doLinkStateRetrain
  with_reducible refine Keeps.step ?_ (linkCommand_keeps (L := [.engines, .fns, .recorder, .flt, .outbox, .msis, .fab]) (rfl) _ _ _ _ _ ?_) (sub_refl _)
  exact Keeps.refl _
  intro y2
  intro y3
  with_reducible refine Keeps.step ?_ (retrainPort_keeps ..) ?_
  exact Keeps.refl _
  rfl

theorem execLinkStateRetrain_keeps (x0 : CmdHdr) (x1 : Nat) (s : State) :
    KeepsOut [.engines, .fns, .recorder, .flt, .outbox, .msis, .fab, .pwr] s (execLinkStateRetrain x0 x1 s) := by
  unfold execLinkStateRetrain
  with_reducible refine KeepsOut.step ?_ (doorbell_keeps (L := [.engines, .fns, .recorder, .flt, .outbox, .msis, .fab, .pwr]) (rfl) _ _ _ _ _ ?_) (sub_refl _)
  exact Keeps.refl _
  intro y2
  with_reducible refine Keeps.step ?_ (doLinkStateRetrain_keeps ..) ?_
  exact Keeps.refl _
  rfl

theorem doLinkStateWriteCtl_keeps (x0 : CmdHdr) (x1 : Nat) (x2 : BitVec 32) (s : State) :
    Keeps [.engines, .fns, .recorder, .flt, .outbox, .msis, .fab] s (doLinkStateWriteCtl x0 x1 x2 s) := by
  unfold doLinkStateWriteCtl
  with_reducible refine Keeps.step ?_ (linkCommand_keeps (L := [.engines, .fns, .recorder, .flt, .outbox, .msis, .fab]) (rfl) _ _ _ _ _ ?_) (sub_refl _)
  exact Keeps.refl _
  intro y2
  intro y3
  with_reducible refine Keeps.step ?_ (writePortCtl_keeps ..) ?_
  exact Keeps.refl _
  rfl

theorem execLinkStateWriteCtl_keeps (x0 : CmdHdr) (x1 : Nat) (x2 : BitVec 32) (s : State) :
    KeepsOut [.engines, .fns, .recorder, .flt, .outbox, .msis, .fab, .pwr] s (execLinkStateWriteCtl x0 x1 x2 s) := by
  unfold execLinkStateWriteCtl
  with_reducible refine KeepsOut.step ?_ (doorbell_keeps (L := [.engines, .fns, .recorder, .flt, .outbox, .msis, .fab, .pwr]) (rfl) _ _ _ _ _ ?_) (sub_refl _)
  exact Keeps.refl _
  intro y2
  with_reducible refine Keeps.step ?_ (doLinkStateWriteCtl_keeps ..) ?_
  exact Keeps.refl _
  rfl

theorem toHost_keeps (s : State) (x1 : Nat) (x2 : Nat) (x3 : List Byte) :
    Keeps [.hostOut] s (toHost s x1 x2 x3) := by
  unfold toHost
  with_reducible refine Keeps.set_hostOut (rfl) ?_
  exact Keeps.refl _

theorem exportOf_keeps (s : State) (x1 : TelemetryWhat) :
    Keeps [.free] s (exportOf s x1).1 := by
  unfold exportOf
  split
  dsimp only
  with_reducible refine Keeps.step ?_ (takeFree_keeps ..) ?_
  exact Keeps.refl _
  rfl
  dsimp only
  exact Keeps.refl _
  dsimp only
  exact Keeps.refl _

theorem doTelemetry_keeps (x0 : CmdHdr) (x1 : TelemetryWhat) (x2 : Nat) (x3 : Bool) (s : State) :
    Keeps [.free, .fns, .recorder, .msis, .hostOut, .pwr] s (doTelemetry x0 x1 x2 x3 s) := by
  unfold doTelemetry
  with_reducible refine Keeps.step ?_ (deferred_keeps (L := [.free, .fns, .recorder, .msis, .hostOut, .pwr]) (rfl) _ _ _ _ _ _ _ ?_) (sub_refl _)
  exact Keeps.refl _
  intro y2
  with_reducible refine Keeps.ite ?_ ?_
  with_reducible refine Keeps.step ?_ (respond_keeps ..) ?_
  exact Keeps.refl _
  rfl
  with_reducible refine Keeps.ite ?_ ?_
  with_reducible refine Keeps.step ?_ (acceptDone_keeps ..) ?_
  exact Keeps.refl _
  rfl
  dsimp only
  with_reducible refine Keeps.step ?_ (acceptDone_keeps ..) ?_
  with_reducible refine Keeps.ite ?_ ?_
  with_reducible refine Keeps.set_recorder (rfl) ?_
  with_reducible refine Keeps.step ?_ (toHost_keeps ..) ?_
  with_reducible refine Keeps.step ?_ (exportOf_keeps ..) ?_
  exact Keeps.refl _
  rfl
  rfl
  with_reducible refine Keeps.step ?_ (toHost_keeps ..) ?_
  with_reducible refine Keeps.step ?_ (exportOf_keeps ..) ?_
  exact Keeps.refl _
  rfl
  rfl
  rfl

theorem execTelemetry_keeps (x0 : CmdHdr) (x1 : TelemetryWhat) (x2 : Nat) (x3 : Bool) (s : State) :
    KeepsOut [.free, .fns, .recorder, .msis, .hostOut, .pwr] s (execTelemetry x0 x1 x2 x3 s) := by
  unfold execTelemetry
  with_reducible refine KeepsOut.step ?_ (doorbell_keeps (L := [.free, .fns, .recorder, .msis, .hostOut, .pwr]) (rfl) _ _ _ _ _ ?_) (sub_refl _)
  exact Keeps.refl _
  intro y2
  with_reducible refine Keeps.step ?_ (doTelemetry_keeps ..) ?_
  exact Keeps.refl _
  rfl

end Sys2Proof.Machine
end

