-- ==== Sys2Proof/Laws/State.lean ====
section
/-! SUPPORT. What each update of the state leaves alone, field by field, and what is read back after it. -/

namespace Sys2Proof.Machine

@[simp] theorem setTilePos_pending (s : State) (p : Nat) (v : Tile) : (setTilePos s p v).pending = s.pending := rfl
@[simp] theorem setTilePos_now (s : State) (p : Nat) (v : Tile) : (setTilePos s p v).now = s.now := rfl
@[simp] theorem setTilePos_free (s : State) (p : Nat) (v : Tile) : (setTilePos s p v).free = s.free := rfl
@[simp] theorem setTilePos_routers (s : State) (p : Nat) (v : Tile) : (setTilePos s p v).routers = s.routers := rfl
@[simp] theorem setTilePos_engines (s : State) (p : Nat) (v : Tile) : (setTilePos s p v).engines = s.engines := rfl
@[simp] theorem setTilePos_ltMap (s : State) (p : Nat) (v : Tile) : (setTilePos s p v).ltMap = s.ltMap := rfl
@[simp] theorem setTilePos_absent (s : State) (p : Nat) (v : Tile) : (setTilePos s p v).absent = s.absent := rfl
@[simp] theorem setTilePos_regions (s : State) (p : Nat) (v : Tile) : (setTilePos s p v).regions = s.regions := rfl
@[simp] theorem setTilePos_fns (s : State) (p : Nat) (v : Tile) : (setTilePos s p v).fns = s.fns := rfl
@[simp] theorem setTilePos_ctxs (s : State) (p : Nat) (v : Tile) : (setTilePos s p v).ctxs = s.ctxs := rfl
@[simp] theorem setTilePos_pageList (s : State) (p : Nat) (v : Tile) : (setTilePos s p v).pageList = s.pageList := rfl
@[simp] theorem setTilePos_basin (s : State) (p : Nat) (v : Tile) : (setTilePos s p v).basin = s.basin := rfl
@[simp] theorem setTilePos_poison (s : State) (p : Nat) (v : Tile) : (setTilePos s p v).poison = s.poison := rfl
@[simp] theorem setTilePos_bsn (s : State) (p : Nat) (v : Tile) : (setTilePos s p v).bsn = s.bsn := rfl
@[simp] theorem setTilePos_scans (s : State) (p : Nat) (v : Tile) : (setTilePos s p v).scans = s.scans := rfl
@[simp] theorem setTilePos_bundles (s : State) (p : Nat) (v : Tile) : (setTilePos s p v).bundles = s.bundles := rfl
@[simp] theorem setTilePos_bundleSeq (s : State) (p : Nat) (v : Tile) : (setTilePos s p v).bundleSeq = s.bundleSeq := rfl
@[simp] theorem setTilePos_silt (s : State) (p : Nat) (v : Tile) : (setTilePos s p v).silt = s.silt := rfl
@[simp] theorem setTilePos_recorder (s : State) (p : Nat) (v : Tile) : (setTilePos s p v).recorder = s.recorder := rfl
@[simp] theorem setTilePos_activeEpoch (s : State) (p : Nat) (v : Tile) : (setTilePos s p v).activeEpoch = s.activeEpoch := rfl
@[simp] theorem setTilePos_v0 (s : State) (p : Nat) (v : Tile) : (setTilePos s p v).v0 = s.v0 := rfl
@[simp] theorem setTilePos_v1 (s : State) (p : Nat) (v : Tile) : (setTilePos s p v).v1 = s.v1 := rfl
@[simp] theorem setTilePos_quiet (s : State) (p : Nat) (v : Tile) : (setTilePos s p v).quiet = s.quiet := rfl
@[simp] theorem setTilePos_flt (s : State) (p : Nat) (v : Tile) : (setTilePos s p v).flt = s.flt := rfl
@[simp] theorem setTilePos_idn (s : State) (p : Nat) (v : Tile) : (setTilePos s p v).idn = s.idn := rfl
@[simp] theorem setTilePos_secsBase (s : State) (p : Nat) (v : Tile) : (setTilePos s p v).secsBase = s.secsBase := rfl
@[simp] theorem setTilePos_outbox (s : State) (p : Nat) (v : Tile) : (setTilePos s p v).outbox = s.outbox := rfl
@[simp] theorem setTilePos_msis (s : State) (p : Nat) (v : Tile) : (setTilePos s p v).msis = s.msis := rfl
@[simp] theorem setTilePos_hostOut (s : State) (p : Nat) (v : Tile) : (setTilePos s p v).hostOut = s.hostOut := rfl
@[simp] theorem setTilePos_orderNo (s : State) (p : Nat) (v : Tile) : (setTilePos s p v).orderNo = s.orderNo := rfl
@[simp] theorem setTilePos_rep (s : State) (p : Nat) (v : Tile) : (setTilePos s p v).rep = s.rep := rfl
@[simp] theorem setTilePos_flc (s : State) (p : Nat) (v : Tile) : (setTilePos s p v).flc = s.flc := rfl
@[simp] theorem setTilePos_rf (s : State) (p : Nat) (v : Tile) : (setTilePos s p v).rf = s.rf := rfl
@[simp] theorem setTilePos_fab (s : State) (p : Nat) (v : Tile) : (setTilePos s p v).fab = s.fab := rfl
@[simp] theorem setTilePos_pwr (s : State) (p : Nat) (v : Tile) : (setTilePos s p v).pwr = s.pwr := rfl
@[simp] theorem setTilePos_sec (s : State) (p : Nat) (v : Tile) : (setTilePos s p v).sec = s.sec := rfl

@[simp] theorem setTile_pending (s : State) (p : Nat) (v : Tile) : (setTile s p v).pending = s.pending := rfl
@[simp] theorem setTile_now (s : State) (p : Nat) (v : Tile) : (setTile s p v).now = s.now := rfl
@[simp] theorem setTile_free (s : State) (p : Nat) (v : Tile) : (setTile s p v).free = s.free := rfl
@[simp] theorem setTile_routers (s : State) (p : Nat) (v : Tile) : (setTile s p v).routers = s.routers := rfl
@[simp] theorem setTile_engines (s : State) (p : Nat) (v : Tile) : (setTile s p v).engines = s.engines := rfl
@[simp] theorem setTile_ltMap (s : State) (p : Nat) (v : Tile) : (setTile s p v).ltMap = s.ltMap := rfl
@[simp] theorem setTile_absent (s : State) (p : Nat) (v : Tile) : (setTile s p v).absent = s.absent := rfl
@[simp] theorem setTile_regions (s : State) (p : Nat) (v : Tile) : (setTile s p v).regions = s.regions := rfl
@[simp] theorem setTile_fns (s : State) (p : Nat) (v : Tile) : (setTile s p v).fns = s.fns := rfl
@[simp] theorem setTile_ctxs (s : State) (p : Nat) (v : Tile) : (setTile s p v).ctxs = s.ctxs := rfl
@[simp] theorem setTile_pageList (s : State) (p : Nat) (v : Tile) : (setTile s p v).pageList = s.pageList := rfl
@[simp] theorem setTile_basin (s : State) (p : Nat) (v : Tile) : (setTile s p v).basin = s.basin := rfl
@[simp] theorem setTile_poison (s : State) (p : Nat) (v : Tile) : (setTile s p v).poison = s.poison := rfl
@[simp] theorem setTile_bsn (s : State) (p : Nat) (v : Tile) : (setTile s p v).bsn = s.bsn := rfl
@[simp] theorem setTile_scans (s : State) (p : Nat) (v : Tile) : (setTile s p v).scans = s.scans := rfl
@[simp] theorem setTile_bundles (s : State) (p : Nat) (v : Tile) : (setTile s p v).bundles = s.bundles := rfl
@[simp] theorem setTile_bundleSeq (s : State) (p : Nat) (v : Tile) : (setTile s p v).bundleSeq = s.bundleSeq := rfl
@[simp] theorem setTile_silt (s : State) (p : Nat) (v : Tile) : (setTile s p v).silt = s.silt := rfl
@[simp] theorem setTile_recorder (s : State) (p : Nat) (v : Tile) : (setTile s p v).recorder = s.recorder := rfl
@[simp] theorem setTile_activeEpoch (s : State) (p : Nat) (v : Tile) : (setTile s p v).activeEpoch = s.activeEpoch := rfl
@[simp] theorem setTile_v0 (s : State) (p : Nat) (v : Tile) : (setTile s p v).v0 = s.v0 := rfl
@[simp] theorem setTile_v1 (s : State) (p : Nat) (v : Tile) : (setTile s p v).v1 = s.v1 := rfl
@[simp] theorem setTile_quiet (s : State) (p : Nat) (v : Tile) : (setTile s p v).quiet = s.quiet := rfl
@[simp] theorem setTile_flt (s : State) (p : Nat) (v : Tile) : (setTile s p v).flt = s.flt := rfl
@[simp] theorem setTile_idn (s : State) (p : Nat) (v : Tile) : (setTile s p v).idn = s.idn := rfl
@[simp] theorem setTile_secsBase (s : State) (p : Nat) (v : Tile) : (setTile s p v).secsBase = s.secsBase := rfl
@[simp] theorem setTile_outbox (s : State) (p : Nat) (v : Tile) : (setTile s p v).outbox = s.outbox := rfl
@[simp] theorem setTile_msis (s : State) (p : Nat) (v : Tile) : (setTile s p v).msis = s.msis := rfl
@[simp] theorem setTile_hostOut (s : State) (p : Nat) (v : Tile) : (setTile s p v).hostOut = s.hostOut := rfl
@[simp] theorem setTile_orderNo (s : State) (p : Nat) (v : Tile) : (setTile s p v).orderNo = s.orderNo := rfl
@[simp] theorem setTile_rep (s : State) (p : Nat) (v : Tile) : (setTile s p v).rep = s.rep := rfl
@[simp] theorem setTile_flc (s : State) (p : Nat) (v : Tile) : (setTile s p v).flc = s.flc := rfl
@[simp] theorem setTile_rf (s : State) (p : Nat) (v : Tile) : (setTile s p v).rf = s.rf := rfl
@[simp] theorem setTile_fab (s : State) (p : Nat) (v : Tile) : (setTile s p v).fab = s.fab := rfl
@[simp] theorem setTile_pwr (s : State) (p : Nat) (v : Tile) : (setTile s p v).pwr = s.pwr := rfl
@[simp] theorem setTile_sec (s : State) (p : Nat) (v : Tile) : (setTile s p v).sec = s.sec := rfl

@[simp] theorem updTile_pending (s : State) (p : Nat) (f : Tile → Tile) : (updTile s p f).pending = s.pending := rfl
@[simp] theorem updTile_now (s : State) (p : Nat) (f : Tile → Tile) : (updTile s p f).now = s.now := rfl
@[simp] theorem updTile_free (s : State) (p : Nat) (f : Tile → Tile) : (updTile s p f).free = s.free := rfl
@[simp] theorem updTile_routers (s : State) (p : Nat) (f : Tile → Tile) : (updTile s p f).routers = s.routers := rfl
@[simp] theorem updTile_engines (s : State) (p : Nat) (f : Tile → Tile) : (updTile s p f).engines = s.engines := rfl
@[simp] theorem updTile_ltMap (s : State) (p : Nat) (f : Tile → Tile) : (updTile s p f).ltMap = s.ltMap := rfl
@[simp] theorem updTile_absent (s : State) (p : Nat) (f : Tile → Tile) : (updTile s p f).absent = s.absent := rfl
@[simp] theorem updTile_regions (s : State) (p : Nat) (f : Tile → Tile) : (updTile s p f).regions = s.regions := rfl
@[simp] theorem updTile_fns (s : State) (p : Nat) (f : Tile → Tile) : (updTile s p f).fns = s.fns := rfl
@[simp] theorem updTile_ctxs (s : State) (p : Nat) (f : Tile → Tile) : (updTile s p f).ctxs = s.ctxs := rfl
@[simp] theorem updTile_pageList (s : State) (p : Nat) (f : Tile → Tile) : (updTile s p f).pageList = s.pageList := rfl
@[simp] theorem updTile_basin (s : State) (p : Nat) (f : Tile → Tile) : (updTile s p f).basin = s.basin := rfl
@[simp] theorem updTile_poison (s : State) (p : Nat) (f : Tile → Tile) : (updTile s p f).poison = s.poison := rfl
@[simp] theorem updTile_bsn (s : State) (p : Nat) (f : Tile → Tile) : (updTile s p f).bsn = s.bsn := rfl
@[simp] theorem updTile_scans (s : State) (p : Nat) (f : Tile → Tile) : (updTile s p f).scans = s.scans := rfl
@[simp] theorem updTile_bundles (s : State) (p : Nat) (f : Tile → Tile) : (updTile s p f).bundles = s.bundles := rfl
@[simp] theorem updTile_bundleSeq (s : State) (p : Nat) (f : Tile → Tile) : (updTile s p f).bundleSeq = s.bundleSeq := rfl
@[simp] theorem updTile_silt (s : State) (p : Nat) (f : Tile → Tile) : (updTile s p f).silt = s.silt := rfl
@[simp] theorem updTile_recorder (s : State) (p : Nat) (f : Tile → Tile) : (updTile s p f).recorder = s.recorder := rfl
@[simp] theorem updTile_activeEpoch (s : State) (p : Nat) (f : Tile → Tile) : (updTile s p f).activeEpoch = s.activeEpoch := rfl
@[simp] theorem updTile_v0 (s : State) (p : Nat) (f : Tile → Tile) : (updTile s p f).v0 = s.v0 := rfl
@[simp] theorem updTile_v1 (s : State) (p : Nat) (f : Tile → Tile) : (updTile s p f).v1 = s.v1 := rfl
@[simp] theorem updTile_quiet (s : State) (p : Nat) (f : Tile → Tile) : (updTile s p f).quiet = s.quiet := rfl
@[simp] theorem updTile_flt (s : State) (p : Nat) (f : Tile → Tile) : (updTile s p f).flt = s.flt := rfl
@[simp] theorem updTile_idn (s : State) (p : Nat) (f : Tile → Tile) : (updTile s p f).idn = s.idn := rfl
@[simp] theorem updTile_secsBase (s : State) (p : Nat) (f : Tile → Tile) : (updTile s p f).secsBase = s.secsBase := rfl
@[simp] theorem updTile_outbox (s : State) (p : Nat) (f : Tile → Tile) : (updTile s p f).outbox = s.outbox := rfl
@[simp] theorem updTile_msis (s : State) (p : Nat) (f : Tile → Tile) : (updTile s p f).msis = s.msis := rfl
@[simp] theorem updTile_hostOut (s : State) (p : Nat) (f : Tile → Tile) : (updTile s p f).hostOut = s.hostOut := rfl
@[simp] theorem updTile_orderNo (s : State) (p : Nat) (f : Tile → Tile) : (updTile s p f).orderNo = s.orderNo := rfl
@[simp] theorem updTile_rep (s : State) (p : Nat) (f : Tile → Tile) : (updTile s p f).rep = s.rep := rfl
@[simp] theorem updTile_flc (s : State) (p : Nat) (f : Tile → Tile) : (updTile s p f).flc = s.flc := rfl
@[simp] theorem updTile_rf (s : State) (p : Nat) (f : Tile → Tile) : (updTile s p f).rf = s.rf := rfl
@[simp] theorem updTile_fab (s : State) (p : Nat) (f : Tile → Tile) : (updTile s p f).fab = s.fab := rfl
@[simp] theorem updTile_pwr (s : State) (p : Nat) (f : Tile → Tile) : (updTile s p f).pwr = s.pwr := rfl
@[simp] theorem updTile_sec (s : State) (p : Nat) (f : Tile → Tile) : (updTile s p f).sec = s.sec := rfl

@[simp] theorem setRouter_pending (s : State) (p : Nat) (v : Router) : (setRouter s p v).pending = s.pending := rfl
@[simp] theorem setRouter_now (s : State) (p : Nat) (v : Router) : (setRouter s p v).now = s.now := rfl
@[simp] theorem setRouter_free (s : State) (p : Nat) (v : Router) : (setRouter s p v).free = s.free := rfl
@[simp] theorem setRouter_tiles (s : State) (p : Nat) (v : Router) : (setRouter s p v).tiles = s.tiles := rfl
@[simp] theorem setRouter_engines (s : State) (p : Nat) (v : Router) : (setRouter s p v).engines = s.engines := rfl
@[simp] theorem setRouter_ltMap (s : State) (p : Nat) (v : Router) : (setRouter s p v).ltMap = s.ltMap := rfl
@[simp] theorem setRouter_absent (s : State) (p : Nat) (v : Router) : (setRouter s p v).absent = s.absent := rfl
@[simp] theorem setRouter_regions (s : State) (p : Nat) (v : Router) : (setRouter s p v).regions = s.regions := rfl
@[simp] theorem setRouter_fns (s : State) (p : Nat) (v : Router) : (setRouter s p v).fns = s.fns := rfl
@[simp] theorem setRouter_ctxs (s : State) (p : Nat) (v : Router) : (setRouter s p v).ctxs = s.ctxs := rfl
@[simp] theorem setRouter_pageList (s : State) (p : Nat) (v : Router) : (setRouter s p v).pageList = s.pageList := rfl
@[simp] theorem setRouter_basin (s : State) (p : Nat) (v : Router) : (setRouter s p v).basin = s.basin := rfl
@[simp] theorem setRouter_poison (s : State) (p : Nat) (v : Router) : (setRouter s p v).poison = s.poison := rfl
@[simp] theorem setRouter_bsn (s : State) (p : Nat) (v : Router) : (setRouter s p v).bsn = s.bsn := rfl
@[simp] theorem setRouter_scans (s : State) (p : Nat) (v : Router) : (setRouter s p v).scans = s.scans := rfl
@[simp] theorem setRouter_bundles (s : State) (p : Nat) (v : Router) : (setRouter s p v).bundles = s.bundles := rfl
@[simp] theorem setRouter_bundleSeq (s : State) (p : Nat) (v : Router) : (setRouter s p v).bundleSeq = s.bundleSeq := rfl
@[simp] theorem setRouter_silt (s : State) (p : Nat) (v : Router) : (setRouter s p v).silt = s.silt := rfl
@[simp] theorem setRouter_recorder (s : State) (p : Nat) (v : Router) : (setRouter s p v).recorder = s.recorder := rfl
@[simp] theorem setRouter_activeEpoch (s : State) (p : Nat) (v : Router) : (setRouter s p v).activeEpoch = s.activeEpoch := rfl
@[simp] theorem setRouter_v0 (s : State) (p : Nat) (v : Router) : (setRouter s p v).v0 = s.v0 := rfl
@[simp] theorem setRouter_v1 (s : State) (p : Nat) (v : Router) : (setRouter s p v).v1 = s.v1 := rfl
@[simp] theorem setRouter_quiet (s : State) (p : Nat) (v : Router) : (setRouter s p v).quiet = s.quiet := rfl
@[simp] theorem setRouter_flt (s : State) (p : Nat) (v : Router) : (setRouter s p v).flt = s.flt := rfl
@[simp] theorem setRouter_idn (s : State) (p : Nat) (v : Router) : (setRouter s p v).idn = s.idn := rfl
@[simp] theorem setRouter_secsBase (s : State) (p : Nat) (v : Router) : (setRouter s p v).secsBase = s.secsBase := rfl
@[simp] theorem setRouter_outbox (s : State) (p : Nat) (v : Router) : (setRouter s p v).outbox = s.outbox := rfl
@[simp] theorem setRouter_msis (s : State) (p : Nat) (v : Router) : (setRouter s p v).msis = s.msis := rfl
@[simp] theorem setRouter_hostOut (s : State) (p : Nat) (v : Router) : (setRouter s p v).hostOut = s.hostOut := rfl
@[simp] theorem setRouter_orderNo (s : State) (p : Nat) (v : Router) : (setRouter s p v).orderNo = s.orderNo := rfl
@[simp] theorem setRouter_rep (s : State) (p : Nat) (v : Router) : (setRouter s p v).rep = s.rep := rfl
@[simp] theorem setRouter_flc (s : State) (p : Nat) (v : Router) : (setRouter s p v).flc = s.flc := rfl
@[simp] theorem setRouter_rf (s : State) (p : Nat) (v : Router) : (setRouter s p v).rf = s.rf := rfl
@[simp] theorem setRouter_fab (s : State) (p : Nat) (v : Router) : (setRouter s p v).fab = s.fab := rfl
@[simp] theorem setRouter_pwr (s : State) (p : Nat) (v : Router) : (setRouter s p v).pwr = s.pwr := rfl
@[simp] theorem setRouter_sec (s : State) (p : Nat) (v : Router) : (setRouter s p v).sec = s.sec := rfl

@[simp] theorem updRouter_pending (s : State) (p : Nat) (f : Router → Router) : (updRouter s p f).pending = s.pending := rfl
@[simp] theorem updRouter_now (s : State) (p : Nat) (f : Router → Router) : (updRouter s p f).now = s.now := rfl
@[simp] theorem updRouter_free (s : State) (p : Nat) (f : Router → Router) : (updRouter s p f).free = s.free := rfl
@[simp] theorem updRouter_tiles (s : State) (p : Nat) (f : Router → Router) : (updRouter s p f).tiles = s.tiles := rfl
@[simp] theorem updRouter_engines (s : State) (p : Nat) (f : Router → Router) : (updRouter s p f).engines = s.engines := rfl
@[simp] theorem updRouter_ltMap (s : State) (p : Nat) (f : Router → Router) : (updRouter s p f).ltMap = s.ltMap := rfl
@[simp] theorem updRouter_absent (s : State) (p : Nat) (f : Router → Router) : (updRouter s p f).absent = s.absent := rfl
@[simp] theorem updRouter_regions (s : State) (p : Nat) (f : Router → Router) : (updRouter s p f).regions = s.regions := rfl
@[simp] theorem updRouter_fns (s : State) (p : Nat) (f : Router → Router) : (updRouter s p f).fns = s.fns := rfl
@[simp] theorem updRouter_ctxs (s : State) (p : Nat) (f : Router → Router) : (updRouter s p f).ctxs = s.ctxs := rfl
@[simp] theorem updRouter_pageList (s : State) (p : Nat) (f : Router → Router) : (updRouter s p f).pageList = s.pageList := rfl
@[simp] theorem updRouter_basin (s : State) (p : Nat) (f : Router → Router) : (updRouter s p f).basin = s.basin := rfl
@[simp] theorem updRouter_poison (s : State) (p : Nat) (f : Router → Router) : (updRouter s p f).poison = s.poison := rfl
@[simp] theorem updRouter_bsn (s : State) (p : Nat) (f : Router → Router) : (updRouter s p f).bsn = s.bsn := rfl
@[simp] theorem updRouter_scans (s : State) (p : Nat) (f : Router → Router) : (updRouter s p f).scans = s.scans := rfl
@[simp] theorem updRouter_bundles (s : State) (p : Nat) (f : Router → Router) : (updRouter s p f).bundles = s.bundles := rfl
@[simp] theorem updRouter_bundleSeq (s : State) (p : Nat) (f : Router → Router) : (updRouter s p f).bundleSeq = s.bundleSeq := rfl
@[simp] theorem updRouter_silt (s : State) (p : Nat) (f : Router → Router) : (updRouter s p f).silt = s.silt := rfl
@[simp] theorem updRouter_recorder (s : State) (p : Nat) (f : Router → Router) : (updRouter s p f).recorder = s.recorder := rfl
@[simp] theorem updRouter_activeEpoch (s : State) (p : Nat) (f : Router → Router) : (updRouter s p f).activeEpoch = s.activeEpoch := rfl
@[simp] theorem updRouter_v0 (s : State) (p : Nat) (f : Router → Router) : (updRouter s p f).v0 = s.v0 := rfl
@[simp] theorem updRouter_v1 (s : State) (p : Nat) (f : Router → Router) : (updRouter s p f).v1 = s.v1 := rfl
@[simp] theorem updRouter_quiet (s : State) (p : Nat) (f : Router → Router) : (updRouter s p f).quiet = s.quiet := rfl
@[simp] theorem updRouter_flt (s : State) (p : Nat) (f : Router → Router) : (updRouter s p f).flt = s.flt := rfl
@[simp] theorem updRouter_idn (s : State) (p : Nat) (f : Router → Router) : (updRouter s p f).idn = s.idn := rfl
@[simp] theorem updRouter_secsBase (s : State) (p : Nat) (f : Router → Router) : (updRouter s p f).secsBase = s.secsBase := rfl
@[simp] theorem updRouter_outbox (s : State) (p : Nat) (f : Router → Router) : (updRouter s p f).outbox = s.outbox := rfl
@[simp] theorem updRouter_msis (s : State) (p : Nat) (f : Router → Router) : (updRouter s p f).msis = s.msis := rfl
@[simp] theorem updRouter_hostOut (s : State) (p : Nat) (f : Router → Router) : (updRouter s p f).hostOut = s.hostOut := rfl
@[simp] theorem updRouter_orderNo (s : State) (p : Nat) (f : Router → Router) : (updRouter s p f).orderNo = s.orderNo := rfl
@[simp] theorem updRouter_rep (s : State) (p : Nat) (f : Router → Router) : (updRouter s p f).rep = s.rep := rfl
@[simp] theorem updRouter_flc (s : State) (p : Nat) (f : Router → Router) : (updRouter s p f).flc = s.flc := rfl
@[simp] theorem updRouter_rf (s : State) (p : Nat) (f : Router → Router) : (updRouter s p f).rf = s.rf := rfl
@[simp] theorem updRouter_fab (s : State) (p : Nat) (f : Router → Router) : (updRouter s p f).fab = s.fab := rfl
@[simp] theorem updRouter_pwr (s : State) (p : Nat) (f : Router → Router) : (updRouter s p f).pwr = s.pwr := rfl
@[simp] theorem updRouter_sec (s : State) (p : Nat) (f : Router → Router) : (updRouter s p f).sec = s.sec := rfl

@[simp] theorem setEngine_pending (s : State) (d : Nat) (v : Engine) : (setEngine s d v).pending = s.pending := rfl
@[simp] theorem setEngine_now (s : State) (d : Nat) (v : Engine) : (setEngine s d v).now = s.now := rfl
@[simp] theorem setEngine_free (s : State) (d : Nat) (v : Engine) : (setEngine s d v).free = s.free := rfl
@[simp] theorem setEngine_tiles (s : State) (d : Nat) (v : Engine) : (setEngine s d v).tiles = s.tiles := rfl
@[simp] theorem setEngine_routers (s : State) (d : Nat) (v : Engine) : (setEngine s d v).routers = s.routers := rfl
@[simp] theorem setEngine_ltMap (s : State) (d : Nat) (v : Engine) : (setEngine s d v).ltMap = s.ltMap := rfl
@[simp] theorem setEngine_absent (s : State) (d : Nat) (v : Engine) : (setEngine s d v).absent = s.absent := rfl
@[simp] theorem setEngine_regions (s : State) (d : Nat) (v : Engine) : (setEngine s d v).regions = s.regions := rfl
@[simp] theorem setEngine_fns (s : State) (d : Nat) (v : Engine) : (setEngine s d v).fns = s.fns := rfl
@[simp] theorem setEngine_ctxs (s : State) (d : Nat) (v : Engine) : (setEngine s d v).ctxs = s.ctxs := rfl
@[simp] theorem setEngine_pageList (s : State) (d : Nat) (v : Engine) : (setEngine s d v).pageList = s.pageList := rfl
@[simp] theorem setEngine_basin (s : State) (d : Nat) (v : Engine) : (setEngine s d v).basin = s.basin := rfl
@[simp] theorem setEngine_poison (s : State) (d : Nat) (v : Engine) : (setEngine s d v).poison = s.poison := rfl
@[simp] theorem setEngine_bsn (s : State) (d : Nat) (v : Engine) : (setEngine s d v).bsn = s.bsn := rfl
@[simp] theorem setEngine_scans (s : State) (d : Nat) (v : Engine) : (setEngine s d v).scans = s.scans := rfl
@[simp] theorem setEngine_bundles (s : State) (d : Nat) (v : Engine) : (setEngine s d v).bundles = s.bundles := rfl
@[simp] theorem setEngine_bundleSeq (s : State) (d : Nat) (v : Engine) : (setEngine s d v).bundleSeq = s.bundleSeq := rfl
@[simp] theorem setEngine_silt (s : State) (d : Nat) (v : Engine) : (setEngine s d v).silt = s.silt := rfl
@[simp] theorem setEngine_recorder (s : State) (d : Nat) (v : Engine) : (setEngine s d v).recorder = s.recorder := rfl
@[simp] theorem setEngine_activeEpoch (s : State) (d : Nat) (v : Engine) : (setEngine s d v).activeEpoch = s.activeEpoch := rfl
@[simp] theorem setEngine_v0 (s : State) (d : Nat) (v : Engine) : (setEngine s d v).v0 = s.v0 := rfl
@[simp] theorem setEngine_v1 (s : State) (d : Nat) (v : Engine) : (setEngine s d v).v1 = s.v1 := rfl
@[simp] theorem setEngine_quiet (s : State) (d : Nat) (v : Engine) : (setEngine s d v).quiet = s.quiet := rfl
@[simp] theorem setEngine_flt (s : State) (d : Nat) (v : Engine) : (setEngine s d v).flt = s.flt := rfl
@[simp] theorem setEngine_idn (s : State) (d : Nat) (v : Engine) : (setEngine s d v).idn = s.idn := rfl
@[simp] theorem setEngine_secsBase (s : State) (d : Nat) (v : Engine) : (setEngine s d v).secsBase = s.secsBase := rfl
@[simp] theorem setEngine_outbox (s : State) (d : Nat) (v : Engine) : (setEngine s d v).outbox = s.outbox := rfl
@[simp] theorem setEngine_msis (s : State) (d : Nat) (v : Engine) : (setEngine s d v).msis = s.msis := rfl
@[simp] theorem setEngine_hostOut (s : State) (d : Nat) (v : Engine) : (setEngine s d v).hostOut = s.hostOut := rfl
@[simp] theorem setEngine_orderNo (s : State) (d : Nat) (v : Engine) : (setEngine s d v).orderNo = s.orderNo := rfl
@[simp] theorem setEngine_rep (s : State) (d : Nat) (v : Engine) : (setEngine s d v).rep = s.rep := rfl
@[simp] theorem setEngine_flc (s : State) (d : Nat) (v : Engine) : (setEngine s d v).flc = s.flc := rfl
@[simp] theorem setEngine_rf (s : State) (d : Nat) (v : Engine) : (setEngine s d v).rf = s.rf := rfl
@[simp] theorem setEngine_fab (s : State) (d : Nat) (v : Engine) : (setEngine s d v).fab = s.fab := rfl
@[simp] theorem setEngine_pwr (s : State) (d : Nat) (v : Engine) : (setEngine s d v).pwr = s.pwr := rfl
@[simp] theorem setEngine_sec (s : State) (d : Nat) (v : Engine) : (setEngine s d v).sec = s.sec := rfl

@[simp] theorem updEngine_pending (s : State) (d : Nat) (f : Engine → Engine) : (updEngine s d f).pending = s.pending := rfl
@[simp] theorem updEngine_now (s : State) (d : Nat) (f : Engine → Engine) : (updEngine s d f).now = s.now := rfl
@[simp] theorem updEngine_free (s : State) (d : Nat) (f : Engine → Engine) : (updEngine s d f).free = s.free := rfl
@[simp] theorem updEngine_tiles (s : State) (d : Nat) (f : Engine → Engine) : (updEngine s d f).tiles = s.tiles := rfl
@[simp] theorem updEngine_routers (s : State) (d : Nat) (f : Engine → Engine) : (updEngine s d f).routers = s.routers := rfl
@[simp] theorem updEngine_ltMap (s : State) (d : Nat) (f : Engine → Engine) : (updEngine s d f).ltMap = s.ltMap := rfl
@[simp] theorem updEngine_absent (s : State) (d : Nat) (f : Engine → Engine) : (updEngine s d f).absent = s.absent := rfl
@[simp] theorem updEngine_regions (s : State) (d : Nat) (f : Engine → Engine) : (updEngine s d f).regions = s.regions := rfl
@[simp] theorem updEngine_fns (s : State) (d : Nat) (f : Engine → Engine) : (updEngine s d f).fns = s.fns := rfl
@[simp] theorem updEngine_ctxs (s : State) (d : Nat) (f : Engine → Engine) : (updEngine s d f).ctxs = s.ctxs := rfl
@[simp] theorem updEngine_pageList (s : State) (d : Nat) (f : Engine → Engine) : (updEngine s d f).pageList = s.pageList := rfl
@[simp] theorem updEngine_basin (s : State) (d : Nat) (f : Engine → Engine) : (updEngine s d f).basin = s.basin := rfl
@[simp] theorem updEngine_poison (s : State) (d : Nat) (f : Engine → Engine) : (updEngine s d f).poison = s.poison := rfl
@[simp] theorem updEngine_bsn (s : State) (d : Nat) (f : Engine → Engine) : (updEngine s d f).bsn = s.bsn := rfl
@[simp] theorem updEngine_scans (s : State) (d : Nat) (f : Engine → Engine) : (updEngine s d f).scans = s.scans := rfl
@[simp] theorem updEngine_bundles (s : State) (d : Nat) (f : Engine → Engine) : (updEngine s d f).bundles = s.bundles := rfl
@[simp] theorem updEngine_bundleSeq (s : State) (d : Nat) (f : Engine → Engine) : (updEngine s d f).bundleSeq = s.bundleSeq := rfl
@[simp] theorem updEngine_silt (s : State) (d : Nat) (f : Engine → Engine) : (updEngine s d f).silt = s.silt := rfl
@[simp] theorem updEngine_recorder (s : State) (d : Nat) (f : Engine → Engine) : (updEngine s d f).recorder = s.recorder := rfl
@[simp] theorem updEngine_activeEpoch (s : State) (d : Nat) (f : Engine → Engine) : (updEngine s d f).activeEpoch = s.activeEpoch := rfl
@[simp] theorem updEngine_v0 (s : State) (d : Nat) (f : Engine → Engine) : (updEngine s d f).v0 = s.v0 := rfl
@[simp] theorem updEngine_v1 (s : State) (d : Nat) (f : Engine → Engine) : (updEngine s d f).v1 = s.v1 := rfl
@[simp] theorem updEngine_quiet (s : State) (d : Nat) (f : Engine → Engine) : (updEngine s d f).quiet = s.quiet := rfl
@[simp] theorem updEngine_flt (s : State) (d : Nat) (f : Engine → Engine) : (updEngine s d f).flt = s.flt := rfl
@[simp] theorem updEngine_idn (s : State) (d : Nat) (f : Engine → Engine) : (updEngine s d f).idn = s.idn := rfl
@[simp] theorem updEngine_secsBase (s : State) (d : Nat) (f : Engine → Engine) : (updEngine s d f).secsBase = s.secsBase := rfl
@[simp] theorem updEngine_outbox (s : State) (d : Nat) (f : Engine → Engine) : (updEngine s d f).outbox = s.outbox := rfl
@[simp] theorem updEngine_msis (s : State) (d : Nat) (f : Engine → Engine) : (updEngine s d f).msis = s.msis := rfl
@[simp] theorem updEngine_hostOut (s : State) (d : Nat) (f : Engine → Engine) : (updEngine s d f).hostOut = s.hostOut := rfl
@[simp] theorem updEngine_orderNo (s : State) (d : Nat) (f : Engine → Engine) : (updEngine s d f).orderNo = s.orderNo := rfl
@[simp] theorem updEngine_rep (s : State) (d : Nat) (f : Engine → Engine) : (updEngine s d f).rep = s.rep := rfl
@[simp] theorem updEngine_flc (s : State) (d : Nat) (f : Engine → Engine) : (updEngine s d f).flc = s.flc := rfl
@[simp] theorem updEngine_rf (s : State) (d : Nat) (f : Engine → Engine) : (updEngine s d f).rf = s.rf := rfl
@[simp] theorem updEngine_fab (s : State) (d : Nat) (f : Engine → Engine) : (updEngine s d f).fab = s.fab := rfl
@[simp] theorem updEngine_pwr (s : State) (d : Nat) (f : Engine → Engine) : (updEngine s d f).pwr = s.pwr := rfl
@[simp] theorem updEngine_sec (s : State) (d : Nat) (f : Engine → Engine) : (updEngine s d f).sec = s.sec := rfl

@[simp] theorem setFn_pending (s : State) (f : Nat) (v : Fn) : (setFn s f v).pending = s.pending := rfl
@[simp] theorem setFn_now (s : State) (f : Nat) (v : Fn) : (setFn s f v).now = s.now := rfl
@[simp] theorem setFn_free (s : State) (f : Nat) (v : Fn) : (setFn s f v).free = s.free := rfl
@[simp] theorem setFn_tiles (s : State) (f : Nat) (v : Fn) : (setFn s f v).tiles = s.tiles := rfl
@[simp] theorem setFn_routers (s : State) (f : Nat) (v : Fn) : (setFn s f v).routers = s.routers := rfl
@[simp] theorem setFn_engines (s : State) (f : Nat) (v : Fn) : (setFn s f v).engines = s.engines := rfl
@[simp] theorem setFn_ltMap (s : State) (f : Nat) (v : Fn) : (setFn s f v).ltMap = s.ltMap := rfl
@[simp] theorem setFn_absent (s : State) (f : Nat) (v : Fn) : (setFn s f v).absent = s.absent := rfl
@[simp] theorem setFn_regions (s : State) (f : Nat) (v : Fn) : (setFn s f v).regions = s.regions := rfl
@[simp] theorem setFn_ctxs (s : State) (f : Nat) (v : Fn) : (setFn s f v).ctxs = s.ctxs := rfl
@[simp] theorem setFn_pageList (s : State) (f : Nat) (v : Fn) : (setFn s f v).pageList = s.pageList := rfl
@[simp] theorem setFn_basin (s : State) (f : Nat) (v : Fn) : (setFn s f v).basin = s.basin := rfl
@[simp] theorem setFn_poison (s : State) (f : Nat) (v : Fn) : (setFn s f v).poison = s.poison := rfl
@[simp] theorem setFn_bsn (s : State) (f : Nat) (v : Fn) : (setFn s f v).bsn = s.bsn := rfl
@[simp] theorem setFn_scans (s : State) (f : Nat) (v : Fn) : (setFn s f v).scans = s.scans := rfl
@[simp] theorem setFn_bundles (s : State) (f : Nat) (v : Fn) : (setFn s f v).bundles = s.bundles := rfl
@[simp] theorem setFn_bundleSeq (s : State) (f : Nat) (v : Fn) : (setFn s f v).bundleSeq = s.bundleSeq := rfl
@[simp] theorem setFn_silt (s : State) (f : Nat) (v : Fn) : (setFn s f v).silt = s.silt := rfl
@[simp] theorem setFn_recorder (s : State) (f : Nat) (v : Fn) : (setFn s f v).recorder = s.recorder := rfl
@[simp] theorem setFn_activeEpoch (s : State) (f : Nat) (v : Fn) : (setFn s f v).activeEpoch = s.activeEpoch := rfl
@[simp] theorem setFn_v0 (s : State) (f : Nat) (v : Fn) : (setFn s f v).v0 = s.v0 := rfl
@[simp] theorem setFn_v1 (s : State) (f : Nat) (v : Fn) : (setFn s f v).v1 = s.v1 := rfl
@[simp] theorem setFn_quiet (s : State) (f : Nat) (v : Fn) : (setFn s f v).quiet = s.quiet := rfl
@[simp] theorem setFn_flt (s : State) (f : Nat) (v : Fn) : (setFn s f v).flt = s.flt := rfl
@[simp] theorem setFn_idn (s : State) (f : Nat) (v : Fn) : (setFn s f v).idn = s.idn := rfl
@[simp] theorem setFn_secsBase (s : State) (f : Nat) (v : Fn) : (setFn s f v).secsBase = s.secsBase := rfl
@[simp] theorem setFn_outbox (s : State) (f : Nat) (v : Fn) : (setFn s f v).outbox = s.outbox := rfl
@[simp] theorem setFn_msis (s : State) (f : Nat) (v : Fn) : (setFn s f v).msis = s.msis := rfl
@[simp] theorem setFn_hostOut (s : State) (f : Nat) (v : Fn) : (setFn s f v).hostOut = s.hostOut := rfl
@[simp] theorem setFn_orderNo (s : State) (f : Nat) (v : Fn) : (setFn s f v).orderNo = s.orderNo := rfl
@[simp] theorem setFn_rep (s : State) (f : Nat) (v : Fn) : (setFn s f v).rep = s.rep := rfl
@[simp] theorem setFn_flc (s : State) (f : Nat) (v : Fn) : (setFn s f v).flc = s.flc := rfl
@[simp] theorem setFn_rf (s : State) (f : Nat) (v : Fn) : (setFn s f v).rf = s.rf := rfl
@[simp] theorem setFn_fab (s : State) (f : Nat) (v : Fn) : (setFn s f v).fab = s.fab := rfl
@[simp] theorem setFn_pwr (s : State) (f : Nat) (v : Fn) : (setFn s f v).pwr = s.pwr := rfl
@[simp] theorem setFn_sec (s : State) (f : Nat) (v : Fn) : (setFn s f v).sec = s.sec := rfl

@[simp] theorem updFn_pending (s : State) (f : Nat) (g : Fn → Fn) : (updFn s f g).pending = s.pending := rfl
@[simp] theorem updFn_now (s : State) (f : Nat) (g : Fn → Fn) : (updFn s f g).now = s.now := rfl
@[simp] theorem updFn_free (s : State) (f : Nat) (g : Fn → Fn) : (updFn s f g).free = s.free := rfl
@[simp] theorem updFn_tiles (s : State) (f : Nat) (g : Fn → Fn) : (updFn s f g).tiles = s.tiles := rfl
@[simp] theorem updFn_routers (s : State) (f : Nat) (g : Fn → Fn) : (updFn s f g).routers = s.routers := rfl
@[simp] theorem updFn_engines (s : State) (f : Nat) (g : Fn → Fn) : (updFn s f g).engines = s.engines := rfl
@[simp] theorem updFn_ltMap (s : State) (f : Nat) (g : Fn → Fn) : (updFn s f g).ltMap = s.ltMap := rfl
@[simp] theorem updFn_absent (s : State) (f : Nat) (g : Fn → Fn) : (updFn s f g).absent = s.absent := rfl
@[simp] theorem updFn_regions (s : State) (f : Nat) (g : Fn → Fn) : (updFn s f g).regions = s.regions := rfl
@[simp] theorem updFn_ctxs (s : State) (f : Nat) (g : Fn → Fn) : (updFn s f g).ctxs = s.ctxs := rfl
@[simp] theorem updFn_pageList (s : State) (f : Nat) (g : Fn → Fn) : (updFn s f g).pageList = s.pageList := rfl
@[simp] theorem updFn_basin (s : State) (f : Nat) (g : Fn → Fn) : (updFn s f g).basin = s.basin := rfl
@[simp] theorem updFn_poison (s : State) (f : Nat) (g : Fn → Fn) : (updFn s f g).poison = s.poison := rfl
@[simp] theorem updFn_bsn (s : State) (f : Nat) (g : Fn → Fn) : (updFn s f g).bsn = s.bsn := rfl
@[simp] theorem updFn_scans (s : State) (f : Nat) (g : Fn → Fn) : (updFn s f g).scans = s.scans := rfl
@[simp] theorem updFn_bundles (s : State) (f : Nat) (g : Fn → Fn) : (updFn s f g).bundles = s.bundles := rfl
@[simp] theorem updFn_bundleSeq (s : State) (f : Nat) (g : Fn → Fn) : (updFn s f g).bundleSeq = s.bundleSeq := rfl
@[simp] theorem updFn_silt (s : State) (f : Nat) (g : Fn → Fn) : (updFn s f g).silt = s.silt := rfl
@[simp] theorem updFn_recorder (s : State) (f : Nat) (g : Fn → Fn) : (updFn s f g).recorder = s.recorder := rfl
@[simp] theorem updFn_activeEpoch (s : State) (f : Nat) (g : Fn → Fn) : (updFn s f g).activeEpoch = s.activeEpoch := rfl
@[simp] theorem updFn_v0 (s : State) (f : Nat) (g : Fn → Fn) : (updFn s f g).v0 = s.v0 := rfl
@[simp] theorem updFn_v1 (s : State) (f : Nat) (g : Fn → Fn) : (updFn s f g).v1 = s.v1 := rfl
@[simp] theorem updFn_quiet (s : State) (f : Nat) (g : Fn → Fn) : (updFn s f g).quiet = s.quiet := rfl
@[simp] theorem updFn_flt (s : State) (f : Nat) (g : Fn → Fn) : (updFn s f g).flt = s.flt := rfl
@[simp] theorem updFn_idn (s : State) (f : Nat) (g : Fn → Fn) : (updFn s f g).idn = s.idn := rfl
@[simp] theorem updFn_secsBase (s : State) (f : Nat) (g : Fn → Fn) : (updFn s f g).secsBase = s.secsBase := rfl
@[simp] theorem updFn_outbox (s : State) (f : Nat) (g : Fn → Fn) : (updFn s f g).outbox = s.outbox := rfl
@[simp] theorem updFn_msis (s : State) (f : Nat) (g : Fn → Fn) : (updFn s f g).msis = s.msis := rfl
@[simp] theorem updFn_hostOut (s : State) (f : Nat) (g : Fn → Fn) : (updFn s f g).hostOut = s.hostOut := rfl
@[simp] theorem updFn_orderNo (s : State) (f : Nat) (g : Fn → Fn) : (updFn s f g).orderNo = s.orderNo := rfl
@[simp] theorem updFn_rep (s : State) (f : Nat) (g : Fn → Fn) : (updFn s f g).rep = s.rep := rfl
@[simp] theorem updFn_flc (s : State) (f : Nat) (g : Fn → Fn) : (updFn s f g).flc = s.flc := rfl
@[simp] theorem updFn_rf (s : State) (f : Nat) (g : Fn → Fn) : (updFn s f g).rf = s.rf := rfl
@[simp] theorem updFn_fab (s : State) (f : Nat) (g : Fn → Fn) : (updFn s f g).fab = s.fab := rfl
@[simp] theorem updFn_pwr (s : State) (f : Nat) (g : Fn → Fn) : (updFn s f g).pwr = s.pwr := rfl
@[simp] theorem updFn_sec (s : State) (f : Nat) (g : Fn → Fn) : (updFn s f g).sec = s.sec := rfl

@[simp] theorem setCtx_pending (s : State) (c : Nat) (v : Ctx) : (setCtx s c v).pending = s.pending := rfl
@[simp] theorem setCtx_now (s : State) (c : Nat) (v : Ctx) : (setCtx s c v).now = s.now := rfl
@[simp] theorem setCtx_free (s : State) (c : Nat) (v : Ctx) : (setCtx s c v).free = s.free := rfl
@[simp] theorem setCtx_tiles (s : State) (c : Nat) (v : Ctx) : (setCtx s c v).tiles = s.tiles := rfl
@[simp] theorem setCtx_routers (s : State) (c : Nat) (v : Ctx) : (setCtx s c v).routers = s.routers := rfl
@[simp] theorem setCtx_engines (s : State) (c : Nat) (v : Ctx) : (setCtx s c v).engines = s.engines := rfl
@[simp] theorem setCtx_ltMap (s : State) (c : Nat) (v : Ctx) : (setCtx s c v).ltMap = s.ltMap := rfl
@[simp] theorem setCtx_absent (s : State) (c : Nat) (v : Ctx) : (setCtx s c v).absent = s.absent := rfl
@[simp] theorem setCtx_regions (s : State) (c : Nat) (v : Ctx) : (setCtx s c v).regions = s.regions := rfl
@[simp] theorem setCtx_fns (s : State) (c : Nat) (v : Ctx) : (setCtx s c v).fns = s.fns := rfl
@[simp] theorem setCtx_pageList (s : State) (c : Nat) (v : Ctx) : (setCtx s c v).pageList = s.pageList := rfl
@[simp] theorem setCtx_basin (s : State) (c : Nat) (v : Ctx) : (setCtx s c v).basin = s.basin := rfl
@[simp] theorem setCtx_poison (s : State) (c : Nat) (v : Ctx) : (setCtx s c v).poison = s.poison := rfl
@[simp] theorem setCtx_bsn (s : State) (c : Nat) (v : Ctx) : (setCtx s c v).bsn = s.bsn := rfl
@[simp] theorem setCtx_scans (s : State) (c : Nat) (v : Ctx) : (setCtx s c v).scans = s.scans := rfl
@[simp] theorem setCtx_bundles (s : State) (c : Nat) (v : Ctx) : (setCtx s c v).bundles = s.bundles := rfl
@[simp] theorem setCtx_bundleSeq (s : State) (c : Nat) (v : Ctx) : (setCtx s c v).bundleSeq = s.bundleSeq := rfl
@[simp] theorem setCtx_silt (s : State) (c : Nat) (v : Ctx) : (setCtx s c v).silt = s.silt := rfl
@[simp] theorem setCtx_recorder (s : State) (c : Nat) (v : Ctx) : (setCtx s c v).recorder = s.recorder := rfl
@[simp] theorem setCtx_activeEpoch (s : State) (c : Nat) (v : Ctx) : (setCtx s c v).activeEpoch = s.activeEpoch := rfl
@[simp] theorem setCtx_v0 (s : State) (c : Nat) (v : Ctx) : (setCtx s c v).v0 = s.v0 := rfl
@[simp] theorem setCtx_v1 (s : State) (c : Nat) (v : Ctx) : (setCtx s c v).v1 = s.v1 := rfl
@[simp] theorem setCtx_quiet (s : State) (c : Nat) (v : Ctx) : (setCtx s c v).quiet = s.quiet := rfl
@[simp] theorem setCtx_flt (s : State) (c : Nat) (v : Ctx) : (setCtx s c v).flt = s.flt := rfl
@[simp] theorem setCtx_idn (s : State) (c : Nat) (v : Ctx) : (setCtx s c v).idn = s.idn := rfl
@[simp] theorem setCtx_secsBase (s : State) (c : Nat) (v : Ctx) : (setCtx s c v).secsBase = s.secsBase := rfl
@[simp] theorem setCtx_outbox (s : State) (c : Nat) (v : Ctx) : (setCtx s c v).outbox = s.outbox := rfl
@[simp] theorem setCtx_msis (s : State) (c : Nat) (v : Ctx) : (setCtx s c v).msis = s.msis := rfl
@[simp] theorem setCtx_hostOut (s : State) (c : Nat) (v : Ctx) : (setCtx s c v).hostOut = s.hostOut := rfl
@[simp] theorem setCtx_orderNo (s : State) (c : Nat) (v : Ctx) : (setCtx s c v).orderNo = s.orderNo := rfl
@[simp] theorem setCtx_rep (s : State) (c : Nat) (v : Ctx) : (setCtx s c v).rep = s.rep := rfl
@[simp] theorem setCtx_flc (s : State) (c : Nat) (v : Ctx) : (setCtx s c v).flc = s.flc := rfl
@[simp] theorem setCtx_rf (s : State) (c : Nat) (v : Ctx) : (setCtx s c v).rf = s.rf := rfl
@[simp] theorem setCtx_fab (s : State) (c : Nat) (v : Ctx) : (setCtx s c v).fab = s.fab := rfl
@[simp] theorem setCtx_pwr (s : State) (c : Nat) (v : Ctx) : (setCtx s c v).pwr = s.pwr := rfl
@[simp] theorem setCtx_sec (s : State) (c : Nat) (v : Ctx) : (setCtx s c v).sec = s.sec := rfl

@[simp] theorem updCtx_pending (s : State) (c : Nat) (g : Ctx → Ctx) : (updCtx s c g).pending = s.pending := rfl
@[simp] theorem updCtx_now (s : State) (c : Nat) (g : Ctx → Ctx) : (updCtx s c g).now = s.now := rfl
@[simp] theorem updCtx_free (s : State) (c : Nat) (g : Ctx → Ctx) : (updCtx s c g).free = s.free := rfl
@[simp] theorem updCtx_tiles (s : State) (c : Nat) (g : Ctx → Ctx) : (updCtx s c g).tiles = s.tiles := rfl
@[simp] theorem updCtx_routers (s : State) (c : Nat) (g : Ctx → Ctx) : (updCtx s c g).routers = s.routers := rfl
@[simp] theorem updCtx_engines (s : State) (c : Nat) (g : Ctx → Ctx) : (updCtx s c g).engines = s.engines := rfl
@[simp] theorem updCtx_ltMap (s : State) (c : Nat) (g : Ctx → Ctx) : (updCtx s c g).ltMap = s.ltMap := rfl
@[simp] theorem updCtx_absent (s : State) (c : Nat) (g : Ctx → Ctx) : (updCtx s c g).absent = s.absent := rfl
@[simp] theorem updCtx_regions (s : State) (c : Nat) (g : Ctx → Ctx) : (updCtx s c g).regions = s.regions := rfl
@[simp] theorem updCtx_fns (s : State) (c : Nat) (g : Ctx → Ctx) : (updCtx s c g).fns = s.fns := rfl
@[simp] theorem updCtx_pageList (s : State) (c : Nat) (g : Ctx → Ctx) : (updCtx s c g).pageList = s.pageList := rfl
@[simp] theorem updCtx_basin (s : State) (c : Nat) (g : Ctx → Ctx) : (updCtx s c g).basin = s.basin := rfl
@[simp] theorem updCtx_poison (s : State) (c : Nat) (g : Ctx → Ctx) : (updCtx s c g).poison = s.poison := rfl
@[simp] theorem updCtx_bsn (s : State) (c : Nat) (g : Ctx → Ctx) : (updCtx s c g).bsn = s.bsn := rfl
@[simp] theorem updCtx_scans (s : State) (c : Nat) (g : Ctx → Ctx) : (updCtx s c g).scans = s.scans := rfl
@[simp] theorem updCtx_bundles (s : State) (c : Nat) (g : Ctx → Ctx) : (updCtx s c g).bundles = s.bundles := rfl
@[simp] theorem updCtx_bundleSeq (s : State) (c : Nat) (g : Ctx → Ctx) : (updCtx s c g).bundleSeq = s.bundleSeq := rfl
@[simp] theorem updCtx_silt (s : State) (c : Nat) (g : Ctx → Ctx) : (updCtx s c g).silt = s.silt := rfl
@[simp] theorem updCtx_recorder (s : State) (c : Nat) (g : Ctx → Ctx) : (updCtx s c g).recorder = s.recorder := rfl
@[simp] theorem updCtx_activeEpoch (s : State) (c : Nat) (g : Ctx → Ctx) : (updCtx s c g).activeEpoch = s.activeEpoch := rfl
@[simp] theorem updCtx_v0 (s : State) (c : Nat) (g : Ctx → Ctx) : (updCtx s c g).v0 = s.v0 := rfl
@[simp] theorem updCtx_v1 (s : State) (c : Nat) (g : Ctx → Ctx) : (updCtx s c g).v1 = s.v1 := rfl
@[simp] theorem updCtx_quiet (s : State) (c : Nat) (g : Ctx → Ctx) : (updCtx s c g).quiet = s.quiet := rfl
@[simp] theorem updCtx_flt (s : State) (c : Nat) (g : Ctx → Ctx) : (updCtx s c g).flt = s.flt := rfl
@[simp] theorem updCtx_idn (s : State) (c : Nat) (g : Ctx → Ctx) : (updCtx s c g).idn = s.idn := rfl
@[simp] theorem updCtx_secsBase (s : State) (c : Nat) (g : Ctx → Ctx) : (updCtx s c g).secsBase = s.secsBase := rfl
@[simp] theorem updCtx_outbox (s : State) (c : Nat) (g : Ctx → Ctx) : (updCtx s c g).outbox = s.outbox := rfl
@[simp] theorem updCtx_msis (s : State) (c : Nat) (g : Ctx → Ctx) : (updCtx s c g).msis = s.msis := rfl
@[simp] theorem updCtx_hostOut (s : State) (c : Nat) (g : Ctx → Ctx) : (updCtx s c g).hostOut = s.hostOut := rfl
@[simp] theorem updCtx_orderNo (s : State) (c : Nat) (g : Ctx → Ctx) : (updCtx s c g).orderNo = s.orderNo := rfl
@[simp] theorem updCtx_rep (s : State) (c : Nat) (g : Ctx → Ctx) : (updCtx s c g).rep = s.rep := rfl
@[simp] theorem updCtx_flc (s : State) (c : Nat) (g : Ctx → Ctx) : (updCtx s c g).flc = s.flc := rfl
@[simp] theorem updCtx_rf (s : State) (c : Nat) (g : Ctx → Ctx) : (updCtx s c g).rf = s.rf := rfl
@[simp] theorem updCtx_fab (s : State) (c : Nat) (g : Ctx → Ctx) : (updCtx s c g).fab = s.fab := rfl
@[simp] theorem updCtx_pwr (s : State) (c : Nat) (g : Ctx → Ctx) : (updCtx s c g).pwr = s.pwr := rfl
@[simp] theorem updCtx_sec (s : State) (c : Nat) (g : Ctx → Ctx) : (updCtx s c g).sec = s.sec := rfl

@[simp] theorem updRegion_pending (s : State) (r : Nat) (f : Region → Region) : (updRegion s r f).pending = s.pending := rfl
@[simp] theorem updRegion_now (s : State) (r : Nat) (f : Region → Region) : (updRegion s r f).now = s.now := rfl
@[simp] theorem updRegion_free (s : State) (r : Nat) (f : Region → Region) : (updRegion s r f).free = s.free := rfl
@[simp] theorem updRegion_tiles (s : State) (r : Nat) (f : Region → Region) : (updRegion s r f).tiles = s.tiles := rfl
@[simp] theorem updRegion_routers (s : State) (r : Nat) (f : Region → Region) : (updRegion s r f).routers = s.routers := rfl
@[simp] theorem updRegion_engines (s : State) (r : Nat) (f : Region → Region) : (updRegion s r f).engines = s.engines := rfl
@[simp] theorem updRegion_ltMap (s : State) (r : Nat) (f : Region → Region) : (updRegion s r f).ltMap = s.ltMap := rfl
@[simp] theorem updRegion_absent (s : State) (r : Nat) (f : Region → Region) : (updRegion s r f).absent = s.absent := rfl
@[simp] theorem updRegion_fns (s : State) (r : Nat) (f : Region → Region) : (updRegion s r f).fns = s.fns := rfl
@[simp] theorem updRegion_ctxs (s : State) (r : Nat) (f : Region → Region) : (updRegion s r f).ctxs = s.ctxs := rfl
@[simp] theorem updRegion_pageList (s : State) (r : Nat) (f : Region → Region) : (updRegion s r f).pageList = s.pageList := rfl
@[simp] theorem updRegion_basin (s : State) (r : Nat) (f : Region → Region) : (updRegion s r f).basin = s.basin := rfl
@[simp] theorem updRegion_poison (s : State) (r : Nat) (f : Region → Region) : (updRegion s r f).poison = s.poison := rfl
@[simp] theorem updRegion_bsn (s : State) (r : Nat) (f : Region → Region) : (updRegion s r f).bsn = s.bsn := rfl
@[simp] theorem updRegion_scans (s : State) (r : Nat) (f : Region → Region) : (updRegion s r f).scans = s.scans := rfl
@[simp] theorem updRegion_bundles (s : State) (r : Nat) (f : Region → Region) : (updRegion s r f).bundles = s.bundles := rfl
@[simp] theorem updRegion_bundleSeq (s : State) (r : Nat) (f : Region → Region) : (updRegion s r f).bundleSeq = s.bundleSeq := rfl
@[simp] theorem updRegion_silt (s : State) (r : Nat) (f : Region → Region) : (updRegion s r f).silt = s.silt := rfl
@[simp] theorem updRegion_recorder (s : State) (r : Nat) (f : Region → Region) : (updRegion s r f).recorder = s.recorder := rfl
@[simp] theorem updRegion_activeEpoch (s : State) (r : Nat) (f : Region → Region) : (updRegion s r f).activeEpoch = s.activeEpoch := rfl
@[simp] theorem updRegion_v0 (s : State) (r : Nat) (f : Region → Region) : (updRegion s r f).v0 = s.v0 := rfl
@[simp] theorem updRegion_v1 (s : State) (r : Nat) (f : Region → Region) : (updRegion s r f).v1 = s.v1 := rfl
@[simp] theorem updRegion_quiet (s : State) (r : Nat) (f : Region → Region) : (updRegion s r f).quiet = s.quiet := rfl
@[simp] theorem updRegion_flt (s : State) (r : Nat) (f : Region → Region) : (updRegion s r f).flt = s.flt := rfl
@[simp] theorem updRegion_idn (s : State) (r : Nat) (f : Region → Region) : (updRegion s r f).idn = s.idn := rfl
@[simp] theorem updRegion_secsBase (s : State) (r : Nat) (f : Region → Region) : (updRegion s r f).secsBase = s.secsBase := rfl
@[simp] theorem updRegion_outbox (s : State) (r : Nat) (f : Region → Region) : (updRegion s r f).outbox = s.outbox := rfl
@[simp] theorem updRegion_msis (s : State) (r : Nat) (f : Region → Region) : (updRegion s r f).msis = s.msis := rfl
@[simp] theorem updRegion_hostOut (s : State) (r : Nat) (f : Region → Region) : (updRegion s r f).hostOut = s.hostOut := rfl
@[simp] theorem updRegion_orderNo (s : State) (r : Nat) (f : Region → Region) : (updRegion s r f).orderNo = s.orderNo := rfl
@[simp] theorem updRegion_rep (s : State) (r : Nat) (f : Region → Region) : (updRegion s r f).rep = s.rep := rfl
@[simp] theorem updRegion_flc (s : State) (r : Nat) (f : Region → Region) : (updRegion s r f).flc = s.flc := rfl
@[simp] theorem updRegion_rf (s : State) (r : Nat) (f : Region → Region) : (updRegion s r f).rf = s.rf := rfl
@[simp] theorem updRegion_fab (s : State) (r : Nat) (f : Region → Region) : (updRegion s r f).fab = s.fab := rfl
@[simp] theorem updRegion_pwr (s : State) (r : Nat) (f : Region → Region) : (updRegion s r f).pwr = s.pwr := rfl
@[simp] theorem updRegion_sec (s : State) (r : Nat) (f : Region → Region) : (updRegion s r f).sec = s.sec := rfl

@[simp] theorem addRegion_pending (s : State) (r : Nat) (g : Region) : (addRegion s r g).pending = s.pending := rfl
@[simp] theorem addRegion_now (s : State) (r : Nat) (g : Region) : (addRegion s r g).now = s.now := rfl
@[simp] theorem addRegion_free (s : State) (r : Nat) (g : Region) : (addRegion s r g).free = s.free := rfl
@[simp] theorem addRegion_tiles (s : State) (r : Nat) (g : Region) : (addRegion s r g).tiles = s.tiles := rfl
@[simp] theorem addRegion_routers (s : State) (r : Nat) (g : Region) : (addRegion s r g).routers = s.routers := rfl
@[simp] theorem addRegion_engines (s : State) (r : Nat) (g : Region) : (addRegion s r g).engines = s.engines := rfl
@[simp] theorem addRegion_ltMap (s : State) (r : Nat) (g : Region) : (addRegion s r g).ltMap = s.ltMap := rfl
@[simp] theorem addRegion_absent (s : State) (r : Nat) (g : Region) : (addRegion s r g).absent = s.absent := rfl
@[simp] theorem addRegion_fns (s : State) (r : Nat) (g : Region) : (addRegion s r g).fns = s.fns := rfl
@[simp] theorem addRegion_ctxs (s : State) (r : Nat) (g : Region) : (addRegion s r g).ctxs = s.ctxs := rfl
@[simp] theorem addRegion_pageList (s : State) (r : Nat) (g : Region) : (addRegion s r g).pageList = s.pageList := rfl
@[simp] theorem addRegion_basin (s : State) (r : Nat) (g : Region) : (addRegion s r g).basin = s.basin := rfl
@[simp] theorem addRegion_poison (s : State) (r : Nat) (g : Region) : (addRegion s r g).poison = s.poison := rfl
@[simp] theorem addRegion_bsn (s : State) (r : Nat) (g : Region) : (addRegion s r g).bsn = s.bsn := rfl
@[simp] theorem addRegion_scans (s : State) (r : Nat) (g : Region) : (addRegion s r g).scans = s.scans := rfl
@[simp] theorem addRegion_bundles (s : State) (r : Nat) (g : Region) : (addRegion s r g).bundles = s.bundles := rfl
@[simp] theorem addRegion_bundleSeq (s : State) (r : Nat) (g : Region) : (addRegion s r g).bundleSeq = s.bundleSeq := rfl
@[simp] theorem addRegion_silt (s : State) (r : Nat) (g : Region) : (addRegion s r g).silt = s.silt := rfl
@[simp] theorem addRegion_recorder (s : State) (r : Nat) (g : Region) : (addRegion s r g).recorder = s.recorder := rfl
@[simp] theorem addRegion_activeEpoch (s : State) (r : Nat) (g : Region) : (addRegion s r g).activeEpoch = s.activeEpoch := rfl
@[simp] theorem addRegion_v0 (s : State) (r : Nat) (g : Region) : (addRegion s r g).v0 = s.v0 := rfl
@[simp] theorem addRegion_v1 (s : State) (r : Nat) (g : Region) : (addRegion s r g).v1 = s.v1 := rfl
@[simp] theorem addRegion_quiet (s : State) (r : Nat) (g : Region) : (addRegion s r g).quiet = s.quiet := rfl
@[simp] theorem addRegion_flt (s : State) (r : Nat) (g : Region) : (addRegion s r g).flt = s.flt := rfl
@[simp] theorem addRegion_idn (s : State) (r : Nat) (g : Region) : (addRegion s r g).idn = s.idn := rfl
@[simp] theorem addRegion_secsBase (s : State) (r : Nat) (g : Region) : (addRegion s r g).secsBase = s.secsBase := rfl
@[simp] theorem addRegion_outbox (s : State) (r : Nat) (g : Region) : (addRegion s r g).outbox = s.outbox := rfl
@[simp] theorem addRegion_msis (s : State) (r : Nat) (g : Region) : (addRegion s r g).msis = s.msis := rfl
@[simp] theorem addRegion_hostOut (s : State) (r : Nat) (g : Region) : (addRegion s r g).hostOut = s.hostOut := rfl
@[simp] theorem addRegion_orderNo (s : State) (r : Nat) (g : Region) : (addRegion s r g).orderNo = s.orderNo := rfl
@[simp] theorem addRegion_rep (s : State) (r : Nat) (g : Region) : (addRegion s r g).rep = s.rep := rfl
@[simp] theorem addRegion_flc (s : State) (r : Nat) (g : Region) : (addRegion s r g).flc = s.flc := rfl
@[simp] theorem addRegion_rf (s : State) (r : Nat) (g : Region) : (addRegion s r g).rf = s.rf := rfl
@[simp] theorem addRegion_fab (s : State) (r : Nat) (g : Region) : (addRegion s r g).fab = s.fab := rfl
@[simp] theorem addRegion_pwr (s : State) (r : Nat) (g : Region) : (addRegion s r g).pwr = s.pwr := rfl
@[simp] theorem addRegion_sec (s : State) (r : Nat) (g : Region) : (addRegion s r g).sec = s.sec := rfl

@[simp] theorem delRegion_pending (s : State) (r : Nat) : (delRegion s r).pending = s.pending := rfl
@[simp] theorem delRegion_now (s : State) (r : Nat) : (delRegion s r).now = s.now := rfl
@[simp] theorem delRegion_free (s : State) (r : Nat) : (delRegion s r).free = s.free := rfl
@[simp] theorem delRegion_tiles (s : State) (r : Nat) : (delRegion s r).tiles = s.tiles := rfl
@[simp] theorem delRegion_routers (s : State) (r : Nat) : (delRegion s r).routers = s.routers := rfl
@[simp] theorem delRegion_engines (s : State) (r : Nat) : (delRegion s r).engines = s.engines := rfl
@[simp] theorem delRegion_ltMap (s : State) (r : Nat) : (delRegion s r).ltMap = s.ltMap := rfl
@[simp] theorem delRegion_absent (s : State) (r : Nat) : (delRegion s r).absent = s.absent := rfl
@[simp] theorem delRegion_fns (s : State) (r : Nat) : (delRegion s r).fns = s.fns := rfl
@[simp] theorem delRegion_ctxs (s : State) (r : Nat) : (delRegion s r).ctxs = s.ctxs := rfl
@[simp] theorem delRegion_pageList (s : State) (r : Nat) : (delRegion s r).pageList = s.pageList := rfl
@[simp] theorem delRegion_basin (s : State) (r : Nat) : (delRegion s r).basin = s.basin := rfl
@[simp] theorem delRegion_poison (s : State) (r : Nat) : (delRegion s r).poison = s.poison := rfl
@[simp] theorem delRegion_bsn (s : State) (r : Nat) : (delRegion s r).bsn = s.bsn := rfl
@[simp] theorem delRegion_scans (s : State) (r : Nat) : (delRegion s r).scans = s.scans := rfl
@[simp] theorem delRegion_bundles (s : State) (r : Nat) : (delRegion s r).bundles = s.bundles := rfl
@[simp] theorem delRegion_bundleSeq (s : State) (r : Nat) : (delRegion s r).bundleSeq = s.bundleSeq := rfl
@[simp] theorem delRegion_silt (s : State) (r : Nat) : (delRegion s r).silt = s.silt := rfl
@[simp] theorem delRegion_recorder (s : State) (r : Nat) : (delRegion s r).recorder = s.recorder := rfl
@[simp] theorem delRegion_activeEpoch (s : State) (r : Nat) : (delRegion s r).activeEpoch = s.activeEpoch := rfl
@[simp] theorem delRegion_v0 (s : State) (r : Nat) : (delRegion s r).v0 = s.v0 := rfl
@[simp] theorem delRegion_v1 (s : State) (r : Nat) : (delRegion s r).v1 = s.v1 := rfl
@[simp] theorem delRegion_quiet (s : State) (r : Nat) : (delRegion s r).quiet = s.quiet := rfl
@[simp] theorem delRegion_flt (s : State) (r : Nat) : (delRegion s r).flt = s.flt := rfl
@[simp] theorem delRegion_idn (s : State) (r : Nat) : (delRegion s r).idn = s.idn := rfl
@[simp] theorem delRegion_secsBase (s : State) (r : Nat) : (delRegion s r).secsBase = s.secsBase := rfl
@[simp] theorem delRegion_outbox (s : State) (r : Nat) : (delRegion s r).outbox = s.outbox := rfl
@[simp] theorem delRegion_msis (s : State) (r : Nat) : (delRegion s r).msis = s.msis := rfl
@[simp] theorem delRegion_hostOut (s : State) (r : Nat) : (delRegion s r).hostOut = s.hostOut := rfl
@[simp] theorem delRegion_orderNo (s : State) (r : Nat) : (delRegion s r).orderNo = s.orderNo := rfl
@[simp] theorem delRegion_rep (s : State) (r : Nat) : (delRegion s r).rep = s.rep := rfl
@[simp] theorem delRegion_flc (s : State) (r : Nat) : (delRegion s r).flc = s.flc := rfl
@[simp] theorem delRegion_rf (s : State) (r : Nat) : (delRegion s r).rf = s.rf := rfl
@[simp] theorem delRegion_fab (s : State) (r : Nat) : (delRegion s r).fab = s.fab := rfl
@[simp] theorem delRegion_pwr (s : State) (r : Nat) : (delRegion s r).pwr = s.pwr := rfl
@[simp] theorem delRegion_sec (s : State) (r : Nat) : (delRegion s r).sec = s.sec := rfl

@[simp] theorem send_pending (s : State) (m : OutMsg) : (send s m).pending = s.pending := rfl
@[simp] theorem send_now (s : State) (m : OutMsg) : (send s m).now = s.now := rfl
@[simp] theorem send_free (s : State) (m : OutMsg) : (send s m).free = s.free := rfl
@[simp] theorem send_tiles (s : State) (m : OutMsg) : (send s m).tiles = s.tiles := rfl
@[simp] theorem send_routers (s : State) (m : OutMsg) : (send s m).routers = s.routers := rfl
@[simp] theorem send_engines (s : State) (m : OutMsg) : (send s m).engines = s.engines := rfl
@[simp] theorem send_ltMap (s : State) (m : OutMsg) : (send s m).ltMap = s.ltMap := rfl
@[simp] theorem send_absent (s : State) (m : OutMsg) : (send s m).absent = s.absent := rfl
@[simp] theorem send_regions (s : State) (m : OutMsg) : (send s m).regions = s.regions := rfl
@[simp] theorem send_fns (s : State) (m : OutMsg) : (send s m).fns = s.fns := rfl
@[simp] theorem send_ctxs (s : State) (m : OutMsg) : (send s m).ctxs = s.ctxs := rfl
@[simp] theorem send_pageList (s : State) (m : OutMsg) : (send s m).pageList = s.pageList := rfl
@[simp] theorem send_basin (s : State) (m : OutMsg) : (send s m).basin = s.basin := rfl
@[simp] theorem send_poison (s : State) (m : OutMsg) : (send s m).poison = s.poison := rfl
@[simp] theorem send_bsn (s : State) (m : OutMsg) : (send s m).bsn = s.bsn := rfl
@[simp] theorem send_scans (s : State) (m : OutMsg) : (send s m).scans = s.scans := rfl
@[simp] theorem send_bundles (s : State) (m : OutMsg) : (send s m).bundles = s.bundles := rfl
@[simp] theorem send_bundleSeq (s : State) (m : OutMsg) : (send s m).bundleSeq = s.bundleSeq := rfl
@[simp] theorem send_silt (s : State) (m : OutMsg) : (send s m).silt = s.silt := rfl
@[simp] theorem send_recorder (s : State) (m : OutMsg) : (send s m).recorder = s.recorder := rfl
@[simp] theorem send_activeEpoch (s : State) (m : OutMsg) : (send s m).activeEpoch = s.activeEpoch := rfl
@[simp] theorem send_v0 (s : State) (m : OutMsg) : (send s m).v0 = s.v0 := rfl
@[simp] theorem send_v1 (s : State) (m : OutMsg) : (send s m).v1 = s.v1 := rfl
@[simp] theorem send_quiet (s : State) (m : OutMsg) : (send s m).quiet = s.quiet := rfl
@[simp] theorem send_flt (s : State) (m : OutMsg) : (send s m).flt = s.flt := rfl
@[simp] theorem send_idn (s : State) (m : OutMsg) : (send s m).idn = s.idn := rfl
@[simp] theorem send_secsBase (s : State) (m : OutMsg) : (send s m).secsBase = s.secsBase := rfl
@[simp] theorem send_msis (s : State) (m : OutMsg) : (send s m).msis = s.msis := rfl
@[simp] theorem send_hostOut (s : State) (m : OutMsg) : (send s m).hostOut = s.hostOut := rfl
@[simp] theorem send_orderNo (s : State) (m : OutMsg) : (send s m).orderNo = s.orderNo := rfl
@[simp] theorem send_rep (s : State) (m : OutMsg) : (send s m).rep = s.rep := rfl
@[simp] theorem send_flc (s : State) (m : OutMsg) : (send s m).flc = s.flc := rfl
@[simp] theorem send_rf (s : State) (m : OutMsg) : (send s m).rf = s.rf := rfl
@[simp] theorem send_fab (s : State) (m : OutMsg) : (send s m).fab = s.fab := rfl
@[simp] theorem send_pwr (s : State) (m : OutMsg) : (send s m).pwr = s.pwr := rfl
@[simp] theorem send_sec (s : State) (m : OutMsg) : (send s m).sec = s.sec := rfl

@[simp] theorem tileAtPos_setTilePos (s : State) (k j : Nat) (v : Tile) : tileAtPos (setTilePos s k v) j = if j = k then v else tileAtPos s j :=
  sget_sset tileReset _ k j v

theorem tileAtPos_setTilePos_self (s : State) (k : Nat) (v : Tile) : tileAtPos (setTilePos s k v) k = v := by simp

theorem tileAtPos_setTilePos_other (s : State) (k j : Nat) (v : Tile) (h : j ≠ k) : tileAtPos (setTilePos s k v) j = tileAtPos s j := by simp [h]

@[simp] theorem routerOf_setRouter (s : State) (k j : Nat) (v : Router) : routerOf (setRouter s k v) j = if j = k then v else routerOf s j :=
  sget_sset routerReset _ k j v

theorem routerOf_setRouter_self (s : State) (k : Nat) (v : Router) : routerOf (setRouter s k v) k = v := by simp

theorem routerOf_setRouter_other (s : State) (k j : Nat) (v : Router) (h : j ≠ k) : routerOf (setRouter s k v) j = routerOf s j := by simp [h]

@[simp] theorem engineOf_setEngine (s : State) (k j : Nat) (v : Engine) : engineOf (setEngine s k v) j = if j = k then v else engineOf s j :=
  sget_sset engineReset _ k j v

theorem engineOf_setEngine_self (s : State) (k : Nat) (v : Engine) : engineOf (setEngine s k v) k = v := by simp

theorem engineOf_setEngine_other (s : State) (k j : Nat) (v : Engine) (h : j ≠ k) : engineOf (setEngine s k v) j = engineOf s j := by simp [h]

@[simp] theorem fnOf_setFn (s : State) (k j : Nat) (v : Fn) : fnOf (setFn s k v) j = if j = k then v else fnOf s j :=
  sget_sset fnReset _ k j v

theorem fnOf_setFn_self (s : State) (k : Nat) (v : Fn) : fnOf (setFn s k v) k = v := by simp

theorem fnOf_setFn_other (s : State) (k j : Nat) (v : Fn) (h : j ≠ k) : fnOf (setFn s k v) j = fnOf s j := by simp [h]

@[simp] theorem ctxOf_setCtx (s : State) (k j : Nat) (v : Ctx) : ctxOf (setCtx s k v) j = if j = k then v else ctxOf s j :=
  sget_sset ctxReset _ k j v

theorem ctxOf_setCtx_self (s : State) (k : Nat) (v : Ctx) : ctxOf (setCtx s k v) k = v := by simp

theorem ctxOf_setCtx_other (s : State) (k j : Nat) (v : Ctx) (h : j ≠ k) : ctxOf (setCtx s k v) j = ctxOf s j := by simp [h]

@[simp] theorem routerOf_updRouter (s : State) (k j : Nat) (u : Router → Router) :
    routerOf (updRouter s k u) j = if j = k then u (routerOf s j) else routerOf s j := by
  unfold updRouter
  rw [routerOf_setRouter]
  split
  next h => rw [h]
  next => rfl

@[simp] theorem engineOf_updEngine (s : State) (k j : Nat) (u : Engine → Engine) :
    engineOf (updEngine s k u) j = if j = k then u (engineOf s j) else engineOf s j := by
  unfold updEngine
  rw [engineOf_setEngine]
  split
  next h => rw [h]
  next => rfl

@[simp] theorem fnOf_updFn (s : State) (k j : Nat) (u : Fn → Fn) :
    fnOf (updFn s k u) j = if j = k then u (fnOf s j) else fnOf s j := by
  unfold updFn
  rw [fnOf_setFn]
  split
  next h => rw [h]
  next => rfl

@[simp] theorem ctxOf_updCtx (s : State) (k j : Nat) (u : Ctx → Ctx) :
    ctxOf (updCtx s k u) j = if j = k then u (ctxOf s j) else ctxOf s j := by
  unfold updCtx
  rw [ctxOf_setCtx]
  split
  next h => rw [h]
  next => rfl

/-- A tile is read back where it was written. -/
theorem tileOf_setTile_self (s : State) (lt : Nat) (t : Tile) : tileOf (setTile s lt t) lt = t := tileAtPos_setTilePos_self s _ t

theorem tileOf_updTile_self (s : State) (lt : Nat) (f : Tile → Tile) : tileOf (updTile s lt f) lt = f (tileOf s lt) :=
  tileOf_setTile_self s lt _

/-- Any other position's tile stays. -/
theorem tileAtPos_setTile_other (s : State) (lt p : Nat) (t : Tile) (h : p ≠ posOf s lt) : tileAtPos (setTile s lt t) p = tileAtPos s p :=
  tileAtPos_setTilePos_other s _ p t h

/-- A region read after an update of it. -/
theorem regionOf_updRegion (s : State) (r k : Nat) (f : Region → Region) :
    regionOf (updRegion s r f) k = if k = r then (regionOf s k).map f else regionOf s k := by
  unfold regionOf updRegion
  dsimp only
  induction s.regions with
  | nil => simp
  | cons x t ih =>
    rw [List.map_cons, List.find?_cons, List.find?_cons]
    by_cases hx : x.1 = r
    · simp only [hx, if_true]
      by_cases hk : r = k
      · subst hk
        simp
      · rw [show (r == k) = false by simpa using hk]
        exact ih
    · simp only [hx, if_false]
      by_cases hk : x.1 = k
      · rw [show (x.1 == k) = true by simpa using hk]
        simp only [Option.map_some]
        rw [if_neg (by omega)]
      · rw [show (x.1 == k) = false by simpa using hk]
        exact ih

/-- A command on a unit that exists. -/
theorem needUnit_ok {ok : Bool} {k : Out} (h : ok = true) : needUnit ok k = k := by
  rw [h]
  rfl

/-- A command whose condition holds. -/
theorem whenB_true {c : Bool} {s t : State} (h : c = true) : whenB c s t = .next t := by
  rw [h]
  rfl

end Sys2Proof.Machine
end

