-- ==== Sys2Proof/Laws/Answers.lean ====
section
/-! SUPPORT. What the mailbox's shared operations do in full: the doorbell, the checks, the response and acceptance. -/

namespace Sys2Proof.Machine

/-! ## Interrupt causes -/

/-- A function's INT_CAUSE with a cause set at a time. -/
def withCause (v : Fn) (c now : Nat) (pba : List Nat) : Fn :=
  { v with intCause := if bitOf v.intCause c then v.intCause else v.intCause + 2 ^ c, w1c := noteSet v.w1c c now, pba := pba }

theorem raiseVector_fn (s : State) (f vec : Nat) : ∃ pba, fnOf (raiseVector s f vec) f = { fnOf s f with pba := pba } := by
  unfold raiseVector
  split
  · dsimp only
    split
    · exact ⟨(fnOf s f).pba, rfl⟩
    · exact ⟨_, by rw [fnOf_setFn_self]⟩
  · exact ⟨(fnOf s f).pba, rfl⟩

theorem raiseVector_other (s : State) {f k : Nat} (vec : Nat) (h : k ≠ f) : fnOf (raiseVector s f vec) k = fnOf s k := by
  unfold raiseVector
  split
  · dsimp only
    split
    · rfl
    · rw [fnOf_setFn_other _ _ _ _ h]
  · rfl

/-- A raised cause stands in INT_CAUSE; of the function's other registers only a pending bit may differ. -/
theorem raiseCause_fn (s : State) (f c : Nat) : ∃ pba, fnOf (raiseCause s f c) f = withCause (fnOf s f) c s.now pba := by
  unfold raiseCause
  dsimp only
  split
  · exact ⟨_, by rw [fnOf_setFn_self]; rfl⟩
  · obtain ⟨p, hp⟩ := raiseVector_fn (setFn s f { fnOf s f with intCause := if bitOf (fnOf s f).intCause c then (fnOf s f).intCause else (fnOf s f).intCause + 2 ^ c, w1c := noteSet (fnOf s f).w1c c s.now }) f (causeVector s.idn.compat (fnOf s f) c)
    exact ⟨p, by rw [hp, fnOf_setFn_self]; rfl⟩

theorem raiseCause_other (s : State) {f k : Nat} (c : Nat) (h : k ≠ f) : fnOf (raiseCause s f c) k = fnOf s k := by
  unfold raiseCause
  dsimp only
  split
  · rw [fnOf_setFn_other _ _ _ _ h]
  · rw [raiseVector_other _ _ h, fnOf_setFn_other _ _ _ _ h]

/-! ## The doorbell -/

/-- The state in which a command's own part runs: its header in the command area, the doorbell rung, the block out of P2. -/
def taken (s : State) (h : CmdHdr) (op : Nat) : State :=
  let s1 := wake (setFn s h.func { putArea (fnOf s h.func) 0 (headerBytes s.idn.compat h op) with
    busy := true, done := false, rungSeq := h.seq % 2 ^ 16, rungNow := s.now })
  { s1 with pwr := { s1.pwr with busyAt := s1.now } }

theorem doorbell_rung {s : State} {h : CmdHdr} (r : Rung s h) (op : Nat) (c : Instr) (handle : State → State) :
    doorbell h op c handle s = .next (handle (taken s h op)) := by
  obtain ⟨h1, h2, h3, h4, h5, h6⟩ := r
  simp [doorbell, needUnit, funcOk, h1, h2, h3, taken]

theorem wake_fns (s : State) : (wake s).fns = s.fns := by unfold wake; split <;> rfl
theorem wake_regions (s : State) : (wake s).regions = s.regions := by unfold wake; split <;> rfl
theorem wake_idn (s : State) : (wake s).idn = s.idn := by unfold wake; split <;> rfl
theorem wake_now (s : State) : (wake s).now = s.now := by unfold wake; split <;> rfl
theorem wake_only (s : State) : Only [.pwr] s (wake s) := (wake_keeps s).1

theorem taken_only (s : State) (h : CmdHdr) (op : Nat) : Only [.fns, .pwr] s (taken s h op) := by
  have e : Keeps [.fns, .pwr] s (taken s h op) := by
    unfold taken
    dsimp only
    with_reducible refine Keeps.set_pwr rfl ?_
    with_reducible refine Keeps.step ?_ (wake_keeps ..) ?_
    with_reducible refine Keeps.step ?_ (setFn_keeps ..) ?_
    exact Keeps.refl _
    rfl
    rfl
  exact e.1

theorem taken_fn (s : State) (h : CmdHdr) (op : Nat) :
    fnOf (taken s h op) h.func = { fnOf s h.func with
      cmd := memWrL (fnOf s h.func).cmd 0 (headerBytes s.idn.compat h op), busy := true, done := false, rungSeq := h.seq % 2 ^ 16, rungNow := s.now } := by
  have e : fnOf (taken s h op) h.func = fnOf (setFn s h.func { putArea (fnOf s h.func) 0 (headerBytes s.idn.compat h op) with
    busy := true, done := false, rungSeq := h.seq % 2 ^ 16, rungNow := s.now }) h.func := by
    unfold taken fnOf
    dsimp only
    rw [wake_fns]
  rw [e, fnOf_setFn_self]; rfl

theorem taken_other (s : State) {h : CmdHdr} (op : Nat) {k : Nat} (hk : k ≠ h.func) : fnOf (taken s h op) k = fnOf s k := by
  have e : fnOf (taken s h op) k = fnOf (setFn s h.func { putArea (fnOf s h.func) 0 (headerBytes s.idn.compat h op) with
    busy := true, done := false, rungSeq := h.seq % 2 ^ 16, rungNow := s.now }) k := by
    unfold taken fnOf
    dsimp only
    rw [wake_fns]
  rw [e, fnOf_setFn_other _ _ _ _ hk]

@[simp] theorem taken_idn (s : State) (h : CmdHdr) (op : Nat) : (taken s h op).idn = s.idn := taken_only s h op .idn (by decide)
@[simp] theorem taken_now (s : State) (h : CmdHdr) (op : Nat) : (taken s h op).now = s.now := taken_only s h op .now (by decide)
@[simp] theorem taken_regions (s : State) (h : CmdHdr) (op : Nat) : (taken s h op).regions = s.regions :=
  taken_only s h op .regions (by decide)
@[simp] theorem taken_fab (s : State) (h : CmdHdr) (op : Nat) : (taken s h op).fab = s.fab := taken_only s h op .fab (by decide)
@[simp] theorem taken_flc (s : State) (h : CmdHdr) (op : Nat) : (taken s h op).flc = s.flc := taken_only s h op .flc (by decide)
@[simp] theorem taken_silt (s : State) (h : CmdHdr) (op : Nat) : (taken s h op).silt = s.silt := taken_only s h op .silt (by decide)
@[simp] theorem taken_sec (s : State) (h : CmdHdr) (op : Nat) : (taken s h op).sec = s.sec := taken_only s h op .sec (by decide)
@[simp] theorem taken_rep (s : State) (h : CmdHdr) (op : Nat) : (taken s h op).rep = s.rep := taken_only s h op .rep (by decide)
@[simp] theorem taken_bundles (s : State) (h : CmdHdr) (op : Nat) : (taken s h op).bundles = s.bundles :=
  taken_only s h op .bundles (by decide)
@[simp] theorem taken_recorder (s : State) (h : CmdHdr) (op : Nat) : (taken s h op).recorder = s.recorder :=
  taken_only s h op .recorder (by decide)
@[simp] theorem taken_rf (s : State) (h : CmdHdr) (op : Nat) : (taken s h op).rf = s.rf := taken_only s h op .rf (by decide)
@[simp] theorem taken_tiles (s : State) (h : CmdHdr) (op : Nat) : (taken s h op).tiles = s.tiles := taken_only s h op .tiles (by decide)
@[simp] theorem taken_ctxs (s : State) (h : CmdHdr) (op : Nat) : (taken s h op).ctxs = s.ctxs := taken_only s h op .ctxs (by decide)
@[simp] theorem taken_ltMap (s : State) (h : CmdHdr) (op : Nat) : (taken s h op).ltMap = s.ltMap := taken_only s h op .ltMap (by decide)
@[simp] theorem taken_absent (s : State) (h : CmdHdr) (op : Nat) : (taken s h op).absent = s.absent :=
  taken_only s h op .absent (by decide)
@[simp] theorem taken_engines (s : State) (h : CmdHdr) (op : Nat) : (taken s h op).engines = s.engines :=
  taken_only s h op .engines (by decide)
@[simp] theorem taken_scans (s : State) (h : CmdHdr) (op : Nat) : (taken s h op).scans = s.scans := taken_only s h op .scans (by decide)
@[simp] theorem taken_basin (s : State) (h : CmdHdr) (op : Nat) : (taken s h op).basin = s.basin := taken_only s h op .basin (by decide)
@[simp] theorem taken_orderNo (s : State) (h : CmdHdr) (op : Nat) : (taken s h op).orderNo = s.orderNo :=
  taken_only s h op .orderNo (by decide)
@[simp] theorem taken_free (s : State) (h : CmdHdr) (op : Nat) : (taken s h op).free = s.free := taken_only s h op .free (by decide)
@[simp] theorem taken_hostOut (s : State) (h : CmdHdr) (op : Nat) : (taken s h op).hostOut = s.hostOut :=
  taken_only s h op .hostOut (by decide)
@[simp] theorem taken_flt (s : State) (h : CmdHdr) (op : Nat) : (taken s h op).flt = s.flt := taken_only s h op .flt (by decide)

@[simp] theorem taken_regionOf (s : State) (h : CmdHdr) (op r : Nat) : regionOf (taken s h op) r = regionOf s r := by
  simp [regionOf]

@[simp] theorem regionOf_taken (s : State) (h : CmdHdr) (op : Nat) : regionOf (taken s h op) = regionOf s := by
  funext r; simp

theorem useOf_taken (s : State) (h : CmdHdr) (op f : Nat) : useOf (taken s h op) f = useOf s f := by
  simp [useOf, ownedRegions]

theorem Only.two {L K M : List Part} {s t u : State} (a : Only K s t) (b : Only L t u) (h : sub K M = true) (k : sub L M = true) :
    Only M s u :=
  (a.mono h).trans (b.mono k)

theorem KeepsOut.of_next {L : List Part} {s t : State} {o : Out} (k : KeepsOut L s o) (e : o = .next t) : Keeps L s t := k t e

/-! ## The checks -/

theorem firstFailure_taken {s : State} {h : CmdHdr} (r : Rung s h) (op : Nat) (allowed deferred : Bool) (w : Issuer) {len : Nat}
    (hl : h.paramLen = len) (hw : issuerOk s h w = true) :
    firstFailure (taken s h op) h allowed true w len 0 deferred = none := by
  have hi : issuerOk (taken s h op) h w = true := by
    rw [← hw]; simp [issuerOk]
  obtain ⟨h1, h2, h3, h4, h5, h6⟩ := r
  have hb : ¬ backlogMax (taken s h op) ≤ (fnOf (taken s h op) h.func).backlog.length := by
    rw [taken_fn]; simp only [backlogMax, taken_idn] at h6 ⊢; omega
  simp [firstFailure, hi, hl, hb]
  rw [taken_fn]; simp [h4]

theorem issuer_any {s : State} {h : CmdHdr} (r : Rung s h) : issuerOk s h .any = true := by
  obtain ⟨_, _, _, _, h5, _⟩ := r
  by_cases ha : h.admin = true
  · simp [issuerOk, h5 ha]
  · simp [issuerOk, ha]

theorem issuer_pf {s : State} {h : CmdHdr} (hf : h.func = 0) : issuerOk s h .pf = true := by
  simp [issuerOk, hf]

theorem issuer_owner {s : State} {h : CmdHdr} (r : Rung s h) {g : Region} (hg : regionOf s h.region = some g) (ho : g.owner = h.func) :
    issuerOk s h .owner = true := by
  obtain ⟨_, _, _, _, h5, _⟩ := r
  by_cases ha : h.admin = true
  · simp [issuerOk, h5 ha, hg, ho]
  · simp [issuerOk, ha, hg, ho]

theorem issuer_ownerPf {s : State} {h : CmdHdr} (r : Rung s h) {g : Region} (hg : regionOf s h.region = some g) (ho : g.owner = h.func) :
    issuerOk s h .ownerPf = true := by
  obtain ⟨_, _, _, _, h5, _⟩ := r
  by_cases ha : h.admin = true
  · simp [issuerOk, h5 ha, hg, ho]
  · simp [issuerOk, ha, hg, ho]

/-- An immediate command that passes the checks runs its own part. -/
theorem immediate_ok {s : State} {h : CmdHdr} (r : Rung s h) (op : Nat) (allowed : Bool) (w : Issuer) {len : Nat}
    (hl : h.paramLen = len) (hw : issuerOk s h w = true) (k : State → State) :
    immediate h op allowed w len k (taken s h op) = k (taken s h op) := by
  simp [immediate, firstFailure_taken r op allowed false w hl hw, checked]

theorem deferred_ok {s : State} {h : CmdHdr} (r : Rung s h) (op : Nat) (w : Issuer) {len : Nat}
    (hl : h.paramLen = len) (hw : issuerOk s h w = true) (k : State → State) :
    deferred h op w len 0 k (taken s h op) = k (taken s h op) := by
  simp [deferred, firstFailure_taken r op false true w hl hw, checked]

theorem regionCmd_ok {s : State} {h : CmdHdr} (r : Rung s h) (op : Nat) (w : Issuer) {len : Nat} {g : Region}
    (hl : h.paramLen = len) (hw : issuerOk s h w = true) (hg : regionOf s h.region = some g) (st : State → Region → Nat)
    (hst : st (taken s h op) g = 0) (k : State → Region → State) :
    regionCmd h op w len st k (taken s h op) = k (taken s h op) g := by
  unfold regionCmd
  simp only [taken_regionOf, hg, Option.elim, hst]
  rw [deferred_ok r op w hl hw]
  simp [onOwn, hg]

/-! ## The response -/

theorem respondId_fn (s : State) (h : CmdHdr) (op status id : Nat) (body : List Byte) :
    ∃ pba, fnOf (respondId s h op status id body) h.func = withCause { fnOf s h.func with
      resp := responseBytes s.idn.compat h op status id body, lastSeq := h.seq % 2 ^ 16, done := true, busy := false, locked := none, w1c := noteSet (fnOf s h.func).w1c 29 s.now }
      causeMbx s.now pba := by
  unfold respondId
  dsimp only
  obtain ⟨p, hp⟩ := raiseCause_fn (setFn s h.func { fnOf s h.func with
      resp := responseBytes s.idn.compat h op status id body, lastSeq := h.seq % 2 ^ 16, done := true, busy := false, locked := none, w1c := noteSet (fnOf s h.func).w1c 29 s.now })
      h.func causeMbx
  exact ⟨p, by rw [hp, fnOf_setFn_self]; rfl⟩

theorem respondId_other (s : State) {h : CmdHdr} (op status id : Nat) (body : List Byte) {k : Nat} (hk : k ≠ h.func) :
    fnOf (respondId s h op status id body) k = fnOf s k := by
  unfold respondId
  dsimp only
  rw [raiseCause_other _ _ hk, fnOf_setFn_other _ _ _ _ hk]

/-- A response to a command that was taken, from a state that left the function's registers as they then stood. -/
theorem respond_answered {s u : State} {h : CmdHdr} {op status : Nat} {body : List Byte} {v : Fn}
    (hi : u.idn.compat = s.idn.compat) (hn : u.now = s.now)
    (hv : fnOf u h.func = { v with
      cmd := memWrL v.cmd 0 (headerBytes s.idn.compat h op), busy := true, done := false, rungSeq := h.seq % 2 ^ 16, rungNow := s.now }) :
    Answered s (respond u h op status body) h op status body v := by
  obtain ⟨p, hp⟩ := respondId_fn u h op status 0 body
  exact ⟨p, by unfold respond; rw [hp, hv, hi, hn]; rfl⟩

theorem respond_taken {s : State} {h : CmdHdr} {op status : Nat} {body : List Byte} :
    Answered s (respond (taken s h op) h op status body) h op status body (fnOf s h.func) :=
  respond_answered (by simp) (by simp) (taken_fn s h op)

theorem respond_only (s : State) (h : CmdHdr) (op status : Nat) (body : List Byte) : Only [.fns, .msis] s (respond s h op status body) :=
  (respond_keeps s h op status body).1

/-! ## Acceptance -/

theorem mem_mapIf {α : Type} {p : α → Bool} {f : α → α} {l : List α} {x : α} (h : x ∈ l) (hp : p x = true) : f x ∈ mapIf p f l := by
  unfold mapIf
  exact List.mem_map.2 ⟨x, h, by simp [hp]⟩

/-- An acceptance depends on the function's own registers only. -/
theorem Accepted.of_fn {s t u : State} {h : CmdHdr} {op region : Nat} {fin : Bool} {st : Nat} {res : List Byte}
    (a : Accepted s t h op region fin st res) (e : fnOf u h.func = fnOf t h.func) : Accepted s u h op region fin st res := by
  obtain ⟨p, rs, q, hv, hq⟩ := a
  exact ⟨p, rs, q, e.trans hv, hq⟩

theorem Answered.of_fn {s t u : State} {h : CmdHdr} {op st : Nat} {res : List Byte} {v : Fn}
    (a : Answered s t h op st res v) (e : fnOf u h.func = fnOf t h.func) : Answered s u h op st res v := by
  obtain ⟨p, hp⟩ := a
  exact ⟨p, e.trans hp⟩

/-- A command's registers as its own part finds them. -/
def takenFn (s : State) (h : CmdHdr) (op : Nat) : Fn :=
  { fnOf s h.func with
    cmd := memWrL (fnOf s h.func).cmd 0 (headerBytes s.idn.compat h op), busy := true, done := false, rungSeq := h.seq % 2 ^ 16, rungNow := s.now }

theorem respondSet_fn (s : State) (h : CmdHdr) (op status id : Nat) (body : List Byte) (v : Fn) :
    ∃ pba, fnOf (respondId (setFn s h.func v) h op status id body) h.func = withCause { v with
      resp := responseBytes s.idn.compat h op status id body, lastSeq := h.seq % 2 ^ 16, done := true, busy := false, locked := none, w1c := noteSet v.w1c 29 s.now }
      causeMbx s.now pba := by
  obtain ⟨p, hp⟩ := respondId_fn (setFn s h.func v) h op status id body
  exact ⟨p, by rw [hp, fnOf_setFn_self]; rfl⟩

/-- The request that an acceptance opens. -/
def openReq (v : Fn) (h : CmdHdr) (op region parts : Nat) (dma : Bool) : Req :=
  { id := v.nextReq, opcode := op, tag := h.tag, status := 1, partMap := 0, partsMinus1 := parts, region := region, result := []
    finished := false, hostDma := dma, seqNo := h.seq }

theorem accept_accepted {s u : State} {h : CmdHdr} {op : Nat} (region parts : Nat) (dma : Bool)
    (hi : u.idn.compat = s.idn.compat) (hn : u.now = s.now) (hv : fnOf u h.func = takenFn s h op) :
    Accepted s (accept u h op region parts dma).1 h op region false 1 [] ∧ (accept u h op region parts dma).2 = (fnOf s h.func).nextReq := by
  refine ⟨?_, by simp [accept, hv, takenFn]⟩
  obtain ⟨p, hp⟩ := respondSet_fn u h op 1 (takenFn s h op).nextReq [] { takenFn s h op with
    nextReq := (takenFn s h op).nextReq + 1, requests := (takenFn s h op).requests ++ [openReq (takenFn s h op) h op region parts dma] }
  refine ⟨p, (fnOf s h.func).requests ++ [openReq (fnOf s h.func) h op region parts dma], openReq (fnOf s h.func) h op region parts dma,
    ?_, by simp, rfl, rfl, rfl, rfl, rfl, rfl, rfl⟩
  have e : (accept u h op region parts dma).1 = respondId (setFn u h.func { takenFn s h op with
      nextReq := (takenFn s h op).nextReq + 1, requests := (takenFn s h op).requests ++ [openReq (takenFn s h op) h op region parts dma] })
      h op 1 (takenFn s h op).nextReq [] := by
    unfold accept
    dsimp only
    rw [hv]
    rfl
  rw [e, hp, hi, hn]
  rfl

theorem accept_other (u : State) {h : CmdHdr} (op region parts : Nat) (dma : Bool) {k : Nat} (hk : k ≠ h.func) :
    fnOf (accept u h op region parts dma).1 k = fnOf u k := by
  unfold accept
  dsimp only
  rw [respondId_other _ _ _ _ _ hk, fnOf_setFn_other _ _ _ _ hk]

/-- An open accepted request after a change of it. -/
theorem updReq_accepted {s t : State} {h : CmdHdr} {op region st : Nat} {res : List Byte} (a : Accepted s t h op region false st res)
    {g : Req → Req} (hid : ∀ q, (g q).id = q.id) (hop : ∀ q, (g q).opcode = q.opcode) (htag : ∀ q, (g q).tag = q.tag)
    (hreg : ∀ q, (g q).region = q.region) {fin : Bool} {st' : Nat} {res' : List Byte}
    (hf : ∀ q : Req, q.finished = false → (g q).finished = fin) (hs : ∀ q : Req, q.status = st → (g q).status = st')
    (hr : ∀ q : Req, q.result = res → (g q).result = res') :
    Accepted s (updReq t h.func (fnOf s h.func).nextReq g) h op region fin st' res' := by
  obtain ⟨p, rs, q, hv, hq, h1, h2, h3, h4, h5, h6, h7⟩ := a
  refine ⟨p, mapIf (fun q => q.id == (fnOf s h.func).nextReq && !q.finished) g rs, g q, ?_, mem_mapIf hq (by simp [h1, h5]), by rw [hid, h1],
    by rw [hop, h2], by rw [htag, h3], by rw [hreg, h4], hf q h5, hs q h6, hr q h7⟩
  unfold updReq
  rw [fnOf_updFn, if_pos rfl, hv]
  rfl

theorem finishReq_accepted {s t : State} {h : CmdHdr} {op region st : Nat} {res : List Byte} (a : Accepted s t h op region false st res)
    (status : Nat) (result : List Byte) :
    Accepted s (finishReq t h.func (fnOf s h.func).nextReq status result) h op region true status result := by
  have b : Accepted s { t with pwr := { t.pwr with busyAt := t.now } } h op region false st res := a.of_fn rfl
  unfold finishReq
  refine updReq_accepted b ?_ ?_ ?_ ?_ ?_ ?_ ?_
  all_goals first | exact fun _ => rfl | exact fun _ _ => rfl

theorem acceptDone_accepted {s u : State} {h : CmdHdr} {op : Nat} (region status : Nat) (result : List Byte)
    (hi : u.idn.compat = s.idn.compat) (hn : u.now = s.now) (hv : fnOf u h.func = takenFn s h op) :
    Accepted s (acceptDone u h op region status result) h op region true status result := by
  have a := accept_accepted (s := s) (u := u) region 0 false hi hn hv
  unfold acceptDone
  dsimp only
  rw [a.2]
  exact finishReq_accepted a.1 status result

theorem updReq_other (u : State) {f k : Nat} (id : Nat) (g : Req → Req) (hk : k ≠ f) : fnOf (updReq u f id g) k = fnOf u k := by
  unfold updReq
  rw [fnOf_updFn, if_neg hk]

theorem finishReq_other (u : State) {f k : Nat} (id st : Nat) (res : List Byte) (hk : k ≠ f) : fnOf (finishReq u f id st res) k = fnOf u k := by
  unfold finishReq
  rw [updReq_other _ _ _ hk]
  rfl

theorem acceptDone_other (u : State) {h : CmdHdr} (op region st : Nat) (res : List Byte) {k : Nat} (hk : k ≠ h.func) :
    fnOf (acceptDone u h op region st res) k = fnOf u k := by
  unfold acceptDone
  dsimp only
  rw [finishReq_other _ _ _ _ hk, accept_other _ _ _ _ _ hk]

end Sys2Proof.Machine
end

