-- ==== Sys2Proof/Laws/RegionCommands.lean ====
section
/-! SUPPORT. What the operations of Machine/RegionCommands.lean may change: for each, the parts of the state. -/

namespace Sys2Proof.Machine

theorem takeColls_keeps (s : State) (x1 : Nat) (x2 : Nat) (x3 : List Nat) :
    Keeps [.engines] s (takeColls s x1 x2 x3) := by
  unfold takeColls
  with_reducible refine Keeps.foldl ?_ ?_
  exact Keeps.refl _
  intro y2
  intro y3
  dsimp only
  with_reducible refine Keeps.step ?_ (updEngine_keeps ..) ?_
  exact Keeps.refl _
  rfl

theorem createRegion_keeps (s : State) (x1 : Nat) (x2 : Nat) (x3 : Nat) (x4 : RegionBlock) :
    Keeps [.tiles, .routers, .engines, .regions, .sec] s (createRegion s x1 x2 x3 x4) := by
  unfold createRegion
  dsimp only
  with_reducible refine Keeps.step ?_ (setFootprints_keeps ..) ?_
  with_reducible refine Keeps.set_sec (rfl) ?_ ?_ ?_
  with_reducible exact fun h => ⟨h.1, h.2, h.3, h.4, h.5, h.6, h.7, h.8, h.9, h.10⟩
  exact ⟨Nat.le_refl _, Nat.le_refl _, rfl, rfl, rfl, rfl, rfl⟩
  with_reducible refine Keeps.foldl ?_ ?_
  with_reducible refine Keeps.step ?_ (takeColls_keeps ..) ?_
  with_reducible refine Keeps.step ?_ (addRegion_keeps ..) ?_
  exact Keeps.refl _
  rfl
  rfl
  intro y11
  intro y12
  with_reducible refine Keeps.step ?_ (updTile_keeps ..) ?_
  exact Keeps.refl _
  rfl
  rfl

theorem doRegionCreate_keeps (x0 : CmdHdr) (x1 : RegionBlock) (s : State) :
    Keeps [.tiles, .routers, .engines, .regions, .fns, .msis, .pwr, .sec] s (doRegionCreate x0 x1 s) := by
  unfold doRegionCreate
  with_reducible refine Keeps.step ?_ (deferred_keeps (L := [.tiles, .routers, .engines, .regions, .fns, .msis, .pwr, .sec]) (rfl) _ _ _ _ _ _ _ ?_) (sub_refl _)
  exact Keeps.refl _
  intro y2
  with_reducible refine Keeps.ite ?_ ?_
  with_reducible refine Keeps.step ?_ (respond_keeps ..) ?_
  exact Keeps.refl _
  rfl
  with_reducible refine Keeps.ite ?_ ?_
  with_reducible refine Keeps.step ?_ (respond_keeps ..) ?_
  exact Keeps.refl _
  rfl
  split
  with_reducible refine Keeps.step ?_ (shortfall_keeps ..) ?_
  exact Keeps.refl _
  rfl
  dsimp only
  with_reducible refine Keeps.step ?_ (acceptDone_keeps ..) ?_
  with_reducible refine Keeps.step ?_ (createRegion_keeps ..) ?_
  exact Keeps.refl _
  rfl
  rfl

theorem execRegionCreate_keeps (x0 : CmdHdr) (x1 : RegionBlock) (s : State) :
    KeepsOut [.tiles, .routers, .engines, .regions, .fns, .msis, .pwr, .sec] s (execRegionCreate x0 x1 s) := by
  unfold execRegionCreate
  with_reducible refine KeepsOut.step ?_ (doorbell_keeps (L := [.tiles, .routers, .engines, .regions, .fns, .msis, .pwr, .sec]) (rfl) _ _ _ _ _ ?_) (sub_refl _)
  exact Keeps.refl _
  intro y2
  with_reducible refine Keeps.step ?_ (doRegionCreate_keeps ..) ?_
  exact Keeps.refl _
  rfl

theorem onOwn_keeps {L : List Part} (hL : sub [.fns, .msis] L = true) (s : State) (x1 : CmdHdr) (x2 : Nat) (x3 : Region → State) (h3 : ∀ a0, Keeps L s (x3 a0)) :
    Keeps L s (onOwn s x1 x2 x3) := by
  unfold onOwn
  split
  with_reducible refine Keeps.step ?_ (h3 ..) (sub_refl _)
  exact Keeps.refl _
  with_reducible refine Keeps.step ?_ (respond_keeps ..) ?_
  exact Keeps.refl _
  exact hL

theorem regionCmd_keeps {L : List Part} (hL : sub [.fns, .msis] L = true) (x0 : CmdHdr) (x1 : Nat) (x2 : Issuer) (x3 : Nat) (x4 : State → Region → Nat) (x5 : State → Region → State) (s : State) (h5 : ∀ a0 a1, Keeps L a0 (x5 a0 a1)) :
    Keeps L s (regionCmd x0 x1 x2 x3 x4 x5 s) := by
  unfold regionCmd
  with_reducible refine Keeps.step ?_ (deferred_keeps (L := L) (sub_trans rfl hL) _ _ _ _ _ _ _ ?_) (sub_refl _)
  exact Keeps.refl _
  intro y2
  with_reducible refine Keeps.step ?_ (onOwn_keeps (L := L) (sub_trans rfl hL) _ _ _ _ ?_) (sub_refl _)
  exact Keeps.refl _
  intro y5
  with_reducible refine Keeps.step ?_ (h5 ..) (sub_refl _)
  exact Keeps.refl _

theorem doRegionDestroy_keeps (x0 : CmdHdr) (s : State) :
    Keeps [.regions, .fns, .msis, .orderNo] s (doRegionDestroy x0 s) := by
  unfold doRegionDestroy
  with_reducible refine Keeps.step ?_ (regionCmd_keeps (L := [.regions, .fns, .msis, .orderNo]) (rfl) _ _ _ _ _ _ _ ?_) (sub_refl _)
  exact Keeps.refl _
  intro y2
  intro y3
  dsimp only
  with_reducible refine Keeps.step ?_ (addAct_keeps ..) ?_
  with_reducible refine Keeps.step ?_ (accept_keeps ..) ?_
  exact Keeps.refl _
  rfl
  rfl

theorem execRegionDestroy_keeps (x0 : CmdHdr) (s : State) :
    KeepsOut [.regions, .fns, .msis, .orderNo, .pwr] s (execRegionDestroy x0 s) := by
  unfold execRegionDestroy
  with_reducible refine KeepsOut.step ?_ (doorbell_keeps (L := [.regions, .fns, .msis, .orderNo, .pwr]) (rfl) _ _ _ _ _ ?_) (sub_refl _)
  exact Keeps.refl _
  intro y2
  with_reducible refine Keeps.step ?_ (doRegionDestroy_keeps ..) ?_
  exact Keeps.refl _
  rfl

theorem writeParts_keeps (x0 : Nat) (x1 : Nat) (x2 : Nat) (x3 : List (Option (List Byte))) (s : State) :
    Keeps [.basin, .poison, .scans] s (writeParts x0 x1 x2 x3 s).1 := by
  unfold writeParts
  with_reducible refine Keeps.foldl_fst ?_ ?_
  dsimp only
  exact Keeps.refl _
  intro y3
  intro y4
  split
  exact Keeps.refl _
  dsimp only
  with_reducible refine Keeps.step ?_ (basinPut_keeps ..) ?_
  exact Keeps.refl _
  rfl

theorem doImageWrite_keeps (x0 : CmdHdr) (x1 : Nat) (x2 : Nat) (x3 : Nat) (x4 : List (Option (List Byte))) (s : State) :
    Keeps [.fns, .basin, .poison, .scans, .msis, .pwr] s (doImageWrite x0 x1 x2 x3 x4 s) := by
  unfold doImageWrite
  with_reducible refine Keeps.step ?_ (regionCmd_keeps (L := [.fns, .basin, .poison, .scans, .msis, .pwr]) (rfl) _ _ _ _ _ _ _ ?_) (sub_refl _)
  exact Keeps.refl _
  intro y2
  intro y3
  with_reducible refine Keeps.ite ?_ ?_
  with_reducible refine Keeps.step ?_ (respond_keeps ..) ?_
  exact Keeps.refl _
  rfl
  dsimp only
  with_reducible refine Keeps.step ?_ (finishReq_keeps ..) ?_
  with_reducible refine Keeps.step ?_ (updReq_keeps ..) ?_
  with_reducible refine Keeps.step ?_ (writeParts_keeps ..) ?_
  with_reducible refine Keeps.step ?_ (accept_keeps ..) ?_
  exact Keeps.refl _
  rfl
  rfl
  rfl
  rfl

theorem execImageWrite_keeps (x0 : CmdHdr) (x1 : Nat) (x2 : Nat) (x3 : Nat) (x4 : List (Option (List Byte))) (s : State) :
    KeepsOut [.fns, .basin, .poison, .scans, .msis, .pwr] s (execImageWrite x0 x1 x2 x3 x4 s) := by
  unfold execImageWrite
  with_reducible refine KeepsOut.step ?_ (doorbell_keeps (L := [.fns, .basin, .poison, .scans, .msis, .pwr]) (rfl) _ _ _ _ _ ?_) (sub_refl _)
  exact Keeps.refl _
  intro y2
  with_reducible refine Keeps.step ?_ (doImageWrite_keeps ..) ?_
  exact Keeps.refl _
  rfl

theorem doGroupSet_keeps (x0 : CmdHdr) (x1 : Nat) (x2 : Nat) (x3 : Nat) (x4 : Option (List Peer)) (s : State) :
    Keeps [.regions, .fns, .msis, .orderNo, .pwr] s (doGroupSet x0 x1 x2 x3 x4 s) := by
  unfold doGroupSet
  with_reducible refine Keeps.step ?_ (regionCmd_keeps (L := [.regions, .fns, .msis, .orderNo, .pwr]) (rfl) _ _ _ _ _ _ _ ?_) (sub_refl _)
  exact Keeps.refl _
  intro y2
  intro y3
  with_reducible refine Keeps.ite ?_ ?_
  with_reducible refine Keeps.step ?_ (respond_keeps ..) ?_
  exact Keeps.refl _
  rfl
  split
  with_reducible refine Keeps.step ?_ (acceptDone_keeps ..) ?_
  exact Keeps.refl _
  rfl
  with_reducible refine Keeps.ite ?_ ?_
  with_reducible refine Keeps.step ?_ (respond_keeps ..) ?_
  exact Keeps.refl _
  rfl
  dsimp only
  with_reducible refine Keeps.step ?_ (settleMembers_keeps ..) ?_
  with_reducible refine Keeps.step ?_ (addAct_keeps ..) ?_
  with_reducible refine Keeps.step ?_ (accept_keeps ..) ?_
  exact Keeps.refl _
  rfl
  rfl
  rfl

theorem execGroupSet_keeps (x0 : CmdHdr) (x1 : Nat) (x2 : Nat) (x3 : Nat) (x4 : Option (List Peer)) (s : State) :
    KeepsOut [.regions, .fns, .msis, .orderNo, .pwr] s (execGroupSet x0 x1 x2 x3 x4 s) := by
  unfold execGroupSet
  with_reducible refine KeepsOut.step ?_ (doorbell_keeps (L := [.regions, .fns, .msis, .orderNo, .pwr]) (rfl) _ _ _ _ _ ?_) (sub_refl _)
  exact Keeps.refl _
  intro y2
  with_reducible refine Keeps.step ?_ (doGroupSet_keeps ..) ?_
  exact Keeps.refl _
  rfl

theorem doRun_keeps (x0 : CmdHdr) (x1 : Nat) (x2 : Bool) (s : State) :
    Keeps [.regions, .fns, .ctxs, .msis] s (doRun x0 x1 x2 s) := by
  unfold doRun
  with_reducible refine Keeps.step ?_ (regionCmd_keeps (L := [.regions, .fns, .ctxs, .msis]) (rfl) _ _ _ _ _ _ _ ?_) (sub_refl _)
  exact Keeps.refl _
  intro y2
  intro y3
  dsimp only
  with_reducible refine Keeps.step ?_ (deliverTokens_keeps ..) ?_
  with_reducible refine Keeps.step ?_ (postRunState_keeps ..) ?_
  with_reducible refine Keeps.step ?_ (updRegion_keeps ..) ?_
  with_reducible refine Keeps.step ?_ (accept_keeps ..) ?_
  exact Keeps.refl _
  rfl
  rfl
  rfl
  rfl

theorem execRun_keeps (x0 : CmdHdr) (x1 : Nat) (x2 : Bool) (s : State) :
    KeepsOut [.regions, .fns, .ctxs, .msis, .pwr] s (execRun x0 x1 x2 s) := by
  unfold execRun
  with_reducible refine KeepsOut.step ?_ (doorbell_keeps (L := [.regions, .fns, .ctxs, .msis, .pwr]) (rfl) _ _ _ _ _ ?_) (sub_refl _)
  exact Keeps.refl _
  intro y2
  with_reducible refine Keeps.step ?_ (doRun_keeps ..) ?_
  exact Keeps.refl _
  rfl

theorem doStop_keeps (x0 : CmdHdr) (x1 : Bool) (s : State) :
    Keeps [.regions, .fns, .msis, .orderNo] s (doStop x0 x1 s) := by
  unfold doStop
  with_reducible refine Keeps.step ?_ (regionCmd_keeps (L := [.regions, .fns, .msis, .orderNo]) (rfl) _ _ _ _ _ _ _ ?_) (sub_refl _)
  exact Keeps.refl _
  intro y2
  intro y3
  with_reducible refine Keeps.ite ?_ ?_
  with_reducible refine Keeps.step ?_ (respond_keeps ..) ?_
  exact Keeps.refl _
  rfl
  dsimp only
  with_reducible refine Keeps.step ?_ (addAct_keeps ..) ?_
  with_reducible refine Keeps.step ?_ (accept_keeps ..) ?_
  exact Keeps.refl _
  rfl
  rfl

theorem execStop_keeps (x0 : CmdHdr) (x1 : Bool) (s : State) :
    KeepsOut [.regions, .fns, .msis, .orderNo, .pwr] s (execStop x0 x1 s) := by
  unfold execStop
  with_reducible refine KeepsOut.step ?_ (doorbell_keeps (L := [.regions, .fns, .msis, .orderNo, .pwr]) (rfl) _ _ _ _ _ ?_) (sub_refl _)
  exact Keeps.refl _
  intro y2
  with_reducible refine Keeps.step ?_ (doStop_keeps ..) ?_
  exact Keeps.refl _
  rfl

theorem doJoinShadow_keeps (x0 : CmdHdr) (x1 : Nat) (x2 : Nat) (x3 : Nat) (x4 : WorkingInfo) (s : State) :
    Keeps [.fns, .msis, .rf] s (doJoinShadow x0 x1 x2 x3 x4 s) := by
  unfold doJoinShadow
  with_reducible refine Keeps.step ?_ (regionCmd_keeps (L := [.fns, .msis, .rf]) (rfl) _ _ _ _ _ _ _ ?_) (sub_refl _)
  exact Keeps.refl _
  intro y2
  intro y3
  split
  dsimp only
  with_reducible refine Keeps.step ?_ (updRf_keeps ..) ?_
  with_reducible refine Keeps.step ?_ (accept_keeps ..) ?_
  exact Keeps.refl _
  rfl
  rfl
  with_reducible refine Keeps.step ?_ (respond_keeps ..) ?_
  exact Keeps.refl _
  rfl

theorem execJoinShadow_keeps (x0 : CmdHdr) (x1 : Nat) (x2 : Nat) (x3 : Nat) (x4 : WorkingInfo) (s : State) :
    KeepsOut [.fns, .msis, .rf, .pwr] s (execJoinShadow x0 x1 x2 x3 x4 s) := by
  unfold execJoinShadow
  with_reducible refine KeepsOut.step ?_ (doorbell_keeps (L := [.fns, .msis, .rf, .pwr]) (rfl) _ _ _ _ _ ?_) (sub_refl _)
  exact Keeps.refl _
  intro y2
  with_reducible refine Keeps.step ?_ (doJoinShadow_keeps ..) ?_
  exact Keeps.refl _
  rfl

theorem doResetInstance_keeps (x0 : CmdHdr) (s : State) :
    Keeps [.fns, .msis, .rf] s (doResetInstance x0 s) := by
  unfold doResetInstance
  with_reducible refine Keeps.step ?_ (regionCmd_keeps (L := [.fns, .msis, .rf]) (rfl) _ _ _ _ _ _ _ ?_) (sub_refl _)
  exact Keeps.refl _
  intro y2
  intro y3
  dsimp only
  with_reducible refine Keeps.step ?_ (updRf_keeps ..) ?_
  with_reducible refine Keeps.step ?_ (accept_keeps ..) ?_
  exact Keeps.refl _
  rfl
  rfl

theorem execResetInstance_keeps (x0 : CmdHdr) (s : State) :
    KeepsOut [.fns, .msis, .rf, .pwr] s (execResetInstance x0 s) := by
  unfold execResetInstance
  with_reducible refine KeepsOut.step ?_ (doorbell_keeps (L := [.fns, .msis, .rf, .pwr]) (rfl) _ _ _ _ _ ?_) (sub_refl _)
  exact Keeps.refl _
  intro y2
  with_reducible refine Keeps.step ?_ (doResetInstance_keeps ..) ?_
  exact Keeps.refl _
  rfl

theorem captureFor_keeps (s : State) (x1 : Nat) (x2 : Nat) (x3 : Nat) :
    Keeps [.free, .tiles, .fns, .scans, .bundles, .bundleSeq, .recorder, .flt, .msis, .pwr] s (captureFor s x1 x2 x3) := by
  unfold captureFor
  dsimp only
  split
  with_reducible refine Keeps.step ?_ (finishReq_keeps ..) ?_
  with_reducible refine Keeps.step ?_ (captureRegion_keeps ..) ?_
  exact Keeps.refl _
  rfl
  rfl
  with_reducible refine Keeps.step ?_ (finishReq_keeps ..) ?_
  with_reducible refine Keeps.step ?_ (captureRegion_keeps ..) ?_
  exact Keeps.refl _
  rfl
  rfl

theorem doCapture_keeps (x0 : CmdHdr) (x1 : Bool) (s : State) :
    Keeps [.free, .tiles, .fns, .scans, .bundles, .bundleSeq, .recorder, .flt, .msis, .pwr] s (doCapture x0 x1 s) := by
  unfold doCapture
  with_reducible refine Keeps.step ?_ (regionCmd_keeps (L := [.free, .tiles, .fns, .scans, .bundles, .bundleSeq, .recorder, .flt, .msis, .pwr]) (rfl) _ _ _ _ _ _ _ ?_) (sub_refl _)
  exact Keeps.refl _
  intro y2
  intro y3
  dsimp only
  with_reducible refine Keeps.ite ?_ ?_
  with_reducible refine Keeps.step ?_ (captureFor_keeps ..) ?_
  with_reducible refine Keeps.step ?_ (accept_keeps ..) ?_
  exact Keeps.refl _
  rfl
  rfl
  with_reducible refine Keeps.step ?_ (accept_keeps ..) ?_
  exact Keeps.refl _
  rfl

theorem execCapture_keeps (x0 : CmdHdr) (x1 : Bool) (s : State) :
    KeepsOut [.free, .tiles, .fns, .scans, .bundles, .bundleSeq, .recorder, .flt, .msis, .pwr] s (execCapture x0 x1 s) := by
  unfold execCapture
  with_reducible refine KeepsOut.step ?_ (doorbell_keeps (L := [.free, .tiles, .fns, .scans, .bundles, .bundleSeq, .recorder, .flt, .msis, .pwr]) (rfl) _ _ _ _ _ ?_) (sub_refl _)
  exact Keeps.refl _
  intro y2
  with_reducible refine Keeps.step ?_ (doCapture_keeps ..) ?_
  exact Keeps.refl _
  rfl

theorem doCaptureRead_keeps (x0 : CmdHdr) (x1 : Nat) (x2 : Nat) (x3 : Nat) (x4 : Nat) (x5 : Bool) (s : State) :
    Keeps [.fns, .bundles, .msis, .hostOut, .pwr] s (doCaptureRead x0 x1 x2 x3 x4 x5 s) := by
  unfold doCaptureRead
  with_reducible refine Keeps.step ?_ (deferred_keeps (L := [.fns, .bundles, .msis, .hostOut, .pwr]) (rfl) _ _ _ _ _ _ _ ?_) (sub_refl _)
  exact Keeps.refl _
  intro y2
  split
  with_reducible refine Keeps.step ?_ (respond_keeps ..) ?_
  exact Keeps.refl _
  rfl
  with_reducible refine Keeps.ite ?_ ?_
  with_reducible refine Keeps.step ?_ (respond_keeps ..) ?_
  exact Keeps.refl _
  rfl
  with_reducible refine Keeps.ite ?_ ?_
  with_reducible refine Keeps.step ?_ (respond_keeps ..) ?_
  exact Keeps.refl _
  rfl
  with_reducible refine Keeps.ite ?_ ?_
  with_reducible refine Keeps.step ?_ (acceptDone_keeps ..) ?_
  exact Keeps.refl _
  rfl
  dsimp only
  with_reducible refine Keeps.step ?_ (acceptDone_keeps ..) ?_
  with_reducible refine Keeps.ite ?_ ?_
  with_reducible refine Keeps.set_bundles (rfl) ?_
  with_reducible refine Keeps.step ?_ (toHost_keeps ..) ?_
  exact Keeps.refl _
  rfl
  with_reducible refine Keeps.step ?_ (toHost_keeps ..) ?_
  exact Keeps.refl _
  rfl
  rfl

theorem execCaptureRead_keeps (x0 : CmdHdr) (x1 : Nat) (x2 : Nat) (x3 : Nat) (x4 : Nat) (x5 : Bool) (s : State) :
    KeepsOut [.fns, .bundles, .msis, .hostOut, .pwr] s (execCaptureRead x0 x1 x2 x3 x4 x5 s) := by
  unfold execCaptureRead
  with_reducible refine KeepsOut.step ?_ (doorbell_keeps (L := [.fns, .bundles, .msis, .hostOut, .pwr]) (rfl) _ _ _ _ _ ?_) (sub_refl _)
  exact Keeps.refl _
  intro y2
  with_reducible refine Keeps.step ?_ (doCaptureRead_keeps ..) ?_
  exact Keeps.refl _
  rfl

end Sys2Proof.Machine
end

