-- ==== Sys2Proof/Laws/LoadImage.lean ====
section
/-! SUPPORT. What the operations of Machine/LoadImage.lean may change: for each, the parts of the state. -/

namespace Sys2Proof.Machine

theorem doLoadImage_keeps (x0 : CmdHdr) (x1 : Nat) (x2 : Option Image) (s : State) :
    Keeps [.regions, .fns, .msis, .orderNo, .pwr] s (doLoadImage x0 x1 x2 s) := by
  unfold doLoadImage
  with_reducible refine Keeps.step ?_ (regionCmd_keeps (L := [.regions, .fns, .msis, .orderNo, .pwr]) (rfl) _ _ _ _ _ _ _ ?_) (sub_refl _)
  exact Keeps.refl _
  intro y2
  intro y3
  split
  with_reducible refine Keeps.step ?_ (acceptDone_keeps ..) ?_
  exact Keeps.refl _
  rfl
  with_reducible refine Keeps.ite ?_ ?_
  with_reducible refine Keeps.step ?_ (respond_keeps ..) ?_
  exact Keeps.refl _
  rfl
  with_reducible refine Keeps.ite ?_ ?_
  with_reducible refine Keeps.step ?_ (respond_keeps ..) ?_
  exact Keeps.refl _
  rfl
  split
  with_reducible refine Keeps.step ?_ (respond_keeps ..) ?_
  exact Keeps.refl _
  rfl
  dsimp only
  with_reducible refine Keeps.step ?_ (addAct_keeps ..) ?_
  with_reducible refine Keeps.step ?_ (updRegion_keeps ..) ?_
  with_reducible refine Keeps.step ?_ (accept_keeps ..) ?_
  exact Keeps.refl _
  rfl
  rfl
  rfl

theorem execLoadImage_keeps (x0 : CmdHdr) (x1 : Nat) (x2 : Option Image) (s : State) :
    KeepsOut [.regions, .fns, .msis, .orderNo, .pwr] s (execLoadImage x0 x1 x2 s) := by
  unfold execLoadImage
  with_reducible refine KeepsOut.step ?_ (doorbell_keeps (L := [.regions, .fns, .msis, .orderNo, .pwr]) (rfl) _ _ _ _ _ ?_) (sub_refl _)
  exact Keeps.refl _
  intro y2
  with_reducible refine Keeps.step ?_ (doLoadImage_keeps ..) ?_
  exact Keeps.refl _
  rfl

end Sys2Proof.Machine
end

