-- ==== Sys2Proof/Laws/Pins.lean ====
section
/-! SUPPORT. What the operations of Machine/Pins.lean may change: for each, the parts of the state. -/

namespace Sys2Proof.Machine

theorem startIfReleased_keeps (s : State) :
    Keeps [.fns, .recorder, .flt, .idn, .msis, .pwr, .sec] s (startIfReleased s) := by
  unfold startIfReleased
  with_reducible refine Keeps.ite ?_ ?_
  with_reducible refine Keeps.step ?_ (bootRom_keeps ..) ?_
  with_reducible refine Keeps.step ?_ (whNote_keeps ..) ?_
  with_reducible refine Keeps.set_pwr (rfl) ?_
  exact Keeps.refl _
  rfl
  rfl
  exact Keeps.refl _

theorem execPerstNAssert_keeps (s : State) :
    KeepsOut [.tiles, .routers, .engines, .ltMap, .absent, .regions, .fns, .ctxs, .pageList, .basin, .poison, .bsn, .scans, .bundles, .bundleSeq, .silt, .recorder, .activeEpoch, .v0, .v1, .quiet, .flt, .idn, .msis, .orderNo, .rep, .rf, .fab, .pwr, .sec] s (execPerstNAssert s) := by
  unfold execPerstNAssert
  dsimp only
  split
  refine KeepsOut.next ?_
  with_reducible refine Keeps.set_pwr (rfl) ?_
  exact Keeps.refl _
  split
  refine KeepsOut.next ?_
  with_reducible refine Keeps.set_pwr (rfl) ?_
  exact Keeps.refl _
  refine KeepsOut.next ?_
  with_reducible refine Keeps.step ?_ (pinReset_keeps ..) ?_
  with_reducible refine Keeps.set_pwr (rfl) ?_
  exact Keeps.refl _
  rfl

theorem execPerstNDeassert_keeps (x0 : Bool) (x1 : Bool) (s : State) (x3 : Nat) (x4 : Nat) :
    KeepsOut [.fns, .recorder, .flt, .idn, .msis, .pwr, .sec] s (execPerstNDeassert x0 x1 s x3 x4) := by
  unfold execPerstNDeassert
  split
  refine KeepsOut.next ?_
  exact Keeps.refl _
  refine KeepsOut.next ?_
  with_reducible refine Keeps.step ?_ (startIfReleased_keeps ..) ?_
  with_reducible refine Keeps.set_idn_pwr (rfl) ?_ ?_ ?_
  with_reducible exact fun h => ⟨h.1, h.2, h.3, h.4, h.5, h.6, h.7, h.8, h.9, h.10⟩
  exact ⟨Nat.le_refl _, Nat.le_refl _, rfl, rfl, rfl, rfl, rfl⟩
  exact Keeps.refl _
  rfl

theorem execPwrOkAssert_keeps (x0 : Nat) (x1 : Bool) (s : State) :
    KeepsOut [.fns, .recorder, .flt, .idn, .msis, .pwr, .sec] s (execPwrOkAssert x0 x1 s) := by
  unfold execPwrOkAssert
  split
  refine KeepsOut.next ?_
  exact Keeps.refl _
  refine KeepsOut.next ?_
  with_reducible refine Keeps.step ?_ (startIfReleased_keeps ..) ?_
  with_reducible refine Keeps.set_pwr (rfl) ?_
  exact Keeps.refl _
  rfl

theorem powerFailNow_keeps (s : State) :
    Keeps [.tiles, .regions, .fns, .silt, .recorder, .flt, .outbox, .msis, .rep, .pwr] s (powerFailNow s) := by
  unfold powerFailNow
  with_reducible refine Keeps.ite ?_ ?_
  exact Keeps.refl _
  dsimp only
  with_reducible refine Keeps.step ?_ (storeSeconds_keeps ..) ?_
  with_reducible refine Keeps.step ?_ (flushRecords_keeps ..) ?_
  with_reducible refine Keeps.foldl ?_ ?_
  with_reducible refine Keeps.step ?_ (updSilt_keeps ..) ?_
  split
  with_reducible refine Keeps.set_rep (rfl) ?_
  with_reducible refine Keeps.step ?_ (whNote_keeps ..) ?_
  with_reducible refine Keeps.set_flt_pwr (rfl) ?_ ?_ ?_
  with_reducible exact fun h => ⟨h.1, h.2, h.3, h.4, h.5, h.6, h.7, h.8, h.9, h.10⟩
  exact ⟨Nat.le_refl _, Nat.le_refl _, rfl, rfl, rfl, rfl, rfl⟩
  exact Keeps.refl _
  rfl
  with_reducible refine Keeps.step ?_ (whNote_keeps ..) ?_
  with_reducible refine Keeps.set_flt_pwr (rfl) ?_ ?_ ?_
  with_reducible exact fun h => ⟨h.1, h.2, h.3, h.4, h.5, h.6, h.7, h.8, h.9, h.10⟩
  exact ⟨Nat.le_refl _, Nat.le_refl _, rfl, rfl, rfl, rfl, rfl⟩
  exact Keeps.refl _
  rfl
  rfl
  intro y22
  intro y23
  with_reducible refine Keeps.step ?_ (failTxn_keeps ..) ?_
  exact Keeps.refl _
  rfl
  rfl
  rfl

theorem execPowerFailAssert_keeps (s : State) :
    KeepsOut [.tiles, .regions, .fns, .silt, .recorder, .flt, .outbox, .msis, .rep, .pwr] s (execPowerFailAssert s) := by
  unfold execPowerFailAssert
  refine whenB_keeps2 ?_ ?_
  exact Keeps.refl _
  with_reducible refine Keeps.step ?_ (powerFailNow_keeps ..) ?_
  exact Keeps.refl _
  rfl

theorem execPowerFailGlitch_keeps (x0 : Nat) (s : State) :
    KeepsOut [.pwr] s (execPowerFailGlitch x0 s) := by
  unfold execPowerFailGlitch
  refine whenB_keeps2 ?_ ?_
  exact Keeps.refl _
  with_reducible refine Keeps.step ?_ (whNote_keeps ..) ?_
  exact Keeps.refl _
  rfl

theorem execPowerFailRelease_keeps (x0 : Bool) (s : State) :
    KeepsOut [.engines, .fns, .silt, .recorder, .flt, .outbox, .msis, .rep, .fab, .pwr] s (execPowerFailRelease x0 s) := by
  unfold execPowerFailRelease
  split
  refine KeepsOut.next ?_
  exact Keeps.refl _
  dsimp only
  refine KeepsOut.next ?_
  with_reducible refine Keeps.ite ?_ ?_
  with_reducible refine Keeps.step ?_ (emergencyStop_keeps ..) ?_
  with_reducible refine Keeps.set_pwr (rfl) ?_
  exact Keeps.refl _
  rfl
  with_reducible refine Keeps.set_pwr (rfl) ?_
  exact Keeps.refl _

theorem execPwrOkFall_keeps (s : State) :
    KeepsOut [.tiles, .routers, .engines, .ltMap, .absent, .regions, .fns, .ctxs, .pageList, .basin, .poison, .bsn, .scans, .bundles, .bundleSeq, .silt, .recorder, .activeEpoch, .v0, .v1, .quiet, .flt, .idn, .outbox, .msis, .orderNo, .rep, .rf, .fab, .pwr, .sec] s (execPwrOkFall s) := by
  unfold execPwrOkFall
  split
  refine KeepsOut.next ?_
  exact Keeps.refl _
  dsimp only
  split
  refine KeepsOut.next ?_
  with_reducible refine Keeps.set_pwr (rfl) ?_
  with_reducible refine Keeps.step ?_ (powerFailNow_keeps ..) ?_
  exact Keeps.refl _
  rfl
  split
  refine KeepsOut.next ?_
  with_reducible refine Keeps.set_pwr (rfl) ?_
  with_reducible refine Keeps.step ?_ (powerFailNow_keeps ..) ?_
  exact Keeps.refl _
  rfl
  refine KeepsOut.next ?_
  with_reducible refine Keeps.step ?_ (pinReset_keeps ..) ?_
  with_reducible refine Keeps.set_pwr (rfl) ?_
  with_reducible refine Keeps.step ?_ (powerFailNow_keeps ..) ?_
  exact Keeps.refl _
  rfl
  rfl

theorem execWellheadRailFall_keeps (s : State) :
    KeepsOut [.tiles, .routers, .engines, .ltMap, .absent, .regions, .fns, .ctxs, .pageList, .basin, .poison, .bsn, .scans, .bundles, .bundleSeq, .silt, .recorder, .activeEpoch, .v0, .v1, .quiet, .flt, .idn, .orderNo, .rep, .rf, .fab, .pwr, .sec] s (execWellheadRailFall s) := by
  unfold execWellheadRailFall
  split
  refine KeepsOut.next ?_
  exact Keeps.refl _
  dsimp only
  refine KeepsOut.next ?_
  with_reducible refine Keeps.set_fns_flt_pwr (rfl) ?_ ?_ ?_
  refine fun h => ⟨?_, ?_, ?_, ?_, ?_, ?_, ?_, ?_, ?_, ?_⟩
  with_reducible exact h.1
  with_reducible exact h.2
  with_reducible exact h.3
  with_reducible exact h.4
  with_reducible exact h.5
  exact Nat.le_of_ble_eq_true rfl
  with_reducible exact h.7
  with_reducible exact h.8
  with_reducible exact h.9
  with_reducible exact h.10
  exact ⟨Nat.le_refl _, Nat.le_refl _, rfl, rfl, rfl, rfl, rfl⟩
  with_reducible refine Keeps.step ?_ (clearDevice_keeps ..) ?_
  exact Keeps.refl _
  rfl

theorem powerOn_keeps (s : State) : Keeps [.now, .tiles, .routers, .engines, .ltMap, .absent, .regions, .fns, .ctxs, .pageList, .basin, .poison, .bsn, .scans, .bundles, .bundleSeq, .silt, .recorder, .activeEpoch, .v0, .v1, .quiet, .flt, .idn, .secsBase, .orderNo, .rep, .flc, .rf, .fab, .pwr, .sec] s (powerOn s) := by
  refine ⟨?_, ?_, ?_⟩
  · intro p hp
    cases p <;> first | rfl | exact absurd (by decide) hp
  · intro h
    exact ⟨rfl, Nat.le_of_ble_eq_true rfl, h.3, h.4, Nat.le_of_ble_eq_true rfl, Nat.le_of_ble_eq_true rfl, h.7, h.8, h.9, h.10⟩
  · exact ⟨Nat.le_refl _, Nat.le_refl _, rfl, rfl, rfl, rfl, rfl⟩

theorem execWellheadPowerOn_keeps (s : State) :
    KeepsOut [.now, .tiles, .routers, .engines, .ltMap, .absent, .regions, .fns, .ctxs, .pageList, .basin, .poison, .bsn, .scans, .bundles, .bundleSeq, .silt, .recorder, .activeEpoch, .v0, .v1, .quiet, .flt, .idn, .secsBase, .orderNo, .rep, .flc, .rf, .fab, .pwr, .sec] s (execWellheadPowerOn s) := by
  unfold execWellheadPowerOn
  refine whenB_keeps2 ?_ ?_
  exact Keeps.refl _
  with_reducible refine Keeps.step ?_ (powerOn_keeps ..) ?_
  exact Keeps.refl _
  rfl

theorem execPcieRefclkLoss_keeps (s : State) :
    KeepsOut [.regions, .fns, .msis, .orderNo] s (execPcieRefclkLoss s) := by
  unfold execPcieRefclkLoss
  refine whenB_keeps2 ?_ ?_
  exact Keeps.refl _
  with_reducible refine Keeps.step ?_ (stopFunctions_keeps ..) ?_
  exact Keeps.refl _
  rfl

theorem execTrnRefclkLoss_keeps (x0 : Nat) (s : State) :
    KeepsOut [.engines, .fns, .recorder, .flt, .outbox, .msis, .fab, .pwr] s (execTrnRefclkLoss x0 s) := by
  unfold execTrnRefclkLoss
  refine needUnit_keeps ?_
  refine KeepsOut.next ?_
  with_reducible refine Keeps.foldl ?_ ?_
  with_reducible refine Keeps.step ?_ (updDie_keeps ..) ?_
  exact Keeps.refl _
  rfl
  intro y6
  intro y7
  with_reducible refine Keeps.step ?_ (lossOfSignal_keeps ..) ?_
  exact Keeps.refl _
  rfl

theorem execCoreRefclkLoss_keeps (s : State) :
    KeepsOut [.pwr] s (execCoreRefclkLoss s) := by
  unfold execCoreRefclkLoss
  refine whenB_keeps2 ?_ ?_
  exact Keeps.refl _
  with_reducible refine Keeps.set_pwr (rfl) ?_
  exact Keeps.refl _

theorem execCrystalLoss_keeps (s : State) :
    KeepsOut [.pwr] s (execCrystalLoss s) := by
  unfold execCrystalLoss
  refine whenB_keeps2 ?_ ?_
  exact Keeps.refl _
  with_reducible refine Keeps.step ?_ (whNote_keeps ..) ?_
  with_reducible refine Keeps.set_pwr (rfl) ?_
  exact Keeps.refl _
  rfl

theorem execCrystalStable_keeps (s : State) :
    KeepsOut [.pwr] s (execCrystalStable s) := by
  unfold execCrystalStable
  refine whenB_keeps2 ?_ ?_
  exact Keeps.refl _
  with_reducible refine Keeps.set_pwr (rfl) ?_
  exact Keeps.refl _

theorem execPmbAlert_keeps (x0 : Bool) (s : State) :
    KeepsOut [.engines, .fns, .silt, .recorder, .flt, .outbox, .msis, .rep, .fab, .pwr] s (execPmbAlert x0 s) := by
  unfold execPmbAlert
  refine whenB_keeps2 ?_ ?_
  exact Keeps.refl _
  with_reducible refine Keeps.step ?_ (emergencyStop_keeps ..) ?_
  exact Keeps.refl _
  rfl

theorem execPmbusPoll_keeps (x0 : List (Nat × Nat × Nat × Nat)) (s : State) :
    KeepsOut [.pwr] s (execPmbusPoll x0 s) := by
  unfold execPmbusPoll
  refine KeepsOut.next ?_
  with_reducible refine Keeps.foldl ?_ ?_
  exact Keeps.refl _
  intro y3
  intro y4
  with_reducible refine Keeps.set_pwr (rfl) ?_
  exact Keeps.refl _

theorem execRegulatorSilent_keeps (x0 : Nat) (s : State) :
    KeepsOut [.pwr] s (execRegulatorSilent x0 s) := by
  unfold execRegulatorSilent
  refine needUnit_keeps ?_
  dsimp only
  refine whenB_keeps2 ?_ ?_
  exact Keeps.refl _
  with_reducible refine Keeps.step ?_ (whNote_keeps ..) ?_
  with_reducible refine Keeps.set_pwr (rfl) ?_
  exact Keeps.refl _
  rfl

theorem execWakeOnSignal_keeps (x0 : Nat) (s : State) :
    KeepsOut [.pwr] s (execWakeOnSignal x0 s) := by
  unfold execWakeOnSignal
  refine needUnit_keeps ?_
  refine whenB_keeps2 ?_ ?_
  exact Keeps.refl _
  with_reducible refine Keeps.step ?_ (whNote_keeps ..) ?_
  with_reducible refine Keeps.set_pwr (rfl) ?_
  exact Keeps.refl _
  rfl

end Sys2Proof.Machine
end

