-- ==== Sys2Proof/Laws/Security.lean ====
section
/-! SUPPORT. What the operations of Machine/Security.lean may change: for each, the parts of the state. -/

namespace Sys2Proof.Machine

theorem setSlot_keeps (s : State) (x1 : Nat) (x2 : Option FwImage) :
    Keeps [.sec] s (setSlot s x1 x2) := by
  unfold setSlot
  with_reducible refine Keeps.ite ?_ ?_
  with_reducible refine Keeps.set_sec (rfl) ?_ ?_ ?_
  with_reducible exact fun h => ⟨h.1, h.2, h.3, h.4, h.5, h.6, h.7, h.8, h.9, h.10⟩
  exact ⟨Nat.le_refl _, Nat.le_refl _, rfl, rfl, rfl, rfl, rfl⟩
  exact Keeps.refl _
  with_reducible refine Keeps.set_sec (rfl) ?_ ?_ ?_
  with_reducible exact fun h => ⟨h.1, h.2, h.3, h.4, h.5, h.6, h.7, h.8, h.9, h.10⟩
  exact ⟨Nat.le_refl _, Nat.le_refl _, rfl, rfl, rfl, rfl, rfl⟩
  exact Keeps.refl _

theorem doFirmwareUpdateWrite_keeps (x0 : CmdHdr) (x1 : Nat) (x2 : Option FwImage) (s : State) :
    Keeps [.fns, .msis, .pwr, .sec] s (doFirmwareUpdateWrite x0 x1 x2 s) := by
  unfold doFirmwareUpdateWrite
  with_reducible refine Keeps.step ?_ (deferred_keeps (L := [.fns, .msis, .pwr, .sec]) (rfl) _ _ _ _ _ _ _ ?_) (sub_refl _)
  exact Keeps.refl _
  intro y2
  with_reducible refine Keeps.ite ?_ ?_
  with_reducible refine Keeps.step ?_ (respond_keeps ..) ?_
  exact Keeps.refl _
  rfl
  dsimp only
  split
  with_reducible refine Keeps.step ?_ (finishReq_keeps ..) ?_
  with_reducible refine Keeps.step ?_ (setSlot_keeps ..) ?_
  with_reducible refine Keeps.set_sec (rfl) ?_ ?_ ?_
  with_reducible exact fun h => ⟨h.1, h.2, h.3, h.4, h.5, h.6, h.7, h.8, h.9, h.10⟩
  exact ⟨Nat.le_refl _, Nat.le_refl _, rfl, rfl, rfl, rfl, rfl⟩
  with_reducible refine Keeps.step ?_ (accept_keeps ..) ?_
  exact Keeps.refl _
  rfl
  rfl
  rfl
  split
  with_reducible refine Keeps.step ?_ (finishReq_keeps ..) ?_
  with_reducible refine Keeps.set_sec (rfl) ?_ ?_ ?_
  with_reducible exact fun h => ⟨h.1, h.2, h.3, h.4, h.5, h.6, h.7, h.8, h.9, h.10⟩
  exact ⟨Nat.le_refl _, Nat.le_refl _, rfl, rfl, rfl, rfl, rfl⟩
  with_reducible refine Keeps.step ?_ (setSlot_keeps ..) ?_
  with_reducible refine Keeps.set_sec (rfl) ?_ ?_ ?_
  with_reducible exact fun h => ⟨h.1, h.2, h.3, h.4, h.5, h.6, h.7, h.8, h.9, h.10⟩
  exact ⟨Nat.le_refl _, Nat.le_refl _, rfl, rfl, rfl, rfl, rfl⟩
  with_reducible refine Keeps.step ?_ (accept_keeps ..) ?_
  exact Keeps.refl _
  rfl
  rfl
  rfl
  with_reducible refine Keeps.step ?_ (finishReq_keeps ..) ?_
  with_reducible refine Keeps.step ?_ (setSlot_keeps ..) ?_
  with_reducible refine Keeps.set_sec (rfl) ?_ ?_ ?_
  with_reducible exact fun h => ⟨h.1, h.2, h.3, h.4, h.5, h.6, h.7, h.8, h.9, h.10⟩
  exact ⟨Nat.le_refl _, Nat.le_refl _, rfl, rfl, rfl, rfl, rfl⟩
  with_reducible refine Keeps.step ?_ (accept_keeps ..) ?_
  exact Keeps.refl _
  rfl
  rfl
  rfl

theorem execFirmwareUpdateWrite_keeps (x0 : CmdHdr) (x1 : Nat) (x2 : Option FwImage) (s : State) :
    KeepsOut [.fns, .msis, .pwr, .sec] s (execFirmwareUpdateWrite x0 x1 x2 s) := by
  unfold execFirmwareUpdateWrite
  with_reducible refine KeepsOut.step ?_ (doorbell_keeps (L := [.fns, .msis, .pwr, .sec]) (rfl) _ _ _ _ _ ?_) (sub_refl _)
  exact Keeps.refl _
  intro y2
  with_reducible refine Keeps.step ?_ (doFirmwareUpdateWrite_keeps ..) ?_
  exact Keeps.refl _
  rfl

theorem doFirmwareUpdatePrefer_keeps (x0 : CmdHdr) (s : State) :
    Keeps [.fns, .msis, .pwr, .sec] s (doFirmwareUpdatePrefer x0 s) := by
  unfold doFirmwareUpdatePrefer
  with_reducible refine Keeps.step ?_ (deferred_keeps (L := [.fns, .msis, .pwr, .sec]) (rfl) _ _ _ _ _ _ _ ?_) (sub_refl _)
  exact Keeps.refl _
  intro y2
  with_reducible refine Keeps.step ?_ (acceptDone_keeps ..) ?_
  with_reducible refine Keeps.step ?_ (newSel_keeps ..) ?_
  exact Keeps.refl _
  rfl
  rfl

theorem execFirmwareUpdatePrefer_keeps (x0 : CmdHdr) (s : State) :
    KeepsOut [.fns, .msis, .pwr, .sec] s (execFirmwareUpdatePrefer x0 s) := by
  unfold execFirmwareUpdatePrefer
  with_reducible refine KeepsOut.step ?_ (doorbell_keeps (L := [.fns, .msis, .pwr, .sec]) (rfl) _ _ _ _ _ ?_) (sub_refl _)
  exact Keeps.refl _
  intro y2
  with_reducible refine Keeps.step ?_ (doFirmwareUpdatePrefer_keeps ..) ?_
  exact Keeps.refl _
  rfl

theorem doFirmwareUpdateAdvanceSvn_keeps (x0 : CmdHdr) (s : State) :
    Keeps [.fns, .msis, .pwr, .sec] s (doFirmwareUpdateAdvanceSvn x0 s) := by
  unfold doFirmwareUpdateAdvanceSvn
  refine deferred_keeps rfl _ _ _ _ _ _ _ ?_
  intro y
  dsimp only
  refine Keeps.step ?_ (acceptDone_keeps ..) rfl
  refine Keeps.set_sec rfl (fun h => ⟨h.1, h.2, h.3, h.4, h.5, h.6, h.7, h.8, h.9, h.10⟩) ?_ (Keeps.refl _)
  refine ⟨Nat.le_refl _, ?_, rfl, rfl, rfl, rfl, rfl⟩
  show y.sec.svn ≤ (slotImage y y.idn.fwSlot).elim y.sec.svn fun im => Nat.max y.sec.svn im.svn
  cases slotImage y y.idn.fwSlot with
  | none => exact Nat.le_refl _
  | some im => exact Nat.le_max_left ..

theorem execFirmwareUpdateAdvanceSvn_keeps (x0 : CmdHdr) (s : State) :
    KeepsOut [.fns, .msis, .pwr, .sec] s (execFirmwareUpdateAdvanceSvn x0 s) := by
  unfold execFirmwareUpdateAdvanceSvn
  with_reducible refine KeepsOut.step ?_ (doorbell_keeps (L := [.fns, .msis, .pwr, .sec]) (rfl) _ _ _ _ _ ?_) (sub_refl _)
  exact Keeps.refl _
  intro y2
  with_reducible refine Keeps.step ?_ (doFirmwareUpdateAdvanceSvn_keeps ..) ?_
  exact Keeps.refl _
  rfl

theorem debugReset_keeps (s : State) :
    Keeps [.free, .tiles, .routers, .engines, .ltMap, .absent, .regions, .fns, .ctxs, .pageList, .basin, .poison, .bsn, .scans, .bundles, .bundleSeq, .silt, .recorder, .activeEpoch, .v0, .v1, .quiet, .flt, .idn, .msis, .orderNo, .rep, .rf, .fab, .pwr, .sec] s (debugReset s) := by
  unfold debugReset
  with_reducible refine Keeps.step ?_ (captureAndReset_keeps ..) ?_
  with_reducible refine Keeps.set_rep (rfl) ?_
  exact Keeps.refl _
  rfl

theorem doUnlock_keeps {L : List Part} (hL : sub [.free, .tiles, .routers, .engines, .ltMap, .absent, .regions, .fns, .ctxs, .pageList, .basin, .poison, .bsn, .scans, .bundles, .bundleSeq, .silt, .recorder, .activeEpoch, .v0, .v1, .quiet, .flt, .idn, .msis, .orderNo, .rep, .rf, .fab, .pwr, .sec] L = true) (x0 : CmdHdr) (x1 : State → Unlocked) (s : State) (h1 : ∀ a0, Keeps L a0 (x1 a0).s) :
    Keeps L s (doUnlock x0 x1 s) := by
  unfold doUnlock
  with_reducible refine Keeps.step ?_ (immediate_keeps (L := L) (sub_trans rfl hL) _ _ _ _ _ _ _ ?_) (sub_refl _)
  exact Keeps.refl _
  intro y2
  with_reducible refine Keeps.ite ?_ ?_
  with_reducible refine Keeps.step ?_ (respond_keeps ..) ?_
  exact Keeps.refl _
  exact sub_trans rfl hL
  dsimp only
  with_reducible refine Keeps.ite ?_ ?_
  with_reducible refine Keeps.step ?_ (debugReset_keeps ..) ?_
  with_reducible refine Keeps.step ?_ (respond_keeps ..) ?_
  with_reducible refine Keeps.step ?_ (h1 ..) (sub_refl _)
  exact Keeps.refl _
  exact sub_trans rfl hL
  exact hL
  with_reducible refine Keeps.step ?_ (respond_keeps ..) ?_
  with_reducible refine Keeps.step ?_ (h1 ..) (sub_refl _)
  exact Keeps.refl _
  exact sub_trans rfl hL

theorem unlockRow_keeps {L : List Part} (hL : sub [.free, .tiles, .routers, .engines, .ltMap, .absent, .regions, .fns, .ctxs, .pageList, .basin, .poison, .bsn, .scans, .bundles, .bundleSeq, .silt, .recorder, .activeEpoch, .v0, .v1, .quiet, .flt, .idn, .msis, .orderNo, .rep, .rf, .fab, .pwr, .sec] L = true) (x0 : UnlockSrc) (x1 : Instr) (x2 : State → Unlocked) (s : State) (h2 : ∀ a0, Keeps L a0 (x2 a0).s) :
    KeepsOut L s (unlockRow x0 x1 x2 s) := by
  unfold unlockRow
  split
  with_reducible refine KeepsOut.step ?_ (doorbell_keeps (L := L) (sub_trans rfl hL) _ _ _ _ _ ?_) (sub_refl _)
  exact Keeps.refl _
  intro y3
  with_reducible refine Keeps.step ?_ (doUnlock_keeps (L := L) (sub_trans rfl hL) _ _ _ ?_) (sub_refl _)
  exact Keeps.refl _
  intro y6
  with_reducible refine Keeps.step ?_ (h2 ..) (sub_refl _)
  exact Keeps.refl _
  split
  refine KeepsOut.next ?_
  exact Keeps.refl _
  dsimp only
  refine KeepsOut.next ?_
  with_reducible refine Keeps.ite ?_ ?_
  with_reducible refine Keeps.step ?_ (debugReset_keeps ..) ?_
  with_reducible refine Keeps.set_sec (sub_trans rfl hL) ?_ ?_ ?_
  with_reducible exact fun h => ⟨h.1, h.2, h.3, h.4, h.5, h.6, h.7, h.8, h.9, h.10⟩
  exact ⟨Nat.le_refl _, Nat.le_refl _, rfl, rfl, rfl, rfl, rfl⟩
  with_reducible refine Keeps.step ?_ (h2 ..) (sub_refl _)
  exact Keeps.refl _
  exact hL
  with_reducible refine Keeps.set_sec (sub_trans rfl hL) ?_ ?_ ?_
  with_reducible exact fun h => ⟨h.1, h.2, h.3, h.4, h.5, h.6, h.7, h.8, h.9, h.10⟩
  exact ⟨Nat.le_refl _, Nat.le_refl _, rfl, rfl, rfl, rfl, rfl⟩
  with_reducible refine Keeps.step ?_ (h2 ..) (sub_refl _)
  exact Keeps.refl _

theorem serveChallenge_keeps (s : State) :
    Keeps [.free, .sec] s (serveChallenge s).s := by
  unfold serveChallenge
  dsimp only
  with_reducible refine Keeps.set_sec (rfl) ?_ ?_ ?_
  with_reducible exact fun h => ⟨h.1, h.2, h.3, h.4, h.5, h.6, h.7, h.8, h.9, h.10⟩
  exact ⟨Nat.le_refl _, Nat.le_refl _, rfl, rfl, rfl, rfl, rfl⟩
  with_reducible refine Keeps.step ?_ (takeFree_keeps ..) ?_
  exact Keeps.refl _
  rfl

theorem execDebugUnlockChallenge_keeps (x0 : UnlockSrc) (s : State) :
    KeepsOut [.free, .tiles, .routers, .engines, .ltMap, .absent, .regions, .fns, .ctxs, .pageList, .basin, .poison, .bsn, .scans, .bundles, .bundleSeq, .silt, .recorder, .activeEpoch, .v0, .v1, .quiet, .flt, .idn, .msis, .orderNo, .rep, .rf, .fab, .pwr, .sec] s (execDebugUnlockChallenge x0 s) := by
  unfold execDebugUnlockChallenge
  with_reducible refine KeepsOut.step ?_ (unlockRow_keeps (L := [.free, .tiles, .routers, .engines, .ltMap, .absent, .regions, .fns, .ctxs, .pageList, .basin, .poison, .bsn, .scans, .bundles, .bundleSeq, .silt, .recorder, .activeEpoch, .v0, .v1, .quiet, .flt, .idn, .msis, .orderNo, .rep, .rf, .fab, .pwr, .sec]) (rfl) _ _ _ _ ?_) (sub_refl _)
  exact Keeps.refl _
  intro y2
  with_reducible refine Keeps.step ?_ (serveChallenge_keeps ..) ?_
  exact Keeps.refl _
  rfl

theorem failToken_keeps (s : State) :
    Keeps [.sec] s (failToken s) := by
  unfold failToken
  dsimp only
  with_reducible refine Keeps.set_sec (rfl) ?_ ?_ ?_
  with_reducible exact fun h => ⟨h.1, h.2, h.3, h.4, h.5, h.6, h.7, h.8, h.9, h.10⟩
  exact ⟨Nat.le_refl _, by dsimp only; split <;> exact Nat.le_refl _, by dsimp only; split <;> rfl, by dsimp only; split <;> rfl, by dsimp only; split <;> rfl, rfl, rfl⟩
  exact Keeps.refl _

theorem withToken_keeps {L : List Part} (hL : sub [.sec] L = true) (s : State) (x1 : Token) (x2 : State → Unlocked) (h2 : ∀ a0, Keeps L a0 (x2 a0).s) :
    Keeps L s (withToken s x1 x2).s := by
  unfold withToken
  split
  dsimp only
  exact Keeps.refl _
  split
  with_reducible refine Keeps.step ?_ (h2 ..) (sub_refl _)
  with_reducible refine Keeps.set_sec (sub_trans rfl hL) ?_ ?_ ?_
  with_reducible exact fun h => ⟨h.1, h.2, h.3, h.4, h.5, h.6, h.7, h.8, h.9, h.10⟩
  exact ⟨Nat.le_refl _, Nat.le_refl _, rfl, rfl, rfl, rfl, rfl⟩
  exact Keeps.refl _
  dsimp only
  with_reducible refine Keeps.step ?_ (failToken_keeps ..) ?_
  exact Keeps.refl _
  exact hL

theorem noUnlock_keeps (s : State) (x1 : Nat) :
    Keeps [] s (noUnlock s x1).s := by
  unfold noUnlock
  dsimp only
  exact Keeps.refl _

theorem goFull_keeps (s : State) :
    Keeps [.tiles, .silt, .idn, .rep, .sec] s (goFull s) := by
  unfold goFull
  dsimp only
  with_reducible refine Keeps.set_idn (rfl) ?_ ?_ ?_
  refine fun h => ⟨?_, ?_, ?_, ?_, ?_, ?_, ?_, ?_, ?_, ?_⟩
  with_reducible exact h.1
  with_reducible exact h.2
  with_reducible exact h.3
  with_reducible exact h.4
  exact Nat.le_of_ble_eq_true rfl
  with_reducible exact h.6
  with_reducible exact h.7
  with_reducible exact h.8
  with_reducible exact h.9
  with_reducible exact h.10
  exact ⟨Nat.le_refl _, Nat.le_refl _, rfl, rfl, rfl, rfl, rfl⟩
  with_reducible refine Keeps.step ?_ (unwrapNs_keeps ..) ?_
  with_reducible refine Keeps.set_sec (rfl) ?_ ?_ ?_
  with_reducible exact fun h => ⟨h.1, h.2, h.3, h.4, h.5, h.6, h.7, h.8, h.9, h.10⟩
  exact ⟨Nat.le_refl _, Nat.le_refl _, rfl, rfl, rfl, rfl, rfl⟩
  with_reducible refine Keeps.foldl ?_ ?_
  exact Keeps.refl _
  intro y20
  intro y21
  with_reducible refine Keeps.step ?_ (zeroizeDie_keeps ..) ?_
  exact Keeps.refl _
  rfl
  rfl

theorem serveRaise_keeps (x0 : Nat) (x1 : Token) (s : State) :
    Keeps [.tiles, .silt, .idn, .rep, .sec] s (serveRaise x0 x1 s).s := by
  unfold serveRaise
  split
  with_reducible refine Keeps.step ?_ (noUnlock_keeps ..) ?_
  exact Keeps.refl _
  rfl
  split
  with_reducible refine Keeps.step ?_ (noUnlock_keeps ..) ?_
  exact Keeps.refl _
  rfl
  with_reducible refine Keeps.step ?_ (withToken_keeps (L := [.tiles, .silt, .idn, .rep, .sec]) (rfl) _ _ _ ?_) (sub_refl _)
  exact Keeps.refl _
  intro y10
  dsimp only
  with_reducible refine Keeps.ite ?_ ?_
  with_reducible refine Keeps.step ?_ (goFull_keeps ..) ?_
  exact Keeps.refl _
  rfl
  with_reducible refine Keeps.set_idn (rfl) ?_ ?_ ?_
  refine fun h => ⟨?_, ?_, ?_, ?_, ?_, ?_, ?_, ?_, ?_, ?_⟩
  with_reducible exact h.1
  with_reducible exact h.2
  with_reducible exact h.3
  with_reducible exact h.4
  exact Nat.le_of_ble_eq_true rfl
  with_reducible exact h.6
  with_reducible exact h.7
  with_reducible exact h.8
  with_reducible exact h.9
  with_reducible exact h.10
  exact ⟨Nat.le_refl _, Nat.le_refl _, rfl, rfl, rfl, rfl, rfl⟩
  exact Keeps.refl _

theorem execDebugUnlockRaise_keeps (x0 : UnlockSrc) (x1 : Nat) (x2 : Token) (s : State) :
    KeepsOut [.free, .tiles, .routers, .engines, .ltMap, .absent, .regions, .fns, .ctxs, .pageList, .basin, .poison, .bsn, .scans, .bundles, .bundleSeq, .silt, .recorder, .activeEpoch, .v0, .v1, .quiet, .flt, .idn, .msis, .orderNo, .rep, .rf, .fab, .pwr, .sec] s (execDebugUnlockRaise x0 x1 x2 s) := by
  unfold execDebugUnlockRaise
  with_reducible refine KeepsOut.step ?_ (unlockRow_keeps (L := [.free, .tiles, .routers, .engines, .ltMap, .absent, .regions, .fns, .ctxs, .pageList, .basin, .poison, .bsn, .scans, .bundles, .bundleSeq, .silt, .recorder, .activeEpoch, .v0, .v1, .quiet, .flt, .idn, .msis, .orderNo, .rep, .rf, .fab, .pwr, .sec]) (rfl) _ _ _ _ ?_) (sub_refl _)
  exact Keeps.refl _
  intro y2
  with_reducible refine Keeps.step ?_ (serveRaise_keeps ..) ?_
  exact Keeps.refl _
  rfl

theorem serveLower_keeps (x0 : Nat) (s : State) :
    Keeps [.idn] s (serveLower x0 s).s := by
  unfold serveLower
  split
  with_reducible refine Keeps.step ?_ (noUnlock_keeps ..) ?_
  exact Keeps.refl _
  rfl
  split
  dsimp only
  exact Keeps.refl _
  dsimp only
  with_reducible refine Keeps.set_idn (rfl) ?_ ?_ ?_
  refine fun h => ⟨?_, ?_, ?_, ?_, ?_, ?_, ?_, ?_, ?_, ?_⟩
  with_reducible exact h.1
  with_reducible exact h.2
  with_reducible exact h.3
  with_reducible exact h.4
  exact Nat.le_of_ble_eq_true rfl
  with_reducible exact h.6
  with_reducible exact h.7
  with_reducible exact h.8
  with_reducible exact h.9
  with_reducible exact h.10
  exact ⟨Nat.le_refl _, Nat.le_refl _, rfl, rfl, rfl, rfl, rfl⟩
  exact Keeps.refl _

theorem execDebugUnlockLower_keeps (x0 : UnlockSrc) (x1 : Nat) (s : State) :
    KeepsOut [.free, .tiles, .routers, .engines, .ltMap, .absent, .regions, .fns, .ctxs, .pageList, .basin, .poison, .bsn, .scans, .bundles, .bundleSeq, .silt, .recorder, .activeEpoch, .v0, .v1, .quiet, .flt, .idn, .msis, .orderNo, .rep, .rf, .fab, .pwr, .sec] s (execDebugUnlockLower x0 x1 s) := by
  unfold execDebugUnlockLower
  with_reducible refine KeepsOut.step ?_ (unlockRow_keeps (L := [.free, .tiles, .routers, .engines, .ltMap, .absent, .regions, .fns, .ctxs, .pageList, .basin, .poison, .bsn, .scans, .bundles, .bundleSeq, .silt, .recorder, .activeEpoch, .v0, .v1, .quiet, .flt, .idn, .msis, .orderNo, .rep, .rf, .fab, .pwr, .sec]) (rfl) _ _ _ _ ?_) (sub_refl _)
  exact Keeps.refl _
  intro y2
  with_reducible refine Keeps.step ?_ (serveLower_keeps ..) ?_
  exact Keeps.refl _
  rfl

theorem serveLifecycle_keeps (x0 : Nat) (x1 : Token) (s : State) :
    Keeps [.idn, .sec] s (serveLifecycle x0 x1 s).s := by
  unfold serveLifecycle
  split
  · exact Keeps.refl _
  next hc =>
    split
    · exact Keeps.refl _
    · unfold withToken
      split
      · exact Keeps.refl _
      · split
        · refine Keeps.set_idn rfl ?_ ?_ ?_ (s := { s with sec := { s.sec with challenge := none } })
          · intro h
            exact ⟨h.1, h.2, h.3, by show x0 ≤ 2; omega, h.5, h.6, h.7, h.8, h.9, h.10⟩
          · exact ⟨by show s.idn.lifecycle ≤ x0; omega, Nat.le_refl _, rfl, rfl, rfl, rfl, rfl⟩
          · exact Keeps.set_sec rfl (fun h => ⟨h.1, h.2, h.3, h.4, h.5, h.6, h.7, h.8, h.9, h.10⟩)
              ⟨Nat.le_refl _, Nat.le_refl _, rfl, rfl, rfl, rfl, rfl⟩ (Keeps.refl _)
        · exact (failToken_keeps s).mono rfl

theorem execDebugUnlockLifecycle_keeps (x0 : UnlockSrc) (x1 : Nat) (x2 : Token) (s : State) :
    KeepsOut [.free, .tiles, .routers, .engines, .ltMap, .absent, .regions, .fns, .ctxs, .pageList, .basin, .poison, .bsn, .scans, .bundles, .bundleSeq, .silt, .recorder, .activeEpoch, .v0, .v1, .quiet, .flt, .idn, .msis, .orderNo, .rep, .rf, .fab, .pwr, .sec] s (execDebugUnlockLifecycle x0 x1 x2 s) := by
  unfold execDebugUnlockLifecycle
  with_reducible refine KeepsOut.step ?_ (unlockRow_keeps (L := [.free, .tiles, .routers, .engines, .ltMap, .absent, .regions, .fns, .ctxs, .pageList, .basin, .poison, .bsn, .scans, .bundles, .bundleSeq, .silt, .recorder, .activeEpoch, .v0, .v1, .quiet, .flt, .idn, .msis, .orderNo, .rep, .rf, .fab, .pwr, .sec]) (rfl) _ _ _ _ ?_) (sub_refl _)
  exact Keeps.refl _
  intro y2
  with_reducible refine Keeps.step ?_ (serveLifecycle_keeps ..) ?_
  exact Keeps.refl _
  rfl

theorem spdmRow_keeps (x0 : Nat) (x1 : Nat) (x2 : State → SpdmResp) (s : State) :
    KeepsOut [.pwr, .sec] s (spdmRow x0 x1 x2 s) := by
  unfold spdmRow
  split
  refine KeepsOut.next ?_
  exact Keeps.refl _
  dsimp only
  split
  refine KeepsOut.next ?_
  with_reducible refine Keeps.set_sec (rfl) ?_ ?_ ?_
  with_reducible exact fun h => ⟨h.1, h.2, h.3, h.4, h.5, h.6, h.7, h.8, h.9, h.10⟩
  exact ⟨Nat.le_refl _, Nat.le_refl _, rfl, rfl, rfl, rfl, rfl⟩
  with_reducible refine Keeps.step ?_ (wake_keeps ..) ?_
  exact Keeps.refl _
  rfl
  refine KeepsOut.next ?_
  with_reducible refine Keeps.set_sec (rfl) ?_ ?_ ?_
  with_reducible exact fun h => ⟨h.1, h.2, h.3, h.4, h.5, h.6, h.7, h.8, h.9, h.10⟩
  exact ⟨Nat.le_refl _, Nat.le_refl _, rfl, rfl, rfl, rfl, rfl⟩
  with_reducible refine Keeps.step ?_ (wake_keeps ..) ?_
  exact Keeps.refl _
  rfl

theorem execSpdmGetVersion_keeps (s : State) :
    KeepsOut [.pwr, .sec] s (execSpdmGetVersion s) := by
  unfold execSpdmGetVersion
  with_reducible refine KeepsOut.step ?_ (spdmRow_keeps ..) ?_
  exact Keeps.refl _
  rfl

theorem execSpdmGetCapabilities_keeps (s : State) :
    KeepsOut [.pwr, .sec] s (execSpdmGetCapabilities s) := by
  unfold execSpdmGetCapabilities
  with_reducible refine KeepsOut.step ?_ (spdmRow_keeps ..) ?_
  exact Keeps.refl _
  rfl

theorem execSpdmNegotiateAlgorithms_keeps (x0 : Bool) (x1 : Bool) (s : State) :
    KeepsOut [.pwr, .sec] s (execSpdmNegotiateAlgorithms x0 x1 s) := by
  unfold execSpdmNegotiateAlgorithms
  with_reducible refine KeepsOut.step ?_ (spdmRow_keeps ..) ?_
  exact Keeps.refl _
  rfl

theorem execSpdmGetDigests_keeps (s : State) :
    KeepsOut [.pwr, .sec] s (execSpdmGetDigests s) := by
  unfold execSpdmGetDigests
  with_reducible refine KeepsOut.step ?_ (spdmRow_keeps ..) ?_
  exact Keeps.refl _
  rfl

theorem execSpdmGetCertificate_keeps (x0 : Nat) (x1 : Nat) (x2 : Nat) (s : State) :
    KeepsOut [.pwr, .sec] s (execSpdmGetCertificate x0 x1 x2 s) := by
  unfold execSpdmGetCertificate
  with_reducible refine KeepsOut.step ?_ (spdmRow_keeps ..) ?_
  exact Keeps.refl _
  rfl

theorem execSpdmChallenge_keeps (x0 : Nat) (x1 : BitVec 256) (s : State) :
    KeepsOut [.pwr, .sec] s (execSpdmChallenge x0 x1 s) := by
  unfold execSpdmChallenge
  with_reducible refine KeepsOut.step ?_ (spdmRow_keeps ..) ?_
  exact Keeps.refl _
  rfl

theorem execSpdmGetMeasurements_keeps (x0 : Nat) (x1 : BitVec 256) (s : State) :
    KeepsOut [.pwr, .sec] s (execSpdmGetMeasurements x0 x1 s) := by
  unfold execSpdmGetMeasurements
  with_reducible refine KeepsOut.step ?_ (spdmRow_keeps ..) ?_
  exact Keeps.refl _
  rfl

theorem execPldmRequest_keeps (x0 : PldmReq) (s : State) :
    KeepsOut [.recorder, .sec] s (execPldmRequest x0 s) := by
  unfold execPldmRequest
  refine needUnit_keeps ?_
  split
  refine KeepsOut.next ?_
  exact Keeps.refl _
  dsimp only
  refine KeepsOut.next ?_
  split
  with_reducible refine Keeps.set_recorder_sec (rfl) ?_ ?_ ?_
  with_reducible exact fun h => ⟨h.1, h.2, h.3, h.4, h.5, h.6, h.7, h.8, h.9, h.10⟩
  exact ⟨Nat.le_refl _, Nat.le_refl _, rfl, rfl, rfl, rfl, rfl⟩
  exact Keeps.refl _
  with_reducible refine Keeps.set_sec (rfl) ?_ ?_ ?_
  with_reducible exact fun h => ⟨h.1, h.2, h.3, h.4, h.5, h.6, h.7, h.8, h.9, h.10⟩
  exact ⟨Nat.le_refl _, Nat.le_refl _, rfl, rfl, rfl, rfl, rfl⟩
  exact Keeps.refl _

theorem execTrstNAssert_keeps (s : State) :
    KeepsOut [.sec] s (execTrstNAssert s) := by
  unfold execTrstNAssert
  refine KeepsOut.next ?_
  with_reducible refine Keeps.set_sec (rfl) ?_ ?_ ?_
  with_reducible exact fun h => ⟨h.1, h.2, h.3, h.4, h.5, h.6, h.7, h.8, h.9, h.10⟩
  exact ⟨Nat.le_refl _, Nat.le_refl _, rfl, rfl, rfl, rfl, rfl⟩
  exact Keeps.refl _

theorem jtagSays_keeps (s : State) (x1 : JtagResp) :
    Keeps [.sec] s (jtagSays s x1) := by
  unfold jtagSays
  with_reducible refine Keeps.set_sec (rfl) ?_ ?_ ?_
  with_reducible exact fun h => ⟨h.1, h.2, h.3, h.4, h.5, h.6, h.7, h.8, h.9, h.10⟩
  exact ⟨Nat.le_refl _, Nat.le_refl _, rfl, rfl, rfl, rfl, rfl⟩
  exact Keeps.refl _

theorem jtagAct_keeps (s : State) (x1 : JtagAccess) :
    Keeps [.free, .tiles, .sec] s (jtagAct s x1) := by
  unfold jtagAct
  split
  with_reducible refine Keeps.step ?_ (jtagSays_keeps ..) ?_
  exact Keeps.refl _
  rfl
  with_reducible refine Keeps.step ?_ (jtagSays_keeps ..) ?_
  exact Keeps.refl _
  rfl
  with_reducible refine Keeps.step ?_ (jtagSays_keeps ..) ?_
  exact Keeps.refl _
  rfl
  with_reducible refine Keeps.step ?_ (jtagSays_keeps ..) ?_
  exact Keeps.refl _
  rfl
  with_reducible refine Keeps.step ?_ (jtagSays_keeps ..) ?_
  exact Keeps.refl _
  rfl
  with_reducible refine Keeps.ite ?_ ?_
  with_reducible refine Keeps.step ?_ (jtagSays_keeps ..) ?_
  exact Keeps.refl _
  rfl
  dsimp only
  with_reducible refine Keeps.step ?_ (jtagSays_keeps ..) ?_
  with_reducible refine Keeps.step ?_ (takeFree_keeps ..) ?_
  exact Keeps.refl _
  rfl
  rfl
  with_reducible refine Keeps.ite ?_ ?_
  with_reducible refine Keeps.step ?_ (jtagSays_keeps ..) ?_
  exact Keeps.refl _
  rfl
  dsimp only
  with_reducible refine Keeps.step ?_ (jtagSays_keeps ..) ?_
  with_reducible refine Keeps.step ?_ (takeFree_keeps ..) ?_
  exact Keeps.refl _
  rfl
  rfl
  with_reducible refine Keeps.ite ?_ ?_
  with_reducible refine Keeps.step ?_ (jtagSays_keeps ..) ?_
  exact Keeps.refl _
  rfl
  dsimp only
  with_reducible refine Keeps.step ?_ (jtagSays_keeps ..) ?_
  with_reducible refine Keeps.step ?_ (takeFree_keeps ..) ?_
  exact Keeps.refl _
  rfl
  rfl
  with_reducible refine Keeps.ite ?_ ?_
  with_reducible refine Keeps.step ?_ (jtagSays_keeps ..) ?_
  exact Keeps.refl _
  rfl
  with_reducible refine Keeps.step ?_ (jtagSays_keeps ..) ?_
  with_reducible refine Keeps.set_sec (rfl) ?_ ?_ ?_
  with_reducible exact fun h => ⟨h.1, h.2, h.3, h.4, h.5, h.6, h.7, h.8, h.9, h.10⟩
  exact ⟨Nat.le_refl _, Nat.le_refl _, rfl, rfl, rfl, rfl, rfl⟩
  exact Keeps.refl _
  rfl
  with_reducible refine Keeps.step ?_ (jtagSays_keeps ..) ?_
  exact Keeps.refl _
  rfl
  with_reducible refine Keeps.ite ?_ ?_
  with_reducible refine Keeps.step ?_ (jtagSays_keeps ..) ?_
  exact Keeps.refl _
  rfl
  with_reducible refine Keeps.step ?_ (jtagSays_keeps ..) ?_
  with_reducible refine Keeps.step ?_ (updTile_keeps ..) ?_
  exact Keeps.refl _
  rfl
  rfl
  with_reducible refine Keeps.step ?_ (jtagSays_keeps ..) ?_
  exact Keeps.refl _
  rfl
  with_reducible refine Keeps.ite ?_ ?_
  with_reducible refine Keeps.step ?_ (jtagSays_keeps ..) ?_
  exact Keeps.refl _
  rfl
  with_reducible refine Keeps.step ?_ (jtagSays_keeps ..) ?_
  with_reducible refine Keeps.step ?_ (updTile_keeps ..) ?_
  exact Keeps.refl _
  rfl
  rfl
  with_reducible refine Keeps.ite ?_ ?_
  dsimp only
  with_reducible refine Keeps.step ?_ (jtagSays_keeps ..) ?_
  with_reducible refine Keeps.step ?_ (takeFree_keeps ..) ?_
  exact Keeps.refl _
  rfl
  rfl
  with_reducible refine Keeps.step ?_ (jtagSays_keeps ..) ?_
  exact Keeps.refl _
  rfl

theorem execBoundaryScanAccess_keeps (x0 : JtagAccess) (s : State) :
    KeepsOut [.free, .tiles, .sec] s (execBoundaryScanAccess x0 s) := by
  unfold execBoundaryScanAccess
  refine needUnit_keeps ?_
  split
  refine KeepsOut.next ?_
  exact Keeps.refl _
  refine KeepsOut.next ?_
  with_reducible refine Keeps.step ?_ (jtagAct_keeps ..) ?_
  exact Keeps.refl _
  rfl

end Sys2Proof.Machine
end

