-- ==== Sys2Proof/Laws/SequenceCommands.lean ====
section
/-! SUPPORT. What the operations of Machine/SequenceCommands.lean may change: for each, the parts of the state. -/

namespace Sys2Proof.Machine

theorem doAdmitSequence_keeps (x0 : CmdHdr) (x1 : AdmitBlock) (s : State) :
    Keeps [.regions, .fns, .msis, .orderNo] s (doAdmitSequence x0 x1 s) := by
  unfold doAdmitSequence
  with_reducible refine Keeps.step ?_ (regionCmd_keeps (L := [.regions, .fns, .msis, .orderNo]) (rfl) _ _ _ _ _ _ _ ?_) (sub_refl _)
  exact Keeps.refl _
  intro y2
  intro y3
  dsimp only
  split
  with_reducible refine Keeps.step ?_ (respond_keeps ..) ?_
  exact Keeps.refl _
  rfl
  with_reducible refine Keeps.step ?_ (addAct_keeps ..) ?_
  with_reducible refine Keeps.step ?_ (accept_keeps ..) ?_
  exact Keeps.refl _
  rfl
  rfl

theorem execAdmitSequence_keeps (x0 : CmdHdr) (x1 : AdmitBlock) (s : State) :
    KeepsOut [.regions, .fns, .msis, .orderNo, .pwr] s (execAdmitSequence x0 x1 s) := by
  unfold execAdmitSequence
  with_reducible refine KeepsOut.step ?_ (doorbell_keeps (L := [.regions, .fns, .msis, .orderNo, .pwr]) (rfl) _ _ _ _ _ ?_) (sub_refl _)
  exact Keeps.refl _
  intro y2
  with_reducible refine Keeps.step ?_ (doAdmitSequence_keeps ..) ?_
  exact Keeps.refl _
  rfl

theorem doReleaseSequence_keeps (x0 : CmdHdr) (x1 : Nat) (s : State) :
    Keeps [.regions, .fns, .msis, .orderNo] s (doReleaseSequence x0 x1 s) := by
  unfold doReleaseSequence
  with_reducible refine Keeps.step ?_ (regionCmd_keeps (L := [.regions, .fns, .msis, .orderNo]) (rfl) _ _ _ _ _ _ _ ?_) (sub_refl _)
  exact Keeps.refl _
  intro y2
  intro y3
  dsimp only
  with_reducible refine Keeps.step ?_ (addAct_keeps ..) ?_
  with_reducible refine Keeps.step ?_ (accept_keeps ..) ?_
  exact Keeps.refl _
  rfl
  rfl

theorem execReleaseSequence_keeps (x0 : CmdHdr) (x1 : Nat) (s : State) :
    KeepsOut [.regions, .fns, .msis, .orderNo, .pwr] s (execReleaseSequence x0 x1 s) := by
  unfold execReleaseSequence
  with_reducible refine KeepsOut.step ?_ (doorbell_keeps (L := [.regions, .fns, .msis, .orderNo, .pwr]) (rfl) _ _ _ _ _ ?_) (sub_refl _)
  exact Keeps.refl _
  intro y2
  with_reducible refine Keeps.step ?_ (doReleaseSequence_keeps ..) ?_
  exact Keeps.refl _
  rfl

theorem doQueryProgressSequences_keeps (x0 : CmdHdr) (x1 : List Nat) (x2 : Nat) (x3 : Bool) (s : State) :
    Keeps [.fns, .msis, .hostOut] s (doQueryProgressSequences x0 x1 x2 x3 s) := by
  unfold doQueryProgressSequences
  with_reducible refine Keeps.step ?_ (immediate_keeps (L := [.fns, .msis, .hostOut]) (rfl) _ _ _ _ _ _ _ ?_) (sub_refl _)
  exact Keeps.refl _
  intro y2
  with_reducible refine Keeps.step ?_ (onOwn_keeps (L := [.fns, .msis, .hostOut]) (rfl) _ _ _ _ ?_) (sub_refl _)
  exact Keeps.refl _
  intro y5
  dsimp only
  with_reducible refine Keeps.ite ?_ ?_
  with_reducible refine Keeps.step ?_ (respond_keeps ..) ?_
  exact Keeps.refl _
  rfl
  with_reducible refine Keeps.ite ?_ ?_
  with_reducible refine Keeps.step ?_ (respond_keeps ..) ?_
  exact Keeps.refl _
  rfl
  with_reducible refine Keeps.ite ?_ ?_
  with_reducible refine Keeps.step ?_ (respond_keeps ..) ?_
  exact Keeps.refl _
  rfl
  with_reducible refine Keeps.step ?_ (respond_keeps ..) ?_
  with_reducible refine Keeps.step ?_ (toHost_keeps ..) ?_
  exact Keeps.refl _
  rfl
  rfl

theorem execQueryProgressSequences_keeps (x0 : CmdHdr) (x1 : List Nat) (x2 : Nat) (x3 : Bool) (s : State) :
    KeepsOut [.fns, .msis, .hostOut, .pwr] s (execQueryProgressSequences x0 x1 x2 x3 s) := by
  unfold execQueryProgressSequences
  with_reducible refine KeepsOut.step ?_ (doorbell_keeps (L := [.fns, .msis, .hostOut, .pwr]) (rfl) _ _ _ _ _ ?_) (sub_refl _)
  exact Keeps.refl _
  intro y2
  with_reducible refine Keeps.step ?_ (doQueryProgressSequences_keeps ..) ?_
  exact Keeps.refl _
  rfl

theorem doQueryProgressRequest_keeps (x0 : CmdHdr) (x1 : Nat) (s : State) :
    Keeps [.fns, .msis] s (doQueryProgressRequest x0 x1 s) := by
  unfold doQueryProgressRequest
  with_reducible refine Keeps.step ?_ (immediate_keeps (L := [.fns, .msis]) (rfl) _ _ _ _ _ _ _ ?_) (sub_refl _)
  exact Keeps.refl _
  intro y2
  split
  with_reducible refine Keeps.step ?_ (respond_keeps ..) ?_
  exact Keeps.refl _
  rfl
  with_reducible refine Keeps.step ?_ (respond_keeps ..) ?_
  exact Keeps.refl _
  rfl

theorem execQueryProgressRequest_keeps (x0 : CmdHdr) (x1 : Nat) (s : State) :
    KeepsOut [.fns, .msis, .pwr] s (execQueryProgressRequest x0 x1 s) := by
  unfold execQueryProgressRequest
  with_reducible refine KeepsOut.step ?_ (doorbell_keeps (L := [.fns, .msis, .pwr]) (rfl) _ _ _ _ _ ?_) (sub_refl _)
  exact Keeps.refl _
  intro y2
  with_reducible refine Keeps.step ?_ (doQueryProgressRequest_keeps ..) ?_
  exact Keeps.refl _
  rfl

theorem doQueryProgressTile_keeps (x0 : CmdHdr) (x1 : Nat) (s : State) :
    Keeps [.fns, .msis] s (doQueryProgressTile x0 x1 s) := by
  unfold doQueryProgressTile
  with_reducible refine Keeps.step ?_ (immediate_keeps (L := [.fns, .msis]) (rfl) _ _ _ _ _ _ _ ?_) (sub_refl _)
  exact Keeps.refl _
  intro y2
  with_reducible refine Keeps.step ?_ (onOwn_keeps (L := [.fns, .msis]) (rfl) _ _ _ _ ?_) (sub_refl _)
  exact Keeps.refl _
  intro y5
  with_reducible refine Keeps.ite ?_ ?_
  with_reducible refine Keeps.step ?_ (respond_keeps ..) ?_
  exact Keeps.refl _
  rfl
  with_reducible refine Keeps.step ?_ (respond_keeps ..) ?_
  exact Keeps.refl _
  rfl

theorem execQueryProgressTile_keeps (x0 : CmdHdr) (x1 : Nat) (s : State) :
    KeepsOut [.fns, .msis, .pwr] s (execQueryProgressTile x0 x1 s) := by
  unfold execQueryProgressTile
  with_reducible refine KeepsOut.step ?_ (doorbell_keeps (L := [.fns, .msis, .pwr]) (rfl) _ _ _ _ _ ?_) (sub_refl _)
  exact Keeps.refl _
  intro y2
  with_reducible refine Keeps.step ?_ (doQueryProgressTile_keeps ..) ?_
  exact Keeps.refl _
  rfl

theorem doSiltOpen_keeps (x0 : CmdHdr) (x1 : SiltOpenBlock) (s : State) :
    Keeps [.fns, .silt, .msis, .pwr] s (doSiltOpen x0 x1 s) := by
  unfold doSiltOpen
  with_reducible refine Keeps.step ?_ (deferredBy_keeps (L := [.fns, .silt, .msis, .pwr]) (rfl) _ _ _ _ _ _ ?_) (sub_refl _)
  exact Keeps.refl _
  intro y2
  with_reducible refine Keeps.ite ?_ ?_
  with_reducible refine Keeps.step ?_ (respond_keeps ..) ?_
  exact Keeps.refl _
  rfl
  split
  with_reducible refine Keeps.step ?_ (shortfall_keeps ..) ?_
  exact Keeps.refl _
  rfl
  dsimp only
  with_reducible refine Keeps.step ?_ (acceptDone_keeps ..) ?_
  with_reducible refine Keeps.step ?_ (updSilt_keeps ..) ?_
  exact Keeps.refl _
  rfl
  rfl

theorem execSiltOpen_keeps (x0 : CmdHdr) (x1 : SiltOpenBlock) (s : State) :
    KeepsOut [.fns, .silt, .msis, .pwr] s (execSiltOpen x0 x1 s) := by
  unfold execSiltOpen
  with_reducible refine KeepsOut.step ?_ (doorbell_keeps (L := [.fns, .silt, .msis, .pwr]) (rfl) _ _ _ _ _ ?_) (sub_refl _)
  exact Keeps.refl _
  intro y2
  with_reducible refine Keeps.step ?_ (doSiltOpen_keeps ..) ?_
  exact Keeps.refl _
  rfl

theorem doSiltDestroy_keeps (x0 : CmdHdr) (x1 : Nat) (s : State) :
    Keeps [.tiles, .regions, .fns, .silt, .recorder, .flt, .outbox, .msis, .pwr] s (doSiltDestroy x0 x1 s) := by
  unfold doSiltDestroy
  with_reducible refine Keeps.step ?_ (deferredBy_keeps (L := [.tiles, .regions, .fns, .silt, .recorder, .flt, .outbox, .msis, .pwr]) (rfl) _ _ _ _ _ _ ?_) (sub_refl _)
  exact Keeps.refl _
  intro y2
  split
  with_reducible refine Keeps.step ?_ (respond_keeps ..) ?_
  exact Keeps.refl _
  rfl
  with_reducible refine Keeps.step ?_ (acceptDone_keeps ..) ?_
  with_reducible refine Keeps.step ?_ (destroyNs_keeps ..) ?_
  exact Keeps.refl _
  rfl
  rfl

theorem execSiltDestroy_keeps (x0 : CmdHdr) (x1 : Nat) (s : State) :
    KeepsOut [.tiles, .regions, .fns, .silt, .recorder, .flt, .outbox, .msis, .pwr] s (execSiltDestroy x0 x1 s) := by
  unfold execSiltDestroy
  with_reducible refine KeepsOut.step ?_ (doorbell_keeps (L := [.tiles, .regions, .fns, .silt, .recorder, .flt, .outbox, .msis, .pwr]) (rfl) _ _ _ _ _ ?_) (sub_refl _)
  exact Keeps.refl _
  intro y2
  with_reducible refine Keeps.step ?_ (doSiltDestroy_keeps ..) ?_
  exact Keeps.refl _
  rfl

theorem doSiltStatus_keeps (x0 : CmdHdr) (x1 : Nat) (s : State) :
    Keeps [.fns, .msis] s (doSiltStatus x0 x1 s) := by
  unfold doSiltStatus
  with_reducible refine Keeps.step ?_ (checked_keeps (L := [.fns, .msis]) (rfl) _ _ _ _ _ ?_) (sub_refl _)
  exact Keeps.refl _
  intro y2
  split
  with_reducible refine Keeps.step ?_ (respond_keeps ..) ?_
  exact Keeps.refl _
  rfl
  with_reducible refine Keeps.step ?_ (respond_keeps ..) ?_
  exact Keeps.refl _
  rfl

theorem execSiltStatus_keeps (x0 : CmdHdr) (x1 : Nat) (s : State) :
    KeepsOut [.fns, .msis, .pwr] s (execSiltStatus x0 x1 s) := by
  unfold execSiltStatus
  with_reducible refine KeepsOut.step ?_ (doorbell_keeps (L := [.fns, .msis, .pwr]) (rfl) _ _ _ _ _ ?_) (sub_refl _)
  exact Keeps.refl _
  intro y2
  with_reducible refine Keeps.step ?_ (doSiltStatus_keeps ..) ?_
  exact Keeps.refl _
  rfl

theorem nextEntry_keeps (s : State) (f : Nat) (t : State × List Byte) (h : nextEntry s f = some t) :
    Keeps [.regions, .fns, .ctxs] s t.1 := by
  unfold nextEntry at h
  dsimp only at h
  split at h
  · cases h
    exact (setFn_keeps ..).mono rfl
  · split at h
    · cases h
      exact (markDelivered_keeps ..).mono rfl
    · split at h
      · cases h
        exact (setFn_keeps ..).mono rfl
      · cases h

theorem fetchEntries_keeps (x0 : Nat) (x1 : Nat) (s : State) :
    Keeps [.regions, .fns, .ctxs] s (fetchEntries x0 x1 s).1 := by
  induction x1 generalizing x0 s with
  | zero => exact Keeps.refl _
  | succ n ih =>
    rw [fetchEntries]
    split
    dsimp only
    exact Keeps.refl _
    dsimp only
    with_reducible refine Keeps.step ?_ (ih ..) (sub_refl _)
    with_reducible refine Keeps.step ?_ (nextEntry_keeps _ _ (_, _) (by assumption)) ?_
    exact Keeps.refl _
    rfl

theorem doEventFetch_keeps (x0 : CmdHdr) (s : State) :
    Keeps [.regions, .fns, .ctxs, .msis] s (doEventFetch x0 s) := by
  unfold doEventFetch
  with_reducible refine Keeps.step ?_ (checked_keeps (L := [.regions, .fns, .ctxs, .msis]) (rfl) _ _ _ _ _ ?_) (sub_refl _)
  exact Keeps.refl _
  intro y2
  dsimp only
  with_reducible refine Keeps.step ?_ (respond_keeps ..) ?_
  with_reducible refine Keeps.step ?_ (fetchEntries_keeps ..) ?_
  exact Keeps.refl _
  rfl
  rfl

theorem execEventFetch_keeps (x0 : CmdHdr) (s : State) :
    KeepsOut [.regions, .fns, .ctxs, .msis, .pwr] s (execEventFetch x0 s) := by
  unfold execEventFetch
  with_reducible refine KeepsOut.step ?_ (doorbell_keeps (L := [.regions, .fns, .ctxs, .msis, .pwr]) (rfl) _ _ _ _ _ ?_) (sub_refl _)
  exact Keeps.refl _
  intro y2
  with_reducible refine Keeps.step ?_ (doEventFetch_keeps ..) ?_
  exact Keeps.refl _
  rfl

theorem captureWaiting_keeps (s : State) (x1 : Nat) (x2 : Req) :
    Keeps [.free, .tiles, .fns, .scans, .bundles, .bundleSeq, .recorder, .flt, .msis, .pwr] s (captureWaiting s x1 x2) := by
  unfold captureWaiting
  with_reducible refine Keeps.ite ?_ ?_
  with_reducible refine Keeps.step ?_ (captureFor_keeps ..) ?_
  exact Keeps.refl _
  rfl
  exact Keeps.refl _

theorem execRequestCompletion_keeps (x0 : Nat) (x1 : Nat) (s : State) :
    KeepsOut [.free, .tiles, .fns, .scans, .bundles, .bundleSeq, .recorder, .flt, .msis, .pwr] s (execRequestCompletion x0 x1 s) := by
  unfold execRequestCompletion
  refine needUnit_keeps ?_
  refine KeepsOut.next ?_
  split
  exact Keeps.refl _
  dsimp only
  split
  with_reducible refine Keeps.step ?_ (publishReq_keeps ..) ?_
  with_reducible refine Keeps.step ?_ (captureWaiting_keeps ..) ?_
  exact Keeps.refl _
  rfl
  rfl
  with_reducible refine Keeps.step ?_ (captureWaiting_keeps ..) ?_
  exact Keeps.refl _
  rfl

end Sys2Proof.Machine
end

