-- ==== Sys2Proof/Laws/Registers.lean ====
section
/-! SUPPORT. What the operations of Machine/Registers.lean may change: for each, the parts of the state. -/

namespace Sys2Proof.Machine

theorem drainHeld_keeps (s : State) (x1 : Nat) :
    Keeps [.regions, .fns, .ctxs, .msis] s (drainHeld s x1) := by
  unfold drainHeld
  dsimp only
  with_reducible refine Keeps.foldl ?_ ?_
  with_reducible refine Keeps.step ?_ (feedRing_keeps ..) ?_
  exact Keeps.refl _
  rfl
  intro y5
  intro y6
  with_reducible refine Keeps.step ?_ (deliverTokens_keeps ..) ?_
  exact Keeps.refl _
  rfl

theorem sendPending_keeps (s : State) (x1 : Nat) :
    Keeps [.fns, .msis] s (sendPending s x1) := by
  unfold sendPending
  dsimp only
  with_reducible refine Keeps.step ?_ (setFn_keeps ..) ?_
  with_reducible refine Keeps.set_msis (rfl) ?_
  exact Keeps.refl _
  rfl

theorem answerUnknown_keeps (s : State) (x1 : Nat) :
    Keeps [.fns, .msis] s (answerUnknown s x1) := by
  unfold answerUnknown
  dsimp only
  with_reducible refine Keeps.ite ?_ ?_
  with_reducible refine Keeps.ite ?_ ?_
  with_reducible refine Keeps.step ?_ (respond_keeps ..) ?_
  exact Keeps.refl _
  rfl
  split
  with_reducible refine Keeps.step ?_ (respond_keeps ..) ?_
  exact Keeps.refl _
  rfl
  exact Keeps.refl _
  exact Keeps.refl _

theorem ringDoorbell_keeps (s : State) (x1 : Nat) (x2 : Nat) :
    Keeps [.fns, .msis, .pwr] s (ringDoorbell s x1 x2) := by
  unfold ringDoorbell
  dsimp only
  with_reducible refine Keeps.ite ?_ ?_
  with_reducible refine Keeps.step ?_ (setFn_keeps ..) ?_
  exact Keeps.refl _
  rfl
  with_reducible refine Keeps.step ?_ (answerUnknown_keeps ..) ?_
  with_reducible refine Keeps.step ?_ (wake_keeps ..) ?_
  with_reducible refine Keeps.step ?_ (setFn_keeps ..) ?_
  exact Keeps.refl _
  rfl
  rfl
  rfl

theorem writeEvqCtl_keeps (s : State) (x1 : Nat) (x2 : Nat) :
    Keeps [.regions, .fns, .ctxs, .msis] s (writeEvqCtl s x1 x2) := by
  unfold writeEvqCtl
  dsimp only
  with_reducible refine Keeps.ite ?_ ?_
  with_reducible refine Keeps.step ?_ (setFn_keeps ..) ?_
  exact Keeps.refl _
  rfl
  with_reducible refine Keeps.ite ?_ ?_
  with_reducible refine Keeps.step ?_ (drainHeld_keeps ..) ?_
  with_reducible refine Keeps.step ?_ (setFn_keeps ..) ?_
  exact Keeps.refl _
  rfl
  rfl
  with_reducible refine Keeps.step ?_ (setFn_keeps ..) ?_
  exact Keeps.refl _
  rfl

theorem writeEvqHead_keeps (s : State) (x1 : Nat) (x2 : Nat) :
    Keeps [.regions, .fns, .ctxs, .msis] s (writeEvqHead s x1 x2) := by
  unfold writeEvqHead
  with_reducible refine Keeps.step ?_ (drainHeld_keeps ..) ?_
  with_reducible refine Keeps.step ?_ (updFn_keeps ..) ?_
  exact Keeps.refl _
  rfl
  rfl

theorem writeMask_keeps (s : State) (x1 : Nat) (x2 : Nat) :
    Keeps [.fns, .msis] s (writeMask s x1 x2) := by
  unfold writeMask
  dsimp only
  with_reducible refine Keeps.foldl ?_ ?_
  with_reducible refine Keeps.step ?_ (setFn_keeps ..) ?_
  exact Keeps.refl _
  rfl
  intro y5
  intro y6
  with_reducible refine Keeps.step ?_ (raiseVector_keeps ..) ?_
  exact Keeps.refl _
  rfl

theorem writeInt_keeps (s : State) (x1 : Nat) (x2 : Nat) (x3 : Nat) :
    Keeps [.fns, .msis] s (writeInt s x1 x2 x3) := by
  unfold writeInt
  split
  with_reducible refine Keeps.step ?_ (updFn_keeps ..) ?_
  exact Keeps.refl _
  rfl
  with_reducible refine Keeps.step ?_ (writeMask_keeps ..) ?_
  exact Keeps.refl _
  rfl
  with_reducible refine Keeps.step ?_ (updFn_keeps ..) ?_
  exact Keeps.refl _
  rfl
  with_reducible refine Keeps.step ?_ (updFn_keeps ..) ?_
  exact Keeps.refl _
  rfl
  exact Keeps.refl _

theorem devResetGo_keeps (s : State) (x1 : Nat) :
    Keeps [.pwr] s (devResetGo s x1) := by
  unfold devResetGo
  with_reducible refine Keeps.ite ?_ ?_
  exact Keeps.refl _
  split
  with_reducible refine Keeps.ite ?_ ?_
  exact Keeps.refl _
  with_reducible refine Keeps.set_pwr (rfl) ?_
  exact Keeps.refl _
  with_reducible refine Keeps.set_pwr (rfl) ?_
  exact Keeps.refl _

theorem writeFlt_keeps (s : State) (x1 : Nat) (x2 : Nat) :
    Keeps [.flt, .pwr] s (writeFlt s x1 x2) := by
  unfold writeFlt
  split
  with_reducible refine Keeps.set_flt (rfl) ?_ ?_ ?_
  with_reducible exact fun h => ⟨h.1, h.2, h.3, h.4, h.5, h.6, h.7, h.8, h.9, h.10⟩
  exact ⟨Nat.le_refl _, Nat.le_refl _, rfl, rfl, rfl, rfl, rfl⟩
  exact Keeps.refl _
  with_reducible refine Keeps.set_flt (rfl) ?_ ?_ ?_
  with_reducible exact fun h => ⟨h.1, h.2, h.3, h.4, h.5, h.6, h.7, h.8, h.9, h.10⟩
  exact ⟨Nat.le_refl _, Nat.le_refl _, rfl, rfl, rfl, rfl, rfl⟩
  exact Keeps.refl _
  with_reducible refine Keeps.ite ?_ ?_
  with_reducible refine Keeps.step ?_ (devResetGo_keeps ..) ?_
  exact Keeps.refl _
  rfl
  exact Keeps.refl _
  exact Keeps.refl _

theorem writeMbxPage_keeps (s : State) (x1 : Nat) (x2 : Nat) (x3 : Nat) :
    Keeps [.regions, .fns, .ctxs, .msis, .pwr] s (writeMbxPage s x1 x2 x3) := by
  unfold writeMbxPage
  with_reducible refine Keeps.ite ?_ ?_
  split
  with_reducible refine Keeps.ite ?_ ?_
  with_reducible refine Keeps.step ?_ (ringDoorbell_keeps ..) ?_
  exact Keeps.refl _
  rfl
  exact Keeps.refl _
  with_reducible refine Keeps.step ?_ (updFn_keeps ..) ?_
  exact Keeps.refl _
  rfl
  with_reducible refine Keeps.step ?_ (updFn_keeps ..) ?_
  exact Keeps.refl _
  rfl
  exact Keeps.refl _
  split
  with_reducible refine Keeps.step ?_ (updFn_keeps ..) ?_
  exact Keeps.refl _
  rfl
  with_reducible refine Keeps.step ?_ (updFn_keeps ..) ?_
  exact Keeps.refl _
  rfl
  with_reducible refine Keeps.step ?_ (writeEvqCtl_keeps ..) ?_
  exact Keeps.refl _
  rfl
  with_reducible refine Keeps.step ?_ (writeEvqHead_keeps ..) ?_
  exact Keeps.refl _
  rfl
  with_reducible refine Keeps.ite ?_ ?_
  with_reducible refine Keeps.step ?_ (ringDoorbell_keeps ..) ?_
  exact Keeps.refl _
  rfl
  exact Keeps.refl _
  with_reducible refine Keeps.step ?_ (updFn_keeps ..) ?_
  exact Keeps.refl _
  rfl
  with_reducible refine Keeps.step ?_ (updFn_keeps ..) ?_
  exact Keeps.refl _
  rfl
  exact Keeps.refl _

theorem writeMsix_keeps (s : State) (x1 : Nat) (x2 : Nat) (x3 : List Byte) :
    Keeps [.fns, .msis] s (writeMsix s x1 x2 x3) := by
  unfold writeMsix
  with_reducible refine Keeps.step ?_ (sendPending_keeps ..) ?_
  with_reducible refine Keeps.step ?_ (updFn_keeps ..) ?_
  exact Keeps.refl _
  rfl
  rfl

theorem badAccess_keeps (s : State) :
    Keeps [.flt] s (badAccess s) := by
  unfold badAccess
  with_reducible refine Keeps.set_flt (rfl) ?_ ?_ ?_
  with_reducible exact fun h => ⟨h.1, h.2, h.3, h.4, h.5, h.6, h.7, h.8, h.9, h.10⟩
  exact ⟨Nat.le_refl _, Nat.le_refl _, rfl, rfl, rfl, rfl, rfl⟩
  exact Keeps.refl _

theorem writeArea_keeps (s : State) (x1 : Nat) (x2 : Nat) (x3 : List Byte) :
    Keeps [.fns] s (writeArea s x1 x2 x3) := by
  unfold writeArea
  with_reducible refine Keeps.step ?_ (updFn_keeps ..) ?_
  exact Keeps.refl _
  rfl

theorem write4_keeps (s : State) (x1 : Nat) (x2 : Nat) (x3 : Nat) :
    Keeps [.regions, .fns, .ctxs, .flt, .msis, .pwr] s (write4 s x1 x2 x3) := by
  unfold write4
  with_reducible refine Keeps.ite ?_ ?_
  with_reducible refine Keeps.step ?_ (writeMbxPage_keeps ..) ?_
  exact Keeps.refl _
  rfl
  with_reducible refine Keeps.ite ?_ ?_
  with_reducible refine Keeps.ite ?_ ?_
  with_reducible refine Keeps.step ?_ (writeFlt_keeps ..) ?_
  exact Keeps.refl _
  rfl
  exact Keeps.refl _
  with_reducible refine Keeps.ite ?_ ?_
  with_reducible refine Keeps.step ?_ (writeInt_keeps ..) ?_
  exact Keeps.refl _
  rfl
  exact Keeps.refl _

theorem hostWrite_keeps (s : State) (x1 : Nat) (x2 : Nat) (x3 : List Byte) :
    Keeps [.regions, .fns, .ctxs, .flt, .msis, .pwr] s (hostWrite s x1 x2 x3) := by
  unfold hostWrite
  dsimp only
  with_reducible refine Keeps.ite ?_ ?_
  exact Keeps.refl _
  with_reducible refine Keeps.ite ?_ ?_
  with_reducible refine Keeps.ite ?_ ?_
  with_reducible refine Keeps.step ?_ (writeArea_keeps ..) ?_
  exact Keeps.refl _
  rfl
  with_reducible refine Keeps.step ?_ (badAccess_keeps ..) ?_
  exact Keeps.refl _
  rfl
  with_reducible refine Keeps.ite ?_ ?_
  with_reducible refine Keeps.ite ?_ ?_
  with_reducible refine Keeps.step ?_ (writeMsix_keeps ..) ?_
  exact Keeps.refl _
  rfl
  with_reducible refine Keeps.step ?_ (badAccess_keeps ..) ?_
  exact Keeps.refl _
  rfl
  with_reducible refine Keeps.ite ?_ ?_
  with_reducible refine Keeps.step ?_ (write4_keeps ..) ?_
  exact Keeps.refl _
  rfl
  with_reducible refine Keeps.ite ?_ ?_
  with_reducible refine Keeps.step ?_ (updFn_keeps ..) ?_
  exact Keeps.refl _
  rfl
  with_reducible refine Keeps.ite ?_ ?_
  exact Keeps.refl _
  with_reducible refine Keeps.step ?_ (badAccess_keeps ..) ?_
  exact Keeps.refl _
  rfl

theorem execMbxEvqCtlEnable_keeps (x0 : Nat) (x1 : BitVec 32) (s : State) :
    KeepsOut [.regions, .fns, .ctxs, .msis] s (execMbxEvqCtlEnable x0 x1 s) := by
  unfold execMbxEvqCtlEnable
  refine needUnit_keeps ?_
  refine whenB_keeps2 ?_ ?_
  exact Keeps.refl _
  with_reducible refine Keeps.step ?_ (writeEvqCtl_keeps ..) ?_
  exact Keeps.refl _
  rfl

theorem execMbxEvqHeadWrite_keeps (x0 : Nat) (x1 : Nat) (s : State) :
    KeepsOut [.regions, .fns, .ctxs, .msis] s (execMbxEvqHeadWrite x0 x1 s) := by
  unfold execMbxEvqHeadWrite
  refine needUnit_keeps ?_
  refine whenB_keeps2 ?_ ?_
  exact Keeps.refl _
  with_reducible refine Keeps.step ?_ (writeEvqHead_keeps ..) ?_
  exact Keeps.refl _
  rfl

theorem execEvqModerationTimer_keeps (x0 : Nat) (s : State) :
    KeepsOut [.fns, .msis] s (execEvqModerationTimer x0 s) := by
  unfold execEvqModerationTimer
  refine needUnit_keeps ?_
  dsimp only
  refine whenB_keeps2 ?_ ?_
  exact Keeps.refl _
  with_reducible refine Keeps.step ?_ (raiseCause_keeps ..) ?_
  with_reducible refine Keeps.step ?_ (setFn_keeps ..) ?_
  exact Keeps.refl _
  rfl
  rfl

theorem execFltDevResetGo_keeps (x0 : Nat) (s : State) :
    KeepsOut [.pwr] s (execFltDevResetGo x0 s) := by
  unfold execFltDevResetGo
  refine KeepsOut.next ?_
  with_reducible refine Keeps.step ?_ (devResetGo_keeps ..) ?_
  exact Keeps.refl _
  rfl

theorem execMshTelCtlClear_keeps (x0 : Nat) (s : State) :
    KeepsOut [.routers] s (execMshTelCtlClear x0 s) := by
  unfold execMshTelCtlClear
  refine needUnit_keeps ?_
  refine KeepsOut.next ?_
  with_reducible refine Keeps.step ?_ (updRouter_keeps ..) ?_
  exact Keeps.refl _
  rfl

theorem busFree_keeps (s : State) (x1 : Nat) :
    Keeps [.regions, .fns, .ctxs, .msis] s (busFree s x1) := by
  unfold busFree
  with_reducible refine Keeps.step ?_ (drainHeld_keeps ..) ?_
  with_reducible refine Keeps.step ?_ (sendPending_keeps ..) ?_
  exact Keeps.refl _
  rfl
  rfl

theorem execBusMasterEnableChange_keeps (x0 : Nat) (x1 : Bool) (s : State) (x3 : Option Nat) :
    KeepsOut [.regions, .fns, .ctxs, .idn, .msis] s (execBusMasterEnableChange x0 x1 s x3) := by
  unfold execBusMasterEnableChange
  refine needUnit_keeps ?_
  dsimp only
  refine KeepsOut.next ?_
  with_reducible refine Keeps.ite ?_ ?_
  with_reducible refine Keeps.step ?_ (busFree_keeps ..) ?_
  with_reducible refine Keeps.step ?_ (updFn_keeps ..) ?_
  with_reducible refine Keeps.set_idn (rfl) ?_ ?_ ?_
  with_reducible exact fun h => ⟨h.1, h.2, h.3, h.4, h.5, h.6, h.7, h.8, h.9, h.10⟩
  exact ⟨Nat.le_refl _, Nat.le_refl _, rfl, rfl, rfl, rfl, rfl⟩
  exact Keeps.refl _
  rfl
  rfl
  with_reducible refine Keeps.step ?_ (updFn_keeps ..) ?_
  with_reducible refine Keeps.set_idn (rfl) ?_ ?_ ?_
  with_reducible exact fun h => ⟨h.1, h.2, h.3, h.4, h.5, h.6, h.7, h.8, h.9, h.10⟩
  exact ⟨Nat.le_refl _, Nat.le_refl _, rfl, rfl, rfl, rfl, rfl⟩
  exact Keeps.refl _
  rfl

theorem execD3hotChange_keeps (x0 : Bool) (s : State) :
    KeepsOut [.regions, .fns, .ctxs, .msis] s (execD3hotChange x0 s) := by
  unfold execD3hotChange
  dsimp only
  refine KeepsOut.next ?_
  with_reducible refine Keeps.ite ?_ ?_
  with_reducible refine Keeps.step ?_ (updFn_keeps ..) ?_
  exact Keeps.refl _
  rfl
  with_reducible refine Keeps.step ?_ (busFree_keeps ..) ?_
  with_reducible refine Keeps.step ?_ (updFn_keeps ..) ?_
  exact Keeps.refl _
  rfl
  rfl

end Sys2Proof.Machine
end

