-- ==== Sys2Proof/Laws/Ready.lean ====
section
/-! SUPPORT. What the operations of Machine/Ready.lean may change: for each, the parts of the state. -/

namespace Sys2Proof.Machine

theorem handlerOf_keeps (x0 : Instr) (s : State) :
    Keeps [.free, .tiles, .routers, .engines, .ltMap, .absent, .regions, .fns, .ctxs, .pageList, .basin, .poison, .bsn, .scans, .bundles, .bundleSeq, .silt, .recorder, .activeEpoch, .v0, .v1, .quiet, .flt, .idn, .outbox, .msis, .hostOut, .orderNo, .rep, .flc, .rf, .fab, .pwr, .sec] s (handlerOf x0 s) := by
  unfold handlerOf
  split
  with_reducible refine Keeps.step ?_ (doNop_keeps ..) ?_
  exact Keeps.refl _
  rfl
  with_reducible refine Keeps.step ?_ (doIdentify_keeps ..) ?_
  exact Keeps.refl _
  rfl
  with_reducible refine Keeps.step ?_ (doFunctionConfig_keeps ..) ?_
  exact Keeps.refl _
  rfl
  with_reducible refine Keeps.step ?_ (doVfQuota_keeps ..) ?_
  exact Keeps.refl _
  rfl
  with_reducible refine Keeps.step ?_ (doFunctionDisable_keeps ..) ?_
  exact Keeps.refl _
  rfl
  with_reducible refine Keeps.step ?_ (doFunctionEnable_keeps ..) ?_
  exact Keeps.refl _
  rfl
  with_reducible refine Keeps.step ?_ (doDeviceReset_keeps ..) ?_
  exact Keeps.refl _
  rfl
  with_reducible refine Keeps.step ?_ (doSystemSet_keeps ..) ?_
  exact Keeps.refl _
  rfl
  with_reducible refine Keeps.step ?_ (doDomainsSet_keeps ..) ?_
  exact Keeps.refl _
  rfl
  with_reducible refine Keeps.step ?_ (doFabricRoutes_keeps ..) ?_
  exact Keeps.refl _
  rfl
  with_reducible refine Keeps.step ?_ (doLinkStateRead_keeps ..) ?_
  exact Keeps.refl _
  rfl
  with_reducible refine Keeps.step ?_ (doLinkStateEnable_keeps ..) ?_
  exact Keeps.refl _
  rfl
  with_reducible refine Keeps.step ?_ (doLinkStateDisable_keeps ..) ?_
  exact Keeps.refl _
  rfl
  with_reducible refine Keeps.step ?_ (doLinkStateRetrain_keeps ..) ?_
  exact Keeps.refl _
  rfl
  with_reducible refine Keeps.step ?_ (doLinkStateWriteCtl_keeps ..) ?_
  exact Keeps.refl _
  rfl
  with_reducible refine Keeps.step ?_ (doTelemetry_keeps ..) ?_
  exact Keeps.refl _
  rfl
  with_reducible refine Keeps.step ?_ (doFirmwareUpdateWrite_keeps ..) ?_
  exact Keeps.refl _
  rfl
  with_reducible refine Keeps.step ?_ (doFirmwareUpdatePrefer_keeps ..) ?_
  exact Keeps.refl _
  rfl
  with_reducible refine Keeps.step ?_ (doFirmwareUpdateAdvanceSvn_keeps ..) ?_
  exact Keeps.refl _
  rfl
  with_reducible refine Keeps.step ?_ (doUnlock_keeps (L := [.free, .tiles, .routers, .engines, .ltMap, .absent, .regions, .fns, .ctxs, .pageList, .basin, .poison, .bsn, .scans, .bundles, .bundleSeq, .silt, .recorder, .activeEpoch, .v0, .v1, .quiet, .flt, .idn, .outbox, .msis, .hostOut, .orderNo, .rep, .flc, .rf, .fab, .pwr, .sec]) (rfl) _ _ _ ?_) (sub_refl _)
  exact Keeps.refl _
  intro y60
  with_reducible refine Keeps.step ?_ (serveChallenge_keeps ..) ?_
  exact Keeps.refl _
  rfl
  with_reducible refine Keeps.step ?_ (doUnlock_keeps (L := [.free, .tiles, .routers, .engines, .ltMap, .absent, .regions, .fns, .ctxs, .pageList, .basin, .poison, .bsn, .scans, .bundles, .bundleSeq, .silt, .recorder, .activeEpoch, .v0, .v1, .quiet, .flt, .idn, .outbox, .msis, .hostOut, .orderNo, .rep, .flc, .rf, .fab, .pwr, .sec]) (rfl) _ _ _ ?_) (sub_refl _)
  exact Keeps.refl _
  intro y66
  with_reducible refine Keeps.step ?_ (serveRaise_keeps ..) ?_
  exact Keeps.refl _
  rfl
  with_reducible refine Keeps.step ?_ (doUnlock_keeps (L := [.free, .tiles, .routers, .engines, .ltMap, .absent, .regions, .fns, .ctxs, .pageList, .basin, .poison, .bsn, .scans, .bundles, .bundleSeq, .silt, .recorder, .activeEpoch, .v0, .v1, .quiet, .flt, .idn, .outbox, .msis, .hostOut, .orderNo, .rep, .flc, .rf, .fab, .pwr, .sec]) (rfl) _ _ _ ?_) (sub_refl _)
  exact Keeps.refl _
  intro y72
  with_reducible refine Keeps.step ?_ (serveLower_keeps ..) ?_
  exact Keeps.refl _
  rfl
  with_reducible refine Keeps.step ?_ (doUnlock_keeps (L := [.free, .tiles, .routers, .engines, .ltMap, .absent, .regions, .fns, .ctxs, .pageList, .basin, .poison, .bsn, .scans, .bundles, .bundleSeq, .silt, .recorder, .activeEpoch, .v0, .v1, .quiet, .flt, .idn, .outbox, .msis, .hostOut, .orderNo, .rep, .flc, .rf, .fab, .pwr, .sec]) (rfl) _ _ _ ?_) (sub_refl _)
  exact Keeps.refl _
  intro y78
  with_reducible refine Keeps.step ?_ (serveLifecycle_keeps ..) ?_
  exact Keeps.refl _
  rfl
  with_reducible refine Keeps.step ?_ (doRegionCreate_keeps ..) ?_
  exact Keeps.refl _
  rfl
  with_reducible refine Keeps.step ?_ (doRegionDestroy_keeps ..) ?_
  exact Keeps.refl _
  rfl
  with_reducible refine Keeps.step ?_ (doImageWrite_keeps ..) ?_
  exact Keeps.refl _
  rfl
  with_reducible refine Keeps.step ?_ (doLoadImage_keeps ..) ?_
  exact Keeps.refl _
  rfl
  with_reducible refine Keeps.step ?_ (doGroupSet_keeps ..) ?_
  exact Keeps.refl _
  rfl
  with_reducible refine Keeps.step ?_ (doRun_keeps ..) ?_
  exact Keeps.refl _
  rfl
  with_reducible refine Keeps.step ?_ (doStop_keeps ..) ?_
  exact Keeps.refl _
  rfl
  with_reducible refine Keeps.step ?_ (doJoinShadow_keeps ..) ?_
  exact Keeps.refl _
  rfl
  with_reducible refine Keeps.step ?_ (doResetInstance_keeps ..) ?_
  exact Keeps.refl _
  rfl
  with_reducible refine Keeps.step ?_ (doCapture_keeps ..) ?_
  exact Keeps.refl _
  rfl
  with_reducible refine Keeps.step ?_ (doCaptureRead_keeps ..) ?_
  exact Keeps.refl _
  rfl
  with_reducible refine Keeps.step ?_ (doAdmitSequence_keeps ..) ?_
  exact Keeps.refl _
  rfl
  with_reducible refine Keeps.step ?_ (doReleaseSequence_keeps ..) ?_
  exact Keeps.refl _
  rfl
  with_reducible refine Keeps.step ?_ (doQueryProgressSequences_keeps ..) ?_
  exact Keeps.refl _
  rfl
  with_reducible refine Keeps.step ?_ (doQueryProgressRequest_keeps ..) ?_
  exact Keeps.refl _
  rfl
  with_reducible refine Keeps.step ?_ (doQueryProgressTile_keeps ..) ?_
  exact Keeps.refl _
  rfl
  with_reducible refine Keeps.step ?_ (doSiltOpen_keeps ..) ?_
  exact Keeps.refl _
  rfl
  with_reducible refine Keeps.step ?_ (doSiltDestroy_keeps ..) ?_
  exact Keeps.refl _
  rfl
  with_reducible refine Keeps.step ?_ (doSiltStatus_keeps ..) ?_
  exact Keeps.refl _
  rfl
  with_reducible refine Keeps.step ?_ (doEventFetch_keeps ..) ?_
  exact Keeps.refl _
  rfl
  exact Keeps.refl _

theorem handleLocked_keeps (s : State) (x1 : Nat) :
    Keeps [.free, .tiles, .routers, .engines, .ltMap, .absent, .regions, .fns, .ctxs, .pageList, .basin, .poison, .bsn, .scans, .bundles, .bundleSeq, .silt, .recorder, .activeEpoch, .v0, .v1, .quiet, .flt, .idn, .outbox, .msis, .hostOut, .orderNo, .rep, .flc, .rf, .fab, .pwr, .sec] s (handleLocked s x1) := by
  unfold handleLocked
  split
  with_reducible refine Keeps.step ?_ (handlerOf_keeps ..) ?_
  with_reducible refine Keeps.step ?_ (updFn_keeps ..) ?_
  with_reducible refine Keeps.set_pwr (rfl) ?_
  exact Keeps.refl _
  rfl
  rfl
  with_reducible refine Keeps.step ?_ (answerUnknown_keeps ..) ?_
  exact Keeps.refl _
  rfl

theorem raiseReady_keeps (s : State) :
    Keeps [.free, .tiles, .routers, .engines, .ltMap, .absent, .regions, .fns, .ctxs, .pageList, .basin, .poison, .bsn, .scans, .bundles, .bundleSeq, .silt, .recorder, .activeEpoch, .v0, .v1, .quiet, .flt, .idn, .outbox, .msis, .hostOut, .orderNo, .rep, .flc, .rf, .fab, .pwr, .sec] s (raiseReady s) := by
  unfold raiseReady
  with_reducible refine Keeps.foldl ?_ ?_
  with_reducible refine Keeps.foldl ?_ ?_
  exact Keeps.refl _
  intro y3
  intro y4
  with_reducible refine Keeps.step ?_ (updFn_keeps ..) ?_
  exact Keeps.refl _
  rfl
  intro y8
  intro y9
  with_reducible refine Keeps.step ?_ (handleLocked_keeps ..) ?_
  exact Keeps.refl _
  rfl

theorem confirmSlot_keeps (s : State) :
    Keeps [.sec] s (confirmSlot s) := by
  unfold confirmSlot
  dsimp only
  with_reducible refine Keeps.ite ?_ ?_
  exact Keeps.refl _
  with_reducible refine Keeps.step ?_ (newSel_keeps ..) ?_
  exact Keeps.refl _
  rfl

theorem settleNamespaces_keeps (s : State) :
    Keeps [.tiles, .regions, .fns, .silt, .recorder, .flt, .outbox, .msis] s (settleNamespaces s) := by
  unfold settleNamespaces
  with_reducible refine Keeps.foldl ?_ ?_
  exact Keeps.refl _
  intro y2
  intro y3
  with_reducible refine Keeps.ite ?_ ?_
  with_reducible refine Keeps.step ?_ (updNs_keeps ..) ?_
  exact Keeps.refl _
  rfl
  with_reducible refine Keeps.step ?_ (destroyNs_keeps ..) ?_
  exact Keeps.refl _
  rfl

theorem noteReady_keeps (s : State) :
    Keeps [.idn] s (noteReady s) := by
  unfold noteReady
  dsimp only
  with_reducible refine Keeps.set_idn (rfl) ?_ ?_ ?_
  with_reducible exact fun h => ⟨h.1, h.2, h.3, h.4, h.5, h.6, h.7, h.8, h.9, h.10⟩
  exact ⟨Nat.le_refl _, Nat.le_refl _, rfl, rfl, rfl, rfl, rfl⟩
  with_reducible refine Keeps.step ?_ (noteSpares_keeps ..) ?_
  exact Keeps.refl _
  rfl

theorem execDeclareReady_keeps (s : State) :
    KeepsOut [.free, .tiles, .routers, .engines, .ltMap, .absent, .regions, .fns, .ctxs, .pageList, .basin, .poison, .bsn, .scans, .bundles, .bundleSeq, .silt, .recorder, .activeEpoch, .v0, .v1, .quiet, .flt, .idn, .outbox, .msis, .hostOut, .orderNo, .rep, .flc, .rf, .fab, .pwr, .sec] s (execDeclareReady s) := by
  unfold execDeclareReady
  refine whenB_keeps2 ?_ ?_
  exact Keeps.refl _
  dsimp only
  with_reducible refine Keeps.step ?_ (raiseReady_keeps ..) ?_
  with_reducible refine Keeps.set_flt (rfl) ?_ ?_ ?_
  refine fun h => ⟨?_, ?_, ?_, ?_, ?_, ?_, ?_, ?_, ?_, ?_⟩
  with_reducible exact h.1
  with_reducible exact h.2
  with_reducible exact h.3
  with_reducible exact h.4
  with_reducible exact h.5
  exact Nat.le_of_ble_eq_true rfl
  with_reducible exact h.7
  with_reducible exact h.8
  with_reducible exact h.9
  with_reducible exact h.10
  exact ⟨Nat.le_refl _, Nat.le_refl _, rfl, rfl, rfl, rfl, rfl⟩
  with_reducible refine Keeps.step ?_ (confirmSlot_keeps ..) ?_
  with_reducible refine Keeps.step ?_ (noteReady_keeps ..) ?_
  with_reducible refine Keeps.step ?_ (settleNamespaces_keeps ..) ?_
  exact Keeps.refl _
  rfl
  rfl
  rfl
  rfl

theorem execManagementCoreRestartDone_keeps (s : State) :
    KeepsOut [.free, .tiles, .routers, .engines, .ltMap, .absent, .regions, .fns, .ctxs, .pageList, .basin, .poison, .bsn, .scans, .bundles, .bundleSeq, .silt, .recorder, .activeEpoch, .v0, .v1, .quiet, .flt, .idn, .outbox, .msis, .hostOut, .orderNo, .rep, .flc, .rf, .fab, .pwr, .sec] s (execManagementCoreRestartDone s) := by
  unfold execManagementCoreRestartDone
  split
  refine KeepsOut.next ?_
  exact Keeps.refl _
  split
  refine KeepsOut.next ?_
  exact Keeps.refl _
  dsimp only
  refine KeepsOut.next ?_
  with_reducible refine Keeps.ite ?_ ?_
  with_reducible refine Keeps.step ?_ (raiseReady_keeps ..) ?_
  with_reducible refine Keeps.set_pwr (rfl) ?_
  exact Keeps.refl _
  rfl
  with_reducible refine Keeps.set_pwr (rfl) ?_
  exact Keeps.refl _

end Sys2Proof.Machine
end

