-- ==== Sys2Proof/Laws/RegisterReads.lean ====
section
/-! SUPPORT. What the operations of Machine/RegisterReads.lean may change: for each, the parts of the state. -/

namespace Sys2Proof.Machine

theorem hostReadAt_keeps (s : State) (x1 : Nat) (x2 : Nat) (x3 : Nat) :
    Keeps [.flt] s (hostReadAt s x1 x2 x3).1 := by
  unfold hostReadAt
  split
  dsimp only
  exact Keeps.refl _
  split
  dsimp only
  exact Keeps.refl _
  split
  dsimp only
  exact Keeps.refl _
  dsimp only
  with_reducible refine Keeps.step ?_ (badAccess_keeps ..) ?_
  exact Keeps.refl _
  rfl

theorem execRegisterWrite_keeps (x0 : Nat) (x1 : Nat) (x2 : List Byte) (s : State) (x4 : Nat) :
    KeepsOut [.regions, .fns, .ctxs, .flt, .msis, .pwr] s (execRegisterWrite x0 x1 x2 s x4) := by
  unfold execRegisterWrite
  refine needUnit_keeps ?_
  dsimp only
  refine KeepsOut.next ?_
  with_reducible refine Keeps.ite ?_ ?_
  with_reducible refine Keeps.ite ?_ ?_
  exact Keeps.refl _
  with_reducible refine Keeps.step ?_ (hostWrite_keeps ..) ?_
  exact Keeps.refl _
  rfl
  with_reducible refine Keeps.step ?_ (hostReadAt_keeps ..) ?_
  with_reducible refine Keeps.ite ?_ ?_
  exact Keeps.refl _
  with_reducible refine Keeps.step ?_ (hostWrite_keeps ..) ?_
  exact Keeps.refl _
  rfl
  rfl

end Sys2Proof.Machine
end

