-- ==== Sys2Proof/Laws/Tick.lean ====
section
/-! SUPPORT. What the operations of Machine/Tick.lean may change: for each, the parts of the state. -/

namespace Sys2Proof.Machine

theorem sampleRouter_keeps (s : State) (x1 : Nat) :
    Keeps [.routers] s (sampleRouter s x1) := by
  unfold sampleRouter
  with_reducible refine Keeps.step ?_ (updRouter_keeps ..) ?_
  exact Keeps.refl _
  rfl

theorem tickTile_keeps (s : State) (x1 : Nat) :
    Keeps [.tiles, .routers] s (tickTile s x1) := by
  unfold tickTile
  dsimp only
  with_reducible refine Keeps.ite ?_ ?_
  exact Keeps.refl _
  with_reducible refine Keeps.step ?_ (tryOwed_keeps ..) ?_
  with_reducible refine Keeps.step ?_ (pumpTile_keeps ..) ?_
  with_reducible refine Keeps.step ?_ (ageQueues_keeps ..) ?_
  exact Keeps.refl _
  rfl
  rfl
  rfl

theorem tickBeat_keeps (s : State) :
    Keeps [.flt] s (tickBeat s) := by
  unfold tickBeat
  with_reducible refine Keeps.ite ?_ ?_
  with_reducible refine Keeps.set_flt (rfl) ?_ ?_ ?_
  with_reducible exact fun h => ⟨h.1, h.2, h.3, h.4, h.5, h.6, h.7, h.8, h.9, h.10⟩
  exact ⟨Nat.le_refl _, Nat.le_refl _, rfl, rfl, rfl, rfl, rfl⟩
  exact Keeps.refl _
  exact Keeps.refl _

theorem tick_keeps (s : State) :
    Keeps [.now, .tiles, .routers, .engines, .regions, .fns, .recorder, .activeEpoch, .v0, .v1, .quiet, .flt, .idn, .outbox, .msis, .rep, .flc, .rf, .fab, .pwr] s (tick s) := by
  unfold tick
  dsimp only
  with_reducible refine Keeps.step ?_ (tickBeat_keeps ..) ?_
  with_reducible refine Keeps.foldl ?_ ?_
  with_reducible refine Keeps.foldl ?_ ?_
  with_reducible refine Keeps.foldl ?_ ?_
  with_reducible refine Keeps.step ?_ (pumpRipple_keeps ..) ?_
  with_reducible refine Keeps.foldl ?_ ?_
  with_reducible refine Keeps.set_now (rfl) ?_
  exact Keeps.refl _
  intro y9
  intro y10
  with_reducible refine Keeps.step ?_ (sampleRouter_keeps ..) ?_
  exact Keeps.refl _
  rfl
  rfl
  intro y15
  intro y16
  with_reducible refine Keeps.step ?_ (tickTile_keeps ..) ?_
  exact Keeps.refl _
  rfl
  intro y20
  intro y21
  with_reducible refine Keeps.step ?_ (pumpEngine_keeps ..) ?_
  exact Keeps.refl _
  rfl
  intro y25
  intro y26
  with_reducible refine Keeps.step ?_ (tickPort_keeps ..) ?_
  exact Keeps.refl _
  rfl
  rfl

end Sys2Proof.Machine
end

