-- ==== Sys2Proof/Tests/Slice0.lean ====
section
/-! SUPPORT. Tests of the model: an ill-formed command for each check, states and operands that meet the
hypotheses of each statement, and single steps on small states. -/

open Sys2Proof.Machine
set_option Elab.async false
namespace Sys2Proof.Tests

/-! ## Ill-formed commands are refused -/

/-- A header that is right in every field. -/
def hdr : CmdHdr := ⟨0, 1, 7, 0, false, 0⟩

theorem test_wf_nop : wellFormed (.nop hdr) = true := by decide
theorem test_ill_func : wellFormed (.nop { hdr with func := 17 }) = false := by decide
theorem test_ill_seq : wellFormed (.nop { hdr with seq := 65536 }) = false := by decide
theorem test_ill_tag : wellFormed (.nop { hdr with tag := 65536 }) = false := by decide
theorem test_ill_header_region : wellFormed (.nop { hdr with region := 256 }) = false := by decide
theorem test_ill_param_len : wellFormed (.nop { hdr with paramLen := 65536 }) = false := by decide
theorem test_ill_source : wellFormed (.debugUnlockChallenge (.mailbox { hdr with func := 17 })) = false := by decide
theorem test_ill_tile : wellFormed (.writePacketRx 576) = false := by decide
theorem test_ill_queue : wellFormed (.matmul 0 64 []) = false := by decide
theorem test_ill_position : wellFormed (.positionFailed 624) = false := by decide
theorem test_ill_port : wellFormed (.portIdleTimeout 12) = false := by decide
theorem test_ill_die : wellFormed (.dieReset 4) = false := by decide
theorem test_ill_region : wellFormed (.stepStart 17) = false := by decide
theorem test_ill_device : wellFormed (.peerSilent 4096) = false := by decide
theorem test_ill_regulator : wellFormed (.regulatorSilent 16) = false := by decide
theorem test_ill_channel : wellFormed (.siltChannelLost 16) = false := by decide
theorem test_ill_lane : wellFormed (.packetForward 0 0 4 0) = false := by decide
theorem test_ill_engine : wellFormed (.ackRx 0x3FC) = false := by decide
theorem test_ill_link : wellFormed (.linkDead 0 4) = false := by decide
theorem test_ill_pldm : wellFormed (.pldmRequest (.vddTile 4)) = false := by decide
theorem test_ill_access : wellFormed (.boundaryScanAccess (.readMem 0 0x3FFFFFF)) = false := by decide
theorem test_ill_speed : wellFormed (.perstNDeassert false false 7 0) = false := by decide
theorem test_ill_width : wellFormed (.perstNDeassert false false 0 17) = false := by decide
theorem test_ill_vfs : wellFormed (.busMasterEnableChange 0 true (some 17)) = false := by decide

/-! ## Small states -/

/-- The state after reset. -/
def z : State := State.reset

/-- A packet of the firmware region that routes to a position. -/
def pk : Packet := { blankPacket with region := 16, dstKind := 2, dst := 1, typ := 9 }

/-- One lane of one router holds one packet. -/
def laneState (pos k : Nat) (p : Packet) : State := updRouter z pos fun r => { r with bufs := [(k, [p])] }

/-- One router's LOCAL output has delivered one packet. -/
def inboxState (pos : Nat) (p : Packet) : State := updRouter z pos fun r => { r with inbox := [p] }

/-- A region of two tiles in a step. -/
def reg : Region :=
  { owner := 0, role := .generation, x0 := 0, y0 := 0, w := 2, h := 1, jobId := 0, attemptLimit := 4, collQueues := 0
    timeoutUs := 50000, basinBase := basinTenant, basinGib := 1, repairPause := false, arrivalFold := false, samplerFree := false
    faultInject := false, step := 0, attempt := 0, mstate := .running, rstate := .running, failed := false, failCauses := []
    failRecs := [], stepStart := 0, readyFrom := [], answers := [], queryAt := none, lastCommitted := none, discards := 0
    groupId := 0, members := 1, rank := 0, peers := [], removed := [], image := none, switching := false, running := true
    runLeft := 1, runForever := false, deliver := false, runReq := none, held := false, ctxIds := [], pool := [], cache := []
    cacheDropped := 0, ledger := [], boundary := [], boundaryLog := [], degraded := false, loadedMap := [], undo := [], filt := []
    siltCommits := 0, idleAt := 0, pushes := [], renames := [] }

/-- The block with one region of that form. -/
def regState (f : Region → Region) : State := { z with regions := [(0, f reg)] }

/-- The block with one changed tile. -/
def tileState (f : Tile → Tile) : State := updTile z 0 f

/-- The block with tile 0 changed and a packet delivered to it. -/
def rxState (f : Tile → Tile) (p : Packet) : State := updRouter (tileState f) 0 fun r => { r with inbox := [p] }

/-- A descriptor of a class and op in no region, with the given further bits. -/
def desc (cls op bits : Nat) : Nat := cls * 2 ^ 60 + op * 2 ^ 56 + 31 * 2 ^ 48 + bits

/-- Tile 0 with that descriptor at the head of its queue 0. -/
def descTile (d : Nat) (t : Tile) : Tile :=
  { t with qcfg := [(0, ⟨1, 0, 0x1000, false, 0, 0, 0, 0⟩)], queues := [(0, { queueReset with slots := [⟨0, true, none, 0⟩] })]
           spad := spadWrite t.spad 0x1000 (leBytes d 64) }
def descState (d : Nat) : State := tileState (descTile d)

/-- The plan of the head. -/
def plan (d : Nat) : FirePlan := ⟨0, 0, d, []⟩

/-- A node on one tile, and an image of one such node. -/
def node (x y : Nat) : Node :=
  { x, y, spadData := 64, reservation := 0, nQueues := 0, nDescQueues := 0, nSync := 0, nHandlers := 0, queues := [], objects := []
    handlers := [], streams := [], chains := [], resident := [], shadow := [], lists := [], experts := [], mcast := [], compQueue := 0 }
def img : Image :=
  { format := 1, role := .generation, arithRev := 1, imageId := 5, tilesW := 2, tilesH := 1, contexts := 1, digest := 0, digestOk := true
    basinBytes := 0, siltBytes := 0, nodes := [node 0 0]
    dir := ⟨⟨0, 1024⟩, ⟨0, 0⟩, ⟨0, 0⟩, ⟨0, 0⟩, ⟨0, 0⟩, ⟨0, 0⟩⟩, poolPages := 4, onePartition := false, layers := 1, heads := 1
    pageMap := [(0, ⟨0, 0x4000⟩)], exchNode := 0, exchBase := 0, experts := 0, expertMaps := [] }

/-- The block with one region of that form, READY. -/
def readyState (f : Region → Region) : State := { regState f with flt := { z.flt with state := 5 } }

/-- A region that holds the image and stands at its boundary, where one action waits. -/
def waitReg (a : BAct) (g : Region) : Region :=
  { g with image := some img, mstate := .idle, ctxIds := [3], loadedMap := [(0, 0)], boundary := [⟨a, some (0, 1), 0⟩] }

/-- Where a packet is taken, some state is left. -/
theorem took {α β : Type} {o : Option (α × β)} {p : α} (h : o.map (·.1) = some p) : ∃ u, o = some (p, u) := by
  cases o with
  | none => cases h
  | some x => exact ⟨x.2, by simp at h; rw [← h]⟩

/-- Whether a row takes packet `p` of a tile's inbox. -/
def takesB (s : State) (lt : Nat) (test : Packet → Bool) (p : Packet) : Bool :=
  match (routerOf s (posOf s lt)).inbox.find? test with
  | none => false
  | some x => (firstRival (tileOf s lt) (routerOf s (posOf s lt)).inbox x).1 == p && test p &&
      (takeInbox s (posOf s lt) (fun q => q == p)).map (·.1) == some p

/-- Where it does, some state is left. -/
theorem takes {s : State} {lt : Nat} {test : Packet → Bool} {p : Packet} (h : takesB s lt test p = true) : ∃ u, Takes s lt test p u := by
  unfold takesB at h
  split at h
  · cases h
  · rename_i x hx
    simp only [Bool.and_eq_true, beq_iff_eq] at h
    obtain ⟨y, hy⟩ := took h.2
    exact ⟨_, x, y, hx, h.1.1, h.1.2, hy, rfl⟩

/-- What holds of the default and of every listed value holds of every value read. -/
theorem sget_all {α : Type} (P : α → Prop) (d : α) (hd : P d) : ∀ (l : List (Nat × α)), (∀ e ∈ l, P e.2) → ∀ k, P (sget d l k)
  | [], _, _ => hd
  | (a, v) :: t, h, k => by
    unfold sget
    split
    · exact h (a, v) (by simp)
    · exact sget_all P d hd t (fun e he => h e (by simp [he])) k

/-- Every tile of a state has a merge buffer in its form. -/
theorem wf_all (s : State) (h : ∀ e ∈ s.tiles, spadWf e.2.spad = true) (k : Nat) : spadWf (tileOf s k).spad = true :=
  sget_all (fun t : Tile => spadWf t.spad = true) tileReset (by decide) s.tiles h (posOf s k)

/-- The row of a command fires on a state, and with what status. -/
def firesWith (c : Instr) (s : State) (d st : Nat) : Prop :=
  ∃ x, descRow c = some x ∧ Fires s x (plan d) ∧ fireStatus s x (plan d) = st
/-- Operands of a DMA of `n` bytes from 0x2000 to `a`. -/
def dma (op n a : Nat) : Nat := desc 2 op (n * 2 ^ 218 + a * 2 ^ 154 + 0x2000 * 2 ^ 128)
/-- The header of a command of the PF, and a state whose mailboxes take commands. -/
def ch (len : Nat) : CmdHdr := ⟨0, 1, 7, 0, false, len⟩
def upState (s : State) : State := { s with fns := (List.range 17).map fun f => (f, { fnOf z f with ready := true }), flt := { s.flt with state := 5 } }

/-- A MATMUL of one row and column, K one, E4M3 weights at 0x10000 and activations at 0x2000, to FP32 at 0x3000. -/
def mat : Nat := desc 0 0 (0x10000 * 2 ^ 128 + 2 * 2 ^ 154 + 0x2000 * 2 ^ 158 + 2 * 2 ^ 184 + 0x3000 * 2 ^ 188 + 8 * 2 ^ 214 + 2 ^ 224 + 2 ^ 244)
def matState : State := tileState fun t => descTile mat { t with spad := spadWrite t.spad 0x2000 (List.replicate 64 1) }

/-! ## States and operands that meet the hypotheses of the statements -/

theorem wit_CommandsInTurn : ({ z with pending := [.trstNAssert, .trstNAssert] }).pending = .trstNAssert :: [.trstNAssert] := rfl
theorem wit_IdleStepIsOneCycle_beat : let s : State := { z with now := 1999999, flt := { z.flt with state := 2 }, sec := { z.sec with booted := true }, pwr := { z.pwr with railsUp := true, pwrOk := true, perstN := true } }
    s.pending = [] ∧ fwRuns s = true ∧ s.flt.beatAt + cyclesPerMs ≤ s.now + 1 := by decide
theorem wit_IdleStepIsOneCycle_still : z.pending = [] ∧ fwRuns z = false ∧ ∀ e ∈ (tileOf z 575).expState, e.2.owed = false := by decide
theorem wit_InvariantKept : step { z with pending := [.trstNAssert] } = .next z := rfl
theorem wit_CommandsComplete : wellFormed (.ceWriteback 575) = true ∧ wellFormed (.positionFailed 623) = true ∧
    wellFormed (.portIdleTimeout 11) = true ∧ wellFormed (.vfFlr 16) = true := by decide
theorem wit_Frames : exec .trstNAssert z = .next z := rfl
theorem wit_BankOfAddress : spadEnd - 1 < spadEnd ∧ rowOf (spadEnd - 1) = rowOf (spadEnd - 1) := by decide
theorem wit_ScratchpadReadsBack : spadWf (spadWrite spadEmpty 3 [1, 2]) = true ∧ (0x3FFFE00 : Nat) % 512 = 0 ∧ 3 / 64 ∉ spadEmpty.valid ∧
    ∀ e ∈ spadEmpty.mb, e.word ≠ 3 / 64 := by decide
theorem wit_BasinReadsBack : memWf (memWrL [] 5 [1, 0, 2]) = true ∧ memWf ([] : List Host.Cell) = true := by decide
theorem wit_PortBytesRoundTrip : let p : Packet := { blankPacket with region := 31, gen := 7, dst := 1023, len := 1, payload := [7], flow := 15 }
    let f : FabPacket := ⟨2, 4095, 0xFFFF, 0xFFFF, 1023, 63, 0, 0, 0, p, 0, 0⟩
    f.pver = 2 ∧ f.destDev < 4096 ∧ f.fage < 1024 ∧ f.fhops < 64 ∧ f.destInc < 2 ^ 16 ∧ f.srcInc < 2 ^ 16 ∧ p.typ < 16 ∧ p.vc < 4 ∧ p.epoch < 2 ∧
      p.region < 32 ∧ p.gen < 8 ∧ p.dstKind < 4 ∧ p.dst < 1024 ∧ p.srcLt < 1024 ∧ p.srcDev < 4096 ∧ p.flow < 16 ∧ p.transfer < 2 ^ 16 ∧
      p.seq < 2 ^ 16 ∧ p.chan < 2 ∧ p.len = p.payload.length ∧ p.len < 8192 ∧ p.dstAddr < 2 ^ 26 ∧ p.injTime < 2 ^ 16 ∧ p.hops < 64 := by decide
theorem wit_PortBytesRoundTrip_v1 : let f : FabPacket := ⟨1, 0, 0, 0, 0, 0, 0, 0, 0, { blankPacket with payload := [] }, 0, 0⟩
    f.pver = 1 ∧ f.destInc = 0 ∧ f.srcInc = 0 ∧ f.pkt.len = f.pkt.payload.length := by decide
theorem wit_RouterDropsOldPackets_age : let p := { pk with injTime := 65535 }
    let s := { laneState 623 (laneKey 5 3 1) p with now := 64 * 31250 }
    laneOk 5 3 1 = true ∧ sget [] (routerOf s 623).bufs (laneKey 5 3 1) = [p] ∧ p.injTime < 2 ^ 16 ∧
      31250 < ((meshTime s : Int) - p.injTime) % 2 ^ 16 := by decide
theorem wit_RouterDropsOldPackets_hops : let p := { pk with hops := 63 }
    let s := laneState 0 (laneKey 0 0 0) p
    let r := routerOf s 0
    laneOk 0 0 0 = true ∧ sget [] r.bufs (laneKey 0 0 0) = [p] ∧ ((meshTime s : Int) - p.injTime) % 2 ^ 16 ≤ 31250 ∧ r.alive = true ∧
      regionForeign r p = false ∧ routeHead s 0 r p 0 = .go [(2, 0)] ∧ 63 < p.hops + 1 ∧
      headGranted s r (readyHeads s 0 r) (laneKey 0 0 0, p, [(2, 0)]) = true ∧ linkTo 0 2 ≠ none := by decide
theorem wit_MeshRows_foreign : let p := { pk with region := 3 }
    let s := updRouter (laneState 0 0 p) 0 fun r => { r with prevRegion := 3 }
    let r := routerOf s 0
    sget [] r.bufs 0 = [p] ∧ r.alive = true ∧ regionForeign r p = true ∧ regionStale s r p = true := by decide
theorem wit_MeshRows_wait : let s := updRouter (laneState 0 0 pk) 1 fun r => { r with xoff := [laneKey 4 0 0] }
    let r := routerOf s 0
    sget [] r.bufs 0 = [pk] ∧ r.alive = true ∧ regionForeign r pk = false ∧ routeHead s 0 r pk 0 = .wait := by decide
theorem wit_MeshRows_drop : let p := { pk with typ := 11 }
    let s := laneState 0 0 p
    let r := routerOf s 0
    sget [] r.bufs 0 = [p] ∧ r.alive = true ∧ regionForeign r p = false ∧ routeHead s 0 r p 0 = .drop .flitUe := by decide
theorem wit_MeshRows_cross : let s := laneState 0 0 pk
    let r := routerOf s 0
    routeHead s 0 r pk 0 = .go [(2, 0)] ∧ headGranted s r (readyHeads s 0 r) (0, pk, [(2, 0)]) = true ∧ linkTo 0 2 = some (1, 4) ∧
      pk.hops < 63 ∧ (routerOf s 1).alive = true := by decide
theorem wit_MeshRows_deliver : let p := { pk with dst := 0 }
    let s := laneState 0 0 p
    let r := routerOf s 0
    routeHead s 0 r p 0 = .go [(0, 0)] ∧ headGranted s r (readyHeads s 0 r) (0, p, [(0, 0)]) = true ∧ p.gen = (tileAtPos s 0).gen := by decide
theorem wit_MeshRows_age : 31250 < ageOf { z with now := 64 * 31251 } pk ∧ ageOf { z with now := 64 * 31250 } pk ≤ 31250 := by decide
theorem wit_MeshRows_link : linkTo 623 4 ≠ none := by decide
theorem wit_MeshRows_cfg : let p := { pk with typ := tCfg, payload := [1, 2] }
    (∃ u, takeInbox (inboxState 0 p) 0 (fun p => p.typ == tCfg) = some (p, u)) ∧ spadWf (tileAtPos (inboxState 0 p) 0).spad = true :=
  ⟨⟨_, rfl⟩, by decide⟩
theorem wit_RouteFlip_drained : let s : State := { z with v1 := .draining }
    s.quiet = false ∧ verState s 1 = .draining ∧ inFlight s 1 = 0 := by decide
theorem wit_RouteFlip_flip : z.quiet = false ∧ verState z (otherVer z) = .writable ∧ versionBad (confineVersion z (otherVer z)) (otherVer z) = [] ∧
    unionOk (confineVersion z (otherVer z)) = true ∧ ∀ x ∈ z.fab.rippleWait, x.1 ≠ .tableWrite := by decide
theorem wit_RouteFlip_no : let s : State := { z with v1 := .draining }
    s.quiet = false ∧ verState s (otherVer s) = .draining := by decide
theorem wit_RouteFlip_ripple : let d : Ripple := ⟨0, 16, 623, 1, 0x3FFFFC0, false, 0, []⟩
    d.position < 624 ∧ (routerOf z d.position).alive = true ∧ spadWf (tileAtPos z d.position).spad = true ∧ ctlWindow ≤ d.addr ∧
      verState z (d.version % 2) = .writable := by decide
theorem wit_RouteFlip_operand : let d : Ripple := ⟨0, 16, 0, 0, 0x37FFFC0, false, 0, []⟩
    d.addr + 64 ≤ 0x3800000 ∧ d.arriveEn = false ∧ d.addr < ctlWindow ∧ verState z (d.version % 2) ≠ .writable := by decide
theorem wit_RouteFlip_table : 639 * 16 / 16 + 0 < 640 := by decide
theorem wit_RouteFlip_start : let s := updRouter (regState id) 0 fun r => { r with region := 0 }
    ∃ g, regionOf s (routerOf s 0).region = some g ∧ inStep g = true := ⟨reg, by decide⟩
/-- A VALID route entry whose primary port is `p`. -/
def re (p : Nat) : BitVec 32 := BitVec.ofNat 32 (2 ^ 31 + p * 2 ^ 28)
theorem wit_RouteFlip_bad : let s : State := { z with routers :=
      [(0, { routerReset with table1 := [(100, re 2)] }), (1, { routerReset with table1 := [(100, re 4)] })] }
    s.quiet = false ∧ verState s (otherVer s) = .writable ∧ versionBad (confineVersion s (otherVer s)) (otherVer s) ≠ [] := by decide
theorem wit_RouteFlip_quiet : let s : State := { z with routers :=
      [(0, { routerReset with table0 := [(100, re 2)], table1 := [(101, re 2)] }),
       (1, { routerReset with table0 := [(100, re 3), (101, re 3)] }),
       (26, { routerReset with table1 := [(100, re 1), (101, re 1)] }),
       (27, { routerReset with table0 := [(101, re 4)], table1 := [(100, re 4)] })] }
    s.quiet = false ∧ verState s (otherVer s) = .writable ∧ versionBad (confineVersion s (otherVer s)) (otherVer s) = [] ∧ unionOk (confineVersion s (otherVer s)) = false := by decide
theorem wit_MeshRows_found : let s := laneState 0 0 pk
    (routerOf s 0).alive = true ∧ sget [] (routerOf s 0).bufs 0 = [pk] := by decide
theorem wit_MeshRows_foreignNew : let p := { pk with region := 3 }
    let s := laneState 0 0 p
    let r := routerOf s 0
    sget [] r.bufs 0 = [p] ∧ r.alive = true ∧ regionForeign r p = true ∧ regionStale s r p = false := by decide
theorem wit_MeshRows_tile : let p := { pk with dstKind := 0, dst := 0 }
    let s := laneState 0 0 p
    p.dstKind = 0 ∧ s.absent.contains p.dst = false ∧ regionForeign (routerOf s 0) p = false := by decide
theorem wit_MeshRows_cfgRegs : verState z (otherVer z) = .writable ∧ verState z (activeVer z) ≠ .writable ∧ otherVer z < 2 ∧ activeVer z < 2 := by decide
theorem wit_RouteFlip_detour : let s : State := { z with routers :=
      [(0, { routerReset with dead := [2], table0 := [(100, re 2)], table1 := [(100, re 3)] })] }
    s.quiet = false ∧ detourOk s = true ∧ verState s (otherVer s) = .writable := by decide
theorem wit_RouteFlip_planned : let s : State := { z with routers := [(0, { routerReset with region := 0, table1 := [(100, re 0)] })], regions := [(0, { reg with mstate := .idle })] }
    s.quiet = false ∧ (∀ r ∈ [0], r < 17) ∧ flipTime s [0] = true ∧ (∀ r ∈ changedRegions s, r ∈ [0]) ∧ detourOk s = false ∧
      (∃ r ∈ changedRegions s, r ∉ [1]) ∧ (∀ r ∈ changedRegions s, r < 17) ∧ flipTime { s with regions := [(0, reg)] } [0] = false := by decide
theorem wit_RouteFlip_absent : let s : State := { z with absent := [5] }
    verState s (otherVer s) = .writable ∧ 5 ∈ s.absent ∧ (∀ r ∈ changedRegions s, r ∈ [16]) ∧ flipTime s [16] = true ∧ detourOk s = true := by decide
theorem wit_RouteFlip_stopped : rootStopped (updRouter z 623 fun r => { r with rippleFifo := 256 }) = true ∧ rootStopped z = false ∧
    rootStopped { updRouter z 623 fun r => { r with rippleFifo := 200, hold := true } with now := 120 } = true := by decide
theorem wit_RouteFlip_hold : let s := updRouter z 0 fun r => { r with rippleFifo := 63 }
    rootStopped s = false ∧ 64 ≤ (routerOf s 0).rippleFifo - (s.now - (routerOf s 0).fifoAt) + 1 ∧ (routerOf z 0).rippleFifo - (z.now - 0) + 1 ≤ 32 ∧
      ({ z with flc := { z.flc with classify := 0 } } : State).flc.classify = 0 := by decide
theorem wit_RouteFlip_rippleFlip : let d : Ripple := ⟨0, 16, 0, 0, 0, false, 0, []⟩
    let s : State := { z with routers := [(0, { routerReset with region := 0, table1 := [(100, re 0)] })] }
    rootStopped z = false ∧ detourOk (rippleTake z d []).2 = true ∧ rootStopped s = false ∧ detourOk (rippleTake s d []).2 = false ∧
      ∀ r ∈ changedRegions (rippleTake s d []).2, r < 17 := by decide +kernel
theorem wit_PortBytes_flit : let f : Flit := ⟨7, 3, 1, 4095, true, 4095, 255, 255, 15, zeros 244⟩
    f.ftype < 8 ∧ f.vc < 4 ∧ f.flane < 2 ∧ f.seq < 4096 ∧ f.ackSeq < 4096 ∧ f.firstOff < 256 ∧ f.xoff < 256 ∧ f.version < 16 ∧ f.payload.length = 244 := by decide +kernel
theorem wit_PortBytes_arrival : pk.port = 0 ∧ pk.got = 0 := by decide
theorem wit_RouteFlip_waits : let s : State := { z with fab := { z.fab with rippleWait := [(.tableWrite, ⟨0, 16, 0, 1, 0, false, 0, []⟩, [])] } }
    (∃ x ∈ s.fab.rippleWait, x.1 = .tableWrite) ∧ s.fab.rippleWait ≠ [] ∧ z.fab.rippleWait = [] := by decide
/-- A port in a state, with the given packets to send, one cycle before a flit time. -/
def sendPort (st : Nat) (q : List FabPacket) : State :=
  { z with now := 61, fab := { z.fab with ports := [(5, { portOf z 5 with state := st, rate := 4, txq := q })] } }
theorem wit_IdleStep_ports : let g : FabPacket := ⟨2, 9, 0, 0, 0, 0, 12, 0, 0, pk, 60, 60⟩
    let s : State := { sendPort psActive [g] with now := 62 }
    (s.fab.ports.map (·.1)).Nodup ∧ s.pending = [] ∧ (portOf s 5).state = psActive ∧ flitNo (portOf s 5).rate (s.now + 1) = flitNo (portOf s 5).rate s.now ∧
      (portOf (sendPort psActive []) 5).txq = [] ∧ flitNo 4 (61 + 1) ≠ flitNo 4 61 := by decide
theorem wit_IdleStep_sends : let g : FabPacket := ⟨2, 9, 0, 0, 0, 0, 12, 0, 0, pk, 60, 60⟩
    let s : State := { sendPort psActive [g] with now := 66 }
    let age := fageNow { s with now := s.now + 1 } g
    flitNo (portOf s 5).rate (s.now + 1) ≠ flitNo (portOf s 5).rate s.now ∧ streamOf g.pkt.vc g.flane < 8 ∧
      bitOf (portOf s 5).txXoff (streamOf g.pkt.vc g.flane) = false ∧ sget (0, 0) (portOf s 5).txHead (streamOf g.pkt.vc g.flane) = (0, 0) ∧
      age ≤ 1000 ∧ (portOf s 5).held.length + ceilDiv (fabBytes (portOf s 5).v1 { g with fage := age }).length 244 ≤ 1024 := by decide
theorem wit_IdleStep_trains : let s : State := { sendPort psIdle [] with now := 61 }
    let q : State := { sendPort psQualify [] with now := 66 }
    (portOf s 5).state ∈ [psIdle, psDetect] ∧ flitNo 0 (s.now + 1) ≠ flitNo 0 s.now ∧ flitNo 0 (60 + 1) = flitNo 0 60 ∧
      (portOf q 5).state = psQualify ∧ flitNo (portOf q 5).rate (q.now + 1) ≠ flitNo (portOf q 5).rate q.now := by decide
theorem wit_IdleStep_offPorts : let s := sendPort psFailed []
    ∀ e ∈ s.fab.ports, e.2.state ∈ [psOff, psEqualise, psAlign, psFailed] := by decide
theorem wit_IdleStep_ripple : let s : State := { z with fab := { z.fab with rippleWait := [(.operand, ⟨0, 16, 0, 1, 0, false, 0, []⟩, [])] } }
    (∀ e ∈ s.routers, e.2.rippleFifo = 0 ∧ e.2.hold = false) ∧ s.pending = [] := by decide
theorem wit_MeshRows_spine : let p := { pk with dstKind := 0, dst := 5 }
    ((routerOf (laneState 0 0 p) 0).outbox = []) ∧ p.dst ≠ 0 := by decide

theorem wit_PacketRows_closed : let p := { pk with typ := tWrite }
    let s := rxState (fun t => { t with closedXfers := [(pktKey p, 0)] }) p
    (∃ u, Takes s 0 (fun p => p.typ == tWrite) (p) u) ∧ stepVerdict s (tileRegion (tileOf s 0)) p = .ok ∧
      closedOf (tileOf s 0) (pktKey p) = some 0 := ⟨takes (by decide), by decide⟩
theorem wit_PacketRows_bad : let p := { pk with typ := tReadData, payload := [1], len := 1, dstAddr := 0x3FFFFFF + 1 }
    let s := rxState id p
    (∃ u, Takes s 0 (fun p => p.typ == tReadData) (p) u) ∧ stepVerdict s (tileRegion (tileOf s 0)) p = .ok ∧
      closedOf (tileOf s 0) (pktKey p) = none ∧ rxOf (tileOf s 0) (pktKey p) = none ∧ landBad (tileOf s 0) p = true ∧ p.typ ≠ tMsg :=
  ⟨takes (by decide), by decide⟩
theorem wit_PacketRows_whole : let p := { pk with typ := tWrite, last := true, payload := [1, 2], len := 2, dstAddr := 0x37FFFFE }
    let s := rxState id p
    (∃ u, Takes s 0 (fun p => p.typ == tWrite) (p) u) ∧ FreshWhole s 0 p ∧ spadWf (tileOf s 0).spad = true :=
  ⟨takes (by decide), by unfold FreshWhole; decide⟩
theorem wit_PacketRows_refused : let p := { pk with typ := tMsg, last := true }
    let s := rxState id p
    (∃ u, Takes s 0 (fun p => p.typ == tMsg && (expertRecOf (tileOf s 0) p).isNone) (p) u) ∧ FreshWhole s 0 p ∧
      handlerRefusal (tileOf s 0) 0 p.chan = some 0x03 := ⟨takes (by decide), by unfold FreshWhole; decide⟩
theorem wit_PacketRows_taken : let p := { pk with typ := tMsg, last := true }
    let s := rxState (fun t => { t with qcfg := [(1, ⟨2, 0, 0x1000, true, 0, 0, 0, 0⟩), (2, ⟨0, 0, 0x2000, true, 0, 0, 0, 0⟩)]
                                        handlers := [(0, ⟨true, 31, 1, 2, 1, 0x3000, 1, 0⟩)] }) p
    (∃ u, Takes s 0 (fun p => p.typ == tMsg && (expertRecOf (tileOf s 0) p).isNone) (p) u) ∧ FreshWhole s 0 p ∧
      handlerRefusal (tileOf s 0) 0 p.chan = none ∧ p.srcDev = s.idn.deviceId ∧ (2 : Nat) ≠ 1 :=
  ⟨takes (by decide), by unfold FreshWhole; decide⟩
theorem wit_PacketRows_sync : let p := { pk with typ := tSync }
    let s := rxState id p
    (∃ u, Takes s 0 (fun p => p.typ == tSync) (p) u) ∧ 16 ≤ p.region ∧ fld p.transport.toNat 254 2 = 0 :=
  ⟨takes (by decide), by decide⟩
theorem wit_PacketRows_syncReset : let p := { pk with typ := tSync, transport := BitVec.ofNat 256 (2 ^ 254) }
    let s : State := { rxState id p with now := 1 }
    (∃ u, Takes s 0 (fun p => p.typ == tSync) (p) u) ∧ fld p.transport.toNat 254 2 = 1 ∧
      (objOf (tileOf s 0) 0).chg ≠ s.now := ⟨takes (by decide), by decide⟩
theorem wit_PacketRows_firmware : let p := { pk with typ := tSync, region := 0 }
    let s := rxState (fun t => { t with objCfg := [(0, ⟨true, 0⟩)] }) p
    (∃ u, Takes s 0 (fun p => p.typ == tSync) (p) u) ∧ p.region < 16 ∧
      (objCfgOf (tileOf s 0) 0).firmware = true := ⟨takes (by decide), by decide⟩
theorem wit_PacketRows_none : (routerOf z (posOf z 575)).inbox = [] := by decide

/-- A transfer to the tile itself, of one packet. -/
def xf : Xfer :=
  { fid := 0, part := 0, kind := .put, typ := tWrite, chan := 0, dstKind := 0, dst := 0, fabric := false, destDev := 0, destLt := 0
    transport := 0, inl := [], pieces := [(0, 0, 1)], retryMax := 1, retryGap := 1, retries := 0, after := 0 }
/-- A tile with that transfer open in flow 0. -/
def flowTile (x : Xfer) (l : List PktState) (t : Tile) : Tile := { t with flows := [(0, ⟨0, 0, x, l, false, none, [], 0, false⟩)] }
/-- An ansPacket to packet 0 of it. -/
def ansPacket (typ reason : Nat) : Packet := { pk with typ := typ, transport := BitVec.ofNat 256 (reason * 2 ^ 212) }
theorem wit_SenderRows_ack : let s := rxState (flowTile xf [.sent 0]) (ansPacket tAck 0)
    (∃ u, Takes s 0 (fun p => p.typ == tAck) (ansPacket tAck 0) u) ∧ (∃ e, (tileOf s 0).flows.find? (fun e => names e.2 (ansPacket tAck 0)) = some e ∧
      ansSeq (ansPacket tAck 0) < e.2.pkts.length ∧
      mcMembers e.2.x = [] ∧ allAcked (markPkt e.2 0 .acked) = true ∧ endsByAck e.2.x = true ∧ (tileOf s 0).waiting = [] ∧ e.2.dead = false) :=
  ⟨takes (by decide), _, rfl, by decide⟩
theorem wit_SenderRows_open : let s := rxState (flowTile xf [.sent 0, .sent 0]) (ansPacket tAck 0)
    (∃ u, Takes s 0 (fun p => p.typ == tAck) (ansPacket tAck 0) u) ∧ (∃ e, (tileOf s 0).flows.find? (fun e => names e.2 (ansPacket tAck 0)) = some e ∧
      allAcked (markPkt e.2 0 .acked) = false) :=
  ⟨takes (by decide), _, rfl, by decide⟩
theorem wit_SenderRows_nackRb : let s := rxState (flowTile xf [.sent 0]) (ansPacket tNack 1)
    (∃ u, Takes s 0 (fun p => p.typ == tNack) (ansPacket tNack 1) u) ∧ (∃ e, (tileOf s 0).flows.find? (fun e => names e.2 (ansPacket tNack 1)) = some e ∧
      ansReason (ansPacket tNack 1) = 0x01 ∧
      ansSeq (ansPacket tNack 1) < e.2.pkts.length ∧ e.2.dead = false ∧ mcMembers e.2.x = []) := ⟨takes (by decide), _, rfl, by decide⟩
theorem wit_SenderRows_retry : let s := rxState (flowTile { xf with typ := tMsg } [.sent 0]) (ansPacket tNack 5)
    (∃ u, Takes s 0 (fun p => p.typ == tNack) (ansPacket tNack 5) u) ∧ (∃ e, (tileOf s 0).flows.find? (fun e => names e.2 (ansPacket tNack 5)) = some e ∧
      ansReason (ansPacket tNack 5) = 0x05 ∧
      isDma e.2.x = false ∧ mcMembers e.2.x = [] ∧ e.2.x.retries < e.2.x.retryMax) := ⟨takes (by decide), _, rfl, by decide⟩
theorem wit_SenderRows_fail : let s := rxState (flowTile { xf with typ := tMsg, retries := 1 } [.sent 0]) (ansPacket tNack 5)
    (∃ u, Takes s 0 (fun p => p.typ == tNack) (ansPacket tNack 5) u) ∧ (∃ e, (tileOf s 0).flows.find? (fun e => names e.2 (ansPacket tNack 5)) = some e ∧
      isDma e.2.x = false ∧ e.2.x.retryMax ≤ e.2.x.retries ∧
      (tileOf s 0).waiting = []) := ⟨takes (by decide), _, rfl, by decide⟩
theorem wit_SenderRows_xoff : let s := rxState (flowTile xf [.sent 0]) (ansPacket tXoff 0)
    let s2 := rxState (flowTile xf [.sent 0]) (ansPacket tXon 0)
    (∃ u, Takes s 0 (fun p => p.typ == tXoff) (ansPacket tXoff 0) u) ∧
      ∃ u, Takes s2 0 (fun p => p.typ == tXon) (ansPacket tXon 0) u := ⟨takes (by decide), takes (by decide)⟩
theorem wit_SenderRows_stray : let s := rxState id (ansPacket tAck 0)
    (∃ u, Takes s 0 (fun p => p.typ == tAck) (ansPacket tAck 0) u) ∧
      (∀ e ∈ (tileOf s 0).flows, names e.2 (ansPacket tAck 0) = false) ∧ (tileOf s 0).returns = [] := ⟨takes (by decide), by decide⟩
theorem wit_SenderRows_due : let s : State := { tileState (flowTile xf [.retryAt 7]) with now := 7 }
    ∃ e, (tileOf s 0).flows.find? (fun e => e.1 == 0) = some e ∧ e.2.pkts.getD 0 .acked = .retryAt 7 ∧ 7 ≤ s.now ∧ e.2.retryAt = none ∧
      staleWork (tileOf s 0) e.2.x = false :=
  ⟨_, rfl, by decide⟩
theorem wit_SenderRows_message : let s : State := { tileState (fun t => { t with flows := [(0, ⟨0, 0, xf, [.sent 0], false, some 7, [], 0, false⟩)] }) with now := 7 }
    ∃ e, (tileOf s 0).flows.find? (fun e => e.1 == 0) = some e ∧ e.2.retryAt = some 7 ∧ 7 ≤ s.now ∧ e.2.x.after = 0 := ⟨_, rfl, by decide⟩
theorem wit_SenderRows_timeout : let s : State := { tileState (flowTile xf [.sent 0]) with now := 40000 }
    ∃ e, (tileOf s 0).flows.find? (fun e => e.1 == 0) = some e ∧ e.2.pkts.getD 0 .acked = .sent 0 ∧ 0 + timeoutCycles e.2.x ≤ s.now ∧ e.2.retryAt = none ∧ e.2.xoff = false ∧ staleWork (tileOf s 0) e.2.x = false :=
  ⟨_, rfl, by decide⟩
/-- An engine with an open transfer. -/
def engState (l : List PktState) (r : Option Nat) : State := updEngine z 3 fun e => { e with flows := [⟨0, 0, xf, l, false, r, [], 0, false⟩] }
theorem wit_SenderRows_engine : engPkt (engState [.retryAt 0] none) 3 0 0 = .retryAt 0 ∧
    engPkt (engState [.sent 0] none) 3 0 0 = .sent 0 ∧
    ((engineOf (engState [.sent 0] (some 0)) 3).flows[0]?).map (·.retryAt) = some (some 0) := by decide
theorem wit_PacketRows_stale : let s := { rxState (fun t => { t with region := 0 }) { pk with typ := tMsg, region := 0 } with regions := [(0, { reg with step := 5, attempt := 0 })] }
    (∃ u, Takes s 0 (fun p => p.typ == tMsg && (expertRecOf (tileOf s 0) p).isNone) ({ pk with typ := tMsg, region := 0 }) u) ∧
      stepVerdict s (tileRegion (tileOf s 0)) { pk with typ := tMsg, region := 0 } = .stale := ⟨takes (by decide), by decide⟩
theorem wit_PacketRows_early : let s := { rxState (fun t => { t with region := 0 }) { pk with typ := tMsg, region := 0 } with regions := [(0, { reg with step := 65535, attempt := 0 })] }
    (∃ u, Takes s 0 (fun p => p.typ == tMsg && (expertRecOf (tileOf s 0) p).isNone) ({ pk with typ := tMsg, region := 0 }) u) ∧
      stepVerdict s (tileRegion (tileOf s 0)) { pk with typ := tMsg, region := 0 } = .early false := ⟨takes (by decide), by decide⟩
theorem wit_PacketRows_higher : let p : Packet := { pk with typ := tMsg, region := 0, transport := BitVec.ofNat 256 (15 * 2 ^ 201) }
    let s := { rxState (fun t => { t with region := 0 }) p with regions := [(0, reg)] }
    (∃ u, Takes s 0 (fun p => p.typ == tMsg && (expertRecOf (tileOf s 0) p).isNone) (p) u) ∧
      stepVerdict s (tileRegion (tileOf s 0)) p = .early true ∧ atBoundary reg = false := ⟨takes (by decide), by decide⟩
theorem wit_SenderRows_dma : let s := rxState (flowTile xf [.sent 0]) (ansPacket tNack 6)
    (∃ u, Takes s 0 (fun p => p.typ == tNack) (ansPacket tNack 6) u) ∧ (∃ e, (tileOf s 0).flows.find? (fun e => names e.2 (ansPacket tNack 6)) = some e ∧
      isDma e.2.x = true ∧ e.2.dead = false ∧ ansReason (ansPacket tNack 6) = 0x06 ∧ ansSeq (ansPacket tNack 6) < e.2.pkts.length) :=
  ⟨takes (by decide), _, rfl, by decide⟩
theorem wit_SenderRows_age : ((tileOf z 575).rx.map (·.key)).Nodup := by decide
theorem wit_SenderRows_drop : let s := rxState (flowTile { xf with typ := tMsg } [.sent 0, .sent 0]) (ansPacket tNack 8)
    (∃ u, Takes s 0 (fun p => p.typ == tNack) (ansPacket tNack 8) u) ∧ (∃ e, (tileOf s 0).flows.find? (fun e => names e.2 (ansPacket tNack 8)) = some e ∧
      ansReason (ansPacket tNack 8) = 0x08 ∧ isDma e.2.x = false ∧ mcMembers e.2.x = [] ∧ (tileOf s 0).waiting = [] ∧
      allAcked (deadFlow e.2 0 8) = false ∧ allAcked (deadFlow (markPkt e.2 1 .acked) 0 8) = true) := ⟨takes (by decide), _, rfl, by decide⟩
theorem wit_SenderRows_engineFlow : ∃ fl, (engineOf (engState [.sent 0] none) 3).flows[0]? = some fl ∧ fl.retryAt = none ∧ fl.xoff = false ∧
    0 + timeoutCycles fl.x ≤ ({ engState [.sent 0] none with now := 40000 } : State).now := ⟨_, rfl, by decide⟩
theorem wit_SenderRows_engineWaits : ∃ fl, (engineOf (engState [.sent 0] (some 0)) 3).flows[0]? = some fl ∧ fl.retryAt = some 0 := ⟨_, rfl, rfl⟩

/-- A VECTOR op on one row of two elements from 0x2000 to 0x3000, formats as given. -/
def vec (op func fmts : Nat) : Nat :=
  desc 1 op (0x2000 * 2 ^ 128 + 0x2000 * 2 ^ 154 + 0x2000 * 2 ^ 180 + 0x3000 * 2 ^ 206 + fmts * 2 ^ 232 + 2 * 2 ^ 240 + func * 2 ^ 296)
theorem wit_FiringRule_waits : fireReady z 575 63 = none := by decide +kernel
theorem wit_FiringRule_other : let s := descState (dma 0 64 0x3000)
    fireReady s 0 0 = some (plan (dma 0 64 0x3000)) ∧ isOp 2 1 (dma 0 64 0x3000) = false := by decide +kernel
theorem wit_FiringRule_fails : firesWith (.copy 0 0) (descState (dma 0 64 0x3FFFFFF)) (dma 0 64 0x3FFFFFF) stAddrRange := by
  refine ⟨_, rfl, ?_, ?_⟩
  · unfold Fires
    decide +kernel
  · decide +kernel
theorem wit_DmaRows_copy : firesWith (.copy 0 0) (descState (dma 0 64 0x3FFFFC0)) (dma 0 64 0x3FFFFC0) stOk ∧ mRows (dma 0 64 0x3FFFFC0) = 1 := by
  refine ⟨⟨_, rfl, ?_, ?_⟩, ?_⟩
  · unfold Fires
    decide +kernel
  · decide +kernel
  · decide +kernel
theorem wit_DmaRows_storeLoad : firesWith (.storeLoad 0 0) (descState (dma 7 64 0)) (dma 7 64 0) stOk := by
  refine ⟨_, rfl, ?_, ?_⟩
  · unfold Fires
    decide +kernel
  · decide +kernel
theorem wit_DmaRows_basinRead : firesWith (.basinRead 0 0 [] []) (descState (dma 3 64 0)) (dma 3 64 0) stOk ∧
    poisonIn (descState (dma 3 64 0)) 0 64 = [] := by
  refine ⟨⟨_, rfl, ?_, ?_⟩, ?_⟩
  · unfold Fires
    decide +kernel
  · decide +kernel
  · decide +kernel
theorem wit_DmaRows_basinWrite : firesWith (.basinWrite 0 0) (descState (dma 4 64 0)) (dma 4 64 0) stOk := by
  refine ⟨_, rfl, ?_, ?_⟩
  · unfold Fires
    decide +kernel
  · decide +kernel
/-- A CONTROL op on one line at 0x4000. -/
def ctl (op : Nat) : Nat := desc 6 op (0x4000 * 2 ^ 162 + 1 * 2 ^ 188)
theorem wit_DmaRows_clear : firesWith (.clearValid 0 0) (descState (ctl 5)) (ctl 5) stOk ∧ firesWith (.zeroize 0 0) (descState (ctl 6)) (ctl 6) stOk := by
  refine ⟨⟨_, rfl, ?_, ?_⟩, ⟨_, rfl, ?_, ?_⟩⟩
  · unfold Fires
    decide +kernel
  · decide +kernel
  · unfold Fires
    decide +kernel
  · decide +kernel
theorem wit_DescriptorFrame (k : Nat) : spadWf (tileOf (descState (dma 0 64 0x3000)) k).spad = true := wf_all _ (by decide) k
theorem wit_DescriptorFrame_ranges : let s := descState (dma 0 64 0x3000)
    let x : DescRow := ⟨0, 0, isOp 2 0, copyChecks, actCopy⟩
    destRngs (.copy 0 0) (atFiring s x (plan (dma 0 64 0x3000))).1 (atFiring s x (plan (dma 0 64 0x3000))).2 = some [(0x3000, 64)] := by decide +kernel
/-- Each VECTOR op of the statement fires. -/
theorem wit_VectorRows_elementwise : firesWith (.elementwise 0 0) (descState (vec 0 0 0x88)) (vec 0 0 0x88) stOk := by
  refine ⟨_, rfl, ?_, ?_⟩
  · unfold Fires
    decide +kernel
  · decide +kernel
theorem wit_VectorRows_reduce : firesWith (.reduce 0 0) (descState (vec 1 0 0x88)) (vec 1 0 0x88) stOk := by
  refine ⟨_, rfl, ?_, ?_⟩
  · unfold Fires
    decide +kernel
  · decide +kernel
theorem wit_VectorRows_norm : firesWith (.norm 0 0) (descState (vec 2 1 0x88)) (vec 2 1 0x88) stOk := by
  refine ⟨_, rfl, ?_, ?_⟩
  · unfold Fires
    decide +kernel
  · decide +kernel
theorem wit_VectorRows_activate : firesWith (.activate 0 0) (descState (vec 5 0 0x88)) (vec 5 0 0x88) stOk := by
  refine ⟨_, rfl, ?_, ?_⟩
  · unfold Fires
    decide +kernel
  · decide +kernel
theorem wit_VectorRows_convert : firesWith (.convert 0 0) (descState (vec 7 0 0x88)) (vec 7 0 0x88) stOk := by
  refine ⟨_, rfl, ?_, ?_⟩
  · unfold Fires
    decide +kernel
  · decide +kernel
/-- A stream queue whose stream is one descriptor. -/
def streamState (d len : Nat) : State := tileState fun t =>
  { t with qcfg := [(0, ⟨1, 0, 0x1000, false, 0, 0x5000, len, 0⟩)], spad := spadWrite t.spad 0x5000 (leBytes d 64) }
theorem wit_QueueRows_fetch : fetchReady (streamState (desc 6 1 0) 1) 0 0 = true ∧ fetchReady (streamState (desc 6 2 0) 0) 0 0 = true ∧
    fetchReady z 0 0 = false ∧ (queueOf (tileOf (streamState (desc 6 2 0) 1) 0) 0).fetchIdx < 1 := by decide +kernel
theorem wit_QueueRows_stale : let d := desc 6 0 0 + 2 ^ 53
    headDesc (tileOf (descState d) 0) 0 = some (0, 0, d) ∧ dInstance d ≠ tagOf (tileOf (descState d) 0) ∧
      dInstance (desc 6 0 0) = tagOf (tileOf (descState (desc 6 0 0)) 0) := by decide +kernel
theorem wit_QueueRows_arrive : firesWith (.arrive 0 0) (descState (desc 4 0 0)) (desc 4 0 0) stOk ∧ syncRemote (desc 4 0 0) = false := by
  refine ⟨⟨_, rfl, ?_, ?_⟩, ?_⟩
  · unfold Fires
    decide +kernel
  · decide +kernel
  · decide +kernel
theorem wit_QueueRows_reset : let s : State := { descState (desc 4 2 0) with now := 1 }
    firesWith (.reset 0 0) s (desc 4 2 0) stOk ∧ (objOf (tileOf s 0) 0).chg ≠ s.now := by
  refine ⟨⟨_, rfl, ?_, ?_⟩, ?_⟩
  · unfold Fires
    decide +kernel
  · decide +kernel
  · decide +kernel
/-- A fired END. -/
def firedEnd : Fired :=
  { fid := 0, q := 63, idx := 7, desc := desc 6 1 (2 ^ 86), status := stOk, detail := 0, outAddr := 0, bytes := 0, arith := 0, parts := 1
    partFail := [], openParts := [], ins := [], out := none, comp := none, noArrive := false, closing := false, stage := 0, firedAt := 0 }
theorem wit_QueueRows_retire : finishedDesc (tileOf (tileState fun t => { t with fired := [firedEnd] }) 0) 63 7 = some firedEnd ∧
    dClass firedEnd.desc = 6 ∧ dOp firedEnd.desc = 1 ∧ dArriveEn firedEnd.desc = true ∧ dArriveRemote firedEnd.desc = false ∧
    finishedDesc (tileOf z 0) 63 7 = none := by decide +kernel
theorem wit_DmaRows_storeLoadNone : firesWith (.storeLoad 0 0) (descState (dma 7 0 0)) (dma 7 0 0) stOk ∧ mRows (dma 7 0 0) = 1 ∧ mLen (dma 7 0 0) = 0 := by
  refine ⟨⟨_, rfl, ?_, ?_⟩, ?_⟩
  · unfold Fires
    decide +kernel
  · decide +kernel
  · decide +kernel
theorem wit_QueueRows_staleRetire : let t := tileOf (tileState fun t => { t with gen := 1, fired := [firedEnd] }) 0
    finishedDesc t 63 7 = some firedEnd ∧ staleTag t firedEnd = true ∧ staleTag (tileOf (tileState fun t => { t with fired := [firedEnd] }) 0) firedEnd = false := by decide +kernel
theorem wit_Read_elementwise : let s := tileState fun t => descTile (vec 0 0 0x88) { t with spad := spadWrite t.spad 0x2000 (List.replicate 64 1) }
    readErrors s 0 0 ewRow [(128, .ce 5), (129, .ue)] = some (⟨3, some (0, 0)⟩, [(128, .ce 5)]) ∧
      readErrors s 0 0 ewRow [(128, .ue)] = some (⟨3, some (0, 0)⟩, [(128, .ue)]) := by decide +kernel
/-- A SCAN_OUT of the tile's own rings. -/
def scan : Nat := desc 3 0 (2 ^ 166)
theorem wit_Read_scan : let s := descState scan
    fireReady s 0 0 = some (plan scan) ∧ isOp 3 0 scan = true ∧ granted s 0 0 (plan scan) = true ∧
      fireStatus s ⟨0, 0, isOp 3 0, scanChecks, actScanOut⟩ (plan scan) = stOk ∧ bitOf (scScope scan) 0 = true ∧ scLt scan = 0 ∧
      (eccChecked (tileOf s 0) [(64, .ue), (65, .ue)]).filter (fun f => (ringsOf (tileOf s 0)).any fun x => meets (64 * f.1, 64) (x.1, 64)) = [(64, .ue)] ∧
      controlWord (tileOf s 0) 64 = false := by decide +kernel
theorem wit_QueueRows_record : let f : Fired := { firedEnd with status := stAddrRange }
    let s := tileState fun t => { t with fired := [f] }
    let h : Fired := { f with desc := desc 6 1 0 - 31 * 2 ^ 48 }
    let r := { tileState (fun t => { t with fired := [h], region := 0 }) with regions := [(0, reg)] }
    finishedDesc (tileOf s 0) 63 7 = some f ∧ staleTag (tileOf s 0) f = false ∧ f.status ≠ stOk ∧ regionOf s (tileOf s 0).region = none ∧
      finishedDesc (tileOf r 0) 63 7 = some h ∧ staleTag (tileOf r 0) h = false ∧ regionOf r (tileOf r 0).region = some reg := by decide +kernel

theorem wit_StepRows_start : let s := readyState fun g => { g with mstate := .idle, image := some img }
    let g := { reg with mstate := .idle, image := some img }
    regionOf s 0 = some g ∧ g.boundary = [] ∧ lostRanks s 0 g = [] ∧ mayStart s 0 g = true ∧ freeToStart s 0 = true ∧ shadowMay s 0 g = true := by
  decide +kernel
theorem wit_StepRows_held : let s := regState fun g => { g with mstate := .idle }
    regionOf s 0 = some { reg with mstate := .idle } ∧ lostRanks s 0 { reg with mstate := .idle } = [] ∧ freeToStart s 0 = false := by decide +kernel
theorem wit_StepRows_drained : let s := regState id
    regionOf s 0 = some reg ∧ reg.mstate = .running ∧ allTiles s reg tileStill = true ∧ enginesStill s 0 = true ∧ strandedQueues s reg = [] ∧ reg.failed = false := by
  decide +kernel
/-- Tile 0 with an entry in a data queue. -/
def stranded (t : Tile) : Tile := { t with qcfg := [(0, ⟨0, 0, 0x1000, true, 0, 0, 0, 0⟩)], queues := [(0, { queueReset with slots := [⟨0, true, none, 0⟩] })] }
theorem wit_StepRows_stranded : let s := updTile (regState id) 0 stranded
    regionOf s 0 = some reg ∧ allTiles s reg tileStill = true ∧ enginesStill s 0 = true ∧ strandedQueues s reg ≠ [] := by decide +kernel
theorem wit_StepRows_local : let g := { reg with mstate := .drained }
    let h := { reg with mstate := .drained, members := 2 }
    localOk (regState fun _ => g) 0 g = true ∧ isShadow (regState fun _ => g) 0 = false ∧ missingReady g = [] ∧
      localOk (regState fun _ => h) 0 h = true ∧ isShadow (regState fun _ => h) 0 = false ∧ missingReady h ≠ [] ∧ 1 < h.members := by decide +kernel
theorem wit_StepRows_localFailed : let g := { reg with mstate := .drained, failed := true }
    regionOf (regState fun _ => g) 0 = some g ∧ g.failed = true := by decide +kernel
theorem wit_StepRows_timer : let s : State := { regState fun g => { g with mstate := .readySent } with now := 50000 * cyclesPerUs }
    let g := { reg with mstate := .readySent }
    regionOf s 0 = some g ∧ g.stepStart + g.timeoutUs * cyclesPerUs ≤ s.now ∧ isShadow s 0 = false := by decide +kernel
theorem wit_StepRows_early : let s : State := { regState id with now := 50000 * cyclesPerUs - 1 }
    s.now < reg.stepStart + reg.timeoutUs * cyclesPerUs := by decide +kernel
theorem wit_StepRows_query : let g := { reg with mstate := .inDoubt, queryAt := some 0, members := 2 }
    let s : State := { regState fun _ => g with now := cyclesPerMs }
    regionOf s 0 = some g ∧ g.queryAt = some 0 ∧ 0 + cyclesPerMs ≤ s.now := by decide +kernel
theorem wit_StepRows_lateQuery : let g := { reg with mstate := .committed, queryAt := some 0, members := 3, answers := [(1, .committed)] }
    regionOf (regState fun _ => g) 0 = some g ∧ g.queryAt = some 0 ∧ g.mstate ≠ .inDoubt ∧ 2 < g.members ∧ 2 ≠ g.rank ∧ 2 ∉ g.removed ∧
      ∀ x ∈ g.answers, x.1 ≠ 2 := by decide +kernel
theorem wit_StepRows_resume : let g := { reg with mstate := .committed, held := true, ctxIds := [3] }
    let s : State := { regState fun _ => g with ctxs := [(3, { ctxReset with undelivered := 8191 })] }
    regionOf s 0 = some g ∧ atBoundary g = true ∧ maxUndelivered s g < 8192 := by decide +kernel

/-- A member of a group of two, and the message of the other member. -/
def memb (m : MState) (g : Region) : Region := { g with groupId := 7, members := 2, mstate := m, step := 4, attempt := 1 }
def sm (step attempt : Nat) : StepMsg := ⟨7, step, attempt, 1⟩
theorem wit_StepMessages_ready : let s := regState (memb .readySent)
    let g := memb .readySent reg
    let m := sm 4 1
    0 ∈ groupRegions s m ∧ regionOf s 0 = some g ∧ m.step = g.step ∧ m.attempt = g.attempt ∧ isShadow s 0 = false ∧
      missingReady { g with readyFrom := (m.rank, m.step, m.attempt) :: g.readyFrom } = [] := by decide +kernel
theorem wit_StepMessages_higher : let s := regState (memb .running)
    let g := memb .running reg
    0 ∈ groupRegions s (sm 4 2) ∧ regionOf s 0 = some g ∧ openStep g = true ∧ (sm 4 2).step = g.step ∧ g.attempt < (sm 4 2).attempt := by
  decide +kernel
theorem wit_StepMessages_fail : let g := memb .drained reg
    openStep g = true ∧ (sm 4 1).step = g.step ∧ g.attempt ≤ (sm 4 1).attempt ∧ 0 ∈ groupRegions (regState (memb .drained)) (sm 4 1) := by
  decide +kernel
theorem wit_StepMessages_other : (sm 5 1).step ≠ (memb .drained reg).step ∧ groupRegions (regState (memb .drained)) (sm 5 1) = [0] := by decide +kernel
theorem wit_StepMessages_query : let s := regState fun g => { memb .running g with lastCommitted := some 3 }
    let g := { memb .running reg with lastCommitted := some 3 }
    isShadow s 0 = false ∧ hasCommitted g 3 = true ∧ hasCommitted g 4 = false ∧ openStep g = true ∧ 0 ∈ groupRegions s (sm 4 0) := by decide +kernel
theorem wit_StepMessages_doubt : let s := regState fun g => { memb .inDoubt g with queryAt := some 0, queryStep := 4 }
    let g := { memb .inDoubt reg with queryAt := some 0, queryStep := 4 }
    0 ∈ groupRegions s (sm 4 1) ∧ g.mstate = .inDoubt ∧ g.queryAt.isSome = true ∧ (sm 4 1).step = g.queryStep ∧ (sm 4 1).step = g.step ∧
      ∀ k, k < g.members → k ≠ g.rank → k ∉ g.removed → k = (sm 4 1).rank ∨ ∃ x ∈ g.answers, x.1 = k := by
  refine ⟨by decide +kernel, rfl, rfl, rfl, rfl, fun k h1 h2 _ => .inl ?_⟩
  have h1 : k < 2 := h1
  have h2 : k ≠ 0 := h2
  show k = 1
  omega

theorem wit_StepMessages_lateAnswer : let g := { memb .committed reg with step := 5, queryAt := some 0, queryStep := 4 }
    groupRegions (regState fun _ => g) (sm 4 1) = [0] ∧ g.queryAt.isSome = true ∧ (sm 4 1).step = g.queryStep ∧ g.mstate ≠ .inDoubt := by decide +kernel

/-- The block of one page, and the states in which it waits with context 3 free, in use, or short of pages. -/
def adm : AdmitBlock :=
  { seqKey := 9, seed := 1, modelKey := 2, maxNew := 1, maxPosition := 128, stopIds := [], temperature := 0, topP := 0x3F800000, topK := 1
    flags := 0, handoffMs := 0, lastToken := 0, promptTokens := 0, prefixKeys := 0, genGroup := 0, cacheGroup := 0, prompt := none }
def admState (b : AdmitBlock) : State := regState (waitReg (.admitSeq b [] []))
def isAdm : BAct → Bool := fun a => match a with | .admitSeq _ _ _ => true | _ => false
theorem wit_SequenceBoundary_due : let s := admState adm
    let g := waitReg (.admitSeq adm [] []) reg
    Due s (settleMembers s 0) 0 9 g ⟨.admitSeq adm [] [], some (0, 1), 0⟩ isAdm := ⟨by decide, rfl, by decide +kernel, by decide +kernel, by decide +kernel⟩
theorem wit_SequenceBoundary_admit : let s := admState adm
    let g := waitReg (.admitSeq adm [] []) reg
    ctxByKey s g adm.seqKey = none ∧ admitRanges g adm = true ∧ g.ctxIds.find? (fun c => (ctxOf s c).state == 0) = some 3 ∧
      ceilDiv adm.maxPosition 128 - (sharedPages s g img adm []).length ≤ (freePages g img 3).length ∧ (listRun s 1).1 = some 0 ∧
      listFree s 0 1 = true := by decide +kernel
theorem wit_SequenceBoundary_noCtx : ∀ c ∈ (waitReg (.admitSeq adm [] []) reg).ctxIds,
    (ctxOf { admState adm with ctxs := [(3, { ctxReset with state := 2 })] } c).state ≠ 0 := by decide +kernel
theorem wit_SequenceBoundary_bad : admitRanges (waitReg .heal reg) { adm with maxNew := 0 } = false ∧
    admitRanges (waitReg .heal reg) { adm with maxPosition := 524289 } = false := by decide +kernel
theorem wit_SequenceBoundary_pages : let b := { adm with maxPosition := 513 }
    (freePages (waitReg .heal reg) img 3).length < ceilDiv b.maxPosition 128 - (sharedPages z (waitReg .heal reg) img b []).length := by decide +kernel
theorem wit_SequenceBoundary_list : let s : State := { admState adm with pageList := [(65536, 1)] }
    (∀ k, (listRun s 65537).1 ≠ some k) ∧ ceilDiv { adm with maxPosition := 128 * 65537 }.maxPosition 128 = 65537 := by
  have h : (listRun { admState adm with pageList := [(65536, 1)] } 65537).1 = none := by decide +kernel
  refine ⟨fun k => ?_, by decide⟩
  rw [h]
  simp
theorem wit_SequenceBoundary_room : 65537 ≤ (freePages (waitReg .heal reg) { img with poolPages := 65537, onePartition := true } 3).length := by
  have e : ∀ n, (freePages (waitReg .heal reg) { img with poolPages := n, onePartition := true } 3).length = n := fun n => by
    rw [show freePages (waitReg .heal reg) { img with poolPages := n, onePartition := true } 3 = (List.range n).filter fun _ => true from rfl,
      List.filter_eq_self.2 (fun _ _ => rfl), List.length_range]
  exact Nat.le_of_eq (e 65537).symm
theorem wit_SequenceBoundary_error : regionOf (regState id) 0 = some reg ∧ (0 : Nat) < 17 := by decide +kernel
/-- A pool page that the admitted prompt shares: context 4 has filled it. -/
def sharing : Region := { reg with role := .prompt, ctxIds := [3, 4], pool := [⟨2, 1, false, 7, 2, true⟩] }
theorem wit_SequenceBoundary_shared : let im := { img with onePartition := true }
    let s : State := { regState fun _ => sharing with ctxs := [(4, { ctxReset with state := 2, position := 128, pageCount := 1 })], pageList := [(0, 2 ^ 31 + 2)] }
    sharedPages s sharing im { adm with promptTokens := 129 } [7] = [2] ∧ ceilDiv adm.maxPosition 128 - 1 ≤ (freePages sharing im 3).length ∧
      (listRun s 1).1 = some 1 := by decide +kernel
theorem wit_SequenceBoundary_release : let s : State := { regState (waitReg (.release 9)) with
      ctxs := [(3, { ctxReset with state := 2, seqKey := 9, pageCount := 1 })], pageList := [(0, 2 ^ 31 + 1)] }
    let g := waitReg (.release 9) reg
    Due s (settleMembers s 0) 0 8 g ⟨.release 9, some (0, 1), 0⟩ (fun a => match a with | .release _ => true | _ => false) ∧
      ctxByKey s g 9 = some 3 ∧ ctxByKey s g 8 = none := ⟨⟨by decide, rfl, by decide +kernel, by decide +kernel, by decide +kernel⟩, by decide +kernel⟩
theorem wit_SequenceBoundary_notDue : NotDue (regState id) (settleMembers (regState id) 0) 0 9 isAdm ∧
    NotDue (regState id) (settleMembers (regState id) 0) 0 8 (fun a => match a with | .release _ => true | _ => false) :=
  ⟨⟨by decide, rfl, fun g h => .inl (by
    have e : regionOf (settleMembers (regState id) 0) 0 = some reg := by decide +kernel
    rw [e] at h; cases h; decide)⟩, ⟨by decide, rfl, fun g h => .inl (by
    have e : regionOf (settleMembers (regState id) 0) 0 = some reg := by decide +kernel
    rw [e] at h; cases h; decide)⟩⟩

theorem wit_StopBoundary_load : let s := regState (waitReg (.load img))
    let g := waitReg (.load img) reg
    Due s (settleMembers s 0) 0 7 g ⟨.load img, some (0, 1), 0⟩ (fun a => match a with | .load _ => true | _ => false) ∧
      placeImage s g img = .inr [(0, 0)] ∧ ∀ c ∈ g.ctxIds, c < 1024 := ⟨⟨by decide, rfl, by decide +kernel, by decide +kernel, by decide +kernel⟩, by decide +kernel⟩
theorem wit_StopBoundary_bad : let s := regState (waitReg (.load img))
    (0 : Nat) < 576 ∧ regionOfLt s 0 = 0 ∧ displacedOf s (waitReg (.load img) reg) img = [] := by decide +kernel
theorem wit_StopBoundary_noTile : let s : State := { regState (waitReg (.load img)) with absent := [0, 1] }
    ∃ x, placeImage s (waitReg (.load img) reg) img = .inl x := ⟨_, rfl⟩
theorem wit_StopBoundary_ctxs : let im := { img with contexts := 1025 }
    let s := regState (waitReg (.load im))
    let g := waitReg (.load im) reg
    placeImage s g im = .inr [(0, 0)] ∧
      ((List.range 1024).filter fun c => g.ctxIds.contains c || !s.regions.any fun e => e.2.ctxIds.contains c).length < im.contexts := by decide +kernel
theorem wit_StopBoundary_ends : ∀ a ∈ [BAct.unload, .stop 0, .destroy], let s := regState (waitReg a)
    let g := waitReg a reg
    regionOf (settleMembers s 0) 0 = some g ∧ g.boundary.find? (fun x => (fun (a : BAct) => match a with | .unload => true | .stop _ => true | .destroy => true | _ => false) x.act) =
      some ⟨a, some (0, 1), 0⟩ ∧ boundaryUpTo g (actRank a) = true ∧ some (0, 1) ≠ g.runReq ∧ (rfOf s 0).shadow = none ∧
      ∀ c ∈ g.ctxIds, (ctxOf s c).state = 0 := by decide +kernel
theorem wit_StopBoundary_inUse : let s : State := { regState (waitReg .unload) with ctxs := [(3, { ctxReset with state := 4 })] }
    ∃ c ∈ (waitReg .unload reg).ctxIds, (ctxOf s c).state ≠ 0 := by decide +kernel
theorem wit_StopBoundary_notDue : NotDue z (settleMembers z 16) 16 7 (fun a => match a with | .load _ => true | _ => false) ∧
    NotDue z (settleMembers z 16) 16 0 (fun a => match a with | .unload => true | .stop _ => true | .destroy => true | _ => false) :=
  ⟨⟨by decide, rfl, fun g h => by cases h⟩, ⟨by decide, rfl, fun g h => by cases h⟩⟩

/-- An image whose one node keeps the first 1,024 bytes of WEIGHT_IMAGE in the scratchpad. -/
def imgRes : Image := { img with nodes := [{ node 0 0 with resident := [⟨0x1000, 1024, 0, false⟩] }] }
def healReg : Region := { waitReg .heal reg with image := some imgRes }
theorem wit_HealBoundary_heal : let s : State := { updTile (regState fun _ => healReg) 0 fun t => { t with spad := spadWrite t.spad 0x1000 (List.replicate 512 1) } with
      poison := [basinTenant / 512, basinTenant / 512 + 3] }
    let k := basinTenant / 512
    Due s (settleMembers s 0) 0 1 healReg ⟨.heal, some (0, 1), 0⟩ (fun a => a == .heal) ∧ k ∈ s.poison ∧
      meets (512 * k, 512) (healReg.basinBase, healReg.basinGib * gib) = true ∧ inRange imgRes.dir.weightImage (512 * k - healReg.basinBase) 512 = true ∧
      (∀ i, i < 512 → (residentByte s healReg imgRes (512 * k + i - healReg.basinBase)).isSome = true) ∧
      inRange imgRes.dir.weightImage (512 * (k + 3) - healReg.basinBase) 512 = false :=
  ⟨⟨by decide, rfl, by decide +kernel, by decide +kernel, by decide +kernel⟩, by decide +kernel, by decide +kernel, by decide +kernel, by decide +kernel, by decide +kernel⟩
theorem wit_HealBoundary_rePlace : let s : State := { regState (waitReg (.rePlace 0)) with absent := [0] }
    let g := waitReg (.rePlace 0) reg
    Due s (settleMembers s 0) 0 3 g ⟨.rePlace 0, some (0, 1), 0⟩ (fun a => a == .rePlace 0) ∧ (g.loadedMap.map (·.1)).Nodup ∧
      placeNodes img (regionTiles s g) ((nodesOf img).filter fun x => sget 0x3FF g.loadedMap x.1 == 0) (g.loadedMap.filter fun e => e.2 != 0) =
        .inr [(0, 1)] := ⟨⟨by decide, rfl, by decide +kernel, by decide +kernel, by decide +kernel⟩, by decide +kernel, by decide +kernel⟩
theorem wit_HealBoundary_noPlace : let s : State := { regState (waitReg (.rePlace 0)) with absent := [0, 1] }
    let g := waitReg (.rePlace 0) reg
    ∃ x, placeNodes img (regionTiles s g) ((nodesOf img).filter fun x => sget 0x3FF g.loadedMap x.1 == 0) (g.loadedMap.filter fun e => e.2 != 0) = .inl x :=
  ⟨_, rfl⟩
theorem wit_HealBoundary_refill : let s : State := { updTile (regState (waitReg (.refill 0))) 0 fun t => { t with heldReset := true } with
      rf := [(0, { regFaultReset with refDigests := [5] })] }
    let g := waitReg (.refill 0) reg
    Due s (settleMembers s 0) 0 4 g ⟨.refill 0, some (0, 1), 0⟩ (fun a => a == .refill 0) ∧ present s 0 = true ∧ (tileOf s 0).fenced = false ∧
      0 ∈ nodeNums g img 0 ∧ img.nodes[0]? = some (node 0 0) ∧ (rfOf s 0).refDigests[0]? = some 5 :=
  ⟨⟨by decide, rfl, by decide +kernel, by decide +kernel, by decide +kernel⟩, by decide +kernel⟩
theorem wit_HealBoundary_fenced : (tileOf (updTile (regState (waitReg (.refill 0))) 0 fun t => { t with fenced := true }) 0).fenced = true := by decide +kernel
theorem wit_HealBoundary_notDue : NotDue z (settleMembers z 16) 16 1 (fun a => a == .heal) ∧ NotDue z (settleMembers z 16) 16 3 (fun a => a == .rePlace 575) ∧
    NotDue z (settleMembers z 16) 16 4 (fun a => a == .refill 575) :=
  ⟨⟨by decide, rfl, fun g h => by cases h⟩, ⟨by decide, rfl, fun g h => by cases h⟩, ⟨by decide, rfl, fun g h => by cases h⟩⟩

/-- A position declared failed. -/
def declState (pos : Nat) (f : Region → Region) : State := { regState f with rep := { z.rep with declared := [pos] } }
theorem wit_Castling_failed : let s := regState id
    (s.rep.castle = none ∧ 0 ∉ s.rep.declared ∧ 0 ∉ s.rep.failed ∧ ltAt s 0 ≠ 0x3FF ∧ regionOf s (regionOfLt s (ltAt s 0)) = some reg ∧ inStep reg = true) ∧
      ltAt s 12 = 0x3FF := by decide +kernel
theorem wit_Castling_again : 623 ∈ (declState 623 id).rep.declared ∧ (623 : Nat) < 624 := by decide +kernel
theorem wit_Castling_shift : let g := { reg with mstate := .idle, repairPause := true }
    let s := declState 11 fun _ => g
    let lt := ltAt s 11
    lt = 11 ∧ s.rep.castle = none ∧ eastDeclared s 11 = false ∧ rowFree s 11 = true ∧ castleMoves s 11 11 = [(11, 11, 12)] ∧
      moveRegions s (castleMoves s 11 11) = [] := by decide +kernel
theorem wit_Castling_owner : let g := { reg with mstate := .idle, repairPause := true }
    let s := declState 0 fun _ => g
    ltAt s 0 = 0 ∧ regionOfLt s 0 = 0 ∧ boundaryUpTo g 2 = true ∧ regionOf s 0 = some g ∧ moveRegions s (castleMoves s 0 0) = [0] := by decide +kernel
theorem wit_Castling_absent : let s : State := { declState 0 fun g => { g with mstate := .idle } with rep := { z.rep with declared := [0, 1] } }
    eastDeclared s 0 = true ∧ ltAt s 0 = 0 ∧ boundaryUpTo { reg with mstate := .idle } 2 = true := by decide +kernel
theorem wit_Castling_waits : let s : State := { declState 0 fun g => { g with mstate := .idle, w := 1 } with
      regions := [(0, { reg with mstate := .idle, w := 1 }), (1, { reg with x0 := 1, w := 1, repairPause := true })] }
    moveRegions s (castleMoves s 0 0) = [0, 1] ∧ eastDeclared s 0 = false ∧ rowFree s 0 = true ∧ regionOf s 1 = some { reg with x0 := 1, w := 1, repairPause := true } ∧
      boundaryUpTo { reg with x0 := 1, w := 1, repairPause := true } 2 = false := by decide +kernel
theorem wit_Castling_notYet : let s := declState 0 id
    regionOf s (regionOfLt s (ltAt s 0)) = some reg ∧ boundaryUpTo reg 2 = false := by decide +kernel
/-- A castling of tile 10's position, tile 11 moving too. -/
def castle : Castle := { failed := 10, lt := 10, moves := [(10, 10, 11), (11, 11, 12)], held := [], done := [], rebuild := [], lost := [] }
def castleState (c : Castle) : State := { z with rep := { z.rep with castle := some c, declared := [10] } }
theorem wit_Castling_copy : movingFrom castle 11 = some 11 ∧ (11 : Nat) ≠ castle.lt ∧ movingFrom castle 12 = none ∧ movingTo castle 12 = some 11 ∧
    (castleState castle).rep.castle = some castle ∧ 11 ∈ ({ castle with rebuild := [11] } : Castle).rebuild := by decide +kernel
theorem wit_Castling_complete : let c := { castle with done := [11] }
    (∀ m ∈ c.moves, m.1 = c.lt ∨ m.1 ∈ c.done) ∧ c.held = [] ∧ (c.moves.map (·.1)).Nodup ∧ (c.moves.map (·.2.2)).Nodup ∧ (∀ m ∈ c.moves, m.2.2 ≠ c.failed) ∧
      (∀ l ∈ c.rebuild ++ c.lost ++ c.spoiled, ∃ m ∈ c.moves, m.1 = l) ∧ (11 ≠ c.lt ∧ 11 ∉ c.rebuild ∧ 11 ∉ c.lost ∧ 11 ∉ c.spoiled) := by decide +kernel
theorem wit_Castling_error : let s := updTile (castleState castle) 11 fun t => { t with spad := spadWrite t.spad 0x1000 (List.replicate 64 1) }
    movingFrom castle 11 = some 11 ∧ eccChecked (tileOf s 11) [(64, .ue), (65, .ue)] = [(64, .ue)] ∧ controlWord (tileOf s 11) 64 = false ∧
      controlWord (tileOf (updTile s 11 fun t => { t with inUse := true }) 11) 64 = true := by decide +kernel
theorem wit_Castling_versions : verState z 0 = .active ∧ verState z 1 = .writable := by decide
theorem wit_Castling_flips : let g := { reg with boundary := [⟨.flip, none, 0⟩] }
    ∃ e ∈ g.boundary, e.act = .flip := ⟨_, List.mem_singleton.2 rfl, rfl⟩
theorem wit_Castling_notReady : ¬ ∀ m ∈ castle.moves, m.1 = castle.lt ∨ m.1 ∈ castle.done := by decide +kernel

/-- A region with context 3 in some state. -/
def ctxState (g : Region) (c : Ctx) : State := { regState fun _ => { g with ctxIds := [3] } with ctxs := [(3, c)] }
def cregion : Region := { reg with ctxIds := [3] }
def waitingCtx : Ctx := { ctxReset with state := 1, seqKey := 9 }
def look : PrefixLookup := { srcDev := 1, srcRegion := 2, seqKey := 9, modelKey := 2, firstKey := 0, keys := [7, 8], promptGroup := 3, genGroup := 4 }
def cpage (k : BitVec 128) (committed : Bool) : CachePage :=
  { prefixKey := k, modelKey := 2, seqKey := 9, pageIndex := 0, headFirst := 0, heads := 1, layers := 1, blocks := [], served := 0, committed, step := 0 }
theorem wit_Handoff_lookup : let g := { reg with role := .cache, cache := [cpage 7 true, cpage 8 false] }
    regionOf (regState fun _ => g) 0 = some g ∧ inStep g = true ∧ look.keys[1]? = some 8 := by decide +kernel
theorem wit_Handoff_noLookup : reg.role ≠ .cache ∧ inStep { reg with mstate := .committed } = false := by decide +kernel
theorem wit_Handoff_reply : let c := { ctxReset with state := 2, seqKey := 9, lookup := .waiting 0, prefixKeys := List.replicate 65 1 }
    let g := { cregion with role := .prompt }
    let s := ctxState g c
    let m : PrefixReply := ⟨9, 0, 64, 0, 0⟩
    regionOf s 0 = some g ∧ ctxByKey s g 9 = some 3 ∧ (ctxOf s 3).lookup = .waiting 0 ∧ m.hit = Nat.min 64 ((ctxOf s 3).prefixKeys.length - m.firstKey) ∧
      m.firstKey + Nat.min 64 ((ctxOf s 3).prefixKeys.length - m.firstKey) < (ctxOf s 3).prefixKeys.length ∧ g.rank = 0 ∧ isShadow s 0 = false ∧
      63 ≠ Nat.min 64 ((ctxOf s 3).prefixKeys.length - m.firstKey) := by decide +kernel
theorem wit_Handoff_generation : let s := ctxState cregion waitingCtx
    cregion.role = .generation ∧ ctxByKey s cregion 9 = some 3 ∧ ctxByKey s cregion 8 = none ∧ (ctxOf s 3).state = 1 := by decide +kernel
theorem wit_Handoff_late : let s := ctxState cregion { waitingCtx with state := 2 }
    ctxByKey s cregion 9 = some 3 ∧ (ctxOf s 3).state ≠ 1 := by decide +kernel
theorem wit_Handoff_timeout : let s : State := { ctxState cregion { waitingCtx with deadline := 5 } with now := 5 }
    3 ∈ cregion.ctxIds ∧ (ctxOf s 3).state = 1 ∧ (ctxOf s 3).deadline ≤ s.now ∧ atBoundary { cregion with mstate := .committed } = true ∧ atBoundary cregion = false ∧
      z.now < (ctxOf s 3).deadline := by decide +kernel
/-- Everything of one page has come. -/
def whole : SeqHandoff := ⟨9, 128, 1, 1, 6⟩
def wholeCtx : Ctx := { waitingCtx with handoff := some whole, pagesIn := [⟨0, 6, 0, 3, 1, 1⟩], covered := [⟨3, 6, 0, 0, 9⟩] }
theorem wit_Handoff_missing : (ctxOf (ctxState cregion waitingCtx) 3).handoff = none := by decide +kernel
theorem wit_Handoff_activate : let g := { cregion with mstate := .committed, image := some img }
    let s := ctxState g wholeCtx
    g.image = some img ∧ atBoundary g = true ∧ (ctxOf s 3).handoff = some whole ∧ (∀ i, i < ceilDiv whole.position 128 →
      ∃ p ∈ (ctxOf s 3).pagesIn, p.page = i ∧ (∀ x, x < img.heads → p.head ≤ x ∧ x < p.head + p.heads ∧ img.layers ≤ p.layers) ∧
        ∃ n ∈ (ctxOf s 3).covered, n.group = p.group ∧ n.step = p.step ∧ n.firstPage ≤ i ∧ i ≤ n.lastPage) := by
  intro g s
  have e : ctxOf s 3 = wholeCtx := by decide +kernel
  rw [e]
  refine ⟨rfl, rfl, rfl, fun i h => ?_⟩
  have h : i < 1 := h
  obtain rfl : i = 0 := by omega
  exact ⟨_, List.mem_singleton.2 rfl, rfl, fun x h => ⟨Nat.zero_le x, by have h : x < 1 := h; show x < 0 + 1; omega, by decide⟩, _, List.mem_singleton.2 rfl, rfl, rfl, by decide, by decide⟩
theorem wit_Handoff_partial : let g := { cregion with image := some { img with heads := 2 } }
    (∀ p ∈ (ctxOf (ctxState g wholeCtx) 3).pagesIn, ¬ (p.head ≤ 1 ∧ 1 < p.head + p.heads)) := by decide +kernel

/-- A page of no blocks: its CRC-64 is that of the empty string. -/
def push : PagePush :=
  { prefixKey := 7, modelKey := 2, seqKey := 9, pageIndex := 0, tokens := 128, headFirst := 0, heads := 1, layers := 1, tail := false, srcDev := 1
    step := 6, crc := crc64 [], blocks := [] }
theorem wit_Pages_crc : crc64 ({ push with crc := crc64 [] + 1 }.blocks.flatMap id) ≠ crc64 [] + 1 ∧ crc64 (push.blocks.flatMap id) = push.crc := by decide +kernel
/-- A page of one whole block, all bytes zero. -/
def block : List Byte := List.replicate blockBytes 0
theorem wit_Pages_place : let g := { cregion with image := some img }
    let s : State := { ctxState g { waitingCtx with pageCount := 1 } with pageList := [(0, 2 ^ 31)] }
    g.role ≠ .cache ∧ regionOf s 0 = some g ∧ g.image = some img ∧ ctxByKey s g 9 = some 3 ∧ (∀ p ∈ (ctxOf s 3).pagesIn, p.page ≠ push.pageIndex) ∧
      poolPageOf s (ctxOf s 3) 0 = some 0 ∧ blockPlace img 0 (0 / 1) (0 % 1) = some ⟨0, 0x4000⟩ ∧ 0 / Nat.max push.heads 1 < img.layers ∧
      block.length = blockBytes ∧ ∀ k, k < 2 → spadWf (tileAtPos s k).spad = true := by decide +kernel
theorem wit_Pages_wf : ∀ k, spadWf (tileAtPos z k).spad = true :=
  fun k => sget_all (fun t : Tile => spadWf t.spad = true) tileReset (by decide) [] (by simp) k
theorem wit_Pages_again : let s := ctxState cregion { waitingCtx with pagesIn := [⟨0, 6, 0, 0, 1, 1⟩] }
    (∃ p ∈ (ctxOf s 3).pagesIn, p.page = push.pageIndex ∧ p.step = push.step ∧ p.head = push.headFirst ∧ p.group = push.group) ∧ poolPageOf s (ctxOf s 3) 0 = none ∧ ctxByKey s cregion 8 = none := by decide +kernel
/-- A cache region whose pool of four pages holds `l`. -/
def cacheReg (l : List CachePage) : Region := { reg with role := .cache, image := some img, cache := l }
theorem wit_Pages_tail : let im := { img with tailMap := [(0, ⟨0, 0x9000⟩)] }
    { push with tail := true, tokens := 5 }.tail = true ∧ ctxRank cregion 3 = 0 ∧ tailPlace im (ctxRank cregion 3) 0 0 = some ⟨0, 0x9000⟩ := by decide +kernel
theorem wit_Pages_cache : let g := cacheReg []
    regionOf (regState fun _ => g) 0 = some g ∧ inStep g = true ∧ g.cache = [] ∧ g.cacheIn = [] ∧ g.image = some img ∧ push.tail = false ∧
      push.tokens = 128 ∧
      ((g.cache.filter (pinned g) ++ g.cacheIn).map fun p => (p.prefixKey, p.modelKey)).eraseDups.length < img.poolPages := by decide +kernel
theorem wit_Pages_idle : inStep { cacheReg [] with mstate := .committed } = false := by decide
theorem wit_Pages_full : let l := [{ cpage 1 true with served := 2 }, { cpage 2 true with served := 1 }, cpage 3 true, cpage 4 true]
    let g := cacheReg l
    let kept := g.cache.filter fun q => !(q.prefixKey == 9 && q.modelKey == 2 && q.headFirst == 0)
    (∀ q ∈ kept, ¬ (q.prefixKey = 9 ∧ q.modelKey = 2)) ∧ img.poolPages ≤ (kept.map fun q => (q.prefixKey, q.modelKey)).eraseDups.length ∧
      ∃ q ∈ kept, pinned g q = false := by decide +kernel
theorem wit_Pages_pinned : let g := { cacheReg [cpage 7 true] with pushes := [(3, push)], image := some { img with poolPages := 1 } }
    let kept := g.cache.filter fun q => !(q.prefixKey == 9 && q.modelKey == 2 && q.headFirst == 0)
    (∀ q ∈ kept, ¬ (q.prefixKey = 9 ∧ q.modelKey = 2)) ∧ 1 ≤ (kept.map fun q => (q.prefixKey, q.modelKey)).eraseDups.length ∧
      (∀ q ∈ kept, pinned g q = true) ∧ 1 ≤ ((g.cache.filter (pinned g) ++ g.cacheIn).map fun p => (p.prefixKey, p.modelKey)).eraseDups.length := by
  decide +kernel
theorem wit_Pages_replaced : let g := cacheReg [cpage 7 true, { cpage 7 true with headFirst := 1 }]
    ∃ q ∈ g.cache.filter fun q => !(q.prefixKey == 7 && q.modelKey == 2 && q.headFirst == 0), q.prefixKey = 7 ∧ q.modelKey = 2 :=
  ⟨{ cpage 7 true with headFirst := 1 }, by decide +kernel⟩
theorem wit_Pages_served : let g := cacheReg [cpage 7 true]
    isShadow (regState fun _ => g) 0 = false ∧ look.keys[0]? = some 7 ∧ (0 : Nat) < 1 ∧ cpage 7 true ∈ g.cache ∧ (cpage 7 true).prefixKey = 7 ∧
      (cpage 7 true).modelKey = look.modelKey ∧ (cpage 7 true).committed = true := by decide +kernel
theorem wit_Pages_twice : let g := { cacheReg [] with cacheIn := [{ cpage 7 false with step := 6 }] }
    ∃ p, (p ∈ g.cache ∨ p ∈ g.cacheIn) ∧ p.seqKey = push.seqKey ∧ p.pageIndex = push.pageIndex ∧ p.step = push.step ∧ p.headFirst = push.headFirst :=
  ⟨{ cpage 7 false with step := 6 }, by decide +kernel⟩
theorem wit_Pages_commit : let g := { cacheReg [] with mstate := .drained, cacheIn := [{ cpage 7 false with step := 6 }] }
    let s := regState fun _ => g
    regionOf s 0 = some g ∧ g.role = .cache ∧ g.mstate = .drained ∧ localOk s 0 g = true ∧ isShadow s 0 = false ∧ missingReady g = [] := by decide +kernel
theorem wit_Pages_ack : let l : List (Nat × PagePush) := [(3, { push with seqKey := 8 })]
    let g := { reg with pushes := l ++ (3, push) :: [] }
    regionOf (regState fun _ => g) 0 = some g ∧ (∀ y ∈ l, ¬ (y.2.seqKey = 9 ∧ y.2.pageIndex = 0)) ∧ push.seqKey = 9 ∧ push.pageIndex = 0 ∧ (∀ k, (some 3 : Option Nat) = some k → 3 = k) ∧
      ∀ x ∈ g.pushes, ¬ (x.2.seqKey = 7 ∧ x.2.pageIndex = 0) := by
  refine ⟨by decide +kernel, by decide +kernel, rfl, rfl, ?_, by decide +kernel⟩
  intro k h; cases h; rfl

theorem wit_PositionsAndDies : (25 : Nat) < 26 ∧ (23 : Nat) < 24 := by decide

/-- A COLL packet of queue 1, COLL_SEQ 4, from rank 1 of another device. -/
def coll (kind dig : Nat) : Packet :=
  { pk with typ := tColl, region := 0, srcDev := 9, srcLt := 0x3F8, payload := [1, 2, 3, 4], len := 4, last := true
            transport := BitVec.ofNat 256 (kind * 2 ^ 252 + 4 * 2 ^ 236 + 2 ^ 231 + 2 ^ 223 + dig * 2 ^ 97) }
def collDigest : Nat := (pipDigest [1, 2, 3, 4] (trailerColl 0 0 1 1 4 0)).toNat
def collReg : Region := { reg with members := 2, peers := [⟨9, 0, true, 1⟩], collQueues := 2 }
/-- An engine with that queue whose oldest incomplete collective is 4, and packets that wait. -/
def collState (oldest : Nat) (ctxs : List CollCtx) (l : List Packet) : State :=
  updEngine (regState fun _ => collReg) 3 fun e => { e with queues := [(0, ⟨0, 1, oldest, ctxs⟩)], inbox := l }
theorem wit_Collective_packet : let p := coll 2 collDigest
    let s := collState 4 [] [p]
    (∃ u, takeEng s 3 (fun p => p.typ == tColl && cDestDev p == s.idn.deviceId) = some (p, u)) ∧ p.srcDev ≠ s.idn.deviceId ∧ cKind p = 2 ∧
      stepVerdict s p.region p = .ok ∧ (engineOf s 3).closedXfers = [] ∧ findQueue (engineOf s 3) 0 1 = some (0, ⟨0, 1, 4, []⟩) ∧
      parMismatch (ctxFor ⟨0, 1, 4, []⟩ 4) p = false ∧ inWindow ⟨0, 1, 4, []⟩ 4 = true ∧ p.seq = 0 ∧ p.last = true ∧
      eRx (engineOf s 3) (pktKey p) = none ∧
      (pipDigest p.payload (trailerColl (stepOf s 0) (attemptOf s 0) (cRank p) (cCq p) (cSeq p) (cPiece p))).toNat = cDigest p ∧
      pieceHeld (ctxFor ⟨0, 1, 4, []⟩ 4) p = false ∧ ((ctxFor ⟨0, 1, 4, []⟩ 4).localOpen || (ctxFor ⟨0, 1, 4, []⟩ 4).done) = false ∧
      regionOf s 0 = some collReg ∧ inStep collReg = true := ⟨took (by decide +kernel), by decide +kernel⟩
theorem wit_Collective_digest : let p := coll 3 0
    (∃ u, takeEng (collState 4 [] [p]) 3 (fun p => p.typ == tColl && cDestDev p == z.idn.deviceId) = some (p, u)) ∧ cKind p = 3 ∧
      (pipDigest p.payload (trailerColl 0 0 (cRank p) (cCq p) (cSeq p) (cPiece p))).toNat ≠ cDigest p := ⟨took (by decide +kernel), by decide +kernel⟩
theorem wit_Collective_noQueue : findQueue (engineOf z 3) 0 1 = none ∧ inWindow ⟨0, 1, 5, []⟩ 4 = false ∧ inWindow ⟨0, 1, 0, []⟩ 4 = false ∧
    inWindow ⟨0, 1, 1, []⟩ 4 = true := by decide +kernel
theorem wit_Collective_tile : let p := { coll 1 0 with dstAddr := 0x37FFFFC }
    let s := rxState id p
    (∃ u, Takes s 0 (fun p => p.typ == tColl && cKind p == 1) p u) ∧ FreshWhole s 0 p ∧ spadWf (tileOf s 0).spad = true ∧
      p.payload ≠ [] := ⟨takes (by decide +kernel), by unfold FreshWhole; decide +kernel⟩
/-- The parameter block of an ALLREDUCE of two FP32 elements in one part, and a context that holds that part. -/
def cblk (op elements parts : Nat) : List Byte :=
  leBytes 3 1 ++ leBytes 1 1 ++ leBytes 4 2 ++ leBytes op 1 ++ leBytes 0 3 ++ leBytes elements 4 ++ leBytes 0 12 ++ leBytes parts 2 ++ leBytes 0 6
def contrib : Contribution := { lt := 0, q := 0, idx := 0, fid := 0, destAddr := 0, block := cblk 0 2 1, data := List.replicate 8 0, retryMax := 1, retryGap := 1 }
def cctx : CollCtx := { newCtx 4 with contribs := [contrib] }
theorem wit_Collective_open : let s := collState 4 [cctx] []
    ctxAt s 3 0 1 4 = some cctx ∧ cctx.localOpen = false ∧ cctx.done = false ∧ cctx.contribs ≠ [] ∧ cctx.contribs.length = (ctxBlock cctx).localParts ∧
      openFailure collReg cctx = none ∧ (ctxBlock cctx).op ≤ 1 ∧ cctx.released = false := by decide +kernel
theorem wit_Collective_openFail : openFailure { collReg with peers := [] } cctx = some 0x32 ∧
    openFailure collReg { cctx with contribs := [{ contrib with block := cblk 0 3 1 }] } = some 0x30 ∧
    regionOf (collState 4 [cctx] []) (tileOf (updTile (collState 4 [cctx] []) 0 fun t => { t with region := 0 }) 0).region = some collReg := by decide +kernel
/-- The piece of rank 1 has come whole and checked. -/
def peer1 : PeerPiece := { rank := 1, piece := 0, result := false, dev := 9, data := [0, 0, 128, 63], whole := true, checked := true, par := 2 }
theorem wit_Collective_answered : let c := { cctx with peers := [{ peer1 with par := parOf (ctxBlock cctx), hold := some (coll 2 0) }, { peer1 with par := parOf (ctxBlock cctx) + 1, hold := some (coll 2 0) }] }
    let s := collState 4 [c] []
    ctxAt s 3 0 1 4 = some c ∧ openFailure collReg c = none ∧ (coll 2 0).srcDev ≠ s.idn.deviceId ∧ (c.peers.map (·.hold)) = [some (coll 2 0), some (coll 2 0)] ∧
      c.peers.map (fun y => y.par == parOf (ctxBlock c)) = [true, false] := by decide +kernel
theorem wit_Collective_openPiece : let c := { newCtx 4 with done := true }
    let s := collState 4 [c] [coll 2 collDigest]
    findQueue (engineOf s 3) 0 1 = some (0, ⟨0, 1, 4, [c]⟩) ∧ pieceHeld (ctxFor ⟨0, 1, 4, [c]⟩ 4) (coll 2 collDigest) = false ∧
      ((ctxFor ⟨0, 1, 4, [c]⟩ 4).localOpen || (ctxFor ⟨0, 1, 4, [c]⟩ 4).done) = true ∧
      parMismatch c (coll 2 collDigest) = false ∧ reg.arrivalFold = false := by decide +kernel
def openCtx : CollCtx := { cctx with localOpen := true, peers := [peer1] }
theorem wit_Collective_fold : let b := ctxBlock openCtx
    let own := pieceRange b.elements (collMembers collReg) collReg.rank
    let k := Nat.min (foldBlockLen b) (own.2 - openCtx.folded)
    ctxAt (collState 4 [openCtx] []) 3 0 1 4 = some openCtx ∧ b.op ≤ 1 ∧ 0 < k ∧ foldReady collReg b openCtx openCtx.folded k = true ∧
      foldReady collReg b { openCtx with peers := [] } 0 k = false := by decide +kernel
theorem wit_Collective_release : let c := { openCtx with folded := 1, result := [0] }
    let b := ctxBlock c
    ctxAt (collState 4 [c] []) 3 0 1 4 = some c ∧ c.released = false ∧ b.op = 0 ∧ c.folded = (pieceRange b.elements 2 0).2 ∧
      ((otherRanks collReg).all fun q => (peerPiece c q false).any (·.checked)) = true ∧ 1 ∈ otherRanks collReg ∧
      (peerXfer 3 0 collReg c b 3 1 0 0 b.outType (c.result.flatMap (collBytes b.outType))).isSome = true := by decide +kernel
/-- An expert record of handler 5 with two rows to a batch, and a row or a CLOSE for it. -/
def erec : ExpertRec := { en := true, handler := 5, bufBase := 0x8000, bufsMinus1 := 0, batchMinus1 := 1, rowPitch := 1, fanIn := 0, cold := false, prologue := 0 }
def emsg (len : Nat) : Packet := { pk with typ := tMsg, last := true, transport := BitVec.ofNat 256 (5 * 2 ^ 248 + len * 2 ^ 221) }
def expState (x : ExpertState) (p : Packet) : State := rxState (fun t => { t with experts := [(0, erec)], expState := [(0, x)] }) p
theorem wit_Collective_row : let p := emsg 64
    let s := expState ⟨0, 0, [], 0, false, false⟩ p
    (∃ u, Takes s 0 (fun p => (expertRecOf (tileOf s 0) p).isSome && !isClose (tileOf s 0) p) p u) ∧ FreshWhole s 0 p ∧
      expertRecOf (tileOf s 0) p = some (0, erec) ∧ sget expertReset (tileOf s 0).experts 0 = erec ∧ p.srcDev = s.idn.deviceId ∧
      (let x := sget expStateReset (tileOf s 0).expState 0
       x.owed = false ∧ x.cur ∉ x.posted ∧ x.rows < erec.batchMinus1) ∧ (wholeFlow s 0 p).bulk.length ≤ 64 * erec.rowPitch ∧
      rowBad (tileOf s 0) 0 (wholeFlow s 0 p).bulk.length = false ∧ spadWf (tileOf s 0).spad = true := ⟨takes (by decide +kernel), by unfold FreshWhole; decide +kernel⟩
theorem wit_Collective_rowFull : let p := emsg 64
    let s := expState ⟨0, 0, [], 0, false, true⟩ p
    (∃ u, Takes s 0 (fun p => (expertRecOf (tileOf s 0) p).isSome && !isClose (tileOf s 0) p) p u) ∧
      storeRow (tileOf s 0) s.now 0 (stepOf s (tileRegion (tileOf s 0))) s.idn.deviceId 0 (wholeFlow s 0 p).bulk (wholeFlow s 0 p).inl = none ∧ rowBad (tileOf s 0) 0 (wholeFlow s 0 p).bulk.length = false := ⟨takes (by decide +kernel), by decide +kernel⟩
theorem wit_Collective_close : let p : Packet := { emsg 0 with payload := leBytes (2 ^ 40) 32, len := 32, transport := (emsg 0).transport ||| BitVec.ofNat 256 (2 ^ 239) }
    let s := expState ⟨1, 0, [], 0, false, false⟩ p
    (∃ u, Takes s 0 (fun p => (expertRecOf (tileOf s 0) p).isSome && isClose (tileOf s 0) p) p u) ∧ FreshWhole s 0 p ∧
      expertRecOf (tileOf s 0) p = some (0, erec) := ⟨takes (by decide +kernel), by unfold FreshWhole; decide +kernel⟩
theorem wit_Collective_rowBad : let p := emsg 64
    let s := updTile (expState ⟨0, 0, [], 0, false, false⟩ p) 0 fun t => { t with protects := [⟨true, 0x8000, 0x9000⟩] }
    (∃ u, Takes s 0 (fun p => (expertRecOf (tileOf s 0) p).isSome && !isClose (tileOf s 0) p) p u) ∧ FreshWhole s 0 p ∧
      rowBad (tileOf s 0) 0 (wholeFlow s 0 p).bulk.length = true := ⟨takes (by decide +kernel), by unfold FreshWhole; decide +kernel⟩
/-- A fired SCATTER whose row has been answered. -/
def firedScatter : Fired :=
  { fid := 0, q := 63, idx := 7, desc := desc 2 9 0, status := stOk, detail := 0, outAddr := 0, bytes := 0, arith := 0, parts := 2
    partFail := [], openParts := [(1, 1)], ins := [], out := none, comp := none, noArrive := false, closing := false, stage := 0, firedAt := 0 }
theorem wit_Collective_scatter : let s := tileState fun t => { t with fired := [firedScatter] }
    scatterDone (tileOf s 0) 63 = some firedScatter ∧ (closeDests s 0 firedScatter.desc).length = 0 ∧ scatterDone (tileOf z 0) 63 = none := by decide +kernel

/-- The block with one changed port. -/
def portState (p : Nat) (f : Port → Port) : State := updPort z p f
def actPort (f : Port → Port) : State := portState 11 fun a => f { a with state := psActive, ctl := portCtlReset + 2 ^ 31 }
/-- A flit of a type and SEQ. -/
def flit (typ seq : Nat) : Flit := { ftype := typ, vc := 0, flane := 0, seq, ackValid := false, ackSeq := 0, firstOff := 0xFF, xoff := 0, version := 2, payload := zeros 244 }
theorem wit_Flits_data : let s := actPort fun a => { a with expected := 4095 }
    (portOf s 11).state = psActive ∧ ((flit 0 4095).seq + 4096 - (portOf s 11).expected) % 4096 = 0 ∧
      ((flit 0 0).seq + 4096 - (portOf s 11).expected) % 4096 = 1 ∧ ((flit 0 2046).seq + 4096 - (portOf s 11).expected) % 4096 = 2047 ∧
      2047 < ((flit 0 2047).seq + 4096 - (portOf s 11).expected) % 4096 ∧ (flit 0 0).ftype = 0 ∧ (flit 1 0).ftype = 1 := by decide +kernel
theorem wit_Flits_room : let s := actPort fun a => { a with expected := 4095 }
    occStream (engineOf s 3) (portOf s 11) 11 0 ≤ 32 := by decide +kernel
/-- Packets that have come on port 11 and still wait, in more than 96 flits of one stream. -/
def manyIn : FabPacket := ⟨2, 0, 0, 0, 0, 0, 11, 0, 0, { pk with len := 8191, payload := List.replicate 8191 0 }, 0, 0⟩
theorem wit_Flits_full : let s := updEngine (actPort fun a => { a with rxSeen := [(streamOf manyIn.pkt.vc 0, 136)] }) 3 fun e => { e with ingress := [{ manyIn with at_ := 34 }] }
    96 ≤ occStream (engineOf s 3) (portOf s 11) 11 (streamOf manyIn.pkt.vc 0) := by decide +kernel
theorem wit_Flits_request : let s := actPort fun a => { a with reqSeq := a.expected, reqAt := some 0 }
    (portOf s 11).reqSeq = (portOf s 11).expected ∧ (portOf s 11).reqAt = some 0 ∧ s.now - 0 < 4000 ∧ (portOf (actPort id) 11).reqAt = none := by decide +kernel
theorem wit_Flits_reserved : 4 ≤ (flit 4 0).ftype ∧ 4 ≤ (flit 7 0).ftype := by decide
theorem wit_Flits_raw : zeros 4 ≠ [] ∧ readFlit (zeros 4) = none ∧ readFlit (flitBytes (flit 0 7)) = some (flit 0 7) := by decide +kernel
theorem wit_Flits_replay : let s := actPort fun a => { a with held := [flit 0 5, flit 0 6] }
    let q : Port := { takeAck (portOf s 11) (flit 2 6) with txXoff := 0 }
    q.held = [flit 0 5] ++ flit 0 6 :: [] ∧ (∀ y ∈ [flit 0 5], y.seq ≠ 6) ∧ (if q.gotSeq = 6 then q.gotCount + 1 else 1) < 8 := by decide +kernel
theorem wit_Flits_lost : let s := actPort fun a => { a with held := [flit 0 5] }
    ∀ x ∈ ({ takeAck (portOf s 11) (flit 2 6) with txXoff := 0 } : Port).held, x.seq ≠ (flit 2 6).seq := by decide +kernel
theorem wit_Flits_eighth : let s := actPort fun a => { a with held := [flit 0 6], gotSeq := 6, gotCount := 7 }
    let q : Port := { takeAck (portOf s 11) (flit 2 6) with txXoff := 0 }
    8 ≤ if q.gotSeq = 6 then q.gotCount + 1 else 1 := by decide +kernel
theorem wit_Flits_fec : (11 : Nat) < 12 ∧ (3 : Nat) < 4 ∧ readFlit (flitBytes (flit 2 7)) = some (flit 2 7) := by decide +kernel
theorem wit_Flits_notActive : (portOf z 11).state ≠ psActive := by decide +kernel

/-- A port in a state since cycle 0, and training words. -/
def inPort (st : Nat) : State := portState 11 fun a => { a with state := st, ctl := portCtlReset + 2 ^ 31 }
def words (rates : Nat) : TrainWords := { dev := 9, port := 3, rates, downshift := false, framing := 3, dim := 0, dir := 0, wrap := false, incarnation := 6, serial := 77, savedTag := 0 }
theorem wit_Training_states : ∀ k ∈ [psIdle, psDetect, psNegotiate, psEqualise, psAlign, psQualify, psActive, psRetrain, psFailed], (portOf (inPort k) 11).state = k := by decide +kernel
theorem wit_Training_common : let a := portOf (inPort psNegotiate) 11
    let w := words 7
    (bitOf (ratesOf a) 2 && bitOf w.rates 2) = true ∧ rateRefused 2 (ratesOf a) = false ∧ rateRefused 2 w.rates = false ∧ miswired a w = false := by decide +kernel
theorem wit_Training_low : let a := portOf (inPort psNegotiate) 11
    (bitOf (ratesOf a) 1 && bitOf (words 2).rates 1) = true ∧ (∀ k, 1 < k → k < 3 → (bitOf (ratesOf a) k && bitOf (words 2).rates k) = false) ∧
      rateRefused 1 (ratesOf a) = true := by
  refine ⟨by decide +kernel, fun k h1 h2 => ?_, by decide +kernel⟩
  obtain rfl : k = 2 := by omega
  decide +kernel
theorem wit_Training_noRate : ∀ r, r < 3 → (bitOf (ratesOf (portOf (inPort psNegotiate) 11)) r && bitOf (words 0).rates r) = false := by decide +kernel
theorem wit_Training_miswired : let s := portState 11 fun a => { a with state := psNegotiate, ctl := portCtlReset + 2 ^ 31 + 2 ^ 22 }
    miswired (portOf s 11) { words 7 with dim := 1 } = true ∧ miswired (portOf s 11) { words 7 with dim := 1, dir := 1 } = false := by decide +kernel
theorem wit_Training_timers : let late : Nat := cyclesPerSec
    (portOf (inPort psIdle) 11).since + cyclesPerMs ≤ late ∧ z.now < (portOf (inPort psIdle) 11).since + cyclesPerMs ∧
      (portOf (inPort psDetect) 11).since + cyclesPerSec ≤ late ∧ z.now < (portOf (inPort psDetect) 11).since + cyclesPerSec ∧
      (portOf (inPort psEqualise) 11).since + 800 * cyclesPerMs ≤ late ∧ z.now < (portOf (inPort psAlign) 11).since + 2 * cyclesPerMs := by decide +kernel
theorem wit_Training_saved : (portOf (portState 11 fun a => { a with state := psEqualise, savedUsed := true }) 11).savedUsed = true ∧
    (portOf (inPort psEqualise) 11).savedUsed = false := by decide +kernel
theorem wit_Training_rtt : rttLimit (portOf (inPort psAlign) 11).rate < 4261 ∧ 4260 ≤ rttLimit (portOf (inPort psAlign) 11).rate := by decide +kernel
theorem wit_Training_qualify : (portOf (inPort psQualify) 11).fullOnce = false ∧
    (let a := portOf (portState 11 fun a => { a with state := psQualify, fullOnce := true, ctl := portCtlReset + 2 ^ 26, rate := 2 }) 11
     a.fullOnce = true ∧ pDownshift a = true ∧ 0 < a.rate) ∧
    (let a := portOf (portState 11 fun a => { a with state := psQualify, fullOnce := true }) 11
     a.fullOnce = true ∧ pDownshift a = false) := by decide +kernel
theorem wit_Training_bound : (psEqualise, (if (portOf (inPort psEqualise) 11).savedUsed then 20 else 800), 0x03) ∈
    [(psNegotiate, 2, 0x02), (psEqualise, if (portOf (inPort psEqualise) 11).savedUsed then 20 else 800, 0x03), (psAlign, 2, 0x04)] := by decide +kernel

theorem wit_PortLoss_states : (portOf (actPort id) 11).state = psActive ∧ psNegotiate ≤ (portOf (inPort psRetrain) 11).state ∧
    (portOf (inPort psRetrain) 11).state ≤ psRetrain ∧ (portOf (inPort psRetrain) 11).state ≠ psActive ∧
    (portOf (inPort psDetect) 11).state < psNegotiate ∧ psRetrain < (portOf (inPort psFailed) 11).state := by decide +kernel
theorem wit_PortLoss_silent : let s := portState 11 fun a => { a with state := psFailed, ctl := portCtlReset + 2 ^ 31, failReason := 1 }
    (portOf s 11).state = psFailed ∧ (portOf s 11).failReason = 0x01 ∧ pEn (portOf s 11) = true ∧ (portOf s 11).since + cyclesPerSec ≤ cyclesPerSec ∧
      s.now < (portOf s 11).since + cyclesPerSec := by decide +kernel
theorem wit_PortLoss_loud : ¬ ((portOf (inPort psFailed) 11).failReason = 0x01 ∧ pEn (portOf (inPort psFailed) 11) = true) := by decide +kernel

theorem wit_LinkCommands : let s := upState (actPort id)
    Rung s (ch 8) ∧ (ch 8).paramLen = 8 ∧ (ch 8).func = 0 ∧ 11 ∈ maskPorts 0xFFF ∧ 11 ∉ maskPorts 0x7FF := by decide +kernel
theorem wit_LinkCommands_vf : Rung (upState z) { ch 8 with func := 16 } := by decide +kernel
theorem wit_LinkCommands_set : pEn (portOf z 11) = false ∧ (portOf z 11).state = 0 := by decide +kernel
theorem wit_LinkCommands_retrain : (pEn (portOf (inPort 9) 11) = true ∧ (portOf (inPort 9) 11).state = 9) ∧
    (1 ≤ (portOf (inPort 8) 11).state ∧ (portOf (inPort 8) 11).state ≤ 8 ∧ (portOf (inPort 8) 11).state ≠ 7) := by decide +kernel

/-- A packet on Tarn for another device. -/
def fp (p : Packet) : FabPacket := ⟨2, 9, 0, 0, 0, 0, 12, 0, 0, p, 0, 0⟩
def ingress (f : FabPacket) (s : State) : State := updEngine s 3 fun e => { e with ingress := [f] }
def egress (f : FabPacket) (s : State) : State := updEngine s 3 fun e => { e with egress := [f] }
theorem wit_Gateway_none : (engineOf z 3).ingress = [] ∧ (engineOf z 3).egress = [] ∧ takeEng z 3 (outbound z) = none := by decide +kernel
theorem wit_Gateway_wrongDest : let f := { fp pk with destDev := 0, destInc := 1 }
    (engineOf (ingress f z) 3).ingress = f :: [] ∧ f.pver = 2 ∧ f.destDev = z.idn.deviceId ∧ f.destInc ≠ z.fab.inc ∧ f.pkt.vc = 0 := by decide +kernel
theorem wit_Gateway_wrongDestAnswer : let f := { fp { pk with vc := 3, srcDev := 9 } with destDev := 0, destInc := 1 }
    f.destInc ≠ z.fab.inc ∧ f.pkt.vc = 3 ∧ answered f.pkt.typ = true ∧ f.pkt.srcDev ≠ z.idn.deviceId := by decide +kernel
theorem wit_Gateway_wrongSrc : let f := { fp pk with srcInc := 1 }
    ¬ (f.pver = 2 ∧ f.destDev = z.idn.deviceId ∧ f.destInc ≠ z.fab.inc) ∧ f.pver = 2 ∧ f.srcInc ≠ sget 0 z.fab.incs f.pkt.srcDev := by decide +kernel
theorem wit_Gateway_transit : (fp pk).destDev ≠ z.idn.deviceId ∧ 1000 < { fp pk with fage := 1000 }.fage + 1 ∧ { fp pk with fage := 999 }.fage + 1 ≤ 1000 ∧
    32 < { fp pk with fhops := 32 }.fhops + 1 ∧ { fp pk with fhops := 31 }.fhops + 1 ≤ 32 := by decide +kernel
theorem wit_Gateway_doze : let s : State := { z with pwr := { z.pwr with doze := true } }
    { fp pk with destDev := 0 }.destDev = s.idn.deviceId ∧ s.pwr.doze = true ∧ pk.vc = 0 ∧ { pk with vc := 1 }.vc ≠ 0 := by decide +kernel
/-- A region whose peer is region 4 of device 9. -/
def gwState : State := regState fun _ => { reg with peers := [⟨9, 4, true, 1⟩] }
def fromPeer (typ : Nat) : Packet := { pk with typ, srcDev := 9, srcLt := 0x3FB, region := 4, transport := BitVec.ofNat 256 (4 * 2 ^ 174) }
theorem wit_Gateway_coll : (fromPeer tColl).typ = tColl ∧ (regionOfPeer gwState 9 4).map (·.1) = some 0 ∧ (fromPeer tColl).srcLt - 0x3F8 = 3 ∧
    regionOfPeer gwState 9 3 = none := by decide +kernel
theorem wit_Gateway_message : ∀ typ ∈ [tMsg, tWrite, tSync], let p := fromPeer typ
    present gwState (pktDestLt p) = true ∧ regionOf gwState (regionOfLt gwState (pktDestLt p)) = some { reg with peers := [⟨9, 4, true, 1⟩] } ∧
      ([⟨9, 4, true, 1⟩] : List Peer).find? (fun q => q.device == p.srcDev && q.region == pktSrcRegion p) = some ⟨9, 4, true, 1⟩ ∧
      spineEntry gwState (dieOfLt gwState 0) 0 = some 0 ∧
      ([] : List Peer).find? (fun q => q.device == p.srcDev && q.region == pktSrcRegion p) = none := by decide +kernel
theorem wit_Gateway_absent : present { gwState with absent := [0] } (pktDestLt (fromPeer tMsg)) = false := by decide +kernel
theorem wit_Gateway_answer : ∀ typ ∈ [tAck, tNack, tXoff, tXon], pktDestLt (fromPeer typ) = 0 ∧ isEngineLt 0 = none ∧ isEngineLt 0x3FB = some 3 ∧
    spineEntry gwState (dieOfLt gwState 0) (regionOfLt gwState 0) = some 0 := by decide +kernel
theorem wit_Gateway_gone : let s : State := egress (fp pk) { z with fab := { z.fab with gone := [9] } }
    (engineOf s 3).egress = fp pk :: [] ∧ (fp pk).destDev ∈ s.fab.gone := by decide +kernel
theorem wit_Gateway_noRoute : (fp pk).destDev ∉ z.fab.gone ∧ frValid (fabEntry z 0 9) = false := by decide +kernel
/-- Port 3 is the primary and only port toward device 9, and ACTIVE or not. -/
def routeState (st : Nat) (xoff : Nat) : State := updPort { z with fab := { z.fab with t0 := [(9, BitVec.ofNat 32 (2 ^ 31 + 3 * 2 ^ 26 + 2 ^ 17))] } } 3
  fun p => { p with state := st, txXoff := xoff }
theorem wit_Gateway_ports : let s := routeState psActive 0
    frValid (fabEntry s 0 9) = true ∧ frLocal (fabEntry s 0 9) = false ∧
      pickFabPort s 3 (fabEntry s 0 9) (fp pk) = (some 3, true) ∧ pickFabPort s 3 (fabEntry s 0 9) (fp { pk with vc := 3 }) = (some 3, true) ∧
      (let d := routeState psFailed 0
       pickFabPort d 3 (fabEntry d 0 9) (fp pk) = (none, false)) ∧
      (let w := routeState psActive 255
       pickFabPort w 3 (fabEntry w 0 9) (fp { pk with vc := 3 }) = (none, true)) := by decide +kernel
def outPacket : Packet := { pk with typ := tMsg, transport := BitVec.ofNat 256 (9 * 2 ^ 189) }
theorem wit_Gateway_out : let s := updEngine (routeState psActive 0) 3 fun e => { e with inbox := [outPacket] }
    (∃ u, takeEng s 3 (fun q => outbound s q && q.vc == outPacket.vc) = some (outPacket, u)) ∧ outPacket.vc < 4 ∧ ceilDiv (ageOf s outPacket * 32) 1000 ≤ 1000 ∧
      (∀ q ∈ (engineOf s 3).inbox, outbound s q = true → outPacket.vc ≤ q.vc) ∧ (engineOf s 3).egress = [] ∧ shadowSinks s outPacket = false ∧
      pktDestDev outPacket = 9 ∧ 9 ∉ s.fab.gone ∧ pickFabPort s 3 (fabEntry s (fabActive s) 9) (toFabric s outPacket) = (some 3, true) ∧
      frLocal (fabEntry s (fabActive s) 9) = false :=
  ⟨took (by decide +kernel), by decide +kernel⟩
theorem wit_Gateway_vc : let s := routeState psActive 0
    let late := updEngine { s with now := 2500 } 3 fun e => { e with egress := [fp { pk with vc := 2 }, { fp { pk with vc := 0 } with port := 11, fage := 900, since := 500 }] }
    let g : FabPacket := { fp { pk with vc := 0 } with port := 11, fage := 900, since := 500 }
    (engineOf late 3).egress = fp { pk with vc := 2 } :: g :: [] ∧ g.pkt.vc < (fp { pk with vc := 2 }).pkt.vc ∧ g.pkt.vc < 4 ∧ g.port < 12 ∧ g.fage ≤ 900 ∧
      late.now ≤ g.since + 2000 ∧ g.destDev ∉ late.fab.gone ∧ frValid (fabEntry late g.epoch g.destDev) = true ∧
      pickFabPort late 3 (fabEntry late g.epoch g.destDev) g = (some 3, true) := by decide +kernel
theorem wit_Gateway_local : let s : State := egress (fp pk) { z with fab := { z.fab with t0 := [(9, BitVec.ofNat 32 (2 ^ 31 + 2 ^ 30))] } }
    (engineOf s 3).egress = fp pk :: [] ∧ frValid (fabEntry s 0 9) = true ∧ frLocal (fabEntry s 0 9) = true := by decide +kernel
theorem wit_Gateway_ended : let s : State := { gwState with fab := { gwState.fab with ended := [([0, 1], [(9, 3)])] } }
    (∃ x ∈ s.fab.ended, (∀ a, (none : Option Nat) = some a → a ∈ x.1) ∧ (9, 3) ∈ x.2) ∧ regionOfPeer s 9 3 = none :=
  ⟨⟨_, List.mem_singleton.2 rfl, (fun _ h => by cases h), by decide⟩, by decide +kernel⟩
theorem wit_Gateway_queued : let s := routeState psActive 0
    let q := portOf s 3
    q.txq = [] ∧ streamOf pk.vc 0 < 8 ∧ bitOf q.txXoff (streamOf pk.vc 0) = false ∧ sget (0, 0) q.txHead (streamOf pk.vc 0) = (0, 0) ∧
      q.held.length + (fabBytes q.v1 { fp pk with fage := fageNow s (fp pk) }).length / 244 ≤ 1024 ∧ fageNow s (fp pk) ≤ 1000 := by decide +kernel
theorem wit_Gateway_old : let f : FabPacket := { fp pk with port := 11, fage := 1000, since := 0 }
    f.port ≠ 12 ∧ f.pkt.vc < 4 ∧ 1000 < f.fage + ceilDiv ((z.now - f.since) / 2 + portLatency (portOf z f.port).rate) 1000 ∧
      (let o : FabPacket := { fp { pk with injTime := 0 } with port := 12 }
       1000 < ceilDiv (ageOf { z with now := 64 * 31251 } o.pkt * 32) 1000 ∧ ceilDiv (ageOf z o.pkt * 32) 1000 ≤ 1000) := by decide +kernel
theorem wit_Gateway_gone_young : let s : State := { routeState psActive 0 with fab := { (routeState psActive 0).fab with gone := [9] } }
    (fp pk).destDev ∈ s.fab.gone ∧ (if (fp pk).port = 12 then ceilDiv (ageOf s pk * 32) 1000 else (fp pk).fage + ceilDiv ((s.now - (fp pk).since) / 2 + portLatency (portOf s (fp pk).port).rate) 1000) ≤ 1000 := by decide +kernel
/-- Region 0 is a shadow. -/
def shadowOf (st : SState) : Shadow := ⟨st, 9, 4, 10, 0, 5, [], [], none, false, 0⟩
theorem wit_Gateway_sink : shadowSinks { z with rf := [(0, { regFaultReset with shadow := some (shadowOf .comparing) })] } { outPacket with region := 0 } = true := by decide +kernel

theorem wit_Fabric_flip : fabState z (1 - fabActive z) = .writable ∧ fabState { z with fab := { z.fab with f1 := .draining } } 1 ≠ .writable := by decide +kernel
theorem wit_Fabric_lost : let s := { gwState with fab := { gwState.fab with incs := [(9, 6)] } }
    9 ∈ peerDevs s ∧ (∃ e ∈ s.fab.incs, e.1 = 9) ∧ (∃ e, s.fab.incs.find? (fun e => e.1 == 9) = some e ∧ e.2 ≠ 7) ∧
      s.fab.incs.find? (fun e => e.1 == 9) = some (9, 6) ∧ s.fab.incs.find? (fun e => e.1 == 4095) = none :=
  ⟨by decide +kernel, by decide +kernel, ⟨(9, 6), by decide +kernel⟩, by decide +kernel⟩
theorem wit_Fabric_routes : (([(9, 1), (10, 2)] : List (Nat × BitVec 32)).map (·.1)).Nodup ∧ (4095 : Nat) < 4096 := by decide +kernel
theorem wit_Fabric_silent : let s := { gwState with fab := (routeState psActive 0).fab, now := 25 * cyclesPerMs }
    (9 ∈ peerDevs s ∧ routed s 9 = true ∧ 9 ∉ s.fab.silent ∧ sget 0 s.fab.beats 9 + 25 * cyclesPerMs ≤ s.now) ∧
      ¬ (4095 ∈ peerDevs s) := by decide +kernel

/-- Tile 0 of the region holds one shadow line of eight words for offset `off`. -/
def shadowTile (t : Tile) : Tile :=
  { t with region := 0, spad := { t.spad with sq := [⟨0x1000, 512, (List.range 8).map fun i => (i, List.replicate 64 7)⟩] } }
def undoReg (l : List UndoEntry) (f : List Nat) : Region := { reg with image := some { img with dir := { img.dir with undoLog := ⟨4096, 576⟩ } }, undo := l, filt := f }
def shadowState (g : Region) : State := updTile (regState fun _ => g) 0 shadowTile
theorem wit_Basin_shadow : let g := undoReg [] []
    let s := shadowState g
    ∃ x rest, (tileOf s 0).spad.sq = x :: rest ∧ regionOf s (tileOf s 0).region = some g ∧ x.off ∉ g.filt ∧
      g.undo.length < ((g.image.map fun im => im.dir.undoLog.len / 576).getD 0) ∧ filterFull g (stackOf (g.basinBase + x.off)) = false ∧
      (g.basinBase + 4096 + 576 ≤ g.basinBase + x.off ∨ g.basinBase + x.off + 512 ≤ g.basinBase + 4096) ∧ (∀ y ∈ s.scans, meets (y.addr, y.len) (g.basinBase + 4096, 576) = false) ∧
      (tileOf s 0).spad.sqWait = [] ∧ x.words.length = 8 ∧ (x.words.flatMap (·.2)).length = 512 ∧ inStep g = true := ⟨_, _, rfl, by decide +kernel⟩
theorem wit_Basin_shadowAgain : 512 ∈ (undoReg [] [512]).filt ∧ regionOf (shadowState (undoReg [] [512])) 0 = some (undoReg [] [512]) := by decide +kernel
theorem wit_Basin_shadowFull : let g := undoReg [⟨0, 0, [], 0⟩] []
    512 ∉ g.filt ∧ ((g.image.map fun im => im.dir.undoLog.len / 576).getD 0) ≤ g.undo.length ∧ inStep g = true ∧ g.failed = false ∧
      { g with failed := true }.failed = true := by decide +kernel
theorem wit_Basin_shadowNone : (tileOf z 575).spad.sq = [] := by decide +kernel
theorem wit_Basin_patrol : (bsnOf z 3).en = true ∧ z.pwr.doze = false ∧ basinCapture / 64 + 24 = 33554456 ∧
    (let w := 33554456
     let s : State := { z with bsn := (List.range 4).map fun k => (k, { basinCtlReset with scrubWord := wordInStack w }) }
     patrolled (stackOf (64 * w)) (bsnOf s (stackOf (64 * w))).scrubWord 1 w = true ∧ basinCapture ≤ 64 * w / 512 * 512 ∧ 64 * w / 512 ∉ s.poison) := by decide +kernel
theorem wit_Basin_patrolOff : (bsnOf { z with bsn := [(3, { basinCtlReset with en := false })] } 3).en = false := by decide +kernel

/-- Tile 0 with word 24 valid and the scrubber about to read its line. -/
def scrubTile (t : Tile) : Tile := { t with spad := spadDrain (spadWrite t.spad 1536 (List.replicate 64 1)), scrubLine := 3 }
theorem wit_Scrub : let s := tileState scrubTile
    scrubRuns s 0 = true ∧ lineFinds (tileOf s 0) [] = [] ∧ lineFinds (tileOf s 0) [(24, .ce 5)] = [(24, .ce 5)] ∧
      lineFinds (tileOf s 0) [(24, .ue)] = [(24, .ue)] ∧ scrubDue s 0 = false ∧ scrubDue { s with now := 2 ^ 23 } 0 = true := by decide +kernel
theorem wit_Scrub_words : controlWord (tileOf (updTile (regState id) 0 fun t => { scrubTile t with region := 0 }) 0) 24 = false ∧
    controlWord (tileOf (updTile (regState id) 0 fun t => { scrubTile t with region := 0 }) 0) (ctlWindow / 64) = true ∧
    controlWord (tileOf (updTile (regState id) 0 fun t => { scrubTile t with region := 0 }) 0) (ctlWindow / 64 - 1) = false ∧ inStep reg = true := by decide +kernel
theorem wit_Scrub_off : scrubRuns (tileState fun t => { t with heldReset := true }) 0 = false := by decide +kernel
theorem wit_Writeback : (tileOf (tileState fun t => { scrubTile t with spad := { t.spad with wb := [24, 25] } }) 0).spad.wb = 24 :: [25] := by decide +kernel
theorem wit_Evict : let s := updTile (regState fun g => { g with mstate := .running }) 0 fun t => { t with spad := spadWrite t.spad 0x1003 [1] }
    (∃ e rest, (tileOf s 0).spad.mb = e :: rest ∧ e.bytes.length ≠ 64 ∧ controlWord { tileOf s 0 with region := 0 } e.word = false) ∧
      mergeDrains s 0 = true ∧ spadWf (tileOf s 0).spad = true := ⟨⟨_, _, rfl, by decide +kernel⟩, by decide +kernel⟩
theorem wit_Evict_none : (tileOf z 575).spad.mb = [] := by decide +kernel
/-- A line that holds a valid word and a partial word. -/
def partTile (t : Tile) : Tile := { t with spad := spadWrite (spadDrain (spadWrite t.spad 0x1000 (List.replicate 64 1))) 0x1003 [2] }
theorem wit_Evict_finds : let v := tileOf (tileState partTile) 0
    v.spad.mb.map (fun e => (e.word, e.bytes.length)) = [(64, 1)] ∧ evictFinds v 64 true [] = [(64, .ue)] ∧ evictFinds v 64 false [(64, .ce 5)] = [(64, .ce 5)] ∧
      evictFinds v 64 false [(72, .ue)] = [] ∧ spadWf v.spad = true ∧ mergeDrains (tileState partTile) 0 = true ∧ controlWord v 64 = false ∧
      controlWord { v with inUse := true } 64 = true ∧ (tileOf z 0).spad.valid.contains 64 = false := by decide +kernel
theorem wit_Read_none : readErrors z 575 63 matmulRow [] = none ∧ storeErrors z 575 63 [] = none := by decide +kernel
theorem wit_Read_stores : storeErrors matState 0 0 [⟨0, 3071, .ce 5⟩, ⟨1, 512, .ue⟩] = some (⟨2, some (0, 0)⟩, [⟨0, 3071, .ce 5⟩]) ∧
    storeErrors matState 0 0 [⟨1, 511, .ue⟩] = some (⟨2, some (0, 0)⟩, [⟨1, 511, .ue⟩]) ∧ storeErrors matState 0 0 [] = some (⟨2, some (0, 0)⟩, []) ∧
    errRegion { tileOf matState 0 with inUse := true } = 16 ∧ errRegion (tileOf matState 0) ≠ 16 := by decide +kernel
/-- A READ_REQ of 64 bytes from 0x1000. -/
def readReqPk : Packet := { pk with typ := tReadReq, transport := BitVec.ofNat 256 (0x1000 * 2 ^ 230 + 64 * 2 ^ 198) }
theorem wit_Read_request : let s := rxState partTile readReqPk
    (∃ u, Takes s 0 (fun p => p.typ == tReadReq) readReqPk u) ∧
      rangeFinds s 0 (fld readReqPk.transport.toNat 230 26, fld readReqPk.transport.toNat 198 32) [(64, .ue), (63, .ue)] = [(64, .ue)] := ⟨takes (by decide +kernel), by decide +kernel⟩
theorem wit_Matmul_errors : matmulErrors matState 0 0 [(128, .ce 5)] = some (⟨2, some (0, 0)⟩, [(128, .ce 5)]) ∧
    matmulErrors matState 0 0 [(128, .ue)] = some (⟨2, some (0, 0)⟩, [(128, .ue)]) := by decide +kernel
theorem wit_Basin_reads : let d := dma 3 64 0
    basinReads (descState d) 0 0 [] = [] ∧ basinReads (descState d) 0 0 [0, 1] = [0] ∧ (descState d).poison.contains (64 * 0 / 512) = false ∧
      64 * 0 < basinCapture := by decide +kernel
/-- The same read in a region, whose allotment lies above the firmware's area. -/
theorem wit_Basin_tenantReads : let s := updTile (regState fun g => { g with image := some img }) 0 (descTile (dma 3 64 4096 - 31 * 2 ^ 48))
    let w := (basinTenant + 4096) / 64
    basinReads { s with tiles := s.tiles.map fun e => (e.1, { e.2 with region := 0 }) } 0 0 [w] = [w] ∧ basinCapture ≤ 64 * w := by decide +kernel

theorem wit_SiltOpen : let s := upState z
    let h : CmdHdr := ch 32
    let b : SiltOpenBlock := ⟨1, 16, true, 100, 1⟩
    Rung s h ∧ h.paramLen = 32 ∧ b.zone ≤ 1 ∧ b.owner ≤ 16 ∧ b.units ≠ 0 ∧ mayOwn s h 16 = true ∧
      (List.range 64).find? (fun k => !s.silt.nss.any fun n => n.1 == k) = some 0 := by decide +kernel
/-- The capacity of a zone is a free constant: where it holds the namespace and its spare block, nothing falls short. -/
theorem wit_SiltOpen_room (room : 1025 ≤ (Config.siltUnits true).toNat) : siltShort (upState z) 0 ⟨1, 16, true, 100, 1⟩ = none := by
  have e : zoneFree (upState z) true = (Config.siltUnits true).toNat := rfl
  have n : 1 + (nsBlocks (upState z) 1).2 * (upState z).silt.pagesPerBlock = 1025 := by decide +kernel
  simp only [siltShort]
  rw [show ((1 : Nat) == 1) = true from rfl, e, n]
  rw [if_neg (by decide +kernel), if_neg (by simp), if_neg (by simp), if_neg (by omega)]
theorem wit_SiltOpen_short : let s : State := { upState z with silt := { z.silt with nss := (List.range 64).map fun k => (k, nsReset) } }
    siltShort s 0 ⟨0, 16, false, 0, 1⟩ = some ⟨0x13, 0x3FF, 0xFFFF, 1, 0, 0⟩ := by decide +kernel
theorem wit_SiltNs : let s : State := { upState z with silt := { z.silt with nss := [(63, { nsReset with owner := 16 })] } }
    nsHeld s 63 = some { nsReset with owner := 16 } ∧ mayReachNs s (ch 4) { nsReset with owner := 16 } = true ∧ nsHeld s 0 = none ∧ Rung s (ch 4) := by decide +kernel
/-- A transaction of namespace 0 that writes unit 5. -/
def txn (st : TStage) : STxn := { no := 8, ns := 0, issuer := none, region := 0, step := 0, attempt := 0, stage := st, units := [(5, ⟨0, 0, 0, 8, [], 0, 0, 0, 0⟩)] }
def txnState (st : TStage) (j : List JRec) : State := { regState id with silt := { z.silt with nss := [(0, nsReset)], txns := [txn st], journal := j } }
def jrec : JRec := ⟨1, 0, [], []⟩
theorem wit_SiltTxn : findTxn (txnState .programming []) 8 = some (txn .programming) ∧ (txn .programming).stage = .programming ∧
    findTxn (txnState .journal []) 8 = some (txn .journal) ∧ (txn .journal).no = 8 ∧ ((txn .journal).units.map (·.1)).Nodup ∧ 6 ∉ (txn .journal).units.map (·.1) ∧
    (txnState .journal (List.replicate 4094 jrec)).silt.journal.length + 1 < 4096 ∧ 4096 ≤ (txnState .journal (List.replicate 4095 jrec)).silt.journal.length + 1 ∧
    (txn .journal).units.length < 2 ^ 16 ∧ (8 : Nat) ∉ (txnState .journal []).silt.unread ∧
    regionOf (txnState .journal []) 0 = some reg ∧ (txn .journal).step = reg.step ∧ (txn .waiting).stage ≠ .programming ∧ (txn .waiting).stage ≠ .journal := by decide +kernel
theorem wit_SiltTimes : z.silt.progTimes.length = 2 ∧ z.silt.tprogMean.length = 2 ∧ z.silt.tprogBase.length = 2 ∧ z.silt.tprogBase.getD 0 0 = 0 ∧ [500] ≠ ([] : List Nat) ∧
    (let l := List.replicate 1024 600
     let s : State := { z with silt := { z.silt with tprogBase := [300, 300], progTimes := [List.replicate 1023 600, []] } }
     (s.silt.progTimes.getD 0 [] ++ [600]).drop ((s.silt.progTimes.getD 0 [] ++ [600]).length - 1024) = l ∧ l.length = 1024 ∧ 3 * 300 < 2 * (l.sum / l.length)) := by
  decide +kernel
theorem wit_SiltHit : keyOf (⟨0, 0, 0, 8, [], 0, 0, 0, 0⟩ : SUnit) = 0 ∧ z.silt.halted = false ∧ ({ z.silt with halted := true } : Silt).halted = true := by decide +kernel
theorem wit_SiltChannel : (chanOf z.silt 15).usable = true ∧ (chanOf { z.silt with chans := [(0, { chanReset with usable := false })] } 0).usable = false := by decide +kernel
def sup (used since : Nat) : SSuper := ⟨2, false, [0, 1], used, false, since, 1, 0, List.replicate 8 0, List.replicate 12 0, []⟩
theorem wit_SiltRetention : let s : State := { z with silt := { z.silt with supers := [(2, sup 1 0)] }, secsBase := 30 * 86400 }
    superOf s.silt 2 = some (sup 1 0) ∧ retentionDue s (sup 1 0) = true ∧ retentionDue s (sup 1 1) = false ∧ retentionDue s (sup 0 0) = false := by decide +kernel
theorem wit_SiltErase : let s : State := { z with silt := { z.silt with supers := [(2, sup 1 0)], nss := [(0, nsReset)] } }
    superOf s.silt 2 = some (sup 1 0) ∧ (sup 1 0).isOpen = false ∧ (sup 1 0).used ≠ 0 ∧ 2 * 512 / 512 = 2 ∧ (∀ e ∈ s.silt.nss, ∀ u ∈ e.2.units, u.2.sb ≠ 2) ∧
      (∀ x ∈ s.silt.txns, x.stage ≠ .waiting → ∀ u ∈ x.units, u.2.sb ≠ 2) := by decide +kernel
/-- The one unit of namespace 0 lies in that superblock. -/
def su : SUnit := ⟨2, 0, 0, 8, [], 0, 0, 0, 0⟩
theorem wit_SiltDestroy : let s : State := { upState z with silt := { z.silt with supers := [(2, sup 1 0)], nss := [(0, { nsReset with owner := 16, units := [(5, su)] })] } }
    nsHeld s 0 = some { nsReset with owner := 16, units := [(5, su)] } ∧ mayReachNs s (ch 4) { nsReset with owner := 16, units := [(5, su)] } = true ∧
      (s.silt.txns.map (·.no)).Nodup ∧ (∀ x ∈ s.silt.txns, x.ns ≠ 0) ∧ superOf s.silt 2 = some (sup 1 0) ∧ su.sb = 2 ∧
      (∀ e ∈ s.silt.nss, e.1 ≠ 0 → ∀ u ∈ e.2.units, u.2.sb ≠ 2) ∧ mayReachNs s { ch 4 with func := 1 } { nsReset with owner := 16 } = false ∧
      mayOwn s { ch 32 with func := 1 } 16 = false := by decide +kernel
theorem wit_SiltOpens : let s : State := { z with silt := { z.silt with supers := [(2, sup 1 0)] } }
    (∀ e ∈ s.silt.supers, e.2.isOpen = false ∨ e.2.pslc ≠ true ∨ superPages s.silt e.2 ≤ e.2.used) := by decide +kernel
theorem wit_SiltRetires : let s : State := { z with silt := { z.silt with supers := [(2, sup 1 0)], nss := [(0, { nsReset with units := [(5, su)] })] }, secsBase := 30 * 86400 }
    retentionDue s (sup 1 0) = true ∧ (∀ e ∈ s.silt.supers, e.1 = 2 → e.2 = sup 1 0) ∧
      (s.silt.nss.flatMap fun n => (n.2.units.filter fun u => u.2.sb == 2).map fun u => (n.1, u)) = [(0, (5, su))] ∧
      (nsOf s 0).units.find? (fun x => x.1 == 5) = some (5, su) ∧ su.gen = spareNo s.silt (keyOf su) ∧ ladderStep s.silt su ([11].getD 0 0 % 16) = 11 := by decide +kernel
theorem wit_SiltWearEven : ∀ a ∈ [(2, sup 1 0), (3, sup 1 0)], ∀ b ∈ [(2, sup 1 0), (3, sup 1 0)], (a.2.erases - b.2.erases) * 10 ≤ zoneRated z.silt false := by decide +kernel
theorem wit_SiltWear : ∀ e ∈ ({ z with silt := { z.silt with supers := [(2, sup 1 0)] } } : State).silt.supers, e.2.pslc ≠ (1 == 1) := by decide +kernel

theorem wit_DeviceCommands : let s := upState z
    Rung s (ch 0) ∧ Rung s { ch 0 with func := 16 } ∧ (ch 4).func = 0 ∧ (ch 8).paramLen = 8 ∧ (0xD1CE : Nat) ≠ 0xD1CF ∧ (4095 : Nat) < 4096 := by decide +kernel
theorem wit_Meet_fetch : let s := tileState fun t => { t with qcfg := [(0, ⟨1, 0, 0x1000, false, 0, 0x5000, 1, 0⟩)], spad := spadWrite t.spad 0x5000 (leBytes (desc 6 1 0) 64) }
    (∃ x, meetRowOf s (.fetchLine 0 0 [(320, .ue), (65, .ue)]) = some x ∧ rangesHit (tileOf s 0) x.rs x.found = [(320, .ue)] ∧ controlWord (tileOf s 0) 320 = false) ∧
      (∃ x, meetRowOf s (.fetchLine 0 0 [(320, .ce 5)]) = some x ∧ rangesHit (tileOf s 0) x.rs x.found = [(320, .ce 5)]) ∧
      ∃ b, exec (.fetchLine 0 0) s = .next b ∧ chainReads (tileOf s 0) (tileOf b 0) = [] ∧ evictHits (tileOf s 0) (tileOf b 0) [(320, .ue)] = [] :=
  ⟨⟨_, rfl, by decide +kernel⟩, ⟨_, rfl, by decide +kernel⟩, _, rfl, by decide +kernel⟩
/-- Where a command answers a next state of which something holds, such a state is there. -/
theorem answersNext {P : State → Prop} [DecidablePred P] {o : Host.Outcome State Fault Refusal}
    (h : (match o with | .next b => decide (P b) | _ => false) = true) : ∃ b, o = .next b ∧ P b := by
  cases o with
  | next b => exact ⟨b, rfl, of_decide_eq_true h⟩
  | fault _ => cases h
  | refused _ => cases h
theorem wit_Meet_chain : let p := { pk with typ := tMsg, last := true }
    let s := rxState (fun t => { t with qcfg := [(1, ⟨2, 0, 0x1000, true, 0, 0, 0, 0⟩), (2, ⟨0, 0, 0x2000, true, 0, 0, 0, 0⟩)]
                                        handlers := [(0, ⟨true, 31, 1, 2, 1, 0x3000, 1, 0⟩)], spad := spadWrite t.spad 0x3000 (List.replicate 64 1) }) p
    (∃ x, meetRowOf s (.msgPacketRx 0 [(192, .ue)]) = some x ∧ rangesHit (tileOf s 0) x.rs x.found = []) ∧
      ∃ b, exec (.msgPacketRx 0) s = .next b ∧ rangesHit (tileOf s 0) (chainReads (tileOf s 0) (tileOf b 0)) [(192, .ue)] = [(192, .ue)] :=
  ⟨⟨_, rfl, by decide +kernel⟩, answersNext (by decide +kernel)⟩
/-- A merge buffer of 16 words, the oldest part of a line that holds a valid word. -/
def fullTile (t : Tile) : Tile := { partTile t with spad := (List.range 15).foldl (fun sp i => spadWrite sp (0x2000 + 512 * i) [1]) (partTile t).spad }
theorem wit_Meet_evict : let p := { pk with typ := tWrite, last := true, payload := [1], len := 1, dstAddr := 0x9000 }
    let s := rxState fullTile p
    (∃ x, meetRowOf s (.writePacketRx 0 [(64, .ce 5)]) = some x ∧ rangesHit (tileOf s 0) x.rs x.found = []) ∧
      ∃ b, exec (.writePacketRx 0) s = .next b ∧ rangesHit (tileOf s 0) (chainReads (tileOf s 0) (tileOf b 0)) [(64, .ce 5)] = [] ∧
        evictHits (tileOf s 0) (tileOf b 0) [(64, .ce 5)] = [(64, .ce 5)] := ⟨⟨_, rfl, by decide +kernel⟩, answersNext (by decide +kernel)⟩
theorem wit_Meet_clean : let s := rxState id { pk with typ := tWrite, last := true, payload := [1], len := 1, dstAddr := 0x9000 }
    ∃ b, exec (.writePacketRx 0) s = .next b ∧ evictHits (tileOf s 0) (tileOf b 0) [] = [] ∧ rangesHit (tileOf s 0) (chainReads (tileOf s 0) (tileOf b 0)) [] = [] :=
  answersNext (by decide +kernel)
/-- A scratchpad with one shadow window. -/
def winSpad : Spad := { spadEmpty with win := [⟨true, 0x1000, 0x9000, 0⟩] }
theorem wit_Shadow_lines : shadowWin winSpad 64 ≠ none ∧ shadowWin winSpad 8 = none ∧ winSpad.sqWait = [] ∧ winSpad.sq.length < 128 ∧
    (∃ e ∈ ({ winSpad with sq := [⟨0x1000, 0, []⟩] } : Spad).sq, e.line = 512 * (64 / 8)) ∧
    (let q : Spad := { winSpad with sq := (List.range 128).map fun i => ⟨0x2000 + 512 * i, 0, []⟩ }
     (¬ ∃ e ∈ q.sq, e.line = 512 * (64 / 8)) ∧ 128 ≤ q.sq.length) := by decide +kernel

theorem wit_FunctionCommands : let s := upState z
    Rung s (ch 8) ∧ Rung s (ch 16) ∧ (0xFFFF : Nat) ≤ 0xFFFF ∧ (10000 : Nat) ≤ 10000 ∧ (fnOf s 16).disabled = false ∧ (fnOf s 16).drain = none := by decide +kernel
theorem wit_FunctionDisable_region : let s := upState (regState fun g => { g with owner := 16 })
    regionOf s 0 = some { reg with owner := 16 } ∧ ({ reg with owner := 16 } : Region).running = true := by decide +kernel
/-- A request of a function that needs host DMA, open. -/
def req : Req := { id := 1, opcode := 0x05, tag := 7, status := 1, partMap := 0, partsMinus1 := 0, region := 0xFF, result := leBytes 16 1, finished := false, hostDma := true, seqNo := 0 }
theorem wit_FunctionResets_flr : let s : State := { regState (fun g => { g with owner := 16 }) with fns := [(16, { fnOf z 16 with requests := [req] })] }
    req ∈ (fnOf s 16).requests ∧ req.finished = false ∧ req.hostDma = true ∧ 0 ∈ ownedRegions s 16 := by decide +kernel
theorem wit_FunctionResets_command : let v := { fnOf z 16 with drain := some (0, .command), disableMs := 100, disabled := true }
    let s : State := { z with fns := [(0, { fnOf z 0 with requests := [req] }), (16, v)], now := 200000000 }
    (fnOf s 16).drain = some (0, .command) ∧ 0 + (fnOf s 16).disableMs * 2000000 ≤ s.now ∧ req ∈ (fnOf s 0).requests ∧ req.opcode = 0x05 ∧
      req.result = leBytes 16 1 ∧ req.finished = false := by decide +kernel
theorem wit_FunctionResets_vf : let v := { fnOf z 16 with drain := some (0, .vfReset), disableMs := 100, disabled := true }
    let s : State := { z with fns := [(16, v)], now := 180000000 }
    (fnOf s 16).drain = some (0, .vfReset) ∧ ownedRegions s 16 = [] ∧ 0 + Nat.min (fnOf s 16).disableMs 90 * 2000000 ≤ s.now := by decide +kernel

/-- REGION_CREATE of 2 by 1 tiles at the last corner, and the header of a command about region 0. -/
def rb : RegionBlock := { x0 := 22, y0 := 23, width := 2, height := 1, role := 1, attemptLimit := 4, collQueues := 1, flags := 1, stepTimeoutUs := 0, basinGib := 1, region := 0xFF, jobId := 7 }
def rstat (g : Region) : State := upState (regState fun _ => g)
theorem wit_RegionCreate : let s := upState z
    Rung s (ch 32) ∧ regionFieldsOk rb = true ∧ rb.flags < 2 ∧ createCheck s 0 rb = .inr (0, basinTenant) ∧ 575 ∈ blockLts rb ∧ present s 575 = true := by decide +kernel
theorem wit_RegionCreate_short : let s := rstat reg
    ∃ x, regionFieldsOk { rb with x0 := 0, y0 := 0 } = true ∧ createCheck s 0 { rb with x0 := 0, y0 := 0 } = .inl x := ⟨_, by decide +kernel, rfl⟩
theorem wit_RegionCreate_debug : let s : State := { upState z with idn := { z.idn with debugLevel := 2 } }
    ¬ ({ rb with flags := 15 } : RegionBlock).flags < 2 ∧ regionFieldsOk { rb with flags := 15 } = true ∧ s.idn.debugLevel = 2 := by decide +kernel
theorem wit_OwnRegion : OwnRegion (rstat reg) (ch 0) reg ∧ Rung (rstat reg) (ch 0) := by decide +kernel
theorem wit_ImageWrite : let l : List Byte := List.replicate 512 1
    reg.image = none ∧ reg.switching = false ∧ (2 ^ 30 - 512) % 512 = 0 ∧ 2 ^ 30 - 512 + 512 ≤ reg.basinGib * 2 ^ 30 ∧ l.length = 512 ∧
      (none : Option (List Byte)) ∈ (List.range (15 + 1)).map (fun i => [some l].getD i none) := by decide +kernel
/-- An image whose header is whole. -/
def goodImg : Image := { img with format := 2, basinBytes := 1024, pageMap := [] }
theorem wit_LoadImage : headerBad reg 5 goodImg = false ∧ reg.degraded = false ∧ regionBusy (rstat reg) reg = false ∧ loadChecks (rstat reg) 0 reg goodImg = none := by decide +kernel
theorem wit_LoadImage_short : let im := { goodImg with nodes := [{ node 0 0 with nQueues := 65 }] }
    headerBad reg 0 im = false ∧ (loadChecks (rstat reg) 0 reg im).isSome = true := by decide +kernel
theorem wit_GroupSet_peers : let s := rstat reg
    peersOk s 0 2 0 [⟨9, 0, true, 1⟩] = true ∧ peersOk s 0 2 0 [⟨9, 0, true, 1⟩, ⟨9, 1, true, 1⟩] = false ∧ peersOk s 0 2 0 [⟨9, 0, true, 2⟩] = false ∧
      groupTaken s 0 0 7 2 = false ∧ groupTaken { s with regions := s.regions ++ [(1, { reg with groupId := 7, members := 2 })] } 0 0 7 2 = true := by decide +kernel
theorem wit_GroupSet_ranks : let l : List Peer := [⟨9, 0, true, 1⟩, ⟨10, 0, true, 1⟩]
    l[0]? = some ⟨9, 0, true, 1⟩ ∧ l[1]? = some ⟨10, 0, true, 1⟩ ∧ (9 : Nat) ≠ (rstat reg).idn.deviceId ∧ (10 : Nat) ≠ (rstat reg).idn.deviceId := by decide +kernel
theorem wit_GroupSet_waiting : let s := rstat reg
    let g := { reg with boundary := [⟨.member 7 2 1 [], none, 0⟩] }
    groupTaken { s with regions := s.regions ++ [(1, g)] } 0 0 7 2 = true ∧ ∃ b ∈ g.boundary, ∃ m j l, b.act = .member 7 m j l ∧ 1 < m :=
  ⟨by decide +kernel, _, List.mem_singleton.2 rfl, 2, 1, [], rfl, by decide⟩
theorem wit_GroupSet_castle : let c : Castle := { failed := 0, lt := 0, moves := [(0, 0, 12)], held := [0], done := [], rebuild := [], lost := [] }
    castleHolds { rstat reg with rep := { z.rep with castle := some c } } 0 = true ∧ castleHolds (rstat reg) 0 = false := by decide +kernel
theorem wit_GroupSet : atBoundary reg = false ∧ (let g := { reg with mstate := .idle, rstate := .loaded }
    atBoundary g = true ∧ g.boundary = [] ∧ g.rstate ≠ .running ∧ OwnRegion (rstat g) (ch 32) g) ∧ (255 : Nat) < 256 := by decide +kernel
/-- A loaded region that does not run. -/
def stopped : Region := { reg with image := some goodImg, mstate := .idle, running := false, rstate := .loaded, ctxIds := [3] }
theorem wit_Run : OwnRegion (rstat stopped) (ch 16) stopped ∧ Rung (rstat stopped) (ch 16) ∧ stopped.degraded = false ∧ stopped.image.isSome = true ∧
    stopped.running = false ∧ (rfOf (rstat stopped) 0).reset = none := by decide +kernel
theorem wit_Stop : (∀ c ∈ stopped.ctxIds, (ctxOf (rstat stopped) c).state = 0) ∧
    ∃ c ∈ stopped.ctxIds, (ctxOf { rstat stopped with ctxs := [(3, { ctxReset with state := 4 })] } c).state ≠ 0 := by decide +kernel
theorem wit_JoinShadow : let s : State := { rstat stopped with flc := { z.flc with domains := [(0, BitVec.ofNat 64 0x0001000100010001), (9, BitVec.ofNat 64 0x0002000200020002)] }, fab := { z.fab with t0 := [(9, BitVec.ofNat 32 (2 ^ 31))] } }
    let info : WorkingInfo := ⟨true, true, 5, .generation, 1, false, false⟩
    joinRefusal s 0 stopped 9 info = 0 ∧ joinRefusal s 0 stopped 9 { info with shadowed := true } ≠ 0 := by decide +kernel
theorem wit_Capture : atBoundary reg = false ∧ atBoundary stopped = true := by decide +kernel
def bundle : Bundle := ⟨3, basinCapture, 0, 0, 0, 0, 1, 0, [0], [], true, false, false, 0⟩
theorem wit_CaptureRead : let s : State := { rstat reg with bundles := [bundle] }
    (s.bundles.find? fun b => b.slot == 3 && b.committed) = some bundle ∧ bundle.region = (ch 32).region ∧ 128 + 64 = bundleTotal s bundle ∧
      128 + 63 < bundleTotal s bundle := by decide +kernel
theorem wit_Admit : OwnRegion (rstat stopped) (ch 128) stopped ∧ stopped.role ≠ .cache ∧ stopped.image.isSome = true := by decide +kernel
theorem wit_Query : let s : State := { rstat stopped with idn := { z.idn with compat := true }, fns := [(0, { fnOf z 0 with ready := true, requests := [req], backlog := [[1]] })] }
    Rung s (ch 32) ∧ findReq (fnOf s 0) 1 = some { req with status := 1 } ∧ findReq (fnOf s 0) 2 = none ∧ s.idn.compat = true ∧
      (fnOf s 0).backlog = [1] :: [] ∧ inRect stopped 1 = true ∧ inRect stopped 2 = false := by decide +kernel
theorem wit_Query_sequences : (List.replicate 122 (9 : Nat)).length ≤ 122 ∧ Rung (rstat stopped) (ch (32 + 8 * 122)) ∧ (rstat stopped).idn.compat = false := by decide +kernel
theorem wit_Completion : let q := { req with finished := true }
    let v := { fnOf z 0 with requests := [q], evqEn := true, bme := true, evqSize := 4 }
    let s : State := { z with fns := [(0, v)] }
    (fnOf s 0).requests.find? (fun q => q.id == 1) = some q ∧ q.finished = true ∧ (fnOf s 0).drain = none ∧ s.idn.compat = false ∧
      (fnOf s 0).backlog = [] ∧ ringRoom (fnOf s 0) = true ∧ ringRoom (fnOf z 0) = false ∧ (fnOf z 0).backlog.length < 1024 := by decide +kernel

theorem wit_Settings : let b : DomainsBlock := ⟨0, none, 0xFF, 15, 255, 100000000⟩
    Rung (upState z) (ch 16) ∧ domainsOk b = true ∧ b.hostAddr = 0 ∧ domainsOk { b with hostAddr := 64, table := some [(9, 1)] } = true ∧
      domainsOk { b with hostAddr := 64 } = true := by decide +kernel
theorem wit_FabricRoutes : ∀ e ∈ ([(4095, BitVec.ofNat 32 (2 ^ 31 + 11 * 2 ^ 26 + 2 ^ 25)), (0, 0)] : List (Nat × BitVec 32)), e.1 < 4096 ∧
    (frValid e.2 = false ∨ frLocal e.2 = true ∨ ∀ p ∈ frPrimary e.2 :: frPorts e.2, pEn (portOf (updPort z 11 fun p => { p with ctl := portCtlReset + 2 ^ 31 }) p) = true) := by decide +kernel
theorem wit_Settings_bad : domainsOk ⟨0, none, 3, 0, 0, 0⟩ = false ∧ domainsOk ⟨0, none, 0, 1, 0, 0⟩ = false ∧
    (∃ e ∈ ([(9, BitVec.ofNat 32 (2 ^ 31 + 3 * 2 ^ 26 + 2 ^ 17))] : List (Nat × BitVec 32)), 4096 ≤ e.1 ∨
      (frValid e.2 = true ∧ frLocal e.2 = false ∧ ∃ p ∈ frPrimary e.2 :: frPorts e.2, pEn (portOf z p) = false)) ∧
    Rung (upState z) { ch 32 with func := 16 } ∧ ({ ch 32 with func := 16 } : CmdHdr).func ≠ 0 := by
  refine ⟨by decide, by decide, ⟨_, List.mem_singleton.2 rfl, .inr ⟨by decide, by decide, 3, by decide, by decide⟩⟩, by decide +kernel, by decide⟩
theorem wit_Telemetry : Rung (upState z) (ch 32) ∧ (ch 32).func = 0 := by decide +kernel
theorem wit_Firmware : let s := upState z
    Rung s (ch 32) ∧ imageOk s imageReset = true ∧ imageOk s { imageReset with sigOk := false } = false ∧ s.sec.wrote = false ∧ runningConfirmed s = true ∧
      slotImage s s.idn.fwSlot = some imageReset := by decide +kernel
theorem wit_Firmware_prefer : let s : State := { upState z with sec := { z.sec with wrote := true, sel0 := some ⟨4, 0, 0, false⟩ } }
    s.sec.wrote = true ∧ selInUse s = some (0, ⟨4, 0, 0, false⟩) ∧ runningConfirmed s = false := by decide +kernel
/-- The control firmware runs, and a challenge is in force. -/
def unlockState : State := { upState z with
  sec := { z.sec with booted := true, challenge := some (5, 0) }
  pwr := { z.pwr with railsUp := true, pwrOk := true, perstN := true } }
def tok (k : Nat) : Token := ⟨k, unlockState.idn.serial, 5, 0, true⟩
theorem wit_Unlock : UnlockOpen unlockState (.mailbox (ch 256)) ∧ UnlockOpen unlockState .jtag := by
  unfold UnlockOpen
  decide +kernel
theorem wit_Unlock_token : tokenOk unlockState (tok 1) = true ∧ tokenOk unlockState (tok 0) = false ∧ unlockState.idn.debugLevel < 1 ∧ unlockState.regions = [] ∧
    unlockState.sec.blockedTo ≤ unlockState.now ∧ unlockState.idn.lifecycle < 2 := by decide +kernel
theorem wit_Unlock_lower : ({ unlockState with idn := { unlockState.idn with debugLevel := 2 } } : State).idn.debugLevel = 2 := rfl
theorem wit_Attestation : fwUp unlockState = true ∧ unlockState.sec.spdmState = 0 ∧ unlockState.sec.aliasHeld = false ∧
    (let s : State := { unlockState with sec := { unlockState.sec with spdmState := 3, aliasHeld := true } }
     fwUp s = true ∧ 3 ≤ s.sec.spdmState ∧ s.sec.aliasHeld = true) := by decide +kernel
theorem wit_Attestation_pldm : unlockState.flt.state = 5 ∧ unlockState.recorder.board = [] := by decide +kernel
theorem wit_Attestation_jtag : z.pwr.off = false ∧ z.idn.debugLevel = 0 ∧ spadEnd - 64 + 64 ≤ spadEnd := by decide +kernel

theorem wit_RegisterWrites : z.idn.compat = false ∧ [4, 8, 16, 32, 64].all (fun n => (0x400 - n) % n == 0) = true ∧ (16 : Nat) < 17 ∧
    (fnOf z 16).busy = false ∧ (fnOf z 16).ready = false ∧ z.pwr.doze = false ∧ bitOf (2 ^ 31) 31 = true ∧ (fnOf z 16).evqEn = false ∧ (2 ^ 32 - 1 : Nat) < 2 ^ 32 ∧
    (fnOf z 16).w1c = [] ∧ inBar 16 0x844 = true := by decide +kernel
theorem wit_RegisterWrites_busy : (fnOf { z with fns := [(16, { fnOf z 16 with busy := true, evqEn := true })] } 16).busy = true ∧
    (fnOf { z with fns := [(16, { fnOf z 16 with busy := true, evqEn := true })] } 16).evqEn = true := by decide +kernel
theorem wit_RegisterWrites_unmask : let v := { fnOf z 16 with intMask := 31, intCause := 16, bme := true, intVec := 111 }
    bitOf v.intMask 4 = true ∧ bitOf 15 4 = false ∧ bitOf v.intCause 4 = true ∧ v.bme = true ∧ v.d3 = false ∧ causeVector false v 4 < vectorsOf 16 ∧
      (memRd { v with msix := memWrL v.msix (16 * 111 + 12) [0] }.msix (16 * causeVector false v 4 + 12)).toNat % 2 = 0 := by decide +kernel
theorem wit_RegisterWrites_edges : 0x20FC % 4 = 0 ∧ 0x20FC < 0x2100 ∧ 0x7FF < 0x800 ∧ ([0, 0] : List Byte).length = 2 := by decide
theorem wit_RegisterEffects_enable : ∀ k ∈ [6, 16], let w := BitVec.ofNat 32 (2 ^ 31 + k)
    (fnOf z 16).evqEn = false ∧ bitOf w.toNat 31 = true ∧ 6 ≤ fld w.toNat 0 5 ∧ fld w.toNat 0 5 ≤ 16 ∧ (fnOf z 16).backlog = [] ∧ (fnOf z 16).alarms = [] ∧
      ownedRegions z 16 = [] := by decide +kernel
theorem wit_RegisterEffects_sizes : fld (BitVec.ofNat 32 (2 ^ 31 + 5)).toNat 0 5 < 6 ∧ 16 < fld (BitVec.ofNat 32 (2 ^ 31 + 17)).toNat 0 5 ∧
    bitOf (BitVec.ofNat 32 6).toNat 31 = false := by decide +kernel
theorem wit_RegisterEffects_backlog : let v := { fnOf z 16 with backlog := [[1]], evqEn := true, bme := true, evqSize := 6 }
    v.backlog = [1] :: [] ∧ ringRoom { v with evqHead := 0 % 2 ^ 17 } = true := by decide +kernel
theorem wit_RegisterEffects_timer : let s : State := { z with fns := [(16, { fnOf z 16 with unsig := 1, intMod := 1 })], now := 2000 }
    (fnOf s 16).unsig ≠ 0 ∧ (fnOf s 16).unsigAt + fld (fnOf s 16).intMod 0 16 * 2000 ≤ s.now := by decide +kernel
theorem wit_RegisterEffects_reset : powered (upState z) = true ∧ (upState z).pwr.resetPend = none ∧ (0xD1CF : Nat) ≠ 0xD1CE := by decide +kernel
theorem wit_RegisterEffects_pending : let v := { fnOf z 0 with pba := [255], msix := memWrL [] (16 * 255 + 12) [0], bme := true }
    255 ∈ v.pba ∧ v.d3 = false ∧ v.bme = true ∧ (memRd v.msix (16 * 255 + 12)).toNat % 2 = 0 := by decide +kernel

/-- A virtual-instance reset that was asked for at cycle 0. -/
def inst (begun old : Option Nat) (capturing : Bool) : InstReset := ⟨[(0, 1)], 0, begun, 3, capturing, old⟩
def instState (x : InstReset) (g : Region) : State := { regState (fun _ => g) with rf := [(0, { regFaultReset with reset := some x })] }
theorem wit_InstanceReset_start : let x := inst none none false
    regionOf (instState x reg) 0 = some reg ∧ (rfOf (instState x reg) 0).reset = some x ∧ x.begun = none ∧ (rfOf (instState x reg) 0).lastReset = none ∧
      0 ∉ (instState x reg).rep.held ∧ atBoundary reg = false ∧ (inst (some 0) none true).begun ≠ none := by decide +kernel
theorem wit_InstanceReset_capture : let x := inst (some 0) none true
    let s := instState x reg
    x.capturing = true ∧ x.begun = some 0 ∧ ((regionTiles s reg).map (posOf s)).Nodup ∧ s.now < 0 + cyclesPerMs ∧
      0 + cyclesPerMs ≤ { s with now := cyclesPerMs }.now ∧ x.slot = 3 := by decide +kernel
theorem wit_InstanceReset_drained : let x := inst (some 0) (some 5) false
    let s := instState x reg
    x.capturing = false ∧ x.old = some 5 ∧ drained s 0 reg = true ∧ (∀ e ∈ s.regions, ∀ q ∈ x.reqs, e.2.runReq ≠ some q) ∧ atBoundary reg = false := by decide +kernel
theorem wit_InstanceReset_stuck : let x := inst (some 0) (some 5) false
    let s : State := { updRouter (instState x reg) 623 (fun r => { r with bufs := [(0, [{ pk with region := 0, gen := 7 }])] }) with now := 5 + 2 * cyclesPerMs }
    drained s 0 reg = false ∧ 5 + 2 * cyclesPerMs ≤ s.now ∧ ∃ lt ∈ regionTiles s reg, dieOfLt s lt = dieOfPos 0 := by decide +kernel
theorem wit_InstanceReset_none : (rfOf z 16).reset = none := by decide +kernel

theorem wit_Heartbeats : fwAlive { z with now := 10 * cyclesPerMs } = false ∧ fwAlive { z with now := 10 * cyclesPerMs - 1 } = true := by decide +kernel
theorem wit_Heartbeats_host : let s : State := { regState (fun g => { g with owner := 16 }) with fns := [(16, { fnOf z 16 with beatMs := 1, beatStop := true })], now := cyclesPerMs }
    (fnOf s 16).beatMs ≠ 0 ∧ (fnOf s 16).beatAt + (fnOf s 16).beatMs * cyclesPerMs ≤ s.now ∧ (fnOf s 16).beatStop = true ∧
      (0, { reg with owner := 16 }) ∈ s.regions ∧ (fnOf z 16).beatMs = 0 := by decide +kernel
theorem wit_Heartbeats_cores : z.pwr.coreRestart = none ∧ (3 : Nat) < 4 ∧
    (let s : State := { z with pwr := { z.pwr with coreRestart := some 0 }, now := 50 * cyclesPerMs }
     s.pwr.coreRestart = some 0 ∧ 0 + 50 * cyclesPerMs ≤ s.now) := by decide +kernel
theorem wit_Heartbeats_mc : 5 * cyclesPerMs ≤ 5 * cyclesPerMs - z.fab.beatAt ∧ z.now - z.fab.beatAt < 5 * cyclesPerMs := by decide +kernel

/-- Tile 0 of the region, with a fired MATMUL that does not end. -/
def hung : Fired := { fid := 0, q := 63, idx := 7, desc := 0, status := stOk, detail := 0, outAddr := 0, bytes := 0, arith := 0, parts := 1
                      partFail := [], openParts := [], ins := [], out := none, comp := none, noArrive := false, closing := false, stage := 0, firedAt := 0 }
def hungState (now : Nat) : State := { updTile (regState id) 0 (fun t => { t with region := 0, fired := [hung] }) with now := now }
theorem wit_Watchdogs : (∃ b, blockedOf (hungState 0) 0 63 = some b) ∧ regionOf (hungState 0) (tileOf (hungState 0) 0).region = some reg ∧ inStep reg = true ∧
    (let s := hungState (25000 * cyclesPerUs)
     (queueOf (tileOf s 0) 63).since + reg.timeoutUs * cyclesPerUs / 2 ≤ s.now ∧ (0, 63) ∉ (rfOf s (tileOf s 0).region).stalls) ∧
    hungIn (hungState (100 * cyclesPerUs)) 0 63 = some hung ∧ hungIn (hungState (100 * cyclesPerUs - 1)) 0 63 = none :=
  ⟨⟨_, rfl⟩, by decide +kernel⟩
theorem wit_Watchdogs_told : let s : State := { hungState 0 with rf := [(0, { regFaultReset with stalls := [(0, 63)] })] }
    (0, 63) ∈ (rfOf s (tileOf s 0).region).stalls := by decide +kernel

theorem wit_Digests_blame : let s : State := { (regState fun _ => { reg with peers := [⟨9, 4, true, 1⟩] }) with flc := { z.flc with classify := 0 } }
    s.flc.classify = 0 ∧ (regionOf s (blamedRegion s 9 3 31)).isSome = true := by decide +kernel
/-- A region with one node, its walk under way, and its reference digest right or wrong. -/
def walkReg : Region := { reg with mstate := .committed, image := some img, loadedMap := [(0, 0)], peers := [⟨9, 4, true, 1⟩] }
def walkState (walk : Option Nat) (refs : List (BitVec 64)) : State := { regState (fun _ => walkReg) with rf := [(0, { regFaultReset with walk, refDigests := refs, sinceWalk := 10000 })] }
def rightDigest : BitVec 64 := nodeDigest (regState fun _ => walkReg) 0 (node 0 0)
theorem wit_Digests_walk : atBoundary walkReg = true ∧ walkReg.image.isSome = true ∧ (rfOf (walkState none []) 0).walk = none ∧
    (walkState none []).flc.digestSteps ≤ (rfOf (walkState none []) 0).sinceWalk ∧ regionOf (walkState none []) 0 = some walkReg ∧ atBoundary reg = false := by decide +kernel
theorem wit_Digests_good : let s := walkState (some 4) [rightDigest]
    (rfOf s 0).walk = some 4 ∧ ∀ x ∈ nodesOf img, (rfOf s 0).refDigests[x.1]? = some (nodeDigest s (sget 0x3FF walkReg.loadedMap x.1) x.2) := by decide +kernel
theorem wit_Digests_bad : let s := walkState (some 4) [rightDigest + 1]
    ∃ x ∈ nodesOf img, (rfOf s 0).refDigests[x.1]? ≠ some (nodeDigest s (sget 0x3FF walkReg.loadedMap x.1) x.2) := by decide +kernel
theorem wit_Digests_report : let s : State := { regState (fun _ => walkReg) with rf := [(0, { regFaultReset with ownDigest := some 5 })] }
    (∃ im, walkReg.image = some im ∧ im.imageId = 5) ∧ walkReg.rank = 0 ∧ (rfOf s 0).ownOk = true ∧ (∃ d, (rfOf s 0).ownDigest = some d ∧ d ≠ 6) ∧
      (rfOf s 0).ownDigest = some 5 := ⟨⟨img, by decide +kernel⟩, by decide +kernel, by decide +kernel, ⟨5, by decide +kernel⟩, by decide +kernel⟩

/-- Region 0 is a shadow in some state. -/
def shState (sh : Shadow) (g : Region) : State := { regState (fun _ => g) with rf := [(0, { regFaultReset with shadow := some sh })] }
def sh (st : SState) : Shadow := ⟨st, 9, 4, 10, 9, 5, [], [], none, false, 0⟩
theorem wit_Shadow_sync : let g := { reg with mstate := .committed, ctxIds := [3] }
    (rfOf (shState (sh .sync) g) 0).shadow = some (sh .sync) ∧ (sh .sync).state = .sync ∧ atBoundary g = true ∧
      ([(0, [1]), (1, [2, 3])] : List (Nat × List Byte)).Pairwise (fun a b => a.1 + a.2.length ≤ b.1 ∨ b.1 + b.2.length ≤ a.1) ∧
      g.ctxIds[0]? = some 3 ∧ (listRun (shState (sh .sync) g) 2).1 = some 0 ∧ (sh .comparing).state ≠ .sync := by decide +kernel
theorem wit_Shadow_digest : let g := { reg with step := 6, mstate := .readySent }
    let s := shState (sh .comparing) g
    regionOf s 0 = some g ∧ g.step = 6 ∧ g.mstate = .readySent ∧ (sh .comparing).compareSteps ≤ (sh .comparing).compared + 1 ∧
      ({ sh .comparing with compared := 8 } : Shadow).compared + 1 < (sh .comparing).compareSteps ∧ stepDigest s g = stepDigest s g ∧
      stepDigest s g + 1 ≠ stepDigest s g ∧ 5 < g.step := by decide +kernel
theorem wit_Shadow_later : let g := { reg with step := 6 }
    g.step ≤ 6 ∧ g.mstate ≠ .readySent ∧ (rfOf (shState (sh .qualified) g) 0).shadow = some (sh .qualified) := by decide +kernel
theorem wit_Shadow_states : (sh .qualified).state = .qualified ∧ (sh .detached).state ≠ .comparing ∧ (sh .detached).state ≠ .qualified ∧
    openStep reg = true ∧ reg.step ≤ 0 ∧ inStep reg = true := by decide +kernel
theorem wit_Shadow_member : reg.rank = 0 ∧ isShadow (regState id) 0 = false ∧ reg.rank ≠ 1 ∧ isShadow (shState (sh .sync) reg) 0 = true := by decide +kernel
theorem wit_Shadow_promote : let b : BEntry := ⟨.promote 1 9 4 3, none, 0⟩
    let g := { reg with mstate := .committed, boundary := [b], lastCommitted := some 3, peers := [⟨8, 2, true, 1⟩] }
    regionOf (regState fun _ => g) 0 = some g ∧ nextPromote g = some (b, 1, 9, 4, 3) ∧ boundaryFree (regState fun _ => g) 0 g 6 = true ∧ lastStep g = 3 ∧
      (lastStep { g with lastCommitted := none } ≠ 3 ∧ g.rstate = .running) ∧ boundaryFree (regState fun _ => g) 0 { g with mstate := .running } 6 = false := by decide +kernel
theorem wit_Shadow_noPromote : ∀ e ∈ reg.boundary, ∀ k d x l, e.act ≠ .promote k d x l := fun e h => by cases h

/-- An occurrence of a code. -/
def occ (code : Nat) : Occurrence := ⟨code, 0xFF, 0x3FF, 0xFF, 0xFF, 0, 0xFF, 0xFF, 0, []⟩
theorem wit_Recorder : z.recorder.buffer.length < 65536 ∧ codeClass 0x0705 = some 2 ∧ foldTarget z (occ 0x0705) = none ∧ (floodCount z (occ 0x0705)).2 = false ∧
    codeClass 0x0005 = some 0 ∧ codeClass 0x0006 = none := by decide +kernel
theorem wit_Recorder_fold : let e := recordOf z 2 (occ 0x0705)
    let s : State := { z with recorder := { z.recorder with buffer := [e], cache := [e.seq] } }
    foldTarget s (occ 0x0705) = some e ∧ (s.recorder.buffer.filter fun e => !e.flushed).length < 4096 := by decide +kernel
theorem wit_Recorder_flood : let f : Flood := ⟨0x0705, 0, 64, true, List.replicate 8 0, 0, some (occ 0x0705)⟩
    let s : State := { z with recorder := { z.recorder with floods := [f] }, now := 2000000000 }
    s.recorder.floods = [f] ∧ f.flooding = true ∧ f.first / 2000000000 < s.now / 2000000000 ∧ f.occ = some (occ 0x0705) := by decide +kernel
theorem wit_Recorder_extreme : let x : Extreme := ⟨1, 0, 5, 0, 0, true⟩
    let s : State := { z with recorder := { z.recorder with extremes := [x] }, now := 120000000000 }
    s.recorder.extremes = [x] ∧ x.changed = true ∧ s.recorder.floods = [] ∧ s.recorder.extremeAt + s.recorder.extremeSecs * 2000000000 ≤ s.now := by decide +kernel
theorem wit_Recorder_alarms : let s : State := { z with fns := [(16, { fnOf z 16 with alarmDrop := [0, 0, 1, 0] })] }
    (fnOf s 16).alarms.length ≤ 240 ∧
      ∃ n ∈ (List.range 4).map fun c => (fnOf s 16).alarmDrop.getD c 0 - (fnOf s 16).alarmReported.getD c 0, n ≠ 0 := by decide +kernel

/-- The device in a state of FLT_STATE, or with a self-test run under way. -/
def fltState (k : Nat) : State := { z with flt := { z.flt with state := k } }
def trun (kind : Nat) (dies : List Nat) : TestRun := ⟨kind, 0, 0, 1100, 750, 0, dies, 0, 0, 0, 0, 0, [], []⟩
def runTest (r : TestRun) (retried : Bool) : State := { fltState 3 with rep := { z.rep with run := some r, retried } }
def failedPos : PosResult := ⟨0, true, false, 0, 0, []⟩
theorem wit_Start : (fltState 2).flt.state = 2 ∧ z.rep.cleanStart = false ∧ z.flt.state ≠ 2 ∧ z.rep.run = none := by decide +kernel
theorem wit_Start_clean : let s : State := { fltState 2 with rep := { z.rep with cleanStart := true } }
    s.flt.state = 2 ∧ s.rep.cleanStart = true := by decide +kernel
theorem wit_SelfTest : (runTest (trun 1 []) false).rep.run = some (trun 1 []) ∧ (trun 1 []).diesDone = [] ∧ (trun 1 [0, 1]).diesDone = [0, 1] ∧
    positionFails failedPos = true ∧ dieOfPos failedPos.pos < 2 ∧ (trun 1 [0, 1]).diesDone.length / 2 = 1 ∧ (1200 : Nat) < 1201 ∧
    (runTest (trun 1 []) true).rep.retried = true ∧ (runTest (trun 0 [0, 1]) false).rep.run = some (trun 0 [0, 1]) := by decide +kernel
theorem wit_Zeroize : let s := runTest (trun 1 []) false
    dieOfPos 623 ∉ s.rep.zeroized ∧ 623 ∉ s.rep.failed := by decide +kernel
def dueReset (cause : ResetCause) (now : Nat) : State := { fltState 5 with pwr := { z.pwr with resetPend := some (cause, 10) }, now := now }
theorem wit_Reset_due : (dueReset .perst 10).pwr.resetPend = some (.perst, 10) ∧ 10 ≤ (dueReset .perst 10).now ∧ (dueReset .perst 10).silt.txns = [] ∧
    (dueReset .perst 10).pwr.perstN = false ∧ (dueReset .watchdog 9).now < 10 := by decide +kernel
def busyTxn : STxn := { no := 8, ns := 0, issuer := none, region := 0, step := 0, attempt := 0, stage := .journal, units := [] }
theorem wit_Reset_waits : let s : State := { dueReset .perst 10 with silt := { z.silt with txns := [busyTxn] } }
    s.silt.txns ≠ [] ∧ 10 ≤ s.now := by decide +kernel
theorem wit_Reset_die : 623 ∈ diePositions 3 ∧ 11 / 3 = 3 := by decide +kernel
theorem wit_Ready : (∀ f, f < 17 → (fnOf (fltState 4) f).busy = false ∧ (fnOf (fltState 4) f).locked = none) ∧ (fltState 4).flt.state = 4 ∧
    portsSettled (fltState 4) = true ∧ (fltState 5).flt.state ≠ 4 := by decide +kernel
theorem wit_Ready_core : let s : State := { fltState 5 with pwr := { z.pwr with coreRestart := some 0 }, now := 50 * cyclesPerMs - 1 }
    s.pwr.coreRestart = some 0 ∧ s.now < 0 + 50 * cyclesPerMs ∧ s.flt.state = 5 := by decide +kernel
theorem wit_Shutdown : let s : State := { fltState 5 with fns := [(0, { fnOf z 0 with d3 := true })] }
    (fnOf s 0).d3 = true ∧ s.rep.run = none ∧ s.pwr.p3 = false ∧ shutdownReady s = true ∧ shutdownReady { s with regions := [(0, reg)] } = false := by decide +kernel

theorem wit_Pins_assert : powered z = false ∧ powered (fltState 5) = true ∧ (fltState 5).pwr.powerFail = false ∧
    (let s : State := { fltState 5 with pwr := { z.pwr with powerFail := true }, silt := { z.silt with txns := [busyTxn] } }
     powered s = true ∧ s.pwr.powerFail = true ∧ s.silt.txns ≠ []) := by decide +kernel
theorem wit_Pins_held : z.pwr.perstN = false ∧ z.pwr.pwrOk = false ∧ z.pwr.off = false := by decide +kernel
theorem wit_Pins_start : let s : State := { z with pwr := { z.pwr with pwrOk := true } }
    s.pwr.perstN = false ∧ s.pwr.pwrOk = true ∧ s.pwr.powerFail = false ∧ s.flt.state = 0 ∧ s.pwr.coreRef = true ∧ s.pwr.pkgTestN = true ∧
      slotOk s ((selInUse s).elim 0 (·.2.preferred) % 2) = true ∧ selInUse s = none := by decide +kernel
theorem wit_Pins_fail : z.pwr.off = false ∧ z.pwr.powerFail = false ∧ z.silt.txns = [] ∧ (200 : Nat) ≤ 999 ∧ (999 : Nat) < 1000 ∧ (199 : Nat) < 200 := by decide +kernel
theorem wit_Pins_release : let s : State := { fltState 5 with pwr := { z.pwr with powerFail := true, pwrOk := true } }
    s.pwr.powerFail = true ∧ powered s = true ∧ s.flt.state ≠ 7 ∧ s.flt.state ≠ 8 ∧ s.pwr.pwrOk = true ∧ s.silt.txns = [] ∧
      powered { z with pwr := { z.pwr with powerFail := true } } = false := by decide +kernel

theorem wit_P1 : let g := { reg with mstate := .committed, held := true }
    let s : State := { regState (fun _ => g) with now := 20000 }
    regionOf s 0 = some g ∧ atBoundary g = true ∧ g.held = true ∧ g.idleAt + 20000 ≤ s.now ∧ 0 ∉ s.pwr.p1 ∧ atBoundary reg = false ∧
      0 ∈ ({ s with pwr := { s.pwr with p1 := [0] } } : State).pwr.p1 := by decide +kernel
theorem wit_P2 : let s : State := { fltState 5 with now := 200000000 }
    s.pwr.doze = false ∧ s.flt.state = 5 ∧ s.rep.run = none ∧ s.pwr.busyAt + 200000000 ≤ s.now ∧ (∀ e ∈ s.regions, e.2.running = false) ∧
      (∀ f, f < 17 → ∀ q ∈ (fnOf s f).requests, q.finished = true) ∧ reg.running = true := by decide +kernel
theorem wit_P2_doze : ({ z with pwr := { z.pwr with doze := true } } : State).pwr.doze = true := rfl
theorem wit_Clocks : powered (fltState 5) = true ∧ (fltState 5).pwr.off = false ∧ (fltState 5).flt.state ≠ 7 ∧
    (let s := updPort z 11 fun p => { p with state := 8 }
     3 ≤ (portOf s 11).state ∧ (portOf s 11).state ≤ 8 ∧ (portOf s 11).state ≠ 7) ∧
    (regOf { z with now := 20000000 } 15).silent = false ∧ (regOf z 15).at_ + 20000000 ≤ 20000000 ∧
    (let s : State := { z with pwr := { z.pwr with p3 := true, expected := [11] } }
     s.pwr.p3 = true ∧ 11 ∈ s.pwr.expected) ∧ z.pwr.p3 = false ∧ ({ z with pwr := { z.pwr with off := true } } : State).pwr.off = true := by decide +kernel

/-- Samples that bring each rule of the throttle, from a state whose filters have settled. -/
def smp (ma mv : Nat) : WhSample := ⟨List.replicate 4 mv, List.replicate 4 ma, List.replicate 64 500, List.replicate 12 1000⟩
def settled (p : Int) : Filt := ⟨[p, p, p], ⟨p, 0⟩⟩
def whState (fast : Int) (calm : Nat) : State := { fltState 5 with pwr := { z.pwr with fast := settled fast, calm := calm, vdd := List.replicate 4 (settled 850) } }
theorem wit_Wellhead_rules : (throttleRule (takeSample (whState 940000000 0) (smp 300000 850))).1 = 1 ∧
    (throttleRule (takeSample (whState 0 9) (smp 1000 850))).1 = 5 ∧ (throttleRule (takeSample (whState 0 0) (smp 1000 850))).1 = 0 := by decide +kernel
theorem wit_Wellhead_hot : let s : State := { fltState 5 with pwr := { z.pwr with temps := List.replicate 64 (settled 1150), hot := List.replicate 64 2 } }
    s.rep.run = none ∧ s.flt.state ≠ 7 ∧ s.flt.state ≠ 8 ∧ (hotCounts s).any (3 ≤ ·) = true := by decide +kernel
theorem wit_Dvfs_cap : let s : State := { fltState 5 with pwr := { z.pwr with capLog := List.replicate 100000 true } }
    (clockOf s 3).pend = none ∧ 900 < (clockOf s 3).mhz ∧ (clockOf { s with pwr := { s.pwr with dies := [(3, { dieClockReset with mhz := 900 })] } } 3).mhz = 900 ∧
      (clockOf s 3).capFloor = none := by decide +kernel
theorem wit_Wellhead_limits : let s : State := { fltState 5 with pwr := { z.pwr with bucket := ⟨0, 0⟩, railsUp := true } }
    (throttleRule { s with pwr := { s.pwr with fast := settled 0, vdd := [settled 800] } }).1 = 2 ∧
      (throttleRule { s with pwr := { s.pwr with fast := settled 851000000 } }).1 = 3 ∧
      (throttleRule { s with pwr := { s.pwr with temps := [settled 1001] } }).1 = 4 := by decide +kernel
theorem wit_Dvfs_held : capHeld { z with pwr := { z.pwr with capLog := List.replicate 5001 true } } = true := by
  show decide (5000 < (List.replicate 5001 true).count true) = true
  rw [List.count_replicate_self]
  rfl
theorem wit_Dvfs_raise : let s : State := { fltState 5 with pwr := { z.pwr with dies := [(3, { dieClockReset with mhz := 1699 })], quietFrom := some 0 }, now := 2000000000 }
    (clockOf s 3).pend = none ∧ (clockOf s 3).mhz < 1700 ∧ (clockOf s 3).stepAt + 2000000000 ≤ s.now ∧
      (∃ q, s.pwr.quietFrom = some q ∧ q + 2000000000 ≤ s.now) := ⟨by decide +kernel, by decide +kernel, by decide +kernel, ⟨0, by decide +kernel⟩⟩
theorem wit_Dvfs_change : let g := { reg with mstate := .committed }
    let s : State := { regState (fun _ => g) with pwr := { z.pwr with dies := [(0, { dieClockReset with pend := some 900 })] } }
    (clockOf s 0).pend = some 900 ∧ regionsOnDie s 0 = [0] ∧ regionOf s 0 = some g ∧ boundaryUpTo g 12 = true := by decide +kernel
theorem wit_Scrubbers : let h : Heartbeat := ⟨(Config.scrubCrc false).toNat, 1, false, true⟩
    z.pwr.doze = false ∧ (tileAtPos z 623).clockGated = false ∧ (tileAtPos z 623).heldReset = false ∧ h.crc = (Config.scrubCrc false).toNat ∧
      h.progress ≠ (sget watchReset z.pwr.watches 623).progress ∧ h.alive ≠ (sget watchReset z.pwr.watches 623).alive ∧ h.disagree = false :=
  ⟨by decide, by decide, by decide, rfl, by decide, by decide, rfl⟩
theorem wit_Seconds : z.pwr.storedAt + 120000000000 ≤ 120000000000 ∧ z.now < z.pwr.storedAt + 120000000000 := by decide +kernel
theorem wit_Emergency : let s : State := { fltState 8 with pwr := { z.pwr with clearFrom := some 0 }, now := 2000000000 }
    s.flt.state = 8 ∧ s.pwr.clearFrom = some 0 ∧ 0 + 2000000000 ≤ s.now := by decide +kernel

/-! ## Single steps and worked values of the manual -/

/-- The published check value, over the nine bytes of 123456789, of the CRC-64 that R237 gives: ECMA-182's polynomial, all ones at the start,
most significant bit first. -/
theorem test_crc64 : crc64 ((List.range 9).map fun i => BitVec.ofNat 8 (0x31 + i)) = 0x62EC59E3F1A4F00A := by decide +kernel
theorem test_bank : bankOf 0x01234A40 = 13 := by decide +kernel
theorem test_tile353 : posOf z 353 = 26 * 14 + 18 ∧ dieOfPos (posOf z 353) = 3 := by decide +kernel
theorem test_nop_answer : (match exec (.nop (ch 0)) (upState z) with | .next t => (fnOf t 0).lastSeq == 1 && (fnOf t 0).done | _ => false) = true := by decide +kernel
theorem test_nop_length : (match exec (.nop (ch 4)) (upState z) with | .next t => ((fnOf t 0).resp.getD 0 0).toNat | _ => 99) ≠ 0 := by decide +kernel
/-- An uncorrectable word under a MATMUL clears the tile, and a correctable one is counted and leaves it running. -/
theorem test_matmul_ue : (match exec (.matmul 0 0 [(128, .ue)]) matState with | .next t => (tileOf t 0).queues == [] && (tileOf t 0).spad.valid == [] | _ => false) = true := by
  decide +kernel
theorem test_matmul_ce : (match exec (.matmul 0 0 [(128, .ce 5)]) matState with | .next t => (tileOf t 0).ceTile | _ => 0) = 1 := by decide +kernel
theorem test_unknown_unit : exec (.writePacketRx 576) z = .fault .noSuchUnit := rfl
theorem test_idle : (match step z with | .next t => t == { z with now := 1 } | _ => false) = true := by decide +kernel
theorem wit_Start_pages : let pg : ParamPage := ⟨16384, 1792, true, 2000, 400, 15000, true, false, 1024, 3000, false, 2, 4096⟩
    (127 : Nat) < 128 ∧ pageOk pg = true ∧ pg.retry = false ∧ pageOk { pg with spareBytes := 1791 } = false ∧ pageOk { pg with retry := true } = true := by decide
theorem wit_Start_nand : let n : SiltStart := { factoryBad := [512], unread := [7], samples := [] }
    keyChan 512 ∈ usableChans z.silt ∧ bitOf z.silt.scanned (keyChan 512) = false ∧ n.unread = [7] ∧
      (let s : State := { z with silt := { z.silt with journal := [⟨6, 0, [], []⟩, ⟨7, 0, [], []⟩] } }
       ∃ r ∈ s.silt.journal, r.txn ∈ n.unread) := ⟨by decide +kernel, by decide +kernel, rfl, ⟨7, 0, [], []⟩, by decide +kernel, by decide +kernel⟩

end Sys2Proof.Tests
end

section
/-! Proof of the statement on positions and dies (R4, R7): the die of a position, the columns that hold no logical tile while
no spare is consumed, the spare position of a row, and the map after reset. -/

namespace Sys2Proof.Machine

/-- `dieOfPos` in the coordinates of R4. -/
theorem dieOfPos_coords {px : Nat} (hx : px < 26) (py : Nat) :
    dieOfPos (26 * py + px) = (if 13 ≤ px then 1 else 0) + (if 12 ≤ py then 2 else 0) := by
  have hcol : (26 * py + px) % 26 = px := by omega
  have hrow : (26 * py + px) / 26 = py := by omega
  simp only [dieOfPos, hcol, hrow, ← Nat.not_lt, ite_not]

/-- `defaultPos` in the coordinates of a logical tile. -/
theorem defaultPos_coords {x : Nat} (hx : x < 24) (y : Nat) :
    defaultPos (24 * y + x) = 26 * y + (if x < 12 then x else x + 1) := by
  have hcol : (24 * y + x) % 24 = x := by omega
  have hrow : (24 * y + x) / 24 = y := by omega
  simp only [defaultPos, hcol, hrow]

/-- No logical tile has a spare position as its default. -/
theorem defaultPos_mod_ne_spare (lt : Nat) : defaultPos lt % 26 ≠ 12 ∧ defaultPos lt % 26 ≠ 25 := by
  unfold defaultPos
  dsimp only
  split <;> omega

/-- Every position outside the two spare columns is the default of a logical tile of its row. -/
theorem exists_defaultPos_eq {px py : Nat} (hx : px < 26) (hy : py < 24) (h12 : px ≠ 12) (h25 : px ≠ 25) :
    ∃ lt < 576, defaultPos lt = 26 * py + px := by
  rcases Nat.lt_or_gt_of_ne h12 with hlow | hhigh
  · refine ⟨24 * py + px, by omega, ?_⟩
    rw [defaultPos_coords (by omega), if_pos hlow]
  · refine ⟨24 * py + (px - 1), by omega, ?_⟩
    rw [defaultPos_coords (by omega), if_neg (by omega)]
    omega

/-- `ltAt` answers 0x3FF, which is the number of no logical tile, exactly where no present logical tile stands. -/
theorem ltAt_eq_none_iff (s : State) (pos : Nat) :
    ltAt s pos = 0x3FF ↔ ∀ lt < 576, lt ∉ s.absent → posOf s lt ≠ pos := by
  unfold ltAt
  cases hf : (List.range 576).find? fun lt => !s.absent.contains lt && posOf s lt == pos with
  | none => simpa using hf
  | some lt =>
    have hlt : lt < 576 := List.mem_range.mp (List.mem_of_find?_eq_some hf)
    obtain ⟨hpresent, hpos⟩ : lt ∉ s.absent ∧ posOf s lt = pos := by simpa using List.find?_some hf
    have hne : (some lt).getD 0x3FF ≠ 0x3FF := by simp only [Option.getD_some]; omega
    exact iff_of_false hne fun hnone => hnone lt hlt hpresent hpos

/-- After reset no spare is consumed: every logical tile stands at its default position. -/
@[simp] theorem posOf_reset (lt : Nat) : posOf State.reset lt = defaultPos lt := rfl

/-- After reset exactly the two spare columns of R4 hold no logical tile. -/
theorem ltAt_reset_eq_none_iff {px py : Nat} (hx : px < 26) (hy : py < 24) :
    ltAt State.reset (26 * py + px) = 0x3FF ↔ px = 12 ∨ px = 25 := by
  rw [ltAt_eq_none_iff]
  constructor
  · intro hnone
    refine Decidable.byContradiction fun hspare => ?_
    obtain ⟨h12, h25⟩ := not_or.mp hspare
    obtain ⟨lt, hlt, hpos⟩ := exists_defaultPos_eq hx hy h12 h25
    exact hnone lt hlt List.not_mem_nil hpos
  · intro hspare lt _ _ hpos
    obtain ⟨h12, h25⟩ := defaultPos_mod_ne_spare lt
    rw [posOf_reset] at hpos
    omega

/-- The spare position of a row lies in one of the two spare columns. -/
theorem sparePos_column (row : Nat × Nat) : sparePos row = 26 * row.2 + 12 ∨ sparePos row = 26 * row.2 + 25 := by
  unfold sparePos
  split
  · exact .inl rfl
  · exact .inr rfl

/-- Settles O9: the die by coordinates, the columns empty after reset, the spare of a row, and the map after reset. -/
theorem positionsAndDies : Obligations.PositionsAndDies :=
  ⟨fun _ py hx _ => dieOfPos_coords hx py,
   fun _ _ hx hy => ltAt_reset_eq_none_iff hx hy,
   fun row _ => sparePos_column row,
   fun x y hx _ => (posOf_reset (24 * y + x)).trans (defaultPos_coords hx y)⟩

end Sys2Proof.Machine
end

section
/-! Proof of the statement on banks (R70): the bank in the bit fields of an address, and one row's lines over the banks. -/

namespace Sys2Proof.Machine

/-- `fld` of an address word is the bit vector's own slice. -/
theorem fld_toNat {n : Nat} (a : BitVec n) (lo w : Nat) : fld a.toNat lo w = (a.extractLsb' lo w).toNat := by
  rw [fld, BitVec.extractLsb'_toNat, Nat.shiftRight_eq_div_pow]

/-- A field of a field is a field of the whole. -/
theorem fld_fld (n lo : Nat) {w i v : Nat} (h : i + v ≤ w) : fld (fld n lo w) i v = fld n (lo + i) v := by
  obtain ⟨k, rfl⟩ := Nat.exists_eq_add_of_le h
  simp only [fld, Nat.add_assoc i v k, Nat.pow_add, Nat.mod_mul_right_div_self, Nat.div_div_eq_div_mul, Nat.mod_mul_right_mod]

/-- R70 in words: BANK as the exclusive OR of the bit vector's four slices, the last one filled up with zeros. -/
theorem bankOf_toNat (a : BitVec 26) : bankOf a.toNat =
    (a.extractLsb' 9 5 ^^^ a.extractLsb' 14 5 ^^^ a.extractLsb' 19 5 ^^^ (0#3 ++ a.extractLsb' 24 2)).toNat := by
  simp only [bankOf, fld_toNat, BitVec.toNat_xor, BitVec.toNat_append, BitVec.toNat_ofNat, Nat.zero_mod,
    Nat.zero_shiftLeft, Nat.zero_or]

/-- BANK is LINE_IN_ROW under a mask that ROW alone gives. -/
theorem bankOf_eq_lineInRow_xor_row (a : Nat) :
    bankOf a = fld a 9 5 ^^^ (fld (rowOf a) 0 5 ^^^ fld (rowOf a) 5 5 ^^^ fld (rowOf a) 10 2) := by
  simp only [bankOf, rowOf, fld_fld a 14 (show 0 + 5 ≤ 12 by decide), fld_fld a 14 (show 5 + 5 ≤ 12 by decide),
    fld_fld a 14 (show 10 + 2 ≤ 12 by decide), Nat.xor_assoc]

/-- A mask cancels: applied twice, it gives the value back. -/
theorem eq_of_xor_mask_eq {x y m : Nat} (h : x ^^^ m = y ^^^ m) : x = y := by
  have htwice : x ^^^ m ^^^ m = y ^^^ m ^^^ m := congrArg (· ^^^ m) h
  rwa [Nat.xor_assoc, Nat.xor_assoc, Nat.xor_self, Nat.xor_zero, Nat.xor_zero] at htwice

/-- In one row, lines in the same bank have the same LINE_IN_ROW. -/
theorem lineInRow_eq_of_bankOf_eq {a b : Nat} (hrow : rowOf a = rowOf b) (hbank : bankOf a = bankOf b) :
    fld a 9 5 = fld b 9 5 := by
  rw [bankOf_eq_lineInRow_xor_row, bankOf_eq_lineInRow_xor_row, hrow] at hbank
  exact eq_of_xor_mask_eq hbank

/-- The line number of a scratchpad address is made of ROW and LINE_IN_ROW (Table 3.1). -/
theorem line_eq_row_lineInRow {a : Nat} (ha : a < spadEnd) : a / 512 = 32 * rowOf a + fld a 9 5 := by
  simp only [spadEnd, rowOf, fld] at *
  omega

/-- Settles O8: the bank by the four slices of R70, and within one row the bank names the line. -/
theorem bankOfAddress : Obligations.BankOfAddress := by
  refine ⟨bankOf_toNat, fun a b ha hb hrow hbank => ?_⟩
  rw [line_eq_row_lineInRow ha, line_eq_row_lineInRow hb, hrow, lineInRow_eq_of_bankOf_eq hrow hbank]

end Sys2Proof.Machine
end

section
/-! Proof of the statement on dropped packets (R190): what taking the head of an input lane changes and leaves alone, the age of a
packet in the terms of the rule, and the 64th link. -/

namespace Sys2Proof.Machine

/-! ## Raising and lowering an XOFF, and the key of a lane -/

/-- Noting a lane's XOFF writes the raised lanes alone. -/
theorem noteXoff_eq (pos : Nat) (r : Router) (port vc lane : Nat) :
    noteXoff pos r port vc lane = { r with xoff := (noteXoff pos r port vc lane).xoff } := by
  unfold noteXoff
  dsimp only
  split
  · rfl
  · split <;> rfl

@[simp] theorem noteXoff_bufs (pos : Nat) (r : Router) (port vc lane : Nat) : (noteXoff pos r port vc lane).bufs = r.bufs := by
  rw [noteXoff_eq]

@[simp] theorem noteXoff_outbox (pos : Nat) (r : Router) (port vc lane : Nat) :
    (noteXoff pos r port vc lane).outbox = r.outbox := by
  rw [noteXoff_eq]

/-- Port, VC and lane are read back from the key of a lane. -/
theorem laneKey_of_key (k : Nat) : laneKey (k / 8) (k / 2 % 4) (k % 2) = k := by
  unfold laneKey
  omega

/-! ## The frame of one input lane -/

/-- From `s` to `t` no router but the one at `pos` changes, and of that one only the lane of key `k`, the raised XOFFs and the
packets that wait outside the lanes. -/
structure LaneFrame (pos k : Nat) (s t : State) : Prop where
  others : ∀ j, j ≠ pos → routerOf t j = routerOf s j
  router : routerOf t pos =
    { routerOf s pos with bufs := (routerOf t pos).bufs, xoff := (routerOf t pos).xoff, outbox := (routerOf t pos).outbox }
  lanes : ∀ j, j ≠ k → sget [] (routerOf t pos).bufs j = sget [] (routerOf s pos).bufs j

theorem LaneFrame.refl (pos k : Nat) (s : State) : LaneFrame pos k s s := ⟨fun _ _ => rfl, rfl, fun _ _ => rfl⟩

theorem LaneFrame.trans {pos k : Nat} {s t u : State} (h : LaneFrame pos k s t) (g : LaneFrame pos k t u) : LaneFrame pos k s u where
  others j hj := (g.others j hj).trans (h.others j hj)
  router := g.router.trans (congrArg (fun r : Router =>
    { r with bufs := (routerOf u pos).bufs, xoff := (routerOf u pos).xoff, outbox := (routerOf u pos).outbox }) h.router)
  lanes j hj := (g.lanes j hj).trans (h.lanes j hj)

/-- Writing a router that differs in one lane, the raised XOFFs and the waiting packets alone. -/
theorem LaneFrame.of_updRouter {pos k : Nat} (s : State) (f : Router → Router)
    (hrouter : f (routerOf s pos) = { routerOf s pos with
      bufs := (f (routerOf s pos)).bufs, xoff := (f (routerOf s pos)).xoff, outbox := (f (routerOf s pos)).outbox })
    (hlanes : ∀ j, j ≠ k → sget [] (f (routerOf s pos)).bufs j = sget [] (routerOf s pos).bufs j) :
    LaneFrame pos k s (updRouter s pos f) where
  others j hj := by rw [routerOf_updRouter, if_neg hj]
  router := by rw [routerOf_updRouter, if_pos rfl]; exact hrouter
  lanes j hj := by rw [routerOf_updRouter, if_pos rfl]; exact hlanes j hj

theorem laneFrame_noteXoff {pos k : Nat} (s : State) (port vc lane : Nat) :
    LaneFrame pos k s (updRouter s pos fun r => noteXoff pos r port vc lane) :=
  .of_updRouter s _ (by rw [noteXoff_eq]) fun j _ => by rw [noteXoff_bufs]

theorem laneFrame_enqueue (s : State) (pos port vc lane : Nat) (p : Packet) :
    LaneFrame pos (laneKey port vc lane) s (enqueue s pos port vc lane p) :=
  .of_updRouter s _ rfl fun _ hj => sget_sset_other [] _ _ hj

/-! ## A packet enters a lane -/

theorem laneFrame_enterLane (s : State) (pos port vc lane : Nat) (p : Packet) :
    LaneFrame pos (laneKey port vc lane) s (enterLane s pos port vc lane p) :=
  (laneFrame_enqueue s pos port vc lane p).trans (laneFrame_noteXoff _ port vc lane)

/-- A packet enters at the tail of its lane. -/
theorem enterLane_lane (s : State) (pos port vc lane : Nat) (p : Packet) :
    sget [] (routerOf (enterLane s pos port vc lane p) pos).bufs (laneKey port vc lane) =
      sget [] (routerOf s pos).bufs (laneKey port vc lane) ++ [p] := by
  simp [enterLane, enqueue, sget_sset_self]

/-- The same of a lane that is named by its key. -/
theorem enterLane_at_key (s : State) (pos k : Nat) (p : Packet) :
    LaneFrame pos k s (enterLane s pos (k / 8) (k / 2 % 4) (k % 2) p) ∧
      sget [] (routerOf (enterLane s pos (k / 8) (k / 2 % 4) (k % 2) p) pos).bufs k = sget [] (routerOf s pos).bufs k ++ [p] := by
  have hframe := laneFrame_enterLane s pos (k / 8) (k / 2 % 4) (k % 2) p
  have hlane := enterLane_lane s pos (k / 8) (k / 2 % 4) (k % 2) p
  rw [laneKey_of_key] at hframe hlane
  exact ⟨hframe, hlane⟩

/-! ## The waiting packets enter their lane -/

theorem firstIdx_eq_none {α : Type} {p : α → Bool} {l : List α} (h : ∀ x ∈ l, p x = false) : firstIdx p l = none := by
  induction l with
  | nil => rfl
  | cons x l ih =>
    obtain ⟨hx, hl⟩ := List.forall_mem_cons.mp h
    simp [firstIdx, hx, ih hl]

/-- The packet at place `i` of those that wait outside the lanes is taken from there. -/
def eraseWaiting (s : State) (pos i : Nat) : State :=
  updRouter s pos fun r => { r with outbox := r.outbox.eraseIdx i }

theorem eraseWaiting_bufs (s : State) (pos i : Nat) : (routerOf (eraseWaiting s pos i) pos).bufs = (routerOf s pos).bufs := by
  rw [eraseWaiting, routerOf_updRouter, if_pos rfl]

theorem laneFrame_eraseWaiting (s : State) (pos k i : Nat) : LaneFrame pos k s (eraseWaiting s pos i) :=
  .of_updRouter s _ rfl fun _ _ => rfl

/-- A waiting packet as it enters the lane of key `k`: stamped again, but for the time at the SPINE input (R188, R245). -/
def restamped (s : State) (k : Nat) (p : Packet) : Packet :=
  { p with epoch := b2n s.activeEpoch, injTime := if k / 8 = 5 then p.injTime else meshTime s }

/-- What `drainLane` does, one waiting packet at a time: it stops, or one packet goes to the tail of the lane. -/
theorem drainLane_cases (n : Nat) (s : State) (pos k : Nat) :
    drainLane (n + 1) s pos k = s ∨
      ∃ t x, drainLane (n + 1) s pos k = drainLane n t pos k ∧ LaneFrame pos k s t ∧
        sget [] (routerOf t pos).bufs k = sget [] (routerOf s pos).bufs k ++ [x] := by
  rw [drainLane]
  dsimp only
  split
  · exact .inl rfl
  next i _ =>
    split
    · exact .inl rfl
    next e _ =>
      split
      · exact .inl rfl
      · obtain ⟨henter, hlane⟩ := enterLane_at_key (eraseWaiting s pos i) pos k (restamped s k e.2)
        rw [eraseWaiting_bufs] at hlane
        exact .inr ⟨_, restamped s k e.2, rfl, (laneFrame_eraseWaiting s pos k i).trans henter, hlane⟩

theorem laneFrame_drainLane (n : Nat) (s : State) (pos k : Nat) : LaneFrame pos k s (drainLane n s pos k) := by
  induction n generalizing s with
  | zero => exact .refl pos k s
  | succ n ih =>
    obtain hstop | ⟨t, x, hstep, hframe, -⟩ := drainLane_cases n s pos k
    · rw [hstop]
      exact .refl pos k s
    · rw [hstep]
      exact hframe.trans (ih t)

/-- Letting the waiting packets in only lengthens the lane. -/
theorem drainLane_lane (n : Nat) (s : State) (pos k : Nat) :
    ∃ more, sget [] (routerOf (drainLane n s pos k) pos).bufs k = sget [] (routerOf s pos).bufs k ++ more := by
  induction n generalizing s with
  | zero => exact ⟨[], (List.append_nil _).symm⟩
  | succ n ih =>
    obtain hstop | ⟨t, x, hstep, -, hlane⟩ := drainLane_cases n s pos k
    · exact ⟨[], by rw [hstop, List.append_nil]⟩
    · obtain ⟨more, hmore⟩ := ih t
      exact ⟨x :: more, by rw [hstep, hmore, hlane, List.append_assoc, List.singleton_append]⟩

/-- Where no packet waits for the lane, none enters. -/
theorem drainLane_of_none_waits (n : Nat) {s : State} {pos k : Nat} (h : ∀ e ∈ (routerOf s pos).outbox, e.1 ≠ k) :
    drainLane n s pos k = s := by
  cases n with
  | zero => rfl
  | succ n =>
    have hnone : firstIdx (fun e : Nat × Packet => e.1 == k) (routerOf s pos).outbox = none :=
      firstIdx_eq_none fun e he => beq_false_of_ne (h e he)
    rw [drainLane]
    simp only [hnone]

/-! ## The head leaves its lane -/

/-- The first half of `dequeue`: the head is taken, before the packets that wait for the room are let in. -/
def takeHead (s : State) (pos port vc lane : Nat) : State :=
  updRouter s pos fun r =>
    noteXoff pos { r with bufs := sset [] r.bufs (laneKey port vc lane) ((sget [] r.bufs (laneKey port vc lane)).drop 1) } port vc lane

theorem dequeue_eq (s : State) (pos port vc lane : Nat) :
    dequeue s pos port vc lane = drainLane (routerOf s pos).outbox.length (takeHead s pos port vc lane) pos (laneKey port vc lane) := by
  have hwaiting : (routerOf (takeHead s pos port vc lane) pos).outbox = (routerOf s pos).outbox := by simp [takeHead]
  rw [← hwaiting]
  rfl

theorem laneFrame_takeHead (s : State) (pos port vc lane : Nat) :
    LaneFrame pos (laneKey port vc lane) s (takeHead s pos port vc lane) :=
  .of_updRouter s _ (by rw [noteXoff_eq]) fun j hj => by rw [noteXoff_bufs, sget_sset_other _ _ _ hj]

theorem laneFrame_dequeue (s : State) (pos port vc lane : Nat) :
    LaneFrame pos (laneKey port vc lane) s (dequeue s pos port vc lane) := by
  rw [dequeue_eq]
  exact (laneFrame_takeHead s pos port vc lane).trans (laneFrame_drainLane _ _ _ _)

/-- The lane without its head, then the packets that waited for it, if any did. -/
theorem dequeue_lane {s : State} {pos port vc lane : Nat} {p : Packet} {rest : List Packet}
    (hhead : sget [] (routerOf s pos).bufs (laneKey port vc lane) = p :: rest) :
    ∃ more, sget [] (routerOf (dequeue s pos port vc lane) pos).bufs (laneKey port vc lane) = rest ++ more ∧
      ((∀ e ∈ (routerOf s pos).outbox, e.1 ≠ laneKey port vc lane) → more = []) := by
  have htaken : sget [] (routerOf (takeHead s pos port vc lane) pos).bufs (laneKey port vc lane) = rest := by
    simp [takeHead, sget_sset_self, hhead]
  obtain ⟨more, hmore⟩ :=
    drainLane_lane (routerOf s pos).outbox.length (takeHead s pos port vc lane) pos (laneKey port vc lane)
  rw [← dequeue_eq, htaken] at hmore
  refine ⟨more, hmore, fun hnone => ?_⟩
  rw [dequeue_eq, drainLane_of_none_waits _ (by simpa [takeHead] using hnone), htaken] at hmore
  exact List.self_eq_append_right.mp hmore

/-! ## A head is dropped and counted -/

/-- A router's counter after one more event: held while MSH_TEL_CTL says so, else one up, saturating (Table 7.14). -/
theorem countR_cnts (r : Router) (c : RCnt) : sget 0 (countR r c 1).cnts c.ctorIdx =
    if bitOf r.telCtl 1 then sget 0 r.cnts c.ctorIdx else satAdd (sget 0 r.cnts c.ctorIdx) 1 32 := by
  unfold countR
  split
  · rfl
  · exact sget_sset_self 0 _ _ _

/-- Counting writes the counters alone. -/
theorem countR_eq (r : Router) (c : RCnt) (n : Nat) : countR r c n = { r with cnts := (countR r c n).cnts } := by
  unfold countR
  split <;> rfl

@[simp] theorem countR_bufs (r : Router) (c : RCnt) (n : Nat) : (countR r c n).bufs = r.bufs := by
  rw [countR_eq]

@[simp] theorem countR_inbox (r : Router) (c : RCnt) (n : Nat) : (countR r c n).inbox = r.inbox := by
  rw [countR_eq]

/-- From `s` to `t` the head of lane `k` of the router at `pos` is gone, `rest` stood behind it, the drop is counted in `c`, and
nothing is sent: every other lane, the router's inbox, every other router and every other unit stay. -/
structure HeadDropped (pos k : Nat) (c : RCnt) (rest : List Packet) (s t : State) : Prop where
  lane : ∃ more, sget [] (routerOf t pos).bufs k = rest ++ more ∧ ((∀ e ∈ (routerOf s pos).outbox, e.1 ≠ k) → more = [])
  counted : sget 0 (routerOf t pos).cnts c.ctorIdx =
    if bitOf (routerOf s pos).telCtl 1 then sget 0 (routerOf s pos).cnts c.ctorIdx
    else satAdd (sget 0 (routerOf s pos).cnts c.ctorIdx) 1 32
  inbox : (routerOf t pos).inbox = (routerOf s pos).inbox
  lanes : ∀ j, j ≠ k → sget [] (routerOf t pos).bufs j = sget [] (routerOf s pos).bufs j
  others : ∀ j, j ≠ pos → routerOf t j = routerOf s j
  only : Only [.routers] s t

/-- Taking the head and counting is a drop. -/
theorem headDropped_countAt_dequeue {s : State} {pos port vc lane : Nat} {p : Packet} {rest : List Packet} (c : RCnt)
    (hhead : sget [] (routerOf s pos).bufs (laneKey port vc lane) = p :: rest) :
    HeadDropped pos (laneKey port vc lane) c rest s (countAt (dequeue s pos port vc lane) pos c) := by
  have hframe := laneFrame_dequeue s pos port vc lane
  have hself : routerOf (countAt (dequeue s pos port vc lane) pos c) pos = countR (routerOf (dequeue s pos port vc lane) pos) c 1 := by
    rw [countAt, routerOf_updRouter, if_pos rfl]
  refine ⟨?_, ?_, ?_, fun j hj => ?_, fun j hj => ?_, ?_⟩
  · rw [hself, countR_bufs]
    exact dequeue_lane hhead
  · rw [hself, countR_cnts, hframe.router]
  · rw [hself, countR_inbox, hframe.router]
  · rw [hself, countR_bufs]
    exact hframe.lanes j hj
  · rw [countAt, routerOf_updRouter, if_neg hj]
    exact hframe.others j hj
  · exact ((dequeue_keeps s pos port vc lane).trans (countAt_keeps _ pos c)).only

/-- A router with its rotations turned. -/
def turnRot (s : State) (pos : Nat) (rot : List (Nat × Nat)) : State := updRouter s pos fun r => { r with rot := rot }

theorem routerOf_turnRot (s : State) (pos : Nat) (rot : List (Nat × Nat)) :
    routerOf (turnRot s pos rot) pos = { routerOf s pos with rot := rot } := by
  rw [turnRot, routerOf_updRouter, if_pos rfl]

/-- A drop after the rotations have turned is a drop from the state before, whose rotations it does not speak of. -/
theorem HeadDropped.of_turnRot {pos k : Nat} {c : RCnt} {rest : List Packet} {s t : State} {rot : List (Nat × Nat)}
    (h : HeadDropped pos k c rest (turnRot s pos rot) t) : HeadDropped pos k c rest s t := by
  obtain ⟨hlane, hcounted, hinbox, hlanes, hothers, honly⟩ := h
  rw [routerOf_turnRot] at hlane hcounted hinbox hlanes
  refine ⟨hlane, hcounted, hinbox, hlanes, fun j hj => ?_, (updRouter_keeps s pos _).only.trans honly⟩
  rw [hothers j hj, turnRot, routerOf_updRouter, if_neg hj]

/-! ## The age of a packet -/

/-- The model's age is the difference of R190, modulo 2^16. -/
theorem ageOf_eq_emod {p : Packet} (s : State) (h : p.injTime < 2 ^ 16) :
    (ageOf s p : Int) = ((meshTime s : Int) - p.injTime) % 2 ^ 16 := by
  unfold ageOf
  omega

/-- AGE_DROP at a lane that holds a packet: the drop of an old head, else nothing. -/
theorem exec_ageDrop_of_head {s : State} {pos port vc lane : Nat} {p : Packet} {rest : List Packet} (hpos : pos < 624)
    (hok : laneOk port vc lane = true) (hhead : sget [] (routerOf s pos).bufs (laneKey port vc lane) = p :: rest) :
    exec (.ageDrop pos port vc lane) s =
      .next (if 31250 < ageOf s p then countAt (dequeue s pos port vc lane) pos .ageDrop else s) := by
  change execAgeDrop pos port vc lane s = _
  rw [execAgeDrop, needUnit_ok (by simp [posOk, hpos, hok]), hhead]
  simp [whenB]

/-! ## The 64th link -/

/-- A packet that would cross its 64th link is counted where it stands and not sent. -/
theorem sendOut_over_hops {s : State} {pos q : Nat} {p : Packet} (port l : Nat) (hlink : linkTo pos q ≠ none) (hhops : 63 < p.hops + 1) :
    sendOut s pos port p (q, l) = countAt s pos .hopDrop := by
  obtain ⟨n, hn⟩ := Option.ne_none_iff_exists'.mp hlink
  unfold sendOut
  dsimp only
  split
  · cases hn
  · cases hn
  · rw [hn]
    exact if_pos hhops

/-- The rotations of the router at `pos` once a head with the one output `o` is granted (R187, R196). -/
def grantedRot (s : State) (pos lane : Nat) (p : Packet) (o : Nat × Nat) : List (Nat × Nat) :=
  turnSpray s pos (routerOf s pos) p lane (turnOut (readyHeads s pos (routerOf s pos)) p.vc (routerOf s pos).rot o)

/-- A granted head with one output, not the spine, leaves its lane by that output, once the rotations have turned. -/
theorem packetForward_of_granted {s : State} {pos port vc lane q l : Nat} {p : Packet} {rest : List Packet}
    (hhead : sget [] (routerOf s pos).bufs (laneKey port vc lane) = p :: rest) (halive : (routerOf s pos).alive = true)
    (hours : regionForeign (routerOf s pos) p = false) (hroute : routeHead s pos (routerOf s pos) p lane = .go [(q, l)])
    (hgrant : headGranted s (routerOf s pos) (readyHeads s pos (routerOf s pos)) (laneKey port vc lane, p, [(q, l)]) = true)
    (hspine : q ≠ 5) :
    packetForward s pos port vc lane =
      sendOut (dequeue (turnRot s pos (grantedRot s pos lane p (q, l))) pos port vc lane) pos port p (q, l) := by
  have hnoSpine : ([(q, l)].any fun o => o.1 == 5) = false := by simp [hspine]
  unfold packetForward
  simp only [hhead, halive, hours, hroute, hgrant, hnoSpine, Bool.not_true, Bool.false_eq_true, if_true, if_false]
  rfl

/-- A head of the router's own region is no ground to charge the router. -/
theorem foreignHead_of_own {s : State} {pos port vc lane : Nat} {p : Packet} {rest : List Packet}
    (hhead : sget [] (routerOf s pos).bufs (laneKey port vc lane) = p :: rest) (hours : regionForeign (routerOf s pos) p = false) :
    foreignHead s pos port vc lane = false := by
  simp [foreignHead, hhead, hours]

/-- PACKET_FORWARD of clean flits with a head of the router's own region. -/
theorem exec_packetForward_of_own {s : State} {pos port vc lane : Nat} {p : Packet} {rest : List Packet} (hpos : pos < 624)
    (hok : laneOk port vc lane = true) (hhead : sget [] (routerOf s pos).bufs (laneKey port vc lane) = p :: rest)
    (hours : regionForeign (routerOf s pos) p = false) :
    exec (.packetForward pos port vc lane) s = .next (packetForward s pos port vc lane) := by
  change execPacketForward pos port vc lane s none = _
  rw [execPacketForward, needUnit_ok (by simp [posOk, hpos, hok]), forwardFound, forwardClean]
  simp [foreignHead_of_own hhead hours]

/-- Settles O13: an old head and one at its 64th link are dropped, counted and answered by nothing; a young one stays. -/
theorem routerDropsOldPackets : Obligations.RouterDropsOldPackets := by
  intro s pos port vc lane p rest hpos hok hhead hinj
  dsimp only
  have hage := ageOf_eq_emod s hinj
  have hdrop := exec_ageDrop_of_head hpos hok hhead
  refine ⟨fun hold => ?_, fun hyoung => ?_, fun q l halive hours hroute _ hq hhops hgrant hlink => ?_⟩
  · obtain ⟨hlane, hcounted, hinbox, hlanes, hothers, honly⟩ := headDropped_countAt_dequeue .ageDrop hhead
    exact ⟨_, hdrop.trans (by rw [if_pos (by omega)]), hlane, hcounted, hinbox, hlanes, hothers, honly⟩
  · rw [hdrop, if_neg (by omega)]
  · have hforward := packetForward_of_granted hhead halive hours hroute hgrant (by omega)
    rw [sendOut_over_hops port l hlink hhops] at hforward
    have hturned : sget [] (routerOf (turnRot s pos (grantedRot s pos lane p (q, l))) pos).bufs (laneKey port vc lane) = p :: rest := by
      rw [routerOf_turnRot]
      exact hhead
    obtain ⟨hlane, hcounted, hinbox, hlanes, hothers, honly⟩ := (headDropped_countAt_dequeue .hopDrop hturned).of_turnRot
    exact ⟨_, (exec_packetForward_of_own hpos hok hhead hours).trans (congrArg _ hforward),
      hlane, hcounted, hinbox, hlanes, hothers, honly⟩

end Sys2Proof.Machine
end

section
/-! What the operations of a Tarn port change and leave alone: a port read after a write, what goes out of a port, what every flit
header brings, and what a port is after it has left ACTIVE. -/

namespace Sys2Proof.Machine

/-! ## A port read after a write -/

@[simp] theorem portOf_setPort (s : State) (p q : Nat) (v : Port) : portOf (setPort s p v) q = if q = p then v else portOf s q :=
  sget_sset portReset _ p q v

theorem portOf_updPort_self (s : State) (p : Nat) (u : Port → Port) : portOf (updPort s p u) p = u (portOf s p) := by
  rw [updPort, portOf_setPort, if_pos rfl]

theorem otherPorts_updPort (s : State) (p : Nat) (u : Port → Port) : OtherPorts p s (updPort s p u) := fun q hq => by
  rw [updPort, portOf_setPort, if_neg hq]

@[simp] theorem engineOf_updPort (s : State) (p d : Nat) (u : Port → Port) : engineOf (updPort s p u) d = engineOf s d := rfl
@[simp] theorem portOf_updEngine (s : State) (d p : Nat) (u : Engine → Engine) : portOf (updEngine s d u) p = portOf s p := rfl
@[simp] theorem updPort_now (s : State) (p : Nat) (u : Port → Port) : (updPort s p u).now = s.now := rfl

/-- What leaves the fabric alone leaves every port. -/
theorem Only.portOf {L : List Part} {s t : State} (h : Only L s t) (hfab : .fab ∉ L) (q : Nat) : portOf t q = portOf s q :=
  congrArg (fun fab : Fabric => sget portReset fab.ports q) (h .fab hfab)

theorem OtherPorts.refl (p : Nat) (s : State) : OtherPorts p s s := fun _ _ => rfl

theorem OtherPorts.trans {p : Nat} {s t u : State} (h : OtherPorts p s t) (g : OtherPorts p t u) : OtherPorts p s u :=
  fun q hq => (g q hq).trans (h q hq)

/-! ## Packets dropped for their age -/

theorem FageDrops.refl (p : Nat) (s : State) : FageDrops p s s := fun _ => ⟨rfl, fun _ _ => rfl⟩

theorem FageDrops.trans {p : Nat} {s t u : State} (h : FageDrops p s t) (g : FageDrops p t u) : FageDrops p s u := fun d =>
  ⟨(g d).1.trans (h d).1, fun c hc => ((g d).2 c hc).trans ((h d).2 c hc)⟩

/-- A drop leaves the packets at a gateway alone. -/
theorem FageDrops.ingress {p : Nat} {s t : State} (h : FageDrops p s t) (d : Nat) : (engineOf t d).ingress = (engineOf s d).ingress := by
  have hingress := congrArg Engine.ingress (h d).1
  exact hingress

/-- What leaves the engines alone drops no packet. -/
theorem FageDrops.of_only {L : List Part} {p : Nat} {s t : State} (h : Only L s t) (hengines : .engines ∉ L) : FageDrops p s t := by
  intro d
  have hsame : engineOf t d = engineOf s d := congrArg (sget engineReset · d) (h .engines hengines)
  exact ⟨by rw [hsame], fun _ _ => by rw [hsame]⟩

/-- Counting in FAGE_DROP of the port's die. -/
theorem fageDrops_countGw (s : State) (p n : Nat) : FageDrops p s (countGw s (p / 3) 1 n) := by
  intro d
  rw [countGw, engineOf_updEngine]
  split
  · refine ⟨rfl, fun c hc => sget_sset_other 0 _ _ ?_⟩
    omega
  · exact ⟨rfl, fun _ _ => rfl⟩

/-! ## What goes out of a port -/

/-- From `s` to `t` the port has put the flits `sent` on the wire and holds each (R246): DATA flits of streams whose XOFF is clear
(R249), as many as the replay buffer of 1,024 takes.  Beside that only its transmit queue moves and packets are dropped for their age. -/
structure Transmits (p : Nat) (sent : List Flit) (s t : State) : Prop where
  port : portOf t p = { portOf s p with
    held := (portOf s p).held ++ sent, wire := (portOf s p).wire ++ sent
    nextSeq := (portOf t p).nextSeq, txq := (portOf t p).txq, txHead := (portOf t p).txHead
    cnt := { (portOf s p).cnt with flitsTx := (portOf t p).cnt.flitsTx } }
  room : sent = [] ∨ ((portOf s p).held ++ sent).length ≤ 1024
  allowed : ∀ x ∈ sent, x.ftype = 0 ∧ bitOf (portOf s p).txXoff (streamOf x.vc x.flane) = false
  others : OtherPorts p s t
  drops : FageDrops p s t
  epoch : t.fab.epoch = s.fab.epoch

theorem Transmits.refl (p : Nat) (s : State) : Transmits p [] s s where
  port := by simp only [List.append_nil]
  room := .inl rfl
  allowed := fun _ hx => absurd hx List.not_mem_nil
  others := .refl p s
  drops := .refl p s
  epoch := rfl

theorem Transmits.trans {p : Nat} {first second : List Flit} {s t u : State} (h : Transmits p first s t) (g : Transmits p second t u) :
    Transmits p (first ++ second) s u where
  port := by
    rw [g.port, h.port]
    simp only [List.append_assoc]
  room := by
    have hroom := g.room
    rw [h.port, List.append_assoc] at hroom
    rcases hroom with rfl | hroom
    · rw [List.append_nil]
      exact h.room
    · exact .inr hroom
  allowed := by
    have hallowed := g.allowed
    rw [h.port] at hallowed
    exact fun x hx => (List.mem_append.mp hx).elim (h.allowed x) (hallowed x)
  others := h.others.trans g.others
  drops := h.drops.trans g.drops
  epoch := g.epoch.trans h.epoch

/-- The next DATA flit of a stream. -/
def nextData (a : Port) (st : Nat) (x : Nat × List Byte) : Flit := flitOf a 0 (st / 2) (st % 2) a.nextSeq x.1 x.2

/-- A port that has put one DATA flit out. -/
def putOne (a : Port) (st : Nat) (x : Nat × List Byte) : Port :=
  { a with
    wire := a.wire ++ [nextData a st x], held := a.held ++ [nextData a st x], nextSeq := (a.nextSeq + 1) % 4096
    cnt := { a.cnt with flitsTx := sset 0 a.cnt.flitsTx st (satAdd (sget 0 a.cnt.flitsTx st) 1 48) } }

theorem putData_cons (a : Port) (st : Nat) (x : Nat × List Byte) (l : List (Nat × List Byte)) :
    putData a st (x :: l) = putData (putOne a st x) st l := rfl

theorem streamOf_nextData (a : Port) (st : Nat) (x : Nat × List Byte) :
    streamOf (nextData a st x).vc (nextData a st x).flane = st := Nat.div_add_mod st 2

/-- Putting DATA flits of a stream out: as many as given, each on the wire and held. -/
theorem putData_eq (a : Port) (st : Nat) (l : List (Nat × List Byte)) :
    ∃ sent, sent.length = l.length ∧ (∀ x ∈ sent, x.ftype = 0 ∧ streamOf x.vc x.flane = st) ∧
      putData a st l = { a with
        held := a.held ++ sent, wire := a.wire ++ sent, nextSeq := (putData a st l).nextSeq
        cnt := { a.cnt with flitsTx := (putData a st l).cnt.flitsTx } } := by
  induction l generalizing a with
  | nil => exact ⟨[], rfl, fun _ hx => absurd hx List.not_mem_nil, by simp [putData]⟩
  | cons x l ih =>
    obtain ⟨sent, hlength, hsent, hport⟩ := ih (putOne a st x)
    refine ⟨nextData a st x :: sent, by rw [List.length_cons, List.length_cons, hlength], ?_, ?_⟩
    · exact List.forall_mem_cons.mpr ⟨⟨rfl, streamOf_nextData a st x⟩, hsent⟩
    · rw [putData_cons, hport]
      simp only [putOne, List.append_assoc, List.singleton_append]

theorem itemFlits_length (n : Nat) (l : List TxItem) : (itemFlits n l).length = n := by
  simp [itemFlits]

/-- DATA flits of a stream whose XOFF is clear, as many as the replay buffer still takes. -/
theorem transmits_putData {s : State} {p st : Nat} (hopen : bitOf (portOf s p).txXoff st = false) (txq : List FabPacket)
    (txHead : List (Nat × (Nat × Nat))) {l : List (Nat × List Byte)} (hroom : l.length ≤ 1024 - (portOf s p).held.length) :
    ∃ sent, Transmits p sent s (setPort s p (putData { portOf s p with txq := txq, txHead := txHead } st l)) := by
  obtain ⟨sent, hlength, hsent, hport⟩ := putData_eq { portOf s p with txq := txq, txHead := txHead } st l
  refine ⟨sent, ?_, ?_, fun x hx => ?_, otherPorts_updPort s p fun _ => _, .of_only (setPort_keeps s p _).only (by decide), rfl⟩
  · rw [portOf_setPort, if_pos rfl, hport]
  · rw [List.length_append, ← List.length_eq_zero_iff]
    omega
  · obtain ⟨htype, hstream⟩ := hsent x hx
    exact ⟨htype, hstream ▸ hopen⟩

theorem transmits_countGw (s : State) (p n : Nat) : Transmits p [] s (countGw s (p / 3) 1 n) :=
  { Transmits.refl p s with drops := fageDrops_countGw s p n }

/-- One stream of a port goes out where its XOFF is clear. -/
theorem transmits_sendStream {s : State} {p st : Nat} (hopen : bitOf (portOf s p).txXoff st = false) (flush : Bool) :
    ∃ sent, Transmits p sent s (sendStream s p st flush) := by
  unfold sendStream
  dsimp only
  split
  · exact ⟨[], .refl p s⟩
  · split
    · exact transmits_putData hopen _ _ (Nat.le_trans (Nat.le_of_eq (itemFlits_length _ _)) (Nat.min_le_right _ _))
    · obtain ⟨sent, hsent⟩ := transmits_putData (s := countGw s (p / 3) 1 _) hopen _ _
        (Nat.le_trans (Nat.le_of_eq (itemFlits_length _ _)) (Nat.min_le_right _ _))
      exact ⟨sent, (transmits_countGw s p _).trans hsent⟩

/-- Stream after stream, each where its XOFF is clear. -/
theorem transmits_streams (s : State) (p : Nat) (flush : Bool) (streams : List Nat) :
    ∃ sent, Transmits p sent s
      (streams.foldl (fun s st => if bitOf (portOf s p).txXoff st then s else sendStream s p st flush) s) := by
  induction streams generalizing s with
  | nil => exact ⟨[], .refl p s⟩
  | cons st streams ih =>
    rw [List.foldl_cons]
    split
    · exact ih s
    next hopen =>
      obtain ⟨first, hfirst⟩ := transmits_sendStream (Bool.eq_false_iff.mpr hopen) flush
      obtain ⟨later, hlater⟩ := ih (sendStream s p st flush)
      exact ⟨first ++ later, hfirst.trans hlater⟩

theorem transmits_pumpPort (s : State) (p : Nat) : ∃ sent, Transmits p sent s (pumpPort s p) := by
  unfold pumpPort pumpStreams
  split
  · exact transmits_streams s p false (List.range 8)
  · exact ⟨[], .refl p s⟩

/-! ## What every flit header brings -/

/-- The first element that meets a test, and the place that `firstIdx` gives it. -/
theorem firstIdx_append {α : Type} {test : α → Bool} {before : List α} {x : α} (rest : List α)
    (hbefore : ∀ y ∈ before, test y = false) (hx : test x = true) : firstIdx test (before ++ x :: rest) = some before.length := by
  induction before with
  | nil => simp [firstIdx, hx]
  | cons y before ih =>
    obtain ⟨hy, htail⟩ := List.forall_mem_cons.mp hbefore
    simp [firstIdx, hy, ih htail]

/-- A list either holds no element that meets a test or splits at the first that does. -/
theorem forall_false_or_first {α : Type} (test : α → Bool) (l : List α) :
    (∀ x ∈ l, test x = false) ∨
      ∃ before x rest, l = before ++ x :: rest ∧ (∀ y ∈ before, test y = false) ∧ test x = true := by
  cases hfind : l.find? test with
  | none => exact .inl fun x hx => Bool.eq_false_iff.mpr (List.find?_eq_none.mp hfind x hx)
  | some x =>
    obtain ⟨hx, before, rest, hl, hbefore⟩ := List.find?_eq_some_iff_append.mp hfind
    exact .inr ⟨before, x, rest, hl, fun y hy => by simpa using hbefore y hy, hx⟩

/-- The acknowledgement writes the held flits, and the count of requests that an advance ends. -/
theorem takeAck_eq (a : Port) (f : Flit) : takeAck a f = { a with held := (takeAck a f).held, gotCount := (takeAck a f).gotCount } := by
  unfold takeAck
  split
  · split <;> rfl
  · rfl

/-- An acknowledgement frees the held flits up to the one it names (R246). -/
theorem takeAck_held (a : Port) (f : Flit) :
    (f.ackValid = true ∧
        ∃ acked x, a.held = acked ++ x :: (takeAck a f).held ∧ x.seq = f.ackSeq ∧ ∀ y ∈ acked, y.seq ≠ f.ackSeq) ∨
      ((takeAck a f).held = a.held ∧ (f.ackValid = true → ∀ y ∈ a.held, y.seq ≠ f.ackSeq)) := by
  unfold takeAck
  split
  next hvalid =>
    obtain hnone | ⟨acked, x, kept, hheld, hacked, hx⟩ := forall_false_or_first (fun y : Flit => y.seq == f.ackSeq) a.held
    · rw [firstIdx_eq_none hnone]
      exact .inr ⟨rfl, fun _ y hy => by simpa using hnone y hy⟩
    · rw [hheld, firstIdx_append kept hacked hx]
      refine .inl ⟨hvalid, acked, x, ?_, by simpa using hx, fun y hy => by simpa using hacked y hy⟩
      simp
  next hinvalid => exact .inr ⟨rfl, fun hvalid => absurd hvalid hinvalid⟩

/-- A port after an acknowledgement and the partner's XOFF bits, before it sends again. -/
def acknowledged (a : Port) (f : Flit) : Port := { takeAck a f with txXoff := f.xoff }

theorem takeHeader_eq (s : State) (p : Nat) (f : Flit) :
    takeHeader s p f = pumpPort (updPort s p fun a => acknowledged a f) p := rfl

theorem acknowledged_eq (a : Port) (f : Flit) : acknowledged a f =
    { a with held := (takeAck a f).held, gotCount := (takeAck a f).gotCount, txXoff := f.xoff } := by
  rw [acknowledged, takeAck_eq]

/-- Between the two ports only the transmit side differs: what is sent, held and acknowledged, and the partner's XOFF bits. -/
def SameReceiver (a b : Port) : Prop :=
  b = { a with held := b.held, gotCount := b.gotCount, txXoff := b.txXoff, wire := b.wire, nextSeq := b.nextSeq, txq := b.txq
               txHead := b.txHead, cnt := { a.cnt with flitsTx := b.cnt.flitsTx } }

/-- From `s` to `t` port `p` has taken the header of `f`, sent what it could and received nothing else. -/
structure HeaderStep (p : Nat) (f : Flit) (s t : State) : Prop where
  taken : HeaderTaken (portOf s p) (portOf t p) f []
  receiver : SameReceiver (portOf s p) (portOf t p)
  others : OtherPorts p s t
  drops : FageDrops p s t
  epoch : t.fab.epoch = s.fab.epoch
  only : Only [.engines, .fab] s t

theorem headerStep_takeHeader (s : State) (p : Nat) (f : Flit) : HeaderStep p f s (takeHeader s p f) := by
  have honly := (takeHeader_keeps s p f).only
  rw [takeHeader_eq] at honly ⊢
  obtain ⟨sent, hport, hroom, hallowed, hothers, hdrops, hepoch⟩ := transmits_pumpPort (updPort s p fun a => acknowledged a f) p
  rw [portOf_updPort_self, acknowledged_eq] at hport hroom hallowed
  refine ⟨?_, ?_, (otherPorts_updPort s p _).trans hothers, hdrops, hepoch, honly⟩
  · refine ⟨(takeAck (portOf s p) f).held, sent, ?_⟩
    rw [hport]
    exact ⟨rfl, (List.append_nil _).symm, rfl, takeAck_held _ _, hroom, hallowed⟩
  · rw [SameReceiver, hport]

/-- What a port does after it has taken a header keeps what the header brought, but for the flits it puts on the wire. -/
theorem HeaderTaken.then_wire {a b c : Port} {f : Flit} {extra : List Flit} (h : HeaderTaken a b f []) (hheld : c.held = b.held)
    (hwire : c.wire = b.wire ++ extra) (hxoff : c.txXoff = b.txXoff) : HeaderTaken a c f extra := by
  obtain ⟨kept, sent, hb, hbwire, hbxoff, hacked, hroom, hsent⟩ := h
  refine ⟨kept, sent, hheld.trans hb, ?_, hxoff.trans hbxoff, hacked, hheld ▸ hroom, hsent⟩
  rw [hwire, hbwire, List.append_nil]

/-! ## A port that leaves ACTIVE -/

theorem portOf_enterState_self (s : State) (p st : Nat) : portOf (enterState s p st) p =
    { portOf s p with state := st, since := s.now, settled := (portOf s p).settled || st == psActive || st == psFailed } := by
  rw [enterState, (portChanged_keeps _ p).only.portOf (by decide), portOf_updPort_self]

theorem otherPorts_enterState (s : State) (p st : Nat) : OtherPorts p s (enterState s p st) := fun q hq => by
  rw [enterState, (portChanged_keeps _ p).only.portOf (by decide), otherPorts_updPort s p _ q hq]

theorem portOf_failPort_self (s : State) (p reason : Nat) : portOf (failPort s p reason) p =
    { portOf s p with failReason := reason, state := psFailed, since := s.now, settled := true } := by
  unfold failPort
  dsimp only
  rw [(devEvent_keeps _ _ _ _ _).only.portOf (by decide), portOf_enterState_self, portOf_updPort_self]
  simp [psFailed]

theorem otherPorts_failPort (s : State) (p reason : Nat) : OtherPorts p s (failPort s p reason) := fun q hq => by
  unfold failPort
  dsimp only
  rw [(devEvent_keeps _ _ _ _ _).only.portOf (by decide), otherPorts_enterState _ p _ q hq, otherPorts_updPort s p _ q hq]

/-- What leaves a port on its departure: the flits held, what it has received in part and the packets that wait (R255, R256). -/
theorem portOf_departPort_self (s : State) (p reason : Nat) : portOf (departPort s p reason) p =
    { portOf s p with
      held := [], partial_ := [], partAt := [], txHead := [], txq := [], leaves := s.now :: (portOf s p).leaves.take 2
      failReason := if reason = 0 then (portOf s p).failReason else reason
      lastReason := if reason = 0 then (portOf s p).lastReason else reason
      cnt := { (portOf s p).cnt with leaveActive := satAdd (portOf s p).cnt.leaveActive 1 32 } } := by
  simp only [departPort, unqueue, portOf_updEngine, portOf_updPort_self]

theorem otherPorts_departPort (s : State) (p reason : Nat) : OtherPorts p s (departPort s p reason) := fun q hq => by
  simp only [departPort, unqueue, portOf_updEngine]
  rw [otherPorts_updPort _ p _ q hq, otherPorts_updPort _ p _ q hq, portOf_updEngine]

/-- A port that leaves ACTIVE with a reason is as its departure left it, in the state it leaves for or in FAILED (R255). -/
theorem portOf_leaveActive_self (s : State) (p st : Nat) {reason : Nat} (hreason : reason ≠ 0) :
    ∃ dest, (dest = st ∨ dest = psFailed) ∧ portOf (leaveActive s p st reason) p =
      { portOf (departPort s p reason) p with
        state := dest, failReason := reason, since := (portOf (leaveActive s p st reason) p).since
        settled := (portOf (leaveActive s p st reason) p).settled } := by
  unfold leaveActive
  dsimp only
  split
  · refine ⟨psFailed, .inr rfl, ?_⟩
    rw [portOf_failPort_self, portOf_departPort_self]
    simp [hreason]
  · refine ⟨st, .inl rfl, ?_⟩
    rw [portOf_enterState_self, portOf_departPort_self]
    simp [hreason]

theorem otherPorts_leaveActive (s : State) (p st reason : Nat) : OtherPorts p s (leaveActive s p st reason) := by
  unfold leaveActive
  dsimp only
  split
  · exact (otherPorts_departPort s p reason).trans (otherPorts_failPort _ p _)
  · exact (otherPorts_departPort s p reason).trans (otherPorts_enterState _ p _)

end Sys2Proof.Machine
end

section
/-! Proof of the statement on the link layer (R243 to R249, Table 9.14): the XOFF bits by the fill of the receive buffer, a DATA flit in
each of its three places, a replay request, a flit that fails, and the counters of the error correction. -/

namespace Sys2Proof.Machine

/-! ## A bit set or cleared by addition -/

theorem bitOf_zero (m : Nat) : bitOf m 0 = (m % 2 == 1) := by
  rw [bitOf, Nat.pow_zero, Nat.div_one]

theorem bitOf_succ (m k : Nat) : bitOf m (k + 1) = bitOf (m / 2) k := by
  rw [bitOf, bitOf, Nat.pow_succ', Nat.div_div_eq_div_mul]

/-- A bit that has a value already. -/
theorem bitOf_eq_ite {m k : Nat} {b : Bool} (hbit : bitOf m k = b) (j : Nat) : bitOf m j = if j = k then b else bitOf m j := by
  split
  next hj => rw [hj, hbit]
  next => rfl

/-- A clear bit set by adding its weight. -/
theorem bitOf_add_two_pow {m k : Nat} (hclear : bitOf m k = false) (j : Nat) :
    bitOf (m + 2 ^ k) j = if j = k then true else bitOf m j := by
  induction k generalizing m j with
  | zero =>
    rw [bitOf_zero, beq_eq_false_iff_ne] at hclear
    cases j with
    | zero =>
      rw [bitOf_zero, if_pos rfl, beq_iff_eq]
      omega
    | succ j =>
      have hhalf : (m + 2 ^ 0) / 2 = m / 2 := by omega
      rw [bitOf_succ, hhalf, if_neg j.succ_ne_zero, bitOf_succ]
  | succ k ih =>
    rw [bitOf_succ] at hclear
    cases j with
    | zero =>
      have hparity : (m + 2 ^ (k + 1)) % 2 = m % 2 := by omega
      rw [bitOf_zero, hparity, if_neg (Nat.zero_ne_add_one k), bitOf_zero]
    | succ j =>
      have hhalf : (m + 2 ^ (k + 1)) / 2 = m / 2 + 2 ^ k := by omega
      rw [bitOf_succ, hhalf, ih hclear, bitOf_succ]
      simp only [Nat.add_right_cancel_iff]

/-- Adding a bit's weight turns it. -/
theorem bitOf_add_two_pow_self (m k : Nat) : bitOf (m + 2 ^ k) k = !bitOf m k := by
  rw [bitOf, bitOf, Nat.add_div_right m (Nat.two_pow_pos k)]
  rcases Nat.mod_two_eq_zero_or_one (m / 2 ^ k) with h | h <;> simp [h, Nat.add_mod]

/-- A set bit cleared by taking its weight away. -/
theorem bitOf_sub_two_pow {m k : Nat} (hset : bitOf m k = true) (j : Nat) :
    bitOf (m - 2 ^ k) j = if j = k then false else bitOf m j := by
  have hle : 2 ^ k ≤ m := Nat.le_of_not_lt fun hlt => by simp [bitOf, Nat.div_eq_of_lt hlt] at hset
  obtain ⟨n, rfl⟩ := Nat.exists_eq_add_of_le' hle
  rw [bitOf_add_two_pow_self, Bool.not_eq_true'] at hset
  rw [Nat.add_sub_cancel, bitOf_add_two_pow hset]
  split
  next hj => rw [hj, hset]
  next => rfl

/-! ## XOFF by the fill of the receive buffer (R249, Table 9.6) -/

/-- A stream's XOFF bit by its fill: raised from 96 flits on, cleared up to 32, else as it was. -/
def xoffBit (fill : Nat) (was : Bool) : Bool := if 96 ≤ fill then true else if fill ≤ 32 then false else was

/-- The XOFF bits after one stream's fill is noted. -/
def noteFill (fill : Nat → Nat) (m st : Nat) : Nat :=
  if 96 ≤ fill st then (if bitOf m st then m else m + 2 ^ st)
  else if fill st ≤ 32 then (if bitOf m st then m - 2 ^ st else m)
  else m

theorem bitOf_noteFill (fill : Nat → Nat) (m st j : Nat) :
    bitOf (noteFill fill m st) j = if j = st then xoffBit (fill st) (bitOf m st) else bitOf m j := by
  unfold noteFill xoffBit
  by_cases hhigh : 96 ≤ fill st
  · rw [if_pos hhigh, if_pos hhigh]
    cases hbit : bitOf m st with
    | true => exact bitOf_eq_ite hbit j
    | false => exact bitOf_add_two_pow hbit j
  · by_cases hlow : fill st ≤ 32
    · rw [if_neg hhigh, if_neg hhigh, if_pos hlow, if_pos hlow]
      cases hbit : bitOf m st with
      | true => exact bitOf_sub_two_pow hbit j
      | false => exact bitOf_eq_ite hbit j
    · rw [if_neg hhigh, if_neg hhigh, if_neg hlow, if_neg hlow]
      exact bitOf_eq_ite rfl j

/-- Every stream of a list without repeats is noted once. -/
theorem bitOf_noteFills (fill : Nat → Nat) {streams : List Nat} (hnodup : streams.Nodup) (m j : Nat) :
    bitOf (streams.foldl (noteFill fill) m) j = if j ∈ streams then xoffBit (fill j) (bitOf m j) else bitOf m j := by
  induction streams generalizing m with
  | nil => rfl
  | cons st streams ih =>
    obtain ⟨hst, hstreams⟩ := List.nodup_cons.mp hnodup
    rw [List.foldl_cons, ih hstreams, bitOf_noteFill]
    by_cases hj : j = st
    · subst hj
      simp [hst]
    · simp [hj]

/-- The fill of one stream of a port. -/
def portFill (s : State) (p st : Nat) : Nat := occStream (engineOf s (p / 3)) (portOf s p) p st

theorem noteRxXoff_eq (s : State) (p : Nat) :
    noteRxXoff s p = updPort s p fun a => { a with rxXoff := (List.range 8).foldl (noteFill (portFill s p)) a.rxXoff } := rfl

theorem portOf_noteRxXoff_self (s : State) (p : Nat) : portOf (noteRxXoff s p) p =
    { portOf s p with rxXoff := (portOf (noteRxXoff s p) p).rxXoff } := by
  rw [noteRxXoff_eq, portOf_updPort_self]

theorem otherPorts_noteRxXoff (s : State) (p : Nat) : OtherPorts p s (noteRxXoff s p) := otherPorts_updPort s p _

theorem engineOf_noteRxXoff (s : State) (p d : Nat) : engineOf (noteRxXoff s p) d = engineOf s d := rfl

theorem xoffFollows_noteRxXoff (s : State) (p : Nat) : XoffFollows p s (noteRxXoff s p) := by
  intro st hst
  have hfill : occStream (engineOf (noteRxXoff s p) (p / 3)) (portOf (noteRxXoff s p) p) p st = portFill s p st := by
    rw [portOf_noteRxXoff_self]
    rfl
  rw [hfill, noteRxXoff_eq, portOf_updPort_self, bitOf_noteFills _ List.nodup_range, if_pos (List.mem_range.mpr hst)]
  rfl

/-- Where the XOFF bits were speaks for any state that had the same. -/
theorem XoffFollows.of_rxXoff_eq {p : Nat} {r s t : State} (h : XoffFollows p s t) (hsame : (portOf s p).rxXoff = (portOf r p).rxXoff) :
    XoffFollows p r t := by
  unfold XoffFollows at h ⊢
  rwa [hsame] at h

/-! ## A DATA flit (R247) -/

/-- A stream gives no packet, or one that carries the port and then those of what is left. -/
theorem parseStream_succ_cases (v1 : Bool) (port lane n : Nat) (l : List Byte) :
    (parseStream v1 port lane (n + 1) l).1 = [] ∨
      ∃ x left, x.port = port ∧ (parseStream v1 port lane (n + 1) l).1 = x :: (parseStream v1 port lane n left).1 := by
  rw [parseStream]
  dsimp only
  generalize (if v1 = true then 1 else 2) = version
  generalize (if v1 = true then ofLe (l.take (prefixLen v1)) / 2 ^ 60 else ofLe (l.take (prefixLen v1)) / 2 ^ 124) = found
  split
  · exact .inl rfl
  split
  · exact .inl rfl
  split
  · exact .inl rfl
  split
  · exact .inl rfl
  refine .inr ⟨_, _, ?_, rfl⟩
  split <;> rfl

/-- Packets read off a stream carry the port they came by. -/
theorem port_of_mem_parseStream {v1 : Bool} {port lane : Nat} (n : Nat) {l : List Byte} {x : FabPacket}
    (hx : x ∈ (parseStream v1 port lane n l).1) : x.port = port := by
  induction n generalizing l with
  | zero => exact absurd hx List.not_mem_nil
  | succ n ih =>
    obtain hnone | ⟨y, left, hy, hcons⟩ := parseStream_succ_cases v1 port lane n l
    · rw [hnone] at hx
      exact absurd hx List.not_mem_nil
    · rw [hcons] at hx
      rcases List.mem_cons.mp hx with rfl | hlater
      · exact hy
      · exact ih hlater

/-- The stream of a flit as it came. -/
def rxStream (f : Flit) : Nat := streamOf (f.vc % 4) (f.flane % 2)

/-- A port that has accepted the DATA flit `f`: counted in its stream, and EXPECTED one on. -/
def accepted (a : Port) (f : Flit) : Port :=
  { a with
    expected := (a.expected + 1) % 4096, rxSeen := sset 0 a.rxSeen (rxStream f) (sget 0 a.rxSeen (rxStream f) + 1)
    cnt := { a.cnt with flitsRx := sset 0 a.cnt.flitsRx (rxStream f) (satAdd (sget 0 a.cnt.flitsRx (rxStream f)) 1 48) } }

theorem accepted_rxSeen (a : Port) (f : Flit) :
    sget 0 (accepted a f).rxSeen (rxStream f) = sget 0 a.rxSeen (rxStream f) + 1 :=
  sget_sset_self 0 a.rxSeen (rxStream f) (sget 0 a.rxSeen (rxStream f) + 1)

theorem accepted_flitsRx (a : Port) (f : Flit) :
    sget 0 (accepted a f).cnt.flitsRx (rxStream f) = satAdd (sget 0 a.cnt.flitsRx (rxStream f)) 1 48 := sget_sset_self 0 _ _ _

/-- From `s` to `t` port `p` has accepted the DATA flit `f`, and the packets that are whole with it stand at the gateway of the die. -/
structure FlitAccepted (p : Nat) (f : Flit) (s t : State) : Prop where
  port : portOf t p = { accepted (portOf s p) f with
    partial_ := (portOf t p).partial_, partAt := (portOf t p).partAt, rxXoff := (portOf t p).rxXoff }
  gateway : ∃ l, (engineOf t (p / 3)).ingress = (engineOf s (p / 3)).ingress ++ l ∧
    ∀ x ∈ l, x.port = p ∧ x.epoch = b2n s.fab.epoch ∧ x.since = s.now
  xoff : XoffFollows p s t
  others : OtherPorts p s t

/-- A flit accepted at a port and whole packets at its gateway, before the XOFF bits are noted again. -/
def acceptedBefore (s : State) (p : Nat) (f : Flit) (partial_ : List (Nat × List Byte)) (partAt : List (Nat × Nat)) (l : List FabPacket) :
    State :=
  updEngine (updPort s p fun a => { accepted a f with partial_ := partial_, partAt := partAt }) (p / 3)
    fun e => { e with ingress := e.ingress ++ l }

theorem acceptData_eq (s : State) (p : Nat) (f : Flit) : ∃ partial_ partAt l,
    acceptData s p f = noteRxXoff (acceptedBefore s p f partial_ partAt l) p ∧
      ∀ x ∈ l, x.port = p ∧ x.epoch = b2n s.fab.epoch ∧ x.since = s.now := by
  refine ⟨_, _, _, rfl, fun x hx => ?_⟩
  obtain ⟨y, hy, rfl⟩ := List.mem_map.mp hx
  exact ⟨port_of_mem_parseStream (x := y.2) 4 (List.of_mem_zip hy).2, rfl, rfl⟩

theorem portOf_acceptedBefore_self (s : State) (p : Nat) (f : Flit) (partial_ : List (Nat × List Byte)) (partAt : List (Nat × Nat))
    (l : List FabPacket) : portOf (acceptedBefore s p f partial_ partAt l) p =
      { accepted (portOf s p) f with partial_ := partial_, partAt := partAt } :=
  portOf_updPort_self s p fun a => { accepted a f with partial_ := partial_, partAt := partAt }

theorem otherPorts_acceptedBefore (s : State) (p : Nat) (f : Flit) (partial_ : List (Nat × List Byte)) (partAt : List (Nat × Nat))
    (l : List FabPacket) : OtherPorts p s (acceptedBefore s p f partial_ partAt l) :=
  otherPorts_updPort s p fun _ => _

theorem flitAccepted_acceptData (s : State) (p : Nat) (f : Flit) : FlitAccepted p f s (acceptData s p f) := by
  obtain ⟨partial_, partAt, l, haccept, hl⟩ := acceptData_eq s p f
  have hport := portOf_acceptedBefore_self s p f partial_ partAt l
  rw [haccept]
  refine ⟨?_, ⟨l, ?_, hl⟩, (xoffFollows_noteRxXoff _ p).of_rxXoff_eq ?_,
    (otherPorts_acceptedBefore s p f partial_ partAt l).trans (otherPorts_noteRxXoff _ p)⟩
  · rw [portOf_noteRxXoff_self, hport]
  · rw [engineOf_noteRxXoff, acceptedBefore, engineOf_updEngine, if_pos rfl, engineOf_updPort]
  · rw [hport]
    rfl

/-- A REPLAY_REQ for the flit now expected went out within the last 2 µs. -/
def RequestedLately (a : Port) (now : Nat) : Prop := a.reqSeq = a.expected ∧ ∃ x, a.reqAt = some x ∧ now - x < 4000

/-- A request that went out lately is not repeated. -/
theorem portOf_requestReplay_of_lately {s : State} {p : Nat} (h : RequestedLately (portOf s p) s.now) :
    portOf (requestReplay s p) p = portOf s p := by
  obtain ⟨hseq, x, hat, hx⟩ := h
  rw [requestReplay, portOf_updPort_self]
  simp [hseq, hat, hx]

/-- Else REPLAY_REQ(EXPECTED) goes out and its time is noted. -/
theorem portOf_requestReplay_of_not_lately {s : State} {p : Nat} (h : ¬ RequestedLately (portOf s p) s.now) :
    portOf (requestReplay s p) p = { portOf s p with
      wire := (portOf s p).wire ++ [flitOf (portOf s p) 2 0 0 (portOf s p).expected 0xFF []]
      reqSeq := (portOf s p).expected, reqAt := some s.now
      cnt := { (portOf s p).cnt with replayTx := satAdd (portOf s p).cnt.replayTx 1 32 } } := by
  rw [requestReplay, portOf_updPort_self]
  refine if_neg fun hlately => h ?_
  obtain ⟨hseq, hat⟩ := Bool.and_eq_true_iff.mp hlately
  split at hat
  next x hx => exact ⟨beq_iff_eq.mp hseq, x, hx, of_decide_eq_true hat⟩
  next => exact absurd hat Bool.false_ne_true

theorem otherPorts_requestReplay (s : State) (p : Nat) : OtherPorts p s (requestReplay s p) := otherPorts_updPort s p _

/-- The distance of R247 from the flit expected. -/
def seqDistance (a : Port) (f : Flit) : Nat := (f.seq + 4096 - a.expected) % 4096

/-- Taking the header does not move EXPECTED, so the distance is that of the state before. -/
theorem flitData_eq (s : State) (p : Nat) (f : Flit) : flitData s p f =
    if seqDistance (portOf s p) f = 0 then acceptData (takeHeader s p f) p f
    else if seqDistance (portOf s p) f ≤ 2047 then requestReplay (takeHeader s p f) p
    else updPort (takeHeader s p f) p fun a => { a with cnt := { a.cnt with dupFlit := satAdd a.cnt.dupFlit 1 32 } } := by
  have hexpected : (portOf (takeHeader s p f) p).expected = (portOf s p).expected := by
    rw [(headerStep_takeHeader s p f).receiver]
  unfold flitData seqDistance
  dsimp only
  rw [hexpected]

/-! ## A replay request (R248) -/

/-- How many requests for one flit have come without an advance, this one counted. -/
def requestCount (a : Port) (f : Flit) : Nat :=
  if (acknowledged a f).gotSeq = f.seq then (acknowledged a f).gotCount + 1 else 1

/-- A port that has noted a replay request. -/
def requested (a : Port) (f : Flit) : Port :=
  { acknowledged a f with
    gotSeq := f.seq, gotCount := requestCount a f
    cnt := { (acknowledged a f).cnt with replayRx := satAdd (acknowledged a f).cnt.replayRx 1 32 } }

/-- The block whose port `p` has noted a replay request. -/
def noteRequest (s : State) (p : Nat) (f : Flit) : State := updPort s p fun a => requested a f

theorem portOf_noteRequest_self (s : State) (p : Nat) (f : Flit) : portOf (noteRequest s p f) p = requested (portOf s p) f :=
  portOf_updPort_self s p _

theorem otherPorts_noteRequest (s : State) (p : Nat) (f : Flit) : OtherPorts p s (noteRequest s p f) := otherPorts_updPort s p _

/-- A port that has put the held flits `again` on the wire once more, with the newest ACK_SEQ and XOFF bits. -/
def resent (a : Port) (again : List Flit) : Port :=
  { a with
    wire := a.wire ++ again.map fun y => { y with ackSeq := (a.expected + 4095) % 4096, xoff := a.rxXoff }
    cnt := { a.cnt with replayed := satAdd a.cnt.replayed again.length 48 } }

/-- A request is answered by the place of the flit asked for among those held, and by the count of requests. -/
theorem replayReq_eq (s : State) (p : Nat) (f : Flit) : replayReq s p f =
    (firstIdx (fun x : Flit => x.seq == f.seq) (takeAck (portOf s p) f).held).elim
      (leaveActive (noteRequest s p f) p psRetrain 0x0A) fun i =>
        if 8 ≤ requestCount (portOf s p) f then leaveActive (noteRequest s p f) p psRetrain 0x0A
        else pumpPort (updPort (noteRequest s p f) p fun a => resent a ((takeAck (portOf s p) f).held.drop i)) p := by
  have hheld : (portOf (noteRequest s p f) p).held = (takeAck (portOf s p) f).held := by
    rw [portOf_noteRequest_self]
    rfl
  have hcount : (portOf (noteRequest s p f) p).gotCount = requestCount (portOf s p) f := by
    rw [portOf_noteRequest_self]
    rfl
  rw [← hheld, ← hcount]
  change (match firstIdx (fun x : Flit => x.seq == f.seq) (portOf (noteRequest s p f) p).held with
    | none => leaveActive (noteRequest s p f) p psRetrain 0x0A
    | some i =>
      if 8 ≤ (portOf (noteRequest s p f) p).gotCount then leaveActive (noteRequest s p f) p psRetrain 0x0A
      else pumpPort (updPort (noteRequest s p f) p fun a => resent a ((portOf (noteRequest s p f) p).held.drop i)) p) = _
  cases firstIdx (fun x : Flit => x.seq == f.seq) (portOf (noteRequest s p f) p).held with
  | none => rw [Option.elim_none]
  | some i => rw [Option.elim_some]

/-- A flit that is not held, or is asked for the eighth time, sends the port to RETRAIN. -/
theorem replayReq_of_lost {s : State} {p : Nat} {f : Flit}
    (h : (∀ x ∈ (takeAck (portOf s p) f).held, x.seq ≠ f.seq) ∨ 8 ≤ requestCount (portOf s p) f) :
    replayReq s p f = leaveActive (noteRequest s p f) p psRetrain 0x0A := by
  rw [replayReq_eq]
  rcases h with hlost | hcount
  · rw [firstIdx_eq_none fun x hx => beq_false_of_ne (hlost x hx), Option.elim_none]
  · simp only [if_pos hcount]
    cases firstIdx (fun x : Flit => x.seq == f.seq) (takeAck (portOf s p) f).held with
    | none => exact Option.elim_none ..
    | some i => exact Option.elim_some ..

/-- Else the held flits from the one asked for on go out again, and then new ones. -/
theorem replayReq_of_held {s : State} {p : Nat} {f x : Flit} {before rest : List Flit}
    (hheld : (takeAck (portOf s p) f).held = before ++ x :: rest) (hbefore : ∀ y ∈ before, y.seq ≠ f.seq) (hx : x.seq = f.seq)
    (hcount : requestCount (portOf s p) f < 8) :
    replayReq s p f = pumpPort (updPort (noteRequest s p f) p fun a => resent a (x :: rest)) p := by
  rw [replayReq_eq, hheld, firstIdx_append rest (fun y hy => beq_false_of_ne (hbefore y hy)) (beq_iff_eq.mpr hx), Option.elim_some,
    if_neg (Nat.not_le.mpr hcount), List.drop_left]

/-! ## Flits that fail, and the forward error correction -/

theorem noteFec_nothing (s : State) (p : Nat) : noteFec s p ⟨[], 0⟩ = s := if_pos rfl

theorem portOf_crcFail_self (s : State) (p : Nat) : portOf (crcFail s p) p =
    { portOf s p with cnt := { (portOf s p).cnt with crcFail := satAdd (portOf s p).cnt.crcFail 1 32 } } :=
  portOf_updPort_self s p _

theorem otherPorts_crcFail (s : State) (p : Nat) : OtherPorts p s (crcFail s p) := otherPorts_updPort s p _

/-- What the correction did on one lane is added to that lane's counter. -/
theorem portOf_noteFec_self (s : State) (p : Nat) {lane : Nat} (hlane : lane < 4) (n u : Nat) :
    portOf (noteFec s p ⟨[(lane, n)], u⟩) p = { portOf s p with cnt := { (portOf s p).cnt with
      fecCorr := sset 0 (portOf s p).cnt.fecCorr lane (satAdd (sget 0 (portOf s p).cnt.fecCorr lane) n 48)
      fecUncorr := satAdd (portOf s p).cnt.fecUncorr u 32 } } := by
  rw [noteFec, if_neg (by simp), portOf_updPort_self]
  simp [hlane]

theorem otherPorts_noteFec (s : State) (p : Nat) (x : FecSeen) : OtherPorts p s (noteFec s p x) := by
  unfold noteFec
  split
  · exact .refl p s
  · exact otherPorts_updPort s p _

/-! ## The rows of a port -/

section Rows

variable {p : Nat} (hp : p < 12)
include hp

theorem exec_flitDataRx (s : State) (f : Flit) (raw : List Byte) (fec : FecSeen) :
    exec (.flitDataRx p f raw fec) s = .next (flitIn (noteFec s p fec) p 0 f raw fun s f => flitData s p f) :=
  needUnit_ok (decide_eq_true hp)

theorem exec_flitIdleRx (s : State) (f : Flit) (raw : List Byte) (fec : FecSeen) :
    exec (.flitIdleRx p f raw fec) s = .next (flitIn (noteFec s p fec) p 1 f raw fun s f => takeHeader s p f) :=
  needUnit_ok (decide_eq_true hp)

theorem exec_replayReqRx (s : State) (f : Flit) (raw : List Byte) (fec : FecSeen) :
    exec (.replayReqRx p f raw fec) s = .next (flitIn (noteFec s p fec) p 2 f raw fun s f => replayReq s p f) :=
  needUnit_ok (decide_eq_true hp)

theorem exec_flitCrcFail (s : State) (fec : FecSeen) : exec (.flitCrcFail p fec) s = .next (crcFail (noteFec s p fec) p) :=
  needUnit_ok (decide_eq_true hp)

end Rows

section Flits

variable {s : State} {p ftype : Nat} {f : Flit} {k : State → Flit → State}

theorem flitIn_of_type (hactive : (portOf s p).state = psActive) (hlow : ftype < 4) (htype : f.ftype = ftype) :
    flitIn s p ftype f [] k = k s f := by
  simp [flitIn, flitRx, isActive, hactive, htype, Nat.not_le.mpr hlow]

theorem flitIn_of_reserved (hactive : (portOf s p).state = psActive) (hreserved : 4 ≤ f.ftype) :
    flitIn s p ftype f [] k = crcFail s p := by
  simp [flitIn, flitRx, isActive, hactive, hreserved]

theorem flitIn_of_not_active (hstate : (portOf s p).state ≠ psActive) : flitIn s p ftype f [] k = s := by
  simp [flitIn, flitRx, isActive, hstate]

/-- 256 bytes whose CRC passes are the flit that they hold. -/
theorem flitIn_of_readFlit {raw : List Byte} {g : Flit} (hraw : raw ≠ []) (hread : readFlit raw = some g) :
    flitIn s p ftype f raw k = flitIn s p ftype g [] k := by
  obtain ⟨b, bs, rfl⟩ := List.exists_cons_of_ne_nil hraw
  simp [flitIn, hread]

theorem flitIn_of_unreadable {raw : List Byte} (hactive : (portOf s p).state = psActive) (hraw : raw ≠ [])
    (hread : readFlit raw = none) : flitIn s p ftype f raw k = crcFail s p := by
  obtain ⟨b, bs, rfl⟩ := List.exists_cons_of_ne_nil hraw
  simp [flitIn, hread, isActive, hactive]

end Flits

/-! ## The clauses of the statement -/

theorem otherPorts_flitData (s : State) (p : Nat) (f : Flit) : OtherPorts p s (flitData s p f) := by
  have hheader := (headerStep_takeHeader s p f).others
  rw [flitData_eq]
  split
  · exact hheader.trans (flitAccepted_acceptData _ p f).others
  split
  · exact hheader.trans (otherPorts_requestReplay _ p)
  · exact hheader.trans (otherPorts_updPort _ p _)

/-- A DATA flit in its turn is accepted. -/
theorem flitData_in_turn {s : State} {p : Nat} {f : Flit} (hturn : seqDistance (portOf s p) f = 0) :
    HeaderTaken (portOf s p) (portOf (flitData s p f) p) f [] ∧
      (portOf (flitData s p f) p).expected = ((portOf s p).expected + 1) % 4096 ∧
      sget 0 (portOf (flitData s p f) p).rxSeen (rxStream f) = sget 0 (portOf s p).rxSeen (rxStream f) + 1 ∧
      sget 0 (portOf (flitData s p f) p).cnt.flitsRx (rxStream f) = satAdd (sget 0 (portOf s p).cnt.flitsRx (rxStream f)) 1 48 ∧
      (∃ l, (engineOf (flitData s p f) (p / 3)).ingress = (engineOf s (p / 3)).ingress ++ l ∧
        ∀ x ∈ l, x.port = p ∧ x.epoch = b2n s.fab.epoch ∧ x.since = s.now) ∧
      XoffFollows p s (flitData s p f) := by
  obtain ⟨htaken, hreceiver, -, hdrops, hepoch, honly⟩ := headerStep_takeHeader s p f
  rw [flitData_eq, if_pos hturn]
  obtain ⟨hport, hgateway, hxoff, -⟩ := flitAccepted_acceptData (takeHeader s p f) p f
  have hnow : (takeHeader s p f).now = s.now := honly .now (by decide)
  rw [hdrops.ingress, hepoch, hnow] at hgateway
  refine ⟨htaken.then_wire ?_ ?_ ?_, ?_, ?_, ?_, hgateway, hxoff.of_rxXoff_eq ?_⟩
  · rw [hport]; rfl
  · rw [hport]; exact (List.append_nil _).symm
  · rw [hport]; rfl
  · rw [hport, hreceiver]; rfl
  · rw [hport, hreceiver]; exact accepted_rxSeen _ f
  · rw [hport, hreceiver]; exact accepted_flitsRx _ f
  · rw [hreceiver]

/-- A later flit is asked for again, unless that was done lately. -/
theorem flitData_ahead {s : State} {p : Nat} {f : Flit} (hahead : 0 < seqDistance (portOf s p) f)
    (hnear : seqDistance (portOf s p) f ≤ 2047) :
    (portOf (flitData s p f) p).expected = (portOf s p).expected ∧ FageDrops p s (flitData s p f) ∧
      (portOf (flitData s p f) p).reqSeq = (portOf s p).expected ∧
      (RequestedLately (portOf s p) s.now → HeaderTaken (portOf s p) (portOf (flitData s p f) p) f [] ∧
        (portOf (flitData s p f) p).reqAt = (portOf s p).reqAt ∧
        (portOf (flitData s p f) p).cnt.replayTx = (portOf s p).cnt.replayTx) ∧
      (¬ RequestedLately (portOf s p) s.now → ∃ r, HeaderTaken (portOf s p) (portOf (flitData s p f) p) f [r] ∧ r.ftype = 2 ∧
        r.seq = (portOf s p).expected ∧ (portOf (flitData s p f) p).reqAt = some s.now ∧
        (portOf (flitData s p f) p).cnt.replayTx = satAdd (portOf s p).cnt.replayTx 1 32) := by
  obtain ⟨htaken, hreceiver, -, hdrops, -, honly⟩ := headerStep_takeHeader s p f
  rw [flitData_eq, if_neg (Nat.ne_of_gt hahead), if_pos hnear]
  have hfage : FageDrops p s (requestReplay (takeHeader s p f) p) :=
    hdrops.trans (.of_only (requestReplay_keeps _ p).only (by decide))
  have hnow : (takeHeader s p f).now = s.now := honly .now (by decide)
  have hsame : RequestedLately (portOf (takeHeader s p f) p) (takeHeader s p f).now ↔ RequestedLately (portOf s p) s.now := by
    rw [hnow, hreceiver]
    rfl
  by_cases hlately : RequestedLately (portOf s p) s.now
  · rw [portOf_requestReplay_of_lately (hsame.mpr hlately)]
    refine ⟨?_, hfage, ?_, fun _ => ⟨htaken, ?_, ?_⟩, fun hnot => absurd hlately hnot⟩
    · rw [hreceiver]
    · rw [hreceiver]; exact hlately.1
    · rw [hreceiver]
    · rw [hreceiver]
  · rw [portOf_requestReplay_of_not_lately (mt hsame.mp hlately)]
    refine ⟨?_, hfage, ?_, fun hyes => absurd hyes hlately, fun _ => ⟨_, htaken.then_wire rfl rfl rfl, rfl, ?_, ?_, ?_⟩⟩
    · rw [hreceiver]
    · rw [hreceiver]
    · rw [hreceiver]; rfl
    · rw [hnow]
    · rw [hreceiver]

/-- An older flit is a duplicate. -/
theorem flitData_behind {s : State} {p : Nat} {f : Flit} (hbehind : 2047 < seqDistance (portOf s p) f) :
    HeaderTaken (portOf s p) (portOf (flitData s p f) p) f [] ∧
      (portOf (flitData s p f) p).expected = (portOf s p).expected ∧ FageDrops p s (flitData s p f) ∧
      (portOf (flitData s p f) p).cnt.dupFlit = satAdd (portOf s p).cnt.dupFlit 1 32 := by
  obtain ⟨htaken, hreceiver, -, hdrops, -, -⟩ := headerStep_takeHeader s p f
  rw [flitData_eq, if_neg (by omega), if_neg (Nat.not_le.mpr hbehind), portOf_updPort_self]
  refine ⟨htaken.then_wire rfl (List.append_nil _).symm rfl, ?_, hdrops.trans (.of_only (updPort_keeps _ p _).only (by decide)), ?_⟩
  · rw [hreceiver]
  · rw [hreceiver]

theorem requested_eq (a : Port) (f : Flit) : requested a f =
    { a with
      held := (takeAck a f).held, gotSeq := f.seq, gotCount := requestCount a f, txXoff := f.xoff
      cnt := { a.cnt with replayRx := satAdd a.cnt.replayRx 1 32 } } := by
  rw [requested, acknowledged_eq]

/-- A port that cannot serve a replay request leaves ACTIVE with nothing held. -/
theorem replayReq_lost_effect {s : State} {p : Nat} {f : Flit}
    (hlost : (∀ x ∈ (takeAck (portOf s p) f).held, x.seq ≠ f.seq) ∨ 8 ≤ requestCount (portOf s p) f) :
    (portOf (replayReq s p f) p).failReason = 0x0A ∧ (portOf (replayReq s p f) p).held = [] ∧ OtherPorts p s (replayReq s p f) ∧
      ((portOf (replayReq s p f) p).state = psRetrain ∨ (portOf (replayReq s p f) p).state = psFailed) ∧
      (portOf (replayReq s p f) p).cnt.replayRx = satAdd (portOf s p).cnt.replayRx 1 32 := by
  rw [replayReq_of_lost hlost]
  obtain ⟨dest, hdest, hport⟩ := portOf_leaveActive_self (noteRequest s p f) p psRetrain (reason := 0x0A) (by decide)
  rw [portOf_departPort_self, portOf_noteRequest_self, requested_eq] at hport
  refine ⟨?_, ?_, (otherPorts_noteRequest s p f).trans (otherPorts_leaveActive _ p _ _), ?_, ?_⟩
  · rw [hport]
  · rw [hport]
  · rw [hport]; exact hdest
  · rw [hport]

/-- A replay request served from the held flits. -/
theorem replayReq_held_effect {s : State} {p : Nat} {f x : Flit} {before rest : List Flit}
    (hheld : (takeAck (portOf s p) f).held = before ++ x :: rest) (hbefore : ∀ y ∈ before, y.seq ≠ f.seq) (hx : x.seq = f.seq)
    (hcount : requestCount (portOf s p) f < 8) :
    let a := acknowledged (portOf s p) f
    let t := replayReq s p f
    OtherPorts p s t ∧ Only [.engines, .fab] s t ∧ FageDrops p s t ∧ (portOf t p).state = (portOf s p).state ∧
      (portOf t p).gotCount = requestCount (portOf s p) f ∧ (portOf t p).gotSeq = f.seq ∧
      (∃ new, (portOf t p).held = a.held ++ new ∧ (∀ y ∈ new, y.ftype = 0 ∧ bitOf f.xoff (streamOf y.vc y.flane) = false) ∧
        (portOf t p).wire =
          a.wire ++ (x :: rest).map (fun y => { y with ackSeq := (a.expected + 4095) % 4096, xoff := a.rxXoff }) ++ new) ∧
      (portOf t p).cnt.replayRx = satAdd (portOf s p).cnt.replayRx 1 32 ∧
      (portOf t p).cnt.replayed = satAdd (portOf s p).cnt.replayed (rest.length + 1) 48 := by
  dsimp only
  rw [replayReq_of_held hheld hbefore hx hcount]
  have honly : Only [.fab] s (updPort (noteRequest s p f) p fun a => resent a (x :: rest)) :=
    (updPort_keeps s p _).only.trans (updPort_keeps _ p _).only
  obtain ⟨new, hport, -, hallowed, hothers, hdrops, -⟩ :=
    transmits_pumpPort (updPort (noteRequest s p f) p fun a => resent a (x :: rest)) p
  rw [portOf_updPort_self, portOf_noteRequest_self] at hport hallowed
  refine ⟨((otherPorts_noteRequest s p f).trans (otherPorts_updPort _ p _)).trans hothers,
    (honly.mono (by decide)).trans (pumpPort_keeps _ p).only,
    (FageDrops.of_only honly (by decide)).trans hdrops, ?_, ?_, ?_, ⟨new, ?_, hallowed, ?_⟩, ?_, ?_⟩
  · rw [hport, requested_eq]; rfl
  · rw [hport]; rfl
  · rw [hport]; rfl
  · rw [hport]; rfl
  · rw [hport]; rfl
  · rw [hport, requested_eq]; rfl
  · rw [hport, requested_eq]; rfl

/-- Settles O31: each row runs one operation of the port (R243), whose effect the lemmas above give. -/
theorem flitRowsTakeEffect : Obligations.FlitRowsTakeEffect := by
  refine ⟨fun s p f hp hactive htype => ?_, fun s p f hp hactive htype => ?_, fun s p hp => ?_, fun s p f hp hactive htype => ?_,
    fun s p f hp hactive hreserved => ?_, fun s p f raw hp hactive hraw => ?_, fun s p f raw lane n u hp hlane => ?_,
    fun s p f hp hstate => ?_⟩
  · refine ⟨flitData s p f, ?_, otherPorts_flitData s p f, (flitData_keeps s p f).only, flitData_in_turn,
      fun hahead hnear => ?_, flitData_behind⟩
    · rw [exec_flitDataRx hp, noteFec_nothing, flitIn_of_type hactive (by decide) htype]
    · obtain ⟨hexpected, hdrops, hreq, hlately, hnot⟩ := flitData_ahead hahead hnear
      refine ⟨hexpected, hdrops, hreq, ?_⟩
      split
      next h => exact hlately h
      next h => exact hnot h
  · obtain ⟨htaken, hreceiver, hothers, hdrops, -, honly⟩ := headerStep_takeHeader s p f
    refine ⟨takeHeader s p f, ?_, hothers, honly, hdrops, htaken, ?_⟩
    · rw [exec_flitIdleRx hp, noteFec_nothing, flitIn_of_type hactive (by decide) htype]
    · rw [hreceiver]
  · refine ⟨crcFail s p, ?_, otherPorts_crcFail s p, (crcFail_keeps s p).only, portOf_crcFail_self s p⟩
    rw [exec_flitCrcFail hp, noteFec_nothing]
  · have hexec : exec (.replayReqRx p f) s = .next (replayReq s p f) := by
      rw [exec_replayReqRx hp, noteFec_nothing, flitIn_of_type hactive (by decide) htype]
    refine ⟨fun hlost => ⟨_, hexec, replayReq_lost_effect hlost⟩, fun before x rest hheld hbefore hx hcount => ?_⟩
    obtain ⟨hothers, honly, hdrops, hstate, hkept⟩ := replayReq_held_effect hheld hbefore hx hcount
    exact ⟨_, hexec, hothers, honly, hdrops, hstate.trans hactive, hkept⟩
  · refine ⟨crcFail s p, ?_, otherPorts_crcFail s p, (crcFail_keeps s p).only, portOf_crcFail_self s p⟩
    rw [exec_flitDataRx hp, noteFec_nothing, flitIn_of_reserved hactive hreserved]
  · simp only [exec_flitDataRx hp, exec_flitIdleRx hp, exec_replayReqRx hp, exec_flitCrcFail hp, noteFec_nothing]
    refine ⟨fun g hread => ?_, fun hread => ?_⟩
    · simp only [flitIn_of_readFlit hraw hread, and_self]
    · simp only [flitIn_of_unreadable hactive hraw hread, and_self]
  · have hport := portOf_noteFec_self s p hlane n u
    simp only [exec_flitDataRx hp, exec_flitIdleRx hp, exec_replayReqRx hp, exec_flitCrcFail hp, noteFec_nothing]
    refine ⟨trivial, trivial, trivial, trivial, ?_, fun i => ?_, otherPorts_noteFec s p _, (noteFec_keeps s p _).only⟩
    · rw [hport]
    · rw [hport, sget_sset]
      split
      next hi => rw [hi]
      next => rfl
  · simp only [exec_flitDataRx hp, exec_flitIdleRx hp, exec_replayReqRx hp, noteFec_nothing, flitIn_of_not_active hstate, and_self]

end Sys2Proof.Machine
end
